-- ==== Sys2Proof/Word.lean ====
section
/-! DEFINITION. The word types of the Fyund: the digit that its memory counts in (R2), bytes, 64-bit
register words, and the numbers that name blocks, regions, partitions and host functions (R11-R13, R398). -/

namespace Sys2Proof

/-- The native unit of memory: four bits (00 *Digit and byte addresses*). -/
abbrev Digit := BitVec 4
abbrev Byte := BitVec 8
/-- A register word: every register is 32 or 64 bits; a 32-bit one is held zero-extended. -/
abbrev Word := BitVec 64
/-- A device digit address, twelve hexadecimal digits. -/
abbrev Addr := BitVec 48
/-- Logical block number b, 0-127 (R12). -/
abbrev Blk := BitVec 7
/-- Region number g, 0-15 (R12). -/
abbrev Rgn := BitVec 4
/-- Partition number, 0-15 (R51). -/
abbrev Part := BitVec 4
/-- Host function: 0 is the PF, n + 1 is VF n (R398). -/
abbrev Func := Fin 17

end Sys2Proof
end

