-- ==== Sys2Proof/Syntax.lean ====
section
/-! DEFINITION. The commands the Fyund takes: one constructor of Instr for each row of the spec's table of
operations and events, with the operands the row's rule names, and the types of those operands. -/

namespace Sys2Proof

/-- Who makes an access (R331, R457, R480, R491, R544): the rules on who may write which register name these. -/
inductive Initiator where
  /-- host software through a function's BARs -/
  | host (f : Func)
  /-- the Awl debug port -/
  | awl
  /-- a sequencer's LDX or STX -/
  | seq (b : Blk)
  /-- a DMA channel (false: channel 0, true: channel 1) -/
  | dma (b : Blk) (ch : Bool)
  /-- the security and management unit -/
  | security
  /-- the image engine -/
  | image
  /-- the epoch and concealment controller -/
  | controller
  /-- another device of the cascade, through a Rein port (R441) -/
  | rein (dev : BitVec 4)
  deriving DecidableEq, Repr, Inhabited

/-- What the check stages find in an access: the errors that memories, pairs and twins can show are events from
outside the logic, so a command that reads protected storage carries what its check stage finds (R25, R115, R312,
R322, R325). -/
inductive Upset where
  /-- no error -/
  | clean
  /-- an error the code corrects, at a place, in that many symbols -/
  | corrected (pos : BitVec 32) (symbols : BitVec 4)
  /-- an error the code detects and cannot correct, at a place -/
  | uncorrectable (pos : BitVec 32)
  /-- the two halves of the sequencer pair disagree (R28) -/
  | pair
  /-- the twin column disagrees with the twinned column (R119) -/
  | twin
  /-- control-store word parity (R298 CS_PARITY) -/
  | csParity
  /-- dispatch entry parity (R298 DT_PARITY) -/
  | dtParity
  deriving DecidableEq, Repr, Inhabited

/-- A port of a mesh router (R345). -/
inductive RPort where
  | n | e | s | w | l0 | l1
  deriving DecidableEq, Repr, Inhabited

/-- A flit: eight payload words (word 0 in the top bits), its check bytes, and whether it is a head flit (R349). -/
structure Flit where
  words : BitVec 512
  check : BitVec 64
  head : Bool
  deriving DecidableEq, Repr, Inhabited

/-- What a receiver's check bytes find in a flit (R362, R363). -/
inductive FlitUpset where
  /-- a single-bit error in word i: bit k of the word, or of its check byte from 64 on -/
  | single (i : BitVec 3) (k : Fin 72)
  /-- an uncorrectable word i -/
  | double (i : BitVec 3)
  deriving DecidableEq, Repr, Inhabited

/-- A flit on its way in: its channel and the flit (R349, R355). -/
structure FlitIn where
  vc : BitVec 2
  flit : Flit
  deriving DecidableEq, Repr, Inhabited

/-- What the decode of a DRAM word finds (R312). -/
inductive DramFind where
  /-- errors in these symbols of the codeword; none when the list is empty -/
  | errors (syms : List (Fin 74))
  /-- six or more wrong symbols that the decoder takes for errors in syms of a codeword with other data -/
  | miscorrected (data : BitVec 512) (syms : List (Fin 74))
  deriving DecidableEq, Repr, Inhabited

/-- A copy within region g has been read through the decoder: what the decode of its words finds, by their place in what is
copied (R312, R315, R379). -/
structure DramCopy where
  g : Rgn
  finds : List (BitVec 10 × DramFind) := []
  deriving DecidableEq, Repr, Inhabited

/-- The reload of region g's keys has ended: whether the decode found a mirror byte uncorrectable (R335). -/
structure KeyReload where
  g : Rgn
  bad : Bool := false
  deriving DecidableEq, Repr, Inhabited

/-- What a DRAM access finds: the key bytes of its frames that fail their parity, and the decode of its words in order
(R312, R334). -/
structure DramFinds where
  keys : List Bool
  words : List DramFind
  deriving DecidableEq, Repr, Inhabited

/-- An upset that has struck a word of a block's scratchpad or turn memory since the last access: its 64-bit word, and
whether two bits are wrong (R322, R325). -/
structure MemUpset where
  word : BitVec 16
  double : Bool
  deriving DecidableEq, Repr, Inhabited

/-- An upset that has struck a control store: bit k of the word, from 192 on of its parity, or a dispatch entry (R277,
R281). -/
inductive CsUpset where
  | bit (k : Fin 196)
  | entry (e : BitVec 8)
  deriving DecidableEq, Repr, Inhabited

/-- A read of the control store: the quarter of the word, and the upset that has struck since (R280). -/
structure CsQuarterRead where
  quarter : BitVec 2
  upset : Option CsUpset
  /-- the security unit reads, which sees the vendor words -/
  sec : Bool := false
  deriving DecidableEq, Repr, Inhabited

/-- An upset of a control store, and the word that it strikes. -/
structure CsStrike where
  word : BitVec 14
  upset : CsUpset
  deriving DecidableEq, Repr, Inhabited

/-- The trackers that issue tags (R359). -/
inductive Tracker where
  | gateway (g : Rgn)
  | host
  | security
  | awl
  | rein (y : BitVec 2)
  deriving DecidableEq, Repr, Inhabited

/-- A line write of a turn memory's port A in the cycle of a port B access (R319, R320). -/
structure PortA where
  line : BitVec 12
  mask : BitVec 1024
  data : BitVec 1024
  deriving DecidableEq, Repr, Inhabited

/-- The contenders for a scratchpad's idle cycles (R323). -/
inductive Contender where
  /-- a mesh request, by its transaction number -/
  | mesh (id : Nat)
  /-- channel 0 data -/
  | data0
  /-- a descriptor read or completion write of a channel -/
  | desc (ch : Bool)
  deriving DecidableEq, Repr, Inhabited

/-- A machine check as its ALARM carries it (R375, R528), with what the element's test finds (R375, R387). -/
structure MCheck where
  /-- SRC code of R394 -/
  src : BitVec 8
  /-- UNIT of R393 -/
  unit : BitVec 10
  /-- LOC of R393: plane, column, word or digit address -/
  loc : BitVec 64
  /-- the single failing column that the block's test finds, if any -/
  badCol : Option (Fin 144)
  /-- the twin, and not the live column, fails its test -/
  badTwin : Bool
  /-- the probed target, or the failed block's memories, still answer -/
  answers : Bool
  deriving DecidableEq, Repr, Inhabited

/-- An IDENT frame of a Rein port (R430). -/
structure IdentMsg where
  dev : BitVec 4
  posX : BitVec 2
  posY : BitVec 2
  lead : Bool
  /-- the CASCADE record's SHAPE and lead position, once an image has passed VERIFY -/
  record : Option (BitVec 8 × BitVec 4)
  deriving DecidableEq, Repr, Inhabited

/-- What a frame of DISP has the members of a cascade do (R433, R434): an instruction, or the lead's decision on one. -/
inductive DispAct where
  /-- the instruction is dispatched -/
  | start
  /-- it yields with this progress and this cause -/
  | yield (step : BitVec 16) (cause : BitVec 8)
  /-- the suspended instruction resumes; it goes on to its end -/
  | resume
  | go
  /-- it is abandoned -/
  | abandon
  /-- the program halts with this cause; the halt ends -/
  | halt (cause : BitVec 8)
  | release
  /-- the partition stops through Girth; the stop ends -/
  | stop (cause : BitVec 8)
  | free
  /-- the lead has taken source n of block b of a device -/
  | irq (dev : BitVec 4) (b : Blk) (n : BitVec 6)
  deriving DecidableEq, Repr, Inhabited

/-- A frame of DISP (R433, R434). -/
structure DispFrame where
  w : BitVec 32 := 0
  d : Word := 0
  s : Word := 0
  u : Word := 0
  dctl : Word := 0
  rctl : Word := 0
  pattern : List Byte := []
  act : DispAct := .start
  deriving DecidableEq, Repr, Inhabited

/-- A request that a member forwards to the lead on CTRL (R434, R232). -/
inductive FwdReq where
  | interrupt (b : Blk) (n : BitVec 6)
  | halt
  | epoch
  | girth (n : BitVec 3)
  | abandon
  deriving DecidableEq, Repr, Inhabited

/-- An OR and count partial toward the lead, or a result from it (R438). -/
structure OrcFrame where
  result : Bool
  dev : BitVec 4
  or : Bool
  cv : Bool
  count : BitVec 32
  deriving DecidableEq, Repr, Inhabited

/-- Edge data of one microword (R428 EDGE, R435): the values of the 128 edge cells of one block row or block column of a
device, or of 128 nets. -/
structure EdgeMsg where
  net : Bool
  /-- block row or block column; 15 in a chain return: the row of the adjoining device row in which the line goes on -/
  index : BitVec 4
  data : BitVec 128
  /-- a wrap or chain return (R436): the device for which it is and the side of that device, none between neighbours -/
  ret : Option (BitVec 4 × BitVec 2) := none
  deriving DecidableEq, Repr, Inhabited

/-- A lane of a Rein port that fails or makes frames be sent again (R428, R444): the frames that it has caused to be resent
within 1 ms, 0 when it has lost lock. -/
structure LaneFault where
  lane : Fin 17
  retries : Nat
  deriving DecidableEq, Repr, Inhabited

/-- What FAIL and ABORT of a cascade name (R389): an epoch, or the loss of a path between the lead and a device (R445). -/
inductive CascMsg where
  | epoch (e : BitVec 32)
  | lost
  deriving DecidableEq, Repr, Inhabited

/-- A tunnelled mesh packet (R441). A request of the cascade partition's own initiators is marked as such. -/
inductive TunMsg where
  | request (id : Nat) (dev : BitVec 4) (wr : Bool) (addr : Addr) (len : BitVec 11) (key : BitVec 4) (data : List Digit)
      (inner : Bool)
  | response (id : Nat) (status : BitVec 8) (data : List Digit)
  deriving DecidableEq, Repr, Inhabited

/-- The memory BARs of a function (R398). -/
inductive Bar where
  | bar0 | bar2
  deriving DecidableEq, Repr, Inhabited

/-- An event the Wellhead watches (R459). -/
inductive WakeEvent where
  | doorbell (f : Func)
  | rein (p : BitVec 2)
  | pwrWarn
  | timer (t : BitVec 1)
  | awl
  | gpio (pin : BitVec 4) (rising : Bool)
  deriving DecidableEq, Repr, Inhabited

/-- The conditions that inhibit non-volatile writes (R478). -/
inductive SagCond where
  | cart | io | core | warn
  deriving DecidableEq, Repr, Inhabited

/-- What a cartridge shows when it is probed and challenged (R496-R498). -/
structure CartId where
  gen : BitVec 2
  serial : BitVec 128
  chainOk : Bool
  sigOk : Bool
  blank : Bool
  /-- the IDevID hash that its header binds it to -/
  bind : BitVec 384
  written : BitVec 32
  rated : BitVec 32
  deriving DecidableEq, Repr, Inhabited

/-- The commands: the rows of the table of operations and events, in the table's order. A sequencer row carries the
block b whose sequencer issues it and the low 24 bits w of the instruction word that its fetch delivered (R236). -/
inductive Instr where
  /-- REGISTER_WRITE (R6): A write to a register field that has no row of its own acts as the field's access code gives (RW, W1C, W1S, LK and so on), with R4 and R5 applied. -/
  | registerWrite (i : Initiator) (a : Addr) (mask v : Word)
  /-- CONSUME_READ (R7): A read of an RC or RSE field returns the value and performs its side effect, unless it is an Awl quiet read. -/
  | consumeRead (i : Initiator) (a : Addr)
  /-- POWER_ON (R327): Power-on clears every memory, zeroes DRAM, resets the key bytes and brings every register to its reset value. -/
  | powerOn
  /-- PERST_ASSERT (R397): Assertion of PERST# is a fundamental reset of the whole device. -/
  | perstAssert
  /-- PERST_RELEASE (R487): Release of PERST# starts TIMEBASE, samples the straps and begins the ROM boot phase. -/
  | perstRelease (straps : BitVec 5) (testEn : Bool)
  /-- REFCLK_LOSS (R463): REFCLK absent for more than 2 µs, or the root PLL losing lock, makes the device act as on PERST#. -/
  | refclkLoss
  /-- BOOT_ROM_DONE (R487): When the ROM phase completes, the directory and boot-firmware copy A are fetched. -/
  | bootRomDone (flash : Bool)
  /-- BOOT_FETCH_DONE (R486): A fetched boot-firmware copy is verified against a vendor key and BFLOOR; on rejection copy B is fetched. -/
  | bootFetchDone (item : List Byte)
  /-- BOOT_MCODE (R305): The control stores are filled from mask ROM and the flash patch bundle is applied, or SRC = NONE is recorded. -/
  | bootMcode (bundle : List Byte)
  /-- BOOT_SBAG (R500): In boot phase 5 the cartridge is read and the valid spare-map snapshot is replayed. -/
  | bootSbag
  /-- BOOT_READY (R423): Once boot, spare-map restore and DRAM zeroing are done, HI_STATUS.READY is set and every function accepts requests. -/
  | bootReady (image ownerKey : List Byte)
  /-- DRAM_ZEROING_DONE (R310): A memory controller finishes zeroing its two regions, and the requests waiting at their gateways proceed. -/
  | dramZeroingDone (k : BitVec 3)
  /-- IMG_GO (R68): Writing IMG_CTRL.GO starts an image load, or sets REFUSED when BUSY = 1; the CHECK phase runs. -/
  | imgGo (i : Initiator)
  /-- IMAGE_HOLD_DRAINED (R74): When the Sluice drain of the affected domains completes, the held state is applied and STREAM begins. -/
  | imageHoldDrained
  /-- IMAGE_FRAME (R43): One image frame is read, CRC-checked, sequence-checked, parsed and staged, and added to the digest. -/
  | imageFrame
  /-- IMAGE_APPLY (R76): The staged settings are written to gateways, routers, BSW_MAP, clocks and CIC, and the planes of affected holders are cleared. -/
  | imageApply
  /-- ROUTER_RECONFIG (R370): A router that withheld credits at APPLY applies its new configuration once its queues are empty or 2 µs have passed, then returns credits. -/
  | routerReconfig (x : Fin 6) (y : Fin 4)
  /-- IMAGE_RELEASE (R77): At tick T_rel all affected regions are released together, enter their power states and start their first epoch. -/
  | imageRelease
  /-- MICROWORD_CYCLE (R92): In one ACLK every cell of a block executes the issued microword: reads, ALU evaluation and the writes that ACT allows. -/
  | microwordCycle (b : Blk) (u : Upset)
  /-- PLANE_REPAIR (R116): A pending corrected group is rewritten in the next ACLK whose microword has DEST other than Q. -/
  | planeRepair (b : Blk)
  /-- TWIN_ADVANCE (R119): At each 1 ms TIMEBASE multiple the roving twin moves to the next logical column and copies its registers. -/
  | twinAdvance (b : Blk) (u : Upset)
  /-- ORC_COMBINE_RESULT (R112): An OR and count request's result reaches its slot after the scope latency. -/
  | orcCombineResult (b : Blk) (slot : BitVec 2) (faults : BitVec 2)
  /-- SAFE_POINT_YIELD (R223): At a safe point with a pending request the instruction yields: it completes its OR requests, saves A, T and C and the resume record, and sets ARR_SUSP. -/
  | safePointYield (b : Blk) (w : BitVec 32) (step : BitVec 16)
  /-- ABANDON (R232): Writing ARR_SUSP.ABANDON while VALID = 1 abandons the suspended instruction and asserts ARR_DISC. -/
  | abandon (b : Blk)
  /-- ALOG (R132): Array instruction: three-input plane logic. -/
  | alog (b : Blk) (w : BitVec 24)
  /-- AMOV (R133): Array instruction: D := S, extended or truncated. -/
  | amov (b : Blk) (w : BitVec 24)
  /-- ASPL (R134): Array instruction: write a register value into a field of every active cell. -/
  | aspl (b : Blk) (w : BitVec 24)
  /-- AACT (R135): Array instruction: change A in every cell by mode. -/
  | aact (b : Blk) (w : BitVec 24)
  /-- ATAG (R136): Array instruction: write T in every cell by mode. -/
  | atag (b : Blk) (w : BitVec 24)
  /-- ABRD (R137): Array instruction: load RBR or CBR of the block's sequencer. -/
  | abrd (b : Blk) (w : BitVec 24)
  /-- ABCP (R138): Array instruction: copy a broadcast net into a plane. -/
  | abcp (b : Blk) (w : BitVec 24)
  /-- ASHF (R139): Array instruction: shift a field k cells in a direction. -/
  | ashf (b : Blk) (w : BitVec 24)
  /-- AADD (R140): Array instruction: D := S + U with optional overflow to T. -/
  | aadd (b : Blk) (w : BitVec 24)
  /-- ASUB (R140): Array instruction: D := S − U. -/
  | asub (b : Blk) (w : BitVec 24)
  /-- ANEG (R140): Array instruction: D := −S. -/
  | aneg (b : Blk) (w : BitVec 24)
  /-- AMUL (R141): Array instruction: D := low bits of S × U. -/
  | amul (b : Blk) (w : BitVec 24)
  /-- ADIV (R142): Array instruction: quotient or remainder, truncated toward zero. -/
  | adiv (b : Blk) (w : BitVec 24)
  /-- ACMP (R143): Array instruction: compare S and U into T or narrow A. -/
  | acmp (b : Blk) (w : BitVec 24)
  /-- AADDG (R144): Array instruction: ganged multi-word add. -/
  | aaddg (b : Blk) (w : BitVec 24)
  /-- ASUBG (R144): Array instruction: ganged multi-word subtract. -/
  | asubg (b : Blk) (w : BitVec 24)
  /-- ACMPG (R144): Array instruction: ganged multi-word compare. -/
  | acmpg (b : Blk) (w : BitVec 24)
  /-- AFFS (R146): Array instruction: find the first responder in a scope. -/
  | affs (b : Blk) (w : BitVec 24)
  /-- AENUM (R147): Array instruction: find the first responder and clear its T. -/
  | aenum (b : Blk) (w : BitVec 24)
  /-- AOR (R148): Array instruction: issue an OR request to a slot. -/
  | aor (b : Blk) (w : BitVec 24)
  /-- ACNT (R148): Array instruction: issue an OR and count request to a slot. -/
  | acnt (b : Blk) (w : BitVec 24)
  /-- ASUM (R150): Array instruction: exact sum of a field over a scope into the scratchpad. -/
  | asum (b : Blk) (w : BitVec 24)
  /-- ARDS (R149): Array instruction: read a slot word into a register once it is complete. -/
  | ards (b : Blk) (w : BitVec 24)
  /-- ABAR (R152): Array instruction: barrier over a scope through an OR request. -/
  | abar (b : Blk) (w : BitVec 24)
  /-- ATLD (R153): Array instruction: load planes from the turn memory. -/
  | atld (b : Blk) (w : BitVec 24)
  /-- ATST (R153): Array instruction: store planes to the turn memory. -/
  | atst (b : Blk) (w : BitVec 24)
  /-- ALUT (R156): Array instruction: table lookup from the turn memory. -/
  | alut (b : Blk) (w : BitVec 24)
  /-- APADD (R179): Decimal instruction: packed add. -/
  | apadd (b : Blk) (w : BitVec 24)
  /-- APSUB (R179): Decimal instruction: packed subtract. -/
  | apsub (b : Blk) (w : BitVec 24)
  /-- APMUL (R180): Decimal instruction: packed multiply. -/
  | apmul (b : Blk) (w : BitVec 24)
  /-- APDIV (R181): Decimal instruction: packed divide, quotient or remainder. -/
  | apdiv (b : Blk) (w : BitVec 24)
  /-- APCMP (R183): Decimal instruction: packed compare into one plane. -/
  | apcmp (b : Blk) (w : BitVec 24)
  /-- APSRP (R182): Decimal instruction: packed shift and round. -/
  | apsrp (b : Blk) (w : BitVec 24)
  /-- APSET (R179): Decimal instruction: packed move, zero-extended. -/
  | apset (b : Blk) (w : BitVec 24)
  /-- APCVB (R184): Decimal instruction: packed to binary. -/
  | apcvb (b : Blk) (w : BitVec 24)
  /-- APCVD (R184): Decimal instruction: binary to packed. -/
  | apcvd (b : Blk) (w : BitVec 24)
  /-- APPACK (R184): Decimal instruction: zoned to packed. -/
  | appack (b : Blk) (w : BitVec 24)
  /-- APUNPK (R184): Decimal instruction: packed to zoned. -/
  | apunpk (b : Blk) (w : BitVec 24)
  /-- ADFADD (R187): Decimal instruction: decimal floating-point add. -/
  | adfadd (b : Blk) (w : BitVec 24)
  /-- ADFSUB (R187): Decimal instruction: decimal floating-point subtract. -/
  | adfsub (b : Blk) (w : BitVec 24)
  /-- ADFMUL (R187): Decimal instruction: decimal floating-point multiply. -/
  | adfmul (b : Blk) (w : BitVec 24)
  /-- ADFDIV (R187): Decimal instruction: decimal floating-point divide. -/
  | adfdiv (b : Blk) (w : BitVec 24)
  /-- ADFFMA (R196): Decimal instruction: fused multiply-add with one rounding. -/
  | adffma (b : Blk) (w : BitVec 24)
  /-- ADFQUA (R195): Decimal instruction: quantize S to the exponent of U. -/
  | adfqua (b : Blk) (w : BitVec 24)
  /-- ADFCMP (R194): Decimal instruction: decimal floating-point compare into one plane. -/
  | adfcmp (b : Blk) (w : BitVec 24)
  /-- ADFCVT (R197): Decimal instruction: decimal floating-point conversions. -/
  | adfcvt (b : Blk) (w : BitVec 24)
  /-- ALDADD (R202): Decimal instruction: long-decimal add, single or chained. -/
  | aldadd (b : Blk) (w : BitVec 24)
  /-- ALDSUB (R202): Decimal instruction: long-decimal subtract. -/
  | aldsub (b : Blk) (w : BitVec 24)
  /-- ALDMUL (R201): Decimal instruction: long-decimal multiply, K = 1. -/
  | aldmul (b : Blk) (w : BitVec 24)
  /-- ALDDIV (R201): Decimal instruction: long-decimal divide, K = 1. -/
  | alddiv (b : Blk) (w : BitVec 24)
  /-- ALDCVT (R203): Decimal instruction: long-decimal conversions. -/
  | aldcvt (b : Blk) (w : BitVec 24)
  /-- ALDSPL (R204): Decimal instruction: split LDEC coefficients into limbs in the turn memory. -/
  | aldspl (b : Blk) (w : BitVec 24)
  /-- ALDNRM (R205): Decimal instruction: normalise limbs from the turn memory into chained LDEC. -/
  | aldnrm (b : Blk) (w : BitVec 24)
  /-- AMVS (R213): Record instruction: move a string with padding. -/
  | amvs (b : Blk) (w : BitVec 24)
  /-- ATRN (R214): Record instruction: translate a string through a table. -/
  | atrn (b : Blk) (w : BitVec 24)
  /-- ACMPS (R216): Record instruction: compare strings. -/
  | acmps (b : Blk) (w : BitVec 24)
  /-- AEDIT (R219): Record instruction: edit a packed amount into a string under a pattern. -/
  | aedit (b : Blk) (w : BitVec 24)
  /-- CUSTOMER_INSTRUCTION (R293): An opcode 0xE0–0xEF dispatches to a customer micro-routine under the customer-routine rules. -/
  | customerInstruction (b : Blk) (e : BitVec 4) (w : BitVec 24)
  /-- RESERVED_OPCODE (R239): An unassigned or invalid opcode traps with EMULATE. -/
  | reservedOpcode (b : Blk) (op : BitVec 8) (w : BitVec 24)
  /-- ADD (R240): Scalar add; sets NCY. -/
  | add (b : Blk) (w : BitVec 24)
  /-- SUB (R240): Scalar subtract. -/
  | sub (b : Blk) (w : BitVec 24)
  /-- AND (R240): Scalar AND. -/
  | and (b : Blk) (w : BitVec 24)
  /-- OR (R240): Scalar OR. -/
  | or (b : Blk) (w : BitVec 24)
  /-- XOR (R240): Scalar XOR. -/
  | xor (b : Blk) (w : BitVec 24)
  /-- ANDN (R240): Scalar AND with complement. -/
  | andn (b : Blk) (w : BitVec 24)
  /-- SHL (R240): Scalar shift left. -/
  | shl (b : Blk) (w : BitVec 24)
  /-- SHR (R240): Scalar logical shift right. -/
  | shr (b : Blk) (w : BitVec 24)
  /-- SAR (R240): Scalar arithmetic shift right. -/
  | sar (b : Blk) (w : BitVec 24)
  /-- ROL (R240): Scalar rotate left. -/
  | rol (b : Blk) (w : BitVec 24)
  /-- MUL (R240): Scalar low 64-bit multiply. -/
  | mul (b : Blk) (w : BitVec 24)
  /-- MULH (R240): Scalar high 64-bit multiply. -/
  | mulh (b : Blk) (w : BitVec 24)
  /-- DIV (R242): Scalar divide, truncated. -/
  | div (b : Blk) (w : BitVec 24)
  /-- REM (R242): Scalar remainder. -/
  | rem (b : Blk) (w : BitVec 24)
  /-- CMP (R241): Scalar compare into a register. -/
  | cmp (b : Blk) (w : BitVec 24)
  /-- MIN (R240): Scalar minimum. -/
  | min (b : Blk) (w : BitVec 24)
  /-- MAX (R240): Scalar maximum. -/
  | max (b : Blk) (w : BitVec 24)
  /-- CLZ (R240): Scalar count of leading zeros. -/
  | clz (b : Blk) (w : BitVec 24)
  /-- POPC (R240): Scalar population count. -/
  | popc (b : Blk) (w : BitVec 24)
  /-- SEL (R240): Scalar select. -/
  | sel (b : Blk) (w : BitVec 24)
  /-- ADDI (R240): Scalar add immediate; sets NCY. -/
  | addi (b : Blk) (w : BitVec 24)
  /-- ANDI (R240): Scalar AND immediate. -/
  | andi (b : Blk) (w : BitVec 24)
  /-- ORI (R240): Scalar OR immediate. -/
  | ori (b : Blk) (w : BitVec 24)
  /-- XORI (R240): Scalar XOR immediate. -/
  | xori (b : Blk) (w : BitVec 24)
  /-- SHLI (R240): Scalar shift left by immediate. -/
  | shli (b : Blk) (w : BitVec 24)
  /-- SHRI (R240): Scalar logical shift right by immediate. -/
  | shri (b : Blk) (w : BitVec 24)
  /-- SARI (R240): Scalar arithmetic shift right by immediate. -/
  | sari (b : Blk) (w : BitVec 24)
  /-- CMPI (R241): Scalar compare with immediate. -/
  | cmpi (b : Blk) (w : BitVec 24)
  /-- LIZ (R240): Load a shifted 16-bit immediate, zeroing the rest. -/
  | liz (b : Blk) (w : BitVec 24)
  /-- LIK (R240): Insert a 16-bit immediate, keeping the rest. -/
  | lik (b : Blk) (w : BitVec 24)
  /-- ADR (R240): Form a PC-relative address. -/
  | adr (b : Blk) (w : BitVec 24)
  /-- LD (R246): Local load, zero-extended, with a two-instruction delay. -/
  | ld (b : Blk) (w : BitVec 24)
  /-- LDS (R247): Local load, sign-extended. -/
  | lds (b : Blk) (w : BitVec 24)
  /-- ST (R247): Local store. -/
  | st (b : Blk) (w : BitVec 24)
  /-- LDR (R265): Local load that sets a reservation. -/
  | ldr (b : Blk) (w : BitVec 24)
  /-- STC (R265): Conditional store under the reservation. -/
  | stc (b : Blk) (w : BitVec 24)
  /-- LDX (R267): Mesh load from a digit address. -/
  | ldx (b : Blk) (w : BitVec 24)
  /-- STX (R267): Mesh store to a digit address. -/
  | stx (b : Blk) (w : BitVec 24)
  /-- BZ (R240): Branch when zero. -/
  | bz (b : Blk) (w : BitVec 24)
  /-- BNZ (R240): Branch when not zero. -/
  | bnz (b : Blk) (w : BitVec 24)
  /-- J (R236): PC-relative jump. -/
  | j (b : Blk) (w : BitVec 24)
  /-- JR (R240): Jump to a register address. -/
  | jr (b : Blk) (w : BitVec 24)
  /-- CALL (R253): Call: spill if needed, push a call record, slide the window. -/
  | call (b : Blk) (w : BitVec 24)
  /-- RET (R254): Return: fill if needed, restore globals, slide the window back. -/
  | ret (b : Blk) (w : BitVec 24)
  /-- RETI (R272): Return from an interrupt or trap, re-arming pending loads and resuming any suspended instruction. -/
  | reti (b : Blk) (w : BitVec 24)
  /-- LOOP (R256): Open a zero-overhead loop counted from a register. -/
  | loop (b : Blk) (w : BitVec 24)
  /-- LOOPI (R256): Open a zero-overhead loop with an immediate count. -/
  | loopi (b : Blk) (w : BitVec 24)
  /-- REP (R259): Repeat the next instruction COUNT times. -/
  | rep (b : Blk) (w : BitVec 24)
  /-- REPR (R259): Repeat the next instruction a register count of times. -/
  | repr (b : Blk) (w : BitVec 24)
  /-- TRAP (R269): Trap with TVAL = IMM16. -/
  | trap (b : Blk) (w : BitVec 24)
  /-- BKPT (R269): Breakpoint: trap, or halt when BKPTEN = 1. -/
  | bkpt (b : Blk) (w : BitVec 24)
  /-- WAIT (R273): Wait for an unmasked BIC source to become pending. -/
  | wait (b : Blk) (w : BitVec 24)
  /-- WAIT_COMPLETE (R273): WAIT completes when an unmasked BIC source is pending. -/
  | waitComplete (b : Blk)
  /-- FENCE (R267): Wait until no mesh request of the sequencer is outstanding. -/
  | fence (b : Blk) (w : BitVec 24)
  /-- MFC (R274): Read a control register into a register. -/
  | mfc (b : Blk) (w : BitVec 24)
  /-- MTC (R274): Write a control register from a register. -/
  | mtc (b : Blk) (w : BitVec 24)
  /-- DADJ (R262): Decimal adjust from NCY. -/
  | dadj (b : Blk) (w : BitVec 24)
  /-- PADD (R260): Scalar packed add. -/
  | padd (b : Blk) (w : BitVec 24)
  /-- PSUB (R260): Scalar packed subtract. -/
  | psub (b : Blk) (w : BitVec 24)
  /-- PCMP (R260): Scalar packed compare. -/
  | pcmp (b : Blk) (w : BitVec 24)
  /-- PMUL_D (R261): BCD multiply by a digit. -/
  | pmulD (b : Blk) (w : BitVec 24)
  /-- PSHL_D (R261): BCD digit shift. -/
  | pshlD (b : Blk) (w : BitVec 24)
  /-- PCVT (R260): Packed to binary or binary to packed. -/
  | pcvt (b : Blk) (w : BitVec 24)
  /-- DADD (R263): Scalar decimal floating-point add. -/
  | dadd (b : Blk) (w : BitVec 24)
  /-- DSUB (R263): Scalar decimal floating-point subtract. -/
  | dsub (b : Blk) (w : BitVec 24)
  /-- DMUL (R263): Scalar decimal floating-point multiply. -/
  | dmul (b : Blk) (w : BitVec 24)
  /-- DDIV (R263): Scalar decimal floating-point divide. -/
  | ddiv (b : Blk) (w : BitVec 24)
  /-- DFMA (R263): Scalar decimal fused multiply-add. -/
  | dfma (b : Blk) (w : BitVec 24)
  /-- DQUA (R263): Scalar decimal quantize. -/
  | dqua (b : Blk) (w : BitVec 24)
  /-- DCMP (R263): Scalar decimal compare. -/
  | dcmp (b : Blk) (w : BitVec 24)
  /-- DCVT (R263): Scalar decimal conversions. -/
  | dcvt (b : Blk) (w : BitVec 24)
  /-- INTERRUPT_ENTRY (R271): At a boundary or safe point with IE = 1, the lowest eligible BIC source is taken and the handler entered. -/
  | interruptEntry (b : Blk)
  /-- MESH_TRAP (R268): After a non-OK mesh response, an imprecise MESH trap is taken at the next instruction boundary. -/
  | meshTrap (b : Blk)
  /-- HALT_TAKEN (R229): A pending halt request is taken at the next safe point or instruction boundary. -/
  | haltTaken (b : Blk)
  /-- CS_QUARTER_STAGE (R279): A write to quarters 0–2 of a customer word is staged, discarding any staged quarter of another word. -/
  | csQuarterStage (b : Blk) (n : BitVec 14) (q : BitVec 2) (v : Word)
  /-- CS_COMMIT (R279): A write to quarter 3 commits the staged quarters into the customer word and its shadow with new parity. -/
  | csCommit (b : Blk) (n : BitVec 14)
  /-- CS_HOLD_GRANT (R20): A control-store access that has waited 1,024 ACLK is granted by holding the sequencer one ACLK. -/
  | csHoldGrant (b : Blk)
  /-- CS_READ (R280): A read of the control store returns the stored customer word, or 0, and sets RDPE on a parity mismatch. -/
  | csRead (b : Blk) (n : BitVec 14) (q : CsQuarterRead)
  /-- DT_ENTRY_WRITE (R282): A whole write of a customer dispatch entry updates it and its shadow, or is refused with DTERR. -/
  | dtEntryWrite (b : Blk) (e : BitVec 8) (whole : Bool) (v : Word)
  /-- MESH_REQUEST (R353): A RD or WR request arrives at its target, is performed or refused, and receives exactly one response. -/
  | meshRequest (id : Nat) (u : Option CsStrike)
  /-- MESH_RESPONSE (R358): A response arrives at its initiator, frees the tag and delivers data or a status. -/
  | meshResponse (id : Nat)
  /-- TAG_ALLOCATE (R359): A request waiting for a tag takes a freed tag and enters the mesh. -/
  | tagAllocate (t : Tracker)
  /-- FLIT_RECEIVE (R361): A router receives a flit, checks header parity and check bytes, corrects or requests a resend. -/
  | flitReceive (r : Fin 24) (port : RPort) (f : FlitIn) (u : List FlitUpset)
  /-- RESPONSE_TIMEOUT (R360): A tracker answers TARGET_ISOLATED for a request with no response within RTO and raises an alarm. -/
  | responseTimeout (id : Nat)
  /-- LINK_TIMEOUT (R365): A flit waiting 64 µs at the head of a queue raises a link-timeout warning. -/
  | linkTimeout (r : Fin 24) (port : RPort) (vc : BitVec 2)
  /-- SLUICE_FENCE_REQ (R366): FENCE_REQ raised for a domain puts the fence in place in the next NCLK. -/
  | sluiceFenceReq (g : Rgn) (j : Fin 10)
  /-- SLUICE_DRAINED (R367): A fenced domain reaches DRAINED and its power entry may proceed. -/
  | sluiceDrained (g : Rgn) (j : Fin 10)
  /-- SLUICE_HELD_ARRIVAL (R368): A packet arriving under HOLD_WAKE aborts the power entry or requests wake. -/
  | sluiceHeldArrival (g : Rgn) (j : Fin 10) (id : Nat)
  /-- STATS_WINDOW_END (R372): At the end of a statistics window every router copies its counters and restarts them. -/
  | statsWindowEnd
  /-- DRAM_ACCESS (R308): A granted request performs its DRAM word access after key check, with decode and merge as needed. -/
  | dramAccess (id : Nat) (u : DramFinds)
  /-- SHADOW_COPY_DONE (R379): The frame's shadow copy completes and the waiting store is performed. -/
  | shadowCopyDone (c : DramCopy)
  /-- DRAM_WRITEBACK (R312): A corrected DRAM codeword is written back in the next idle cycle of the port. -/
  | dramWriteback (g : Rgn)
  /-- PATROL_SCRUB_READ (R314): The patrol scrub reads the next word of its pass and writes back any correction. -/
  | patrolScrubRead (g : Rgn) (u : DramFind)
  /-- TURN_PORT_B_ACCESS (R319): A port B request reads or masked-writes one turn-memory line. -/
  | turnPortBAccess (b : Blk) (a : Option PortA) (u : List MemUpset)
  /-- TURN_WRITEBACK (R322): A corrected turn word is rewritten in the next idle cycle of the same port. -/
  | turnWriteback (b : Blk)
  /-- SCRATCHPAD_IDLE_GRANT (R323): An idle scratchpad cycle is granted to a mesh request, channel 0 data or a descriptor access. -/
  | scratchpadIdleGrant (b : Blk) (u : List MemUpset)
  /-- SCRATCHPAD_WRITEBACK (R325): A corrected scratchpad word is rewritten in the next idle cycle. -/
  | scratchpadWriteback (b : Blk)
  /-- SCRATCHPAD_STALL_BOUND (R324): A contender waiting STALL × 256 ACLK stops its DMA channel with STALLED or is answered TGT_BUSY. -/
  | scratchpadStallBound (b : Blk) (c : Contender)
  /-- KEY_BYTE_WRITE (R333): A key-store write with key 0 sets LOCK, RDO and TCH of the addressed frames, or is refused. -/
  | keyByteWrite (g : Rgn) (off : BitVec 20) (data : List Byte) (key : BitVec 4)
  /-- KU_RANGE_GO (R336): Writing KU_RANGE with GO = 1 and key 0 starts setting LOCK and RDO over a frame range. -/
  | kuRangeGo (key : BitVec 4) (v : Word)
  /-- KU_RANGE_DONE (R336): When every region has finished the range change, GO clears. -/
  | kuRangeDone
  /-- KEY_RELOAD_DONE (R335): The key-mirror reload after gateway wake completes and DRAM requests proceed. -/
  | keyReloadDone (r : KeyReload)
  /-- DMA_ENABLE (R337): Writing DMA_CTRL.EN = 1 starts the channel, or is refused with CFG. -/
  | dmaEnable (b : Blk) (ch : Bool)
  /-- DMA_DISABLE (R343): Writing EN = 0 while a descriptor runs stops it with ABORTED. -/
  | dmaDisable (b : Blk) (ch : Bool)
  /-- DMA_TAIL_WRITE (R337): Writing TAIL announces new descriptors to the channel. -/
  | dmaTailWrite (b : Blk) (ch : Bool) (tail : BitVec 12)
  /-- DMA_DESCRIPTOR (R339): The channel takes the descriptor at HEAD, checks it and issues its row requests. -/
  | dmaDescriptor (b : Blk) (ch : Bool)
  /-- DMA_COMPLETION (R341): After the last acknowledgement the channel writes DONE and STATUS, advances HEAD and may raise its source. -/
  | dmaCompletion (b : Blk) (ch : Bool)
  /-- EPOCH_BOUNDARY_TICK (R376): At a scheduled boundary tick the epoch request is raised at every sequencer of the partition. -/
  | epochBoundaryTick (n : Part)
  /-- EPOCH_BREQ (R376): Writing EP_CTRLn.BREQ requests a boundary now. -/
  | epochBreq (n : Part)
  /-- EPOCH_STOP (R377): Once the last sequencer has stopped or yielded, Girth holds the partition and quiesce begins. -/
  | epochStop (n : Part)
  /-- EPOCH_QUIESCE_DONE (R377): When every outstanding request has its response, the dirty state is copied to the alternate slots. -/
  | epochQuiesceDone (n : Part)
  /-- EPOCH_COMMIT (R377): After the copy, slots switch, held effects are released, WR cleared and the partition resumes. -/
  | epochCommit (n : Part)
  /-- MACHINE_CHECK_ALARM (R375): A machine check reaches the controller, which counts a strike and starts a rollback or replacement. -/
  | machineCheckAlarm (m : MCheck)
  /-- ROLLBACK_RESUME (R384): When the restore completes, the partition resumes from the committed state. -/
  | rollbackResume (n : Part)
  /-- MIGRATION (R388): After a commit, a block or column over the correction threshold is stopped and its state read for migration. -/
  | migration (b : Blk) (col : Option (Fin 144))
  /-- MIGRATION_DONE (R388): The migrated state is written into the new holder, BSW_MAP updated and the partition resumed. -/
  | migrationDone (b : Blk) (col : Option (Fin 144))
  /-- PREPARE (R389): A cascade device receives PREPARE(e) and performs boundary steps 1–4. -/
  | prepare (e : BitVec 32)
  /-- READY (R389): The lead receives READY(e); when all are ready it sends COMMIT(e). -/
  | ready (dev : BitVec 4) (e : BitVec 32)
  /-- FAIL (R389): The lead receives FAIL(e) and sends ABORT(e). -/
  | fail (dev : BitVec 4) (m : CascMsg)
  /-- COMMIT (R389): A cascade device receives COMMIT(e) and performs boundary steps 5 and 6. -/
  | commit (e : BitVec 32)
  /-- ABORT (R389): A cascade device receives ABORT(e), discards its alternate slots and rolls back. -/
  | abort (m : CascMsg)
  /-- CASCADE_READY_TIMEOUT (R389): A READY missing CTO after PREPARE makes the lead send ABORT. -/
  | cascadeReadyTimeout
  /-- CASCADE_MSG_REPEAT (R389): An unacknowledged cascade epoch message is repeated every 10 µs. -/
  | cascadeMsgRepeat
  /-- JOURNAL_WRITE (R500): A queued journal record is written to a trusted cartridge, updating the spare-map snapshot when it persists. -/
  | journalWrite
  /-- CONFIG_REQUEST (R398): A PCI Express configuration request to the PF or a VF is answered. -/
  | configRequest (f : Func) (wr : Bool) (reg : BitVec 10) (v : BitVec 32)
  /-- HOST_MEMORY_READ (R402): A host read through a BAR is split into mesh reads and completed. -/
  | hostMemoryRead (f : Func) (bar : Bar) (off : BitVec 48) (len : BitVec 13)
  /-- HOST_MEMORY_WRITE (R402): A host write through a BAR is split into mesh writes. -/
  | hostMemoryWrite (f : Func) (bar : Bar) (off : BitVec 48) (data : List Byte)
  /-- FLR (R401): A function-level reset disables queues, halts the partition, abandons suspended instructions and discards held effects. -/
  | flr (f : Func)
  /-- HOT_RESET (R397): A Hot Reset, link down or Secondary Bus Reset acts as an FLR of the PF. -/
  | hotReset
  /-- MSIX_UNMASK (R404): Unmasking an MSI-X vector with its PBA bit set sends the pending message. -/
  | msixUnmask (f : Func) (v : BitVec 11)
  /-- QUEUE_ENABLE (R406): QCFGq.EN 0 to 1 takes the queue registers and zeroes the heads and tails. -/
  | queueEnable (f : Func) (q : BitVec 6) (v : Word)
  /-- SQ_TAIL_DOORBELL (R406): Writing SQ_TAIL announces commands, or clears EN on a bad value. -/
  | sqTailDoorbell (f : Func) (q : BitVec 6) (v : BitVec 16)
  /-- CQ_HEAD_WRITE (R406): Writing CQ_HEAD frees consumed completion slots. -/
  | cqHeadWrite (f : Func) (q : BitVec 6) (v : BitVec 16)
  /-- COMMAND_FETCH (R407): The host interface fetches and starts the next command of a served SQ. -/
  | commandFetch (f : Func) (q : BitVec 6)
  /-- COMPLETION_POST (R408): A completion entry is written into a free CQ slot and the CQ vector is sent. -/
  | completionPost (f : Func) (q : BitVec 6)
  /-- RUN (R412): Host command: start sequencers of a partition at a PC. -/
  | run (f : Func) (q : BitVec 6) (c : BitVec 512)
  /-- COPY (R415): Host command: copy bytes between host memory and device digits. -/
  | copy (f : Func) (q : BitVec 6) (c : BitVec 512)
  /-- LOAD_IMAGE (R416): Host command: start the image engine, staging the image from host memory if asked. -/
  | loadImage (f : Func) (q : BitVec 6) (c : BitVec 512)
  /-- LOAD_MICROCODE (R417): Host command: offer a microcode bundle for examination. -/
  | loadMicrocode (f : Func) (q : BitVec 6) (c : BitVec 512)
  /-- CAPTURE (R418): Host command: capture a partition's state into a host buffer. -/
  | capture (f : Func) (q : BitVec 6) (c : BitVec 512)
  /-- EPOCH (R419): Host command: request a boundary or wait for the next commit. -/
  | epoch (f : Func) (q : BitVec 6) (c : BitVec 512)
  /-- FENCE_COMMAND (R420): Host command: order earlier commands, or take named blocks to a power state. -/
  | fenceCommand (f : Func) (q : BitVec 6) (c : BitVec 512)
  /-- QUERY (R421): Host command: write device or partition registers into a host buffer. -/
  | query (f : Func) (q : BitVec 6) (c : BitVec 512)
  /-- HI_EXIT (R413): A sequencer's store to HI_EXIT ends its run and may end the RUN command. -/
  | hiExit (b : Blk) (code : BitVec 32)
  /-- RUN_TIMEOUT (R414): A RUN's TIMEOUT expiring halts its sequencers and completes it with TIMEOUT. -/
  | runTimeout (n : Part)
  /-- GET_VERSION (R405): SPDM request answered through the DOE mailbox. -/
  | getVersion
  /-- GET_CAPABILITIES (R405): SPDM capabilities request. -/
  | getCapabilities
  /-- NEGOTIATE_ALGORITHMS (R405): SPDM algorithm negotiation. -/
  | negotiateAlgorithms
  /-- GET_DIGESTS (R405): SPDM certificate-digest request. -/
  | getDigests
  /-- GET_CERTIFICATE (R495): SPDM certificate-chain request. -/
  | getCertificate (slot : BitVec 1) (off len : BitVec 16)
  /-- CHALLENGE (R405): SPDM challenge signed by the Alias key. -/
  | challenge (slot : BitVec 1) (nonce : BitVec 256)
  /-- GET_MEASUREMENTS (R495): SPDM measurement request. -/
  | getMeasurements (index : BitVec 8)
  /-- IDENT (R430): A Rein port receives its partner's IDENT and checks position, record and lead. -/
  | ident (p : BitVec 2) (m : IdentMsg)
  /-- VERIFIED (R432): The lead receives a member's VERIFIED report of a cascade load. -/
  | verified (dev : BitVec 4)
  /-- RELEASE (R432): A member receives RELEASE(T) and applies and releases at tick T. -/
  | release (t : Word)
  /-- CASCADE_LOAD_ABORT (R432): A device receives the lead's load ABORT and ends its load FAILED with IMG_CASCADE. -/
  | cascadeLoadAbort (dev : BitVec 4)
  /-- CASCADE_LOAD_TIMEOUT (R432): A missing VERIFIED report or RELEASE after 1 s leads to a cascade load abort. -/
  | cascadeLoadTimeout (dev : BitVec 4)
  /-- DISPATCH_FRAME (R433): A DISP frame carries an array instruction dispatch to a member device. -/
  | dispatchFrame (m : DispFrame)
  /-- FORWARDED_REQUEST (R434): An interrupt, halt, epoch request or Girth trigger forwarded on CTRL reaches the lead. -/
  | forwardedRequest (dev : BitVec 4) (r : FwdReq)
  /-- ORC_PARTIAL (R438): An OR and count partial or result crosses a Rein port toward or from the lead. -/
  | orcPartial (slot : BitVec 2) (m : OrcFrame)
  /-- EDGE_FRAME (R435): Edge data, chain and wrap returns or net values arrive from a neighbour device. -/
  | edgeFrame (p : BitVec 2) (m : EdgeMsg)
  /-- TUNNELLED_REQUEST (R441): A tunnelled mesh request or response crosses a Rein port and is forwarded or given a local tag. -/
  | tunnelledRequest (p : BitVec 2) (m : TunMsg)
  /-- TIMEBASE_FIRST_SETTING (R443): A member sets its TIMEBASE once from the lead's value corrected by link latency. -/
  | timebaseFirstSetting (lead : Word) (lat : BitVec 8)
  /-- TIMEBASE_COMPARISON (R443): Every 1 ms a member compares TIMEBASE with the lead and slews on a difference of 2 ticks or more. -/
  | timebaseComparison (lead : Word)
  /-- REIN_LANE_FAILURE (R444): A failing lane is replaced by the spare, degrades the port or takes it DOWN. -/
  | reinLaneFailure (p : BitVec 2) (lane : LaneFault)
  /-- BIC_PEND_SET (R447): Writing BIC_PEND_SET sets PEND of the named sources. -/
  | bicPendSet (b : Blk) (v : Word)
  /-- BIC_PEND_CLR (R447): Writing BIC_PEND_CLR clears PEND of the named sources. -/
  | bicPendClr (b : Blk) (v : Word)
  /-- BIC_MASK_SET (R450): Writing BIC_MASK_SET masks the named sources. -/
  | bicMaskSet (b : Blk) (v : Word)
  /-- BIC_MASK_CLR (R447): Writing BIC_MASK_CLR unmasks the named sources. -/
  | bicMaskClr (b : Blk) (v : Word)
  /-- BIC_EOI (R448): Writing BIC_EOI clears ACT of a source and re-pends a still-asserted level source. -/
  | bicEoi (b : Blk) (src : BitVec 6)
  /-- BIC_CICQ_POP (R455): A read of BIC_CICQ returns and removes the oldest CIC entry. -/
  | bicCicqPop (i : Initiator) (b : Blk)
  /-- CIC_PEND_SET (R447): Writing CIC_PEND_SET sets PEND of the named CIC sources. -/
  | cicPendSet (i : Initiator) (w : BitVec 4) (v : Word)
  /-- CIC_PEND_CLR (R447): Writing CIC_PEND_CLR clears PEND of the named CIC sources. -/
  | cicPendClr (i : Initiator) (w : BitVec 4) (v : Word)
  /-- CIC_MASK_SET (R450): Writing CIC_MASK_SET masks the named CIC sources. -/
  | cicMaskSet (i : Initiator) (w : BitVec 4) (v : Word)
  /-- CIC_MASK_CLR (R447): Writing CIC_MASK_CLR unmasks the named CIC sources. -/
  | cicMaskClr (i : Initiator) (w : BitVec 4) (v : Word)
  /-- CIC_EOI (R448): Writing CIC_EOI clears ACT of a CIC source. -/
  | cicEoi (i : Initiator) (src : BitVec 10)
  /-- CIC_ROUTE_WRITE (R457): Writing CIC_ROUTEs changes the route of a chip-owned source, refusing forbidden TKINDs. -/
  | cicRouteWrite (i : Initiator) (src : BitVec 10) (v : BitVec 32)
  /-- CIC_DELIVERY (R450): In a PCLK the CIC commits delivery of its lowest eligible source to a sequencer or MSI-X vector. -/
  | cicDelivery
  /-- CIC_IRQ_MESSAGE (R455): An IRQ MSG reaches a block's BIC_CICQ and is answered with IRQACK. -/
  | cicIrqMessage (b : Blk) (src : BitVec 10)
  /-- IRQACK (R455): The CIC receives IRQACK and re-pends the source on FULL or FENCED. -/
  | irqack (src : BitVec 10) (st : BitVec 2)
  /-- CIC_RESEND_TIMER (R455): A refused source in a group with PERIOD 0 is sent again 1,000 ticks after the refusal. -/
  | cicResendTimer (src : BitVec 10)
  /-- WELLHEAD_EVENT (R459): A watched event is latched in WH_EVENT and the slot requests wake of its domains. -/
  | wellheadEvent (e : WakeEvent)
  /-- WH_TIMER_EXPIRY (R459): A Wellhead timer fires after PERIOD µs, and again if periodic. -/
  | whTimerExpiry (t : BitVec 1)
  /-- TDIV_WRITE (R465): Writing PC_RGNg.TDIV changes the region or partition divider, or is refused. -/
  | tdivWrite (i : Initiator) (g : Rgn) (d : BitVec 2)
  /-- DIVIDER_SWITCH (R464): A region's ACLK divider switches between two microwords. -/
  | dividerSwitch (g : Rgn)
  /-- MARGIN_LOW_REPORT (R467): A low-margin report raises the region one point, or makes a margin fallback. -/
  | marginLowReport (g : Rgn)
  /-- MARGIN_QUIET (R467): After 1 ms without a low report, the region moves down one point. -/
  | marginQuiet (g : Rgn)
  /-- DIVIDER_RETURN (R468): After 100 ms without a low report at its top allowed point, a held-slow region returns one group faster. -/
  | dividerReturn (g : Rgn)
  /-- VOLTAGE_SETTLED (R470): The regulator settle time of a VDD_CORE change elapses and pending divider switches proceed. -/
  | voltageSettled
  /-- POWER_SAMPLE (R477): Each 1 ms power sample lowers or restores PMAX against LIMIT. -/
  | powerSample (avg : BitVec 16)
  /-- POWER_REQUEST (R474): A write of PC_DOMd.REQ requests a domain power state, or is refused with a code. -/
  | powerRequest (d : Fin 176) (target : BitVec 3)
  /-- AUTO_HUSH (R472): A block idle for 64 ACLK with AUTOHUSH = 1 enters L1 by itself. -/
  | autoHush (p : Fin 144)
  /-- DOMAIN_WAKE (R475): A wake request starts a domain's exit from a low-power state. -/
  | domainWake (d : Fin 176)
  /-- DOMAIN_WAKE_COMPLETE (R328): A domain finishes its exit; from L5 its memories are cleared and its control store filled. -/
  | domainWakeComplete (d : Fin 176)
  /-- SUPPLY_SAG (R478): A rail falling below its threshold, or PWR_WARN# asserted, inhibits non-volatile writes. -/
  | supplySag (c : SagCond)
  /-- INHIBIT_RELEASE (R478): A rail back at its release level for 100 µs lifts its inhibit. -/
  | inhibitRelease (c : SagCond)
  /-- OWNER_LOCK (R491): Mailbox command: lock the device to an owner key. -/
  | ownerLock (i : Initiator)
  /-- OWNER_TRANSFER (R491): Mailbox command: transfer ownership to a new key. -/
  | ownerTransfer (i : Initiator)
  /-- RAISE_FLOOR (R491): Mailbox command: raise BFLOOR or PFLOOR. -/
  | raiseFloor (i : Initiator)
  /-- REVOKE_VKEY (R491): Mailbox command: revoke a vendor key. -/
  | revokeVkey (i : Initiator)
  /-- FLASH_ERASE (R491): Mailbox command: erase boot-flash sectors. -/
  | flashErase (i : Initiator)
  /-- FLASH_PROGRAM (R491): Mailbox command: program the boot flash. -/
  | flashProgram (i : Initiator)
  /-- FLASH_READ (R491): Mailbox command: read boot flash into the buffer. -/
  | flashRead (i : Initiator)
  /-- CARTRIDGE_INSERT (R497): A cartridge detected at start or insertion is probed and challenged. -/
  | cartridgeInsert (c : CartId)
  /-- CARTRIDGE_REMOVE (R502): A cartridge removed loses any write in progress and records stay queued. -/
  | cartridgeRemove
  /-- ADOPT (R498): Writing SB_CTRL.ADOPT on a FOREIGN cartridge erases and binds it. -/
  | adopt
  /-- CKPT_SAVE (R503): SB_CKPT OP SAVE copies a partition's committed state to a cartridge slot. -/
  | ckptSave
  /-- CKPT_RESTORE (R504): SB_CKPT OP RESTORE writes a slot into the committed slots and restores and resumes the partition. -/
  | ckptRestore
  /-- CKPT_PERIODIC_START (R503): Every INTV seconds a periodic save starts, alternating slots. -/
  | ckptPeriodicStart
  /-- CKPT_DONE (R505): A checkpoint operation completes with its status. -/
  | ckptDone (media : Bool)
  /-- HALTREQ (R507): Writing DBG_CTRL.HALTREQ requests a halt of the sequencer. -/
  | haltreq (b : Blk)
  /-- DBG_RELEASE (R508): Writing DBG_CTRL.RELEASE releases a halt, of the whole partition in LOCKSTEP. -/
  | dbgRelease (b : Blk)
  /-- DBG_STEP (R510): Writing DBG_CTRL.STEP executes one instruction and halts with CAUSE STEP. -/
  | dbgStep (b : Blk)
  /-- GIRTH_FIRE (R514): A Girth channel fires on a selected source and stops, interrupts or marks. -/
  | girthFire (n : BitVec 3) (src : BitVec 3)
  /-- GIRTH_TRIG (R515): Writing GIRTH_CMD.TRIG raises the software source of channels. -/
  | girthTrig (v : BitVec 8)
  /-- GIRTH_RELEASE (R515): Writing GIRTH_CMD.REL releases stopped partitions. -/
  | girthRelease (v : BitVec 16)
  /-- GIRTH_RELCHIP (R515): Writing GIRTH_CMD.RELCHIP releases a chip-scope stop. -/
  | girthRelchip
  /-- WD_ENABLE (R516): Writing WD_CFG.EN = 1 starts a watchdog window. -/
  | wdEnable (b : Blk) (v : Word)
  /-- WD_KICK (R516): Writing WD_CNT.KICK kicks the watchdog, accepted or counted as an expiry. -/
  | wdKick (b : Blk)
  /-- WD_EXPIRY (R516): The watchdog window expires, raising WDOG and on a second expiry Girth source 5. -/
  | wdExpiry (b : Blk)
  /-- TIMER_START (R518): Writing TMRn.EN = 1 loads REMAIN from PERIOD. -/
  | timerStart (b : Blk) (n : BitVec 2) (v : Word)
  /-- TIMER_EXPIRY (R518): A block timer reaches 0, raises its BIC source and reloads or stops. -/
  | timerExpiry (b : Blk) (n : BitVec 2)
  /-- QREAD (R519): Awl quiet read frame. -/
  | qread (key : BitVec 4) (a : BitVec 40) (par : Bool)
  /-- CREAD (R519): Awl consume read frame. -/
  | cread (key : BitVec 4) (a : BitVec 40) (par : Bool)
  /-- AWL_WRITE (R519): Awl write frame. -/
  | awlWrite (key : BitVec 4) (a : BitVec 40) (v : Word) (par : Bool)
  /-- PREAD (R519): Awl port-register read frame. -/
  | pread (a : BitVec 40) (par : Bool)
  /-- PWRITE (R519): Awl port-register write frame. -/
  | pwrite (a : BitVec 40) (v : Word) (par : Bool)
  /-- AWL_ABORT (R521): Writing AWL_STATUS.ABORT discards the outstanding Awl request. -/
  | awlAbort
  /-- STITCH_PORT_WRITE (R523): A write to an enabled Stitch port produces a trace packet. -/
  | stitchPortWrite (b : Blk) (k : BitVec 5) (v : Word) (credit : Bool)
  /-- TRACE_PACKET (R525): A trace packet reaches the sink and is written to the buffer or counted lost. -/
  | tracePacket (p : BitVec 128)
  /-- WARNING (R527): A warning ALARM is sent or counted under Spillway coalescing. -/
  | warning (code : Fin 10) (u : BitVec 10) (credit : Bool)
  /-- SPILLWAY_WINDOW_END (R527): At a coalescing window's end, counted warnings are sent as summaries. -/
  | spillwayWindowEnd
  /-- CAPTURE_EDGE (R530): At the capture edge the partition stops and readout begins. -/
  | captureEdge (n : Part)
  /-- CAPTURE_READOUT_DONE (R530): When the whole capture buffer has been written, the partition resumes or stays stopped. -/
  | captureReadoutDone (n : Part)
  /-- GPIO_EDGE (R545): A synchronised input edge on a GPIO pin raises its CIC and Girth sources per EDGE. -/
  | gpioEdge (n : BitVec 4) (level : Bool)
  /-- GPIO_CONFIG_WRITE (R544): A write of GPIO_CFGi takes effect for permitted writers and unheld pins. -/
  | gpioConfigWrite (i : Initiator) (n : BitVec 4) (v : BitVec 32)
  /-- THERMAL_SAMPLE (R547): Each 1 ms thermal sample lowers or restores PMAX against 100 °C. -/
  | thermalSample (tmax : BitVec 8)
  /-- THERMTRIP (R548): TMAX at or above 120 °C for 10 µs asserts and latches THERMTRIP#. -/
  | thermtrip
  /-- POWER_DOWN (R476): The board removes the supplies, including VDD_AON, and the device goes unpowered. -/
  | powerDown
  /-- REFCLK_RESTART (R463): After REFCLK has been present for 1 ms again, with PERST# released, the device leaves its reset state and restarts boot. -/
  | refclkRestart
  /-- PCIE_LINK_TRAINED (R396): PCI Express link training completes at the highest common rate and width, setting HI_STATUS.SPEED, WIDTH and FLIT. -/
  | pcieLinkTrained (speed : BitVec 4) (width : BitVec 5) (flit : Bool)
  /-- REIN_PARTNER_DETECTED (R430): A Rein port's lanes detect a partner, train, measure latency, check REFCLK and go UP, MISMATCH or DOWN with cause CLOCK. -/
  | reinPartnerDetected (p : BitVec 2) (lat : BitVec 8) (clockOk : Bool) (lanes : BitVec 17)
  /-- ROW_SPARE_COPY_DONE (R315): The copy of a failing DRAM row to its spare completes, the address is redirected and waiting requests to the row proceed. -/
  | rowSpareCopyDone (c : DramCopy)
  /-- DOMAIN_ENTRY_COMPLETE (R475): A domain finishes entering its requested low-power state; CUR and BUSY update and any waiting request is taken. -/
  | domainEntryComplete (d : Fin 176)
  /-- MAILBOX_COMMAND_DONE (R493): A security mailbox command finishes its fuse burn or flash operation, sets STATUS and DONE, clears BUSY and raises the SEC source. -/
  | mailboxCommandDone
  /-- DOE_DISCOVERY (R405): The PF's DOE mailbox answers a DOE Discovery data object. -/
  | doeDiscovery (index : BitVec 8)
  /-- HOST_READ_COMPLETION (R415): A PCI Express completion arrives from the host for a device-initiated read of host memory, such as an SQ fetch, a COPY or a HOST DMA, delivering data or failing with HOSTERR. -/
  | hostReadCompletion (id : Nat) (data : Option (List Byte))
  deriving DecidableEq, Repr, Inhabited

end Sys2Proof
end

