-- ==== Sys2Proof/Config.lean ====
section
/-! DEFINITION. What the spec leaves to the device or leaves open, as constants without a body: no proof can see what
they are, so a claim that holds here holds whatever they are. -/

namespace Sys2Proof.Config

/-- The n-th value that the spec leaves undefined (R66, R96, R253 and the other rules that log entry 1 lists). -/
opaque freeValue : Nat → BitVec 64

/-- The same for a plane or a net over a block: one value for each of its 16,384 cells. -/
opaque freePlane : Nat → BitVec 16384

/-- The X (bit 1) and Y (bit 0) that an array instruction leaves in a cell that writes: they depend on the instruction with
its operands, and on the cell's planes and its X, Y, C, A and T, and on nothing else (R128). -/
opaque arrayXY : List (BitVec 64) → BitVec 2048 → BitVec 5 → BitVec 2

/-- The check byte of a flit's word: an 8-bit SEC-DED code whose matrix the spec does not give (R349). -/
opaque checkByte : BitVec 64 → Byte

/-- Word n of the mask ROM's vendor microcode (R276); the spec gives no vendor routine's words. -/
opaque romWord : Nat → BitVec 192

/-- The mask ROM's dispatch entry for primary opcode e (R281). -/
opaque romEntry : Nat → BitVec 64

/-- The fingerprint of a customer store and its entries (R306): equal contents give equal values. -/
opaque fingerprint : List (Nat × BitVec 196) → List (Nat × BitVec 64) → BitVec 64

/-- ML-DSA-65 verification: public key, context string, message, signature (FIPS 204). -/
opaque mldsaVerify : List Byte → List Byte → List Byte → List Byte → Bool

/-- The public key that ML-DSA-65 key generation derives from a 32-byte seed, and a signature made with that key: seed,
message (FIPS 204, R494). -/
opaque mldsaPublic : List Byte → List Byte
opaque mldsaSign : List Byte → List Byte → List Byte

/-- AES-256-GCM decryption: key, nonce, tag, additional data, ciphertext; none when the tag does not match. -/
opaque gcmOpen : BitVec 256 → List Byte → List Byte → List Byte → List Byte → Option (List Byte)

/-- Vendor key n, and the cartridge root key, of the mask ROM (R481, R482). -/
opaque vendorKey : Nat → List Byte
opaque cartRootKey : List Byte

/-- A random value drawn by the security unit: the n-th. -/
opaque random : Nat → BitVec 384

/-- The first byte of the entries of the boot flash's directory, and what the 16 bytes of one hold: type, copy (0 A, 1 B),
offset, length; the spec lays neither out (R485). -/
opaque flashTable : Nat
opaque flashEntry : List Byte → Nat × Nat × Nat × Nat

/-- Bytes of an erase sector, and of a page, of the boot flash (R479, R491). -/
opaque flashSector : Nat
opaque flashPage : Nat

/-- The mask ROM's recovery firmware identity (R495). -/
opaque recoveryDigest : BitVec 384

/-- The certificate chain in SPDM slot n, from the flash's CERT item and the Alias public key; empty when there is none
(R494, R495). -/
opaque certChain : Nat → List Byte → List Byte → List Byte

/-- A SPDM measurement whose input the spec names and does not lay out: index, the values it covers (R495). -/
opaque measure : Nat → List Nat → BitVec 384

/-- The digest of the leaf certificate of the cartridge with a serial number, under a root key (R481, R495). -/
opaque cartLeaf : List Byte → BitVec 128 → BitVec 384

/-- Configuration dword d of function f where the spec and the PCI Express header leave its value open. -/
opaque cfgOpen : Nat → Nat → BitVec 32

/-- Dword i of the header that the AER capability logs for a request of function f, write or not, that failed at an address
(R403); the spec does not lay it out. -/
opaque tlpHeader : Nat → Bool → Nat → Nat → BitVec 32
end Sys2Proof.Config
end

