-- ==== Sys2Proof/Machine/State.lean ====
section
/-! DEFINITION. The state of the Fyund as plain data: its registers by digit address, its memories, its cells, the
hidden state of its sequencers and engines, and the queue of commands that wait. Sparse parts are lists of
(key, value) pairs in rising key order that leave out every entry equal to the part's default. -/

namespace Sys2Proof.Machine

/-- Why the block stops with a fault. No command of the Fyund stops it: every error the spec names is an answer, a
trap or a machine check, and each is a next state. -/
inductive Fault where
  /-- Raised by no command. Safe: nothing depends on it. -/
  | unused
  deriving DecidableEq, Repr, Inhabited

/-- Why a command has no outcome. -/
inductive Refusal where
  /-- The row has no meaning in this model yet; raised by Dispatch alone. Safe: nothing is claimed of it. -/
  | notModelled (mnemonic : String)
  deriving DecidableEq, Repr, Inhabited

/-- One visible cell: its five registers (R84) and its 2,048 plane bits, bit p being plane p (R95). -/
structure Cell where
  x : Bool := false
  y : Bool := false
  c : Bool := false
  a : Bool := false
  t : Bool := false
  planes : BitVec 2048 := 0
  deriving DecidableEq, Repr, Inhabited

/-- A result slot (R113): its word in the form of R149 and the request that has not completed yet. -/
structure Slot where
  word : Word := 0
  busy : Bool := false
  /-- the word the pending request delivers when it combines -/
  next : Word := 0
  deriving DecidableEq, Repr, Inhabited

/-- A local load still in its delay slots (R249): register identifier (R271), value, slots still to run. -/
structure PendLoad where
  reg : Nat := 0
  val : Word := 0
  slots : Nat := 0
  deriving DecidableEq, Repr, Inhabited

/-- An LDX destination that waits for its response (R267). -/
structure LdxPend where
  id : Nat := 0
  reg : Nat := 0
  n : Nat := 0
  sext : Bool := false
  deriving DecidableEq, Repr, Inhabited

/-- The micro-engine of a sequencer (R284-R290, R293). -/
structure Micro where
  upc : BitVec 14 := 0
  pp0 : BitVec 11 := 0
  pp1 : BitVec 11 := 0
  pp2 : BitVec 11 := 0
  pp3 : BitVec 11 := 0
  sa : Word := 0
  sb : Word := 0
  sz : Bool := false
  sn : Bool := false
  sc : Bool := false
  lc0 : BitVec 16 := 0
  lc1 : BitVec 16 := 0
  lc2 : BitVec 16 := 0
  lc3 : BitVec 16 := 0
  stack : List (BitVec 14) := []
  tar : BitVec 12 := 0
  /-- the write mark (R293), RSM of the entry, SVS and SVP of the safe point at which it stands -/
  mark : Bool := false
  rsm : Bool := false
  svs : Bool := false
  svp : Bool := false
  /-- it stands at a safe point with a request that was pending there: the yield is due (R294) -/
  sp : Bool := false
  /-- it has halted at the UBRK of its next microword (R292) -/
  brk : Bool := false
  /-- microwords issued since dispatch or the last safe point (R301) -/
  run : Nat := 0
  /-- safe points passed (STEP of R233's card) -/
  steps : Nat := 0
  pc : BitVec 20 := 0
  w : BitVec 32 := 0
  d : Word := 0
  s : Word := 0
  u : Word := 0
  /-- DCTL and RCTL as dispatched (R223) -/
  dctl : Word := 0
  rctl : Word := 0
  /-- dispatched by the lead device of a cascade (R433) -/
  far : Bool := false
  /-- the edge data of its next microword has left this device, and the sides through which its nets have (R435) -/
  edge : Bool := false
  nets : Nat := 0
  /-- the lead has decided that it yields at this safe point, with this cause (R434) -/
  stop : Option (BitVec 16 × BitVec 8) := none
  deriving DecidableEq, Repr, Inhabited

/-- A suspended array instruction: the resume record's contents (R223) and, for a microcoded one, its micro-engine. -/
structure Susp where
  w : BitVec 32 := 0
  pc : BitVec 20 := 0
  d : Word := 0
  s : Word := 0
  u : Word := 0
  dctl : Word := 0
  rctl : Word := 0
  step : Nat := 0
  /-- AEDIT: source digits left and position of the last digit byte, from the check stage on (R219); a search through the
  result slots: its range and first OR (R146); ASUM: what it has summed (R150); ASHF: the steps whose edge data it has sent -/
  cnt : Nat := 0
  /-- AMVS over its own length field: the lengths that active cells held, by cell (R213, R225) -/
  lens : List (Nat × Nat) := []
  /-- ASHF outside LOCKSTEP: for each leg between two yields the step at which it ended, and the cells into which a 1 came
  from another program's block (R104, R130, R139) -/
  legs : List (Nat × List Nat) := []
  /-- the words of the four result slots at the yield (R297) -/
  slots : List Word := []
  /-- the interrupt handler has been entered -/
  entered : Bool := false
  micro : Option Micro := none
  /-- dispatched by the lead device of a cascade: the AEDIT pattern that came with it (R433) -/
  far : Option (List Byte) := none
  /-- the lead has let it go on to its end -/
  go : Bool := false
  deriving DecidableEq, Repr, Inhabited

/-- An access to the control store that waits (R20): a dispatch entry with its value in q0, a read of a quarter, or a
commit with the staged quarters. -/
structure CsPend where
  entry : Bool := false
  rd : Option (BitVec 2) := none
  /-- a read by the security unit -/
  sec : Bool := false
  n : BitVec 14 := 0
  q0 : Option Word := none
  q1 : Option Word := none
  q2 : Option Word := none
  deriving DecidableEq, Repr, Inhabited

/-- The part of a sequencer that no digit address reaches (R235, R137, R113, R265). Its registers, its PC (DBG_PC) and
its halt state (DBG_STATUS) are in State.regs. -/
structure Seq where
  rbr : BitVec 128 := 0
  cbr : BitVec 128 := 0
  slot0 : Slot := {}
  slot1 : Slot := {}
  slot2 : Slot := {}
  slot3 : Slot := {}
  /-- the reserved line: digit address of its first digit and its length in digits (R265) -/
  resv : Option (Nat × Nat) := none
  loads : List PendLoad := []
  ldx : List LdxPend := []
  /-- failed mesh responses whose imprecise trap is still to be taken: status and digit address (R268) -/
  meshTraps : List (BitVec 8 × Addr) := []
  micro : Option Micro := none
  susp : Option Susp := none
  /-- the record that the resume area holds since the latest yield (R297) -/
  area : Option Susp := none
  /-- a resumed instruction that continues when the sequencer issues again (R225) -/
  resume : Option Susp := none
  /-- executing within a program -/
  inProg : Bool := false
  /-- within a run that RUN or RESTORE opened (R413) -/
  inRun : Bool := false
  /-- a single step is under way (R510) -/
  stepping : Bool := false
  /-- in WAIT (R273) -/
  waiting : Bool := false
  /-- exit code stored to HI_EXIT, taken at the next boundary (R413) -/
  exit : Option (BitVec 32) := none
  epochReq : Bool := false
  /-- stopped at an epoch boundary, held by Girth until it is over (R377) -/
  epochStop : Bool := false
  /-- pending plane repair: plane, row, group (R116) -/
  repair : Option (BitVec 11 × BitVec 7 × Bool) := none
  /-- staged quarters of a control-store word (R279) -/
  stage : Option (BitVec 14 × Option Word × Option Word × Option Word) := none
  /-- a commit or entry write that waits for the control store (R20) -/
  csWait : List CsPend := []
  /-- corrected scratchpad and turn words still to be rewritten (R322, R325) -/
  spWb : List Nat := []
  tmWb : List Nat := []
  /-- the PC of the latest issue, whose line the fetch unit holds, and the bounds of the loop that the loop buffer holds
  (R244, R245; log entry 72) -/
  fetched : Option Nat := none
  buf : Option (Nat × Nat) := none
  /-- rotating pointers of the scratchpad's idle cycles and of turn port B (R321, R323) -/
  spPtr : Nat := 0
  tmPtr : Nat := 0
  /-- corrections of this epoch, the column in which the first of them lay, and whether others lay elsewhere (R388) -/
  corr : Nat := 0
  corrCol : Option (Fin 144) := none
  corrMix : Bool := false
  /-- a migration is due since the last commit (1), or under way (2), and the column that it moves, none for the whole
  block (R388) -/
  mig : Nat := 0
  migCol : Option (Fin 144) := none
  /-- twin column of the roving twin (R119) -/
  twinCol : BitVec 7 := 0
  /-- Stitch packets dropped at the source port since the last one sent (R529) -/
  lost : Nat := 0
  deriving DecidableEq, Repr, Inhabited

/-- One partition as its PART record sets it (R51). -/
structure Partition where
  indep : Bool := false
  regmask : BitVec 16 := 0
  lead : Blk := 0
  ew : BitVec 2 := 0
  ns : BitVec 2 := 0
  scope : BitVec 3 := 0
  close : Bool := false
  epochMs : Nat := 10
  sluice : BitVec 2 := 0
  gpio : BitVec 16 := 0
  rein : BitVec 4 := 0
  deriving DecidableEq, Repr, Inhabited

/-- A region's settings from its REGION record (R55). -/
structure RegionCfg where
  adiv : BitVec 2 := 0
  curve : BitVec 2 := 0
  top : BitVec 4 := 15
  pol : BitVec 2 := 0
  nolend : Bool := false
  exclude : BitVec 9 := 0
  sparePwr : BitVec 3 := 4
  deriving DecidableEq, Repr, Inhabited

/-- A SEG entry in force (R62), as its 64 bits. -/
abbrev SegEntry := BitVec 64

/-- The CASCADE record in force (R58). -/
structure Cascade where
  role : BitVec 2 := 0
  w : BitVec 2 := 0
  h : BitVec 2 := 0
  posX : BitVec 2 := 0
  posY : BitVec 2 := 0
  ports : BitVec 4 := 0
  byImage : Bool := false
  cpid : Part := 0
  deriving DecidableEq, Repr, Inhabited

/-- Everything an image sets (R39). -/
structure Settings where
  parts : List (Nat × Partition) := []
  regions : List (Nat × RegionCfg) := []
  /-- gang code by logical block (R56) -/
  gang : List (Nat × BitVec 3) := []
  /-- release power state by logical block (R56) -/
  pwr : List (Nat × BitVec 3) := []
  segs : List SegEntry := []
  cascade : Cascade := {}
  /-- release states of memory-controller domains and the Saddlebag domain (R59) -/
  chip : List (Nat × BitVec 3) := []
  /-- interrupt routes by source (R60), the entry's bits [21:4] -/
  irq : List (Nat × BitVec 32) := []
  deriving DecidableEq, Repr, Inhabited

/-- The image engine's load in progress (R68-R77): what CHECK found in the header, the frames read, and what VERIFY made
of them. -/
structure ImgLoad where
  partial_ : Bool := false
  v1 : Bool := false
  partMask : BitVec 16 := 0
  version : BitVec 32 := 0
  signed : Bool := false
  /-- regions affected by the load, and the partitions it replaces (R72) -/
  affected : BitVec 16 := 0
  replaced : List Nat := []
  count : Nat := 0
  /-- frames read so far -/
  frames : List (List Byte) := []
  /-- the LOAD_IMAGE command that started it: function, queue, command -/
  cmd : Option (Nat × Nat × BitVec 512) := none
  /-- the settings in force after the load, ready from VERIFY on -/
  staged : Option Settings := none
  /-- regions of the staged partitions: region to partition -/
  owner : List (Nat × Nat) := []
  /-- DIGEST of the trailer -/
  digest : BitVec 384 := 0
  /-- it belongs to a cascade-wide load (R80), and this device leads it -/
  wide : Bool := false
  leads : Bool := false
  /-- member devices that have reported VERIFIED, and the release tick (R432) -/
  verified : List (BitVec 4) := []
  relTick : Option Nat := none
  /-- tick at which VERIFY ended -/
  verTick : Nat := 0
  deriving DecidableEq, Repr, Inhabited

/-- A mesh request in flight (R350, R353). -/
structure MeshReq where
  id : Nat := 0
  src : Initiator := .controller
  /-- issuing partition, when the initiator belongs to one -/
  part : Option Nat := none
  wr : Bool := false
  addr : Nat := 0
  len : Nat := 1
  key : BitVec 4 := 0
  quiet : Bool := false
  data : List Digit := []
  /-- its transaction: source router, source port and TAG (R345, R359) -/
  home : Nat := 0
  sport : Nat := 0
  tag : Nat := 0
  /-- NCLK in which it left its source (R360), and in which it took its tag (R371) -/
  sent : Nat := 0
  taken : Nat := 0
  /-- waits at its source for a tag (R359) -/
  untagged : Bool := false
  /-- presented behind the fence of its own domain: it waits at the fence point until the fence lifts (R367) -/
  fenced : Bool := false
  /-- its place in the order in which requests reached their targets, 0 while it is on its way, and the NCLK of its
  arrival (R23, R358) -/
  seq : Nat := 0
  cyc : Nat := 0
  /-- answered by its tracker at the timeout; the late response is discarded (R360) -/
  timedOut : Bool := false
  /-- parked at the gateway or waiting for a shadow copy or zeroing (R379, R310) -/
  parked : Bool := false
  /-- held at the fence point of a domain, 10 g + j (R366, R368) -/
  held : Option Nat := none
  /-- released by that fence: it comes before any later packet to the domain (R368) -/
  freed : Bool := false
  /-- it has passed the fence point of its target and waits behind it (R366) -/
  passed : Bool := false
  /-- RT_ISO.ISO and GW_SLUICE.POL in force when it entered the queues of a router that has changed them since (R370) -/
  old : Option (BitVec 10 × BitVec 10) := none
  /-- stands at the port of its memory and waits for a grant (R23, R321, R323), or for the control store (R20) -/
  atPort : Bool := false
  /-- digits of it that turn port B has served (R321), and those it has read -/
  off : Nat := 0
  got : List Digit := []
  /-- performed, and its response was lost on the way: only its tracker can answer it (R360, R361) -/
  done : Bool := false
  /-- its partition has rolled back or been halted for good: nothing is performed and the response is discarded on
  arrival (R384) -/
  dead : Bool := false
  /-- it named this device's own DRAM by its cascade address (R440) -/
  own : Bool := false
  /-- a held write on its way after its commit: the partition that issued it and the region whose log held it (R380) -/
  logOf : Option (Nat × Nat) := none
  deriving DecidableEq, Repr, Inhabited

/-- A response on its way back (R353). -/
structure MeshResp where
  id : Nat := 0
  req : MeshReq := {}
  status : BitVec 8 := 0
  data : List Digit := []
  /-- the router and the source port from which it comes (R358) -/
  via : Nat × Nat := (0, 0)
  deriving DecidableEq, Repr, Inhabited

/-- A completion entry that waits for its CQ (R407, R408). -/
structure Compl where
  f : Nat := 0
  q : Nat := 0
  cid : BitVec 16 := 0
  status : BitVec 8 := 0
  sqhd : BitVec 16 := 0
  detail : BitVec 16 := 0
  result : Word := 0
  deriving DecidableEq, Repr, Inhabited

/-- What the device sends out of the package or shows at its pins. -/
inductive Out where
  /-- posted write into host memory with a requester function -/
  | hostWrite (f : Nat) (addr : Nat) (data : List Byte)
  /-- read request to host memory -/
  | hostRead (f : Nat) (id : Nat) (addr : Nat) (len : Nat)
  /-- completion of a host read: 0 SC, 1 UR, 4 CA, 8 poisoned data -/
  | readCpl (f : Nat) (status : Nat) (data : List Byte)
  | cfgCpl (f : Nat) (status : Nat) (data : BitVec 32)
  /-- MSI-X message of a function's vector: the function whose requester ID it carries, the table entry's address and data -/
  | msix (r f : Nat) (vector : Nat) (addr : Nat) (data : BitVec 32)
  /-- value that a register read returned -/
  | regRead (addr : Nat) (val : Word)
  /-- SPDM or DOE response object -/
  | doe (data : List Byte)
  /-- Awl acknowledge and read data -/
  | awl (ack : BitVec 3) (data : Option Word)
  /-- PMBus VOUT_COMMAND in mV -/
  | vout (mv : Nat)
  | thermtrip (on : Bool)
  /-- frame to a Rein port: CTRL message code, device, epoch or tick -/
  | rein (p : Nat) (kind : Nat) (arg : Word)
  /-- packet on the mesh's VC3 to the debug unit: ALARM of R528, and the place within its unit that it names (R365) -/
  | alarm (cls code : Nat) (unit part count first last place : Nat)
  | trace (p : BitVec 128)
  /-- an OR and count partial toward the lead, or a result from it, of a slot (R438) -/
  | orc (p : Nat) (slot : Nat) (m : OrcFrame)
  /-- edge data sent through a Rein port (R435) -/
  | edge (p : Nat) (m : EdgeMsg)
  /-- array instruction dispatched through a Rein port (R433) -/
  | disp (p : Nat) (m : DispFrame)
  /-- tunnelled packet forwarded to a port -/
  | tun (p : Nat) (m : TunMsg)
  /-- flit sent from a router through a port, on a channel -/
  | flit (r : Nat) (port : RPort) (vc : Nat) (f : Flit)
  /-- flit that a unit presents to its router at a local port, on a channel -/
  | present (r : Nat) (port : RPort) (vc : Nat) (f : Flit)
  /-- resend request of a router to its neighbour -/
  | resend (r : Nat) (port : RPort)
  | aer (f : Nat) (kind : Nat)
  deriving DecidableEq, Repr, Inhabited

/-- An effect held until the commit of its epoch (R380). -/
inductive Held where
  | hostWrite (init : Initiator) (f : Nat) (addr : Nat) (data : List Byte)
  | compl (c : Compl)
  | msix (f : Nat) (vector : Nat)
  | meshWrite (r : MeshReq)
  deriving DecidableEq, Repr, Inhabited

/-- A DMA channel's descriptor in progress (R341): its ring entry and words, the next row and the digits of it already
moved, the requests without a response (number, local digit offset, remote address), data that has arrived and waits for
a cycle of the local memory (local digit offset, digits), and how it fails, if it does. -/
structure DmaRun where
  entry : Nat := 0
  w0 : Word := 0
  w1 : Word := 0
  w2 : Word := 0
  w3 : Word := 0
  row : Nat := 0
  off : Nat := 0
  out : List (Nat × Nat × Nat) := []
  inbox : List (Nat × List Digit) := []
  status : BitVec 8 := 0
  /-- the number of the request at which it failed, 0 for none -/
  failId : Nat := 0
  eaddr : Word := 0
  deriving DecidableEq, Repr, Inhabited

/-- A fetched host command whose completion has not been posted (R407). -/
structure HostCmd where
  f : Nat := 0
  q : Nat := 0
  body : BitVec 512 := 0
  sqhd : BitVec 16 := 0
  started : Bool := false
  /-- number of the doorbell that submitted it (R420) -/
  stamp : Nat := 0
  deriving DecidableEq, Repr, Inhabited

/-- A run (R412-R414): its command (none for a restored run), the sequencers it started, their exit codes. -/
structure Run where
  part : Nat := 0
  cmd : Option (Nat × Nat × BitVec 512) := none
  blocks : List Nat := []
  exits : List (Nat × BitVec 32) := []
  /-- blocks that wait for a wake before they start -/
  waking : List Nat := []
  deadline : Option Nat := none
  ended : Bool := false
  deriving DecidableEq, Repr, Inhabited

/-- The committed state of a partition (R378): what a rollback restores. -/
structure Snap where
  cells : List (Nat × Cell) := []
  mem : List Host.Cell := []
  regs : List (Nat × Word) := []
  seqs : List (Nat × Seq) := []
  dma : List (Nat × DmaRun) := []
  runs : List Run := []
  /-- power states of the partition's domains at the boundary: by logical block, by 128 + region for its gateway, and by
  256 + logical block for the memories of a folded one (R378, R382) -/
  pwr : List (Nat × BitVec 3) := []
  parked : List MeshReq := []
  /-- pending CIC sources that the partition owns -/
  cicPend : List (Nat × Word) := []
  deriving DecidableEq, Repr, Inhabited

/-- A partition's epoch state (R376-R380). -/
structure Epoch where
  /-- next scheduled boundary tick -/
  next : Nat := 0
  /-- 0 none, else the boundary step reached: 1 request, 2 stop, 3 quiesce done, 4 copied -/
  step : Nat := 0
  /-- the step-4 copy in the alternate slots -/
  alt : Option Snap := none
  /-- the committed slots -/
  com : Option Snap := none
  held : List Held := []
  /-- frames shadowed in the open epoch (R379) -/
  shadowed : List Nat := []
  /-- elements struck since the last commit (R375): source class, unit, location -/
  strikes : List (BitVec 8 × BitVec 10 × BitVec 64) := []
  /-- a boundary waits for the end of a rollback or stop (R376, R511) -/
  defer : Bool := false
  /-- EPOCH commands that wait for the next commit: function, queue, command -/
  waiters : List (Nat × Nat × BitVec 512) := []
  /-- L5 requests that wait for the boundary (R382): domain -/
  off : List Nat := []
  /-- power requests that agents outside the partition have made since the boundary (R378): domain, state, domains named -/
  preq : List (Nat × BitVec 3 × List Nat) := []
  /-- an early boundary has been requested and has not begun (R379) -/
  early : Bool := false
  /-- tick at which the lead sent PREPARE (R389) -/
  prep : Nat := 0
  /-- halted or stopped when the rollback began (R511) -/
  wasHalted : Bool := false
  rolling : Bool := false
  /-- failed blocks whose replacement waits for the end of a load (R79): block, source class, whether its memories answer -/
  wait : List (Nat × BitVec 8 × Bool) := []
  deriving DecidableEq, Repr, Inhabited

/-- A capture that waits for its edge or reads out (R418, R530). -/
structure Capture where
  part : Nat := 0
  f : Nat := 0
  q : Nat := 0
  body : BitVec 512 := 0
  edge : Option Word := none
  deriving DecidableEq, Repr, Inhabited

/-- A journal record (R393); its CRC is computed when the record is written. -/
structure JRec where
  time : Word := 0
  kind : BitVec 8 := 0
  src : BitVec 8 := 0
  pid : BitVec 8 := 0
  dev : BitVec 8 := 0
  unit : BitVec 16 := 0
  arg : BitVec 16 := 0
  epoch : BitVec 32 := 0
  loc : BitVec 64 := 0
  deriving DecidableEq, Repr, Inhabited

/-- A checkpoint slot of a cartridge (R503). -/
structure CartSlot where
  regmask : BitVec 16 := 0
  pver : BitVec 32 := 0
  digest : BitVec 384 := 0
  epoch : BitVec 32 := 0
  mems : Bool := false
  snap : Snap := {}
  deriving DecidableEq, Repr, Inhabited

/-- A cartridge in the bay (R496-R501). -/
structure Cart where
  id : CartId := { gen := 0, serial := 0, chainOk := false, sigOk := false, blank := true, bind := 0, written := 0, rated := 0 }
  journal : List JRec := []
  spare : List JRec := []
  seq : Nat := 0
  slots : List (Nat × CartSlot) := []
  /-- bytes written beyond the last whole MiB of WRITTEN -/
  rest : Nat := 0
  deriving DecidableEq, Repr, Inhabited

/-- What a mesh request of the host interface serves: a part of a host read, a posted write, a packet of a COPY (R402,
R415). -/
inductive HostPend where
  | read (group off : Nat)
  | write
  | copy (f q : Nat) (body : BitVec 512) (off len : Nat)
  deriving DecidableEq, Repr, Inhabited

/-- A host read whose packets are on their way: function, length in digits, parts still out, the first failing status,
the digits that arrived with their offset. -/
structure HostRead where
  f : Nat := 0
  len : Nat := 0
  left : Nat := 0
  status : Nat := 0
  parts : List (Nat × List Digit) := []
  deriving DecidableEq, Repr, Inhabited

/-- What a read of host memory is for (R415, R399). -/
inductive HostPurpose where
  | sqFetch (f q : Nat)
  | copy (f q : Nat) (body : BitVec 512) (off : Nat)
  | image (f q : Nat) (body : BitVec 512)
  | microcode (f q : Nat) (body : BitVec 512)
  | dma (b : Nat) (ch : Bool) (row : Nat)
  deriving DecidableEq, Repr, Inhabited

structure HostRd where
  id : Nat := 0
  purpose : HostPurpose := .sqFetch 0 0
  addr : Nat := 0
  len : Nat := 0
  /-- function whose requester ID it carries (R399) -/
  f : Nat := 0
  /-- bytes asked for in the request that is out; 0 while it waits for one to be allowed (R396) -/
  ask : Nat := 0
  /-- what earlier requests of it have returned -/
  got : List Byte := []
  deriving DecidableEq, Repr, Inhabited

/-- Counters of a queue pair, and QCFG as it took effect (R406). -/
structure QState where
  cfg : Word := 0
  sqHead : BitVec 16 := 0
  sqTail : BitVec 16 := 0
  cqTail : BitVec 16 := 0
  cqHead : BitVec 16 := 0
  phase : Bool := true
  /-- numbers of the doorbells of its commands that are not fetched yet, oldest first (R420) -/
  stamps : List Nat := []
  deriving DecidableEq, Repr, Inhabited

/-- The host interface. -/
structure HostSt where
  queues : List (Nat × QState) := []
  /-- rotating pointer over queues (R407) -/
  rr : Nat := 0
  /-- doorbells so far (R420) -/
  bells : Nat := 0
  /-- commands fetched whose completion is not posted, in fetch order (R407) -/
  cmds : List HostCmd := []
  compls : List Compl := []
  runs : List Run := []
  caps : List Capture := []
  rds : List HostRd := []
  /-- mesh requests of the host interface by number, and host reads by group -/
  reqs : List (Nat × HostPend) := []
  reads : List (Nat × HostRead) := []
  /-- FENCE commands in mode POWER that wait: function, queue, command -/
  powers : List (Nat × Nat × BitVec 512) := []
  /-- MSI-X table by dword, key 4 (2048 f + v) + i, and pending-bit array, key 2048 f + v (R404) -/
  msixTab : List (Nat × BitVec 32) := []
  pba : List Nat := []
  /-- configuration registers written by the host, key 1024 f + dword -/
  cfg : List (Nat × BitVec 32) := []
  /-- FENCE commands that wait: function, queue, command -/
  fences : List (Nat × Nat × BitVec 512) := []
  /-- LOAD_MICROCODE accepted no more: an image load has started (R305) -/
  imgStarted : Bool := false
  /-- SPDM negotiation stage, and the messages of the exchange so far -/
  spdm : Nat := 0
  spdmLog : List Byte := []
  deriving DecidableEq, Repr, Inhabited

/-- A flit in the queue of a router input (R355): the words its check bytes cannot correct, its output and its channel's
kind, whether it has been sent on (the queue keeps it until its credit returns, R361), and the NCLK in which it came to
the head of the flits that wait. -/
structure QFlit where
  f : Flit
  bad : BitVec 8 := 0
  out : Nat := 0
  /-- last flit of its packet -/
  last : Bool := true
  /-- belongs to a machine-check alarm -/
  mc : Bool := false
  /-- its packet is thrown away here: discarded at its destination (R354, R363), or its link is down (R361) -/
  drop : Bool := false
  sent : Bool := false
  since : Nat := 0
  /-- a link-timeout warning has been sent for it (R365) -/
  warned : Bool := false
  deriving DecidableEq, Repr, Inhabited

/-- The packet that an input receives on a channel: its output, the data flits still to come, its kind. -/
structure InPacket where
  out : Nat := 0
  left : Nat := 0
  mc : Bool := false
  drop : Bool := false
  deriving DecidableEq, Repr, Inhabited

/-- The mesh. -/
structure MeshSt where
  nextId : Nat := 1
  /-- number of the next request that reaches its target (R358) -/
  nextSeq : Nat := 1
  flight : List MeshReq := []
  resps : List MeshResp := []
  /-- flits queued at router inputs: key 32 r + 4 port + vc (R355) -/
  queues : List (Nat × List QFlit) := []
  /-- the packet that a router input receives, key 32 r + 4 port + vc -/
  packets : List (Nat × InPacket) := []
  /-- channels of outputs that are allocated, key 32 r + 4 out + vc, to the packet of an input (R356) -/
  alloc : List (Nat × Nat) := []
  /-- rotating pointers of the outputs' channels by the same key: the input that comes first (R356) -/
  ptr : List (Nat × Nat) := []
  /-- NCLKs in succession in which VC0 of output 8 r + out could send and was not granted (R24) -/
  starve : List (Nat × Nat) := []
  /-- flits sent through a channel of an output whose credits have not returned, oldest first: the input that holds the
  flit, and whether it belongs to a machine-check alarm (R355) -/
  creds : List (Nat × List (Nat × Bool)) := []
  /-- credits on their way back: NCLK in which they are there, and the channel's key -/
  back : List (Nat × Nat) := []
  /-- flits of the packet that leaves through a local port, key 32 r + 4 out + vc -/
  rx : List (Nat × List QFlit) := []
  /-- resends in succession by key 32 r + 4 port + vc -/
  retry : List (Nat × Nat) := []
  /-- routers that withhold their credits for a reconfiguration, and the NCLK in which they began (R370) -/
  recfg : List (Nat × Nat) := []
  /-- live statistics counters, by the address of the register they are copied to (R371, R372) -/
  live : List (Nat × Nat) := []
  /-- tick at which the open statistics window ends, while they run (R372) -/
  statNext : Option Nat := none
  /-- responses that return to a device of the cascade: local id, port, remote id -/
  tun : List (Nat × Nat × Nat) := []
  deriving DecidableEq, Repr, Inhabited

/-- DRAM maintenance state by region (R310-R317). -/
structure DramSt where
  /-- bit k: controller k has to zero its regions before they can be used: since power-on, or since it left L5 -/
  fresh : BitVec 8 := 255
  /-- bit k: controller k is zeroing its regions -/
  zeroing : BitVec 8 := 0
  /-- spared rows by region: row address list -/
  rows : List (Nat × List Nat) := []
  /-- rows to be spared, by region: the copy of the first one is under way -/
  copying : List (Nat × List Nat) := []
  /-- words with a corrected codeword still to be written back, by region -/
  wb : List (Nat × List Nat) := []
  /-- scrub position by region, word index -/
  scrub : List (Nat × Nat) := []
  /-- rows corrected in this and in the previous scrub pass -/
  passRows : List (Nat × List Nat) := []
  lastRows : List (Nat × List Nat) := []
  /-- corrections by symbol position in this pass, key 128 g + position -/
  laneCnt : List (Nat × Nat) := []
  /-- the port's fairness (R23): key 16 g + requester, the other requesters' requests that were pending when it was last
  granted -/
  bar : List (Nat × List Nat) := []
  /-- shadow copies under way: frame and the waiting store's transaction -/
  copies : List (Nat × Nat) := []
  /-- gateways whose key reload runs (R335) -/
  reload : BitVec 16 := 0
  /-- regions that have not finished a KU_RANGE change -/
  kuBusy : Bool := false
  deriving DecidableEq, Repr, Inhabited

/-- Interrupt controllers' hidden state. -/
structure IrqSt where
  /-- BIC_CICQ entries by block, oldest first (R455) -/
  cicq : List (Nat × List (BitVec 10)) := []
  /-- end tick of open hold-off windows: key 8 b + group, and CIC group (R449) -/
  bicHog : List (Nat × Nat) := []
  cicHog : List (Nat × Nat) := []
  /-- CIC sources that wait for their resend timer: source and tick (R455) -/
  resend : List (Nat × Nat) := []
  /-- IRQ messages on their way: block, source; and answers on their way back: source, status (R455) -/
  msgs : List (Nat × Nat) := []
  acks : List (Nat × Nat) := []
  /-- IRQ messages held at a fence, and those that it has released and that come before any later packet (R368, R369): its
  domain as 10 g + j, block, source, and its place in the order of arrivals -/
  held : List (Nat × Nat × Nat × Nat) := []
  freed : List (Nat × Nat × Nat × Nat) := []
  /-- ticks until a running Wellhead timer expires (R459) -/
  wh : List (Nat × Nat) := []
  deriving DecidableEq, Repr, Inhabited

/-- Power and clock controller. -/
structure PwrSt where
  /-- domain transitions in progress: target state -/
  goal : List (Nat × BitVec 3) := []
  /-- requests that wait for a transition to end (R475) -/
  waiting : List (Nat × BitVec 3) := []
  /-- the domains that a waiting request names with its own (R474) -/
  waitNamed : List (Nat × List Nat) := []
  /-- divider groups a margin fallback excludes, by region: fastest group allowed (R468) -/
  fall : List (Nat × BitVec 2) := []
  /-- reductions of PMAX by R477 and by R547, in points, by region -/
  capCut : List (Nat × Nat) := []
  thCut : List (Nat × Nat) := []
  /-- tick since which AVG is below 95 % of LIMIT, and TMAX below 95 °C -/
  capOk : Option Nat := none
  thOk : Option Nat := none
  /-- divider switches that wait for a voltage to settle: region, code -/
  wait : List (Nat × BitVec 2) := []
  /-- switches chosen and not yet taken: region, code (R464) -/
  switch : List (Nat × BitVec 2) := []
  deriving DecidableEq, Repr, Inhabited

/-- Fuses (R481). -/
structure Fuses where
  vkrev : BitVec 4 := 0
  slot0 : BitVec 384 := 0
  slot1 : BitVec 384 := 0
  slot2 : BitVec 384 := 0
  valid : BitVec 3 := 0
  retired : BitVec 3 := 0
  burned : BitVec 3 := 0
  bfloor : BitVec 8 := 0
  pfloor : BitVec 8 := 0
  pkgen : BitVec 4 := 0
  /-- the patch key, and the device's unique secret (R481) -/
  patchKey : BitVec 256 := 0
  uds : BitVec 384 := 0
  deriving DecidableEq, Repr, Inhabited

/-- A mailbox command in progress (R491-R493): its number, what its checks decided, the buffer as GO found it, and
whether an inhibit has ended it. -/
structure MbxRun where
  cmd : BitVec 8 := 0
  status : BitVec 8 := 0
  args : List Byte := []
  cut : Bool := false
  deriving DecidableEq, Repr, Inhabited

/-- Security and management domain. -/
structure SecSt where
  fuses : Fuses := {}
  /-- boot flash by byte; unlisted bytes read 0xFF -/
  flash : List Host.Cell := []
  /-- the owner key read from the flash matches the valid slot, and its bytes -/
  ownerKey : Option (List Byte) := none
  /-- boot firmware running: digest, vendor key that signed it -/
  bfwDigest : BitVec 384 := 0
  bfwKey : Option (BitVec 2) := none
  patchDigest : BitVec 384 := 0
  mbx : Option MbxRun := none
  copyB : Bool := false
  deriving DecidableEq, Repr, Inhabited

/-- A checkpoint operation in progress (R503-R505): its status so far. -/
structure CkptOp where
  restore : Bool := false
  part : Nat := 0
  slot : Nat := 0
  mems : Bool := false
  status : Nat := 0
  deriving DecidableEq, Repr, Inhabited

/-- Saddlebag controller. -/
structure SbSt where
  cart : Option Cart := none
  /-- cartridges that were removed, with what they hold -/
  shelf : List Cart := []
  /-- journal records queued on chip, oldest first (R393) -/
  queue : List JRec := []
  op : Option CkptOp := none
  /-- next periodic save goes to SLOT + 1, and its tick -/
  alt : Bool := false
  nextSave : Option Nat := none
  deriving DecidableEq, Repr, Inhabited

/-- Rein ports and cascade. -/
structure ReinSt where
  leads : Bool := false
  posX : BitVec 2 := 0
  posY : BitVec 2 := 0
  /-- a lead device has been seen through a port -/
  leadSeen : Option (BitVec 4) := none
  /-- the latest IDENT of each port's partner (R430) -/
  idents : List (Nat × IdentMsg) := []
  /-- the first image has been released: no port trains any more for the cascade (R430) -/
  released : Bool := false
  /-- reports VERIFIED that came before this device's own load (R432) -/
  verified : List (BitVec 4) := []
  /-- devices READY for the boundary (R389) -/
  ready : List (BitVec 4) := []
  /-- epoch for which this device is prepared and waits for COMMIT -/
  prepared : Option (BitVec 32) := none
  /-- unacknowledged CTRL message: kind and argument -/
  unacked : Option (Nat × Word) := none
  /-- edge data received for a side, oldest first: key 64 side + 32 net + index -/
  edge : List (Nat × List (BitVec 128)) := []
  /-- what an INDEPENDENT cascade partition has last shown beyond its sides: port and frame (R104) -/
  shown : List (Nat × EdgeMsg) := []
  /-- partials received for a slot, each for the devices behind a neighbour: key 16 slot + neighbour; the result: 64 + slot -/
  orc : List (Nat × Word) := []
  /-- interrupts forwarded to the lead that it has not taken: at the lead those of every device, at a member its own;
  device, block and BIC source (R434) -/
  fwd : List (BitVec 4 × Blk × BitVec 6) := []
  /-- a TIMEBASE that is ahead of the lead's holds its next tick (R443) -/
  holdTick : Bool := false
  deriving DecidableEq, Repr, Inhabited

/-- Debug unit. -/
structure DbgSt where
  chipStop : Bool := false
  /-- Awl request outstanding: transaction, read? consume? key and address; and its response -/
  awlReq : Option (Nat × Bool × Bool × BitVec 4 × BitVec 40) := none
  awlResp : Option Word := none
  /-- AWL_STATUS, a port register -/
  awlStatus : Word := 0
  /-- machine checks whose alarm has not reached the controller yet: source class, unit, location (R526) -/
  chk : List (Nat × Nat × Nat) := []
  /-- warnings counted in the open window: key 1024 code + unit, (count, first, last, partition) -/
  spill : List (Nat × Nat × Nat × Nat × Nat) := []
  /-- tick at which the window of those counts ends -/
  spillEnd : Nat := 0
  /-- Girth channels whose source has occurred and that have not fired yet: channel, source (R514) -/
  girth : List (Nat × Nat) := []
  /-- bit n: partition n itself is stopped, apart from a chip-scope stop (R515) -/
  pstop : BitVec 16 := 0
  /-- partitions that a capture holds stopped (R418) -/
  capStop : BitVec 16 := 0
  /-- tick at which a Girth channel has fired for TIMEBASE: it occurs once (R515) -/
  girthAt : List (Nat × Nat) := []
  deriving DecidableEq, Repr, Inhabited

/-- The state of the Fyund. -/
structure State where
  /-- commands that wait, first in, first out -/
  pending : List Instr := []
  /-- registers by digit address, without those at their reset value -/
  regs : List (Nat × Word) := []
  /-- bytes of DRAM, scratchpads, turn memories and mailbox buffer by byte address (digit address / 2) -/
  mem : List Host.Cell := []
  /-- cells by 16384 b + 128 r + c -/
  cells : List (Nat × Cell) := []
  /-- hidden sequencer state by logical block -/
  seqs : List (Nat × Seq) := []
  /-- customer store words, 192 bits and parity in [195:192], key 16384 b + n; those of the patch RAM, which are the same
  in every block, under b = 128 (R276, R304) -/
  cs : List (Nat × BitVec 196) := []
  /-- what upsets have flipped in the vendor words of block b's control store since it was filled, key 16384 b + n, with the
  parity in [195:192] (R276, R298) -/
  csFlip : List (Nat × BitVec 196) := []
  /-- customer dispatch entries, key 256 b + e, and the patched entries under b = 128 (R281, R304) -/
  dt : List (Nat × Word) := []
  /-- the customer shadow of those words and entries in the checkpoint reserve (R278) -/
  csSh : List (Nat × BitVec 196) := []
  dtSh : List (Nat × Word) := []
  /-- dispatch entries whose parity bit has been upset, by the key of `dt` (R281, R298) -/
  dtBad : List Nat := []
  /-- words of scratchpads and turn memories that an upset has struck, by digit address / 16: whether in two bits (R322,
  R325) -/
  flaws : List (Nat × Bool) := []
  /-- key bytes by chip frame (R329) -/
  keys : List (Nat × Byte) := []
  /-- pages of 4,096 digits of scratchpads and turn memories that have been written since their partition's last boundary
  (R378) -/
  pages : List Nat := []
  /-- the physical block whose memories a folded position keeps, where it is not the one of its own number (R387) -/
  foldHome : List (Nat × Nat) := []
  /-- bit j of region g: the journal's spare map holds its physical block j dead (R67, R394) -/
  jdead : List (Nat × BitVec 9) := []
  /-- what the images in force set -/
  cfg : Settings := {}
  img : Option ImgLoad := none
  epochs : List (Nat × Epoch) := []
  host : HostSt := {}
  mesh : MeshSt := {}
  dram : DramSt := {}
  /-- DMA descriptors in progress, key 2 b + channel -/
  dma : List (Nat × DmaRun) := []
  irq : IrqSt := {}
  pwr : PwrSt := {}
  sec : SecSt := {}
  sb : SbSt := {}
  rein : ReinSt := {}
  dbg : DbgSt := {}
  /-- TIMEBASE and whether it counts (R462) -/
  timebase : Word := 0
  tbRun : Bool := false
  /-- NCLK cycles so far, twelve to a tick of TIMEBASE (00 *Numbers and units*) -/
  nclk : Nat := 0
  /-- supplies present; the device is in its PERST# state; PERST# asserted at its pin; TEST_EN high at its last release;
  REFCLK lost; THERMTRIP# latched -/
  powered : Bool := true
  perst : Bool := true
  perstLow : Bool := true
  testEn : Bool := false
  refLost : Bool := false
  /-- REFCLK has been lost and PERST# not been released since (R463) -/
  refPerst : Bool := false
  thermLatch : Bool := false
  /-- messages sent to the outside, oldest first -/
  out : List Out := []
  /-- the model's own: how many free values have been taken -/
  free : Nat := 0
  deriving DecidableEq, Repr, Inhabited

/-- The machine right after power-on reset: every register at its reset value (nothing listed), memories cleared,
PERST# asserted, the queue empty (R327, R461, R487 phase RESET). -/
def State.reset : State := {}

end Sys2Proof.Machine
end

