-- ==== Sys2Proof/Machine/Map.lean ====
section
/-! DEFINITION. Finite maps as lists of (key, value) pairs in one canonical form: keys strictly rising, no entry equal
to what an unlisted key reads as. Registers, memory bytes, cells and every other sparse part of State use them. -/

namespace Sys2Proof.Machine

/-- What key k reads as, d being what an unlisted key reads as. -/
def mapGet {α : Type} (d : α) (k : Nat) : List (Nat × α) → α
  | [] => d
  | e :: m => if e.1 = k then e.2 else mapGet d k m

/-- Whether key k is listed. -/
def mapHas {α : Type} (k : Nat) : List (Nat × α) → Bool
  | [] => false
  | e :: m => if e.1 = k then true else mapHas k m

/-- The map with key k listed as v. -/
def mapPut {α : Type} (k : Nat) (v : α) : List (Nat × α) → List (Nat × α)
  | [] => [(k, v)]
  | e :: m => if e.1 < k then e :: mapPut k v m else if e.1 = k then (k, v) :: m else (k, v) :: e :: m

/-- The map without key k. -/
def mapErase {α : Type} (k : Nat) : List (Nat × α) → List (Nat × α)
  | [] => []
  | e :: m => if e.1 = k then mapErase k m else e :: mapErase k m

/-- The map in which key k reads as v: a value that an unlisted key reads as is not listed. -/
def mapSet {α : Type} [DecidableEq α] (d : α) (k : Nat) (v : α) (m : List (Nat × α)) : List (Nat × α) :=
  if v = d then mapErase k m else mapPut k v m

/-- The entries whose key satisfies p removed. -/
def mapDrop {α : Type} (p : Nat → Bool) (m : List (Nat × α)) : List (Nat × α) := m.filter fun e => !p e.1

/-- The entries whose key satisfies p. -/
def mapOnly {α : Type} (p : Nat → Bool) (m : List (Nat × α)) : List (Nat × α) := m.filter fun e => p e.1

/-- Every listed key rises strictly. -/
def mapSorted {α : Type} : List (Nat × α) → Bool
  | [] => true
  | [_] => true
  | e :: f :: m => decide (e.1 < f.1) && mapSorted (f :: m)

/-- The canonical form: keys strictly rising, no entry equal to what its key reads as when unlisted. -/
def mapWf {α : Type} [DecidableEq α] (d : Nat → α) (m : List (Nat × α)) : Bool :=
  mapSorted m && m.all fun e => decide (e.2 ≠ d e.1)

/-- The entries of m for keys that satisfy p, and those of m' for all others: m' with a part of m put over it. -/
def mapOver {α : Type} (p : Nat → Bool) (m m' : List (Nat × α)) : List (Nat × α) :=
  (mapOnly p m).foldl (fun acc e => mapPut e.1 e.2 acc) (mapDrop p m')

/-- A list without repeats to which x belongs. -/
def setAdd {α : Type} [DecidableEq α] (x : α) (l : List α) : List α := if x ∈ l then l else l ++ [x]

/-- The numbers 0 to n - 1 run through f from left to right. -/
def iter {α : Type} (n : Nat) (f : Nat → α → α) (a : α) : α := (List.range n).foldl (fun acc i => f i acc) a

/-- Bits hi down to lo of v. -/
def bits (v hi lo : Nat) : Nat := v / 2 ^ lo % 2 ^ (hi + 1 - lo)

/-- v with bits hi down to lo replaced by those of x. -/
def putBits (v hi lo x : Nat) : Nat :=
  v - bits v hi lo * 2 ^ lo + x % 2 ^ (hi + 1 - lo) * 2 ^ lo

/-- A truth value as one bit. -/
def b2n (b : Bool) : Nat := if b then 1 else 0

/-- The value of v, w bits wide, in two's complement. -/
def sgn (w v : Nat) : Int := if v % 2 ^ w < 2 ^ (w - 1) then (v % 2 ^ w : Nat) else (v % 2 ^ w : Nat) - (2 ^ w : Nat)

/-- i modulo 2^w, as w bits. -/
def wrap (w : Nat) (i : Int) : Nat := (i % (2 ^ w : Nat)).toNat

end Sys2Proof.Machine
end

