-- ==== Sys2Proof/Machine/Regs.lean ====
section
/-! DEFINITION. The register map: where every register card of the spec places its register, the fields it has, the
access code of each field (R6) and the value at reset; and the access of the model to registers. The table is data in
the cards' own words; a register that the spec gives a special reset value is handled in regReset. -/

namespace Sys2Proof.Machine

/-- A field of a register, [hi:lo]. -/
structure Fld where
  hi : Nat
  lo : Nat
  deriving DecidableEq, Repr, Inhabited

/-- The access codes of R6. -/
inductive Acc where
  | rw | ro | wo | w1c | w1s | rc | rse | sc
  deriving DecidableEq, Repr, Inhabited

/-- A register card: offset in its window, repetition as (count, stride) pairs of falling stride, width, reset value,
and the fields that are not reserved. -/
structure Card where
  off : Nat
  dims : List (Nat × Nat)
  width : Nat
  reset : Nat
  fields : List (Nat × Nat × Acc)
  deriving DecidableEq, Repr, Inhabited

/-- Base of logical block window b (R29). -/
def bwin (b : Nat) : Nat := 0x010000000000 + 0x1000000 * b
/-- Where the model stores what a physical block without a logical position holds (R11, R29): as block idleFrom + p, whose
window lies above every digit address. -/
def idleFrom : Nat := 2 ^ 25
def idleBlk (p : Nat) : Nat := idleFrom + p
/-- Whether digit address a lies in a block's window: a logical one, or that of a physical block without a position. -/
def inWin (a : Nat) : Bool :=
  (decide (0x010000000000 ≤ a) && decide (a < 0x010080000000))
    || (decide (bwin idleFrom ≤ a) && decide (a < bwin (idleFrom + 144)))
/-- The block in whose window address a lies, and the offset there. -/
def winBlk (a : Nat) : Nat := (a - 0x010000000000) / 0x1000000
def winOff (a : Nat) : Nat := a % 0x1000000
/-- Base of gateway window g (R29). -/
def gwin (g : Nat) : Nat := 0x030000000000 + 0x1000000 * g
/-- Base of chip control (R29). -/
def chipCtl : Nat := 0x040000000000
/-- Base RB of the registers of router r (R373): in the gateway window for the router of a region, and in mesh control
for the eight others. -/
def rwin (r : Nat) : Nat := if r < 16 then 0x030000000000 + 0x1000000 * r + 0x400000 else 0x040000600000 + 0x10000 * (r - 15)

namespace R

/-- CHIP_ID, 32 bits (R35). -/
def CHIP_ID : Nat := chipCtl + 0x0
abbrev CHIP_ID_PART : Fld := ⟨31, 16⟩
abbrev CHIP_ID_FAMILY : Fld := ⟨15, 8⟩
/-- STEPPING, 32 bits (R36). -/
def STEPPING : Nat := chipCtl + 0x10
abbrev STEPPING_MAJOR : Fld := ⟨23, 16⟩
abbrev STEPPING_MINOR : Fld := ⟨15, 8⟩
abbrev STEPPING_RUSIL_LEVEL : Fld := ⟨7, 4⟩
abbrev STEPPING_VOSEL_MAX : Fld := ⟨3, 0⟩
/-- BSW_MAP, 64 bits (R37). -/
def BSW_MAP (g : Nat) : Nat := gwin g
abbrev BSW_MAP_LEND_DIR : Fld := ⟨60, 59⟩
abbrev BSW_MAP_SPARE_ST : Fld := ⟨58, 57⟩
abbrev BSW_MAP_DEAD : Fld := ⟨56, 48⟩
abbrev BSW_MAP_POS7 : Fld := ⟨47, 42⟩
abbrev BSW_MAP_POS6 : Fld := ⟨41, 36⟩
abbrev BSW_MAP_POS5 : Fld := ⟨35, 30⟩
abbrev BSW_MAP_POS4 : Fld := ⟨29, 24⟩
abbrev BSW_MAP_POS3 : Fld := ⟨23, 18⟩
abbrev BSW_MAP_POS2 : Fld := ⟨17, 12⟩
abbrev BSW_MAP_POS1 : Fld := ⟨11, 6⟩
abbrev BSW_MAP_POS0 : Fld := ⟨5, 0⟩
/-- IMG_CTRL, 64 bits (R83). -/
def IMG_CTRL : Nat := chipCtl + 0x100000
abbrev IMG_CTRL_UNCHECKED : Fld := ⟨2, 2⟩
abbrev IMG_CTRL_FORCE : Fld := ⟨1, 1⟩
abbrev IMG_CTRL_GO : Fld := ⟨0, 0⟩
/-- IMG_STATUS, 64 bits (R83). -/
def IMG_STATUS : Nat := chipCtl + 0x100010
abbrev IMG_STATUS_ASSIGNED : Fld := ⟨63, 48⟩
abbrev IMG_STATUS_HELD : Fld := ⟨47, 32⟩
abbrev IMG_STATUS_DISCARDS : Fld := ⟨31, 24⟩
abbrev IMG_STATUS_PHASE : Fld := ⟨11, 8⟩
abbrev IMG_STATUS_DD : Fld := ⟨7, 7⟩
abbrev IMG_STATUS_FORCED : Fld := ⟨5, 5⟩
abbrev IMG_STATUS_SIGNED : Fld := ⟨4, 4⟩
abbrev IMG_STATUS_REFUSED : Fld := ⟨3, 3⟩
abbrev IMG_STATUS_DONE : Fld := ⟨2, 2⟩
abbrev IMG_STATUS_ERR : Fld := ⟨1, 1⟩
abbrev IMG_STATUS_BUSY : Fld := ⟨0, 0⟩
/-- IMG_SRC, 64 bits (R83). -/
def IMG_SRC : Nat := chipCtl + 0x100020
abbrev IMG_SRC_ADDR : Fld := ⟨47, 0⟩
/-- IMG_LEN, 32 bits (R83). -/
def IMG_LEN : Nat := chipCtl + 0x100030
abbrev IMG_LEN_BYTES : Fld := ⟨31, 0⟩
/-- IMG_ERR, 64 bits (R83). -/
def IMG_ERR : Nat := chipCtl + 0x100040
abbrev IMG_ERR_CODE : Fld := ⟨63, 56⟩
abbrev IMG_ERR_FRAME : Fld := ⟨39, 24⟩
abbrev IMG_ERR_DETAIL : Fld := ⟨23, 8⟩
abbrev IMG_ERR_ENTRY : Fld := ⟨7, 0⟩
/-- IMG_REGMAP, 64 bits (R83). -/
def IMG_REGMAP : Nat := chipCtl + 0x100050
/-- IMG_DIGEST, 64 bits (R83). -/
def IMG_DIGEST (i : Nat) : Nat := chipCtl + 0x100100 + 0x10 * i
abbrev IMG_DIGEST_DIGEST : Fld := ⟨63, 0⟩
/-- IMG_PVER, 32 bits (R83). -/
def IMG_PVER (i : Nat) : Nat := chipCtl + 0x100200 + 0x10 * i
abbrev IMG_PVER_VERSION : Fld := ⟨31, 0⟩
/-- ORN_GEOM, 64 bits (R105). -/
def ORN_GEOM (g : Nat) : Nat := 0x500000 + gwin g
abbrev ORN_GEOM_LAT_NS : Fld := ⟨63, 56⟩
abbrev ORN_GEOM_LAT_EW : Fld := ⟨55, 48⟩
abbrev ORN_GEOM_NSHALF : Fld := ⟨47, 47⟩
abbrev ORN_GEOM_HOPS : Fld := ⟨39, 32⟩
abbrev ORN_GEOM_TRETRY : Fld := ⟨31, 24⟩
abbrev ORN_GEOM_VALID : Fld := ⟨4, 4⟩
abbrev ORN_GEOM_PID : Fld := ⟨3, 0⟩
/-- ARR_COLMAP, 64 bits (R120). -/
def ARR_COLMAP (b : Nat) : Nat := 0x740000 + bwin b
abbrev ARR_COLMAP_TWINSTOP : Fld := ⟨48, 48⟩
abbrev ARR_COLMAP_SP3 : Fld := ⟨47, 36⟩
abbrev ARR_COLMAP_SP2 : Fld := ⟨35, 24⟩
abbrev ARR_COLMAP_SP1 : Fld := ⟨23, 12⟩
abbrev ARR_COLMAP_SP0 : Fld := ⟨11, 0⟩
/-- ARR_ECC, 64 bits (R121). -/
def ARR_ECC (b : Nat) : Nat := 0x740010 + bwin b
abbrev ARR_ECC_CE : Fld := ⟨63, 48⟩
abbrev ARR_ECC_WBLOST : Fld := ⟨47, 40⟩
abbrev ARR_ECC_TWINMM : Fld := ⟨39, 32⟩
abbrev ARR_ECC_PLANE : Fld := ⟨31, 21⟩
abbrev ARR_ECC_ROW : Fld := ⟨20, 14⟩
abbrev ARR_ECC_GROUP : Fld := ⟨13, 13⟩
abbrev ARR_ECC_UE : Fld := ⟨1, 1⟩
abbrev ARR_ECC_CEV : Fld := ⟨0, 0⟩
/-- DCTL, 64 bits (R175). -/
def DCTL (b : Nat) : Nat := 0x720000 + bwin b
abbrev DCTL_OPLUS : Fld := ⟨63, 60⟩
abbrev DCTL_OMINUS : Fld := ⟨59, 56⟩
abbrev DCTL_WLEN : Fld := ⟨53, 43⟩
abbrev DCTL_WBASE : Fld := ⟨42, 32⟩
abbrev DCTL_SMAP : Fld := ⟨29, 24⟩
abbrev DCTL_SFLAG : Fld := ⟨21, 16⟩
abbrev DCTL_TM : Fld := ⟨12, 8⟩
abbrev DCTL_RM : Fld := ⟨2, 0⟩
/-- DFLAG, 32 bits (R176). -/
def DFLAG (b : Nat) : Nat := 0x720010 + bwin b
abbrev DFLAG_IE : Fld := ⟨14, 8⟩
abbrev DFLAG_FL : Fld := ⟨6, 0⟩
/-- RCTL, 64 bits (R211). -/
def RCTL (b : Nat) : Nat := 0x720020 + bwin b
abbrev RCTL_RPL : Fld := ⟨42, 32⟩
abbrev RCTL_RPE : Fld := ⟨31, 31⟩
abbrev RCTL_ZONE : Fld := ⟨19, 16⟩
abbrev RCTL_FILL : Fld := ⟨15, 8⟩
abbrev RCTL_PAD : Fld := ⟨7, 0⟩
/-- ARR_SUSP, 64 bits (R233). -/
def ARR_SUSP (b : Nat) : Nat := 0x720030 + bwin b
abbrev ARR_SUSP_OP : Fld := ⟨63, 56⟩
abbrev ARR_SUSP_STEP : Fld := ⟨55, 40⟩
abbrev ARR_SUSP_CAUSE : Fld := ⟨39, 32⟩
abbrev ARR_SUSP_DOP : Fld := ⟨31, 24⟩
abbrev ARR_SUSP_DSTEP : Fld := ⟨23, 8⟩
abbrev ARR_SUSP_ABANDON : Fld := ⟨4, 4⟩
abbrev ARR_SUSP_DISC : Fld := ⟨3, 3⟩
abbrev ARR_SUSP_FROZEN : Fld := ⟨2, 2⟩
abbrev ARR_SUSP_RUN : Fld := ⟨1, 1⟩
abbrev ARR_SUSP_VALID : Fld := ⟨0, 0⟩
/-- SEQ_ID, 64 bits (R274). -/
def SEQ_ID (b : Nat) : Nat := 0x700000 + bwin b
abbrev SEQ_ID_HOLDER : Fld := ⟨39, 32⟩
abbrev SEQ_ID_LEAD : Fld := ⟨31, 24⟩
abbrev SEQ_ID_MODE : Fld := ⟨16, 16⟩
abbrev SEQ_ID_PID : Fld := ⟨15, 12⟩
abbrev SEQ_ID_LBLK : Fld := ⟨6, 0⟩
/-- PSR, 64 bits (R274). -/
def PSR (b : Nat) : Nat := 0x700010 + bwin b
abbrev PSR_DEPTH : Fld := ⟨59, 48⟩
abbrev PSR_CURF : Fld := ⟨47, 44⟩
abbrev PSR_RESF : Fld := ⟨43, 40⟩
abbrev PSR_RESV_VALID : Fld := ⟨8, 8⟩
abbrev PSR_REPF : Fld := ⟨4, 4⟩
abbrev PSR_IE : Fld := ⟨0, 0⟩
/-- TCAUSE, 32 bits (R274). -/
def TCAUSE (b : Nat) : Nat := 0x700020 + bwin b
abbrev TCAUSE_IMPR : Fld := ⟨8, 8⟩
abbrev TCAUSE_CODE : Fld := ⟨7, 0⟩
/-- TVAL, 64 bits (R274). -/
def TVAL (b : Nat) : Nat := 0x700030 + bwin b
abbrev TVAL_VALUE : Fld := ⟨63, 0⟩
/-- TVEC, 64 bits (R274). -/
def TVEC (b : Nat) : Nat := 0x700040 + bwin b
abbrev TVEC_IGMASK : Fld := ⟨63, 48⟩
abbrev TVEC_BASE : Fld := ⟨19, 8⟩
/-- STKP, 64 bits (R274). -/
def STKP (b : Nat) : Nat := 0x700050 + bwin b
abbrev STKP_ISP : Fld := ⟨51, 36⟩
abbrev STKP_CSP : Fld := ⟨19, 4⟩
/-- WSTK, 64 bits (R274). -/
def WSTK (b : Nat) : Nat := 0x700060 + bwin b
abbrev WSTK_WLIM : Fld := ⟨51, 40⟩
abbrev WSTK_WSP : Fld := ⟨19, 8⟩
/-- MKEY, 32 bits (R274). -/
def MKEY (b : Nat) : Nat := 0x700070 + bwin b
abbrev MKEY_OUTST : Fld := ⟨11, 8⟩
abbrev MKEY_KEY : Fld := ⟨3, 0⟩
/-- NCY, 32 bits (R274). -/
def NCY (b : Nat) : Nat := 0x700080 + bwin b
abbrev NCY_NCY : Fld := ⟨15, 0⟩
/-- REPC, 32 bits (R274). -/
def REPC (b : Nat) : Nat := 0x700090 + bwin b
abbrev REPC_COUNT : Fld := ⟨11, 0⟩
/-- LS, 32 bits (R274). -/
def LS (b i : Nat) : Nat := 0x700100 + 0x10 * i + bwin b
abbrev LS_ADDR : Fld := ⟨19, 0⟩
/-- LE, 32 bits (R274). -/
def LE (b i : Nat) : Nat := 0x700140 + 0x10 * i + bwin b
abbrev LE_ADDR : Fld := ⟨19, 0⟩
/-- LC, 32 bits (R274). -/
def LC (b i : Nat) : Nat := 0x700180 + 0x10 * i + bwin b
abbrev LC_COUNT : Fld := ⟨31, 0⟩
/-- LSTAT, 64 bits (R274). -/
def LSTAT (b : Nat) : Nat := 0x7001C0 + bwin b
abbrev LSTAT_TAG3 : Fld := ⟨63, 52⟩
abbrev LSTAT_TAG2 : Fld := ⟨51, 40⟩
abbrev LSTAT_TAG1 : Fld := ⟨39, 28⟩
abbrev LSTAT_TAG0 : Fld := ⟨27, 16⟩
abbrev LSTAT_ACT : Fld := ⟨3, 0⟩
/-- MCODE_VERSION, 64 bits (R306). -/
def MCODE_VERSION : Nat := chipCtl + 0x20
abbrev MCODE_VERSION_ROMID : Fld := ⟨63, 48⟩
abbrev MCODE_VERSION_PATCH : Fld := ⟨47, 16⟩
abbrev MCODE_VERSION_SRC : Fld := ⟨11, 10⟩
abbrev MCODE_VERSION_FLASHFAIL : Fld := ⟨9, 9⟩
abbrev MCODE_VERSION_HOSTFAIL : Fld := ⟨8, 8⟩
/-- SEQ_MCODE_VERSION, 64 bits (R306). -/
def SEQ_MCODE_VERSION (b : Nat) : Nat := 0x730000 + bwin b
abbrev SEQ_MCODE_VERSION_PATCH : Fld := ⟨63, 32⟩
abbrev SEQ_MCODE_VERSION_ROMID : Fld := ⟨31, 16⟩
abbrev SEQ_MCODE_VERSION_RELOADS : Fld := ⟨15, 8⟩
/-- MC_CTRL, 32 bits (R306). -/
def MC_CTRL (b : Nat) : Nat := 0x730010 + bwin b
abbrev MC_CTRL_UBRKEN : Fld := ⟨0, 0⟩
/-- MC_STATUS, 64 bits (R306). -/
def MC_STATUS (b : Nat) : Nat := 0x730020 + bwin b
abbrev MC_STATUS_UPC : Fld := ⟨63, 50⟩
abbrev MC_STATUS_USD : Fld := ⟨49, 47⟩
abbrev MC_STATUS_MCAUSE : Fld := ⟨39, 32⟩
abbrev MC_STATUS_MCADDR : Fld := ⟨31, 18⟩
abbrev MC_STATUS_FPMIS : Fld := ⟨7, 7⟩
abbrev MC_STATUS_STGLOST : Fld := ⟨6, 6⟩
abbrev MC_STATUS_PARTW : Fld := ⟨5, 5⟩
abbrev MC_STATUS_DTERR : Fld := ⟨4, 4⟩
abbrev MC_STATUS_RDPE : Fld := ⟨3, 3⟩
abbrev MC_STATUS_MCV : Fld := ⟨0, 0⟩
/-- CS_FP, 64 bits (R306). -/
def CS_FP (b : Nat) : Nat := 0x730030 + bwin b
abbrev CS_FP_FP : Fld := ⟨63, 0⟩
/-- DRAM_SCRUB, 64 bits (R317). -/
def DRAM_SCRUB (g : Nat) : Nat := 0x100000 + gwin g
abbrev DRAM_SCRUB_EN : Fld := ⟨63, 63⟩
abbrev DRAM_SCRUB_PERIOD : Fld := ⟨47, 32⟩
abbrev DRAM_SCRUB_PASSES : Fld := ⟨31, 0⟩
/-- DRAM_ECC, 64 bits (R317). -/
def DRAM_ECC (g : Nat) : Nat := 0x100010 + gwin g
abbrev DRAM_ECC_CEW : Fld := ⟨63, 48⟩
abbrev DRAM_ECC_UEW : Fld := ⟨47, 40⟩
abbrev DRAM_ECC_SPROWS : Fld := ⟨39, 30⟩
abbrev DRAM_ECC_SPFULL : Fld := ⟨2, 2⟩
abbrev DRAM_ECC_UE : Fld := ⟨1, 1⟩
abbrev DRAM_ECC_CEV : Fld := ⟨0, 0⟩
/-- DRAM_ELOG, 64 bits (R317). -/
def DRAM_ELOG (g : Nat) : Nat := 0x100020 + gwin g
abbrev DRAM_ELOG_SYMS : Fld := ⟨63, 60⟩
abbrev DRAM_ELOG_WORD : Fld := ⟨27, 0⟩
/-- DRAM_LANE, 32 bits (R317). -/
def DRAM_LANE (g : Nat) : Nat := 0x100030 + gwin g
abbrev DRAM_LANE_L1V : Fld := ⟨31, 31⟩
abbrev DRAM_LANE_LANE1 : Fld := ⟨30, 24⟩
abbrev DRAM_LANE_L0V : Fld := ⟨23, 23⟩
abbrev DRAM_LANE_LANE0 : Fld := ⟨22, 16⟩
abbrev DRAM_LANE_L2EX : Fld := ⟨0, 0⟩
/-- MEM_ECC, 64 bits (R326). -/
def MEM_ECC (b : Nat) : Nat := 0x750000 + bwin b
abbrev MEM_ECC_SPCE : Fld := ⟨63, 52⟩
abbrev MEM_ECC_TMCE : Fld := ⟨51, 40⟩
abbrev MEM_ECC_COLL : Fld := ⟨39, 32⟩
abbrev MEM_ECC_CWORD : Fld := ⟨31, 16⟩
abbrev MEM_ECC_SPUE : Fld := ⟨3, 3⟩
abbrev MEM_ECC_TMUE : Fld := ⟨2, 2⟩
abbrev MEM_ECC_COLLV : Fld := ⟨1, 1⟩
/-- KEY_ERR, 64 bits (R336). -/
def KEY_ERR (g : Nat) : Nat := 0x280000 + gwin g
abbrev KEY_ERR_PE : Fld := ⟨63, 48⟩
abbrev KEY_ERR_PEV : Fld := ⟨18, 18⟩
abbrev KEY_ERR_FRAME : Fld := ⟨17, 0⟩
/-- KU_RANGE, 64 bits (R336). -/
def KU_RANGE : Nat := chipCtl + 0xB00000
abbrev KU_RANGE_GO : Fld := ⟨63, 63⟩
abbrev KU_RANGE_RCLR : Fld := ⟨62, 62⟩
abbrev KU_RANGE_LOCK : Fld := ⟨55, 52⟩
abbrev KU_RANGE_RDO : Fld := ⟨51, 51⟩
abbrev KU_RANGE_LAST : Fld := ⟨43, 22⟩
abbrev KU_RANGE_FIRST : Fld := ⟨21, 0⟩
/-- KU_PFKEY, 32 bits (R336). -/
def KU_PFKEY : Nat := chipCtl + 0xB00010
abbrev KU_PFKEY_KEY : Fld := ⟨3, 0⟩
/-- KU_VFKEY, 64 bits (R336). -/
def KU_VFKEY : Nat := chipCtl + 0xB00020
/-- KU_VIOL, 64 bits (R336). -/
def KU_VIOL : Nat := chipCtl + 0xB00030
abbrev KU_VIOL_COUNT : Fld := ⟨63, 56⟩
abbrev KU_VIOL_KEY : Fld := ⟨55, 52⟩
abbrev KU_VIOL_STORE : Fld := ⟨51, 51⟩
abbrev KU_VIOL_ADDR : Fld := ⟨47, 0⟩
/-- DMA_RING, 64 bits (R344). -/
def DMA_RING (b i : Nat) : Nat := 0x770000 + 0x100 * i + bwin b
abbrev DMA_RING_BASE : Fld := ⟨63, 44⟩
abbrev DMA_RING_HEAD : Fld := ⟨27, 16⟩
abbrev DMA_RING_TAIL : Fld := ⟨11, 0⟩
/-- DMA_CTRL, 32 bits (R344). -/
def DMA_CTRL (b i : Nat) : Nat := 0x770010 + 0x100 * i + bwin b
abbrev DMA_CTRL_STALL : Fld := ⟨31, 16⟩
abbrev DMA_CTRL_SIZE : Fld := ⟨11, 8⟩
abbrev DMA_CTRL_CFG : Fld := ⟨3, 3⟩
abbrev DMA_CTRL_ERR : Fld := ⟨2, 2⟩
abbrev DMA_CTRL_BUSY : Fld := ⟨1, 1⟩
abbrev DMA_CTRL_EN : Fld := ⟨0, 0⟩
/-- DMA_ERR, 64 bits (R344). -/
def DMA_ERR (b i : Nat) : Nat := 0x770020 + 0x100 * i + bwin b
abbrev DMA_ERR_STATUS : Fld := ⟨63, 56⟩
abbrev DMA_ERR_ENTRY : Fld := ⟨55, 44⟩
/-- DMA_EADDR, 64 bits (R344). -/
def DMA_EADDR (b i : Nat) : Nat := 0x770030 + 0x100 * i + bwin b
abbrev DMA_EADDR_ADDR : Fld := ⟨63, 0⟩
/-- MS_CTRL, 64 bits (R373). -/
def MS_CTRL : Nat := chipCtl + 0x600000
abbrev MS_CTRL_RTO : Fld := ⟨39, 16⟩
/-- MS_STAT, 64 bits (R373). -/
def MS_STAT : Nat := chipCtl + 0x600010
abbrev MS_STAT_EN : Fld := ⟨63, 63⟩
abbrev MS_STAT_WINDOWS : Fld := ⟨47, 32⟩
abbrev MS_STAT_PERIOD : Fld := ⟨31, 0⟩
/-- RT_LINK, 64 bits (R373). -/
def RT_LINK (r : Nat) : Nat := 0x0 + rwin r
abbrev RT_LINK_RETRY : Fld := ⟨63, 48⟩
abbrev RT_LINK_LDOWN : Fld := ⟨47, 44⟩
abbrev RT_LINK_LTO : Fld := ⟨43, 40⟩
abbrev RT_LINK_LTOL : Fld := ⟨39, 39⟩
abbrev RT_LINK_RECFG : Fld := ⟨32, 32⟩
abbrev RT_LINK_HOLDMAX : Fld := ⟨31, 16⟩
/-- RT_ISO, 32 bits (R373). -/
def RT_ISO (r : Nat) : Nat := 0x10 + rwin r
abbrev RT_ISO_ABSORB : Fld := ⟨31, 16⟩
abbrev RT_ISO_ISO : Fld := ⟨9, 0⟩
/-- RT_TAGS, 64 bits (R373). -/
def RT_TAGS (r : Nat) : Nat := 0x20 + rwin r
abbrev RT_TAGS_LATE : Fld := ⟨63, 48⟩
abbrev RT_TAGS_WAITS : Fld := ⟨47, 32⟩
abbrev RT_TAGS_HIGH : Fld := ⟨31, 16⟩
abbrev RT_TAGS_INUSE : Fld := ⟨15, 0⟩
/-- GW_SLUICE, 64 bits (R373). -/
def GW_SLUICE (r : Nat) : Nat := 0x30 + rwin r
abbrev GW_SLUICE_HELDPK : Fld := ⟨63, 56⟩
abbrev GW_SLUICE_POL : Fld := ⟨41, 32⟩
/-- ST_RDB, 64 bits (R373). -/
def ST_RDB (r i : Nat) : Nat := 0x1000 + 0x200 * i + rwin r
abbrev ST_RDB_BYTES : Fld := ⟨63, 0⟩
/-- ST_WRB, 64 bits (R373). -/
def ST_WRB (r i : Nat) : Nat := 0x1010 + 0x200 * i + rwin r
abbrev ST_WRB_BYTES : Fld := ⟨63, 0⟩
/-- ST_CNT, 64 bits (R373). -/
def ST_CNT (r i : Nat) : Nat := 0x1020 + 0x200 * i + rwin r
abbrev ST_CNT_RDN : Fld := ⟨63, 32⟩
abbrev ST_CNT_WRN : Fld := ⟨31, 0⟩
/-- ST_HIST, 64 bits (R373). -/
def ST_HIST (r i j : Nat) : Nat := 0x1100 + 0x200 * i + 0x10 * j + rwin r
abbrev ST_HIST_COUNT : Fld := ⟨31, 0⟩
/-- EP_CTRL, 64 bits (R395). -/
def EP_CTRL (i : Nat) : Nat := chipCtl + 0xA00000 + 0x100 * i
abbrev EP_CTRL_BREQ : Fld := ⟨63, 63⟩
abbrev EP_CTRL_SHMAX : Fld := ⟨25, 16⟩
/-- EP_STAT, 64 bits (R395). -/
def EP_STAT (i : Nat) : Nat := chipCtl + 0xA00010 + 0x100 * i
abbrev EP_STAT_EPOCH : Fld := ⟨63, 32⟩
abbrev EP_STAT_STATE : Fld := ⟨31, 28⟩
abbrev EP_STAT_ROLLBK : Fld := ⟨23, 16⟩
abbrev EP_STAT_EARLY : Fld := ⟨15, 8⟩
abbrev EP_STAT_LOST : Fld := ⟨0, 0⟩
/-- EP_TLAST, 64 bits (R395). -/
def EP_TLAST (i : Nat) : Nat := chipCtl + 0xA00020 + 0x100 * i
abbrev EP_TLAST_TIME : Fld := ⟨63, 0⟩
/-- CN_CTRL, 64 bits (R395). -/
def CN_CTRL : Nat := chipCtl + 0xA01000
abbrev CN_CTRL_CTO : Fld := ⟨63, 48⟩
abbrev CN_CTRL_CETH : Fld := ⟨47, 32⟩
/-- CN_COUNT, 64 bits (R395). -/
def CN_COUNT : Nat := chipCtl + 0xA01010
abbrev CN_COUNT_ROLLBACKS : Fld := ⟨63, 48⟩
abbrev CN_COUNT_MIGRATES : Fld := ⟨47, 40⟩
abbrev CN_COUNT_COLSPARES : Fld := ⟨39, 32⟩
abbrev CN_COUNT_BLKSPARES : Fld := ⟨31, 24⟩
abbrev CN_COUNT_BORROWS : Fld := ⟨23, 16⟩
abbrev CN_COUNT_FOLDS : Fld := ⟨15, 8⟩
abbrev CN_COUNT_OUTSIDE : Fld := ⟨7, 0⟩
/-- CN_LAST, 64 bits (R395). -/
def CN_LAST : Nat := chipCtl + 0xA01020
abbrev CN_LAST_KIND : Fld := ⟨63, 56⟩
abbrev CN_LAST_SRC : Fld := ⟨55, 48⟩
abbrev CN_LAST_PID : Fld := ⟨47, 44⟩
abbrev CN_LAST_UNIT : Fld := ⟨43, 32⟩
abbrev CN_LAST_TIME : Fld := ⟨31, 0⟩
/-- GW_SHADOW, 64 bits (R395). -/
def GW_SHADOW (g : Nat) : Nat := 0x300000 + gwin g
abbrev GW_SHADOW_INUSE : Fld := ⟨63, 54⟩
abbrev GW_SHADOW_LOGFILL : Fld := ⟨47, 32⟩
abbrev GW_SHADOW_PARKED : Fld := ⟨31, 16⟩
abbrev GW_SHADOW_HFAIL : Fld := ⟨15, 8⟩
/-- GW_HFAIL, 64 bits (R395). -/
def GW_HFAIL (g : Nat) : Nat := 0x300010 + gwin g
abbrev GW_HFAIL_STATUS : Fld := ⟨63, 56⟩
abbrev GW_HFAIL_V : Fld := ⟨55, 55⟩
abbrev GW_HFAIL_PID : Fld := ⟨51, 48⟩
abbrev GW_HFAIL_ADDR : Fld := ⟨47, 0⟩
/-- SQ_BASE, 64 bits (R423). -/
def SQ_BASE (i j : Nat) : Nat := chipCtl + 0x800000 + 0x8000 * i + 0x100 * j
abbrev SQ_BASE_ADDR : Fld := ⟨63, 12⟩
/-- CQ_BASE, 64 bits (R423). -/
def CQ_BASE (i j : Nat) : Nat := chipCtl + 0x800010 + 0x8000 * i + 0x100 * j
abbrev CQ_BASE_ADDR : Fld := ⟨63, 12⟩
/-- QCFG, 64 bits (R423). -/
def QCFG (i j : Nat) : Nat := chipCtl + 0x800020 + 0x8000 * i + 0x100 * j
abbrev QCFG_EN : Fld := ⟨63, 63⟩
abbrev QCFG_ERR : Fld := ⟨62, 62⟩
abbrev QCFG_VEC : Fld := ⟨58, 48⟩
abbrev QCFG_CQSIZE : Fld := ⟨31, 16⟩
abbrev QCFG_SQSIZE : Fld := ⟨15, 0⟩
/-- SQ_TAIL, 32 bits (R423). -/
def SQ_TAIL (i j : Nat) : Nat := chipCtl + 0x800030 + 0x8000 * i + 0x100 * j
abbrev SQ_TAIL_INDEX : Fld := ⟨15, 0⟩
/-- CQ_HEAD, 32 bits (R423). -/
def CQ_HEAD (i j : Nat) : Nat := chipCtl + 0x800040 + 0x8000 * i + 0x100 * j
abbrev CQ_HEAD_INDEX : Fld := ⟨15, 0⟩
/-- HI_STATUS, 32 bits (R423). -/
def HI_STATUS : Nat := chipCtl + 0x8C0000
abbrev HI_STATUS_READY : Fld := ⟨31, 31⟩
abbrev HI_STATUS_WIDTH : Fld := ⟨12, 8⟩
abbrev HI_STATUS_FLIT : Fld := ⟨4, 4⟩
abbrev HI_STATUS_SPEED : Fld := ⟨3, 0⟩
/-- HI_EXIT, 32 bits (R423). -/
def HI_EXIT : Nat := chipCtl + 0x8C0010
abbrev HI_EXIT_CODE : Fld := ⟨31, 0⟩
/-- HI_ERR, 64 bits (R423). -/
def HI_ERR : Nat := chipCtl + 0x8C0020
abbrev HI_ERR_STATUS : Fld := ⟨63, 56⟩
abbrev HI_ERR_FUNC : Fld := ⟨55, 51⟩
abbrev HI_ERR_WR : Fld := ⟨50, 50⟩
abbrev HI_ERR_V : Fld := ⟨49, 49⟩
abbrev HI_ERR_ADDR : Fld := ⟨47, 0⟩
/-- HI_B2CFG, 64 bits (R423). -/
def HI_B2CFG : Nat := chipCtl + 0x8C0030
abbrev HI_B2CFG_BASE : Fld := ⟨47, 31⟩
/-- HI_APBASE, 64 bits (R423). -/
def HI_APBASE : Nat := chipCtl + 0x8C0040
abbrev HI_APBASE_BASE : Fld := ⟨47, 24⟩
/-- REIN_ID, 64 bits (R446). -/
def REIN_ID : Nat := chipCtl + 0x700000
abbrev REIN_ID_DEVIDX : Fld := ⟨55, 52⟩
abbrev REIN_ID_LEADIDX : Fld := ⟨51, 48⟩
abbrev REIN_ID_H : Fld := ⟨47, 44⟩
abbrev REIN_ID_MYHOPS : Fld := ⟨43, 40⟩
abbrev REIN_ID_SW : Fld := ⟨39, 38⟩
abbrev REIN_ID_SH : Fld := ⟨37, 36⟩
abbrev REIN_ID_ROLE : Fld := ⟨35, 34⟩
abbrev REIN_ID_LEADS : Fld := ⟨33, 33⟩
abbrev REIN_ID_POSX : Fld := ⟨31, 30⟩
abbrev REIN_ID_POSY : Fld := ⟨29, 28⟩
/-- REIN_STATUS, 64 bits (R446). -/
def REIN_STATUS (i : Nat) : Nat := chipCtl + 0x700100 + 0x100 * i
abbrev REIN_STATUS_STATE : Fld := ⟨63, 60⟩
abbrev REIN_STATUS_CAUSE : Fld := ⟨59, 56⟩
abbrev REIN_STATUS_PEER : Fld := ⟨47, 44⟩
abbrev REIN_STATUS_PEERV : Fld := ⟨43, 43⟩
abbrev REIN_STATUS_LLAT : Fld := ⟨39, 32⟩
abbrev REIN_STATUS_RETRY : Fld := ⟨31, 16⟩
abbrev REIN_STATUS_LANESW : Fld := ⟨15, 8⟩
abbrev REIN_STATUS_DOWNEV : Fld := ⟨2, 2⟩
abbrev REIN_STATUS_DEGEV : Fld := ⟨1, 1⟩
abbrev REIN_STATUS_SPEV : Fld := ⟨0, 0⟩
/-- REIN_LANE, 64 bits (R446). -/
def REIN_LANE (i : Nat) : Nat := chipCtl + 0x700110 + 0x100 * i
abbrev REIN_LANE_SUBST : Fld := ⟨41, 38⟩
abbrev REIN_LANE_GROUP : Fld := ⟨37, 36⟩
/-- REIN_TB, 64 bits (R446). -/
def REIN_TB : Nat := chipCtl + 0x700500
abbrev REIN_TB_ALIGNED : Fld := ⟨63, 63⟩
abbrev REIN_TB_ALERR : Fld := ⟨62, 62⟩
abbrev REIN_TB_OFFSET : Fld := ⟨55, 48⟩
/-- BIC_PEND, 64 bits (R460). -/
def BIC_PEND (b : Nat) : Nat := 0x780000 + bwin b
abbrev BIC_PEND_SRC : Fld := ⟨63, 0⟩
/-- BIC_PEND_SET, 64 bits (R460). -/
def BIC_PEND_SET (b : Nat) : Nat := 0x780010 + bwin b
abbrev BIC_PEND_SET_SRC : Fld := ⟨63, 0⟩
/-- BIC_PEND_CLR, 64 bits (R460). -/
def BIC_PEND_CLR (b : Nat) : Nat := 0x780020 + bwin b
abbrev BIC_PEND_CLR_SRC : Fld := ⟨63, 0⟩
/-- BIC_MASK, 64 bits (R460). -/
def BIC_MASK (b : Nat) : Nat := 0x780030 + bwin b
abbrev BIC_MASK_SRC : Fld := ⟨63, 0⟩
/-- BIC_MASK_SET, 64 bits (R460). -/
def BIC_MASK_SET (b : Nat) : Nat := 0x780040 + bwin b
abbrev BIC_MASK_SET_SRC : Fld := ⟨63, 0⟩
/-- BIC_MASK_CLR, 64 bits (R460). -/
def BIC_MASK_CLR (b : Nat) : Nat := 0x780050 + bwin b
abbrev BIC_MASK_CLR_SRC : Fld := ⟨63, 0⟩
/-- BIC_ACT, 64 bits (R460). -/
def BIC_ACT (b : Nat) : Nat := 0x780060 + bwin b
abbrev BIC_ACT_SRC : Fld := ⟨63, 0⟩
/-- BIC_EOI, 32 bits (R460). -/
def BIC_EOI (b : Nat) : Nat := 0x780070 + bwin b
abbrev BIC_EOI_SRC : Fld := ⟨5, 0⟩
/-- BIC_GRP, 64 bits (R460). -/
def BIC_GRP (b i : Nat) : Nat := 0x780080 + 0x10 * i + bwin b
/-- BIC_HOG, 32 bits (R460). -/
def BIC_HOG (b i : Nat) : Nat := 0x780100 + 0x10 * i + bwin b
abbrev BIC_HOG_PERIOD : Fld := ⟨31, 0⟩
/-- BIC_CICQ, 64 bits (R460). -/
def BIC_CICQ (b : Nat) : Nat := 0x780200 + bwin b
abbrev BIC_CICQ_V : Fld := ⟨63, 63⟩
abbrev BIC_CICQ_SRC : Fld := ⟨9, 0⟩
/-- CIC_PEND, 64 bits (R460). -/
def CIC_PEND (i : Nat) : Nat := chipCtl + 0x200000 + 0x10 * i
abbrev CIC_PEND_SRC : Fld := ⟨63, 0⟩
/-- CIC_PEND_SET, 64 bits (R460). -/
def CIC_PEND_SET (i : Nat) : Nat := chipCtl + 0x200100 + 0x10 * i
abbrev CIC_PEND_SET_SRC : Fld := ⟨63, 0⟩
/-- CIC_PEND_CLR, 64 bits (R460). -/
def CIC_PEND_CLR (i : Nat) : Nat := chipCtl + 0x200200 + 0x10 * i
abbrev CIC_PEND_CLR_SRC : Fld := ⟨63, 0⟩
/-- CIC_MASK, 64 bits (R460). -/
def CIC_MASK (i : Nat) : Nat := chipCtl + 0x200300 + 0x10 * i
abbrev CIC_MASK_SRC : Fld := ⟨63, 0⟩
/-- CIC_MASK_SET, 64 bits (R460). -/
def CIC_MASK_SET (i : Nat) : Nat := chipCtl + 0x200400 + 0x10 * i
abbrev CIC_MASK_SET_SRC : Fld := ⟨63, 0⟩
/-- CIC_MASK_CLR, 64 bits (R460). -/
def CIC_MASK_CLR (i : Nat) : Nat := chipCtl + 0x200500 + 0x10 * i
abbrev CIC_MASK_CLR_SRC : Fld := ⟨63, 0⟩
/-- CIC_ACT, 64 bits (R460). -/
def CIC_ACT (i : Nat) : Nat := chipCtl + 0x200600 + 0x10 * i
abbrev CIC_ACT_SRC : Fld := ⟨63, 0⟩
/-- CIC_EOI, 32 bits (R460). -/
def CIC_EOI : Nat := chipCtl + 0x200700
abbrev CIC_EOI_SRC : Fld := ⟨9, 0⟩
/-- CIC_HOG, 32 bits (R460). -/
def CIC_HOG (i : Nat) : Nat := chipCtl + 0x200800 + 0x10 * i
abbrev CIC_HOG_PERIOD : Fld := ⟨31, 0⟩
/-- CIC_ROUTE, 32 bits (R460). -/
def CIC_ROUTE (i : Nat) : Nat := chipCtl + 0x201000 + 0x10 * i
abbrev CIC_ROUTE_SRC : Fld := ⟨31, 22⟩
abbrev CIC_ROUTE_TKIND : Fld := ⟨21, 20⟩
abbrev CIC_ROUTE_TGT : Fld := ⟨19, 9⟩
abbrev CIC_ROUTE_HOG : Fld := ⟨8, 4⟩
/-- WH_SLOT, 64 bits (R460). -/
def WH_SLOT (i : Nat) : Nat := chipCtl + 0x280000 + 0x10 * i
abbrev WH_SLOT_EN : Fld := ⟨63, 63⟩
abbrev WH_SLOT_KIND : Fld := ⟨62, 60⟩
abbrev WH_SLOT_INDEX : Fld := ⟨52, 48⟩
abbrev WH_SLOT_BLK : Fld := ⟨31, 31⟩
abbrev WH_SLOT_MEM : Fld := ⟨30, 30⟩
abbrev WH_SLOT_SBAG : Fld := ⟨29, 29⟩
abbrev WH_SLOT_REGMASK : Fld := ⟨15, 0⟩
/-- WH_EVENT, 32 bits (R460). -/
def WH_EVENT : Nat := chipCtl + 0x280200
abbrev WH_EVENT_EV : Fld := ⟨31, 0⟩
/-- WH_TMR, 64 bits (R460). -/
def WH_TMR (i : Nat) : Nat := chipCtl + 0x280210 + 0x10 * i
abbrev WH_TMR_EN : Fld := ⟨63, 63⟩
abbrev WH_TMR_PER : Fld := ⟨62, 62⟩
abbrev WH_TMR_PERIOD : Fld := ⟨31, 0⟩
/-- PC_CLK, 32 bits (R480). -/
def PC_CLK : Nat := chipCtl + 0x300000
abbrev PC_CLK_LOCK : Fld := ⟨31, 31⟩
/-- PC_VF, 32 bits (R480). -/
def PC_VF : Nat := chipCtl + 0x300010
abbrev PC_VF_SETTLE : Fld := ⟨15, 15⟩
abbrev PC_VF_MV : Fld := ⟨11, 0⟩
/-- PC_PWR, 64 bits (R480). -/
def PC_PWR : Nat := chipCtl + 0x300020
abbrev PC_PWR_LIMIT : Fld := ⟨47, 32⟩
abbrev PC_PWR_AVG : Fld := ⟨15, 0⟩
/-- PC_EVENT, 32 bits (R480). -/
def PC_EVENT : Nat := chipCtl + 0x300030
abbrev PC_EVENT_CARTLOW : Fld := ⟨31, 31⟩
abbrev PC_EVENT_IOLOW : Fld := ⟨30, 30⟩
abbrev PC_EVENT_CORELOW : Fld := ⟨29, 29⟩
abbrev PC_EVENT_WARN : Fld := ⟨28, 28⟩
abbrev PC_EVENT_CARTEV : Fld := ⟨6, 6⟩
abbrev PC_EVENT_IOEV : Fld := ⟨5, 5⟩
abbrev PC_EVENT_COREEV : Fld := ⟨4, 4⟩
abbrev PC_EVENT_WARNEV : Fld := ⟨3, 3⟩
abbrev PC_EVENT_CAPEV : Fld := ⟨2, 2⟩
abbrev PC_EVENT_FALLEV : Fld := ⟨1, 1⟩
abbrev PC_EVENT_REFEV : Fld := ⟨0, 0⟩
/-- PC_RGN, 64 bits (R480). -/
def PC_RGN (i : Nat) : Nat := chipCtl + 0x300100 + 0x10 * i
abbrev PC_RGN_TDIV : Fld := ⟨63, 62⟩
abbrev PC_RGN_ADIV : Fld := ⟨61, 60⟩
abbrev PC_RGN_CURVE : Fld := ⟨59, 58⟩
abbrev PC_RGN_PMAX : Fld := ⟨55, 52⟩
abbrev PC_RGN_POINT : Fld := ⟨51, 48⟩
abbrev PC_RGN_FALLBACK : Fld := ⟨47, 40⟩
abbrev PC_RGN_REFUSED : Fld := ⟨39, 39⟩
abbrev PC_RGN_MLOW : Fld := ⟨38, 38⟩
/-- PC_DOM, 32 bits (R480). -/
def PC_DOM (i : Nat) : Nat := chipCtl + 0x301000 + 0x10 * i
abbrev PC_DOM_BUSY : Fld := ⟨31, 31⟩
abbrev PC_DOM_RCODE : Fld := ⟨27, 24⟩
abbrev PC_DOM_AUTOHUSH : Fld := ⟨19, 19⟩
abbrev PC_DOM_REQ : Fld := ⟨18, 16⟩
abbrev PC_DOM_CUR : Fld := ⟨2, 0⟩
/-- SEC_STATE, 64 bits (R506). -/
def SEC_STATE : Nat := chipCtl + 0x400000
abbrev SEC_STATE_LOCKED : Fld := ⟨63, 63⟩
abbrev SEC_STATE_OSLOT : Fld := ⟨62, 61⟩
abbrev SEC_STATE_SPOILED : Fld := ⟨60, 58⟩
abbrev SEC_STATE_VKREV : Fld := ⟨57, 54⟩
abbrev SEC_STATE_PFLOOR : Fld := ⟨47, 40⟩
abbrev SEC_STATE_BFLOOR : Fld := ⟨39, 32⟩
abbrev SEC_STATE_PKGEN : Fld := ⟨31, 28⟩
/-- BOOT_STATUS, 64 bits (R506). -/
def BOOT_STATUS : Nat := chipCtl + 0x400010
abbrev BOOT_STATUS_PHASE : Fld := ⟨63, 60⟩
abbrev BOOT_STATUS_FAILCODE : Fld := ⟨59, 52⟩
abbrev BOOT_STATUS_COPYB : Fld := ⟨51, 51⟩
abbrev BOOT_STATUS_IMGSTART : Fld := ⟨50, 50⟩
abbrev BOOT_STATUS_OKBAD : Fld := ⟨49, 49⟩
abbrev BOOT_STATUS_MS : Fld := ⟨47, 32⟩
abbrev BOOT_STATUS_BFWVER : Fld := ⟨31, 0⟩
/-- SEC_MBX, 64 bits (R506). -/
def SEC_MBX : Nat := chipCtl + 0x400020
abbrev SEC_MBX_GO : Fld := ⟨63, 63⟩
abbrev SEC_MBX_CMD : Fld := ⟨55, 48⟩
abbrev SEC_MBX_LEN : Fld := ⟨47, 32⟩
abbrev SEC_MBX_STATUS : Fld := ⟨15, 8⟩
abbrev SEC_MBX_DONE : Fld := ⟨1, 1⟩
abbrev SEC_MBX_BUSY : Fld := ⟨0, 0⟩
/-- SEC_NONCE, 64 bits (R506). -/
def SEC_NONCE (i : Nat) : Nat := chipCtl + 0x400100 + 0x10 * i
abbrev SEC_NONCE_NONCE : Fld := ⟨63, 0⟩
/-- SB_STATUS, 64 bits (R506). -/
def SB_STATUS : Nat := chipCtl + 0x500000
abbrev SB_STATUS_PRES : Fld := ⟨63, 63⟩
abbrev SB_STATUS_GEN : Fld := ⟨62, 61⟩
abbrev SB_STATUS_STATE : Fld := ⟨60, 57⟩
abbrev SB_STATUS_MAPV : Fld := ⟨56, 56⟩
abbrev SB_STATUS_PCT : Fld := ⟨47, 40⟩
abbrev SB_STATUS_INSEV : Fld := ⟨3, 3⟩
abbrev SB_STATUS_REMEV : Fld := ⟨2, 2⟩
abbrev SB_STATUS_LIFEEV : Fld := ⟨1, 1⟩
abbrev SB_STATUS_FAILEV : Fld := ⟨0, 0⟩
/-- SB_CTRL, 32 bits (R506). -/
def SB_CTRL : Nat := chipCtl + 0x500010
abbrev SB_CTRL_ADOPT : Fld := ⟨0, 0⟩
/-- SB_LIFE, 64 bits (R506). -/
def SB_LIFE : Nat := chipCtl + 0x500020
abbrev SB_LIFE_WRITTEN : Fld := ⟨63, 32⟩
abbrev SB_LIFE_RATED : Fld := ⟨31, 0⟩
/-- SB_JRNL, 64 bits (R506). -/
def SB_JRNL : Nat := chipCtl + 0x500030
abbrev SB_JRNL_QDEPTH : Fld := ⟨63, 53⟩
abbrev SB_JRNL_LOST : Fld := ⟨47, 32⟩
abbrev SB_JRNL_EOLMB : Fld := ⟨31, 20⟩
/-- SB_CKPT, 64 bits (R506). -/
def SB_CKPT : Nat := chipCtl + 0x500040
abbrev SB_CKPT_GO : Fld := ⟨63, 63⟩
abbrev SB_CKPT_OP : Fld := ⟨62, 62⟩
abbrev SB_CKPT_MEMS : Fld := ⟨61, 61⟩
abbrev SB_CKPT_PID : Fld := ⟨59, 56⟩
abbrev SB_CKPT_SLOT : Fld := ⟨53, 48⟩
abbrev SB_CKPT_EXIT : Fld := ⟨47, 32⟩
abbrev SB_CKPT_INTV : Fld := ⟨31, 16⟩
abbrev SB_CKPT_STATUS : Fld := ⟨15, 8⟩
abbrev SB_CKPT_DONEV : Fld := ⟨1, 1⟩
abbrev SB_CKPT_ERRV : Fld := ⟨0, 0⟩
/-- SB_SERIAL, 64 bits (R506). -/
def SB_SERIAL (i : Nat) : Nat := chipCtl + 0x500100 + 0x10 * i
abbrev SB_SERIAL_SERIAL : Fld := ⟨63, 0⟩
/-- DBG_CTRL, 32 bits (R532). -/
def DBG_CTRL (b : Nat) : Nat := 0x700800 + bwin b
abbrev DBG_CTRL_FZWD : Fld := ⟨7, 7⟩
abbrev DBG_CTRL_FZTMR : Fld := ⟨6, 6⟩
abbrev DBG_CTRL_FZDMA : Fld := ⟨5, 5⟩
abbrev DBG_CTRL_FZTB : Fld := ⟨4, 4⟩
abbrev DBG_CTRL_BKPTEN : Fld := ⟨3, 3⟩
abbrev DBG_CTRL_STEP : Fld := ⟨2, 2⟩
abbrev DBG_CTRL_RELEASE : Fld := ⟨1, 1⟩
abbrev DBG_CTRL_HALTREQ : Fld := ⟨0, 0⟩
/-- DBG_STATUS, 32 bits (R532). -/
def DBG_STATUS (b : Nat) : Nat := 0x700810 + bwin b
abbrev DBG_STATUS_CAUSE : Fld := ⟨11, 8⟩
abbrev DBG_STATUS_RBK : Fld := ⟨2, 2⟩
abbrev DBG_STATUS_STOPPED : Fld := ⟨1, 1⟩
abbrev DBG_STATUS_HALTED : Fld := ⟨0, 0⟩
/-- DBG_PC, 32 bits (R532). -/
def DBG_PC (b : Nat) : Nat := 0x700820 + bwin b
abbrev DBG_PC_PC : Fld := ⟨19, 0⟩
/-- STITCH_CTRL, 32 bits (R532). -/
def STITCH_CTRL (b : Nat) : Nat := 0x700830 + bwin b
abbrev STITCH_CTRL_EN : Fld := ⟨31, 0⟩
/-- WD_CFG, 64 bits (R532). -/
def WD_CFG (b : Nat) : Nat := 0x700840 + bwin b
abbrev WD_CFG_EN : Fld := ⟨63, 63⟩
abbrev WD_CFG_WIN : Fld := ⟨62, 62⟩
abbrev WD_CFG_GIRTH : Fld := ⟨61, 61⟩
abbrev WD_CFG_GRACE : Fld := ⟨59, 32⟩
abbrev WD_CFG_PERIOD : Fld := ⟨31, 0⟩
/-- WD_CNT, 64 bits (R532). -/
def WD_CNT (b : Nat) : Nat := 0x700850 + bwin b
abbrev WD_CNT_KICK : Fld := ⟨63, 63⟩
abbrev WD_CNT_EXP : Fld := ⟨33, 32⟩
abbrev WD_CNT_REMAIN : Fld := ⟨31, 0⟩
/-- TMR, 64 bits (R532). -/
def TMR (b i : Nat) : Nat := 0x700880 + 0x10 * i + bwin b
abbrev TMR_EN : Fld := ⟨63, 63⟩
abbrev TMR_PER : Fld := ⟨62, 62⟩
abbrev TMR_REMAIN : Fld := ⟨55, 28⟩
abbrev TMR_PERIOD : Fld := ⟨27, 0⟩
/-- GIRTH_CH, 64 bits (R532). -/
def GIRTH_CH (i : Nat) : Nat := chipCtl + 0x900000 + 0x10 * i
abbrev GIRTH_CH_EN : Fld := ⟨63, 63⟩
abbrev GIRTH_CH_SRC : Fld := ⟨55, 48⟩
abbrev GIRTH_CH_GPIN : Fld := ⟨47, 44⟩
abbrev GIRTH_CH_ACT : Fld := ⟨42, 40⟩
abbrev GIRTH_CH_CHIP : Fld := ⟨16, 16⟩
abbrev GIRTH_CH_PMASK : Fld := ⟨15, 0⟩
/-- GIRTH_CMD, 32 bits (R532). -/
def GIRTH_CMD : Nat := chipCtl + 0x900100
abbrev GIRTH_CMD_RELCHIP : Fld := ⟨24, 24⟩
abbrev GIRTH_CMD_REL : Fld := ⟨23, 8⟩
abbrev GIRTH_CMD_TRIG : Fld := ⟨7, 0⟩
/-- GIRTH_STAT, 64 bits (R532). -/
def GIRTH_STAT : Nat := chipCtl + 0x900110
abbrev GIRTH_STAT_FIRED : Fld := ⟨63, 56⟩
abbrev GIRTH_STAT_IRQF : Fld := ⟨55, 48⟩
abbrev GIRTH_STAT_TIME : Fld := ⟨47, 0⟩
/-- GIRTH_TBM, 64 bits (R532). -/
def GIRTH_TBM : Nat := chipCtl + 0x900120
abbrev GIRTH_TBM_TICK : Fld := ⟨63, 0⟩
/-- TR_CTRL, 32 bits (R532). -/
def TR_CTRL : Nat := chipCtl + 0x900200
abbrev TR_CTRL_MODE : Fld := ⟨2, 2⟩
abbrev TR_CTRL_DEST : Fld := ⟨1, 1⟩
abbrev TR_CTRL_EN : Fld := ⟨0, 0⟩
/-- TR_BASE, 64 bits (R532). -/
def TR_BASE : Nat := chipCtl + 0x900210
abbrev TR_BASE_ADDR : Fld := ⟨63, 0⟩
/-- TR_STATUS, 64 bits (R532). -/
def TR_STATUS : Nat := chipCtl + 0x900220
abbrev TR_STATUS_LOST : Fld := ⟨63, 48⟩
abbrev TR_STATUS_LOSTV : Fld := ⟨47, 47⟩
abbrev TR_STATUS_FULL : Fld := ⟨46, 46⟩
abbrev TR_STATUS_WRAP : Fld := ⟨45, 45⟩
abbrev TR_STATUS_WPTR : Fld := ⟨21, 0⟩
/-- SPW_CTRL, 32 bits (R532). -/
def SPW_CTRL : Nat := chipCtl + 0x900300
abbrev SPW_CTRL_PERIOD : Fld := ⟨31, 0⟩
/-- SPW_WARN, 64 bits (R532). -/
def SPW_WARN (i : Nat) : Nat := chipCtl + 0x900400 + 0x20 * i
abbrev SPW_WARN_COUNT : Fld := ⟨63, 48⟩
abbrev SPW_WARN_FIRST : Fld := ⟨47, 0⟩
/-- SPW_WLAST, 64 bits (R532). -/
def SPW_WLAST (i : Nat) : Nat := chipCtl + 0x900410 + 0x20 * i
abbrev SPW_WLAST_LAST : Fld := ⟨47, 0⟩
/-- AWL_CTRL, 32 bits (R532). -/
def AWL_CTRL : Nat := chipCtl + 0x900800
abbrev AWL_CTRL_ENL : Fld := ⟨0, 0⟩
/-- GW_ALARM, 64 bits (R532). -/
def GW_ALARM (g i : Nat) : Nat := 0x600000 + 0x10 * i + gwin g
abbrev GW_ALARM_V : Fld := ⟨63, 63⟩
abbrev GW_ALARM_SRC : Fld := ⟨62, 59⟩
abbrev GW_ALARM_MORE : Fld := ⟨58, 52⟩
abbrev GW_ALARM_UNIT : Fld := ⟨51, 42⟩
abbrev GW_ALARM_TIME : Fld := ⟨39, 0⟩
/-- GPIO_CFG, 32 bits (R545). -/
def GPIO_CFG (i : Nat) : Nat := chipCtl + 0x100 + 0x10 * i
abbrev GPIO_CFG_EDGE : Fld := ⟨7, 6⟩
abbrev GPIO_CFG_PULL : Fld := ⟨5, 4⟩
abbrev GPIO_CFG_DRV : Fld := ⟨3, 2⟩
abbrev GPIO_CFG_OUT : Fld := ⟨1, 1⟩
abbrev GPIO_CFG_OE : Fld := ⟨0, 0⟩
/-- GPIO_IN, 32 bits (R545). -/
def GPIO_IN : Nat := chipCtl + 0x200
abbrev GPIO_IN_IN : Fld := ⟨15, 0⟩
/-- TH_STATUS, 64 bits (R548). -/
def TH_STATUS : Nat := chipCtl + 0x300
abbrev TH_STATUS_TMAX : Fld := ⟨63, 56⟩
abbrev TH_STATUS_PEAK : Fld := ⟨55, 48⟩
abbrev TH_STATUS_THROT : Fld := ⟨47, 40⟩
abbrev TH_STATUS_HOT : Fld := ⟨1, 1⟩
abbrev TH_STATUS_HOTEV : Fld := ⟨0, 0⟩
/-- physical window register (R242, R274). -/
def WREG (b i : Nat) : Nat := 0x710000 + 0x10 * i + bwin b
/-- global register (R243, R274). -/
def GREG (b i : Nat) : Nat := 0x710C00 + 0x10 * i + bwin b
/-- array address register, 24 bits (R244, R274). -/
def AREG (b i : Nat) : Nat := 0x710D00 + 0x10 * i + bwin b
/-- mask or mode register (R244, R274). -/
def MREG (b i : Nat) : Nat := 0x710D80 + 0x10 * i + bwin b

end R

/-- Cards of a logical block window: ARR_COLMAP, ARR_ECC, DCTL, DFLAG, RCTL, ARR_SUSP, SEQ_ID, PSR, TCAUSE, TVAL, TVEC, STKP, WSTK, MKEY, NCY, REPC. -/
def blockCards0 : List Card :=
  [⟨0x740000, [], 64, 0x0, [(48, 48, .ro), (47, 36, .ro), (35, 24, .ro), (23, 12, .ro), (11, 0, .ro)]⟩,
   ⟨0x740010, [], 64, 0x0, [(63, 48, .rc), (47, 40, .rc), (39, 32, .rc), (31, 21, .ro), (20, 14, .ro), (13, 13, .ro), (1, 1, .w1c), (0, 0, .w1c)]⟩,
   ⟨0x720000, [], 64, 0xAB0000000A000000, [(63, 60, .rw), (59, 56, .rw), (53, 43, .rw), (42, 32, .rw), (29, 24, .rw), (21, 16, .w1c), (12, 8, .rw), (2, 0, .rw)]⟩,
   ⟨0x720010, [], 32, 0x0, [(14, 8, .rw), (6, 0, .w1c)]⟩,
   ⟨0x720020, [], 64, 0x32020, [(42, 32, .rw), (31, 31, .rw), (19, 16, .rw), (15, 8, .rw), (7, 0, .rw)]⟩,
   ⟨0x720030, [], 64, 0x0, [(63, 56, .ro), (55, 40, .ro), (39, 32, .ro), (31, 24, .ro), (23, 8, .ro), (4, 4, .sc), (3, 3, .w1c), (2, 2, .ro), (1, 1, .ro), (0, 0, .ro)]⟩,
   ⟨0x700000, [], 64, 0x0, [(39, 32, .ro), (31, 24, .ro), (16, 16, .ro), (15, 12, .ro), (6, 0, .ro)]⟩,
   ⟨0x700010, [], 64, 0x0, [(59, 48, .ro), (47, 44, .ro), (43, 40, .ro), (8, 8, .ro), (4, 4, .ro), (0, 0, .rw)]⟩,
   ⟨0x700020, [], 32, 0x0, [(8, 8, .ro), (7, 0, .ro)]⟩,
   ⟨0x700030, [], 64, 0x0, [(63, 0, .ro)]⟩,
   ⟨0x700040, [], 64, 0x0, [(63, 48, .rw), (19, 8, .rw)]⟩,
   ⟨0x700050, [], 64, 0x7C00000080000, [(51, 36, .rw), (19, 4, .rw)]⟩,
   ⟨0x700060, [], 64, 0x7000000078000, [(51, 40, .rw), (19, 8, .rw)]⟩,
   ⟨0x700070, [], 32, 0x0, [(11, 8, .ro), (3, 0, .rw)]⟩,
   ⟨0x700080, [], 32, 0x0, [(15, 0, .rw)]⟩,
   ⟨0x700090, [], 32, 0x0, [(11, 0, .rw)]⟩]

/-- Cards of a logical block window: LS, LE, LC, LSTAT, SEQ_MCODE_VERSION, MC_CTRL, MC_STATUS, CS_FP, MEM_ECC, DMA_RING, DMA_CTRL, DMA_ERR, DMA_EADDR, BIC_PEND, BIC_PEND_SET, BIC_PEND_CLR. -/
def blockCards1 : List Card :=
  [⟨0x700100, [(4, 0x10)], 32, 0x0, [(19, 0, .rw)]⟩,
   ⟨0x700140, [(4, 0x10)], 32, 0x0, [(19, 0, .rw)]⟩,
   ⟨0x700180, [(4, 0x10)], 32, 0x0, [(31, 0, .rw)]⟩,
   ⟨0x7001C0, [], 64, 0x0, [(63, 52, .ro), (51, 40, .ro), (39, 28, .ro), (27, 16, .ro), (3, 0, .ro)]⟩,
   ⟨0x730000, [], 64, 0x10000, [(63, 32, .ro), (31, 16, .ro), (15, 8, .rc)]⟩,
   ⟨0x730010, [], 32, 0x0, [(0, 0, .rw)]⟩,
   ⟨0x730020, [], 64, 0x0, [(63, 50, .ro), (49, 47, .ro), (39, 32, .ro), (31, 18, .ro), (7, 7, .w1c), (6, 6, .w1c), (5, 5, .w1c), (4, 4, .w1c), (3, 3, .w1c), (0, 0, .w1c)]⟩,
   ⟨0x730030, [], 64, 0x0, [(63, 0, .ro)]⟩,
   ⟨0x750000, [], 64, 0x0, [(63, 52, .rc), (51, 40, .rc), (39, 32, .rc), (31, 16, .ro), (3, 3, .w1c), (2, 2, .w1c), (1, 1, .w1c)]⟩,
   ⟨0x770000, [(2, 0x100)], 64, 0x0, [(63, 44, .rw), (27, 16, .ro), (11, 0, .rw)]⟩,
   ⟨0x770010, [(2, 0x100)], 32, 0x400100, [(31, 16, .rw), (11, 8, .rw), (3, 3, .w1c), (2, 2, .w1c), (1, 1, .ro), (0, 0, .rw)]⟩,
   ⟨0x770020, [(2, 0x100)], 64, 0x0, [(63, 56, .ro), (55, 44, .ro)]⟩,
   ⟨0x770030, [(2, 0x100)], 64, 0x0, [(63, 0, .ro)]⟩,
   ⟨0x780000, [], 64, 0x0, [(63, 0, .ro)]⟩,
   ⟨0x780010, [], 64, 0x0, [(63, 0, .wo)]⟩,
   ⟨0x780020, [], 64, 0x0, [(63, 0, .wo)]⟩]

/-- Cards of a logical block window: BIC_MASK, BIC_MASK_SET, BIC_MASK_CLR, BIC_ACT, BIC_EOI, BIC_GRP, BIC_HOG, BIC_CICQ, DBG_CTRL, DBG_STATUS, DBG_PC, STITCH_CTRL, WD_CFG, WD_CNT, TMR, WREG. -/
def blockCards2 : List Card :=
  [⟨0x780030, [], 64, 0xFFFFFFFFFFFFFFFF, [(63, 0, .ro)]⟩,
   ⟨0x780040, [], 64, 0x0, [(63, 0, .wo)]⟩,
   ⟨0x780050, [], 64, 0x0, [(63, 0, .wo)]⟩,
   ⟨0x780060, [], 64, 0x0, [(63, 0, .ro)]⟩,
   ⟨0x780070, [], 32, 0x0, [(5, 0, .wo)]⟩,
   ⟨0x780080, [(4, 0x10)], 64, 0x0, [(2, 0, .rw), (6, 4, .rw), (10, 8, .rw), (14, 12, .rw), (18, 16, .rw), (22, 20, .rw), (26, 24, .rw), (30, 28, .rw), (34, 32, .rw), (38, 36, .rw), (42, 40, .rw), (46, 44, .rw), (50, 48, .rw), (54, 52, .rw), (58, 56, .rw), (62, 60, .rw)]⟩,
   ⟨0x780100, [(8, 0x10)], 32, 0x0, [(31, 0, .rw)]⟩,
   ⟨0x780200, [], 64, 0x0, [(63, 63, .rse), (9, 0, .rse)]⟩,
   ⟨0x700800, [], 32, 0xF0, [(7, 7, .rw), (6, 6, .rw), (5, 5, .rw), (4, 4, .rw), (3, 3, .rw), (2, 2, .sc), (1, 1, .sc), (0, 0, .sc)]⟩,
   ⟨0x700810, [], 32, 0x0, [(11, 8, .ro), (2, 2, .w1c), (1, 1, .ro), (0, 0, .ro)]⟩,
   ⟨0x700820, [], 32, 0x0, [(19, 0, .rw)]⟩,
   ⟨0x700830, [], 32, 0x0, [(31, 0, .rw)]⟩,
   ⟨0x700840, [], 64, 0x0, [(63, 63, .rw), (62, 62, .rw), (61, 61, .rw), (59, 32, .rw), (31, 0, .rw)]⟩,
   ⟨0x700850, [], 64, 0x0, [(63, 63, .wo), (33, 32, .ro), (31, 0, .ro)]⟩,
   ⟨0x700880, [(4, 0x10)], 64, 0x0, [(63, 63, .rw), (62, 62, .rw), (55, 28, .ro), (27, 0, .rw)]⟩,
   ⟨0x710000, [(192, 0x10)], 64, 0x0, [(63, 0, .rw)]⟩]

/-- Cards of a logical block window: GREG, AREG, MREG. -/
def blockCards3 : List Card :=
  [⟨0x710C00, [(16, 0x10)], 64, 0x0, [(63, 0, .rw)]⟩,
   ⟨0x710D00, [(8, 0x10)], 32, 0x0, [(23, 0, .rw)]⟩,
   ⟨0x710D80, [(8, 0x10)], 64, 0x0, [(63, 0, .rw)]⟩]

/-- The cards of a logical block window. -/
def blockCards : List Card := blockCards0 ++ blockCards1 ++ blockCards2 ++ blockCards3

/-- Cards of a gateway window: BSW_MAP, ORN_GEOM, DRAM_SCRUB, DRAM_ECC, DRAM_ELOG, DRAM_LANE, KEY_ERR, GW_SHADOW, GW_HFAIL, GW_ALARM. -/
def gatewayCards0 : List Card :=
  [⟨0x0, [], 64, 0x1C61440C2040, [(60, 59, .ro), (58, 57, .ro), (56, 48, .ro), (47, 42, .ro), (41, 36, .ro), (35, 30, .ro), (29, 24, .ro), (23, 18, .ro), (17, 12, .ro), (11, 6, .ro), (5, 0, .ro)]⟩,
   ⟨0x500000, [], 64, 0x0, [(63, 56, .ro), (55, 48, .ro), (47, 47, .ro), (39, 32, .ro), (31, 24, .rc), (4, 4, .ro), (3, 0, .ro)]⟩,
   ⟨0x100000, [], 64, 0x800002D000000000, [(63, 63, .rw), (47, 32, .rw), (31, 0, .ro)]⟩,
   ⟨0x100010, [], 64, 0x0, [(63, 48, .rc), (47, 40, .rc), (39, 30, .ro), (2, 2, .ro), (1, 1, .w1c), (0, 0, .w1c)]⟩,
   ⟨0x100020, [], 64, 0x0, [(63, 60, .ro), (27, 0, .ro)]⟩,
   ⟨0x100030, [], 32, 0x0, [(31, 31, .ro), (30, 24, .ro), (23, 23, .ro), (22, 16, .ro), (0, 0, .ro)]⟩,
   ⟨0x280000, [], 64, 0x0, [(63, 48, .rc), (18, 18, .w1c), (17, 0, .ro)]⟩,
   ⟨0x300000, [], 64, 0x0, [(63, 54, .ro), (47, 32, .ro), (31, 16, .ro), (15, 8, .rc)]⟩,
   ⟨0x300010, [], 64, 0x0, [(63, 56, .ro), (55, 55, .w1c), (51, 48, .ro), (47, 0, .ro)]⟩,
   ⟨0x600000, [(16, 0x10)], 64, 0x0, [(63, 63, .w1c), (62, 59, .ro), (58, 52, .ro), (51, 42, .ro), (39, 0, .ro)]⟩]

/-- The cards of a gateway window. -/
def gatewayCards : List Card := gatewayCards0

/-- Cards of chip control: CHIP_ID, STEPPING, IMG_CTRL, IMG_STATUS, IMG_SRC, IMG_LEN, IMG_ERR, IMG_REGMAP, IMG_DIGEST, IMG_PVER, MCODE_VERSION, KU_RANGE, KU_PFKEY, KU_VFKEY, KU_VIOL, MS_CTRL. -/
def chipCards0 : List Card :=
  [⟨0x0, [], 32, 0x2F12D700, [(31, 16, .ro), (15, 8, .ro)]⟩,
   ⟨0x10, [], 32, 0x10022, [(23, 16, .ro), (15, 8, .ro), (7, 4, .ro), (3, 0, .ro)]⟩,
   ⟨0x100000, [], 64, 0x0, [(2, 2, .rw), (1, 1, .rw), (0, 0, .sc)]⟩,
   ⟨0x100010, [], 64, 0xFFFF00000000, [(63, 48, .ro), (47, 32, .ro), (31, 24, .ro), (11, 8, .ro), (7, 7, .w1c), (5, 5, .ro), (4, 4, .ro), (3, 3, .w1c), (2, 2, .w1c), (1, 1, .w1c), (0, 0, .ro)]⟩,
   ⟨0x100020, [], 64, 0x0, [(47, 0, .rw)]⟩,
   ⟨0x100030, [], 32, 0x0, [(31, 0, .rw)]⟩,
   ⟨0x100040, [], 64, 0x0, [(63, 56, .ro), (39, 24, .ro), (23, 8, .ro), (7, 0, .ro)]⟩,
   ⟨0x100050, [], 64, 0x0, [(63, 0, .ro)]⟩,
   ⟨0x100100, [(6, 0x10)], 64, 0x0, [(63, 0, .ro)]⟩,
   ⟨0x100200, [(16, 0x10)], 32, 0x0, [(31, 0, .ro)]⟩,
   ⟨0x20, [], 64, 0x1000000000000, [(63, 48, .ro), (47, 16, .ro), (11, 10, .ro), (9, 9, .ro), (8, 8, .ro)]⟩,
   ⟨0xB00000, [], 64, 0x0, [(63, 63, .sc), (62, 62, .rw), (55, 52, .rw), (51, 51, .rw), (43, 22, .rw), (21, 0, .rw)]⟩,
   ⟨0xB00010, [], 32, 0x0, [(3, 0, .rw)]⟩,
   ⟨0xB00020, [], 64, 0x0, [(63, 0, .rw)]⟩,
   ⟨0xB00030, [], 64, 0x0, [(63, 56, .rc), (55, 52, .ro), (51, 51, .ro), (47, 0, .ro)]⟩,
   ⟨0x600000, [], 64, 0x186A00000, [(39, 16, .rw)]⟩]

/-- Cards of chip control: MS_STAT, EP_CTRL, EP_STAT, EP_TLAST, CN_CTRL, CN_COUNT, CN_LAST, SQ_BASE, CQ_BASE, QCFG, SQ_TAIL, CQ_HEAD, HI_STATUS, HI_EXIT, HI_ERR, HI_B2CFG. -/
def chipCards1 : List Card :=
  [⟨0x600010, [], 64, 0x5F5E100, [(63, 63, .rw), (47, 32, .ro), (31, 0, .rw)]⟩,
   ⟨0xA00000, [(16, 0x100)], 64, 0x2000000, [(63, 63, .sc), (25, 16, .rw)]⟩,
   ⟨0xA00010, [(16, 0x100)], 64, 0x0, [(63, 32, .ro), (31, 28, .ro), (23, 16, .rc), (15, 8, .rc), (0, 0, .w1c)]⟩,
   ⟨0xA00020, [(16, 0x100)], 64, 0x0, [(63, 0, .ro)]⟩,
   ⟨0xA01000, [], 64, 0x64004000000000, [(63, 48, .rw), (47, 32, .rw)]⟩,
   ⟨0xA01010, [], 64, 0x0, [(63, 48, .rc), (47, 40, .rc), (39, 32, .rc), (31, 24, .rc), (23, 16, .rc), (15, 8, .rc), (7, 0, .rc)]⟩,
   ⟨0xA01020, [], 64, 0x0, [(63, 56, .ro), (55, 48, .ro), (47, 44, .ro), (43, 32, .ro), (31, 0, .ro)]⟩,
   ⟨0x800000, [(17, 0x8000), (64, 0x100)], 64, 0x0, [(63, 12, .rw)]⟩,
   ⟨0x800010, [(17, 0x8000), (64, 0x100)], 64, 0x0, [(63, 12, .rw)]⟩,
   ⟨0x800020, [(17, 0x8000), (64, 0x100)], 64, 0x0, [(63, 63, .rw), (62, 62, .w1c), (58, 48, .rw), (31, 16, .rw), (15, 0, .rw)]⟩,
   ⟨0x800030, [(17, 0x8000), (64, 0x100)], 32, 0x0, [(15, 0, .rw)]⟩,
   ⟨0x800040, [(17, 0x8000), (64, 0x100)], 32, 0x0, [(15, 0, .rw)]⟩,
   ⟨0x8C0000, [], 32, 0x0, [(31, 31, .ro), (12, 8, .ro), (4, 4, .ro), (3, 0, .ro)]⟩,
   ⟨0x8C0010, [], 32, 0x0, [(31, 0, .wo)]⟩,
   ⟨0x8C0020, [], 64, 0x0, [(63, 56, .ro), (55, 51, .ro), (50, 50, .ro), (49, 49, .w1c), (47, 0, .ro)]⟩,
   ⟨0x8C0030, [], 64, 0x0, [(47, 31, .rw)]⟩]

/-- Cards of chip control: HI_APBASE, REIN_ID, REIN_STATUS, REIN_LANE, REIN_TB, CIC_PEND, CIC_PEND_SET, CIC_PEND_CLR, CIC_MASK, CIC_MASK_SET, CIC_MASK_CLR, CIC_ACT, CIC_EOI, CIC_HOG, CIC_ROUTE, WH_SLOT. -/
def chipCards2 : List Card :=
  [⟨0x8C0040, [], 64, 0x10000000000, [(47, 24, .rw)]⟩,
   ⟨0x700000, [], 64, 0x0, [(55, 52, .ro), (51, 48, .ro), (47, 44, .ro), (43, 40, .ro), (39, 38, .ro), (37, 36, .ro), (35, 34, .ro), (33, 33, .ro), (31, 30, .ro), (29, 28, .ro)]⟩,
   ⟨0x700100, [(4, 0x100)], 64, 0x0, [(63, 60, .ro), (59, 56, .ro), (47, 44, .ro), (43, 43, .ro), (39, 32, .ro), (31, 16, .rc), (15, 8, .rc), (2, 2, .w1c), (1, 1, .w1c), (0, 0, .w1c)]⟩,
   ⟨0x700110, [(4, 0x100)], 64, 0x3FFFFFFFF, [(41, 38, .ro), (37, 36, .ro), (33, 0, .ro)]⟩,
   ⟨0x700500, [], 64, 0x0, [(63, 63, .ro), (62, 62, .w1c), (55, 48, .ro)]⟩,
   ⟨0x200000, [(16, 0x10)], 64, 0x0, [(63, 0, .ro)]⟩,
   ⟨0x200100, [(16, 0x10)], 64, 0x0, [(63, 0, .wo)]⟩,
   ⟨0x200200, [(16, 0x10)], 64, 0x0, [(63, 0, .wo)]⟩,
   ⟨0x200300, [(16, 0x10)], 64, 0xFFFFFFFFFFFFFFFF, [(63, 0, .ro)]⟩,
   ⟨0x200400, [(16, 0x10)], 64, 0x0, [(63, 0, .wo)]⟩,
   ⟨0x200500, [(16, 0x10)], 64, 0x0, [(63, 0, .wo)]⟩,
   ⟨0x200600, [(16, 0x10)], 64, 0x0, [(63, 0, .ro)]⟩,
   ⟨0x200700, [], 32, 0x0, [(9, 0, .wo)]⟩,
   ⟨0x200800, [(32, 0x10)], 32, 0x0, [(31, 0, .rw)]⟩,
   ⟨0x201000, [(1024, 0x10)], 32, 0x0, [(31, 22, .ro), (21, 20, .rw), (19, 9, .rw), (8, 4, .rw)]⟩,
   ⟨0x280000, [(32, 0x10)], 64, 0x0, [(63, 63, .rw), (62, 60, .rw), (52, 48, .rw), (31, 31, .rw), (30, 30, .rw), (29, 29, .rw), (15, 0, .rw)]⟩]

/-- Cards of chip control: WH_EVENT, WH_TMR, PC_CLK, PC_VF, PC_PWR, PC_EVENT, PC_RGN, PC_DOM, SEC_STATE, BOOT_STATUS, SEC_MBX, SEC_NONCE, SB_STATUS, SB_CTRL, SB_LIFE, SB_JRNL. -/
def chipCards3 : List Card :=
  [⟨0x280200, [], 32, 0x0, [(31, 0, .w1c)]⟩,
   ⟨0x280210, [(2, 0x10)], 64, 0x0, [(63, 63, .rw), (62, 62, .rw), (31, 0, .rw)]⟩,
   ⟨0x300000, [], 32, 0x0, [(31, 31, .ro)]⟩,
   ⟨0x300010, [], 32, 0x2BC, [(15, 15, .ro), (11, 0, .ro)]⟩,
   ⟨0x300020, [], 64, 0x44C00000000, [(47, 32, .rw), (15, 0, .ro)]⟩,
   ⟨0x300030, [], 32, 0x0, [(31, 31, .ro), (30, 30, .ro), (29, 29, .ro), (28, 28, .ro), (6, 6, .w1c), (5, 5, .w1c), (4, 4, .w1c), (3, 3, .w1c), (2, 2, .w1c), (1, 1, .w1c), (0, 0, .w1c)]⟩,
   ⟨0x300100, [(16, 0x10)], 64, 0x0, [(63, 62, .rw), (61, 60, .ro), (59, 58, .ro), (55, 52, .ro), (51, 48, .ro), (47, 40, .rc), (39, 39, .w1c), (38, 38, .ro)]⟩,
   ⟨0x301000, [(176, 0x10)], 32, 0x0, [(31, 31, .ro), (27, 24, .ro), (19, 19, .rw), (18, 16, .rw), (2, 0, .ro)]⟩,
   ⟨0x400000, [], 64, 0x0, [(63, 63, .ro), (62, 61, .ro), (60, 58, .ro), (57, 54, .ro), (47, 40, .ro), (39, 32, .ro), (31, 28, .ro)]⟩,
   ⟨0x400010, [], 64, 0x0, [(63, 60, .ro), (59, 52, .ro), (51, 51, .ro), (50, 50, .ro), (49, 49, .ro), (47, 32, .ro), (31, 0, .ro)]⟩,
   ⟨0x400020, [], 64, 0x0, [(63, 63, .sc), (55, 48, .rw), (47, 32, .rw), (15, 8, .ro), (1, 1, .w1c), (0, 0, .ro)]⟩,
   ⟨0x400100, [(6, 0x10)], 64, 0x0, [(63, 0, .ro)]⟩,
   ⟨0x500000, [], 64, 0x0, [(63, 63, .ro), (62, 61, .ro), (60, 57, .ro), (56, 56, .ro), (47, 40, .ro), (3, 3, .w1c), (2, 2, .w1c), (1, 1, .w1c), (0, 0, .w1c)]⟩,
   ⟨0x500010, [], 32, 0x0, [(0, 0, .sc)]⟩,
   ⟨0x500020, [], 64, 0x0, [(63, 32, .ro), (31, 0, .ro)]⟩,
   ⟨0x500030, [], 64, 0x0, [(63, 53, .ro), (47, 32, .rc), (31, 20, .ro)]⟩]

/-- Cards of chip control: SB_CKPT, SB_SERIAL, GIRTH_CH, GIRTH_CMD, GIRTH_STAT, GIRTH_TBM, TR_CTRL, TR_BASE, TR_STATUS, SPW_CTRL, SPW_WARN, SPW_WLAST, AWL_CTRL, GPIO_CFG, GPIO_IN, TH_STATUS. -/
def chipCards4 : List Card :=
  [⟨0x500040, [], 64, 0x0, [(63, 63, .sc), (62, 62, .rw), (61, 61, .rw), (59, 56, .rw), (53, 48, .rw), (47, 32, .ro), (31, 16, .rw), (15, 8, .ro), (1, 1, .w1c), (0, 0, .w1c)]⟩,
   ⟨0x500100, [(2, 0x10)], 64, 0x0, [(63, 0, .ro)]⟩,
   ⟨0x900000, [(8, 0x10)], 64, 0x0, [(63, 63, .rw), (55, 48, .rw), (47, 44, .rw), (42, 40, .rw), (16, 16, .rw), (15, 0, .rw)]⟩,
   ⟨0x900100, [], 32, 0x0, [(24, 24, .wo), (23, 8, .wo), (7, 0, .wo)]⟩,
   ⟨0x900110, [], 64, 0x0, [(63, 56, .w1c), (55, 48, .w1c), (47, 0, .ro)]⟩,
   ⟨0x900120, [], 64, 0x0, [(63, 0, .rw)]⟩,
   ⟨0x900200, [], 32, 0x0, [(2, 2, .rw), (1, 1, .rw), (0, 0, .rw)]⟩,
   ⟨0x900210, [], 64, 0x0, [(63, 0, .rw)]⟩,
   ⟨0x900220, [], 64, 0x0, [(63, 48, .rc), (47, 47, .w1c), (46, 46, .ro), (45, 45, .w1c), (21, 0, .ro)]⟩,
   ⟨0x900300, [], 32, 0x186A0, [(31, 0, .rw)]⟩,
   ⟨0x900420, [(9, 0x20)], 64, 0x0, [(63, 48, .rc), (47, 0, .ro)]⟩,
   ⟨0x900430, [(9, 0x20)], 64, 0x0, [(47, 0, .ro)]⟩,
   ⟨0x900800, [], 32, 0x0, [(0, 0, .rw)]⟩,
   ⟨0x100, [(16, 0x10)], 32, 0x10, [(7, 6, .rw), (5, 4, .rw), (3, 2, .rw), (1, 1, .rw), (0, 0, .rw)]⟩,
   ⟨0x200, [], 32, 0x0, [(15, 0, .ro)]⟩,
   ⟨0x300, [], 64, 0x0, [(63, 56, .ro), (55, 48, .rc), (47, 40, .rc), (1, 1, .ro), (0, 0, .w1c)]⟩]

/-- The cards of chip control. -/
def chipCards : List Card := chipCards0 ++ chipCards1 ++ chipCards2 ++ chipCards3 ++ chipCards4

/-- Cards of a mesh router: RT_LINK, RT_ISO, RT_TAGS, GW_SLUICE, ST_RDB, ST_WRB, ST_CNT, ST_HIST. -/
def routerCards0 : List Card :=
  [⟨0x0, [], 64, 0x0, [(63, 48, .rc), (47, 44, .ro), (43, 40, .w1c), (39, 39, .w1c), (32, 32, .ro), (31, 16, .ro)]⟩,
   ⟨0x10, [], 32, 0x0, [(31, 16, .rc), (9, 0, .ro)]⟩,
   ⟨0x20, [], 64, 0x0, [(63, 48, .rc), (47, 32, .rc), (31, 16, .rc), (15, 0, .ro)]⟩,
   ⟨0x30, [], 64, 0x0, [(63, 56, .ro), (41, 32, .ro), (29, 0, .ro)]⟩,
   ⟨0x1000, [(10, 0x200)], 64, 0x0, [(63, 0, .ro)]⟩,
   ⟨0x1010, [(10, 0x200)], 64, 0x0, [(63, 0, .ro)]⟩,
   ⟨0x1020, [(10, 0x200)], 64, 0x0, [(63, 32, .ro), (31, 0, .ro)]⟩,
   ⟨0x1100, [(10, 0x200), (16, 0x10)], 64, 0x0, [(31, 0, .ro)]⟩]

/-- The cards of a mesh router. -/
def routerCards : List Card := routerCards0

/-- Whether an offset from a card's base falls on one of its repetitions. -/
def dimsHit : List (Nat × Nat) → Nat → Bool
  | [], o => o == 0
  | d :: ds, o => decide (o / d.2 < d.1) && dimsHit ds (o % d.2)

/-- The card of a list that names offset o. -/
def cardIn (o : Nat) : List Card → Option Card
  | [] => none
  | c :: cs => if c.off ≤ o && dimsHit c.dims (o - c.off) then some c else cardIn o cs

/-- The router whose register block holds address a, and the offset in it (R373). -/
def routerOf (a : Nat) : Option (Nat × Nat) :=
  if 0x030000000000 ≤ a ∧ a < 0x030010000000 then
    let o := a % 0x1000000
    if 0x400000 ≤ o ∧ o < 0x500000 then some ((a - 0x030000000000) / 0x1000000, o - 0x400000) else none
  else if 0x040000610000 ≤ a ∧ a < 0x040000690000 then
    some (15 + (a - 0x040000600000) / 0x10000, (a - 0x040000600000) % 0x10000)
  else none

/-- The card of the register at digit address a, if a register stands there. -/
def cardAt (a : Nat) : Option Card :=
  match routerOf a with
  | some (_, o) => cardIn o routerCards
  | none =>
    if inWin a then cardIn (winOff a) blockCards
    else if 0x030000000000 ≤ a ∧ a < 0x030010000000 then cardIn (a % 0x1000000) gatewayCards
    else if 0x040000000000 ≤ a ∧ a < 0x040000C00000 then cardIn (a - 0x040000000000) chipCards
    else none

/-- The reset route of CIC source n at reset (R454, R60): the source's number, and TKIND 2 with the PF vector of
the same number where R454 gives a vector, else TKIND 0. -/
def routeReset (n : Nat) : Nat :=
  n * 2 ^ 22 +
    (if n = 0 ∨ (4 ≤ n ∧ n ≤ 11) ∨ (16 ≤ n ∧ n ≤ 47) ∨ (64 ≤ n ∧ n ≤ 191) then 2 * 2 ^ 20 + n * 2 ^ 9 else 0)

/-- What the register at digit address a holds after power-on: its card's reset value, and the cards whose reset value
depends on the number of the register (R454, R460, R480). -/
def regReset (a : Nat) : Word :=
  if 0x040000201000 ≤ a ∧ a < 0x040000205000 then BitVec.ofNat 64 (routeReset ((a - 0x040000201000) / 16))
  else if a = 0x040000200800 then 0x000186A0
  else if 0x040000301000 ≤ a ∧ a < 0x040000301B00 then
    (if (a - 0x040000301000) / 16 < 160 then 0x000D0005 else 0x00080000)
  else match cardAt a with
    | some c => BitVec.ofNat 64 c.reset
    | none => 0

/-- What the register at digit address a holds. -/
def rg (s : State) (a : Nat) : Nat := (mapGet (regReset a) a s.regs).toNat

/-- The register at digit address a holds v. -/
def setRg (s : State) (a v : Nat) : State := { s with regs := mapSet (regReset a) a (BitVec.ofNat 64 v) s.regs }

/-- A field of a register. -/
def rgF (s : State) (a : Nat) (f : Fld) : Nat := bits (rg s a) f.hi f.lo

/-- A one-bit field of a register. -/
def rgB (s : State) (a : Nat) (f : Fld) : Bool := rgF s a f = 1

/-- A field of a register set to v. -/
def setF (s : State) (a : Nat) (f : Fld) (v : Nat) : State := setRg s a (putBits (rg s a) f.hi f.lo v)

/-- A one-bit field of a register set. -/
def setB (s : State) (a : Nat) (f : Fld) (v : Bool) : State := setF s a f (b2n v)

/-- The largest value of a field. -/
def Fld.top (f : Fld) : Nat := 2 ^ (f.hi + 1 - f.lo) - 1

/-- A counting field incremented by n, saturating at its largest value. -/
def addSat (s : State) (a : Nat) (f : Fld) (n : Nat) : State := setF s a f (min (rgF s a f + n) f.top)

/-- The registers at the addresses that satisfy p back at their reset values. -/
def resetRegs (p : Nat → Bool) (s : State) : State := { s with regs := mapDrop p s.regs }

end Sys2Proof.Machine
end

