-- ==== Sys2Proof/Machine/Ops.lean ====
section
/-! DEFINITION. The operations that the meanings share: where things stand on the chip, digits of memory, what the
device sends out, interrupt sources, alarms and the journal. -/

namespace Sys2Proof.Machine

/-! ### Output and free values -/

/-- Something leaves the device. -/
def emit (s : State) (o : Out) : State := { s with out := s.out ++ [o] }

/-- The next free value, as a number: nothing constrains it. -/
def freeNat (s : State) : Nat := (Config.freeValue s.free).toNat

/-- The state after a free value was taken. -/
def takeFree (s : State) : State := { s with free := s.free + 1 }

/-- TIMEBASE as a number (R462). -/
def now (s : State) : Nat := s.timebase.toNat

/-! ### Positions, holders, partitions (R12-R15, R37, R38, R51) -/

/-- The region beside g: 0 north, 1 east, 2 south, 3 west (R37, R38). -/
def neighbour (g d : Nat) : Option Nat :=
  match d with
  | 0 => if 4 ≤ g then some (g - 4) else none
  | 1 => if g % 4 < 3 then some (g + 1) else none
  | 2 => if g < 12 then some (g + 4) else none
  | _ => if 0 < g % 4 then some (g - 1) else none

/-- POSk of a BSW_MAP. -/
def posFld (k : Nat) : Fld := ⟨6 * k + 5, 6 * k⟩

/-- The holder code of logical block b (R38). -/
def holderCode (s : State) (b : Nat) : Nat := rgF s (R.BSW_MAP (b / 8)) (posFld (b % 8))

/-- The physical block that executes logical block b, following at most n folds (R14, R38). -/
def holderIn (s : State) : Nat → Nat → Option Nat
  | 0, _ => none
  | n + 1, b =>
    let g := b / 8
    let c := holderCode s b
    if c / 16 = 0 then some (9 * g + c % 16)
    else if c / 16 = 1 then (neighbour g (c % 4)).map (fun h => 9 * h + 8)
    else if c / 16 = 2 then holderIn s n (8 * g + c % 8)
    else none

/-- The physical block whose logic executes logical block b; none while the position is HELD (R38). A folded position's
is its host's, wherever that stands. -/
def holder (s : State) (b : Nat) : Option Nat := if idleFrom ≤ b then some (b - idleFrom) else holderIn s 9 b

/-- The logical block that physical block p holds itself, if any. -/
def blockOfPhys (s : State) (p : Nat) : Option Nat :=
  (List.range 128).find? fun b => decide (holderCode s b / 16 < 2) && holder s b == some p

/-- The physical block whose memories hold logical block b's planes, scratchpad and turn memory: its holder, and for a folded
position the failed block, which keeps them in service in its own domain (R38, R387). -/
def memPhys (s : State) (b : Nat) : Option Nat :=
  if b < 128 ∧ holderCode s b / 16 = 2 then some (mapGet (9 * (b / 8) + b % 8) b s.foldHome) else holder s b

/-- The logical block whose memories physical block p holds, if any. -/
def storeOfPhys (s : State) (p : Nat) : Option Nat := (List.range 128).find? fun b => memPhys s b == some p

/-- Whether region g belongs to a partition. -/
def assigned (s : State) (g : Nat) : Bool := (rgF s R.IMG_STATUS R.IMG_STATUS_ASSIGNED).testBit g

/-- Whether region g is held (R75). -/
def heldRegion (s : State) (g : Nat) : Bool := (rgF s R.IMG_STATUS R.IMG_STATUS_HELD).testBit g

/-- The partition of region g. -/
def partOfRegion (s : State) (g : Nat) : Option Nat :=
  if assigned s g then some (bits (rg s R.IMG_REGMAP) (4 * g + 3) (4 * g)) else none

/-- The partition of logical block b. -/
def partOf (s : State) (b : Nat) : Option Nat := partOfRegion s (b / 8)

/-- What the image sets for partition n. -/
def partCfg (s : State) (n : Nat) : Partition := mapGet {} n s.cfg.parts

/-- Whether an image defines partition n (R51). -/
def defined (s : State) (n : Nat) : Bool := mapHas n s.cfg.parts

/-- The regions of partition n, ascending. -/
def regionsOf (s : State) (n : Nat) : List Nat := (List.range 16).filter fun g => partOfRegion s g == some n

/-- The logical blocks of partition n, ascending. -/
def blocksOf (s : State) (n : Nat) : List Nat := (List.range 128).filter fun b => partOf s b == some n

/-- Whether partition n is LOCKSTEP (R52). -/
def lockstep (s : State) (n : Nat) : Bool := !(partCfg s n).indep

/-- The lead's logical block. -/
def leadOf (s : State) (n : Nat) : Nat := (partCfg s n).lead.toNat

/-- The blocks on which an instruction issued by block b acts: the whole partition in LOCKSTEP, else b (R157). -/
def gang (s : State) (b : Nat) : List Nat :=
  match partOf s b with
  | some n => if lockstep s n then blocksOf s n else [b]
  | none => [b]

/-- The block whose program runs on block b: the lead in LOCKSTEP (R157). -/
def programOf (s : State) (b : Nat) : Nat :=
  match partOf s b with
  | some n => if lockstep s n then leadOf s n else b
  | none => b

/-- The current state of power domain d (R473). -/
def domCur (s : State) (d : Nat) : Nat := rgF s (R.PC_DOM d) R.PC_DOM_CUR

/-- The power state of the holder of logical block b; 5 while it has none. -/
def blockCur (s : State) (b : Nat) : Nat := match holder s b with | some p => domCur s p | none => 5

/-- The active owner slot: valid and not retired; the device is locked while there is one (R490). -/
def ownerSlot (f : Fuses) : Option Nat := (List.range 3).find? fun i => f.valid.getLsbD i && !f.retired.getLsbD i

/-- The power state of the domain that keeps logical block b's memories (R387). -/
def memCur (s : State) (b : Nat) : Nat := match memPhys s b with | some p => domCur s p | none => 5

/-- A request, an interrupt delivery or a mesh access to logical block b ends its L1 (R472). -/
def endHush (s : State) (b : Nat) : State :=
  match holder s b with
  | some p => if domCur s p = 1 then setF s (R.PC_DOM p) R.PC_DOM_CUR 0 else s
  | none => s

/-- Router number of the region router of g (Regs), and of (x, y). -/
def routerAt (x y : Nat) : Nat := if x = 0 then 16 + y else if x = 5 then 20 + y else 4 * y + x - 1

/-- Position of router r as 6y + x (R393 UNIT). -/
def routerUnit (r : Nat) : Nat := if r < 16 then 6 * (r / 4) + r % 4 + 1 else if r < 20 then 6 * (r - 16) else 6 * (r - 20) + 5

/-! ### Hidden sequencer state -/

/-- The hidden state of logical block b's sequencer. -/
def seqOf (s : State) (b : Nat) : Seq := mapGet {} b s.seqs

/-- That state replaced. -/
def setSeq (s : State) (b : Nat) (q : Seq) : State := { s with seqs := mapSet {} b q s.seqs }

/-- That state changed by f. -/
def updSeq (s : State) (b : Nat) (f : Seq → Seq) : State := setSeq s b (f (seqOf s b))

/-- A partition's epoch state. -/
def epochOf (s : State) (n : Nat) : Epoch := mapGet {} n s.epochs

/-- That state changed by f. -/
def updEpoch (s : State) (n : Nat) (f : Epoch → Epoch) : State :=
  { s with epochs := mapSet {} n (f (epochOf s n)) s.epochs }

/-- EP_STATn.STATE. -/
def epState (s : State) (n : Nat) : Nat := rgF s (R.EP_STAT n) R.EP_STAT_STATE

/-- A transformation carried out for each element of a list, from left to right. -/
def forEach {α : Type} (l : List α) (f : State → α → State) (s : State) : State := l.foldl f s

/-! ### Memory digits (R2, R3) -/

/-- The form of memory: addresses strictly rising, no byte listed that is 0 (R327: cleared memory reads 0). -/
def Memory.wf (m : List Host.Cell) : Bool := mapWf (fun _ => 0) m

/-- The byte at byte address a. -/
def memByte (m : List Host.Cell) (a : Nat) : Byte := mapGet 0 a m

/-- The memory with byte a set. -/
def memSetByte (m : List Host.Cell) (a : Nat) (v : Byte) : List Host.Cell := mapSet 0 a v m

/-- The digit at digit address a: the high half of a byte stands at the even address. -/
def memDigit (m : List Host.Cell) (a : Nat) : Nat :=
  if a % 2 = 0 then (memByte m (a / 2)).toNat / 16 else (memByte m (a / 2)).toNat % 16

/-- The memory with digit a set. -/
def memSetDigit (m : List Host.Cell) (a v : Nat) : List Host.Cell :=
  let o := (memByte m (a / 2)).toNat
  memSetByte m (a / 2) (BitVec.ofNat 8 (if a % 2 = 0 then v % 16 * 16 + o % 16 else o / 16 * 16 + v % 16))

/-- The n digits of value v, most significant first (R3). -/
def digitsOf (n v : Nat) : List Nat := (List.range n).map fun i => v / 16 ^ (n - 1 - i) % 16

/-- The value of digits, most significant first. -/
def digitsVal (ds : List Nat) : Nat := ds.foldl (fun a d => a * 16 + d % 16) 0

/-- n digits from digit address a upward. -/
def readDigits (s : State) (a n : Nat) : List Nat := (List.range n).map fun i => memDigit s.mem (a + i)

/-- The value of n digits from digit address a upward. -/
def readVal (s : State) (a n : Nat) : Nat := digitsVal (readDigits s a n)

/-- Digits stored from address a upward. -/
def memWrite (m : List Host.Cell) (a : Nat) (ds : List Nat) : List Host.Cell :=
  (ds.foldl (fun (p : Nat × List Host.Cell) d => (p.1 + 1, memSetDigit p.2 p.1 d)) (a, m)).2

/-- Two address ranges share an address. -/
def overlap (a n b m : Nat) : Bool := decide (a < b + m) && decide (b < a + n)

/-- A write of digits a to a + n - 1 clears every reservation on a line it touches (R265). -/
def breakResv (s : State) (a n : Nat) : State :=
  if s.seqs.any fun e => match e.2.resv with | some r => overlap a n r.1 r.2 | none => false then
    s.seqs.foldl (fun s e => match e.2.resv with
      | some r => if overlap a n r.1 r.2 then
          setB (setSeq s e.1 { e.2 with resv := none }) (R.PSR e.1) R.PSR_RESV_VALID false else s
      | none => s) s
  else s

/-- The words that n digits from digit address a cover whole have new check bits (R319, R325). -/
def cleanWords (s : State) (a n : Nat) : State :=
  { s with flaws := mapDrop (fun w => decide (a ≤ 16 * w) && decide (16 * w + 16 ≤ a + n)) s.flaws }

/-- The pages of block memories that n digits from digit address a touch have been written since the last boundary (R378). -/
def notePages (s : State) (a n : Nat) : State :=
  if a < 0x010000000000 ∨ 0x010080000000 ≤ a ∨ n = 0 then s else
  { s with pages := (List.range ((a + n - 1) / 4096 + 1 - a / 4096)).foldl (fun l i => setAdd (a / 4096 + i) l) s.pages }

/-- Digits written to memory at digit address a. -/
def writeDigits (s : State) (a : Nat) (ds : List Nat) : State :=
  let s := notePages (breakResv s a ds.length) a ds.length
  cleanWords { s with mem := memWrite s.mem a ds } a ds.length

/-- An n-digit value written to memory at digit address a. -/
def writeVal (s : State) (a n v : Nat) : State := writeDigits s a (digitsOf n v)

/-- The bytes of digits. -/
def bytesOfDigits : List Nat → List Byte
  | h :: l :: r => BitVec.ofNat 8 (h % 16 * 16 + l % 16) :: bytesOfDigits r
  | [h] => [BitVec.ofNat 8 (h % 16 * 16)]
  | [] => []

/-- The digits of bytes. -/
def digitsOfBytes (bs : List Byte) : List Nat := bs.flatMap fun b => [b.toNat / 16, b.toNat % 16]

/-- The value of bytes, most significant first. -/
def bytesVal (bs : List Byte) : Nat := bs.foldl (fun a b => a * 256 + b.toNat) 0

/-- n bytes of value v, most significant first. -/
def bytesOf (n v : Nat) : List Byte := (List.range n).map fun i => BitVec.ofNat 8 (v / 256 ^ (n - 1 - i))

/-- n bytes of memory from digit address a. -/
def readBytes (s : State) (a n : Nat) : List Byte := bytesOfDigits (readDigits s a (2 * n))

/-! ### Block interrupt controller (R447-R453) -/

/-- The sources of a BIC that exist (R452). -/
def bicExists (n : Nat) : Bool := decide (n ≤ 10) || (decide (32 ≤ n) && decide (n ≤ 47)) || n == 63

/-- The mask of the existing sources. -/
def bicAll : Nat := 0x80_00_FF_FF_00_00_07_FF

/-- The input of a level source of block b's BIC (R452). -/
def bicInput (s : State) (b n : Nat) : Bool :=
  match n with
  | 6 => rgB s (R.DMA_CTRL b 0) R.DMA_CTRL_ERR
  | 8 => rgB s (R.DMA_CTRL b 1) R.DMA_CTRL_ERR
  | 9 => decide (Nat.land (rgF s (R.DFLAG b) R.DFLAG_FL) (rgF s (R.DFLAG b) R.DFLAG_IE) ≠ 0)
  | 10 => rgB s (R.ARR_SUSP b) R.ARR_SUSP_DISC
  | 63 => !(mapGet [] b s.irq.cicq).isEmpty
  | _ => false

/-- PEND of source n of block b set. -/
def bicSet (s : State) (b n : Nat) : State := setF s (R.BIC_PEND b) ⟨n, n⟩ 1

/-- After a change from s0 to s: level source n of block b sets PEND when its input has risen (R447). -/
def bicRise (s0 s : State) (b n : Nat) : State := if !bicInput s0 b n && bicInput s b n then bicSet s b n else s

/-- The hold-off group of source n of block b. -/
def bicGroup (s : State) (b n : Nat) : Nat := rgF s (R.BIC_GRP b (n / 16)) ⟨4 * (n % 16) + 2, 4 * (n % 16)⟩

/-- Source n of block b is eligible (R447, R449). -/
def bicEligible (s : State) (b n : Nat) : Bool :=
  (rg s (R.BIC_PEND b)).testBit n && !(rg s (R.BIC_MASK b)).testBit n && !(rg s (R.BIC_ACT b)).testBit n
    && (rgF s (R.BIC_HOG b (bicGroup s b n)) R.BIC_HOG_PERIOD == 0
      || decide (mapGet 0 (8 * b + bicGroup s b n) s.irq.bicHog ≤ now s))

/-- The lowest eligible source of block b. -/
def bicFirst (s : State) (b : Nat) : Option Nat := (List.range 64).find? (bicEligible s b)

/-- The interrupt that block b's program would take: the lowest logical block and its lowest source (R453). -/
def irqFor (s : State) (b : Nat) : Option (Nat × Nat) :=
  (gang s b).findSome? fun c => (bicFirst s c).map fun n => (c, n)

/-- Some BIC source of the program's blocks is pending and unmasked (R273). -/
def irqPending (s : State) (b : Nat) : Bool :=
  (gang s b).any fun c => decide (Nat.land (rg s (R.BIC_PEND c)) (2 ^ 64 - 1 - rg s (R.BIC_MASK c)) ≠ 0)

/-- Source n of block b is delivered: PEND clears, ACT sets, its group's window opens (R447, R449). -/
def bicDeliver (s : State) (b n : Nat) : State :=
  let p := rgF s (R.BIC_HOG b (bicGroup s b n)) R.BIC_HOG_PERIOD
  let k := 8 * b + bicGroup s b n
  let s := setF (setF s (R.BIC_PEND b) ⟨n, n⟩ 0) (R.BIC_ACT b) ⟨n, n⟩ 1
  if p = 0 then s else { s with irq := { s.irq with bicHog := mapSet 0 k (now s + p) s.irq.bicHog } }

/-! ### Chip interrupt controller (R454-R458) -/

/-- The input of CIC level source n (R454). -/
def cicInput (s : State) (n : Nat) : Bool :=
  if n = 0 then rgB s R.IMG_STATUS R.IMG_STATUS_DONE || rgB s R.IMG_STATUS R.IMG_STATUS_ERR
  else if n < 4 then false
  else if n < 8 then rgB s (R.REIN_STATUS (n - 4)) R.REIN_STATUS_DOWNEV
  else if n = 8 then decide (bits (rg s R.PC_EVENT) 6 0 ≠ 0)
  else if n = 9 then rgB s R.SEC_MBX R.SEC_MBX_DONE
  else if n = 10 then decide (bits (rg s R.SB_STATUS) 3 0 ≠ 0) || decide (bits (rg s R.SB_CKPT) 1 0 ≠ 0)
  else if n = 11 then decide (rgF s R.GIRTH_STAT R.GIRTH_STAT_IRQF ≠ 0) || rgB s R.TR_STATUS R.TR_STATUS_LOSTV
  else if n < 16 then false
  else if n < 32 then rgB s (R.EP_STAT (n - 16)) R.EP_STAT_LOST
  else if n < 48 then rgB s (R.DRAM_ECC (n - 32)) R.DRAM_ECC_SPFULL
  else if n < 64 then false
  else if n < 192 then rgB s (R.ARR_COLMAP (n - 64)) R.ARR_COLMAP_TWINSTOP
  else false

/-- PEND of CIC source n set. -/
def cicSet (s : State) (n : Nat) : State := setF s (R.CIC_PEND (n / 64)) ⟨n % 64, n % 64⟩ 1

/-- The owner of CIC source n: a partition, or none for the chip (R454). -/
def cicOwner (s : State) (n : Nat) : Option Nat :=
  if 16 ≤ n ∧ n < 32 then (if defined s (n - 16) then some (n - 16) else none)
  else if 32 ≤ n ∧ n < 48 then partOfRegion s (n - 32)
  else if 64 ≤ n ∧ n < 192 then partOf s (n - 64)
  else if 256 ≤ n ∧ n < 272 then
    ((List.range 16).find? fun p => defined s p && (partCfg s p).gpio.toNat.testBit (n - 256))
  else if 512 ≤ n then (if defined s ((n - 512) / 32) then some ((n - 512) / 32) else none)
  else none

/-- The pending bit of CIC source n, raised by hardware or by another agent outside its owner, is kept by a rollback
(R383). -/
def cicOutside (s : State) (n : Nat) : State :=
  match cicOwner s n with
  | none => s
  | some p => { s with epochs := s.epochs.map fun e => if e.1 = p then
      (e.1, { e.2 with com := e.2.com.map fun c => { c with cicPend := mapPut n 1 c.cicPend }
                       alt := e.2.alt.map fun c => { c with cicPend := mapPut n 1 c.cicPend } }) else e }

/-- After a change from s0 to s: CIC level source n sets PEND when its input has risen. Hardware raises these inputs. -/
def cicRise (s0 s : State) (n : Nat) : State := if !cicInput s0 n && cicInput s n then cicOutside (cicSet s n) n else s

/-! ### Journal, alarms, warnings (R393, R394, R526-R528) -/

/-- A record joins the journal queue, which holds 1,024; CN_LAST shows it (R393, R395). -/
def journal (s : State) (kind src pid unit arg loc : Nat) : State :=
  let r : JRec :=
    { time := s.timebase, kind := BitVec.ofNat 8 kind, src := BitVec.ofNat 8 src, pid := BitVec.ofNat 8 pid
      dev := BitVec.ofNat 8 (rgF s R.REIN_ID R.REIN_ID_DEVIDX), unit := BitVec.ofNat 16 unit
      arg := BitVec.ofNat 16 arg, epoch := BitVec.ofNat 32 (rgF s (R.EP_STAT pid) R.EP_STAT_EPOCH)
      loc := BitVec.ofNat 64 loc }
  let s := setRg s R.CN_LAST (kind * 2 ^ 56 + src * 2 ^ 48 + pid % 16 * 2 ^ 44 + unit % 4096 * 2 ^ 32 + now s % 2 ^ 32)
  if s.sb.queue.length < 1024 then
    let s := { s with sb := { s.sb with queue := s.sb.queue ++ [r] } }
    setF s R.SB_JRNL R.SB_JRNL_QDEPTH s.sb.queue.length
  else addSat s R.SB_JRNL R.SB_JRNL_LOST 1

/-- The region whose GW_ALARM queue takes a machine check of a unit (R393, R526). -/
def unitRegion (unit : Nat) : Option Nat :=
  if unit < 144 then some (unit / 9)
  else if 256 ≤ unit ∧ unit < 272 then some (unit - 256)
  else if 512 ≤ unit then
    let x := (unit - 512) % 6
    if 1 ≤ x ∧ x ≤ 4 then some (4 * ((unit - 512) / 6) + x - 1) else none
  else none

/-- An entry of a region's GW_ALARM queue: the unit's own entry counts the check in MORE, else the first free entry
takes it. -/
def gwAlarm (s : State) (g src unit : Nat) : State :=
  match (List.range 16).find? fun i => rgB s (R.GW_ALARM g i) R.GW_ALARM_V && rgF s (R.GW_ALARM g i) R.GW_ALARM_UNIT == unit with
  | some i => addSat s (R.GW_ALARM g i) R.GW_ALARM_MORE 1
  | none =>
    match (List.range 16).find? fun i => !rgB s (R.GW_ALARM g i) R.GW_ALARM_V with
    | some i => setRg s (R.GW_ALARM g i) (2 ^ 63 + src % 16 * 2 ^ 59 + unit % 1024 * 2 ^ 42 + now s % 2 ^ 40)
    | none => s

/-- A source of R515 has occurred, in partition p or in none: every armed channel that selects it within its scope is to
fire (R514). -/
def girthRaise (s : State) (src : Nat) (p : Option Nat) : State :=
  let hits := (List.range 8).filter fun n =>
    rgB s (R.GIRTH_CH n) R.GIRTH_CH_EN && (rgF s (R.GIRTH_CH n) R.GIRTH_CH_SRC).testBit src
      && (rgB s (R.GIRTH_CH n) R.GIRTH_CH_CHIP
        || match p with | some k => (rgF s (R.GIRTH_CH n) R.GIRTH_CH_PMASK).testBit k | none => false)
  { s with dbg := { s.dbg with girth := hits.foldl (fun l n => if (n, src) ∈ l then l else l ++ [(n, src)]) s.dbg.girth } }

/-- The partition in which a unit of R393 works, if any. -/
def unitPart (s : State) (unit : Nat) : Option Nat :=
  if unit < 144 then (blockOfPhys s unit).bind (partOf s) else (unitRegion unit).bind (partOfRegion s)

/-- A trace packet is sent to the sink while it runs (R532 TR_CTRL). -/
def tracePut (s : State) (p : Nat) : State := if rgB s R.TR_CTRL R.TR_CTRL_EN then emit s (.trace (BitVec.ofNat 128 p)) else s

/-- A machine check is raised: its entry in GW_ALARM and its ALARM on the way to the controller (R526, R528). -/
def raiseCheck (s : State) (src unit loc part : Nat) : State :=
  let s := match unitRegion unit with | some g => gwAlarm s g src unit | none => s
  let s := girthRaise s 4 (unitPart s unit)
  let s := { s with dbg := { s.dbg with chk := s.dbg.chk ++ [(src, unit, loc)] } }
  emit s (.alarm 1 src unit part 0 (now s) (now s) 0)

/-- A machine check of logical block b, whose UNIT is its holder. -/
def blockCheck (s : State) (b src loc : Nat) : State :=
  raiseCheck s src ((holder s b).getD 0) loc ((partOf s b).getD 0)

/-- The window of warnings that has ended by now is closed (R10, R527): every count above 0 is sent as a summary. -/
def rollSpill (s : State) : State :=
  if s.dbg.spill.isEmpty || decide (now s < s.dbg.spillEnd) then s else
  let s1 := s.dbg.spill.foldl (fun s e =>
    if e.2.1 = 0 then s
    else emit s (.alarm 3 (e.1 / 1024) (e.1 % 1024) e.2.2.2.2 e.2.1 e.2.2.1 e.2.2.2.1 0)) s
  { s1 with dbg := { s1.dbg with spill := [] } }

/-- A warning of code c by unit u, with the place within the unit that it names (R527): the first of a window is sent when
a credit is there, the others count. -/
def warnAt (s : State) (c u part place : Nat) (credit : Bool) : State :=
  let w := R.SPW_WARN c
  let s := rollSpill s
  let p := rgF s R.SPW_CTRL R.SPW_CTRL_PERIOD
  let s := if s.dbg.spill.isEmpty then { s with dbg := { s.dbg with spillEnd := (now s / p + 1) * p } } else s
  let s := if rgF s w R.SPW_WARN_COUNT = 0 then setF s w R.SPW_WARN_FIRST (now s) else s
  let s := addSat s w R.SPW_WARN_COUNT 1
  let s := setF s (R.SPW_WLAST c) R.SPW_WLAST_LAST (now s)
  let k := 1024 * c + u
  let put (v : Nat × Nat × Nat × Nat) (s : State) : State := { s with dbg := { s.dbg with spill := mapPut k v s.dbg.spill } }
  if mapHas k s.dbg.spill then
    let v := mapGet (0, 0, 0, 0) k s.dbg.spill
    put (v.1 + 1, (if v.1 = 0 then now s else v.2.1), now s, part) s
  else if credit then put (0, 0, 0, part) (emit s (.alarm 2 c u part 0 (now s) (now s) place))
  else put (1, now s, now s, part) s

/-- A warning of code c by unit u. -/
def warnOp (s : State) (c u part : Nat) (credit : Bool) : State := warnAt s c u part 0 credit

/-- A corrected single-bit error of a unit is a warning (R527). -/
def warnCorrected (s : State) (u part : Nat) : State := warnOp s 3 u part true

/-- The event bit f of PC_EVENT sets, and a power event is a warning (R480, R527); its unit is the router of the
always-on domain. -/
def powerEvent (s : State) (f : Fld) : State :=
  warnOp (cicRise s (setB s R.PC_EVENT f true) 8) 7 0x200 0 true

/-! ### The host side: functions, MSI-X, completions (R398, R399, R404, R408) -/

/-- What the bits that the host writes of configuration dword d hold at reset, as PCI Express gives them: Device Control with
Relaxed Ordering, No Snoop and 512-byte reads, and the AER masks and severity (log entry 20). -/
def cfgDef (f d : Nat) : BitVec 32 :=
  if f ≠ 0 then 0 else match d with | 30 => 0x2810 | 66 => 0x04400000 | 67 => 0x00462030 | 69 => 0x2000 | _ => 0

/-- Configuration dword d of function f as the host has written it. -/
def cfgReg (s : State) (f d : Nat) : Nat := (mapGet (cfgDef f d) (1024 * f + d) s.host.cfg).toNat

/-- A configuration register of function f stored. -/
def setCfg (s : State) (f d v : Nat) : State :=
  { s with host := { s.host with cfg := mapSet (cfgDef f d) (1024 * f + d) (BitVec.ofNat 32 v) s.host.cfg } }

/-- Bus Master Enable of function f: bit 2 of the Command register. -/
def busMaster (s : State) (f : Nat) : Bool := (cfgReg s f 1).testBit 2

/-- VF Enable, in the SR-IOV Control register of the PF (log entry 20 places the capability). -/
def vfEnable (s : State) : Bool := (cfgReg s 0 90).testBit 0

/-- MSI-X Enable and Function Mask of function f (log entry 20 places the capability). -/
def msixOn (s : State) (f : Nat) : Bool := (cfgReg s f 20).testBit 31 && !(cfgReg s f 20).testBit 30

/-- The function whose requester ID requests for partition n carry (R399). -/
def requester (s : State) (n : Nat) : Nat := if vfEnable s && busMaster s (n + 1) then n + 1 else 0

/-- Dword i of MSI-X table entry v of function f: address low and high, data, vector control; a vector is masked at
reset. -/
def msixDword (s : State) (f v i : Nat) : BitVec 32 := mapGet (if i = 3 then 1 else 0) (4 * (2048 * f + v) + i) s.host.msixTab

/-- Vector v of function f is not masked in the table. -/
def unmasked (s : State) (f v : Nat) : Bool := !(msixDword s f v 3).getLsbD 0

/-- The function numbered f. -/
def funcOf (f : Nat) : Func := ⟨f % 17, Nat.mod_lt f (by decide)⟩

/-- The function whose requester ID the requests of function f carry (R399). -/
def requesterOf (s : State) (f : Nat) : Nat := if f = 0 then 0 else requester s (f - 1)

/-- An MSI-X message of function f, vector v: its PBA bit set while it is masked, else sent (R404); a function without
Bus Master Enable sends nothing (R399). -/
def sendMsix (s : State) (f v : Nat) : State :=
  if !(msixOn s f && unmasked s f v) then { s with host := { s.host with pba := setAdd (2048 * f + v) s.host.pba } }
  else if !busMaster s (requesterOf s f) then s
  else emit s (.msix (requesterOf s f) f v ((msixDword s f v 1).toNat * 2 ^ 32 + (msixDword s f v 0).toNat) (msixDword s f v 2))

/-! ### Reads of host memory (R396, R399) -/

/-- Max_Read_Request_Size in bytes, as the host programs it. -/
def readMax (s : State) : Nat := 128 * 2 ^ min 5 (bits (cfgReg s 0 30) 14 12)

/-- How many reads function f may have outstanding: 768 with 10-bit tags enabled, else 256. -/
def readCap (s : State) (f : Nat) : Nat :=
  if (if f = 0 then (cfgReg s 0 38).testBit 12 else (cfgReg s 0 90).testBit 5) then 768 else 256

/-- The next request of read r is sent, within Max_Read_Request_Size, or waits while its function may send none. -/
def sendRead (s : State) (r : HostRd) : State :=
  let out := s.host.rds.filter fun x => x.f == r.f && x.ask != 0 && x.id != r.id
  let n := if out.length < readCap s r.f then min (r.len - r.got.length) (readMax s) else 0
  let s := { s with host := { s.host with rds := s.host.rds.map fun x => if x.id = r.id then { r with ask := n } else x } }
  if n = 0 then s else emit s (.hostRead r.f r.id (r.addr + r.got.length) n)

/-- A read of len bytes of host memory for a purpose, with the number that its completions name. -/
def hostReadAs (s : State) (f : Nat) (p : HostPurpose) (addr len : Nat) : State :=
  let r : HostRd := { id := s.mesh.nextId, purpose := p, addr := addr, len := len, f := f }
  sendRead { s with mesh := { s.mesh with nextId := r.id + 1 }, host := { s.host with rds := s.host.rds ++ [r] } } r

/-- The oldest read of function f that waits for a request is sent, now that another has ended. -/
def nextRead (s : State) (f : Nat) : State :=
  match s.host.rds.find? fun r => r.f == f && r.ask == 0 with | some r => sendRead s r | none => s

/-- The queue pair q of function f. -/
def queueOf (s : State) (f q : Nat) : QState := mapGet {} (64 * f + q) s.host.queues

/-- That pair replaced. -/
def setQueue (s : State) (f q : Nat) (v : QState) : State :=
  { s with host := { s.host with queues := mapSet {} (64 * f + q) v s.host.queues } }

/-- Byte i of a command, byte 0 in the top bits (R409). -/
def cmdByte (c : BitVec 512) (i : Nat) : Nat := c.toNat / 256 ^ (63 - i) % 256

/-- Bytes i to i + n - 1 of a command as a number, most significant first. -/
def cmdVal (c : BitVec 512) (i n : Nat) : Nat := c.toNat / 256 ^ (64 - i - n) % 256 ^ n

/-- The SQ head that a started command reports (R408). -/
def sqhdOf (s : State) (f q : Nat) (c : BitVec 512) : Nat :=
  match s.host.cmds.find? fun h => h.f == f && h.q == q && h.body == c with
  | some h => h.sqhd.toNat
  | none => (queueOf s f q).sqHead.toNat

/-- A command's completion entry. -/
def mkCompl (s : State) (f q : Nat) (c : BitVec 512) (status detail result : Nat) : Compl :=
  { f := f, q := q, cid := BitVec.ofNat 16 (cmdVal c 2 2), status := BitVec.ofNat 8 status,
    sqhd := BitVec.ofNat 16 (sqhdOf s f q c), detail := BitVec.ofNat 16 detail, result := BitVec.ofNat 64 result }

/-- The command that a completion answers leaves the list. -/
def dropCmd (s : State) (c : Compl) : State :=
  match s.host.cmds.find? fun h => h.f == c.f && h.q == c.q && cmdVal h.body 2 2 == c.cid.toNat && h.started with
  | some h => { s with host := { s.host with cmds := s.host.cmds.erase h } }
  | none => s

/-- The number under which the commands of queue q stand once it has been disabled: they go on, and their completions are
discarded (R406). -/
def deadQ (q : Nat) : Nat := 64 + q

/-- A completion entry waits for its CQ (R407), or is discarded with its command (R406). -/
def putCompl (s : State) (c : Compl) : State :=
  if 64 ≤ c.q then dropCmd s c else { s with host := { s.host with compls := s.host.compls ++ [c] } }

/-- The commands that the same function submitted earlier than FENCE w for the same partition have posted their completions: the
earlier ones of its own queue, and on its other queues those of earlier doorbells (R420). What such a queue still holds
unfetched may be one of them. -/
def fenceOver (s : State) (w : Nat × Nat × BitVec 512) : Bool :=
  let same (h : HostCmd) : Bool := h.f == w.1 && cmdByte h.body 4 == cmdByte w.2.2 4
  match s.host.cmds.find? fun h => h.f == w.1 && h.q == w.2.1 && h.body == w.2.2 with
  | none => true
  | some me =>
    ((s.host.cmds.filter fun h => same h && h.q == me.q).head? == some me)
      && !(s.host.cmds.any fun h => same h && h.q != me.q && decide (h.stamp < me.stamp))
      && !(s.host.queues.any fun e => e.1 / 64 == w.1 && e.1 % 64 != me.q && e.2.stamps.any fun n => decide (n < me.stamp))

/-- FENCE commands in mode ORDER that have nothing to wait for complete (R420). -/
def endFences (s : State) : State :=
  let done := s.host.fences.filter (fenceOver s)
  let s := { s with host := { s.host with fences := s.host.fences.filter fun w => !done.contains w } }
  done.foldl (fun s w => putCompl s (mkCompl s w.1 w.2.1 w.2.2 0 0 0)) s

/-- The same until none is left: the end of one whose queue is disabled may end another. -/
def endOrderFences (s : State) : State := iter (s.host.fences.length + 1) (fun _ s => endFences s) s

/-- A command's completion: an entry that waits for its CQ, or the end of a command of a disabled queue. -/
def postCompl (s : State) (c : Compl) : State :=
  if 64 ≤ c.q then endOrderFences (putCompl s c) else putCompl s c

/-- A command has completed. -/
def complete (s : State) (f q : Nat) (c : BitVec 512) (status detail result : Nat) : State :=
  postCompl s (mkCompl s f q c status detail result)

/-- The effect is held until partition n's commit (R380). -/
def hold (s : State) (n : Nat) (h : Held) : State := updEpoch s n fun e => { e with held := e.held ++ [h] }

/-- The bytes that a held effect takes in the outbound log of region g, whose initiator issued it (R380): its data. -/
def logBytes (g : Nat) (h : Held) : Nat :=
  let at_ (i : Initiator) (n : Nat) : Nat := match i with
    | .seq b => if b.toNat / 8 = g then n else 0
    | .dma b _ => if b.toNat / 8 = g then n else 0
    | _ => 0
  match h with
  | .hostWrite i _ _ data => at_ i data.length
  | .meshWrite r => at_ r.src ((r.len + 1) / 2)
  | _ => 0

/-- What the outbound log of region g holds, in bytes. -/
def logFill (s : State) (g : Nat) : Nat := s.epochs.foldl (fun a e => e.2.held.foldl (fun a h => a + logBytes g h) a) 0

/-- Shadows in use in region g (R379). -/
def shadowsUsed (s : State) (g : Nat) : Nat := s.epochs.foldl (fun a e => a + (e.2.shadowed.filter fun fr => fr / 262144 == g).length) 0

/-- The region at whose gateway a parked write waits: that of its DRAM address, or, for a write to be held, that of its
initiator (R379, R380). -/
def parkRegion (s : State) (q : MeshReq) : Nat :=
  if q.addr < 0x8000000000 ∧ q.part = partOfRegion s (q.addr / 0x800000000) then q.addr / 0x800000000
  else match q.src with
    | .seq b => b.toNat / 8
    | .dma b _ => b.toNat / 8
    | _ => q.addr / 0x800000000

/-- What GW_SHADOW of region g shows besides HFAIL: shadows in use, the log in MiB, stores parked. -/
def shadowReg (s : State) (g : Nat) : Nat :=
  shadowsUsed s g * 2 ^ 54 + logFill s g / 2 ^ 20 * 2 ^ 32
    + (s.mesh.flight.filter fun q => q.parked && parkRegion s q == g).length % 2 ^ 16 * 2 ^ 16

/-- A completion of a RUN of partition n is held (R409). -/
def completeHeld (s : State) (n f q : Nat) (c : BitVec 512) (status detail result : Nat) : State :=
  hold s n (.compl (mkCompl s f q c status detail result))

/-- Digits of the memories that partition n's regions own: DRAM of its regions below the reserve, and the windows of its
blocks. -/
def ownedBy (s : State) (n a : Nat) : Bool :=
  if a < 0x8000000000 then decide (a % 0x800000000 < 0x700000000) && partOfRegion s (a / 0x800000000) == some n
  else if 0x010000000000 ≤ a ∧ a < 0x010080000000 then partOf s ((a - 0x010000000000) / 0x1000000) == some n
  else false

/-- A write from outside the partition also reaches the committed copy, so that it survives a rollback (R381). -/
def throughSnap (s : State) (a : Nat) (ds : List Nat) : State :=
  { s with epochs := s.epochs.map fun e =>
      if ownedBy s e.1 a then
        (e.1, { e.2 with com := e.2.com.map fun c => { c with mem := memWrite c.mem a ds }
                         alt := e.2.alt.map fun c => { c with mem := memWrite c.mem a ds } })
      else e }

/-! ### The control store (R276-R282, R306) -/

/-- Word n of block b's control store as it was filled or written: a customer word, 0 when nothing was written, or the mask
ROM's or the patch RAM's. -/
def csFilled (s : State) (b n : Nat) : Nat :=
  if n < 8192 then (Config.romWord n).toNat
  else (mapGet (0 : BitVec 196) (16384 * (if n < 12288 then 128 else b) + n) s.cs).toNat % 2 ^ 192

/-- What upsets have flipped in word n of block b's vendor words. -/
def csFlipped (s : State) (b n : Nat) : Nat := (mapGet (0 : BitVec 196) (16384 * b + n) s.csFlip).toNat

/-- Word n of block b's control store as it stands. -/
def csWord (s : State) (b n : Nat) : Nat :=
  if n < 12288 ∧ mapHas (16384 * b + n) s.csFlip then Nat.xor (csFilled s b n) (csFlipped s b n % 2 ^ 192) else csFilled s b n

/-- Parity bits P3 to P0 of a microword (R277). -/
def csParity (w : Nat) : Nat :=
  (List.range 4).foldl (fun a n => a + (List.range 48).foldl (fun p j => p + bits w (48 * n + j) (48 * n + j)) 0 % 2 * 2 ^ n) 0

/-- Whether the stored parity of a word disagrees with its bits: a customer word's own, and of a vendor word what upsets have
flipped in it (R298). -/
def csBad (s : State) (b n : Nat) : Bool :=
  let v := (mapGet (0 : BitVec 196) (16384 * b + n) (if n < 12288 then s.csFlip else s.cs)).toNat
  v / 2 ^ 192 != csParity (v % 2 ^ 192)

/-- Whether key k of the control stores is a word of block b's customer store, and key k of the dispatch tables one of its
customer entries. -/
def csKey (b k : Nat) : Bool := decide (16384 * b + 12288 ≤ k) && decide (k < 16384 * (b + 1))
def dtKey (b k : Nat) : Bool := k / 16 == 16 * b + 14

/-- The fingerprint of block b's customer store and entries (R306); 0 while nothing was written. -/
def csFp (s : State) (b : Nat) : Nat :=
  let w := (mapOnly (csKey b) s.cs).map fun e => (e.1 % 16384, e.2)
  let d := (mapOnly (dtKey b) s.dt).map fun e => (e.1 % 256, e.2)
  if w.isEmpty && d.isEmpty then 0 else (Config.fingerprint w d).toNat

/-- Word n of block b written with its parity: first the shadow, then the store (R278). -/
def csSet (s : State) (b n w : Nat) : State :=
  let v := BitVec.ofNat 196 (csParity w * 2 ^ 192 + w % 2 ^ 192)
  let s := { s with csSh := mapSet 0 (16384 * b + n) v s.csSh, cs := mapSet 0 (16384 * b + n) v s.cs }
  setRg s (R.CS_FP b) (csFp s b)

/-- The opcodes whose instructions are resumable in every form (R221). -/
def resumable (op : Nat) : Bool :=
  [0xC0, 0xC1, 0xC2, 0xC3, 0x8B, 0x8C, 0x9A, 0x87, 0x95, 0xA2, 0xA3, 0xA7, 0xA8, 0xAD, 0xAE, 0xAF, 0xB3, 0xB4, 0xB5,
    0xB6, 0xB8, 0xB9].contains op

/-- The array opcodes that chapters 4 to 6 assign (R122, R168, R209). -/
def arrayOp (op : Nat) : Bool :=
  (decide (0x80 ≤ op) && decide (op ≤ 0x9A)) || (decide (0xA0 ≤ op) && decide (op ≤ 0xB9)) || (decide (0xC0 ≤ op) && decide (op ≤ 0xC3))

/-- A locked entry as it stands in the table: LOCKED reads 1, the reserved bits 0 (R4, R281). -/
def dtLocked (v : Nat) : Nat := v / 2 ^ 63 % 2 * 2 ^ 63 + 2 ^ 62 + bits v 61 57 * 2 ^ 57 + bits v 13 0

/-- The mask ROM's dispatch entry e: LOCKED, VALID for the opcodes that are assigned, RSM for those of R221, START in the
vendor words; CHKD, CHKS, CHKU and NOVL the spec does not list (R171, R276, R281). -/
def romDt (e : Nat) : Nat :=
  let v := (Config.romEntry e).toNat
  if 0x80 ≤ e ∧ e < 0xD0 then
    b2n (arrayOp e) * 2 ^ 63 + 2 ^ 62 + b2n (resumable e) * 2 ^ 61 + bits v 60 57 * 2 ^ 57 + bits v 12 0
  else dtLocked v

/-- Dispatch entry e of block b: a customer entry as written, another one as patched or as the mask ROM has it; it reads
LOCKED. -/
def dtEntry (s : State) (b e : Nat) : Nat :=
  if e / 16 = 14 then (mapGet 0 (256 * b + e) s.dt).toNat
  else if mapHas (256 * 128 + e) s.dt then dtLocked (mapGet 0 (256 * 128 + e) s.dt).toNat
  else romDt e

/-- A block of b's program whose dispatch entry e has bad parity (R298). -/
def badEntry (s : State) (b e : Nat) : Option Nat := (gang s b).find? fun c => s.dtBad.contains (256 * c + e)

/-- A dispatch entry of block b written: first in the shadow, then in the table (R278). -/
def dtSet (s : State) (b e v : Nat) : State :=
  let k := 256 * b + e
  let s := { s with dtSh := mapSet 0 k (BitVec.ofNat 64 v) s.dtSh, dt := mapSet 0 k (BitVec.ofNat 64 v) s.dt
                    dtBad := s.dtBad.filter fun x => x != k }
  setRg s (R.CS_FP b) (csFp s b)

/-- The control store and the dispatch table of block b filled from their verified copies (R276, R299). -/
def csFill (s : State) (b : Nat) : State :=
  let s := { s with cs := mapOver (csKey b) s.csSh s.cs, dt := mapOver (dtKey b) s.dtSh s.dt
                    csFlip := mapDrop (fun k => k / 16384 == b) s.csFlip, dtBad := s.dtBad.filter fun k => k / 256 != b }
  setRg s (R.CS_FP b) (csFp s b)

/-- The customer shadow of block b rewritten from its control store (R278). -/
def csKeep (s : State) (b : Nat) : State :=
  { s with csSh := mapOver (csKey b) s.cs s.csSh, dtSh := mapOver (dtKey b) s.dt s.dtSh }

/-- The stored parity of word n of block b. -/
def csStored (s : State) (b n : Nat) : Nat :=
  if n < 12288 then Nat.xor (csParity (csFilled s b n)) (csFlipped s b n / 2 ^ 192)
  else (mapGet (0 : BitVec 196) (16384 * b + n) s.cs).toNat / 2 ^ 192

/-- Quarter q of word n as a read returns it: 0 below 12,288, except to the security unit (R280). -/
def csQuarter (s : State) (b n q : Nat) (sec : Bool) : Nat :=
  if n < 12288 ∧ !sec then 0
  else if q = 3 then csStored s b n else bits (csWord s b n) (191 - 64 * q) (128 - 64 * q)

/-- A read of the control store sets RDPE on a parity mismatch (R280). -/
def csReadMark (s : State) (b n : Nat) (sec : Bool) : State :=
  if csBad s b n && (decide (12288 ≤ n) || sec) then setB s (R.MC_STATUS b) R.MC_STATUS_RDPE true else s

/-- An access to block b's control store gets its cycle (R20): a read returns its quarter, an entry is written, and the
staged quarters of a commit replace the matching bits of the stored word. -/
def csApply (s : State) (b : Nat) (p : CsPend) : State :=
  match p.rd with
  | some q =>
    emit (csReadMark s b p.n.toNat p.sec)
      (.regRead (0x400000 + bwin b + 64 * p.n.toNat + 16 * q.toNat) (BitVec.ofNat 64 (csQuarter s b p.n.toNat q.toNat p.sec)))
  | none =>
  if p.entry then dtSet s b (p.n.toNat % 256) (p.q0.getD 0).toNat
  else
    let o := csWord s b p.n.toNat
    let put (o : Nat) (lo : Nat) (q : Option Word) : Nat := match q with | some v => putBits o (lo + 63) lo v.toNat | none => o
    csSet s b p.n.toNat (put (put (put o 128 p.q0) 64 p.q1) 0 p.q2)

/-- Every access that waits for block b's control store, once no fetch takes its cycles. -/
def csFlush (s : State) (b : Nat) : State :=
  let ps := (seqOf s b).csWait
  if ps.isEmpty then s else ps.foldl (fun s p => csApply s b p) (updSeq s b fun q => { q with csWait := [] })

/-! ### Halts and stops (R507, R514) -/

/-- The array instruction that stands mid-execution in block b, with the progress it has reached, counted as STEP counts
it (R229, R230, R233). -/
def midArray (s : State) (b : Nat) : Option (BitVec 32 × Nat) :=
  let q := seqOf s (programOf s b)
  match q.micro, q.resume with
  | some m, _ => some (m.w, m.steps)
  | none, some r => some (r.w, r.step % 65536)
  | none, none => none

/-- Sequencer b is halted or stopped with a cause. A stop of a sequencer that is halted leaves the cause of the halt
to be read. -/
def haltSeq (s : State) (b cause : Nat) : State :=
  let a := R.DBG_STATUS b
  let stop := decide (4 ≤ cause) && decide (cause ≤ 6)
  let s := forEach (gang s b) (fun s c => csFlush s c) s
  let s := if stop && rgB s a R.DBG_STATUS_HALTED then s else setF s a R.DBG_STATUS_CAUSE cause
  if stop then
    let s := setB s a R.DBG_STATUS_STOPPED true
    if (midArray s b).isSome then setB s (R.ARR_SUSP b) R.ARR_SUSP_FROZEN true else s
  else setB s a R.DBG_STATUS_HALTED true

/-- Partition n is stopped through Girth: every block between microwords (R515). A block that is already halted stays
halted, and the partition is held as well. -/
def girthStop (s : State) (n cause : Nat) : State :=
  forEach (blocksOf s n) (fun s b => haltSeq s b cause)
    { s with dbg := { s.dbg with pstop := s.dbg.pstop ||| BitVec.twoPow 16 n } }

/-- A capture holds partition n stopped (R418). -/
def captured (s : State) (n : Nat) : Bool := s.dbg.pstop.getLsbD n && s.dbg.capStop.getLsbD n

/-- Partition n is held stopped no longer. -/
def unstop (s : State) (n : Nat) : State :=
  { s with dbg := { s.dbg with pstop := s.dbg.pstop &&& ~~~(BitVec.twoPow 16 n), capStop := s.dbg.capStop &&& ~~~(BitVec.twoPow 16 n) } }

/-- The stop of block b ends. -/
def girthFree (s : State) (b : Nat) : State :=
  let a := R.DBG_STATUS b
  if rgB s a R.DBG_STATUS_STOPPED then
    let s := setB s a R.DBG_STATUS_STOPPED false
    let s := setB s (R.ARR_SUSP b) R.ARR_SUSP_FROZEN false
    if rgB s a R.DBG_STATUS_HALTED then s else setF s a R.DBG_STATUS_CAUSE 0
  else s

/-- Whether sequencer b is halted or stopped. -/
def halted (s : State) (b : Nat) : Bool :=
  rgB s (R.DBG_STATUS b) R.DBG_STATUS_HALTED || rgB s (R.DBG_STATUS b) R.DBG_STATUS_STOPPED

/-- Sequencer b leaves its program and is halted out of it, CAUSE EXIT (R413, R507). -/
def leaveProgram (s : State) (b : Nat) : State :=
  let s := updSeq s b fun q => { q with inProg := false, inRun := false, waiting := false, stepping := false, exit := none }
  let s := setB s (R.DBG_STATUS b) R.DBG_STATUS_STOPPED false
  haltSeq s b 7

/-- The suspended instruction of block b is abandoned: ARR_SUSP.VALID and RUN clear and DISC sets (R232). -/
def abandonOp (s : State) (b : Nat) : State :=
  let a := R.ARR_SUSP b
  if rgB s a R.ARR_SUSP_VALID then
    let s0 := s
    let op := rgF s a R.ARR_SUSP_OP
    let st := rgF s a R.ARR_SUSP_STEP
    let s := setF (setF s a R.ARR_SUSP_DOP op) a R.ARR_SUSP_DSTEP st
    let s := setF (setF (setF s a R.ARR_SUSP_OP 0) a R.ARR_SUSP_STEP 0) a R.ARR_SUSP_CAUSE 0
    let s := setB (setB (setB (setB s a R.ARR_SUSP_VALID false) a R.ARR_SUSP_RUN false) a R.ARR_SUSP_FROZEN false) a
      R.ARR_SUSP_DISC true
    let s := updSeq s b fun q => { q with susp := none }
    bicRise s0 s b 10
  else s

/-- The runs of partition n end with a status; their RUN commands complete, held or at once (R413, R414). -/
def endRuns (s : State) (n status detail result : Nat) (held : Bool) : State :=
  let (mine, rest) := s.host.runs.partition fun r => r.part == n
  let s := { s with host := { s.host with runs := rest } }
  mine.foldl (fun s r => match r.cmd with
    | some (f, q, c) => if held then completeHeld s n f q c status detail result else complete s f q c status detail result
    | none => s) s

end Sys2Proof.Machine
end

