-- ==== Sys2Proof/Machine/Crypto.lean ====
section
/-! DEFINITION. The CRC-32 of R41 and the SHA3-384 of R46. -/

namespace Sys2Proof.Machine

/-- One bit of the reflected CRC-32. -/
def crcBit (c : BitVec 32) : BitVec 32 := if c.getLsbD 0 then (c >>> 1) ^^^ 0xEDB88320 else c >>> 1

/-- One byte of the CRC-32. -/
def crcByte (c : BitVec 32) (b : Byte) : BitVec 32 := iter 8 (fun _ c => crcBit c) (c ^^^ b.setWidth 32)

/-- CRC-32 of IEEE 802.3: polynomial 0x04C1_1DB7, input and output reflected, initial value and final XOR
0xFFFF_FFFF (R41). -/
def crc32 (bs : List Byte) : BitVec 32 := bs.foldl crcByte 0xFFFFFFFF ^^^ 0xFFFFFFFF

/-- Lane i of a Keccak state of 25 lanes, lane i standing at x = i mod 5, y = i / 5. -/
def lane (a : List (BitVec 64)) (i : Nat) : BitVec 64 := a.getD i 0

/-- The rotation of each lane under rho. -/
def rhoOffsets : List Nat :=
  [0, 1, 62, 28, 27, 36, 44, 6, 55, 20, 3, 10, 43, 25, 39, 41, 45, 15, 21, 8, 18, 2, 61, 56, 14]

/-- The round constants of iota. -/
def iotaConsts : List (BitVec 64) :=
  [0x0000000000000001, 0x0000000000008082, 0x800000000000808A, 0x8000000080008000, 0x000000000000808B,
   0x0000000080000001, 0x8000000080008081, 0x8000000000008009] ++
  [0x000000000000008A, 0x0000000000000088, 0x0000000080008009, 0x000000008000000A, 0x000000008000808B,
   0x800000000000008B, 0x8000000000008089, 0x8000000000008003] ++
  [0x8000000000008002, 0x8000000000000080, 0x000000000000800A, 0x800000008000000A, 0x8000000080008081,
   0x8000000000008080, 0x0000000080000001, 0x8000000080008008]

/-- One round of Keccak-f[1600]. -/
def keccakRound (a : List (BitVec 64)) (rc : BitVec 64) : List (BitVec 64) :=
  let c := (List.range 5).map fun x => lane a x ^^^ lane a (x + 5) ^^^ lane a (x + 10) ^^^ lane a (x + 15) ^^^ lane a (x + 20)
  let d := (List.range 5).map fun x => lane c ((x + 4) % 5) ^^^ (lane c ((x + 1) % 5)).rotateLeft 1
  let t := (List.range 25).map fun i => lane a i ^^^ lane d (i % 5)
  let b := (List.range 25).map fun j =>
    let y := j % 5
    let i := 5 * y + (3 * (j / 5) + y) % 5
    (t.getD i 0).rotateLeft (rhoOffsets.getD i 0)
  (List.range 25).map fun i =>
    let y := i / 5
    let x := i % 5
    let v := lane b i ^^^ (~~~ lane b (5 * y + (x + 1) % 5) &&& lane b (5 * y + (x + 2) % 5))
    if i = 0 then v ^^^ rc else v

/-- Keccak-f[1600]. -/
def keccakF (a : List (BitVec 64)) : List (BitVec 64) := iotaConsts.foldl keccakRound a

/-- A lane from its eight bytes, the first least significant. -/
def laneOf (bs : List Byte) : BitVec 64 := BitVec.ofNat 64 (bytesVal bs.reverse)

/-- The message padded to whole blocks of 104 bytes, the rate of SHA3-384. -/
def sha3Pad (m : List Byte) : List Byte :=
  let r := 104 - m.length % 104
  if r = 1 then m ++ [0x86] else m ++ [0x06] ++ List.replicate (r - 2) 0 ++ [0x80]

/-- SHA3-384 of a message: byte 0 of the digest in the top bits. -/
def sha3_384 (m : List Byte) : BitVec 384 :=
  let p := sha3Pad m
  let s := iter (p.length / 104) (fun k a =>
    let blk := (p.drop (104 * k)).take 104
    keccakF ((List.range 25).map fun i =>
      if i < 13 then lane a i ^^^ laneOf ((blk.drop (8 * i)).take 8) else lane a i)) (List.replicate 25 0)
  let out := (List.range 6).flatMap fun i => (bytesOf 8 (lane s i).toNat).reverse
  BitVec.ofNat 384 (bytesVal out)

/-- The bytes of a digest, byte 0 first. -/
def digestBytes (d : BitVec 384) : List Byte := bytesOf 48 d.toNat

/-- The bytes of an ASCII string. -/
def ascii (t : String) : List Byte := t.toList.map fun c => BitVec.ofNat 8 c.toNat

/-- The seeds of the identity keys: IDevID, and Alias, which follows from the running firmware (R494). -/
def idevidSeed (s : State) : List Byte := (digestBytes (sha3_384 (digestBytes s.sec.fuses.uds ++ ascii "IDEV"))).take 32
def aliasSeed (s : State) : List Byte :=
  (digestBytes (sha3_384 (digestBytes s.sec.fuses.uds ++ digestBytes s.sec.bfwDigest ++ ascii "ALIAS"))).take 32

/-- SHA3-384 of the device's IDevID public key, to which a cartridge binds (R498). -/
def idevidHash (s : State) : BitVec 384 := sha3_384 (Config.mldsaPublic (idevidSeed s))

/-- The first vendor key that is not revoked and under which a signature verifies (R481, R482). -/
def vendorSigner (s : State) (ctx msg sig : List Byte) : Option Nat :=
  (List.range 4).find? fun k => !s.sec.fuses.vkrev.getLsbD k && Config.mldsaVerify (Config.vendorKey k) ctx msg sig

/-- A signature of the owner of a locked device, or of a vendor while it is unlocked (R48, R490): a locked device whose
owner key is not used accepts none. -/
def ownerSigned (s : State) (ctx msg sig : List Byte) : Bool :=
  if rgB s R.SEC_STATE R.SEC_STATE_LOCKED then
    (match s.sec.ownerKey with | some k => Config.mldsaVerify k ctx msg sig | none => false)
  else (vendorSigner s ctx msg sig).isSome

end Sys2Proof.Machine
end

