-- ==== Sys2Proof/Machine/Conceal.lean ====
section
/-! DEFINITION. The epoch and concealment controller's operations: the committed copy of a partition, rollback,
replacement of failed elements, program faults and concealment loss (chapter 11). -/

namespace Sys2Proof.Machine

/-! ### Storage key bytes (R329) -/

/-- The key byte of chip frame F; unlisted frames hold the reset value 0x10. -/
def keyByte (s : State) (fr : Nat) : Nat := (mapGet (0x10 : Byte) fr s.keys).toNat

/-- The parity bit that gives a key byte an odd number of ones. -/
def keyParity (v : Nat) : Nat :=
  ((List.range 7).foldl (fun a i => a + bits v i i) 1) % 2

/-- The key byte of chip frame F set from LOCK, RDO, TCH and WR, with its parity. -/
def setKeyByte (s : State) (fr v : Nat) : State :=
  let v := v % 128
  { s with keys := mapSet (0x10 : Byte) fr (BitVec.ofNat 8 (v + 128 * keyParity v)) s.keys }

/-! ### Partition geometry (R101, R102, R105) -/

/-- Whether partition n extends over a cascade (R58). -/
def cascadePart (s : State) (n : Nat) : Bool :=
  decide (s.cfg.cascade.role ≠ 0) && s.cfg.cascade.cpid.toNat == n && defined s n

/-! ### Messages between the devices of a cascade (R427, R428, R433, R441) -/

/-- The port that a path from (x, y) to (tx, ty) takes, east and west first: 0 N, 1 E, 2 S, 3 W (R441); none when it has
arrived. -/
def portTo (x y tx ty : Nat) : Option Nat :=
  if x < tx then some 1 else if tx < x then some 3 else if y < ty then some 2 else if ty < y then some 0 else none

/-- Width and height of the cascade, and the position of a device index. -/
def casW (s : State) : Nat := s.cfg.cascade.w.toNat + 1
def casH (s : State) : Nat := s.cfg.cascade.h.toNat + 1
def posOf (s : State) (i : Nat) : Nat × Nat := (i % casW s, i / casW s)

/-- This device's index and the lead's (R425). -/
def myIdx (s : State) : Nat := rgF s R.REIN_ID R.REIN_ID_DEVIDX
def leadIdx (s : State) : Nat := rgF s R.REIN_ID R.REIN_ID_LEADIDX

/-- The number of ports from the lead to a device (R427). -/
def hopsOf (s : State) (i : Nat) : Nat :=
  let (x, y) := posOf s i
  let (lx, ly) := posOf s (leadIdx s)
  (max x lx - min x lx) + (max y ly - min y ly)

/-- Codes of REIN_STATUS.STATE (R446). -/
def portDetect : Nat := 1
def portTrain : Nat := 2
def portUp : Nat := 3
def portDegraded : Nat := 4
def portDown : Nat := 5
def portMismatch : Nat := 6

/-- REIN_STATUSp.STATE, and a port that carries traffic. -/
def portState (s : State) (p : Nat) : Nat := rgF s (R.REIN_STATUS p) R.REIN_STATUS_STATE
def portUsable (s : State) (p : Nat) : Bool := portState s p == portUp || portState s p == portDegraded

/-- A port's state and cause set. -/
def setPort (s : State) (p st cause : Nat) : State :=
  setF (setF s (R.REIN_STATUS p) R.REIN_STATUS_STATE st) (R.REIN_STATUS p) R.REIN_STATUS_CAUSE cause

/-- A frame of CTRL leaves through port p; one that is DOWN or in MISMATCH carries none (R428, R430). -/
def sendCtl (s : State) (p kind : Nat) (arg : Word) : State := if portUsable s p then emit s (.rein p kind arg) else s

/-- The port toward the lead: along the column to the lead's row first, the reverse of the path of R427; none at the lead. -/
def towardPort (s : State) : Option Nat :=
  let (x, y) := posOf s (myIdx s)
  let (lx, ly) := posOf s (leadIdx s)
  if y < ly then some 2 else if ly < y then some 0 else portTo x y lx ly

/-- A message toward the lead: along the column to the lead's row first, the reverse of the path of R427. -/
def toLead (s : State) (kind : Nat) (arg : Word) : State :=
  match towardPort s with
  | some p => sendCtl s p kind arg
  | none => s

/-- The ports through which a message from the lead goes on away from it: along the lead's row, then north and south. -/
def awayPorts (s : State) : List Nat :=
  let (x, y) := posOf s (myIdx s)
  let (lx, ly) := posOf s (leadIdx s)
  (if y = ly then
      (if lx ≤ x ∧ x + 1 < casW s then [1] else []) ++ (if x ≤ lx ∧ 0 < x then [3] else []) else [])
    ++ (if y ≤ ly ∧ 0 < y then [0] else []) ++ (if ly ≤ y ∧ y + 1 < casH s then [2] else [])

/-- A message from the lead goes on, hop by hop, to every device behind this one. -/
def fromLead (s : State) (kind : Nat) (arg : Word) : State := (awayPorts s).foldl (fun s p => sendCtl s p kind arg) s

/-- The other devices of the cascade (R425). -/
def otherDevices (s : State) : List Nat := (List.range (casW s * casH s)).filter fun i => i != myIdx s

/-- Kinds of CTRL messages (R428): the model's own numbers. -/
def ctlVerified : Nat := 1
def ctlRelease : Nat := 2
def ctlLoadAbort : Nat := 3
def ctlPrepare : Nat := 4
def ctlReady : Nat := 5
def ctlFail : Nat := 6
def ctlCommit : Nat := 7
def ctlAbort : Nat := 8
def ctlIdent : Nat := 9
def ctlForward : Nat := 10
def ctlTime : Nat := 11

/-! ### Geometry, continued -/

/-- Some position of partition n is held by a borrowed spare. -/
def borrows (s : State) (n : Nat) : Bool := (blocksOf s n).any fun b => holderCode s b / 16 == 1

/-- A LINK of partition n joins blocks of two regions. -/
def linkCrosses (s : State) (n : Nat) : Bool :=
  s.cfg.segs.any fun e =>
    let v := e.toNat
    bits v 47 44 == 4 && partOf s (bits v 63 57) == some n && bits v 63 57 / 8 != bits v 6 0 / 8

/-- The largest number of hops between the lead device and any device of a cascade of (w + 1) x (h + 1) (R112). -/
def cascadeHops (s : State) : Nat := rgF s R.REIN_ID R.REIN_ID_H

/-- The most device boundaries that an east-west path of the cascade partition passes, and a north-south one (R436): 1 between
neighbours, and the returns of WRAP and of a cascade chain. -/
def casHopsEW (s : State) (c : Partition) : Nat :=
  let w := s.cfg.cascade.w.toNat
  let h := s.cfg.cascade.h.toNat
  if c.ew == 2 && c.scope == 3 then w + (if c.close then h else min 1 h) else if c.ew == 1 then w else min 1 w
def casHopsNS (s : State) (c : Partition) : Nat :=
  if c.ns == 1 then s.cfg.cascade.h.toNat else min 1 s.cfg.cascade.h.toNat

/-- ORN_GEOM of a region of partition n with its latencies no lower than lo (R102, R105, R386). A latency that its field
cannot hold reads 255. -/
def geomOf (s : State) (n : Nat) (loEW loNS : Nat) : Nat :=
  let rs := regionsOf s n
  let wide := rs.any fun g => rs.any fun h => g % 4 != h % 4
  let tall := rs.any fun g => rs.any fun h => g / 4 != h / 4
  let c := partCfg s n
  let ca := cascadePart s n
  let ch := ca && decide (s.cfg.cascade.h ≠ 0)
  let chain := c.ew == 2 && decide (2 ≤ c.scope.toNat) && tall
  let ew := if ca && casHopsEW s c != 0 then min 255 (48 * casHopsEW s c)
    else if wide || borrows s n || linkCrosses s n || chain then 6 else 3
  let ns := if ch then 48 * casHopsNS s c else if tall || borrows s n then 6 else 3
  max ns loNS * 2 ^ 56 + max ew loEW * 2 ^ 48 + b2n ch * 2 ^ 47 + (if ca then cascadeHops s else 0) * 2 ^ 32 + 16 + n

/-- ORN_GEOM of every region of partition n recomputed; with keep, no latency falls (R386). TRETRY stays. -/
def regeom (s : State) (n : Nat) (keep : Bool) : State :=
  forEach (regionsOf s n) (fun s g =>
    let o := rg s (R.ORN_GEOM g)
    let lo (f : Fld) := if keep then bits o f.hi f.lo else 0
    setRg s (R.ORN_GEOM g) (geomOf s n (lo R.ORN_GEOM_LAT_EW) (lo R.ORN_GEOM_LAT_NS)
      + bits o 31 24 * 2 ^ 24)) s

/-! ### The committed copy (R378, R383) -/

/-- The offsets in a block window that are epoch state: control registers, register file, DCTL, DFLAG, RCTL, ARR_SUSP,
DBG_PC, DMA registers, BIC pending, mask and in-service bits. -/
def epochOff (o : Nat) : Bool :=
  (decide (0x700010 ≤ o) && decide (o < 0x700200)) || (decide (0x710000 ≤ o) && decide (o < 0x710E00))
    || (decide (0x720000 ≤ o) && decide (o < 0x720040)) || o == 0x700820
    || (decide (0x770000 ≤ o) && decide (o < 0x770140)) || o == 0x780000 || o == 0x780030 || o == 0x780060

/-- Whether the register at address a is epoch state of partition n. -/
def epochReg (s : State) (n a : Nat) : Bool :=
  inWin a && epochOff (winOff a) && partOf s (winBlk a) == some n

/-- The CIC sources that partition n owns, as pending bits. -/
def cicPendOf (s : State) (n : Nat) : List (Nat × Word) :=
  ((List.range 1024).filter fun i =>
    (rg s (R.CIC_PEND (i / 64))).testBit (i % 64) && cicOwner s i == some n).map fun i => (i, 1)

/-- The power states of partition n's domains (R378, R382). -/
def pwrOf (s : State) (n : Nat) : List (Nat × BitVec 3) :=
  ((blocksOf s n).map fun b => (b, BitVec.ofNat 3 (blockCur s b)))
    ++ ((regionsOf s n).map fun g => (128 + g, BitVec.ofNat 3 (domCur s (144 + g))))
    ++ (((blocksOf s n).filter fun b => memPhys s b != holder s b).filterMap fun b =>
        (memPhys s b).map fun p => (256 + b, BitVec.ofNat 3 (domCur s p)))

/-- The pages of partition n's block memories that have been written since its last boundary (R378). -/
def pageOf (s : State) (n k : Nat) : Bool := ownedBy s n (4096 * k)

/-- The state of partition n that a rollback restores, as it stands. -/
def takeSnap (s : State) (n : Nat) : Snap :=
  { cells := mapOnly (fun k => partOf s (k / 16384) == some n) s.cells
    mem := mapOnly (fun k => ownedBy s n (2 * k)) s.mem
    regs := mapOnly (epochReg s n) s.regs
    seqs := mapOnly (fun b => partOf s b == some n) s.seqs
    dma := mapOnly (fun k => partOf s (k / 2) == some n) s.dma
    runs := s.host.runs.filter fun r => r.part == n
    pwr := pwrOf s n
    parked := s.mesh.flight.filter fun r => r.parked && r.part == some n
    cicPend := cicPendOf s n }

/-- A sequencer's hidden state restored from the committed copy: what R383 excludes stays as it is. -/
def restoreSeq (o c : Seq) : Seq :=
  { c with repair := o.repair, stage := o.stage, csWait := o.csWait, spWb := o.spWb, tmWb := o.tmWb, corr := o.corr, corrCol := o.corrCol, fetched := none, buf := none,
           corrMix := o.corrMix, mig := o.mig, migCol := o.migCol, twinCol := o.twinCol, lost := o.lost, epochReq := false, epochStop := false }

/-- The restore step of a rollback of partition n (R384). The pages written since the boundary are read from the committed
slots, and what upsets had left in their words is gone. -/
def restoreSnap (s : State) (n : Nat) (c : Snap) : State :=
  let bs := blocksOf s n
  let back (i : Nat) : Bool := c.parked.any fun r => r.id == i
  let fl := (s.mesh.flight.filter fun r => !(r.part == some n && r.parked) && !back r.id).map fun r =>
    if r.part == some n then { r with dead := true } else r
  let rs := (s.mesh.resps.filter fun r => !back r.id).map fun r =>
    if r.req.part == some n then { r with req := { r.req with dead := true } } else r
  let pend := mapOnly (fun i => cicOwner s i == some n) c.cicPend
  let s1 : State :=
    { s with
      cells := mapOver (fun k => partOf s (k / 16384) == some n) c.cells s.cells
      mem := mapOver (fun k => ownedBy s n (2 * k)) c.mem s.mem
      flaws := mapDrop (fun w => ownedBy s n (16 * w) && s.pages.contains (16 * w / 4096)) s.flaws
      pages := s.pages.filter fun k => !pageOf s n k
      regs := mapOver (epochReg s n) c.regs s.regs
      dma := mapOver (fun k => partOf s (k / 2) == some n) c.dma s.dma
      mesh := { s.mesh with flight := fl ++ c.parked, resps := rs }
      host := { s.host with runs := (s.host.runs.filter fun r => r.part != n) ++ c.runs } }
  let s2 := forEach bs (fun s b => setSeq s b (restoreSeq (seqOf s b) (mapGet {} b c.seqs))) s1
  let s3 := forEach (List.range 1024) (fun s i =>
    if (rg s (R.CIC_PEND (i / 64))).testBit (i % 64) && cicOwner s i == some n then
      setF s (R.CIC_PEND (i / 64)) ⟨i % 64, i % 64⟩ 0 else s) s2
  let s4 := forEach pend (fun s e => cicSet s e.1) s3
  forEach (epochOf s n).shadowed (fun s fr => setKeyByte s fr (putBits (keyByte s fr) 6 6 0)) s4

/-- Partition n rolls back to its last commit: stop, discard, restore (R384); arg is 1 for a first strike and 2 for a
second, loc where it struck. A partition that an event of R390 has stopped stays stopped. -/
def rollback (s : State) (n arg src unit loc : Nat) : State :=
  if epState s n = 6 then s else
  let e := epochOf s n
  let wasH := e.wasHalted ||
    (blocksOf s n).any fun b => rgB s (R.DBG_STATUS b) R.DBG_STATUS_STOPPED || (halted s b && (seqOf s b).inProg)
  let s := match e.com with | some c => restoreSnap s n c | none => s
  let s := updEpoch s n fun e =>
    { e with held := [], alt := none, step := 0, shadowed := [], early := false, wasHalted := wasH, rolling := true,
             defer := e.defer || decide (e.step ≠ 0) }
  let s := setF s (R.EP_STAT n) R.EP_STAT_STATE 5
  let s := addSat s (R.EP_STAT n) R.EP_STAT_ROLLBK 1
  let s := addSat s R.CN_COUNT R.CN_COUNT_ROLLBACKS 1
  journal s 1 src n unit arg loc

/-- A watchdog's REMAIN at the release of a freeze: no less than GRACE (R517). -/
def wdReload (s : State) (b : Nat) : State :=
  if rgB s (R.WD_CFG b) R.WD_CFG_EN then
    let g := rgF s (R.WD_CFG b) R.WD_CFG_GRACE
    let g := if g = 0 then rgF s (R.WD_CFG b) R.WD_CFG_PERIOD / 16 else g
    setF s (R.WD_CNT b) R.WD_CNT_REMAIN (max (rgF s (R.WD_CNT b) R.WD_CNT_REMAIN) g)
  else s

/-- This device leads the cascade (R425). -/
def leadsCascade (s : State) : Bool := myIdx s == leadIdx s

/-- The number that stands for a forwarded request on CTRL. -/
def fwdCode : FwdReq → Nat
  | .interrupt b n => 0x1000 + b.toNat * 64 + n.toNat
  | .halt => 0x100
  | .epoch => 0x200
  | .girth n => 0x300 + n.toNat
  | .abandon => 0x400

/-- A request that reached a member for the cascade partition is forwarded to the lead. -/
def forwardReq (s : State) (n : Nat) (r : FwdReq) : State :=
  if cascadePart s n && decide (myIdx s ≠ leadIdx s) then toLead s ctlForward (BitVec.ofNat 64 (fwdCode r)) else s

/-- A member of a LOCKSTEP cascade partition n: what its sequencers do is the lead's decision (R433, R434). -/
def follows (s : State) (n : Nat) : Bool := cascadePart s n && lockstep s n && !leadsCascade s

/-- A frame of DISP goes from the lead, or from a member on its way, away from the lead (R433). -/
def sendDisp (s : State) (m : DispFrame) : State :=
  (awayPorts s).foldl (fun s p => if portUsable s p then emit s (.disp p m) else s) s

/-- A decision of the lead on partition n travels with the dispatch stream (R434). -/
def sendAct (s : State) (n : Nat) (a : DispAct) : State :=
  if cascadePart s n && lockstep s n && leadsCascade s then sendDisp s { act := a } else s

/-- Partition n is stopped through Girth, on every device of a LOCKSTEP cascade (R434, R515). -/
def stopPart (s : State) (n cause : Nat) : State := sendAct (girthStop s n cause) n (.stop (BitVec.ofNat 8 cause))

/-- The epoch that partition n's next commit makes. -/
def nextEpoch (s : State) (n : Nat) : Nat := (rgF s (R.EP_STAT n) R.EP_STAT_EPOCH + 1) % 2 ^ 32

/-- What FAIL or ABORT names, as its frame carries it. -/
def cascArg : CascMsg → Word
  | .epoch e => e.setWidth 64
  | .lost => BitVec.twoPow 64 63

/-- A message of R389 is sent: from the lead to every device, from a member, with its index, to the lead. -/
def sendEpochMsg (s : State) (m : Nat × Word) : State := if leadsCascade s then fromLead s m.1 m.2 else toLead s m.1 m.2

/-- A cascade epoch message is sent, and repeated until it is acknowledged (R389). -/
def epochMsg (s : State) (n kind : Nat) : State :=
  let m := (kind, BitVec.ofNat 64 (nextEpoch s n + if leadsCascade s then 0 else myIdx s * 2 ^ 32))
  sendEpochMsg { s with rein := { s.rein with unacked := some m } } m

/-- Step 1 of a boundary: the epoch request is raised at every sequencer of the partition (R377). The lead device of a
cascade partition sends PREPARE (R389). -/
def startBoundary (s : State) (n : Nat) : State :=
  let s := updEpoch s n fun e => { e with step := 1, defer := false, early := false, prep := now s }
  let s := setF s (R.EP_STAT n) R.EP_STAT_STATE 2
  let s := forEach (blocksOf s n) (fun s b => updSeq s b fun q => { q with epochReq := true }) s
  if cascadePart s n && leadsCascade s then
    epochMsg { s with rein := { s.rein with ready := [] } } n ctlPrepare else s

/-- A boundary of partition n cannot start now: a rollback, a checkpoint save or a Girth stop is under way (R376, R503,
R511). -/
def boundaryWaits (s : State) (n : Nat) : Bool :=
  (epochOf s n).rolling || (match s.sb.op with | some o => o.part == n && !o.restore | none => false)
    || (blocksOf s n).any (fun b => rgB s (R.DBG_STATUS b) R.DBG_STATUS_STOPPED)

/-- A boundary of partition n is requested. A request while one is in progress is absorbed; one during a rollback or a
stop waits for its end (R376, R511). A member of a cascade follows its lead's schedule (R389). -/
def requestBoundary (s : State) (n : Nat) : State :=
  if !defined s n || epState s n == 6 || epState s n == 0 || (cascadePart s n && !leadsCascade s) then s
  else if (epochOf s n).step ≠ 0 then s
  else if boundaryWaits s n then updEpoch s n fun e => { e with defer := true }
  else startBoundary s n

/-- A boundary of partition n requested by EP_CTRL.BREQ, by EPOCH or by the end of a run with EPX: the schedule
continues from it; one requested while another is in progress is absorbed; a member of a cascade forwards it to its
lead (R376, R413, R434). -/
def askBoundary (s : State) (n : Nat) : State :=
  if (epochOf s n).step ≠ 0 || !defined s n then s
  else if cascadePart s n && !leadsCascade s then forwardReq s n .epoch
  else
    let s := updEpoch s n fun e => { e with next := now s + (partCfg s n).epochMs * 100000 }
    requestBoundary s n

/-- An early boundary of partition n (R379, R380), counted in EARLY, unless one has been requested already. -/
def earlyBoundary (s : State) (n : Nat) : State :=
  if (epochOf s n).step ≠ 0 || (epochOf s n).early || !defined s n then s else
  askBoundary (updEpoch (addSat s (R.EP_STAT n) R.EP_STAT_EARLY 1) n fun e => { e with early := true }) n

/-! ### A load that is under way (R73, R74, R78, R79) -/

/-- PHASE of the image engine (R70). -/
def phase (s : State) : Nat := rgF s R.IMG_STATUS R.IMG_STATUS_PHASE

/-- Region g is under load (R79). -/
def underLoad (s : State) (g : Nat) : Bool := match s.img with | some L => L.affected.getLsbD g | none => false

/-- Partition n is one that a load under FORCE replaces: what Girth has stopped of it stays stopped (R73). -/
def forced (s : State) (n : Nat) : Bool :=
  rgB s R.IMG_STATUS R.IMG_STATUS_FORCED && match s.img with | some L => L.replaced.contains n | none => false

/-- The Sluice state of domain j of region g (R373). -/
def stFld (j : Nat) : Fld := ⟨3 * j + 2, 3 * j⟩
def sluiceSt (s : State) (g j : Nat) : Nat := rgF s (R.GW_SLUICE g) (stFld j)
def setSluice (s : State) (g j v : Nat) : State := setF s (R.GW_SLUICE g) (stFld j) v

/-- The Sluice domain of power domain d, for a block or a gateway (R473). -/
def sluiceOf (d : Nat) : Option (Nat × Nat) :=
  if d < 144 then some (d / 9, d % 9) else if d < 160 then some (d - 144, 9) else none

/-- The block and gateway domains that a load affects (R74, R78): those of its regions, with the spares that its positions
have borrowed, without a spare that is lent to a partition that keeps running. -/
def loadDoms (s : State) (L : ImgLoad) : List (Nat × Nat) :=
  let aff (g : Nat) : Bool := L.affected.getLsbD g
  let lentOut (g : Nat) : Bool := match blockOfPhys s (9 * g + 8) with | some b => !aff (b / 8) | none => false
  ((List.range 16).filter aff).flatMap (fun g => ((List.range 10).filter fun j => j != 8 || !lentOut g).map fun j => (g, j))
    ++ ((List.range 16).filter fun h => !aff h && match blockOfPhys s (9 * h + 8) with
        | some b => aff (b / 8) | none => false).map fun h => (h, 8)

/-- Every partition that the load replaces has committed its open epoch, or is stopped for good (R74). -/
def committedAll (s : State) (L : ImgLoad) : Bool :=
  L.replaced.all fun n => epState s n == 6 || ((epochOf s n).step == 0 && !(epochOf s n).rolling && !(epochOf s n).defer)

/-- The fences of the affected block and gateway domains are requested once the open epochs have committed, and again where
one has lifted since (R74). -/
def raiseFences (s : State) : State :=
  match s.img with
  | none => s
  | some L =>
    if phase s ≠ 2 ∨ !committedAll s L then s else
    (loadDoms s L).foldl (fun s d => if sluiceSt s d.1 d.2 = 0 then setSluice s d.1 d.2 1 else s) s

/-! ### The end of a rollback, of a stop, of a partition (R384, R390, R391, R511, R515) -/

/-- The resume step of a rollback (R384): the watchdogs reload, the rollback marker is traced, a partition that was
halted or stopped stays halted with CAUSE REQUEST and RBK (R511), and a boundary that waited is taken (R376). What a forced
load has stopped stays stopped (R73). It waits while a replacement does (R79). -/
def resumeRollback (s : State) (n : Nat) : State :=
  let e := epochOf s n
  if !e.rolling || !e.wait.isEmpty then s else
  let keep := forced s n
  let s := forEach (blocksOf s n) (fun s b =>
    let s := wdReload s b
    let s := if keep then s else girthFree s b
    if e.wasHalted then
      let s := haltSeq s b 1
      setB s (R.DBG_STATUS b) R.DBG_STATUS_RBK true
    else if (seqOf s b).inProg then
      let s := setB s (R.DBG_STATUS b) R.DBG_STATUS_HALTED false
      if rgB s (R.DBG_STATUS b) R.DBG_STATUS_STOPPED then s else setF s (R.DBG_STATUS b) R.DBG_STATUS_CAUSE 0
    else haltSeq s b 7) s
  let s : State := if keep then s else unstop s n
  let s := tracePut s (now s % 2 ^ 48 * 2 ^ 80 + 2 * 2 ^ 78 + rgF s (R.EP_STAT n) R.EP_STAT_EPOCH * 2 ^ 32 + n)
  let s := setF s (R.EP_STAT n) R.EP_STAT_STATE 1
  let d := e.defer
  let s := updEpoch s n fun e => { e with rolling := false, wasHalted := false, defer := d && cascadePart s n && !leadsCascade s }
  raiseFences (if !d then s
    else if keep && !(cascadePart s n && !leadsCascade s) then startBoundary s n else requestBoundary s n)

/-- A watchdog is reloaded when the release ends its freeze (R517). -/
def wdRelease (s0 s : State) (b : Nat) : State :=
  let large := match partOf s0 b with | some n => decide (5 ≤ (regionsOf s0 n).length) | none => false
  let was := halted s0 b && (s0.dbg.chipStop || rgB s0 (R.DBG_CTRL b) R.DBG_CTRL_FZWD || large)
  if was && !halted s b then wdReload s b else s

/-- The stop of partition n ends, unless the whole chip is stopped: its blocks go on, and a boundary that waited is
taken (R511, R515). What a forced load has stopped stays stopped (R73). -/
def freePart (s : State) (n : Nat) : State :=
  if forced s n then s else
  let s0 : State := unstop s n
  if s.dbg.chipStop || epState s n = 6 then s0 else
  let s0 := sendAct s0 n .free
  let s1 := forEach (blocksOf s0 n) (fun t b => wdRelease s0 (girthFree t b) b) s0
  if (epochOf s1 n).defer && !(epochOf s1 n).rolling then requestBoundary s1 n else s1

/-! ### Outside concealment (R390, R391) -/

/-- A device that is PREPARED keeps its held effects and does not commit when it has lost its path to the lead (R389). -/
def keepsHeld (s : State) (n : Nat) : Bool := cascadePart s n && !leadsCascade s && s.rein.prepared.isSome && (epochOf s n).step == 4

/-- An event of R390 strikes partition n: it stops for good, nothing of the open epoch reaches the host, LOST is set,
and its RUN and EPOCH commands complete with CONCEALMENT_LOST. -/
def concealmentLost (s : State) (n src unit loc : Nat) : State :=
  if epState s n = 6 then s else
  let s0 := s
  let keep := keepsHeld s n
  let s := stopPart s n 4
  let ws := (epochOf s n).waiters
  let hs := if keep then [] else (epochOf s n).held
  let s := updEpoch s n fun e =>
    { e with held := if keep then e.held else [], alt := if keep then e.alt else none, step := if keep then e.step else 0
             rolling := false, defer := false, early := false, waiters := [], wait := [], preq := [] }
  let fl := s.mesh.flight.map fun r => if r.part == some n then { r with dead := true } else r
  let s := { s with mesh := { s.mesh with flight := fl } }
  let s := setF s (R.EP_STAT n) R.EP_STAT_STATE 6
  let s := setB s (R.EP_STAT n) R.EP_STAT_LOST true
  let s := cicRise s0 s (16 + n)
  let s := addSat s R.CN_COUNT R.CN_COUNT_OUTSIDE 1
  let s := journal s 0x0B src n unit 0 loc
  let s := endRuns s n 0x0B 0 0 false
  let s := hs.foldl (fun s h => match h with
    | .compl c => postCompl s { c with status := 0x0B, detail := 0, result := 0 }
    | _ => s) s
  raiseFences (ws.foldl (fun s w => complete s w.1 w.2.1 w.2.2 0x0B 0 (rgF s (R.EP_STAT n) R.EP_STAT_EPOCH * 2 ^ 32)) s)

/-- A program fault of block b (R300): a machine check with its alarm and its Girth source (R515, R526); the partition's
sequencers are halted through Girth, the event is journaled as MCHECK, and the RUN command completes with MCODE_FAULT. It is
no strike: the controller has nothing to do for it. -/
def programFault (s : State) (b cause word : Nat) : State :=
  let a := R.MC_STATUS b
  let s := setF (setF s a R.MC_STATUS_MCAUSE cause) a R.MC_STATUS_MCADDR word
  let s := setB s a R.MC_STATUS_MCV true
  let u := (holder s b).getD 0
  let src := if cause = 6 then 2 else 3
  let s := match unitRegion u with | some g => gwAlarm s g src u | none => s
  let s := emit (girthRaise s 4 (partOf s b)) (.alarm 1 src u ((partOf s b).getD 0) 0 (now s) (now s) 0)
  match partOf s b with
  | none => s
  | some n =>
    let s := stopPart s n 4
    let s := journal s 0x0C src n u cause word
    endRuns s n 0x0A b 0 true

/-- A concealed fault of block b's control store (R298, R299): MC_STATUS records it and a machine check is raised. Its place is
the word, with 0x10000 for a dispatch entry and 0x20000 for an illegal microword, so that the controller tells a word, an entry
and a block that executes illegal microwords apart (R375; log entry 82). -/
def storeFault (s : State) (b cause word : Nat) : State :=
  let a := R.MC_STATUS b
  let s := setF (setF s a R.MC_STATUS_MCAUSE cause) a R.MC_STATUS_MCADDR word
  let s := setB s a R.MC_STATUS_MCV true
  blockCheck s b 3 (0x10000 * (cause - 1) + word)

/-! ### Replacement (R118, R375, R386, R387) -/

/-- Field SPn of ARR_COLMAP. -/
def spFld (n : Nat) : Fld := ⟨12 * n + 11, 12 * n⟩

/-- The state of spare column n of block b: 0 FREE, 1 USED, 2 TWIN, 3 DEAD. -/
def spState (s : State) (b n : Nat) : Nat := rgF s (R.ARR_COLMAP b) (spFld n) / 1024

/-- Twin checking follows from the spares (R119): the highest-numbered FREE spare becomes the twin while none is; with
none left TWINSTOP sets, with its CIC source and warning 0x02. -/
def pickTwin (s : State) (b : Nat) : State :=
  let s0 := s
  if (List.range 4).any (fun n => spState s b n == 2) then s
  else match (List.range 4).reverse.find? fun n => spState s b n == 0 with
    | some n => setF s (R.ARR_COLMAP b) (spFld n) (2 * 1024 + (seqOf s b).twinCol.toNat)
    | none =>
      if rgB s (R.ARR_COLMAP b) R.ARR_COLMAP_TWINSTOP then s else
      let s := setB s (R.ARR_COLMAP b) R.ARR_COLMAP_TWINSTOP true
      let s := warnOp s 2 ((holder s b).getD 0) ((partOf s b).getD 0) true
      cicRise s0 s (64 + b)

/-- The spare that stands in for column c of block b, which fails with it, is DEAD (R120). -/
def killSpare (s : State) (b c : Nat) : State :=
  match (List.range 4).find? fun n => rgF s (R.ARR_COLMAP b) (spFld n) == 1024 + c with
  | some n => setF s (R.ARR_COLMAP b) (spFld n) (3 * 1024 + c)
  | none => s

/-- Column c of block b, a visible one or a check column, moves to the lowest spare that is FREE or TWIN (R118): COL_SPARE is
journaled; none when no spare is left. -/
def spareColumn (s : State) (b c src : Nat) : Option State :=
  let s := killSpare s b c
  match (List.range 4).find? fun n => spState s b n % 2 == 0 with
  | none => none
  | some n =>
    let s := setF s (R.ARR_COLMAP b) (spFld n) (1024 + c)
    let s := addSat s R.CN_COUNT R.CN_COUNT_COLSPARES 1
    let s := journal s 3 src ((partOf s b).getD 0) ((holder s b).getD 0) (n * 256 + c) c
    some (pickTwin s b)

/-- TWINSTOP of block b as its spares stand: it reads 1 while none is FREE or the twin (R119). -/
def showTwinStop (s : State) (b : Nat) : State :=
  setB s (R.ARR_COLMAP b) R.ARR_COLMAP_TWINSTOP ((List.range 4).all fun n => spState s b n % 2 == 1)

/-- The column that a column map names for its twin, 0 while it has none (R119, R120). -/
def twinOf (v : Nat) : Nat :=
  match (List.range 4).find? fun n => v / 2 ^ (12 * n + 10) % 4 == 2 with
  | some n => v / 2 ^ (12 * n) % 256
  | none => 0

/-- A column map comes to block b, with its twin's column (R119). -/
def takeMap (s : State) (b v : Nat) : State :=
  updSeq (setRg s (R.ARR_COLMAP b) v) b fun x => { x with twinCol := BitVec.ofNat 7 (twinOf v) }

/-- The physical block whose store logical block b has: none while the position is HELD (R38). -/
def ownPhys (s : State) (b : Nat) : Option Nat := memPhys s b

/-- Position b passes from physical block p to q: its column map is that of q's spares, and p keeps its own (R118, R120). What
q held of its own is overwritten by what is restored into it, and what upsets had left in p stays there. -/
def moveHolder (s : State) (b p q : Nat) : State :=
  if p = q then s else
  let s0 := s
  let was := rg s (R.ARR_COLMAP (idleBlk q))
  let s := setRg s (R.ARR_COLMAP (idleBlk p)) (rg s (R.ARR_COLMAP b))
  let mine (k : Nat) : Bool := k / 16384 == idleBlk q
  let inWin (a : Nat) : Bool := decide (bwin (idleBlk q) ≤ a) && decide (a < bwin (idleBlk q) + 0x1000000)
  let s := { s with
    cells := mapDrop mine s.cells, mem := mapDrop (fun k => inWin (2 * k)) s.mem
    flaws := mapDrop (fun w => inWin (16 * w) || (decide (bwin b ≤ 16 * w) && decide (16 * w < bwin b + 0x1000000))) s.flaws
    regs := mapDrop inWin s.regs }
  cicRise s0 (showTwinStop (takeMap s b was) b) (64 + b)

/-- The failing twin of block b becomes DEAD (R375). -/
def killTwin (s : State) (b : Nat) : State :=
  match (List.range 4).find? fun n => spState s b n == 2 with
  | some n => pickTwin (setF s (R.ARR_COLMAP b) (spFld n) (3 * 1024 + rgF s (R.ARR_COLMAP b) (spFld n) % 256)) b
  | none => s

/-- What SEQ_ID.HOLDER shows of block b follows its holder (R274). -/
def showHolder (s : State) (b : Nat) : State :=
  setF s (R.SEQ_ID b) R.SEQ_ID_HOLDER ((holder s b).getD 0)

/-- What the holder codes of region g show in SEQ_ID, in every block that stands on them. -/
def showHolders (s : State) (g : Nat) : State := forEach (List.range 8) (fun s k => showHolder s (8 * g + k)) s

/-- SEQ_ID of block b as APPLY writes it (R274). -/
def showSeqId (s : State) (b : Nat) : State :=
  let n := partOf s b
  let indep := match n with | some n => !lockstep s n | none => false
  let lead := match n with | some n => if indep then b else leadOf s n | none => b
  let a := R.SEQ_ID b
  setF (setF (setB (setF (showHolder s b) a R.SEQ_ID_LEAD lead) a R.SEQ_ID_MODE indep) a R.SEQ_ID_PID (n.getD 0)) a
    R.SEQ_ID_LBLK b

/-- The power state of domain d set, requested and current. -/
def setDom (s : State) (d v : Nat) : State :=
  setF (setF s (R.PC_DOM d) R.PC_DOM_CUR v) (R.PC_DOM d) R.PC_DOM_REQ v

/-- The region of g's neighbours, in the order N, E, S, W, whose spare can be lent to g (R386): its direction and
number. -/
def lender (s : State) (g : Nat) : Option (Nat × Nat) :=
  (List.range 4).findSome? fun d => match neighbour g d with
    | some h =>
      let c := mapGet ({} : RegionCfg) h s.cfg.regions
      if rgF s (R.BSW_MAP h) R.BSW_MAP_SPARE_ST == 0 && !(rgF s (R.BSW_MAP h) R.BSW_MAP_DEAD).testBit 8
          && !c.nolend && !underLoad s h
          && rgF s (R.PC_RGN h) R.PC_RGN_ADIV == rgF s (R.PC_RGN g) R.PC_RGN_ADIV then some (d, h) else none
    | none => none

/-- The lowest LOCAL position of region g, other than k, that hosts no fold (R386). -/
def foldHost (s : State) (g k : Nat) : Option Nat :=
  (List.range 8).find? fun k2 =>
    k2 != k && rgF s (R.BSW_MAP g) (posFld k2) / 16 == 0 && !((List.range 8).any fun k3 =>
      rgF s (R.BSW_MAP g) (posFld k3) / 16 == 2 && rgF s (R.BSW_MAP g) (posFld k3) % 8 == k2)

/-- The new holder code of position k of region g, with its effects on the spares: local spare, borrow, fold, as
SPARE_POL allows (R375, R386); none when nothing can take the position, or while the region is under load, when BSW_MAP is
not written (R79). mig: migration never folds (R388). -/
def newHolder (s : State) (g k : Nat) (answers mig : Bool) : Option (Nat × State) :=
  let pol := (mapGet ({} : RegionCfg) g s.cfg.regions).pol.toNat
  if underLoad s g then none
  else if rgF s (R.BSW_MAP g) R.BSW_MAP_SPARE_ST = 0 ∧ !(rgF s (R.BSW_MAP g) R.BSW_MAP_DEAD).testBit 8 then
    let s := setF s (R.BSW_MAP g) R.BSW_MAP_SPARE_ST 1
    some (8, addSat s R.CN_COUNT R.CN_COUNT_BLKSPARES 1)
  else match (if pol ≤ 1 then lender s g else none) with
    | some (d, h) =>
      let s := setF s (R.BSW_MAP h) R.BSW_MAP_SPARE_ST 2
      let s := setF s (R.BSW_MAP h) R.BSW_MAP_LEND_DIR ((d + 2) % 4)
      some (16 + d, addSat s R.CN_COUNT R.CN_COUNT_BORROWS 1)
    | none =>
      if pol = 0 && answers && !mig then
        (foldHost s g k).map fun k2 => (32 + k2, addSat s R.CN_COUNT R.CN_COUNT_FOLDS 1)
      else none

/-- Physical block p is dead in the journal's spare map (R67, R394). -/
def markDead (s : State) (p : Nat) : State :=
  { s with jdead := mapSet 0 (p / 9) (mapGet 0 (p / 9) s.jdead ||| BitVec.twoPow 9 (p % 9)) s.jdead }

/-- Physical block p has failed and nothing takes its place now: the journal holds it dead, and the next sparing computation
takes that into account (R67, R79, R375). -/
def deadBlock (s : State) (p src : Nat) : State :=
  markDead (journal s 4 src (((blockOfPhys s p).bind (partOf s)).getD 0) p 0 0) p

/-- Logical block b moves off its failed holder (R375, R386): BSW_MAP, DEAD, RT_ISO, SEQ_ID, ORN_GEOM and the journal
follow. None when no holder can take it. BSW_MAP of a region under load, which has lent the failed spare, is not written: the
journal tells the sparing of its APPLY (R79). A folded position's memories stay in the failed block's domain (R387). -/
def replaceBlock (s : State) (b src : Nat) (answers : Bool) : Option State :=
  let g := b / 8
  let k := b % 8
  let n := (partOf s b).getD 0
  match holder s b with
  | none => none
  | some p =>
    let cur := domCur s p
    match newHolder s g k answers false with
    | none => none
    | some (code, s) =>
      let hg := p / 9
      let s := if underLoad s hg then s else
        let s := setF s (R.BSW_MAP hg) ⟨48 + p % 9, 48 + p % 9⟩ 1
        if p % 9 = 8 then setF s (R.BSW_MAP hg) R.BSW_MAP_SPARE_ST 3 else s
      let s := setF s (R.BSW_MAP g) (posFld k) code
      let s := setF s (R.RT_ISO hg) ⟨1 + p % 9, 1 + p % 9⟩ 1
      let s := if code / 16 = 2 then { s with foldHome := mapSet (9 * g + k) b p s.foldHome }
        else match holder s b with
        | some q => moveHolder (setDom s q cur) b p q
        | none => s
      let s := regeom (showHolders s g) n true
      let s := markDead (journal s 4 src n p 0 0) p
      if code / 16 = 1 then some (journal s 5 src n p code 0)
      else if code / 16 = 2 then some (journal s 6 src n p code 0)
      else some s

/-- A failed block of region g may find a holder when the load of a neighbour has ended (R79). -/
def replaceLater (s : State) (g : Nat) : Bool :=
  !underLoad s g && decide ((mapGet ({} : RegionCfg) g s.cfg.regions).pol.toNat ≤ 1)
    && (List.range 4).any fun d => match neighbour g d with | some h => underLoad s h | none => false

/-- The load has ended: the replacements that waited for it are made; a block that still finds no holder is outside
concealment (R79, R390). -/
def endWaits (s : State) : State :=
  forEach (List.range 16) (fun s n =>
    let ws := (epochOf s n).wait
    if ws.isEmpty then s else
    ws.foldl (fun s w =>
      if epState s n = 6 then s else
      match replaceBlock s w.1 w.2.1.toNat w.2.2 with
      | some t => t
      | none => concealmentLost s n w.2.1.toNat ((holder s w.1).getD 0) 0) (updEpoch s n fun e => { e with wait := [] })) s

/-- The control store and dispatch table of block b are reloaded from their verified copies (R299). -/
def reloadStore (s : State) (b src : Nat) : State :=
  let s := csFill s b
  let s := addSat s (R.SEQ_MCODE_VERSION b) R.SEQ_MCODE_VERSION_RELOADS 1
  journal s 9 src ((partOf s b).getD 0) ((holder s b).getD 0) 0 0

/-! ### Checked words of block memories (R322, R325, R326) -/

/-- The local digit offset of a word of block b's memories, by its digit address / 16. -/
def wordOff (b key : Nat) : Nat := 16 * key - bwin b

/-- A correction in block b counts for its epoch, with the column in which it lies, if it lies in one (R388). -/
def noteCorr (q : Seq) (col : Option (Fin 144)) : Seq :=
  { q with corr := q.corr + 1, corrCol := if q.corr = 0 then col else q.corrCol
           corrMix := q.corrMix || col.isNone || (q.corr != 0 && q.corrCol != col) }

/-- The check stage reads a word of block b's memories: a wrong bit is corrected and waits for the write-back, two raise a
machine check (R322, R325). Whether the data can be delivered. -/
def wordCheck (s : State) (b key : Nat) : State × Bool :=
  if !mapHas key s.flaws then (s, true) else
  let turn := decide (0x100000 ≤ wordOff b key)
  if mapGet false key s.flaws then
    (blockCheck (setB s (R.MEM_ECC b) (if turn then R.MEM_ECC_TMUE else R.MEM_ECC_SPUE) true) b 5 (wordOff b key), false)
  else
    let s := addSat s (R.MEM_ECC b) (if turn then R.MEM_ECC_TMCE else R.MEM_ECC_SPCE) 1
    let s := warnCorrected s ((holder s b).getD 0) ((partOf s b).getD 0)
    (updSeq s b fun q =>
      let q := noteCorr q none
      if turn then { q with tmWb := setAdd key q.tmWb } else { q with spWb := setAdd key q.spWb },
     true)

/-- Every word that n digits from digit address a touch is checked. -/
def memCheck (s : State) (b a n : Nat) : State × Bool :=
  if s.flaws.isEmpty || n == 0 then (s, true) else
  (List.range ((a + n - 1) / 16 + 1 - a / 16)).foldl (fun (p : State × Bool) i =>
    let r := wordCheck p.1 b (a / 16 + i)
    (r.1, p.2 && r.2)) (s, true)

/-- The same for a store: it reads the words that it covers in part. -/
def mergeCheck (s : State) (b a n : Nat) : State × Bool :=
  let (s, ok) := if a % 16 = 0 ∧ 16 ≤ n then (s, true) else memCheck s b a 1
  if (a + n) % 16 = 0 ∨ a / 16 = (a + n - 1) / 16 then (s, ok)
  else
    let (s, ok') := memCheck s b (a + n - 1) 1
    (s, ok && ok')

end Sys2Proof.Machine
end

