-- ==== Sys2Proof/Machine/Cells.lean ====
section
/-! DEFINITION. Access to the cells of a block (R12, R84, R95): one cell, every listed cell, every cell. -/

namespace Sys2Proof.Machine

/-- Key of the cell of block b at row r, column c of the block. -/
def cellKey (b r c : Nat) : Nat := 16384 * b + 128 * r + c

/-- The cell of block b at index i = 128 r + c. -/
def cellAt (s : State) (b i : Nat) : Cell := mapGet {} (16384 * b + i) s.cells

/-- Plane p of a cell. -/
def Cell.plane (c : Cell) (p : Nat) : Bool := c.planes.getLsbD (p % 2048)

/-- A cell with plane p set to v. -/
def Cell.setPlane (c : Cell) (p : Nat) (v : Bool) : Cell :=
  let q := p % 2048
  if c.planes.getLsbD q == v then c
  else { c with planes := c.planes ^^^ (BitVec.twoPow 2048 q) }

/-- The n planes from p upward, plane p the least significant bit; planes wrap at 2,048. -/
def Cell.field (c : Cell) (p n : Nat) : Nat :=
  if p + n ≤ 2048 then c.planes.toNat / 2 ^ p % 2 ^ n
  else (List.range n).foldl (fun a i => a + if c.plane (p + i) then 2 ^ i else 0) 0

/-- A cell with the n planes from p upward set to v. -/
def Cell.setField (c : Cell) (p n v : Nat) : Cell :=
  if p + n ≤ 2048 then
    let o := c.planes.toNat
    { c with planes := BitVec.ofNat 2048 (o - o / 2 ^ p % 2 ^ n * 2 ^ p + v % 2 ^ n * 2 ^ p) }
  else (List.range n).foldl (fun c i => c.setPlane (p + i) (v.testBit i)) c

/-- The listed cells whose key satisfies p changed by f; a cell that f makes all zero is listed no more. For an f that
keeps the all-zero cell this changes every cell that satisfies p. -/
def cellsMap (p : Nat → Bool) (f : Nat → Cell → Cell) : List (Nat × Cell) → List (Nat × Cell)
  | [] => []
  | e :: m =>
    if p e.1 then
      let c := f e.1 e.2
      if c = ({} : Cell) then cellsMap p f m else (e.1, c) :: cellsMap p f m
    else e :: cellsMap p f m

/-- The n cells from key k changed by f, from the entries listed among them. -/
def cellsFill (f : Nat → Cell → Cell) : Nat → Nat → List (Nat × Cell) → List (Nat × Cell)
  | 0, _, _ => []
  | n + 1, k, m =>
    let (c, m') := match m with
      | [] => (({} : Cell), m)
      | e :: r => if e.1 = k then (e.2, r) else ({}, m)
    let c' := f k c
    if c' = ({} : Cell) then cellsFill f n (k + 1) m' else (k, c') :: cellsFill f n (k + 1) m'

/-- Whether a key belongs to block b. -/
def inBlock (b k : Nat) : Bool := k / 16384 == b

/-- Every listed cell of block b changed by f, which is given the index of the cell. -/
def mapListed (s : State) (b : Nat) (f : Nat → Cell → Cell) : State :=
  { s with cells := cellsMap (inBlock b) (fun k c => f (k % 16384) c) s.cells }

/-- Every cell of block b changed by f, which is given the index of the cell. -/
def mapCells (s : State) (b : Nat) (f : Nat → Cell → Cell) : State :=
  let lo := mapOnly (fun k => decide (k < 16384 * b)) s.cells
  let mid := mapOnly (inBlock b) s.cells
  let hi := mapOnly (fun k => decide (16384 * (b + 1) ≤ k)) s.cells
  { s with cells := lo ++ cellsFill (fun k c => f (k % 16384) c) 16384 (16384 * b) mid ++ hi }

/-- Every active cell of block b changed by f; an unlisted cell is inactive. -/
def mapActive (s : State) (b : Nat) (f : Nat → Cell → Cell) : State :=
  mapListed s b fun i c => if c.a then f i c else c

/-- The cells of block b cleared (R327). -/
def clearCells (s : State) (b : Nat) : State := { s with cells := mapDrop (inBlock b) s.cells }

/-- The planes in which a yield saves A, T and C (R223). -/
def saveATC (s : State) (b : Nat) : State :=
  mapListed s b fun _ c => ((c.setPlane 2039 c.a).setPlane 2038 c.t).setPlane 2037 c.c

/-- A, T and C restored from those planes (R225). -/
def restoreATC (s : State) (b : Nat) : State :=
  mapListed s b fun _ c => { c with a := c.plane 2039, t := c.plane 2038, c := c.plane 2037 }

/-- The n planes from p of the active cells of block b hold undefined values (R232): a free plane each. -/
def spoilPlanes (s : State) (b p n : Nat) (act : Cell → Bool) : State :=
  let k := s.free
  let s := mapListed s b fun i c =>
    if act c then (List.range n).foldl (fun c j => c.setPlane (p + j) ((Config.freePlane (k + j)).getLsbD i)) c else c
  { s with free := k + n }

/-- The same in every cell of block b, whether it is listed or not. -/
def spoilAll (s : State) (b p n : Nat) : State :=
  let k := s.free
  let s := mapCells s b fun i c =>
    (List.range n).foldl (fun c j => c.setPlane (p + j) ((Config.freePlane (k + j)).getLsbD i)) c
  { s with free := k + n }

end Sys2Proof.Machine
end

