-- ==== Sys2Proof/Machine/Operands.lean ====
section
/-! DEFINITION. Operand forms of the scalar instructions: register fields (R236, R237), window registers (R252),
register identifiers (R271), effective addresses and modifiers (R246, R250, R251). -/

namespace Sys2Proof.Machine

/-! ### Fields of an instruction word (R236) -/

/-- The 32-bit instruction word of a row: its opcode and the operand's low 24 bits. -/
def wordOf (op : Nat) (w : BitVec 24) : Nat := op * 2 ^ 24 + w.toNat

/-- D, or R of MEM, or the count register of LOOP. -/
def fD (w : Nat) : Nat := bits w 23 18
/-- S. -/
def fS (w : Nat) : Nat := bits w 17 12
/-- U of REG. -/
def fU (w : Nat) : Nat := bits w 11 6
/-- FN of REG. -/
def fFN (w : Nat) : Nat := bits w 5 0
/-- IMM12 as 64 bits, sign-extended. -/
def immS (w : Nat) : Nat := wrap 64 (sgn 12 (bits w 11 0))
/-- IMM16. -/
def imm16 (w : Nat) : Nat := bits w 15 0

/-! ### Registers (R237, R252) -/

/-- PC (R234), held in DBG_PC. -/
def pcOf (s : State) (b : Nat) : Nat := rgF s (R.DBG_PC b) R.DBG_PC_PC

/-- PC set. -/
def setPc (s : State) (b v : Nat) : State := setF s (R.DBG_PC b) R.DBG_PC_PC v

/-- The physical window register that wi names in frame CURF (R252). -/
def winReg (s : State) (b i : Nat) : Nat := 16 * ((rgF s (R.PSR b) R.PSR_CURF + i / 16) % 12) + i % 16

/-- The register identifier of R271 that a 6-bit register field names. -/
def regId (s : State) (b r : Nat) : Nat :=
  if r < 32 then winReg s b r else if r < 48 then 0xC0 + (r - 32) else if r < 56 then 0xD0 + (r - 48)
  else 0xD8 + (r - 56) % 8

/-- The digit address of the register with an identifier. -/
def idAddr (b id : Nat) : Nat :=
  if id < 0xC0 then R.WREG b id else if id < 0xD0 then R.GREG b (id - 0xC0) else if id < 0xD8 then R.AREG b (id - 0xD0)
  else R.MREG b (id - 0xD8)

/-- The value of the register with an identifier: g0 reads 0. -/
def readId (s : State) (b id : Nat) : Nat := if id = 0xC0 then 0 else rg s (idAddr b id)

/-- The register with an identifier written: g0 discards, an address register takes the low 24 bits (R237). -/
def writeId (s : State) (b id v : Nat) : State :=
  if id = 0xC0 then s
  else if 0xD0 ≤ id ∧ id < 0xD8 then setRg s (idAddr b id) (v % 2 ^ 24)
  else setRg s (idAddr b id) (v % 2 ^ 64)

/-- The register a 6-bit field names, read. -/
def rd (s : State) (b r : Nat) : Nat := readId s b (regId s b r)

/-- The register a 6-bit field names, written. -/
def wr (s : State) (b r v : Nat) : State := writeId s b (regId s b r) v

/-! ### Local addresses (R246, R250, R251) -/

/-- The k low bits of i in reverse order. -/
def revBits (k i : Nat) : Nat := (List.range k).foldl (fun a j => a * 2 + i / 2 ^ j % 2) 0

/-- Whether modifier m may be used under POST and PRE (R251). -/
def modOk (m : Nat) : Bool :=
  match bits m 63 62 with
  | 0 => true
  | 1 => bits m 59 40 != 0
  | 2 => bits m 59 45 == 0 && decide (1 ≤ bits m 44 40) && decide (bits m 44 40 ≤ 20) && decide (1 ≤ bits m 15 0)
      && decide (bits m 15 0 ≤ 32767)
  | _ => false

/-- next(a) under modifier m (R251), modulo 2^24. -/
def nextA (a m : Nat) : Nat :=
  let step := sgn 16 (bits m 15 0)
  let base : Nat := bits m 39 16
  match bits m 63 62 with
  | 0 => wrap 24 ((a : Int) + step)
  | 1 => wrap 24 ((base : Int) + ((a : Int) - base + step) % (bits m 59 40 : Nat))
  | _ =>
    let st := bits m 15 0
    let k := bits m 44 40
    let i := wrap 24 ((a : Int) - base) / st % 2 ^ k
    (base + st * revBits k ((revBits k i + 1) % 2 ^ k)) % 2 ^ 24

/-- Whether n digits from local offset ea lie wholly in the scratchpad or wholly in the turn memory (R246). -/
def localOk (ea : Int) (n : Nat) : Bool :=
  (decide (0 ≤ ea) && decide (ea + n ≤ 0x80000)) || (decide (0x100000 ≤ ea) && decide (ea + n ≤ 0x200000))

/-- The digit address of local offset ea of block b. -/
def localAddr (b : Nat) (ea : Int) : Nat := bwin b + ea.toNat

/-- A value of n digits from local offset ea of block b. -/
def loadLocal (s : State) (b : Nat) (ea : Int) (n : Nat) : Nat := readVal s (localAddr b ea) n

/-- The low 4n bits of v stored from local offset ea of block b. -/
def storeLocal (s : State) (b : Nat) (ea : Int) (n v : Nat) : State := writeVal s (localAddr b ea) n v

/-- The 16-digit word at scratchpad offset a, read, and written. -/
def spWord (s : State) (b a : Nat) : Nat := readVal s (bwin b + a) 16
def spPut (s : State) (b a v : Nat) : State := writeVal s (bwin b + a) 16 v

/-- The operands of a MEM instruction: the access may be formed, its effective address, what a becomes afterwards. -/
structure MemOp where
  ok : Bool
  ea : Int
  areg : Nat
  after : Option Nat
  n : Nat

/-- AM, OFF, N and the address register of a MEM word (R246). -/
def memOp (s : State) (b w : Nat) : MemOp :=
  let k := bits w 17 15
  let a := rd s b (48 + k)
  let m := rd s b (56 + k)
  let off := sgn 8 (bits w 7 0)
  let n := bits w 12 9 + 1
  match bits w 14 13 with
  | 0 => { ok := !w.testBit 8, ea := (a : Int) + off, areg := k, after := none, n := n }
  | 1 => { ok := !w.testBit 8 && off == 0 && modOk m, ea := a, areg := k, after := some (nextA a m), n := n }
  | 2 => { ok := !w.testBit 8 && off == 0 && modOk m, ea := nextA a m, areg := k, after := some (nextA a m), n := n }
  | _ => { ok := false, ea := 0, areg := k, after := none, n := n }

end Sys2Proof.Machine
end

