-- ==== Sys2Proof/Machine/Flags.lean ====
section
/-! DEFINITION. Flag computations: nibble carries (R262), the decimal flags (R174-R176, R206), the micro-engine's
flags (R286), and the relations of the compare instructions (R241). -/

namespace Sys2Proof.Machine

/-- NCY of a 64-bit sum: bit i is the carry out of sum bit 4i + 3 (R262). -/
def nibbleCarries (x y : Nat) : Nat :=
  (List.range 16).foldl (fun a i => a + b2n (decide (2 ^ (4 * i + 4) ≤ x % 2 ^ (4 * i + 4) + y % 2 ^ (4 * i + 4))) * 2 ^ i) 0

/-- The relations of CMP and CMPI; codes 10 to 15 are reserved (R241). -/
def relTrue (rel x y : Nat) : Bool :=
  match rel with
  | 0 => x == y
  | 1 => x != y
  | 2 => decide (sgn 64 x < sgn 64 y)
  | 3 => decide (sgn 64 x ≤ sgn 64 y)
  | 4 => decide (sgn 64 y < sgn 64 x)
  | 5 => decide (sgn 64 y ≤ sgn 64 x)
  | 6 => decide (x < y)
  | 7 => decide (x ≤ y)
  | 8 => decide (y < x)
  | _ => decide (y ≤ x)

/-- Flags of DCTL.SFLAG set: bit i of fl is SFLAG bit 16 + i (R206, R260). -/
def setSflag (s : State) (b fl : Nat) : State :=
  if fl = 0 then s else setF s (R.DCTL b) R.DCTL_SFLAG (Nat.lor (rgF s (R.DCTL b) R.DCTL_SFLAG) fl)

/-- The sticky flags of DFLAG set, with the level source that follows them (R176, R452). -/
def setDflag (s : State) (b fl : Nat) : State :=
  if fl = 0 then s else
  bicRise s (setF s (R.DFLAG b) R.DFLAG_FL (Nat.lor (rgF s (R.DFLAG b) R.DFLAG_FL) fl)) b 9

end Sys2Proof.Machine
end

