-- ==== Sys2Proof/Machine/Sequence.lean ====
section
/-! DEFINITION. How a sequencer issues: when it may issue, trap and interrupt entry and the return from it, calls,
loops, repetition, load slots, and the end of a run (R234-R273, R413). -/

namespace Sys2Proof.Machine

/-! ### When a sequencer issues -/

/-- A halt request waits at some block of b's program (R508). -/
def haltPending (s : State) (b : Nat) : Bool := (gang s b).any fun c => rgB s (R.DBG_CTRL c) R.DBG_CTRL_HALTREQ

/-- Block b carries out an instruction that the lead device of the cascade has dispatched (R433). -/
def farRun (s : State) (b : Nat) : Bool :=
  (match (seqOf s b).resume with | some r => r.far.isSome | none => false)
    || match (seqOf s b).micro with | some m => m.far | none => false

/-- Block b's own sequencer is to execute a program, neither halted nor stopped nor held (R75, R157, R507); its blocks may
stand in a power state below L0. -/
def runnable (s : State) (b : Nat) : Bool :=
  s.powered && !s.perst && !heldRegion s (b / 8) &&
    (match partOf s b with
     | some n => defined s n && programOf s b == b && !(epochOf s n).rolling
     | none => false)
    && ((!halted s b && (seqOf s b).inProg) || farRun s b)

/-- Block b's own sequencer executes: it is to, and every block of its program stands in L0, with its memories (R387, R472). -/
def executing (s : State) (b : Nat) : Bool := runnable s b && (gang s b).all (fun c => blockCur s c == 0 && memCur s c == 0)

/-- Interrupts that members of the cascade have forwarded to block b's program (R434). -/
def fwdFor (s : State) (b : Nat) : List (BitVec 4 × Blk × BitVec 6) :=
  match partOf s b with | some n => if cascadePart s n then s.rein.fwd else [] | none => []

/-- Every source of this member's blocks that is eligible is forwarded to the lead, once until the lead takes it (R434). -/
def forwardIrqs (s : State) : State :=
  let n := s.cfg.cascade.cpid.toNat
  if !follows s n then s else
  (blocksOf s n).foldl (fun s b =>
    ((List.range 64).filter (bicEligible s b)).foldl (fun s k =>
      let e : BitVec 4 × Blk × BitVec 6 := (BitVec.ofNat 4 (myIdx s), BitVec.ofNat 7 b, BitVec.ofNat 6 k)
      if e ∈ s.rein.fwd then s
      else forwardReq { s with rein := { s.rein with fwd := s.rein.fwd ++ [e] } } n (.interrupt e.2.1 e.2.2)) s) s

/-- An interrupt waits for block b's program: its IE is set and a source of its blocks or of a member of the cascade is
eligible (R270, R434). -/
def irqWaits (s : State) (b : Nat) : Bool :=
  rgB s (R.PSR b) R.PSR_IE && ((irqFor s b).isSome || !(fwdFor s b).isEmpty)

/-- Nothing that R270 takes first waits at block b: an epoch boundary, a halt, a MESH trap, an interrupt. In a single
step no interrupt and no halt is taken (R510). -/
def boundaryClear (s : State) (b : Nat) : Bool :=
  let q := seqOf s b
  !q.epochReq && !q.epochStop && q.meshTraps.isEmpty &&
    (q.stepping || (!haltPending s b && !irqWaits s b))

/-- Whether block b's sequencer issues an instruction now. -/
def canIssue (s : State) (b : Nat) : Bool :=
  executing s b && boundaryClear s b && !(seqOf s b).waiting && (seqOf s b).micro.isNone

/-! ### Loops (R256-R258) -/

/-- Level n is active. -/
def loopAct (s : State) (b n : Nat) : Bool := (rgF s (R.LSTAT b) R.LSTAT_ACT).testBit n

/-- TAGn of LSTAT. -/
def tagFld (n : Nat) : Fld := ⟨12 * n + 27, 12 * n + 16⟩

/-- The examined loops, innermost first (R257). -/
def examined (s : State) (b : Nat) : List Nat :=
  [3, 2, 1, 0].filter fun n => loopAct s b n && rgF s (R.LSTAT b) (tagFld n) == rgF s (R.PSR b) R.PSR_DEPTH

/-- Level n closes. -/
def closeLoop (s : State) (b n : Nat) : State := setF s (R.LSTAT b) ⟨n, n⟩ 0

/-- The loop from ls to le goes back: the loop buffer holds its body, if it has at most 64 instructions (R245). What the buffer
holds matters only while an upset stands in a memory. -/
def noteLoop (s : State) (b ls le : Nat) : State :=
  if s.flaws.isEmpty then s else
  updSeq s b fun q => { q with buf := if le < ls + 512 then some (ls, le) else none }

/-- The end test of the instruction at pc over the examined loops: the state and where a loop goes back to (R257). -/
def loopEnd (s : State) (b pc : Nat) : List Nat → State × Option Nat
  | [] => (s, none)
  | n :: r =>
    if rg s (R.LE b n) = pc then
      if 1 < rg s (R.LC b n) then
        (noteLoop (setRg s (R.LC b n) (rg s (R.LC b n) - 1)) b (rg s (R.LS b n)) pc, some (rg s (R.LS b n)))
      else loopEnd (closeLoop (setRg s (R.LC b n) 0) b n) b pc r
    else (s, none)

/-- A taken transfer to t closes the examined loops whose body excludes t, from the innermost on (R257). -/
def loopJump (s : State) (b t : Nat) : List Nat → State
  | [] => s
  | n :: r => if rg s (R.LS b n) ≤ t ∧ t ≤ rg s (R.LE b n) then s else loopJump (closeLoop s b n) b t r

/-- Every loop whose tag equals the DEPTH being left closes (R257). -/
def closeTag (s : State) (b : Nat) : State := forEach (examined s b) (fun s n => closeLoop s b n) s

/-! ### Load slots (R249) -/

/-- One instruction has issued and completed: every pending load has one slot less, and those without a slot left are
written, in order. -/
def ageLoads (s : State) (b : Nat) : State :=
  let q := seqOf s b
  if q.loads.isEmpty then s else
  let ls := q.loads.map fun l => { l with slots := l.slots - 1 }
  let s := setSeq s b { q with loads := ls.filter fun l => l.slots != 0 }
  (ls.filter fun l => l.slots == 0).foldl (fun s l => writeId s b l.reg l.val.toNat) s

/-! ### The end of a program (R413) -/

/-- The program of block b has ended with an exit code. -/
def exitOp (s : State) (b code : Nat) : State :=
  match partOf s b with
  | none => s
  | some n =>
    let s := forEach (gang s b) leaveProgram s
    match s.host.runs.find? fun r => r.part == n && r.blocks.contains b with
    | none => s
    | some r =>
      let r := { r with exits := r.exits ++ [(b, BitVec.ofNat 32 code)] }
      let others := s.host.runs.filter fun q => !(q.part == n && q.blocks.contains b)
      if r.blocks.all fun c => r.exits.any fun e => e.1 == c then
        let s := { s with host := { s.host with runs := others } }
        let low := ((List.range 128).filterMap fun c => (r.exits.find? fun e => e.1 == c && e.2 != 0)).head?
        let res := match low with | some e => e.2.toNat | none => 0
        let det := if lockstep s n then 0 else match low with | some e => e.1 | none => 0
        match r.cmd with
        | some (f, q, c) =>
          let s := completeHeld s n f q c 0 det res
          if (cmdByte c 1).testBit 1 then askBoundary s n else s
        | none =>
          let s0 := s
          let s := setF s R.SB_CKPT R.SB_CKPT_EXIT (res % 2 ^ 16)
          cicRise s0 (setB s R.SB_CKPT R.SB_CKPT_DONEV true) 10
      else { s with host := { s.host with runs := others ++ [r] } }

/-- At an instruction boundary an exit that waits is taken. -/
def takeExit (s : State) (b : Nat) : State :=
  let q := seqOf s b
  match q.exit with
  | some c => if q.micro.isNone && q.resume.isNone && q.inProg then exitOp s b c.toNat else s
  | none => s

/-! ### Trap and interrupt entry (R269-R271) -/

/-- How often the bits of a mask are set among bits 15 to 0. -/
def popMask (m : Nat) : Nat := (List.range 16).foldl (fun a i => a + bits m i i) 0

/-- Frame f of the ring spilled below WSP (R253). -/
def spillFrame (s : State) (b f : Nat) : State :=
  let wsp := rgF s (R.WSTK b) R.WSTK_WSP - 1
  let s := forEach (List.range 16) (fun s i => spPut s b (256 * wsp + 16 * i) (rg s (R.WREG b (16 * f + i)))) s
  setF s (R.WSTK b) R.WSTK_WSP wsp

/-- Frame f of the ring filled from WSP (R254). -/
def fillFrame (s : State) (b f : Nat) : State :=
  let wsp := rgF s (R.WSTK b) R.WSTK_WSP
  let s := forEach (List.range 16) (fun s i => setRg s (R.WREG b (16 * f + i)) (spWord s b (256 * wsp + 16 * i))) s
  setF s (R.WSTK b) R.WSTK_WSP (wsp + 1)

/-- A spill of k frames stays at or above WLIM and within the scratchpad. -/
def spillOk (s : State) (b k : Nat) : Bool :=
  let wsp := rgF s (R.WSTK b) R.WSTK_WSP
  decide (rgF s (R.WSTK b) R.WSTK_WLIM + k ≤ wsp)

/-- The window stack from WSP downward, k frames of it, lies within the scratchpad. -/
def windowIn (s : State) (b : Nat) : Bool := decide (rgF s (R.WSTK b) R.WSTK_WSP ≤ 0x800)

/-- The reservation of block b clears (R265). -/
def clearResv (s : State) (b : Nat) : State :=
  setB (updSeq s b fun q => { q with resv := none }) (R.PSR b) R.PSR_RESV_VALID false

/-- The words of a pending load in an interrupt frame (R271). -/
def loadWord (l : Option PendLoad) : Nat := match l with | some l => 2 ^ 63 + l.slots % 4 * 2 ^ 61 + l.reg | none => 0

/-- Whether entry of block b would be an entry fault: it would spill or write outside its bounds, or stands at DEPTH
4,095 (R271). -/
def entryFault (s : State) (b : Nat) : Bool :=
  let k := rgF s (R.PSR b) R.PSR_RESF - 8
  let size := 16 * (8 + popMask (Nat.land (rgF s (R.TVEC b) R.TVEC_IGMASK) 0xFFFE))
  let isp := 16 * rgF s (R.STKP b) R.STKP_ISP
  rgF s (R.PSR b) R.PSR_DEPTH == 4095 || (decide (0 < k) && !(spillOk s b k && windowIn s b)) || decide (isp < size)
    || decide (0x80000 < isp)

/-- Whether entry waits for an LDX destination among window registers and globals (R267). -/
def entryWaits (s : State) (b : Nat) : Bool := (seqOf s b).ldx.any fun l => decide (l.reg < 0xD0)

/-- The words of an entry frame: the PSR before entry, cause, TVAL, return address, IMPR, SUSP (R271). -/
def frameWords (s : State) (b psr cause tval ret : Nat) (impr susp : Bool) (ls : List PendLoad) : List Nat :=
  let ig := Nat.land (rgF s (R.TVEC b) R.TVEC_IGMASK) 0xFFFE
  let v (l : Option PendLoad) : Nat := match l with | some l => l.val.toNat | none => 0
  [ig * 2 ^ 48 + b2n susp * 2 ^ 47 + bits psr 4 4 * 2 ^ 46 + rgF s (R.REPC b) R.REPC_COUNT * 2 ^ 34 + ret % 2 ^ 20, psr,
   rgF s (R.NCY b) R.NCY_NCY * 2 ^ 48 + cause * 2 ^ 40 + b2n impr * 2 ^ 39, tval % 2 ^ 64,
   loadWord ls[0]?, v ls[0]?, loadWord ls[1]?, v ls[1]?]
    ++ ((List.range 16).filter fun i => ig.testBit i).map fun i => readId s b (0xC0 + i)

/-- The vector of a cause (R269). -/
def causeVector (cause : Nat) : Nat := if cause = 1 then 0 else if cause = 2 then 1 else if cause = 15 then 3 else 2

/-- The PC of block b has gone elsewhere: its line is fetched anew (R244). -/
def unfetch (s : State) (b : Nat) : State :=
  if (seqOf s b).fetched.isSome then updSeq s b fun q => { q with fetched := none } else s

/-- Trap or interrupt entry of block b: cause, TVAL, return address, IMPR, SUSP (R271). An entry that would spill or
write outside its bounds, or stands at DEPTH 4,095, is an entry fault and changes nothing (R298 ENTRY). -/
def enter (s : State) (b cause tval ret : Nat) (impr susp : Bool) : State :=
  if entryWaits s b then s
  else if entryFault s b then programFault s b 6 0
  else
    let psr := rg s (R.PSR b)
    let curf := bits psr 47 44
    let resf := bits psr 43 40
    let s := forEach (List.range (resf - 8)) (fun s i => spillFrame s b ((curf + 12 - resf + i) % 12)) s
    let q := seqOf s b
    let late := q.loads.take (q.loads.length - 2)
    let s := late.foldl (fun s l => writeId s b l.reg l.val.toNat) s
    let ws := frameWords s b psr cause tval ret impr susp (q.loads.drop (q.loads.length - 2))
    let isp := 16 * rgF s (R.STKP b) R.STKP_ISP - 16 * ws.length
    let s := forEach (List.range ws.length) (fun s i => spPut s b (isp + 16 * i) (ws.getD i 0)) s
    let s := setF s (R.STKP b) R.STKP_ISP (isp / 16)
    let s := setRg s (R.TCAUSE b) (b2n impr * 256 + cause)
    let s := setRg s (R.TVAL b) (tval % 2 ^ 64)
    let p := putBits (putBits (putBits (putBits psr 47 44 ((curf + 2) % 12)) 43 40 (min resf 8 + 2)) 59 48 (bits psr 59 48 + 1)) 0 0 0
    let s := setRg s (R.PSR b) (putBits p 4 4 0)
    let s := clearResv (unfetch s b) b
    let s := updSeq s b fun q => { q with loads := [] }
    setPc s b (256 * rgF s (R.TVEC b) R.TVEC_BASE + 64 * causeVector cause)

/-- A trap of the instruction at pc. -/
def trapAt (s : State) (b cause tval : Nat) : State := enter s b cause tval (pcOf s b) false false

/-! ### One instruction -/

/-- How an instruction ends. -/
inductive Flow where
  /-- it completes and the next instruction follows -/
  | next
  /-- it completes, having set up repetition or a new PC by itself -/
  | goto (t : Nat)
  /-- a taken branch or jump to t, which must satisfy R234 -/
  | jump (t : Int)
  /-- it traps and changes no state -/
  | trap (cause tval : Nat)
  /-- it traps, and what it set stays -/
  | trapKeep (cause tval : Nat)
  /-- it completes and then traps (TRAP) -/
  | trapAfter (cause tval : Nat)
  /-- it completes and then halts (BKPT under BKPTEN) -/
  | haltAfter (cause : Nat)
  /-- REPR with a count of 0: the next instruction is skipped (R259) -/
  | skip
  /-- it opens a repetition of the next instruction -/
  | rep
  /-- it waits at issue; nothing changes -/
  | stay
  /-- what it did stands, and it has not completed yet -/
  | park
  deriving DecidableEq, Repr

/-- Whether t is an address that R234 allows. -/
def pcOk (t : Int) : Bool := decide (0 ≤ t) && decide (t ≤ 0x7FFF8) && t % 8 == 0

/-- The PC after an instruction at pc that completes: the end test, else the next word (R257). -/
def stepPc (s : State) (b pc : Nat) : State :=
  let (s, t) := loopEnd s b pc (examined s b)
  setPc s b (t.getD (pc + 8))

/-- An instruction of block b completes (R249, R257, R259). -/
def retire (s : State) (b : Nat) : State :=
  let s := ageLoads s b
  let pc := pcOf s b
  if rgB s (R.PSR b) R.PSR_REPF then
    let n := rgF s (R.REPC b) R.REPC_COUNT - 1
    let s := setF s (R.REPC b) R.REPC_COUNT n
    if n = 0 then stepPc (setB s (R.PSR b) R.PSR_REPF false) b pc else s
  else stepPc s b pc

/-- The halt of every block of b's program (R508), on every device of a LOCKSTEP cascade (R434). -/
def haltGang (s : State) (b cause : Nat) : State :=
  let s := forEach (gang s b) (fun s c => haltSeq s c cause) s
  match partOf s b with | some n => sendAct s n (.halt (BitVec.ofNat 8 cause)) | none => s

/-- A single step ends when the instruction has: the program halts with CAUSE STEP (R510). -/
def endStep (s : State) (b : Nat) : State :=
  let q := seqOf s b
  if !q.stepping || q.micro.isSome || q.resume.isSome || q.waiting then s else
  let s := updSeq s b fun q => { q with stepping := false }
  if halted s b then s else haltGang s b 3

/-- What the flow of an instruction does; s0 is the state in which it issued. -/
def finish (s0 s : State) (b : Nat) (f : Flow) : State :=
  match f with
  | .next => retire s b
  | .goto t => setPc (ageLoads (unfetch s b) b) b t
  | .jump t =>
    if pcOk t then
      let s := ageLoads (unfetch s b) b
      setPc (loopJump s b t.toNat (examined s b)) b t.toNat
    else trapAt s0 b 5 (wrap 64 t)
  | .trap c v => trapAt s0 b c v
  | .trapKeep c v => trapAt s b c v
  | .trapAfter c v =>
    let s := retire s b
    enter s b c v (pcOf s b) false false
  | .haltAfter c => haltGang (girthRaise (retire s b) 1 (partOf s b)) b c
  | .skip =>
    let s := ageLoads s b
    stepPc s b (pcOf s b + 8)
  | .rep =>
    let s := ageLoads s b
    setPc (setB s (R.PSR b) R.PSR_REPF true) b (pcOf s b + 8)
  | .stay => s0
  | .park => s

/-- A trap that R270 ranks before REP_ILLEGAL. -/
def beforeRep (f : Flow) : Bool := match f with | .trap c _ => c == 2 || c == 3 | _ => false

/-- What an instruction of block b does once it has read n digits from digit address a of a block memory: it has no effect
when the check stage cannot deliver them (R322, R325). -/
def reading (s : State) (b a n : Nat) (f : State → State × Flow) : State × Flow :=
  let (s, ok) := memCheck s b a n
  if ok then f s else (s, .park)

/-- The same for a store, which reads the words that it covers in part. -/
def merging (s : State) (b a n : Nat) (f : State → State × Flow) : State × Flow :=
  let (s, ok) := mergeCheck s b a n
  if ok then f s else (s, .park)

/-- The loop buffer of block b holds the instruction at pc (R245). -/
def buffered (s : State) (b pc : Nat) : Bool :=
  match (seqOf s b).buf with
  | some (l, h) => decide (l ≤ pc) && decide (pc ≤ h) && (examined s b).any fun n => rg s (R.LS b n) == l && rg s (R.LE b n) == h
  | none => false

/-- The fetch of the instruction at pc: its 32-digit line is read and checked, unless the fetch unit or the loop buffer holds it
(R244, R245); whether it can be delivered. What the fetch unit holds matters only while an upset stands in a memory. -/
def fetchLine (s : State) (b pc : Nat) : State × Bool :=
  if s.flaws.isEmpty || buffered s b pc then (s, true) else
  let held := match (seqOf s b).fetched with
    | some p => p / 32 == pc / 32 && (pc == p || pc == p + 8)
    | none => false
  let (s, ok) := if held then (s, true) else memCheck s b (bwin b + pc / 32 * 32) 32
  (if ok then updSeq s b fun q => { q with fetched := some pc } else s, ok)

/-- What an instruction of block b does once it has been fetched from pc. -/
def fetched (s : State) (b pc : Nat) (f : State → State × Flow) : State × Flow :=
  let (s, ok) := fetchLine s b pc
  if ok then f s else (s, .park)

/-- Block b issues the instruction whose word is w: regs are the register fields it reads or writes (R267), noRep marks
the instructions that may not be repeated (R259). -/
def issue (s : State) (b w : Nat) (regs : List Nat) (noRep : Bool) (body : State → State × Flow) : State :=
  if !canIssue s b || (seqOf s b).resume.isSome then s else
  let pc := pcOf s b
  if 0x7FFF8 < pc then endStep (enter s b 5 pc (if pc = 0x80000 then 0x7FFF8 else pc) false false) b
  else if pc % 8 ≠ 0 then endStep (trapAt s b 5 pc) b
  else if (seqOf s b).ldx.any fun l => regs.any fun r => regId s b r == l.reg then s
  else
    let (s', f) := fetched s b pc body
    if noRep && rgB s (R.PSR b) R.PSR_REPF && !beforeRep f then endStep (trapAt s b 6 w) b
    else if f = .stay ∨ f = .park then finish s s' b f
    else endStep (finish s s' b f) b

/-- The word of a scalar instruction breaks R238: it traps with ILLEGAL. -/
def illegal (s : State) (w : Nat) : State × Flow := (s, .trap 3 w)

/-! ### Calls and returns (R253-R255, R272) -/

/-- Globals a mask names, ascending. -/
def maskRegs (m : Nat) : List Nat := (List.range 16).filter fun i => m.testBit i

/-- CALL (R253, R255). -/
def callOp (s : State) (b w : Nat) : State × Flow :=
  let mask := bits w 23 8
  let tr := bits w 7 2
  if bits w 1 0 ≠ 0 ∨ mask.testBit 0 ∨ 48 ≤ tr then illegal s w else
  if entryWaits s b then (s, .stay) else
  let t := rd s b tr
  let psr := rg s (R.PSR b)
  let curf := bits psr 47 44
  let resf := bits psr 43 40
  let csp := 16 * rgF s (R.STKP b) R.STKP_CSP
  let size := 16 * (1 + popMask mask)
  let wsp := rgF s (R.WSTK b) R.WSTK_WSP
  if !pcOk t then (s, .trap 5 t)
  else if csp < size then (s, .trap 4 (wrap 64 ((csp : Int) - size)))
  else if 0x80000 < csp then (s, .trap 4 (csp - size))
  else if resf = 10 ∧ !windowIn s b then (s, .trap 4 (256 * wsp - 256))
  else if resf = 10 ∧ !spillOk s b 1 then (s, .trap 9 (256 * wsp))
  else if bits psr 59 48 = 4095 then (s, .trap 0x0A 0)
  else
    let s := if resf = 10 then spillFrame s b ((curf + 2) % 12) else s
    let resf := min resf 9
    let csp := csp - size
    let ws := (mask * 2 ^ 48 + (pcOf s b + 8)) :: (maskRegs mask).map fun i => readId s b (0xC0 + i)
    let s := forEach (List.range ws.length) (fun s i => spPut s b (csp + 16 * i) (ws.getD i 0)) s
    let s := setF s (R.STKP b) R.STKP_CSP (csp / 16)
    let p := rg s (R.PSR b)
    let s := setRg s (R.PSR b)
      (putBits (putBits (putBits p 47 44 ((curf + 1) % 12)) 43 40 (resf + 1)) 59 48 (bits psr 59 48 + 1))
    let s := forEach (List.range 16) (fun s i =>
      setRg (takeFree s) (R.WREG b (16 * ((curf + 2) % 12) + i)) (freeNat s)) s
    (s, .goto t)

/-- RET (R254, R255); a recorded address outside what R234 allows traps at the RET, as every transfer does. -/
def retOp (s : State) (b w : Nat) : State × Flow :=
  if bits w 23 0 ≠ 0 then illegal s w else
  if entryWaits s b then (s, .stay) else
  let psr := rg s (R.PSR b)
  let curf := bits psr 47 44
  let resf := bits psr 43 40
  let depth := bits psr 59 48
  let csp := 16 * rgF s (R.STKP b) R.STKP_CSP
  let wsp := rgF s (R.WSTK b) R.WSTK_WSP
  if 0x80000 < csp + 16 then (s, .trap 4 csp)
  else
    reading s b (bwin b + csp) 16 fun s =>
    let rec0 := spWord s b csp
    let mask := bits rec0 63 48
    let size := 16 * (1 + popMask mask)
    if 0x80000 < csp + size then (s, .trapKeep 4 csp)
    else if resf = 0 ∧ 0x800 < wsp + 1 then (s, .trapKeep 4 (256 * wsp))
    else if depth = 0 then (s, .trapKeep 8 0)
    else if !pcOk (bits rec0 19 0 : Nat) then (s, .trapKeep 5 (bits rec0 19 0))
    else
      reading s b (bwin b + csp + 16) (size - 16) fun s =>
      reading s b (bwin b + 256 * wsp) (if resf = 0 then 256 else 0) fun s =>
      let s := closeTag s b
      let s := if resf = 0 then fillFrame s b ((curf + 11) % 12) else s
      let resf := if resf = 0 then 1 else resf
      let gs := maskRegs mask
      let s := forEach (List.range gs.length) (fun s i =>
        writeId s b (0xC0 + gs.getD i 0) (spWord s b (csp + 16 * (i + 1)))) s
      let s := setF s (R.STKP b) R.STKP_CSP ((csp + size) / 16)
      let p := rg s (R.PSR b)
      let s := setRg s (R.PSR b)
        (putBits (putBits (putBits p 47 44 ((curf + 11) % 12)) 43 40 (resf - 1)) 59 48 (depth - 1))
      (s, .goto (bits rec0 19 0))

/-- The suspended instruction of block b's program resumes (R225): VALID clears in every block of the program, A, T and
C return from their planes and the result slots take the record's words, and the instruction continues with its record; its
micro-engine runs on at once. -/
def resumeOp (s : State) (b : Nat) : State :=
  match (seqOf s b).susp with
  | none => s
  | some r =>
    let s := forEach (gang s b) (fun s c =>
      let a := R.ARR_SUSP c
      let s := setF (setF (setF s a R.ARR_SUSP_OP 0) a R.ARR_SUSP_STEP 0) a R.ARR_SUSP_CAUSE 0
      let s := setB (setB s a R.ARR_SUSP_VALID false) a R.ARR_SUSP_RUN true
      let w := match (seqOf s c).susp with | some r => r.slots | none => []
      restoreATC (updSeq s c fun q => { q with
        susp := none
        slot0 := { q.slot0 with word := w.getD 0 q.slot0.word }, slot1 := { q.slot1 with word := w.getD 1 q.slot1.word }
        slot2 := { q.slot2 with word := w.getD 2 q.slot2.word }, slot3 := { q.slot3 with word := w.getD 3 q.slot3.word } }) c) s
    let s := match partOf s b with | some n => sendAct s n .resume | none => s
    match r.micro with
    | some m => updSeq s b fun q => { q with micro := some m }
    | none => updSeq s b fun q => { q with resume := some r }

/-- A suspended instruction whose handler was never entered continues, once no request is pending any more (R222, R229,
R230). -/
def resumeIdle (s : State) (b : Nat) : State :=
  match (seqOf s b).susp with
  | some r => if !r.entered && r.pc.toNat == pcOf s b && canIssue s b && (seqOf s b).resume.isNone then resumeOp s b else s
  | none => s

/-- RETI (R272). -/
def retiOp (s : State) (b w : Nat) : State × Flow :=
  if bits w 23 0 ≠ 0 then illegal s w else
  if entryWaits s b then (s, .stay) else
  let psr := rg s (R.PSR b)
  let curf := bits psr 47 44
  let resf := bits psr 43 40
  let isp := 16 * rgF s (R.STKP b) R.STKP_ISP
  let wsp := rgF s (R.WSTK b) R.WSTK_WSP
  let k := 2 - resf
  if 0x80000 < isp + 128 then (s, .trap 4 isp)
  else
    reading s b (bwin b + isp) 128 fun s =>
    let w0 := spWord s b isp
    let w1 := spWord s b (isp + 16)
    let w2 := spWord s b (isp + 32)
    let ig := bits w0 63 48
    let size := 16 * (8 + popMask ig)
    if 0x80000 < isp + size then (s, .trapKeep 4 isp)
    else if !pcOk (bits w0 19 0 : Nat) then (s, .trapKeep 5 (bits w0 19 0))
    else if k ≠ 0 ∧ 0x800 < wsp + k then (s, .trapKeep 4 (256 * wsp))
    else
      reading s b (bwin b + isp + 128) (size - 128) fun s =>
      reading s b (bwin b + 256 * wsp) (256 * k) fun s =>
      let s := closeTag s b
      let s := forEach (List.range k) (fun s i => fillFrame s b ((curf + 23 - resf - i) % 12)) s
      let gs := maskRegs ig
      let s := forEach (List.range gs.length) (fun s i =>
        writeId s b (0xC0 + gs.getD i 0) (spWord s b (isp + 16 * (8 + i)))) s
      let s := setF s (R.NCY b) R.NCY_NCY (bits w2 63 48)
      let s := setF s (R.STKP b) R.STKP_ISP ((isp + size) / 16)
      let resf := resf + k
      let p := putBits (putBits (putBits psr 47 44 ((curf + 10) % 12)) 43 40 (resf - 2)) 59 48 (bits psr 59 48 + 4095)
      let p := putBits (putBits p 0 0 (bits w1 0 0)) 4 4 (bits w0 46 46)
      let s := setRg s (R.PSR b) p
      let s := if w0.testBit 46 then setF s (R.REPC b) R.REPC_COUNT (bits w0 45 34) else s
      let s := clearResv s b
      let ld (i : Nat) : List PendLoad :=
        let x := spWord s b (isp + 16 * (4 + 2 * i))
        if x.testBit 63 then
          [{ reg := bits x 7 0, val := BitVec.ofNat 64 (spWord s b (isp + 16 * (5 + 2 * i))), slots := bits x 62 61 + 1 }]
        else []
      let s := updSeq s b fun q => { q with loads := q.loads ++ ld 0 ++ ld 1 }
      let ra := bits w0 19 0
      let s := match (seqOf s b).susp with
        | some r => if w0.testBit 47 && r.pc.toNat == ra then resumeOp s b else s
        | none => s
      (s, .goto ra)

end Sys2Proof.Machine
end

