-- ==== Sys2Proof/Machine/Access.lean ====
section
/-! DEFINITION. A register written and read by the access codes of its fields (R4-R9), with the values that the cards
say a write does not take. The writes that start something are dispatched in Regwrite. -/

namespace Sys2Proof.Machine

/-- The bits of a field. -/
def fldMask (hi lo : Nat) : Nat := (2 ^ (hi + 1 - lo) - 1) * 2 ^ lo

/-- The bits of a field, when p holds. -/
def keepIf (p : Bool) (f : Fld) : Nat := if p then fldMask f.hi f.lo else 0

/-- Whether SMAP (bits [28:24] of DCTL) reads sign code c as minus (R175). -/
def readsMinus (v c : Nat) : Bool := decide (10 ≤ c) && decide (c ≤ 14) && v.testBit (24 + c - 10)

/-- The bits of DCTL that keep their value when v is written (R175). -/
def keepDctl (v : Nat) : Nat :=
  let p := bits v 63 60
  let m := bits v 59 56
  2 ^ 29 + keepIf (decide (p < 10) || readsMinus v p) R.DCTL_OPLUS
    + keepIf (decide (m < 10) || m == 15 || !readsMinus v m) R.DCTL_OMINUS

/-- The bits of the register at offset o of block b's window that keep their value when v is written. DESIGN CHOICE (log 93): a
DMA_RING.BASE that is no multiple of 64 is not taken, and the field keeps its value. -/
def keepBlock (s : State) (b o v : Nat) : Nat :=
  if o = 0x720000 then keepDctl v
  else if o = 0x700040 then 2 ^ 48
  else if o = 0x700840 then keepIf (rgB s (R.WD_CFG b) R.WD_CFG_EN && bits v 31 0 == 0) R.WD_CFG_PERIOD
  else if o = 0x770000 ∨ o = 0x770100 then keepIf (bits v 63 44 % 64 != 0) R.DMA_RING_BASE
  else if o = 0x770010 then keepIf (rgB s (R.DMA_CTRL b 0) R.DMA_CTRL_EN) R.DMA_CTRL_SIZE
  else if o = 0x770110 then keepIf (rgB s (R.DMA_CTRL b 1) R.DMA_CTRL_EN) R.DMA_CTRL_SIZE
  else 0

/-- The same for a register of chip control. -/
def keepChip (s : State) (o v : Nat) : Nat :=
  let all := 2 ^ 64 - 1
  let busy := rgB s R.IMG_STATUS R.IMG_STATUS_BUSY
  if o = 0x100000 then (if busy then all else keepIf (ownerSlot s.sec.fuses).isSome R.IMG_CTRL_UNCHECKED)
  else if o = 0x100020 then (if busy then all else 0)
  else if o = 0x100030 then (if busy then all else 0)
  else if o = 0x600000 then keepIf (bits v 39 16 == 0) R.MS_CTRL_RTO
  else if o = 0x600010 then keepIf (decide (bits v 31 0 < 1000)) R.MS_STAT_PERIOD
  else if 0xA00000 ≤ o ∧ o < 0xA01000 ∧ o % 0x100 = 0 then
    keepIf (decide (bits v 25 16 < 64) || decide (512 < bits v 25 16)) R.EP_CTRL_SHMAX
  else if o = 0xA01000 then keepIf (bits v 63 48 == 0) R.CN_CTRL_CTO
  else if o = 0x300020 then keepIf (decide (bits v 47 32 < 100) || decide (1100 < bits v 47 32)) R.PC_PWR_LIMIT
  else if o = 0x900300 then keepIf (v == 0) R.SPW_CTRL_PERIOD
  else if o = 0x900210 then (if rgB s R.TR_CTRL R.TR_CTRL_EN then all else 0)
  else if 0x800000 ≤ o ∧ o < 0x888000 ∧ (o % 0x100 = 0 ∨ o % 0x100 = 0x10) then
    (if rgB s (chipCtl + o - o % 0x100 + 0x20) R.QCFG_EN then all else 0)
  else if 0x280000 ≤ o ∧ o < 0x280200 then keepIf (decide (6 ≤ bits v 62 60)) R.WH_SLOT_KIND
  else if 0x100 ≤ o ∧ o < 0x200 then
    keepIf (bits v 5 4 == 3) R.GPIO_CFG_PULL + keepIf (bits v 3 2 == 3) R.GPIO_CFG_DRV
  else if 0x900000 ≤ o ∧ o < 0x900080 then 2 ^ 55
  else 0

/-- The bits of the register at address a that keep their value when v is written: values the spec calls reserved or
says are ignored (R5). -/
def keepBits (s : State) (a v : Nat) : Nat :=
  if inWin a then keepBlock s (winBlk a) (winOff a) v
  else if 0x040000000000 ≤ a then keepChip s (a - chipCtl) v
  else if 0x030000000000 ≤ a ∧ a % 0x1000000 = 0x100000 then keepIf (bits v 47 32 == 0) R.DRAM_SCRUB_PERIOD
  else 0

/-- What a field [hi:lo] of access code acc becomes in a word old when the bits of m are written from v (R6). -/
def putField (acc : Acc) (msk old v : Nat) : Nat :=
  match acc with
  | .rw => Nat.lor (Nat.land old (2 ^ 64 - 1 - msk)) (Nat.land v msk)
  | .w1c => Nat.land old (2 ^ 64 - 1 - Nat.land v msk)
  | .w1s => Nat.lor old (Nat.land v msk)
  | .ro | .wo | .rc | .rse | .sc => old

/-- The register at address a after a write of the bits m of v, field by field; a field whose bits the write keeps is
unchanged. An SC or WO field acts elsewhere. -/
def writtenReg (s : State) (a m v : Nat) : Nat :=
  match cardAt a with
  | none => rg s a
  | some c =>
    let old := rg s a
    let merged := Nat.lor (Nat.land old (2 ^ 64 - 1 - m)) (Nat.land v m)
    let w := Nat.land m (2 ^ 64 - 1 - keepBits s a merged)
    c.fields.foldl (fun n f => putField f.2.2 (Nat.land w (fldMask f.1 f.2.1)) n v) old

/-- A plain write of the bits m of v to the register at address a, with the level source that DFLAG drives. -/
def writePlain (s : State) (a m v : Nat) : State :=
  let s' := setRg s a (writtenReg s a m v)
  if inWin a ∧ winOff a = 0x720010 then bicRise s s' (winBlk a) 9
  else s'

/-- Whether a window, global, address or modifier register stands at offset o of a block window (R274). -/
def fileOff (o : Nat) : Bool := decide (0x710000 ≤ o) && decide (o < 0x710E00)

/-- Whether the sequencer of block b is halted or held in reset (R274). -/
def quietSeq (s : State) (b : Nat) : Bool := halted s b || heldRegion s (b / 8)

/-- Stitch's ports, the TIMEBASE copy and the resume area, which stand outside the cards: offset in the block window. -/
def specialOff (o : Nat) : Bool :=
  o == 0x700300 || (decide (0x760000 ≤ o) && decide (o < 0x760200) && o % 16 == 0)
    || (decide (0x700C00 ≤ o) && decide (o < 0x700E00) && o % 16 == 0)

/-- Whether a register answers at digit address a (R30, R34, R274). -/
def regThere (s : State) (a : Nat) : Bool :=
  if inWin a then
    let b := winBlk a
    let o := winOff a
    if fileOff o then (cardAt a).isSome && quietSeq s b else specialOff o || (cardAt a).isSome
  else (cardAt a).isSome

/-- The width in bits of the register at address a. -/
def regWidth (a : Nat) : Nat := match cardAt a with | some c => c.width | none => 64

/-- Word i of block b's resume area, which its latest yield wrote (R297). What a vendor routine keeps in words 6 to 12 and 17
to 31 the spec does not give: a free value, in the bits that the layout names. -/
def resumeWord (s : State) (b i : Nat) : Nat :=
  match (seqOf s b).area with
  | none => 0
  | some r =>
    let open_ (i : Nat) : Nat := (Config.freeValue
      (2 ^ 64 + ((r.w.toNat * 2 ^ 20 + r.pc.toNat) * 2 ^ 16 + r.step) * 4096 + 32 * b + i)).toNat
    match i, r.micro with
    | 0, _ => r.w.toNat / 2 ^ 24 * 2 ^ 56 + r.pc.toNat * 2 ^ 32 + r.w.toNat
    | 1, _ => r.d.toNat
    | 2, _ => r.s.toNat
    | 3, _ => r.u.toNat
    | 4, _ => r.dctl.toNat
    | 5, _ => r.rctl.toNat
    | 13, _ => (r.slots.getD 0 0).toNat
    | 14, _ => (r.slots.getD 1 0).toNat
    | 15, _ => (r.slots.getD 2 0).toNat
    | 16, _ => (r.slots.getD 3 0).toNat
    | 6, none => bits (open_ 6) 61 48 * 2 ^ 48 + bits (open_ 6) 46 44 % 5 * 2 ^ 44 + bits (open_ 6) 41 40 * 2 ^ 40 + open_ 6 % 2
    | 7, none => open_ 7 % 2 ^ 56
    | 9, none => if (open_ 6).testBit 40 then open_ 9 % 2 ^ 56 else 0
    | 10, none => if (open_ 6).testBit 41 then open_ 10 else 0
    | 11, none => if (open_ 6).testBit 41 then open_ 11 else 0
    | 12, none => if (open_ 6).testBit 41 then open_ 12 % 8 else 0
    | i, none => open_ i
    | 6, some m =>
      m.upc.toNat * 2 ^ 48 + m.stack.length * 2 ^ 44 + b2n m.svs * 2 ^ 41 + b2n m.svp * 2 ^ 40 + b2n m.mark
    | 7, some m => (List.range 4).foldl (fun a i => a + (m.stack.getD (m.stack.length - 1 - i) 0).toNat * b2n (decide (i < m.stack.length)) * 2 ^ (14 * i)) 0
    | 8, some m => m.lc3.toNat * 2 ^ 48 + m.lc2.toNat * 2 ^ 32 + m.lc1.toNat * 2 ^ 16 + m.lc0.toNat
    | 9, some m =>
      if m.svp then m.tar.toNat * 2 ^ 44 + m.pp3.toNat * 2 ^ 33 + m.pp2.toNat * 2 ^ 22 + m.pp1.toNat * 2 ^ 11 + m.pp0.toNat
      else 0
    | 10, some m => if m.svs then m.sa.toNat else 0
    | 11, some m => if m.svs then m.sb.toNat else 0
    | 12, some m => if m.svs then b2n m.sz * 4 + b2n m.sn * 2 + b2n m.sc else 0
    | _, some _ => 0

/-- The value that a read of the register at address a returns (R6, R274, R455). -/
def readReg (s : State) (a : Nat) : Nat :=
  if inWin a then
    let b := winBlk a
    let o := winOff a
    if o = 0x700300 then now s
    else if o = 0x700800 then rg s a + (if (seqOf s (programOf s b)).stepping then 4 else 0)
    else if 0x760000 ≤ o ∧ o < 0x760200 then resumeWord s b ((o - 0x760000) / 16)
    else if o = 0x710C00 then 0
    else if o = 0x780200 then
      (match mapGet [] b s.irq.cicq with | [] => 0 | n :: _ => 2 ^ 63 + n.toNat)
    else rg s a
  else if 0x030000000000 ≤ a ∧ a < 0x030010000000 ∧ a % 0x1000000 = 0x300000 then
    rg s a % 2 ^ 16 + shadowReg s ((a - 0x030000000000) / 0x1000000)
  else rg s a

/-- The oldest entry of block b's BIC_CICQ removed (R455). -/
def popCicq (s : State) (b : Nat) : State :=
  { s with irq := { s.irq with cicq := mapSet [] b (mapGet [] b s.irq.cicq).tail s.irq.cicq } }

/-- What a consuming read of the bits msk of the register at address a does besides: the RC fields whose value it returned
clear, an RSE field acts (R7, R400). -/
def consumed (s : State) (a msk : Nat) : State :=
  if inWin a ∧ winOff a = 0x780200 then popCicq s (winBlk a)
  else match cardAt a with
    | none => s
    | some c =>
      let m := c.fields.foldl (fun m f => if f.2.2 = .rc then m + fldMask f.1 f.2.1 else m) 0
      let m := Nat.land m msk
      if m = 0 then s else
      let s := setRg s a (Nat.land (rg s a) (2 ^ 64 - 1 - m))
      if R.SPW_WARN 0 ≤ a ∧ a < R.SPW_WARN 16 ∧ (a - R.SPW_WARN 0) % 0x20 = 0 then
        setF (setF s a R.SPW_WARN_FIRST 0) (a + 0x10) R.SPW_WLAST_LAST 0 else s

/-- CONSUME_READ (R7): the read of a register that is not a quiet Awl read. -/
def execConsumeRead (_i : Initiator) (a : Addr) (s : State) : Host.Outcome State Fault Refusal :=
  .next (if regThere s a.toNat then
    consumed (emit s (.regRead a.toNat (BitVec.ofNat 64 (readReg s a.toNat)))) a.toNat (2 ^ 64 - 1) else s)

end Sys2Proof.Machine
end

