-- ==== Sys2Proof/Machine/Target.lean ====
section
/-! DEFINITION. Where a digit address leads, the router before its target, and the flits of a packet: routing word,
payload words, check bytes (R29-R34, R346-R352). -/

namespace Sys2Proof.Machine

/-- Region offset of a DRAM digit address, and its region. -/
def dramOff (a : Nat) : Nat := a % 0x800000000
def dramRegion (a : Nat) : Nat := a / 0x800000000

/-- Position of router r: (x, y). -/
def routerXY (r : Nat) : Nat × Nat := if r < 16 then (1 + r % 4, r / 4) else if r < 20 then (0, r - 16) else (5, r - 20)

/-- The target of a digit address (R29, R346). -/
inductive Target where
  | dram (g : Nat)
  | block (b off : Nat)
  | phys (p off : Nat)
  | gateway (g off : Nat)
  | chip (off : Nat)
  /-- DRAM address a of the cascade's device j (R440) -/
  | device (j a : Nat)
  | nowhere
  deriving DecidableEq, Repr, Inhabited

/-- The device of a cascade that an address above the local map names (R440). -/
def cascadeTarget (s : State) (a : Nat) : Target :=
  let j := (a - 0x080000000000) / 0x8000000000
  if 0x080000000000 ≤ a ∧ a < 0x100000000000 ∧ s.cfg.cascade.role ≠ 0
      ∧ j < (s.cfg.cascade.w.toNat + 1) * (s.cfg.cascade.h.toNat + 1)
  then .device j ((a - 0x080000000000) % 0x8000000000) else .nowhere

/-- Where digit address a leads. -/
def targetOf (s : State) (a : Nat) : Target :=
  if a < 0x8000000000 then .dram (dramRegion a)
  else if 0x010000000000 ≤ a ∧ a < 0x010080000000 then .block ((a - 0x010000000000) / 0x1000000) (a % 0x1000000)
  else if 0x020000000000 ≤ a ∧ a < 0x020090000000 then .phys ((a - 0x020000000000) / 0x1000000) (a % 0x1000000)
  else if 0x030000000000 ≤ a ∧ a < 0x030010000000 then .gateway ((a - 0x030000000000) / 0x1000000) (a % 0x1000000)
  else if 0x040000000000 ≤ a ∧ a < 0x040000C00000 then .chip (a - 0x040000000000)
  else cascadeTarget s a

/-- What one packet may span (R348): a region's DRAM, a block window, a gateway window, a chip-control unit. -/
def spanKey (s : State) (a : Nat) : Target :=
  match targetOf s a with
  | .block b _ => .block b 0
  | .phys p _ => .phys p 0
  | .gateway g _ => .gateway g 0
  | .chip o => .chip (o / 0x100000)
  | .device j a => .device (16 * j + dramRegion a) 0
  | t => t

/-- Who may use physical windows (R31): the initiators at routers (0,0) and (0,3). -/
def physMay (i : Initiator) : Bool :=
  match i with
  | .awl | .security | .image | .controller => true
  | _ => false

/-- The position whose memories, registers and control store a block target reaches, and the offset: that of a physical
block which holds no position is its own (R31, log entry 87). -/
def targetBlk (s : State) (t : Target) : Option (Nat × Nat) :=
  match t with
  | .block b o => some (b, o)
  | .phys p o => some (((if o < 0x200000 then storeOfPhys s p else blockOfPhys s p)).getD (idleBlk p), o)
  | _ => none

/-- The power domain of a target, as its region and j: 0-8 a physical block, 9 the gateway. The memories of a folded position
stand in the failed block's own domain (R364, R366, R387). -/
def domainOf (s : State) (t : Target) : Option (Nat × Nat) :=
  match t with
  | .dram g => some (g, 9)
  | .gateway g _ => some (g, 9)
  | .block b o => (if o < 0x200000 then memPhys s b else holder s b).map fun p => (p / 9, p % 9)
  | .phys p _ => some (p / 9, p % 9)
  | _ => none

/-- The domain by which RT_ISO judges a target: a logical block window by its current holder (R364). -/
def isoDomain (s : State) (t : Target) : Option (Nat × Nat) :=
  match t with
  | .block b _ => (holder s b).map fun p => (p / 9, p % 9)
  | t => domainOf s t

/-- The region whose gateway a packet to a target meets at its router's local port 0 (R345, R346). -/
def gateOf (t : Target) : Option Nat :=
  match t with
  | .dram g => some g
  | .gateway g _ => some g
  | .block b _ => some (if idleFrom ≤ b then (b - idleFrom) / 9 else b / 8)
  | .phys p _ => some (p / 9)
  | _ => none

/-- The number of the router before a target (R346). -/
def routerFor (t : Target) : Nat :=
  match t with
  | .dram g => g
  | .gateway g _ => g
  | .block b _ => if idleFrom ≤ b then (b - idleFrom) / 9 else b / 8
  | .phys p _ => p / 9
  | .chip o => if o / 0x100000 = 8 then routerAt 0 1 else if o / 0x100000 = 9 then routerAt 0 3 else routerAt 0 0
  | _ => routerAt 0 0

/-! ### Fences (R364, R366) -/

/-- The power domain of Sluice domain j of region g. -/
def domainNo (g j : Nat) : Nat := if j = 9 then 144 + g else 9 * g + j

/-- A fence is in effect before domain j of region g. -/
def fencedDom (s : State) (g j : Nat) : Bool := decide (2 ≤ sluiceSt s g j)

/-- The fence that a packet to a target meets first: that of its router's gateway, then the block's (R345, R366). A block that
stands in a borrowed spare is reached through its own region's gateway. -/
def fenceFor (s : State) (t : Target) : Option (Nat × Nat) :=
  match gateOf t with
  | none => none
  | some h => if fencedDom s h 9 then some (h, 9) else
    match domainOf s t with
    | some (g, j) => if fencedDom s g j then some (g, j) else none
    | none => none

/-! ### The cascade's devices (R441) -/

/-- The first port on the path from this device to device j (R441). -/
def pathTo (s : State) (j : Nat) : Option Nat :=
  let (x, y) := posOf s (myIdx s)
  let (tx, ty) := posOf s j
  portTo x y tx ty

/-- The router to which a request goes: for another device, the Rein router of the first port on its path (R346, R441). -/
def destRouter (s : State) (t : Target) : Nat :=
  match t with
  | .device j _ => match pathTo s j with | some p => routerAt 5 p | none => routerFor t
  | _ => routerFor t

/-! ### Links (R361) -/

/-- LDOWN of router r's link in direction d: 0 N, 1 E, 2 S, 3 W. -/
def linkDown (s : State) (r d : Nat) : Bool := (rgF s (R.RT_LINK r) R.RT_LINK_LDOWN).testBit (3 - d)

/-- The router at which a packet from router r to router t meets a link that is down; n bounds the hops. -/
def routeStop (s : State) (n r t : Nat) : Option Nat :=
  match n with
  | 0 => none
  | n + 1 =>
    let (x, y) := routerXY r
    let (tx, ty) := routerXY t
    match portTo x y tx ty with
    | none => none
    | some d =>
      if linkDown s r d then some r else
        routeStop s n (match d with | 0 => routerAt x (y - 1) | 1 => routerAt (x + 1) y | 2 => routerAt x (y + 1) | _ => routerAt (x - 1) y) t

/-- A packet from router r to router t meets such a link. -/
def routeDown (s : State) (n r t : Nat) : Bool := (routeStop s n r t).isSome

/-! ### Flits and packets (R347, R349-R352) -/

/-- Number of a port: N, E, S, W, local 0, local 1. -/
def portNum : RPort → Nat
  | .n => 0 | .e => 1 | .s => 2 | .w => 3 | .l0 => 4 | .l1 => 5

/-- The port with a number. -/
def portNamed (k : Nat) : RPort :=
  match k with | 0 => .n | 1 => .e | 2 => .s | 3 => .w | 4 => .l0 | _ => .l1

/-- The router beside router r in direction d. -/
def routerBeside (r d : Nat) : Option Nat :=
  let (x, y) := routerXY r
  match d with
  | 0 => if 0 < y then some (routerAt x (y - 1)) else none
  | 1 => if x < 5 then some (routerAt (x + 1) y) else none
  | 2 => if y < 3 then some (routerAt x (y + 1)) else none
  | 3 => if 0 < x then some (routerAt (x - 1) y) else none
  | _ => none

/-- Word i of a flit, word 0 in the top bits. -/
def flitWord (f : Flit) (i : Nat) : Nat := f.words.toNat / 2 ^ (64 * (7 - i)) % 2 ^ 64

/-- Each HPAR bit makes its bits of the routing word even (R350). -/
def hparOk (w : Nat) : Bool :=
  (List.range 8).all fun i => ((List.range 8).foldl (fun a k => a + bits w (i + 8 * k) (i + 8 * k)) 0) % 2 == 0

/-- A routing word with its HPAR bits (R350). -/
def withHpar (w : Nat) : Nat :=
  let w := w - w % 256
  (List.range 8).foldl (fun v i =>
    v + ((List.range 7).foldl (fun a k => a + bits w (8 + i + 8 * k) (8 + i + 8 * k)) 0) % 2 * 2 ^ i) w

/-- The channel that a packet type uses (R352); none for a reserved type. -/
def typeVC (t : Nat) : Option Nat :=
  match t with
  | 0 | 1 => some 0 | 2 | 3 => some 1 | 4 => some 2 | 5 | 6 => some 3 | _ => none

/-- TYPE, LEN + 1 and STATUS of a head flit, from its words 0 and 1. -/
def headType (f : Flit) : Nat := bits (flitWord f 0) 43 40
def headLen (f : Flit) : Nat := bits (flitWord f 0) 17 8 + 1
def headStatus (f : Flit) : Nat := bits (flitWord f 1) 63 56

/-- The payload digits that a packet carries after its head flit's words 0 and 1 (R351, R352): those of a WR, of a RDRSP
with STATUS OK, and of the packets whose layout their unit sets. -/
def payloadLen (f : Flit) : Nat :=
  match headType f with
  | 1 | 4 | 5 | 6 => headLen f
  | 2 => if headStatus f = 0 then headLen f else 0
  | _ => 0

/-- The data flits that follow a head flit (R349). -/
def dataFlits (f : Flit) : Nat := if payloadLen f ≤ 16 then 0 else (payloadLen f + 127) / 128

/-- The output that router r gives a head flit (R347): a mesh port, or the local port that DPORT names. -/
def outOf (r w : Nat) : Nat :=
  let (x, y) := routerXY r
  match portTo x y (bits w 63 61) (bits w 60 59) with
  | some d => d
  | none => 4 + min 1 (bits w 58 55)

/-- A flit of eight words with their check bytes (R349). That of word 0 of a head flit covers bits [63:8]. -/
def mkFlit (head : Bool) (ws : List Nat) : Flit :=
  let w (i : Nat) : Nat := ws.getD i 0 % 2 ^ 64
  let c (i : Nat) : Nat := (Config.checkByte (BitVec.ofNat 64 (if head && i == 0 then w 0 - w 0 % 256 else w i))).toNat
  { words := BitVec.ofNat 512 ((List.range 8).foldl (fun a i => a * 2 ^ 64 + w i) 0)
    check := BitVec.ofNat 64 ((List.range 8).foldl (fun a i => a * 256 + c i) 0), head := head }

/-- Payload word j of digits: sixteen of them, the first in the top bits, unused ones 0 (R351). -/
def payloadWord (ds : List Nat) (j : Nat) : Nat := (List.range 16).foldl (fun a m => a * 16 + ds.getD (16 * j + m) 0 % 16) 0

/-- The flits of a packet with words 0 and 1 of its head flit and its payload (R349, R351). -/
def packetFlits (w0 w1 : Nat) (ds : List Nat) : List Flit :=
  if ds.length ≤ 16 then [mkFlit true [w0, w1, payloadWord ds 0]]
  else mkFlit true [w0, w1] :: (List.range ((ds.length + 127) / 128)).map fun i =>
    mkFlit false ((List.range 8).map fun j => payloadWord ds (8 * i + j))

/-- The payload digits of a packet received as its flits (R351). -/
def payloadOf (fs : List Flit) : List Nat :=
  match fs with
  | [] => []
  | h :: r =>
    let n := payloadLen h
    let ws := if n ≤ 16 then [flitWord h 2] else r.flatMap fun f => (List.range 8).map (flitWord f)
    (ws.flatMap fun w => digitsOf 16 w).take n

/-- The routing word of a packet (R350) from router r, port p to router t, port d. -/
def routeWord (t d r p type tag key len : Nat) : Nat :=
  let (x, y) := routerXY t
  let (sx, sy) := routerXY r
  withHpar (x * 2 ^ 61 + y * 2 ^ 59 + d % 16 * 2 ^ 55 + sx * 2 ^ 52 + sy * 2 ^ 50 + p % 16 * 2 ^ 46
    + (typeVC type).getD 0 * 2 ^ 44 + type * 2 ^ 40 + tag % 2 ^ 18 * 2 ^ 22 + key % 16 * 2 ^ 18 + (len - 1) % 1024 * 2 ^ 8)

/-- The local port of its router behind which a source port stands (R345): port 1 is the security unit's. -/
def localPort (r p : Nat) : Nat := if r = 16 then p % 2 else 0

/-- The port of the unit that answers at a target: the block's, or the gateway's or chip unit's port 0 (R345). -/
def targetPort (s : State) (t : Target) : Nat :=
  match domainOf s t with
  | some (_, j) => if j < 9 then 1 + j else 0
  | none => 0

/-- A request as flits (R350, R351): a RD carries no payload. -/
def requestFlits (s : State) (q : MeshReq) : List Flit :=
  packetFlits (routeWord (destRouter s (targetOf s q.addr)) 0 q.home q.sport (b2n q.wr) q.tag q.key.toNat q.len) (q.addr % 2 ^ 48)
    (if q.wr then q.data.map BitVec.toNat else [])

/-- A response as flits: it repeats the request's TAG, ADDR and LEN, and carries payload only with STATUS OK (R350,
R352). -/
def responseFlits (s : State) (q : MeshReq) (status : Nat) (ds : List Nat) : List Flit :=
  let t := targetOf s q.addr
  packetFlits (routeWord q.home (localPort q.home q.sport) (destRouter s t) (targetPort s t) (if q.wr then 3 else 2) q.tag 0 q.len)
    (status % 256 * 2 ^ 56 + q.addr % 2 ^ 48) (if status = 0 then ds else [])

/-- Flits presented to router r at a local port, in order, on a channel. -/
def presentAll (s : State) (r p vc : Nat) (fs : List Flit) : State := fs.foldl (fun s f => emit s (.present r (portNamed (4 + p)) vc f)) s

/-! ### MSG packets of the interrupt controllers (R352, R455) -/

/-- The digit address to which IRQACK messages go. -/
def ackAddr : Nat := 0x040000200000

/-- The head flit of a MSG of one payload word from router r, port p to router t. -/
def msgFlits (t r p addr word : Nat) : List Flit := packetFlits (routeWord t 0 r p 4 0 0 16) (addr % 2 ^ 48) (digitsOf 16 word)

/-- The IRQ message of CIC source n to block b leaves the CIC. -/
def presentIrq (s : State) (b n : Nat) : State :=
  presentAll s (routerAt 0 0) 0 2 (msgFlits (routerFor (.block b 0)) (routerAt 0 0) 0 (R.BIC_CICQ b) (2 ^ 56 + n))

/-- The IRQACK of block b with a status leaves its router. -/
def presentAck (s : State) (b n st : Nat) : State :=
  let t := Target.block b 0x780200
  presentAll s (routerFor t) 0 2 (msgFlits (routerAt 0 0) (routerFor t) (targetPort s t) ackAddr (2 * 2 ^ 56 + st * 2 ^ 48 + n))

end Sys2Proof.Machine
end

