-- ==== Sys2Proof/Machine/Request.lean ====
section
/-! DEFINITION. Mesh requests as initiators send them: the router whose tracker gives the tag, the tag count, and the
request in flight (R345, R359). -/

namespace Sys2Proof.Machine

/-- The region through whose router block b's sequencer and DMA channels reach the mesh: the one that serves its holder
(R345). -/
def portRegion (s : State) (b : Nat) : Nat := match holder s b with | some p => p / 9 | none => b / 8

/-- The source port at that router: 1 + j for physical block j (R345). -/
def portOf (s : State) (b : Nat) : Nat := match holder s b with | some p => 1 + p % 9 | none => 0

/-- The router whose tracker issues the tags of an initiator, and its source port there (R345, R359); a host request
leaves through the router that bit 10 of its address names (R402). -/
def trackerOf (s : State) (i : Initiator) (addr : Nat) : Nat × Nat :=
  match i with
  | .seq b => (portRegion s b.toNat, portOf s b.toNat)
  | .dma b _ => (portRegion s b.toNat, portOf s b.toNat)
  | .host _ => (routerAt 0 (1 + bits addr 10 10), 0)
  | .awl => (routerAt 0 3, 0)
  | .security => (routerAt 0 0, 1)
  | .image => (routerAt 0 0, 0)
  | .controller => (routerAt 0 0, 0)
  | .rein d => (routerAt 5 (d.toNat % 4), 0)

/-- The tracker that issues the tags of router r, by its first router: the host interface has one behind both of its
routers (R359). -/
def trackerHome (r : Nat) : Nat := if r = 18 then 17 else r

/-- How many tags the requests that leave through router r may have: each of the host interface's routers has its half of that
tracker's (R359, R402, R441). -/
def tagCap (r : Nat) : Nat := if r < 16 then 16384 else if trackerHome r = 17 then 16384 else if r < 20 then 64 else 2048

/-- The first TAG of the requests that leave through router r: TAG[17:14] names the region of a gateway (R359, R402). -/
def tagBase (r : Nat) : Nat := if r < 16 then 16384 * r else if r = 18 then 16384 else 0

/-- The tags in use at router r: a tag is held from its allocation to the arrival of its response (R359, R360). -/
def tagsIn (s : State) (r : Nat) : List Nat :=
  (s.mesh.flight.filter fun q => !q.untagged && q.home == r).map MeshReq.tag
    ++ (s.mesh.resps.filter fun x => x.req.home == r).map fun x => x.req.tag
def tagsUsed (s : State) (r : Nat) : Nat := (tagsIn s r).length

/-- The routers behind which the tracker of router r stands. -/
def trackerRouters (r : Nat) : List Nat := if trackerHome r = 17 then [17, 18] else [r]

/-- The lowest free TAG of router r's tracker. -/
def newTag (s : State) (r : Nat) : Nat :=
  let used := tagsIn s r
  tagBase r + (((List.range (used.length + 1)).find? fun n => !used.contains (tagBase r + n)).getD 0)

/-- RT_TAGS of the routers of router r's tracker shows its tags in use, and the largest number since its last read (R373). -/
def showTags (s : State) (r : Nat) : State :=
  let n := ((trackerRouters r).map (tagsUsed s)).sum
  forEach (trackerRouters r) (fun s r =>
    let s := setF s (R.RT_TAGS r) R.RT_TAGS_INUSE n
    if rgF s (R.RT_TAGS r) R.RT_TAGS_HIGH < n then setF s (R.RT_TAGS r) R.RT_TAGS_HIGH n else s) s

/-- The partition to which an initiator's request belongs; the host stands outside every partition (R381). -/
def initPart (s : State) (i : Initiator) : Option Nat :=
  match i with
  | .seq b => partOf s b.toNat
  | .dma b _ => partOf s b.toNat
  | _ => none

/-- The device of the cascade that an address above the local map names, and whether it is this one (R440). -/
def ownDevice (s : State) (addr : Nat) : Bool :=
  decide (s.cfg.cascade.role ≠ 0) && decide (0x080000000000 ≤ addr) && decide (addr < 0x100000000000)
    && (addr - 0x080000000000) / 0x8000000000 == myIdx s

/-- The digit address as a request's sender gave it. -/
def askedAddr (s : State) (q : MeshReq) : Nat := if q.own then 0x080000000000 + 0x8000000000 * myIdx s + q.addr else q.addr

/-- The power domain of the block from which a request comes is fenced (R367). -/
def ownFence (s : State) (i : Initiator) : Bool :=
  let at_ (b : Nat) : Bool := match holder s b with | some p => fencedDom s (p / 9) (p % 9) | none => false
  match i with
  | .seq b => at_ b.toNat
  | .dma b _ => at_ b.toNat
  | _ => false

/-- ISO of router r, bit n, as it stands for request q: a router that has changed it since q entered its queues still
handles q under the old one (R370). -/
def isoBit (s : State) (q : MeshReq) (r n : Nat) : Bool :=
  match (if routerFor (targetOf s q.addr) = r then q.old else none) with
  | some (iso, _) => iso.getLsbD n
  | none => (rgF s (R.RT_ISO r) R.RT_ISO_ISO).testBit n

/-- The router whose RT_ISO isolates the target of request q, if one does (R364). -/
def isolated (s : State) (q : MeshReq) (t : Target) : Option Nat :=
  match t with
  | .chip _ | .device _ _ => if isoBit s q (destRouter s t) 0 then some (destRouter s t) else none
  | _ => match isoDomain s t with
    | some (g, j) => if isoBit s q g 0 || (decide (j < 9) && isoBit s q g (1 + j)) then some g else none
    | none => none

/-- Source port p at router r is isolated (R364): its gateway, its block, or its local port at another router. -/
def portCut (s : State) (r p : Nat) : Bool :=
  let iso (n : Nat) : Bool := (rgF s (R.RT_ISO r) R.RT_ISO_ISO).testBit n
  if r < 16 then iso 0 || (decide (p ≠ 0) && iso p) else iso (localPort r p)

/-- The packet counts in RT_ISO.ABSORB of router r. -/
def absorb (s : State) (r : Nat) : State := addSat s (R.RT_ISO r) R.RT_ISO_ABSORB 1

/-- The source router of a head flit, and the router it goes to (R350). -/
def headSource (f : Flit) : Nat := routerAt (bits (flitWord f 0) 54 52) (bits (flitWord f 0) 51 50)
def headDest (f : Flit) : Nat := routerAt (bits (flitWord f 0) 63 61) (bits (flitWord f 0) 60 59)

/-- The transaction of a head flit (R359): the request in flight of a RD or WR, the response on its way of the others. -/
def headReq (s : State) (f : Flit) : Option MeshReq :=
  if 2 ≤ headType f then none else
  s.mesh.flight.find? fun q => !q.untagged && !q.fenced && !q.done && q.seq == 0 && q.home == headSource f
    && q.sport == bits (flitWord f 0) 49 46 && q.tag == bits (flitWord f 0) 39 22
def headResp (s : State) (f : Flit) : Option MeshResp :=
  if headType f ≠ 2 ∧ headType f ≠ 3 then none else
  s.mesh.resps.find? fun x => trackerHome x.req.home == trackerHome (headDest f) && x.req.tag == bits (flitWord f 0) 39 22

/-- A request leaves its source as the flits of its packet (R349-R351, R359); behind its domain's fence it waits
(R367), and one that its source router answers enters no link (R346). -/
def leave (s : State) (q : MeshReq) : State :=
  if q.untagged || q.fenced || q.dead || targetOf s q.addr == .nowhere then s
  else presentAll s q.home (localPort q.home q.sport) 0 (requestFlits s q)

/-- A request of initiator i, of partition part, leaves: with a tag when one is free, else it waits for one (R359). Its number
is that of the state before. -/
def sendFor (s : State) (part : Option Nat) (i : Initiator) (wr : Bool) (addr len key : Nat) (quiet : Bool) (data : List Nat) :
    State :=
  let own := ownDevice s addr
  let addr := if own then (addr - 0x080000000000) % 0x8000000000 else addr
  let (r, p) := trackerOf s i addr
  let full := decide (tagCap r ≤ tagsUsed s r)
  let q : MeshReq :=
    { id := s.mesh.nextId, src := i, part := part, wr := wr, addr := addr, len := len, key := BitVec.ofNat 4 key,
      quiet := quiet, data := data.map (BitVec.ofNat 4), untagged := full, own := own, home := r, sport := p,
      tag := if full then 0 else newTag s r, sent := s.nclk, taken := s.nclk, fenced := ownFence s i }
  let s := { s with mesh := { s.mesh with nextId := s.mesh.nextId + 1, flight := s.mesh.flight ++ [q] } }
  if full then addSat s (R.RT_TAGS r) R.RT_TAGS_WAITS 1 else leave (showTags s r) q

/-- A request of an initiator of this device. -/
def sendReq (s : State) (i : Initiator) (wr : Bool) (addr len key : Nat) (quiet : Bool) (data : List Nat) : State :=
  sendFor s (initPart s i) i wr addr len key quiet data

/-- The oldest request that waits for a tag takes one, and leaves (R359). -/
def takeTag (s : State) (q : MeshReq) : State :=
  let q1 := { q with untagged := false, tag := newTag s q.home, sent := s.nclk, taken := s.nclk }
  leave (showTags { s with mesh := { s.mesh with flight := (s.mesh.flight.filter fun r => r.id != q.id) ++ [q1] } } q.home) q1

/-- The request of a number in flight. -/
def reqOf (s : State) (id : Nat) : Option MeshReq := s.mesh.flight.find? fun q => q.id == id

/-- The requests of an initiator that satisfies p which have not been answered to it. -/
def reqsOut (s : State) (p : Initiator → Bool) : Nat :=
  (s.mesh.flight.filter fun q => p q.src && !q.timedOut && !q.dead && q.logOf.isNone).length
    + (s.mesh.resps.filter fun q => p q.req.src && !q.req.timedOut && !q.req.dead && q.req.logOf.isNone).length

/-- MKEY.OUTST of block b follows its outstanding requests (R267). -/
def showOutst (s : State) (b : Nat) : State :=
  setF s (R.MKEY b) R.MKEY_OUTST (reqsOut s fun i => i == .seq (BitVec.ofNat 7 b))

/-- Whether a peripheral of block b is frozen: the block is halted or stopped, and either its partition is large, or the
whole chip is stopped, or the bit of DBG_CTRL says so (R513). -/
def frozen (s : State) (b : Nat) (f : Fld) : Bool :=
  halted s b && (s.dbg.chipStop || rgB s (R.DBG_CTRL b) f
    || match partOf s b with | some n => decide (5 ≤ (regionsOf s n).length) | none => false)

end Sys2Proof.Machine
end

