-- ==== Sys2Proof/Machine/Memory.lean ====
section
/-! DEFINITION. Turn memories, scratchpads and the maintenance of DRAM: corrections, collisions, write-back, scrub, row
sparing, lane retirement (R310-R326). -/

namespace Sys2Proof.Machine

/-! ### Responses (R353) -/

/-- Request q in flight as f changes it. -/
def updReq (s : State) (q : MeshReq) (f : MeshReq → MeshReq) : State :=
  { s with mesh := { s.mesh with flight := s.mesh.flight.map fun r => if r.id = q.id then f r else r } }

/-- The router at which a request is answered: its target's, or its own where no packet enters a link (R346). -/
def answerRouter (s : State) (q : MeshReq) : Nat :=
  match targetOf s q.addr with
  | .nowhere => q.home
  | t => destRouter s t

/-- The source port of an answer at router r (R345): the target's, where it is the target's router that answers. -/
def answerPort (s : State) (r : Nat) (q : MeshReq) : Nat :=
  if r = destRouter s (targetOf s q.addr) then targetPort s (targetOf s q.addr) else 0

/-- A request is answered at router r: it leaves the flight list and its response is on its way, as the flits of its packet
unless its own router gives it for another (R346). One that no link carries back is lost, and its tag stays taken (R360,
R361). -/
def respondAt (s : State) (r : Nat) (q : MeshReq) (status : Nat) (data : List Nat) : State :=
  if routeDown s 9 r q.home then updReq s q fun x => { x with done := true }
  else
    let s := { s with mesh := { s.mesh with
      flight := s.mesh.flight.filter fun x => x.id != q.id
      resps := s.mesh.resps ++ [{ id := q.id, req := q, status := BitVec.ofNat 8 status, data := data.map (BitVec.ofNat 4)
                                  via := (r, answerPort s r q) }] } }
    if targetOf s q.addr = .nowhere ∨ (r = q.home ∧ r ≠ answerRouter s q) then s
    else presentAll s r 0 1 (responseFlits s q status data)

/-- A request is answered at its target. -/
def respond (s : State) (q : MeshReq) (status : Nat) (data : List Nat) : State :=
  respondAt s (answerRouter s q) q status data

/-- A response never reaches its tracker: its tag stays taken (R360, R364). -/
def loseResp (s : State) (x : MeshResp) : State :=
  { s with mesh := { s.mesh with resps := s.mesh.resps.filter fun y => y.id != x.id
                                 flight := s.mesh.flight ++ [{ x.req with done := true }] } }

/-- The tags of timed-out requests that satisfy p are freed, and their late responses with them (R360). -/
def freeTags (s : State) (p : MeshReq → Bool) : State :=
  let hit (q : MeshReq) : Bool := q.timedOut && p q
  let homes := ((s.mesh.flight.filter hit).map MeshReq.home ++ (s.mesh.resps.filter fun x => hit x.req).map fun x => x.req.home)
  if homes.isEmpty then s else
  homes.foldl showTags { s with mesh := { s.mesh with flight := s.mesh.flight.filter fun q => !hit q
                                                      resps := s.mesh.resps.filter fun x => !hit x.req } }

/-- After bits of RT_ISO have been set (R364): the requests queued for a target that is now isolated are answered with
TARGET_ISOLATED and count; those that had reached it are left to their trackers; the tags of those that had timed out are
freed (R360). -/
def sweepIso (s : State) : State :=
  let cut (q : MeshReq) : Bool := (isolated s q (targetOf s q.addr)).isSome
  let s := freeTags s cut
  let hit := s.mesh.flight.filter fun q => q.seq != 0 && !q.done && cut q
  hit.foldl (fun s q =>
    if q.atPort || q.parked then updReq s q fun x => { x with done := true, atPort := false, parked := false }
    else match isolated s q (targetOf s q.addr) with
      | some r => respond (absorb s r) q 5 []
      | none => s) s

/-! ### Errors in block memories (R322, R325, R326) -/

/-- Upsets strike words of block b's scratchpad or turn memory. What a word with two wrong bits reads as is a free
value. -/
def strikeMem (s : State) (b : Nat) (turn : Bool) (u : List MemUpset) : State :=
  u.foldl (fun s x =>
    let a := bwin b + (if turn then 0x100000 + 16 * x.word.toNat else 16 * (x.word.toNat % 32768))
    if x.double || mapHas (a / 16) s.flaws then
      let v := freeNat s
      let s := takeFree s
      { s with mem := memWrite s.mem a (digitsOf 16 v), flaws := mapPut (a / 16) true s.flaws }
    else { s with flaws := mapPut (a / 16) false s.flaws }) s

/-- A corrected word is rewritten: its error is gone. -/
def wordMend (s : State) (key : Nat) : State :=
  if mapGet true key s.flaws then s else { s with flaws := mapErase key s.flaws }

/-- TURN_WRITEBACK (R322): a corrected turn word is rewritten. -/
def execTurnWriteback (b : Blk) (s : State) : Host.Outcome State Fault Refusal :=
  let b := b.toNat
  .next (match (seqOf s b).tmWb with
    | [] => s
    | w :: r => wordMend (updSeq s b fun q => { q with tmWb := r }) w)

/-- SCRATCHPAD_WRITEBACK (R325). -/
def execScratchpadWriteback (b : Blk) (s : State) : Host.Outcome State Fault Refusal :=
  let b := b.toNat
  .next (match (seqOf s b).spWb with
    | [] => s
    | w :: r => wordMend (updSeq s b fun q => { q with spWb := r }) w)

/-! ### Turn port B (R18, R319, R320) -/

/-- The digit address of a turn line of block b. -/
def lineAddr (b line : Nat) : Nat := 0x100000 + bwin b + 256 * line

/-- A line's 1,024 bits, digit 0 of the line in the top bits (R351). -/
def lineVal (s : State) (b line : Nat) : Nat := readVal s (lineAddr b line) 256

/-- Bits old with those of mask taken from data. -/
def maskIn (old mask data : Nat) : Nat := Nat.lor (Nat.land old (2 ^ 1024 - 1 - mask)) (Nat.land data mask)

/-- The bits of turn word w of a line. -/
def wordMask (w : Nat) : Nat := (2 ^ 64 - 1) * 2 ^ (64 * (15 - w % 16))

/-- The turn words of a line that a mask touches. -/
def wordsOf (mask : Nat) : List Nat := (List.range 16).filter fun w => Nat.land mask (wordMask w) != 0

/-- A line written under a mask: the turn words that the mask touches get new check bits, and no other (R319). -/
def lineWrite (s : State) (b line mask data : Nat) : State :=
  let v := maskIn (lineVal s b line) mask data
  (wordsOf mask).foldl (fun s w => writeVal s (lineAddr b line + 16 * w) 16 (v / 2 ^ (64 * (15 - w)) % 2 ^ 64)) s

/-- Port A writes its line, if it writes one. -/
def portAWrite (s : State) (b : Nat) (a : Option PortA) : State :=
  match a with
  | some a => lineWrite s b a.line.toNat a.mask.toNat a.data.toNat
  | none => s

/-- Port B writes a line under a mask while port A may write: port A's word writes prevail (R320). -/
def portBWrite (s : State) (b line mask data : Nat) (a : Option PortA) : State :=
  let hit := match a with
    | some a => if a.line.toNat = line then (wordsOf mask).filter fun w => (wordsOf a.mask.toNat).contains w else []
    | none => []
  let s := lineWrite (portAWrite s b a) b line (hit.foldl (fun m w => m - Nat.land m (wordMask w)) mask) data
  match hit.getLast? with
  | none => s
  | some w =>
    let e := R.MEM_ECC b
    setB (setF (addSat s e R.MEM_ECC_COLL hit.length) e R.MEM_ECC_CWORD (16 * line + w)) e R.MEM_ECC_COLLV true

/-- The mask and the data, as line bits, of digits from digit k of a line on. -/
def lineBits (k : Nat) (ds : List Nat) : Nat × Nat :=
  let sh := 2 ^ (4 * (256 - k - ds.length))
  ((16 ^ ds.length - 1) * sh, digitsVal ds * sh)

/-! ### DRAM (R307-R317) -/

/-- The row of a DRAM digit address: its first digit (R315). -/
def rowOf (a : Nat) : Nat := a - a % 4096

/-- A row must be spared: its copy starts, after those that wait in its region; with no spare left the code alone protects
it (R315). -/
def spareRow (s : State) (row : Nat) : State :=
  let g := dramRegion row
  let l := mapGet [] g s.dram.copying
  if l.contains row || decide (512 ≤ (mapGet [] g s.dram.rows).length + l.length) then s
  else { s with dram := { s.dram with copying := mapPut g (l ++ [row]) s.dram.copying } }

/-- The retired lanes of region g (R316). -/
def retiredLanes (s : State) (g : Nat) : List Nat :=
  let a := R.DRAM_LANE g
  (if rgB s a R.DRAM_LANE_L0V then [rgF s a R.DRAM_LANE_LANE0] else [])
    ++ (if rgB s a R.DRAM_LANE_L1V then [rgF s a R.DRAM_LANE_LANE1] else [])

/-- A lane, symbol position p of region g's port, is corrected once more: retired beyond 4,096 times in a scrub pass,
two at most (R316). -/
def countLane (s : State) (g p : Nat) : State :=
  let k := 128 * g + p
  let n := mapGet 0 k s.dram.laneCnt + 1
  let s := { s with dram := { s.dram with laneCnt := mapPut k n s.dram.laneCnt } }
  let a := R.DRAM_LANE g
  if n ≠ 4097 then s
  else if (retiredLanes s g).contains p then s
  else
    let jr (s : State) := journal s 8 6 ((partOfRegion s g).getD 0) (0x100 + g) p 0
    if !rgB s a R.DRAM_LANE_L0V then jr (setB (setF s a R.DRAM_LANE_LANE0 p) a R.DRAM_LANE_L0V true)
    else if !rgB s a R.DRAM_LANE_L1V then jr (setB (setF s a R.DRAM_LANE_LANE1 p) a R.DRAM_LANE_L1V true)
    else setB s a R.DRAM_LANE_L2EX true

/-- The symbols that a decode takes for wrong. -/
def findSyms (u : DramFind) : List (Fin 74) := match u with | .errors l => l | .miscorrected _ l => l

/-- The symbols in which the decode of a word of region g finds errors: a retired lane is an erasure (R312). -/
def wrongSyms (s : State) (g : Nat) (l : List (Fin 74)) : List Nat :=
  ((l.map fun p => p.val).filter fun p => !(retiredLanes s g).contains p).eraseDups

/-- The most symbols that the code corrects in region g (R312). -/
def correctable (s : State) (g : Nat) : Nat := if (retiredLanes s g).isEmpty then 5 else 4

/-- The decode corrects the symbols l of the DRAM word at digit address a (R312, R315, R316). scrub: the scrub writes the
corrected word back itself. -/
def dramCorrect (s : State) (a : Nat) (l : List Nat) (scrub : Bool) : State :=
  let g := dramRegion a
  let e := R.DRAM_ECC g
  let word := dramOff a / 128
  let s := setB (addSat s e R.DRAM_ECC_CEW 1) e R.DRAM_ECC_CEV true
  let s := setRg s (R.DRAM_ELOG g) (l.length * 2 ^ 60 + word)
  let s := warnCorrected s (0x100 + g) ((partOfRegion s g).getD 0)
  let s := forEach l (fun s p => countLane s g p) s
  let s := if scrub then s else
    { s with dram := { s.dram with wb := mapPut g (setAdd word (mapGet [] g s.dram.wb)) s.dram.wb } }
  if 3 ≤ l.length then spareRow s (rowOf a) else s

/-- The decode cannot correct the DRAM word at digit address a (R313). -/
def dramFail (s : State) (a : Nat) : State :=
  let g := dramRegion a
  let e := R.DRAM_ECC g
  let s := setB (setB (addSat s e R.DRAM_ECC_UEW 1) e R.DRAM_ECC_UE true) e R.DRAM_ECC_CEV true
  let s := setRg s (R.DRAM_ELOG g) (15 * 2 ^ 60 + dramOff a / 128)
  raiseCheck s 6 (0x100 + g) (a - a % 128) ((partOfRegion s g).getD 0)

/-- What the decode of the DRAM word at digit address a finds (R312-R316); whether its data can be delivered. -/
def dramDecode (s : State) (a : Nat) (u : DramFind) (scrub : Bool) : State × Bool :=
  let g := dramRegion a
  let l := wrongSyms s g (findSyms u)
  if correctable s g < l.length then (dramFail s a, false)
  else
    let s := match u with
      | .errors _ => s
      | .miscorrected v _ => { s with mem := memWrite s.mem (a - a % 128) (digitsOf 128 v.toNat) }
    (if l.isEmpty then s else dramCorrect s a l scrub, true)

/-- A copy of the words from digit address a on has been read: what the decode of each finds; whether all can be delivered. -/
def copyDecodes (s : State) (a : Nat) (l : List (BitVec 10 × DramFind)) : State × Bool :=
  l.foldl (fun (p : State × Bool) e =>
    let r := dramDecode p.1 (a + 128 * e.1.toNat) e.2 false
    (r.1, p.2 && r.2)) (s, true)

/-- DRAM_ZEROING_DONE (R310): both regions of controller k read 0. -/
def execDramZeroingDone (k : BitVec 3) (s : State) : Host.Outcome State Fault Refusal :=
  let k := k.toNat
  .next (if !s.dram.zeroing.getLsbD k then s else
    { s with dram := { s.dram with zeroing := s.dram.zeroing &&& ~~~(BitVec.twoPow 8 k)
                                   fresh := s.dram.fresh &&& ~~~(BitVec.twoPow 8 k) }
             mem := mapDrop (fun a => decide (0x800000000 * k ≤ a) && decide (a < 0x800000000 * (k + 1))) s.mem })

/-- DRAM_WRITEBACK (R312): the oldest corrected codeword of region g is written back. -/
def execDramWriteback (g : Rgn) (s : State) : Host.Outcome State Fault Refusal :=
  let g := g.toNat
  .next { s with dram := { s.dram with wb := mapSet [] g (mapGet [] g s.dram.wb).tail s.dram.wb } }

/-- The end of a scrub pass of region g (R314-R316). -/
def endPass (s : State) (g : Nat) : State :=
  let s := setF s (R.DRAM_SCRUB g) R.DRAM_SCRUB_PASSES ((rgF s (R.DRAM_SCRUB g) R.DRAM_SCRUB_PASSES + 1) % 2 ^ 32)
  { s with dram := { s.dram with
      lastRows := mapSet [] g (mapGet [] g s.dram.passRows) s.dram.lastRows
      passRows := mapSet [] g [] s.dram.passRows
      laneCnt := mapDrop (fun k => k / 128 == g) s.dram.laneCnt } }

/-- A request waits at the DRAM port of region g. -/
def portTaken (s : State) (g : Nat) : Bool :=
  s.mesh.flight.any fun q => q.atPort && !q.parked && !q.dead && q.addr / 0x800000000 == g

/-- PATROL_SCRUB_READ (R314): the next word of region g is read while no request waits, and written back if it was
corrected. -/
def execPatrolScrubRead (g : Rgn) (u : DramFind) (s : State) : Host.Outcome State Fault Refusal :=
  let g := g.toNat
  .next (if !rgB s (R.DRAM_SCRUB g) R.DRAM_SCRUB_EN || s.dram.zeroing.getLsbD (g / 2) || portTaken s g then s else
    let w := mapGet 0 g s.dram.scrub
    let a := 0x800000000 * g + 128 * w
    let (s1, ok) := dramDecode s a u true
    let fixed := ok && !(wrongSyms s g (findSyms u)).isEmpty
    let seen := (mapGet [] g s1.dram.lastRows).contains (rowOf a)
    let s2 := if !fixed then s1 else
      { s1 with dram := { s1.dram with passRows := mapPut g (setAdd (rowOf a) (mapGet [] g s1.dram.passRows)) s1.dram.passRows } }
    let s3 := if fixed && seen then spareRow s2 (rowOf a) else s2
    let s4 := { s3 with dram := { s3.dram with scrub := mapSet 0 g ((w + 1) % 2 ^ 28) s3.dram.scrub } }
    if w + 1 = 2 ^ 28 then endPass s4 g else s4)

/-- ROW_SPARE_COPY_DONE (R312, R315): the row, read through the decoder, stands in its spare, to which its address is redirected,
and the next copy of the region starts. -/
def execRowSpareCopyDone (c : DramCopy) (s : State) : Host.Outcome State Fault Refusal :=
  let g := c.g.toNat
  .next (match mapGet [] g s.dram.copying with
    | [] => s
    | row :: rest =>
      let s := (copyDecodes s row (c.finds.filter fun e => decide (e.1.toNat < 32))).1
      let rows := mapGet [] g s.dram.rows ++ [row]
      let s := { s with dram := { s.dram with copying := mapSet [] g rest s.dram.copying, rows := mapPut g rows s.dram.rows } }
      let s := setF s (R.DRAM_ECC g) R.DRAM_ECC_SPROWS rows.length
      let s := journal s 7 6 ((partOfRegion s g).getD 0) (0x100 + g) 0 row
      let s := warnOp s 4 (0x100 + g) ((partOfRegion s g).getD 0) true
      if rows.length = 512 then cicRise s (setB s (R.DRAM_ECC g) R.DRAM_ECC_SPFULL true) (32 + g) else s)

end Sys2Proof.Machine
end

