-- ==== Sys2Proof/Machine/Keys.lean ====
section
/-! DEFINITION. Storage keys: the check of a request, the key bytes' own addresses, KU_RANGE and the reload of a
gateway's key bytes (R329-R336). -/

namespace Sys2Proof.Machine

/-- Bits TCH and WR of chip frame fr set. -/
def markFrame (s : State) (fr : Nat) (store : Bool) : State :=
  let v := Nat.lor (keyByte s fr) (if store then 0x60 else 0x20)
  if v = keyByte s fr then s else setKeyByte s fr v

/-- The chip frames that n digits at DRAM digit address a touch. -/
def framesOf (a n : Nat) : List Nat := (List.range ((a + n - 1) / 0x20000 + 1 - a / 0x20000)).map fun i => a / 0x20000 + i

/-- Whether access key k may store to, or fetch from, frame fr (R330). -/
def keyAllows (s : State) (fr k : Nat) (store : Bool) : Bool :=
  let v := keyByte s fr
  k == 0 || k == v % 16 || (!store && v.testBit 4)

/-- A refusal is counted and logged in KU_VIOL. -/
def keyViolation (s : State) (k : Nat) (store : Bool) (addr : Nat) : State :=
  let s := addSat s R.KU_VIOL R.KU_VIOL_COUNT 1
  let s := setF (setF s R.KU_VIOL R.KU_VIOL_KEY k) R.KU_VIOL R.KU_VIOL_STORE (b2n store)
  setF s R.KU_VIOL R.KU_VIOL_ADDR (addr % 2 ^ 48)

/-- A key byte of chip frame fr fails its parity (R334). -/
def keyParityError (s : State) (fr : Nat) : State :=
  let g := fr / 262144
  let a := R.KEY_ERR g
  let s := setF (addSat s a R.KEY_ERR_PE 1) a R.KEY_ERR_FRAME (fr % 262144)
  raiseCheck (setB s a R.KEY_ERR_PEV true) 7 (0x100 + g) (0x20000 * fr) ((partOfRegion s g).getD 0)

/-- Whether an initiator's accesses leave TCH and WR alone (R332). -/
def keyless (i : Initiator) : Bool := i == .image || i == .controller

/-! ### The key store (R333) -/

/-- The key byte address of frame f of region g. -/
def keyAddr (g f : Nat) : Nat := 0x200000 + gwin g + 2 * f

/-- Whether an access to the key store at offset o, n digits, keeps the rule. -/
def keyRule (o n : Nat) : Bool :=
  o % 2 == 0 && n % 2 == 0 && decide (2 ≤ n) && decide (n ≤ 16) && decide (o + n ≤ 0x80000)

/-- Key bytes of region g from store offset o written: LOCK, RDO and TCH take effect. -/
def putKeys (s : State) (g o : Nat) (bs : List Nat) : State :=
  forEach (List.range bs.length) (fun s i =>
    let fr := 262144 * g + o / 2 + i
    setKeyByte s fr (putBits (keyByte s fr) 5 0 (bs.getD i 0))) s

/-- A write of the key store of region g at store offset o with access key k: its mesh status. -/
def keyStoreWrite (s : State) (g o : Nat) (bs : List Nat) (k : Nat) : State × Nat :=
  if keyRule o (2 * bs.length) && k == 0 then (putKeys s g o bs, 0)
  else (keyViolation s k true (0x200000 + gwin g + o), 2)

/-- A read of n digits of the key store of region g at store offset o: the digits, or the refusal. -/
def keyStoreRead (s : State) (g o n k : Nat) : State × Nat × List Nat :=
  if keyRule o n then
    (s, 0, (List.range (n / 2)).flatMap fun i => let v := keyByte s (262144 * g + o / 2 + i); [v / 16, v % 16])
  else (keyViolation s k false (0x200000 + gwin g + o), 2, [])

/-- KEY_BYTE_WRITE (R333): off is the store offset. -/
def execKeyByteWrite (g : Rgn) (off : BitVec 20) (data : List Byte) (key : BitVec 4) (s : State) :
    Host.Outcome State Fault Refusal :=
  .next (keyStoreWrite s g.toNat off.toNat (data.map BitVec.toNat) key.toNat).1

/-! ### KU_RANGE (R336) -/

/-- LOCK and RDO of the frames of a KU_RANGE value set; TCH cleared with RCLR. -/
def setRange (s : State) (v : Nat) : State :=
  let last := bits v 43 22
  let first := bits v 21 0
  let f (o : Nat) : Nat :=
    let o := putBits o 4 0 (bits v 51 51 * 16 + bits v 55 52)
    if v.testBit 62 then putBits o 5 5 0 else o
  forEach (List.range (last + 1 - first)) (fun s i => setKeyByte s (first + i) (f (keyByte s (first + i)))) s

/-- A write of KU_RANGE with access key k. -/
def kuWrite (s : State) (k v : Nat) : State :=
  if rgB s R.KU_RANGE R.KU_RANGE_GO then s
  else if k ≠ 0 then keyViolation s k true R.KU_RANGE
  else
    let s := setRg s R.KU_RANGE (Nat.land v 0x40F80FFFFFFFFFFF)
    if !v.testBit 63 || decide (bits v 43 22 < bits v 21 0) then s
    else { setB (setRange s v) R.KU_RANGE R.KU_RANGE_GO true with dram := { s.dram with kuBusy := true } }

/-- KU_RANGE_GO (R336): KU_RANGE written with an access key. -/
def execKuRangeGo (key : BitVec 4) (v : Word) (s : State) : Host.Outcome State Fault Refusal := .next (kuWrite s key.toNat v.toNat)

/-- KU_RANGE_DONE (R336). -/
def execKuRangeDone (s : State) : Host.Outcome State Fault Refusal :=
  .next { setB s R.KU_RANGE R.KU_RANGE_GO false with dram := { s.dram with kuBusy := false } }

/-- KEY_RELOAD_DONE (R335): LOCK and RDO stand as the mirror keeps them, TCH and WR at 0; requests proceed. A mirror byte that
cannot be corrected is an event of R390. -/
def execKeyReloadDone (r : KeyReload) (s : State) : Host.Outcome State Fault Refusal :=
  let g := r.g.toNat
  .next (if !s.dram.reload.getLsbD g then s else
    let s := { s with dram := { s.dram with reload := s.dram.reload &&& ~~~(BitVec.twoPow 16 g) } }
    match (if r.bad then partOfRegion s g else none) with
    | some n => concealmentLost s n 7 (0x100 + g) 0
    | none => s)

end Sys2Proof.Machine
end

