-- ==== Sys2Proof/Machine/Topology.lean ====
section
/-! DEFINITION. Where the X that a cell selects comes from: neighbours, edge modes, chains, links, express lanes and
broadcast nets (R53, R54, R61-R66, R98-R100, R104, R436). -/

namespace Sys2Proof.Machine

/-- Where a value that enters a cell comes from. -/
inductive Src where
  /-- the cell of block b at index i -/
  | cell (b i : Nat)
  /-- a fixed value -/
  | bit (v : Bool)
  /-- a value that the spec leaves undefined (R66) -/
  | undef
  /-- bit j of the edge data of a key: what arrives from another device of the cascade (R435, R436) -/
  | edge (key j : Nat)
  deriving DecidableEq, Repr

/-- Column and row of logical block b among the 16 x 8 blocks (R12). -/
def blkX (b : Nat) : Nat := 4 * (b / 8 % 4) + b % 4
def blkY (b : Nat) : Nat := 2 * (b / 32) + b % 8 / 4
/-- The logical block at column x, row y. -/
def blkAt (x y : Nat) : Nat := 8 * (4 * (y / 2) + x / 4) + 4 * (y % 2) + x % 4

/-- The rectangle of block columns and rows of partition n: x0, x1, y0, y1. -/
def rectOf (s : State) (n : Nat) : Nat × Nat × Nat × Nat :=
  let rs := regionsOf s n
  let xs := rs.map (· % 4)
  let ys := rs.map (· / 4)
  (4 * xs.foldl min 3, 4 * xs.foldl max 0 + 3, 2 * ys.foldl min 3, 2 * ys.foldl max 0 + 1)

/-- The rectangle whose rows form one line under CHAIN (R54). -/
def unitOf (s : State) (n b : Nat) : Nat × Nat × Nat × Nat :=
  let x := blkX b
  let y := blkY b
  match (partCfg s n).scope.toNat with
  | 0 => (x, x, y, y)
  | 1 => (4 * (x / 4), 4 * (x / 4) + 3, 2 * (y / 2), 2 * (y / 2) + 1)
  | _ => rectOf s n

/-- The target of the LINK whose source is block b, and the sources of the LINKs whose target is b (R62). -/
def linkTo (s : State) (b : Nat) : Option Nat :=
  (s.cfg.segs.find? fun e => bits e.toNat 47 44 == 4 && bits e.toNat 63 57 == b).map fun e => bits e.toNat 6 0
def linkFrom (s : State) (b : Nat) : List Nat :=
  (s.cfg.segs.filter fun e => bits e.toNat 47 44 == 4 && bits e.toNat 6 0 == b).map fun e => bits e.toNat 63 57

/-- The segment number of the express port of block b on side d: 0 N, 1 E, 2 S, 3 W (R61). -/
def portSeg (b d : Nat) : Nat := 512 * b + 0x101 + d

/-- The blocks that express lanes join to the port of block b on side d. -/
def expressOf (s : State) (b d : Nat) : List Nat :=
  s.cfg.segs.filterMap fun e =>
    let v := e.toNat
    if bits v 47 44 ≠ 5 then none
    else if bits v 63 48 = portSeg b d then some (bits v 15 0 / 512)
    else if bits v 15 0 = portSeg b d then some (bits v 63 57)
    else none

/-- A cell of block b2 reached through the express lane that ends at its port on side d2: undefined where another lane names
that port too (R66). -/
def acrossLane (s : State) (b2 d2 i : Nat) : Src := if 1 < (expressOf s b2 d2).length then .undef else .cell b2 i

/-- A cell of block b2 reached across the edge on its side d2: nothing when an express lane joins that edge elsewhere
(R64). -/
def across (s : State) (b2 d2 i : Nat) : Src := if (expressOf s b2 d2).isEmpty then .cell b2 i else .bit false

/-- The first block of the line of links that ends at b, and the last of the one that starts there. -/
def lineFirst (s : State) : Nat → Nat → Nat
  | 0, b => b
  | n + 1, b => match linkFrom s b with | p :: _ => lineFirst s n p | [] => b
def lineLast (s : State) : Nat → Nat → Nat
  | 0, b => b
  | n + 1, b => match linkTo s b with | some p => lineLast s n p | none => b

/-- Bit j of the n-th frame of edge data that waits under a key (R435). -/
def edgeBit (s : State) (key j n : Nat) : Bool := ((mapGet [] key s.rein.edge).getD n 0).getLsbD j

/-- Under CHAIN_SCOPE CASCADE the lines of partition n go on in other devices (R436). -/
def wideLine (s : State) (n : Nat) : Bool :=
  cascadePart s n && (partCfg s n).scope == 3 && (s.cfg.cascade.w != 0 || s.cfg.cascade.h != 0)

/-- What the last cell of a line receives from the east, b being the last block of its unit's line (R54, R64, R66). -/
def lineNext (s : State) (n b : Nat) : Src :=
  let c := partCfg s n
  let (x0, _, y0, _) := unitOf s n b
  if c.scope = 0 then
    match linkTo s b with
    | some t => if 1 < (linkFrom s t).length then .undef else across s t 3 0
    | none => if c.close then across s (lineFirst s 128 b) 3 0 else .bit false
  else if wideLine s n then (if !c.close && s.cfg.cascade.posY == s.cfg.cascade.h then .bit false else .edge 79 0)
  else if c.close then across s (blkAt x0 y0) 3 0 else .bit false

/-- What the first cell of a line receives from the west. -/
def linePrev (s : State) (n b : Nat) : Src :=
  let c := partCfg s n
  let (_, x1, _, y1) := unitOf s n b
  if c.scope = 0 then
    match linkFrom s b with
    | [p] => across s p 1 16383
    | _ :: _ => .undef
    | [] => if c.close then across s (lineLast s 128 b) 1 16383 else .bit false
  else if wideLine s n then (if !c.close && s.cfg.cascade.posY == 0 then .bit false else .edge 207 127)
  else if c.close then across s (blkAt x1 y1) 1 16383 else .bit false

/-- What the edge cell of row r of block b receives under CHAIN at an end of a chain row: side 1 east, 3 west (R98). -/
def chainSrc (s : State) (n b d r : Nat) : Src :=
  let (x0, x1, y0, y1) := unitOf s n b
  let y := blkY b
  if d = 1 then
    if r < 127 then across s (blkAt x0 y) 3 (128 * (r + 1))
    else if y < y1 then across s (blkAt x0 (y + 1)) 3 0
    else lineNext s n b
  else
    if 0 < r then across s (blkAt x1 y) 1 (128 * (r - 1) + 127)
    else if y0 < y then across s (blkAt x1 (y - 1)) 1 16383
    else linePrev s n b

/-- The same where the ends of the line's rows lie in different devices: the frames of a side's chain returns hold the other
end's rows, and that of index 15 the last row of the device row before, or the first of the one after (R436). -/
def wideChainSrc (s : State) (n b d r : Nat) : Src :=
  let k := blkY b
  if d = 1 then
    if r < 127 then .edge (64 + k) (r + 1) else if k < 7 then .edge (65 + k) 0 else lineNext s n b
  else
    if 0 < r then .edge (192 + k) (r - 1) else if 0 < k then .edge (191 + k) 127 else linePrev s n b

/-- Whether the cascade partition goes on beyond this device on side d: to a neighbour device, or back around by WRAP
(R424, R436). -/
def beyond (s : State) (n d : Nat) : Bool :=
  let c := s.cfg.cascade
  let p := partCfg s n
  let nb := match d with
    | 0 => decide (c.posY ≠ 0)
    | 1 => decide (c.posX.toNat < c.w.toNat)
    | 2 => decide (c.posY.toNat < c.h.toNat)
    | _ => decide (c.posX ≠ 0)
  let ew := d % 2 == 1
  let ring := if ew then p.ew == 1 && c.w != 0 else p.ns == 1 && c.h != 0
  cascadePart s n && (nb || ring)

/-- Whether a neighbour device stands on side d, so that the side is no outer edge of the cascade partition. -/
def hasDevice (s : State) (n d : Nat) : Bool :=
  let c := s.cfg.cascade
  cascadePart s n && (match d with
    | 0 => decide (c.posY ≠ 0)
    | 1 => decide (c.posX.toNat < c.w.toNat)
    | 2 => decide (c.posY.toNat < c.h.toNat)
    | _ => decide (c.posX ≠ 0))

/-- What the cell at row r, column c of block b, on the edge d of the block, receives under override eo (R98, R99). -/
def edgeSrc (s : State) (n b d eo r c : Nat) : Src :=
  if eo = 3 then .bit false else
  let (x0, x1, y0, y1) := rectOf s n
  let x := blkX b
  let y := blkY b
  let p := partCfg s n
  let ew := d % 2 == 1
  let outer := match d with | 0 => y == y0 | 1 => x == x1 | 2 => y == y1 | _ => x == x0
  let casc := p.ew == 2 && p.scope == 3
  let (u0, u1, _, _) := unitOf s n b
  let cend := ew && p.ew == 2 && (if d = 1 then x == u1 else x == u0) && !(casc && hasDevice s n d)
  let facing (b2 : Nat) : Src := match d with
    | 0 => across s b2 2 (128 * 127 + c)
    | 1 => across s b2 3 (128 * r)
    | 2 => across s b2 0 c
    | _ => across s b2 1 (128 * r + 127)
  if (eo = 1 ∨ eo = 2) ∧ ((outer && !hasDevice s n d) || cend) then .bit (eo == 2)
  else match expressOf s b d with
    | [b2] => (match d with
      | 0 => acrossLane s b2 2 (128 * 127 + c) | 1 => acrossLane s b2 3 (128 * r) | 2 => acrossLane s b2 0 c
      | _ => acrossLane s b2 1 (128 * r + 127))
    | _ :: _ => .undef
    | [] =>
      if cend then (if casc && cascadePart s n && s.cfg.cascade.w != 0 then wideChainSrc s n b d r else chainSrc s n b d r)
      else if !outer then facing (match d with
        | 0 => blkAt x (y - 1) | 1 => blkAt (x + 1) y | 2 => blkAt x (y + 1) | _ => blkAt (x - 1) y)
      else if beyond s n d then (if ew then .edge (64 * d + blkY b) r else .edge (64 * d + blkX b) c)
      else if (if ew then p.ew else p.ns) = 1 then
        facing (match d with | 0 => blkAt x y1 | 1 => blkAt x0 y | 2 => blkAt x y0 | _ => blkAt x1 y)
      else .bit false

/-- Where cell i of block b receives the X of its neighbour on side d: 0 N, 1 E, 2 S, 3 W. -/
def nbrFrom (s : State) (b i d eo : Nat) : Src :=
  let r := i / 128
  let c := i % 128
  let edge := match d with | 0 => r == 0 | 1 => c == 127 | 2 => r == 127 | _ => c == 0
  if edge then edgeSrc s ((partOf s b).getD 0) b d eo r c
  else .cell b (match d with | 0 => i - 128 | 1 => i + 1 | 2 => i + 128 | _ => i - 1)

/-- The same with the value that stands at the edge now. -/
def nbrSrc (s : State) (b i d eo : Nat) : Src :=
  match nbrFrom s b i d eo with
  | .edge key j => .bit (edgeBit s key j 0)
  | r => r

/-! ### Edge data between the devices of a cascade (R103, R428, R435, R436) -/

/-- The keys of the edge data that a value moving in from side d takes in this device, under override eo. -/
def edgeKeys (s : State) (n d eo : Nat) : List Nat :=
  let c := s.cfg.cascade
  let p := partCfg s n
  let ew := d % 2 == 1
  let all := (List.range (if ew then 8 else 16)).map (· + 64 * d)
  if eo = 3 || !cascadePart s n then []
  else if hasDevice s n d then all
  else if eo = 1 ∨ eo = 2 then []
  else if ew && p.ew == 2 then
    (if wideLine s n then
      (if c.w != 0 then all else [])
        ++ (if !p.close && (if d = 1 then c.posY == c.h else c.posY == 0) then [] else [64 * d + 15])
     else [])
  else if beyond s n d then all else []

/-- For how many of k values moving in from side d to the gang of block b the frames are there. In an INDEPENDENT partition a
value from another device is what last arrived, and nothing waits for it (R104). -/
def edgeHere (s : State) (b d eo k : Nat) : Nat :=
  match partOf s b with
  | none => k
  | some n => if lockstep s n then (edgeKeys s n d eo).foldl (fun a key => min a (mapGet [] key s.rein.edge).length) k else k

/-- Those frames are used up. -/
def edgeTake (s : State) (b d eo k : Nat) : State :=
  match partOf s b with
  | none => s
  | some n =>
    if !lockstep s n then s else
    { s with rein := { s.rein with edge := (edgeKeys s n d eo).foldl (fun m key =>
        mapSet [] key ((mapGet [] key m).drop k) m) s.rein.edge } }

/-- The port through which frames for device i leave (R441). -/
def portFor (s : State) (i : Nat) : Option Nat :=
  let (x, y) := posOf s (myIdx s)
  let (tx, ty) := posOf s i
  portTo x y tx ty

/-- What the edge cells of this device on side o show, as the frames of edge data, with their ports, that go to where a value
that moves out through that side goes under override eo (R99, R435, R436): to the neighbour device, back around by WRAP, or on
along the line of a chain. x is the value of a cell. -/
def edgeFrames (s : State) (n o eo : Nat) (x : Nat → Nat → Bool) : List (Nat × EdgeMsg) :=
  let c := s.cfg.cascade
  let p := partCfg s n
  let ew := o % 2 == 1
  let d := (o + 2) % 4
  let data (k : Nat) : BitVec 128 := BitVec.ofNat 128 ((List.range 128).foldl (fun v j =>
    v + b2n (match o with
      | 0 => x (blkAt k 0) j | 1 => x (blkAt 15 k) (128 * j + 127) | 2 => x (blkAt k 7) (128 * 127 + j)
      | _ => x (blkAt 0 k) (128 * j)) * 2 ^ j) 0)
  let ks := List.range (if ew then 8 else 16)
  let put (i : Nat) (idx : Nat) (v : BitVec 128) : List (Nat × EdgeMsg) := match portFor s i with
    | some q => [(q, { net := false, index := BitVec.ofNat 4 idx, data := v, ret := some (BitVec.ofNat 4 i, BitVec.ofNat 2 d) })]
    | none => []
  let dev (px py : Nat) : Nat := (c.w.toNat + 1) * py + px
  let px := c.posX.toNat
  let py := c.posY.toNat
  if eo = 3 || !cascadePart s n then []
  else if hasDevice s n o then ks.map fun k => (o, { net := false, index := BitVec.ofNat 4 k, data := data k, ret := none })
  else if eo ≠ 0 then []
  else if ew && p.ew == 2 then
    if !wideLine s n then [] else
    let far := if o = 1 then 0 else c.w.toNat
    let next := if o = 1 then (if py < c.h.toNat then some (py + 1) else if p.close then some 0 else none)
      else (if 0 < py then some (py - 1) else if p.close then some c.h.toNat else none)
    (if c.w = 0 then [] else ks.flatMap fun k => put (dev far py) k (data k))
      ++ (match next with | some y => put (dev far y) 15 (data (if o = 1 then 7 else 0)) | none => [])
  else if beyond s n o then
    ks.flatMap fun k => put (match o with
      | 0 => dev px c.h.toNat | 1 => dev 0 py | 2 => dev px 0 | _ => dev c.w.toNat py) k (data k)
  else []

/-- Frames of edge data leave through their ports; one in MISMATCH or DOWN carries none (R430). -/
def sendFrames (s : State) (l : List (Nat × EdgeMsg)) : State :=
  l.foldl (fun s e => if portUsable s e.1 then emit s (.edge e.1 e.2) else s) s

/-- The edge data of a cycle of a LOCKSTEP partition leaves this device through side o. -/
def edgeSend (s : State) (n o eo : Nat) (x : Nat → Nat → Bool) : State :=
  if lockstep s n then sendFrames s (edgeFrames s n o eo x) else s

/-! ### Broadcast nets (R61-R66, R100) -/

/-- SEG entry e covers segment sg: as a source, or as the target of a JOIN. -/
def covers (e sg : Nat) : Bool := decide (bits e 63 48 ≤ sg) && decide (sg ≤ bits e 63 48 + bits e 43 36)
def coversT (e sg : Nat) : Bool := decide (bits e 15 0 ≤ sg) && decide (sg ≤ bits e 15 0 + bits e 43 36)

/-- Segments that a SPAN joins to segment sg: the same local segment in every block of its block row or column (R62). -/
def spanOf (s : State) (sg : Nat) : List Nat :=
  let b := sg / 512
  let l := sg % 512
  ((List.range 128).filter fun c => partOf s c == partOf s b && (partOf s b).isSome &&
    (if l < 0x80 then blkY c == blkY b else blkX c == blkX b)).map fun c => 512 * c + l

/-- The segments that one entry joins to sg. -/
def joined (s : State) (sg e : Nat) : List Nat :=
  match bits e 47 44 with
  | 2 => (if covers e sg then [bits e 15 0 + (sg - bits e 63 48)] else [])
      ++ (if coversT e sg then [bits e 63 48 + (sg - bits e 15 0)] else [])
  | 3 => let t := spanOf s sg
         if t.any (covers e) then t else []
  | _ => []

/-- The net that holds segment sg. -/
def netOf (s : State) (sg : Nat) : List Nat :=
  iter 16 (fun _ l => l.foldl (fun l g => s.cfg.segs.foldl (fun l e =>
    (joined s g e.toNat).foldl (fun l t => setAdd t l) l) l) l) [sg]

/-- Whether an entry names segment sg (R64). -/
def namedSeg (s : State) (sg : Nat) : Bool :=
  s.cfg.segs.any fun e =>
    let v := e.toNat
    match bits v 47 44 with
    | 1 => covers v sg
    | 2 => covers v sg || coversT v sg
    | 3 => !(joined s sg v).isEmpty
    | _ => false

/-- The drivers of a net: DRIVE's kind and cell, and the segment it names. -/
def driversOf (s : State) (net : List Nat) : List (Nat × Nat × Nat) :=
  s.cfg.segs.flatMap fun e =>
    let v := e.toNat
    if bits v 47 44 = 1 then (net.filter (covers v)).map fun g => (bits v 31 30, bits v 6 0, g) else []

/-- Bit l of the broadcast register of block b: RBR for a row net, CBR for a column net. -/
def castBit (s : State) (b l : Nat) (col : Bool) : Bool :=
  if col then (seqOf s b).cbr.getLsbD l else (seqOf s b).rbr.getLsbD l

/-- A SPAN joins segment sg to those of its whole block row or block column, which in the cascade partition goes on in the
neighbour devices (R62, R428; log entry 109). -/
def spanned (s : State) (sg : Nat) : Bool := s.cfg.segs.any fun e => bits e.toNat 47 44 == 3 && !(joined s sg e.toNat).isEmpty

/-- What block b's row net of row l, or column net of column l, carries (R100). -/
def netSrc (s : State) (b l : Nat) (col : Bool) : Src :=
  let sg := 512 * b + (if col then 0x80 else 0) + l
  if s.cfg.segs.isEmpty || !namedSeg s sg then .bit (castBit s b l col)
  else
    let net := netOf s sg
    match driversOf s net with
    | [] =>
      let n := (partOf s b).getD 0
      if cascadePart s n && spanned s sg then
        let k := if col then blkX b else blkY b
        .bit (if col then edgeBit s (32 + k) l 0 || edgeBit s (160 + k) l 0 else edgeBit s (96 + k) l 0 || edgeBit s (224 + k) l 0)
      else .bit false
    | [(kind, at_, g)] =>
      if kind = 1 then .bit (castBit s (g / 512) l col)
      else .cell (g / 512) (if col then 128 * at_ + l else 128 * l + at_)
    | _ => .undef

/-- The keys of the nets' edge data that comes in from side d. -/
def netKeys (s : State) (n d : Nat) : List Nat :=
  if hasDevice s n d then (List.range (if d % 2 = 1 then 8 else 16)).map (· + 64 * d + 32) else []

/-- That data is there for the cycle to come. -/
def netsHere (s : State) (n d : Nat) : Bool := (netKeys s n d).all fun key => !(mapGet [] key s.rein.edge).isEmpty

/-- What net l of block row or block column k shows beyond side o: its driver in this device, else what comes in from the other
side. x is the value of a cell, u that of an undefined net. -/
def netOut (s : State) (x : Nat → Nat → Bool) (u : Bool) (n o k l : Nat) : Bool :=
  let col := o % 2 == 0
  let sg := 512 * (match o with | 0 => blkAt k 0 | 1 => blkAt 15 k | 2 => blkAt k 7 | _ => blkAt 0 k) + (if col then 0x80 else 0) + l
  if !cascadePart s n || !spanned s sg then false else
  match driversOf s (netOf s sg) with
  | [] => edgeBit s (64 * ((o + 2) % 4) + 32 + k) l 0
  | [(kind, at_, g)] => if kind = 1 then castBit s (g / 512) l col else x (g / 512) (if col then 128 * at_ + l else 128 * l + at_)
  | _ => u

/-- The frames that show the nets beyond side o to the neighbour device there (R428, R435). -/
def netFrames (s : State) (n o : Nat) (x : Nat → Nat → Bool) : List (Nat × EdgeMsg) :=
  if !hasDevice s n o then [] else
  (List.range (if o % 2 = 1 then 8 else 16)).map fun k =>
    let v := (List.range 128).foldl (fun v l => v + b2n (netOut s x ((Config.freePlane s.free).getLsbD (128 * k + l)) n o k l) * 2 ^ l) 0
    (o, { net := true, index := BitVec.ofNat 4 k, data := BitVec.ofNat 128 v, ret := none })

/-- In a LOCKSTEP cascade partition the row nets, or the column nets, of a cycle pass on through both sides, each side's once
those of the other have come; sent names the sides through which they have left. The third answer: all have come, and the
cycle can use them (R103, R435). -/
def netStep (s : State) (n : Nat) (col : Bool) (x : Nat → Nat → Bool) (sent : Nat) : State × Nat × Bool :=
  if !(cascadePart s n && lockstep s n) then (s, sent, true) else
  let sides := if col then [0, 2] else [1, 3]
  let r := sides.foldl (fun (p : State × Nat) o =>
    if p.2.testBit o || !netsHere s n ((o + 2) % 4) then p else (sendFrames p.1 (netFrames s n o x), p.2 + 2 ^ o)) (s, sent)
  (r.1, r.2, sides.all (netsHere s n))

/-- The nets' frames of one cycle are used up. -/
def netTake (s : State) (n : Nat) (col : Bool) : State :=
  if !(cascadePart s n && lockstep s n) then s else
  { s with rein := { s.rein with edge := ((if col then [0, 2] else [1, 3]).flatMap (netKeys s n)).foldl (fun m key =>
      mapSet [] key ((mapGet [] key m).drop 1) m) s.rein.edge } }

/-- What a source of this device gives when cells show x and undefined values are those of u. -/
def srcVal (x : Nat → Nat → Bool) (u : Bool) : Src → Bool
  | .cell b i => x b i
  | .bit v => v
  | .undef => u
  | .edge _ _ => u

/-- The X register of a cell. -/
def xOf (s : State) (b i : Nat) : Bool := (cellAt s b i).x

/-- Everything that the cascade partition shows beyond this device's sides now. -/
def shownNow (s : State) : List (Nat × EdgeMsg) :=
  let n := s.cfg.cascade.cpid.toNat
  (List.range 4).flatMap fun o => edgeFrames s n o 0 (xOf s) ++ netFrames s n o (xOf s)

/-- In an INDEPENDENT cascade partition what an edge or a net shows reaches the other device whenever it changes (R104, R428). -/
def showEdges (s : State) : State :=
  let n := s.cfg.cascade.cpid.toNat
  if !cascadePart s n || lockstep s n then s else
  let l := shownNow s
  sendFrames { s with rein := { s.rein with shown := l } } (l.filter fun e => !s.rein.shown.contains e)

end Sys2Proof.Machine
end

