-- ==== Sys2Proof/Machine/ArrayBase.lean ====
section
/-! DEFINITION. What the array, decimal and record instructions share: field descriptors and their checks (R123-R126),
dispatch (R293), the effect on the cells of a program's blocks (R94, R127, R128, R157), result slots (R111-R113, R149). -/

namespace Sys2Proof.Machine

/-! ### Fields and descriptors -/

/-- D, S, U and OPT of an array instruction (R123). -/
def aD (w : Nat) : Nat := bits w 23 19
def aS (w : Nat) : Nat := bits w 18 14
def aU (w : Nat) : Nat := bits w 13 9
def aOpt (w : Nat) : Nat := bits w 8 0

/-- A field descriptor (R124, R161): KIND, ND and CHK are the decimal additions. -/
structure Desc where
  base : Nat
  len : Nat
  sgn : Bool
  kind : Nat
  nd : Nat
  chk : Nat

/-- The descriptor that a register value gives. -/
def descOf (v : Nat) : Desc :=
  { base := bits v 10 0, len := bits v 21 11, sgn := v.testBit 23, kind := bits v 26 24, nd := bits v 39 32, chk := bits v 55 48 }

/-- Highest plane of a field. -/
def Desc.hi (d : Desc) : Nat := d.base + d.len - 1

/-- A binary descriptor has no reserved bit set and a LEN of 1 to 2031 (R124). -/
def binOk (v : Nat) : Bool :=
  v / 2 ^ 24 == 0 && !v.testBit 22 && decide (1 ≤ bits v 21 11) && decide (bits v 21 11 ≤ 2031)

/-- A source field does not reach plane 2047 (R125). -/
def srcOk (d : Desc) : Bool := decide (d.hi < 2047)

/-- A destination field lies in planes 0-2031 or 2040-2046 (R125). -/
def dstOk (d : Desc) : Bool := decide (d.hi ≤ 2031) || (decide (2040 ≤ d.base) && decide (d.hi ≤ 2046))

/-- Two fields share a plane. -/
def meets (d e : Desc) : Bool := decide (d.base ≤ e.hi) && decide (e.base ≤ d.hi)

/-- A destination and a source coincide exactly or do not overlap; strict: do not overlap at all (R126). -/
def overlapOk (d e : Desc) (strict : Bool) : Bool :=
  !meets d e || (!strict && d.base == e.base && d.len == e.len)

/-- A field of a cell as the integer that its SGN gives. -/
def Cell.int (c : Cell) (d : Desc) : Int := if d.sgn then sgn d.len (c.field d.base d.len) else c.field d.base d.len

/-- Bit j of a field, extended beyond its length by its own SGN (R132, R133). -/
def Cell.bitExt (c : Cell) (d : Desc) (j : Nat) : Bool :=
  if j < d.len then c.plane (d.base + j) else d.sgn && c.plane d.hi

/-- A cell with an integer written to a field: its low bits. -/
def Cell.putInt (c : Cell) (d : Desc) (v : Int) : Cell := c.setField d.base d.len (wrap d.len v)

/-- Whether an integer lies outside the range of a field (R140). -/
def outside (d : Desc) (v : Int) : Bool :=
  if d.sgn then decide (v < -(2 ^ (d.len - 1) : Nat)) || decide ((2 ^ (d.len - 1) : Nat) ≤ v)
  else decide (v < 0) || decide ((2 ^ d.len : Nat) ≤ v)

/-! ### Cells of a program's blocks -/

/-- What an array instruction works with: its word and its operands as dispatched, DCTL and RCTL, whether it waits
with its requests issued, the safe points it had passed when it yielded, its counters, the pattern of AEDIT, and the
length fields that a yield of AMVS has kept. -/
structure ACtx where
  w : Nat
  d : Nat
  s : Nat
  u : Nat
  dctl : Nat
  rctl : Nat
  again : Bool
  step : Nat
  cnt : Nat
  pat : List Nat
  /-- dispatched by the lead device of a cascade -/
  far : Bool := false
  lens : List (Nat × Nat) := []
  legs : List (Nat × List Nat) := []

/-- A writing cell at the end of an array instruction: the X and Y that depend only on the instruction, its operands and
the cell's data before, and C = 0 (R128). -/
def settle (x : ACtx) (old new : Cell) : Cell :=
  let fl : BitVec 5 := BitVec.ofNat 5 (b2n old.x * 16 + b2n old.y * 8 + b2n old.c * 4 + b2n old.a * 2 + b2n old.t)
  let v := Config.arrayXY ([x.w, x.d, x.s, x.u, x.dctl, x.rctl].map (BitVec.ofNat 64)) old.planes fl
  { new with x := v.getLsbD 1, y := v.getLsbD 0, c := false }

/-- Every cell of block c changed by f; cells active before are settled (R128). f keeps an all-zero cell. -/
def cellsOfBlock (s : State) (c : Nat) (x : ACtx) (f : Nat → Cell → Cell) : State :=
  mapListed s c fun i y => if y.a then settle x y (f i y) else f i y

/-- The same in every block on which the instruction acts (R157). -/
def cellsOfGang (s : State) (b : Nat) (x : ACtx) (f : Nat → Nat → Cell → Cell) : State :=
  forEach (gang s b) (fun s c => cellsOfBlock s c x (f c)) s

/-- Every cell of the gang, unlisted ones included, changed by f and settled (all of them write). -/
def allOfGang (s : State) (b : Nat) (x : ACtx) (f : Nat → Nat → Cell → Cell) : State :=
  forEach (gang s b) (fun s c => mapCells s c fun i y => settle x y (f c i y)) s

/-- Planes lo to hi of block c have been written: that cancels the repair of a group in one of them (R116). -/
def dropRepair (s : State) (c lo hi : Nat) : State :=
  match (seqOf s c).repair with
  | some r => if lo ≤ r.1.toNat ∧ r.1.toNat ≤ hi then updSeq s c fun q => { q with repair := none } else s
  | none => s

/-- Planes lo to hi of block c have been written in the active cells that satisfy p: a pending repair there is cancelled, and
DFLAG.FL bit k sets when one of them holds 1 in plane 2040 + k (R116, R176). -/
def noteFlagsOf (s : State) (c lo hi : Nat) (p : Cell → Bool) : State :=
  let s := dropRepair s c lo hi
  if hi < 2040 then s else
  setDflag s c ((List.range 7).foldl (fun a k =>
    if lo ≤ 2040 + k ∧ 2040 + k ≤ hi ∧ s.cells.any (fun e => inBlock c e.1 && e.2.a && p e.2 && e.2.plane (2040 + k)) then
      a + 2 ^ k else a) 0)

/-- The same for planes that every active cell has written. -/
def noteFlags (s : State) (c lo hi : Nat) : State := noteFlagsOf s c lo hi fun _ => true

/-- The same for the destination of an instruction in every block of the gang. -/
def noteDst (s : State) (b : Nat) (d : Desc) : State := forEach (gang s b) (fun s c => noteFlags s c d.base d.hi) s

/-! ### Dispatch (R270, R293) -/

/-- The pattern of AEDIT in block b's scratchpad: one byte for each byte of D (R217). -/
def patternAt (s : State) (b w d u : Nat) : List Nat :=
  if w / 2 ^ 24 = 0xC3 then (readBytes s (bwin b + u) (bits d 21 11 / 8)).map (·.toNat) else []

/-- The context of a fresh dispatch. -/
def freshCtx (s : State) (b w : Nat) : ACtx :=
  let d := rd s b (aD w)
  let u := rd s b (aU w)
  { w := w, d := d, s := rd s b (aS w), u := u, dctl := rg s (R.DCTL b), rctl := rg s (R.RCTL b), again := false,
    step := 0, cnt := 0, pat := patternAt s b w d u }

/-- The context of a record; one above 65,535 in its step waits with its requests issued. An AEDIT pattern that did not come
with a dispatch is read as it stands (R226). -/
def suspCtx (s : State) (b : Nat) (r : Susp) : ACtx :=
  { w := r.w.toNat, d := r.d.toNat, s := r.s.toNat, u := r.u.toNat, dctl := r.dctl.toNat, rctl := r.rctl.toNat,
    again := decide (65536 ≤ r.step), step := r.step % 65536, cnt := r.cnt, far := r.far.isSome,
    lens := r.lens, legs := r.legs,
    pat := match r.far with | some p => p.map (·.toNat) | none => patternAt s b r.w.toNat r.d.toNat r.u.toNat }

/-- The record of a context, for an instruction that waits or yields. -/
def recordOf (s : State) (b : Nat) (x : ACtx) (step : Nat) : Susp :=
  { w := BitVec.ofNat 32 x.w, pc := BitVec.ofNat 20 (pcOf s b), d := BitVec.ofNat 64 x.d, s := BitVec.ofNat 64 x.s,
    u := BitVec.ofNat 64 x.u, dctl := BitVec.ofNat 64 x.dctl, rctl := BitVec.ofNat 64 x.rctl, step := step, cnt := x.cnt,
    lens := x.lens, legs := x.legs, micro := none,
    far := if x.far then some (x.pat.map (BitVec.ofNat 8)) else none }

/-- ARR_SUSP.RUN of every block of b's program. -/
def setRun (s : State) (b : Nat) (v : Bool) : State :=
  forEach (gang s b) (fun s c => setB s (R.ARR_SUSP c) R.ARR_SUSP_RUN v) s

/-- The planes 2032 to 2039 hold undefined values outside a suspension (R224), in every cell of the gang. -/
def spoilProgress (s : State) (b : Nat) : State :=
  forEach (gang s b) (fun s c => spoilAll s c 2032 8) s

/-- What stands after a resumable instruction has completed. -/
def settleArr (s : State) (b op : Nat) (f : Flow) : State := if resumable op && f == .next then spoilProgress s b else s

/-- An instruction that the lead device dispatched has ended here: registers, PC and control registers are the lead's
sequencer's alone (R157, R433). -/
def keepFar (s t : State) (b : Nat) : State :=
  let mine (a : Nat) : Bool := decide (0x700010 + bwin b ≤ a) && decide (a < 0x710E00 + bwin b)
  { t with regs := mapOver mine s.regs t.regs }

/-- The lead sends a dispatch, or a decision on the instruction with its operands, on to the members of a LOCKSTEP cascade
partition (R433, R434). -/
def dispatchAct (s : State) (b : Nat) (x : ACtx) (a : DispAct) : State :=
  match partOf s b with
  | some n =>
    if cascadePart s n && lockstep s n && leadsCascade s then
      sendDisp s
        { w := BitVec.ofNat 32 x.w, d := BitVec.ofNat 64 x.d, s := BitVec.ofNat 64 x.s, u := BitVec.ofNat 64 x.u
          dctl := BitVec.ofNat 64 x.dctl, rctl := BitVec.ofNat 64 x.rctl, pattern := x.pat.map (BitVec.ofNat 8), act := a }
    else s
  | none => s

/-- The lead sends a dispatch on to the members of a LOCKSTEP cascade partition (R433). -/
def dispatchAway (s : State) (b : Nat) (x : ACtx) : State := dispatchAct s b x .start

/-! ### What array instructions read of the block memories (R155, R322, R325) -/

/-- Digits of an aspect of ATLD and ATST (R154). -/
def aspectArea (x : ACtx) : Nat :=
  let a := aOpt x.w / 64
  if a = 0 then 4096 * (descOf x.d).len else 32768 * 2 ^ (a - 1)

/-- The part of block c's turn memory that an instruction reads from its step on, as digit offset and length: for one that
stores, the lines that it stores in part, unless every cell is active. -/
def turnReads (s : State) (c : Nat) (x : ACtx) : Nat × Nat :=
  let all := (s.cells.filter fun y => inBlock c y.1 && y.2.a).length == 16384
  match x.w / 2 ^ 24 with
  | 0x98 => (x.s, aspectArea x)
  | 0x99 => (x.s, if all then 0 else aspectArea x)
  | 0x9A => (x.u + 16 * x.step, 16 * (2 ^ (descOf x.s).len - x.step))
  | 0xB8 => (x.d, if all then 0 else 128 * (64 * 2 ^ (descOf x.s).nd) * (bits x.u 13 7 + 1))
  | 0xB9 => (x.s, 512 * (64 * 2 ^ (descOf x.d).nd) * (bits x.u 13 7 + 1))
  | 0xC1 => (x.u, 512)
  | _ => (0, 0)

/-- The words of scratchpad and turn memories that the instruction reads are checked in every block on which it acts;
whether all of them can be delivered. -/
def arrReads (s : State) (b : Nat) (x : ACtx) : State × Bool :=
  if s.flaws.isEmpty then (s, true) else
  let pat := if x.w / 2 ^ 24 = 0xC3 && !x.far then bits x.d 21 11 / 4 else 0
  let p := memCheck s b (bwin b + x.u) pat
  (gang s b).foldl (fun p c =>
    let r := turnReads s c x
    let q := memCheck p.1 c (0x100000 + bwin c + r.1) r.2
    (q.1, p.2 && q.2)) p

/-! ### Dispatch into the micro-engine (R281, R293, R298) -/

/-- The descriptors that the entry of a customer instruction, or of an opcode without a form of its own, names are as R124 to
R126 allow (R293). -/
def entryOk (ent : Nat) (x : ACtx) : Bool :=
  let d := ent.testBit 60
  let e := ent.testBit 59
  let u := ent.testBit 58
  let strict := ent.testBit 57
  (!d || (binOk x.d && dstOk (descOf x.d))) && (!e || (binOk x.s && srcOk (descOf x.s)))
    && (!u || (binOk x.u && srcOk (descOf x.u)))
    && (!(d && e) || overlapOk (descOf x.d) (descOf x.s) strict) && (!(d && u) || overlapOk (descOf x.d) (descOf x.u) strict)

/-- What a patched entry adds to the check of the instruction itself: R125 for each descriptor that CHKD, CHKS and CHKU name, R126
between them, and NOVL (R281, R293; log entry 17). -/
def entryApart (ent : Nat) (x : ACtx) : Bool :=
  let d := ent.testBit 60
  let e := ent.testBit 59
  let u := ent.testBit 58
  let strict := ent.testBit 57
  (!d || dstOk (descOf x.d)) && (!e || srcOk (descOf x.s)) && (!u || srcOk (descOf x.u))
    && (!(d && e) || overlapOk (descOf x.d) (descOf x.s) strict) && (!(d && u) || overlapOk (descOf x.d) (descOf x.u) strict)

/-- The micro-engine at dispatch. -/
def microStart (s : State) (b : Nat) (x : ACtx) (ent : Nat) : Micro :=
  { upc := BitVec.ofNat 14 ent, pp0 := BitVec.ofNat 11 x.d, pp1 := BitVec.ofNat 11 x.s, pp2 := BitVec.ofNat 11 x.u,
    tar := BitVec.ofNat 12 (x.s / 256), rsm := ent.testBit 61, pc := BitVec.ofNat 20 (pcOf s b), w := BitVec.ofNat 32 x.w,
    d := BitVec.ofNat 64 x.d, s := BitVec.ofNat 64 x.s, u := BitVec.ofNat 64 x.u, dctl := BitVec.ofNat 64 x.dctl,
    rctl := BitVec.ofNat 64 x.rctl }

/-- The micro-engine of block b replaced; MC_STATUS shows its micro-PC and stack depth, and ARR_SUSP.RUN that a
resumable instruction executes. -/
def setMicro (s : State) (b : Nat) (m : Option Micro) : State :=
  let s := updSeq s b fun q => { q with micro := m }
  match m with
  | some m =>
    let s := forEach (gang s b) (fun s c =>
      setF (setF s (R.MC_STATUS c) R.MC_STATUS_UPC m.upc.toNat) (R.MC_STATUS c) R.MC_STATUS_USD m.stack.length) s
    setRun s b m.rsm
  | none => forEach (gang s b) (fun s c => csFlush s c) (setRun s b false)

/-- A patch bundle has replaced the entry of opcode op (R304). -/
def patched (s : State) (op : Nat) : Bool := decide (0x80 ≤ op) && decide (op < 0xD0) && mapHas (256 * 128 + op) s.dt

/-- A patch has led opcode op to a routine other than the one that the mask ROM has for its instruction. -/
def rerouted (s : State) (b op : Nat) : Bool :=
  patched s op && (!arrayOp op || bits (dtEntry s b op) 13 0 != bits (romDt op) 13 0)

/-- The checks of R293 for an array opcode 0x80 to 0xCF, in order; the trap, if one fails. own is the check of R125 for the
instruction itself. -/
def dispatchTrap (s : State) (b : Nat) (x : ACtx) (own : Bool) : Option Flow :=
  let op := x.w / 2 ^ 24
  let ent := dtEntry s b op
  if !ent.testBit 63 then some (.trap 2 x.w)
  else if !(if arrayOp op then own && (!patched s op || entryApart ent x) else entryOk ent x) then some (.trap 0x0B x.w)
  else if ent.testBit 61 && rgB s (R.ARR_SUSP b) R.ARR_SUSP_VALID then some (.trap 0x0C x.w)
  else none

/-- An array instruction issued by block b: opcode, word, the check of R125 and R126, and its effect. A suspended or
waiting instruction that has been resumed continues with its recorded operands, whatever waits for the boundary after
it. One whose entry a patch has led elsewhere runs the patch's microwords. -/
def issueArr (s : State) (b w : Nat) (check : State → ACtx → Bool) (body : State → ACtx → State × Flow) : State :=
  let op := w / 2 ^ 24
  let s := resumeIdle s b
  match (seqOf s b).resume with
  | some r =>
    if !executing s b || r.w.toNat / 2 ^ 24 != op || (r.far.isSome && !r.go) then s else
    let (s, ok) := arrReads s b (suspCtx s b r)
    if !ok then s else
    let s := if r.go then s else dispatchAct s b (suspCtx s b r) .go
    let s1 := setRun (updSeq s b fun q => { q with resume := none }) b false
    let (s2, f) := body s1 (suspCtx s1 b r)
    match f with
    | .park => s2
    | .stay => s
    | f =>
      if r.far.isSome then keepFar s1 (settleArr s2 b op f) b
      else endStep (takeExit (finish s1 (settleArr s2 b op f) b f) b) b
  | none =>
    issue s b w [aD w, aS w, aU w] false fun s =>
      let x := freshCtx s b w
      match badEntry s b op with
      | some c => (storeFault s c 2 op, .park)
      | none =>
        match dispatchTrap s b x (check s x) with
        | some f => (s, f)
        | none =>
          if rerouted s b op then (setMicro (dispatchAway s b x) b (some (microStart s b x (dtEntry s b op))), .park)
          else
            let (s, ok) := arrReads s b x
            if !ok then (s, .park) else
            let (s2, f) := body (dispatchAway s b x) x
            (settleArr s2 b op f, f)

/-- The instruction stays at issue with its operands until something it waits for has come. -/
def parkWith (s : State) (b : Nat) (x : ACtx) : State × Flow :=
  let r := { recordOf s b x (x.step + 65536) with go := true }
  (setRun (updSeq s b fun q => { q with resume := some r }) b (resumable (x.w / 2 ^ 24)), .park)

/-! ### Result slots (R110-R113, R149) -/

/-- Result slot k of block b. -/
def slotOf (s : State) (b k : Nat) : Slot :=
  let q := seqOf s b
  match k with | 0 => q.slot0 | 1 => q.slot1 | 2 => q.slot2 | _ => q.slot3

/-- That slot set. -/
def setSlot (s : State) (b k : Nat) (v : Slot) : State :=
  updSeq s b fun q => match k with
    | 0 => { q with slot0 := v } | 1 => { q with slot1 := v } | 2 => { q with slot2 := v } | _ => { q with slot3 := v }

/-- The blocks of a scope around block b: 0 BLOCK, 1 REGION, 2 PARTITION (R110). -/
def scopeBlocks (s : State) (b scope : Nat) : List Nat :=
  match scope with
  | 0 => [b]
  | 1 => (blocksOf s ((partOf s b).getD 0)).filter fun c => c / 8 == b / 8
  | _ => blocksOf s ((partOf s b).getD 0)

/-- How many cells of block b have T = 1. -/
def tagCount (s : State) (b : Nat) : Nat :=
  s.cells.foldl (fun n e => if inBlock b e.1 && e.2.t then n + 1 else n) 0

/-- The sample of block b for a pending request: bit 63 its OR, bit 62 a count is asked for, bit 58 an OR is asked for,
[57:56] the scope, [55:48] the opcode of an instruction that combines by itself, [31:0] its count. -/
def sampleOf (s : State) (b scope op : Nat) (or cnt : Bool) : Word :=
  let n := tagCount s b
  BitVec.ofNat 64 (b2n (or && decide (0 < n)) * 2 ^ 63 + b2n cnt * 2 ^ 62 + b2n or * 2 ^ 58 + scope * 2 ^ 56 + op * 2 ^ 48
    + (if cnt then n else 0))

/-- Block b issues an OR and count request (R111): its slot waits for the result. -/
def requestOr (s : State) (b k scope op : Nat) (or cnt : Bool) : State :=
  setSlot s b k { slotOf s b k with busy := true, next := sampleOf s b scope op or cnt }

/-- Whether the scope reaches other devices (R111): a PARTITION request of the cascade partition. -/
def scopeCascade (s : State) (b scope : Nat) : Bool := scope == 2 && cascadePart s ((partOf s b).getD 0)

/-- The device beside this one through port p. -/
def besideIdx (s : State) (p : Nat) : Nat :=
  let (x, y) := posOf s (myIdx s)
  match p with
  | 0 => casW s * (y - 1) + x
  | 1 => casW s * y + x + 1
  | 2 => casW s * (y + 1) + x
  | _ => casW s * y + x - 1

/-- The neighbours farther out than this device: each sends one partial, for itself and all that stand behind it (R438). -/
def outerDevs (s : State) : List Nat := (awayPorts s).map (besideIdx s)

/-- Every block of the scope of block b waits in slot k with the same kind of request, and for a cascade scope the partials of
the devices farther out have arrived. DESIGN CHOICE (log 100): R113 says only 'a request to the same slot'; requests of an
INDEPENDENT partition that differ in scope or kind do not combine. -/
def treeReady (s : State) (b k : Nat) : Bool :=
  let w := (slotOf s b k).next.toNat
  (slotOf s b k).busy && (scopeBlocks s b (bits w 57 56)).all (fun c =>
      (slotOf s c k).busy && bits (slotOf s c k).next.toNat 57 48 == bits w 57 48)
    && (!scopeCascade s b (bits w 57 56) || (outerDevs s).all fun d => mapHas (16 * k + d) s.rein.orc)

/-- The request in slot k of block b can complete: at a member of a cascade when the lead's result has come. -/
def scopeReady (s : State) (b k : Nat) : Bool :=
  let w := (slotOf s b k).next.toNat
  if scopeCascade s b (bits w 57 56) && !leadsCascade s then (slotOf s b k).busy && mapHas (64 + k) s.rein.orc
  else treeReady s b k

/-- What slot k's own tree of block b's scope combines to, with the partials of the devices farther out, in the form of R149
(R438). -/
def treeWord (s : State) (b k : Nat) : Nat :=
  let w := (slotOf s b k).next.toNat
  let bs := scopeBlocks s b (bits w 57 56)
  let far := if scopeCascade s b (bits w 57 56) then
      (outerDevs s).map fun d => (mapGet (0 : Word) (16 * k + d) s.rein.orc).toNat else []
  let or := bs.any (fun c => (slotOf s c k).next.toNat.testBit 63) || (w.testBit 58 && far.any fun v => v.testBit 63)
  let cv := w.testBit 62
  let n := (bs.map fun c => bits (slotOf s c k).next.toNat 31 0).sum + (far.map fun v => bits v 31 0).sum
  b2n or * 2 ^ 63 + b2n cv * 2 ^ 62 + (if cv then n % 2 ^ 32 else 0)

/-- The word that slot k of block b's scope completes with, in the form of R149. -/
def scopeWord (s : State) (b k : Nat) : Nat :=
  if scopeCascade s b (bits (slotOf s b k).next.toNat 57 56) && !leadsCascade s then
    (mapGet (0 : Word) (64 + k) s.rein.orc).toNat
  else treeWord s b k

/-- A frame of class ORC for slot k leaves through port p (R428). -/
def sendOrc (s : State) (p k : Nat) (m : OrcFrame) : State := if portUsable s p then emit s (.orc p k m) else s

/-- The frame that carries a word of R149. -/
def orcFrame (s : State) (v : Nat) (result : Bool) : OrcFrame :=
  { result := result, dev := BitVec.ofNat 4 (myIdx s), or := v.testBit 63, cv := v.testBit 62, count := BitVec.ofNat 32 v }

/-- The request in slot k of block b combines when its scope is ready: every slot of the scope completes (R113). -/
def combineSlot (s : State) (b k : Nat) : State :=
  if !scopeReady s b k then s else
  let w := (slotOf s b k).next.toNat
  let v := BitVec.ofNat 64 (scopeWord s b k)
  let ca := scopeCascade s b (bits w 57 56)
  let s := forEach (scopeBlocks s b (bits w 57 56)) (fun s c => setSlot s c k { word := v, busy := false, next := 0 }) s
  if !ca then s else
  let s := if leadsCascade s then (awayPorts s).foldl (fun s p => sendOrc s p k (orcFrame s v.toNat true)) s else s
  { s with rein := { s.rein with orc := mapErase (64 + k) (mapDrop (fun i => i / 16 == k) s.rein.orc) } }

/-- A member whose blocks have all issued a cascade-wide request in slot k, and which has the partials of the devices farther
out, adds its own to them and passes the sum toward the lead (R438). -/
def sendPartial (s : State) (b k : Nat) : State :=
  if bits (slotOf s b k).next.toNat 57 56 ≠ 2 || !scopeCascade s b 2 || leadsCascade s || !treeReady s b k then s
  else
    let m := orcFrame s (treeWord s b k) false
    let s : State := { s with rein := { s.rein with orc := mapDrop (fun i => i / 16 == k) s.rein.orc } }
    match towardPort s with | some p => sendOrc s p k m | none => s

/-- Every block on which b's program acts issues the same request (R113). -/
def gangRequest (s : State) (b k scope op : Nat) (or cnt : Bool) : State :=
  sendPartial (forEach (gang s b) (fun s c => requestOr s c k scope op or cnt) s) b k

/-- The requests of b's program in slot k combine. -/
def gangCombine (s : State) (b k : Nat) : State := forEach (gang s b) (fun s c => combineSlot s c k) s

/-- Some slot k of b's program still waits. -/
def slotBusy (s : State) (b k : Nat) : Bool := (gang s b).any fun c => (slotOf s c k).busy

/-- A request of b's program of this scope combines without a request of another program: LOCKSTEP, or BLOCK scope. -/
def ownScope (s : State) (b scope : Nat) : Bool :=
  scope == 0 || lockstep s ((partOf s b).getD 0)

end Sys2Proof.Machine
end

