-- ==== Sys2Proof/Machine/Array.lean ====
section
/-! DEFINITION. The binary and structural array instructions, opcodes 0x80 to 0x9A (R122-R160). -/

namespace Sys2Proof.Machine

/-- Unused OPT bits are 0 (R123). -/
def optIn (w mask : Nat) : Bool := Nat.land (aOpt w) (511 - mask) == 0

/-! ### Logic, moves, activity, tags (R132-R136) -/

/-- ALOG's check. -/
def alogOk (x : ACtx) : Bool :=
  let nou := x.w.testBit 8
  binOk x.d && binOk x.s && dstOk (descOf x.d) && srcOk (descOf x.s) && overlapOk (descOf x.d) (descOf x.s) false
    && (if nou then aU x.w == 0 else
        binOk x.u && srcOk (descOf x.u) && overlapOk (descOf x.d) (descOf x.u) false)

/-- One cell under ALOG: plane j of D takes F[4d + 2a + b] (R132). -/
def alogCell (x : ACtx) (c : Cell) : Cell :=
  let d := descOf x.d
  let v := (List.range d.len).foldl (fun v j =>
    let i := 4 * b2n (c.plane (d.base + j)) + 2 * b2n (c.bitExt (descOf x.s) j)
      + b2n (!x.w.testBit 8 && c.bitExt (descOf x.u) j)
    v + b2n ((x.w % 256).testBit i) * 2 ^ j) 0
  c.setField d.base d.len v

/-- The effect of an instruction that writes D in the active cells of every block of the gang. -/
def writeActive (s : State) (b : Nat) (x : ACtx) (f : Nat → Nat → Cell → Cell) : State × Flow :=
  let s := cellsOfGang s b x fun c i k => if k.a then f c i k else k
  (noteDst s b (descOf x.d), .next)

/-- One cell under AMOV: S extended or truncated (R133). -/
def amovCell (x : ACtx) (c : Cell) : Cell := c.putInt (descOf x.d) (c.int (descOf x.s))

/-- One cell under ASPL: the register value (R134). -/
def asplCell (x : ACtx) (c : Cell) : Cell :=
  let d := descOf x.d
  if d.sgn then c.putInt d (sgn 64 x.s) else c.setField d.base d.len x.s

/-- One cell under AACT (R135), SAVE apart. -/
def aactCell (x : ACtx) (c : Cell) : Cell :=
  let p := c.plane (bits x.s 10 0)
  { c with a := match x.w % 8 with
    | 0 => true
    | 1 => c.t
    | 2 => c.a && c.t
    | 3 => c.a && !c.t
    | 4 => p
    | 5 => c.a && p
    | 6 => c.a
    | _ => !c.a }

/-- A descriptor of which only BASE is used: its reserved bits are 0, and the plane is not 2047 (R124, R125; log entry 89). -/
def planeOk (v : Nat) : Bool := v / 2 ^ 24 == 0 && !v.testBit 22 && bits v 10 0 != 2047

/-- AACT's check. -/
def aactOk (x : ACtx) : Bool :=
  aD x.w == 0 && aU x.w == 0 && optIn x.w 7 &&
    (match x.w % 8 with
     | 4 | 5 => planeOk x.s
     | 6 => binOk x.s && dstOk (descOf x.s)
     | _ => aS x.w == 0)

/-- AACT: ALL and NOT reach every cell; SAVE writes plane S.BASE and T in every cell. -/
def aactOp (s : State) (b : Nat) (x : ACtx) : State × Flow :=
  let k := x.w % 8
  if k = 6 then
    let p := bits x.s 10 0
    let s := allOfGang s b x fun _ _ c => { c.setPlane p c.a with t := c.a }
    (forEach (gang s b) (fun s c => noteFlags s c p p) s, .next)
  else if k = 0 ∨ k = 7 then
    (forEach (gang s b) (fun s c => mapCells s c fun _ y => if y.a then settle x y (aactCell x y) else aactCell x y) s, .next)
  else (cellsOfGang s b x fun _ _ c => aactCell x c, .next)

/-- ATAG's check. -/
def atagOk (x : ACtx) : Bool :=
  aD x.w == 0 && aU x.w == 0 && optIn x.w 3 && (if x.w % 4 < 2 then aS x.w == 0 else planeOk x.s)

/-- One cell under ATAG (R136). -/
def atagCell (x : ACtx) (c : Cell) : Cell :=
  let p := c.plane (bits x.s 10 0)
  { c with t := match x.w % 4 with | 0 => false | 1 => c.a | 2 => p && c.a | _ => !p && c.a }

/-! ### Broadcast (R137, R138) -/

/-- ABRD: each block's own broadcast register (R137). -/
def abrdOp (s : State) (b : Nat) (x : ACtx) : State × Flow :=
  let v := BitVec.ofNat 128 (x.s * 2 ^ 64 + x.u)
  (forEach (gang s b) (fun s c => updSeq s c fun q =>
    if x.w.testBit 0 then { q with cbr := v } else { q with rbr := v }) s, .next)

/-- ABCP: X takes plane S.BASE in active cells, then plane D.BASE takes the cell's net (R138). In a LOCKSTEP cascade partition it
waits for what the nets carry from other devices (R435). -/
def abcpOp (s : State) (b : Nat) (x : ACtx) : State × Flow :=
  let d := descOf x.d
  let col := x.w.testBit 0
  let s1 := forEach (gang s b) (fun s c => mapActive s c fun _ y => { y with x := y.plane (bits x.s 10 0) }) s
  let n := (partOf s b).getD 0
  let r := netStep s1 n col (xOf s1) x.cnt
  if !r.2.2 then parkWith r.1 b { x with cnt := r.2.1 } else
  let k := s1.free
  let s2 := cellsOfGang { netTake r.1 n col with free := k + 1 } b x fun c i y =>
    if y.a then
      let l := if col then i % 128 else i / 128
      y.setPlane d.base (srcVal (xOf s1) ((Config.freePlane k).getLsbD i) (netSrc s1 c l col))
    else y
  (noteDst s2 b d, .next)

/-! ### Shifts (R139) -/

/-- Where the field of cell i of block c comes from after k steps of a shift whose data arrives from side d, the number
of steps done before it entered, and the key of the cell into which it came: inside the gang values move from cell to cell; from
another program's block comes the X that its cell shows (R104). -/
def shiftSrc (s : State) (own : List Nat) (d eo : Nat) : Nat → Nat → Nat → Src × Nat × Nat
  | 0, c, i => (.cell c i, 0, 0)
  | k + 1, c, i =>
    match nbrFrom s c i d eo with
    | .cell c2 i2 =>
      if own.contains c2 then shiftSrc s own d eo k c2 i2 else (.bit (xOf s c2 i2), k, 16384 * c + i)
    | r => (r, k, 16384 * c + i)

/-- Whether a 1 came into the cell with a key at a step of a leg that a yield has ended (R104, R130). -/
def legBit (x : ACtx) (step key : Nat) : Bool :=
  match x.legs.find? fun l => decide (step < l.1) with | some l => l.2.contains key | none => false

/-- Bit j of the field that such a place gives cell i: the frames of a LOCKSTEP partition carry one plane of one step each,
in that order (R139, R435); what came from another program before a yield is what came then. fr is the key of a free plane for
each bit. -/
def shiftBit (s : State) (x : ACtx) (lock : Bool) (fr i : Nat) (src : Src × Nat × Nat) (j : Nat) : Bool :=
  let e := descOf x.s
  let past := !lock && decide (src.2.1 < x.step)
  match src.1 with
  | .cell c k => (cellAt s c k).plane (e.base + j)
  | .bit v => if past then legBit x src.2.1 src.2.2 else v
  | .undef => (Config.freePlane (fr + j)).getLsbD i
  | .edge key l =>
    if past then legBit x src.2.1 src.2.2 else edgeBit s key l (if lock then src.2.1 * e.len + j else 0)

/-- The cells of block b, in its own program alone, into which a 1 comes now from outside it: what a leg of a shift keeps. -/
def legCells (s : State) (b : Nat) (x : ACtx) : List Nat :=
  let dir := (aOpt x.w / 128 + 2) % 4
  ((List.range 128).map fun l => match dir with
      | 0 => l | 1 => 128 * l + 127 | 2 => 128 * 127 + l | _ => 128 * l).filterMap fun i =>
    let one := match nbrFrom s b i dir (aOpt x.w / 32 % 4) with
      | .cell c k => c != b && xOf s c k
      | .bit v => v
      | .undef => false
      | .edge key l => edgeBit s key l 0
    if one then some (16384 * b + i) else none

/-- ASHF's check. -/
def ashfOk (x : ACtx) : Bool :=
  binOk x.d && binOk x.s && optIn x.w 0x1E0 && (descOf x.d).len == (descOf x.s).len && dstOk (descOf x.d)
    && srcOk (descOf x.s) && overlapOk (descOf x.d) (descOf x.s) false && decide (1 ≤ x.u) && decide (x.u < 4096)

/-- The edge data of steps lo to hi - 1 of a shift leaves this device: what its edge cells hold before each step. -/
def shiftSend (s : State) (b : Nat) (x : ACtx) (lo hi : Nat) : State :=
  let n := (partOf s b).getD 0
  let e := descOf x.s
  let dir := (aOpt x.w / 128 + 2) % 4
  if !cascadePart s n then s else
  (List.range (hi - lo)).foldl (fun t k => (List.range e.len).foldl (fun t j =>
    edgeSend t n ((dir + 2) % 4) (aOpt x.w / 32 % 4) fun c i =>
      shiftBit s x true s.free i (shiftSrc s (gang s b) dir (aOpt x.w / 32 % 4) (lo + k) c i) j) t) s

/-- ASHF (R139). Across a device boundary of a LOCKSTEP partition it waits for the edge data of every step, and sends the
data of a step as soon as what it is made of has arrived (R103, R435). -/
def ashfOp (s : State) (b : Nat) (x : ACtx) : State × Flow :=
  let d := descOf x.d
  let e := descOf x.s
  let own := gang s b
  let dir := (aOpt x.w / 128 + 2) % 4
  let eo := aOpt x.w / 32 % 4
  let k := bits x.u 11 0
  let here := edgeHere s b dir eo (k * e.len) / e.len
  let due := max x.cnt (min k (here + 1))
  let s1 := shiftSend s b x x.cnt due
  if here < k then parkWith s1 b { x with cnt := due } else
  let fr := s.free
  let lock := match partOf s b with | some n => lockstep s n | none => false
  let s2 := allOfGang { edgeTake s1 b dir eo (k * e.len) with free := fr + d.len } b x fun c i y =>
    let y := if y.a then
        let src := shiftSrc s own dir eo k c i
        y.setField d.base d.len ((List.range d.len).foldl (fun v j => v + b2n (shiftBit s x lock fr i src j) * 2 ^ j) 0)
      else y
    { y with t := y.a }
  (noteDst s2 b d, .next)

/-! ### Binary integers (R140-R143) -/

/-- D := f S U in active cells, with overflow to T under TOV (R140, R141). -/
def arithCell (x : ACtx) (f : Int → Int → Int) (c : Cell) : Cell :=
  let d := descOf x.d
  let v := f (c.int (descOf x.s)) (c.int (descOf x.u))
  let r := if c.a then c.putInt d v else c
  if x.w.testBit 0 then { r with t := c.a && outside d v } else r

/-- The effect of such an instruction. -/
def arithOp (s : State) (b : Nat) (x : ACtx) (f : Int → Int → Int) : State × Flow :=
  (noteDst (cellsOfGang s b x fun _ _ c => arithCell x f c) b (descOf x.d), .next)

/-- Operands of AADD, ASUB, ANEG (R140): no source longer than D. -/
def addOk (x : ACtx) (two : Bool) : Bool :=
  let d := descOf x.d
  binOk x.d && binOk x.s && optIn x.w 1 && dstOk d && srcOk (descOf x.s) && decide ((descOf x.s).len ≤ d.len)
    && overlapOk d (descOf x.s) false
    && (if two then binOk x.u && srcOk (descOf x.u) && decide ((descOf x.u).len ≤ d.len) && overlapOk d (descOf x.u) false
        else aU x.w == 0)

/-- Operands of AMUL and ADIV: no overlap at all (R126). -/
def mulOk (x : ACtx) (mask : Nat) : Bool :=
  let d := descOf x.d
  binOk x.d && binOk x.s && binOk x.u && optIn x.w mask && dstOk d && srcOk (descOf x.s) && srcOk (descOf x.u)
    && overlapOk d (descOf x.s) true && overlapOk d (descOf x.u) true

/-- ADIV (R142): T is judged block by block. -/
def adivOp (s : State) (b : Nat) (x : ACtx) : State × Flow :=
  let d := descOf x.d
  let tov := x.w.testBit 0
  let zero (c : Cell) : Bool := c.a && c.int (descOf x.u) == 0
  let by0 (k : Nat) : Bool := s.cells.any fun e => inBlock k e.1 && zero e.2
  let t := forEach (gang s b) (fun t k =>
    let any := by0 k
    cellsOfBlock t k x fun _ c =>
      let sv := c.int (descOf x.s)
      let uv := c.int (descOf x.u)
      let v := if x.w.testBit 1 then Int.tmod sv uv else Int.tdiv sv uv
      let r := if zero c then c.setPlane 2041 true else if c.a then c.putInt d v else c
      if tov || any then { r with t := zero c || (tov && c.a && outside d v) } else r) s
  (forEach (gang s b) (fun t k =>
    let t := noteFlagsOf t k d.base d.hi fun c => c.int (descOf x.u) != 0
    if by0 k then setDflag (dropRepair t k 2041 2041) k 2 else t) t, .next)

/-- The relations of R143. -/
def relInt (r : Nat) (x y : Int) : Bool :=
  match r with
  | 0 => x == y
  | 1 => x != y
  | 2 => decide (x < y)
  | 3 => decide (x ≤ y)
  | 4 => decide (y < x)
  | _ => decide (y ≤ x)

/-- ACMP (R143). -/
def acmpCell (x : ACtx) (c : Cell) : Cell :=
  let r := relInt (x.w % 8) (c.int (descOf x.s)) (c.int (descOf x.u))
  if x.w.testBit 3 then { c with a := c.a && r } else { c with t := r && c.a }

/-! ### Ganged words (R106-R109, R144, R145) -/

/-- The group width of block c (R56, R106). -/
def gangWidth (s : State) (c : Nat) : Nat :=
  let g := (mapGet (0 : BitVec 3) c s.cfg.gang).toNat
  if g = 0 then 1 else 2 ^ (g + 1)

/-- The value that the group of cell i holds in a field: word j in plane BASE + j, the least significant bit of a word at
the east end of the group (R106, R144). -/
def groupVal (s : State) (c i w : Nat) (d : Desc) : Nat :=
  let r := i / 128
  let k := i % 128 / w
  (List.range w).foldl (fun v t =>
    let y := cellAt s c (128 * r + w * k + (w - 1 - t))
    (List.range d.len).foldl (fun v j => v + b2n (y.plane (d.base + j)) * 2 ^ (w * j + t)) v) 0

/-- The same as the integer its SGN gives. -/
def groupInt (s : State) (c i w : Nat) (d : Desc) : Int :=
  let v := groupVal s c i w d
  if d.sgn then sgn (w * d.len) v else v

/-- AADDG, ASUBG and ACMPG: operands have equal LEN. -/
def gangOk (x : ACtx) (cmp : Bool) : Bool :=
  binOk x.s && binOk x.u && srcOk (descOf x.s) && srcOk (descOf x.u) && (descOf x.s).len == (descOf x.u).len
    && (if cmp then aD x.w == 0 && optIn x.w 7 && decide (x.w % 8 < 6) else
        binOk x.d && optIn x.w 1 && dstOk (descOf x.d) && (descOf x.d).len == (descOf x.s).len
          && overlapOk (descOf x.d) (descOf x.s) false && overlapOk (descOf x.d) (descOf x.u) false)

/-- The words of D in a cell of a serial block: the gang control is ignored there, so every word is the sum bit of the
cell's own two bits with carry-in 0, or of S and inverted U with carry-in 1, which are both their exclusive or (R145). -/
def serialSum (x : ACtx) (y : Cell) : Nat :=
  let d := descOf x.d
  (List.range d.len).foldl (fun a j =>
    a + b2n (y.plane ((descOf x.s).base + j) ^^ y.plane ((descOf x.u).base + j)) * 2 ^ j) 0

/-- AADDG and ASUBG (R144, R145). -/
def gangArith (s : State) (b : Nat) (x : ACtx) (f : Int → Int → Int) : State × Flow :=
  let d := descOf x.d
  let s0 := s
  let s := cellsOfGang s b x fun c i y =>
    let w := gangWidth s0 c
    let t := w - 1 - i % 128 % w
    let v := f (groupInt s0 c i w (descOf x.s)) (groupInt s0 c i w (descOf x.u))
    let m := wrap (w * d.len) v
    let z := if w = 1 then serialSum x y else (List.range d.len).foldl (fun a j => a + b2n (m.testBit (w * j + t)) * 2 ^ j) 0
    let r := if y.a then y.setField d.base d.len z else y
    if x.w.testBit 0 then { r with t := y.a && t + 1 == w && outside { d with len := w * d.len } v } else r
  (noteDst s b d, .next)

/-- ACMPG (R144). -/
def gangCmp (s : State) (b : Nat) (x : ACtx) : State × Flow :=
  let s0 := s
  (cellsOfGang s b x fun c i y =>
    let w := gangWidth s0 c
    { y with t := y.a && i % 128 % w == 0 &&
        relInt (x.w % 8) (groupInt s0 c i w (descOf x.s)) (groupInt s0 c i w (descOf x.u)) }, .next)

/-! ### Responders (R146, R147) -/

/-- The first responder of blocks in ascending order: its block and index. -/
def firstTag (s : State) (bs : List Nat) : Option (Nat × Nat) :=
  ((s.cells.find? fun e => e.2.t && bs.contains (e.1 / 16384))).map fun e => (e.1 / 16384, e.1 % 16384)

/-- The responder word: its device index (0 outside a cascade partition), block, row and column; or NONE (R146). -/
def tagWord (s : State) (b : Nat) (r : Option (Nat × Nat)) : Nat :=
  match r with
  | some (c, k) => (if cascadePart s ((partOf s b).getD 0) then myIdx s * 2 ^ 21 else 0) + c * 2 ^ 14 + k
  | none => 2 ^ 63

/-- The search has found r: wD takes the word, SELA sets A in the scope's cells, AENUM clears the responder's T. -/
def searchDone (s : State) (b : Nat) (x : ACtx) (word : Nat) (found : Nat → Option (Nat × Nat)) (enum : Bool) : State :=
  let s := if x.w.testBit 6 then
      cellsOfGang s b x fun c i y => { y with a := found c == some (c, i) }
    else s
  let s := if enum then
      forEach (gang s b) (fun s c => match found c with
        | some (c2, i) => if c2 = c then
            let y := cellAt s c i
            { s with cells := mapSet {} (16384 * c + i) { y with t := false } s.cells } else s
        | none => s) s
    else s
  wr s b (aD x.w) word

/-- The least k with n at most 2^k, for n up to 2,048. -/
def log2Up (n : Nat) : Nat := ((List.range 12).find? fun k => n ≤ 2 ^ k).getD 12

/-- The number of devices a search of a scope runs over. -/
def searchDevs (s : State) (b scope : Nat) : Nat :=
  if scopeCascade s b scope then (s.cfg.cascade.w.toNat + 1) * (s.cfg.cascade.h.toNat + 1) else 1

/-- Bits of a place among the blocks of a scope, and B + 14 of R146: the bisection steps of a search. -/
def searchBlk (s : State) (b scope : Nat) : Nat := log2Up (scopeBlocks s b scope).length
def searchBits (s : State) (b scope : Nat) : Nat := log2Up (searchDevs s b scope) + searchBlk s b scope + 14

/-- The first place in the search order that block c has: device, then block among those of the scope. -/
def searchBase (s : State) (b scope c : Nat) : Nat :=
  (if scopeCascade s b scope then myIdx s * 2 ^ searchBlk s b scope else 0) * 2 ^ 14
    + (scopeBlocks s b scope).idxOf c * 2 ^ 14

/-- A step of a search: every block of b's program requests through slot 3 the OR of its responders in the n places from lo
on. -/
def askRange (s : State) (b scope lo n : Nat) : State :=
  let t := forEach (gang s b) (fun t c =>
    let p := searchBase s b scope c
    let or := s.cells.any fun e => inBlock c e.1 && e.2.t && decide (lo ≤ p + e.1 % 16384) && decide (p + e.1 % 16384 < lo + n)
    setSlot t c 3 { slotOf t c 3 with busy := true, next := BitVec.ofNat 64 (b2n or * 2 ^ 63 + 2 ^ 58 + scope * 2 ^ 56) }) s
  gangCombine (sendPartial t b 3) b 3

/-- The result of the latest step is taken: step 0 tells whether there is a responder, the others halve the range. cnt is
twice the first place of the range, plus the OR of step 0. -/
def searchTake (s : State) (b scope : Nat) (x : ACtx) : ACtx :=
  if !x.again then x else
  let or := (slotOf s b 3).word.getLsbD 63
  { x with again := false
           cnt := if x.step = 1 then b2n or else if or then x.cnt else x.cnt + 2 * 2 ^ (searchBits s b scope - (x.step - 1)) }

/-- The search has ended: slot 3 holds the OR of step 0, and the responder is at place cnt / 2. -/
def searchEnd (s : State) (b scope : Nat) (x : ACtx) (enum : Bool) : State :=
  let or := x.cnt % 2 == 1
  let p := x.cnt / 2
  let blk := (scopeBlocks s b scope).getD (p / 2 ^ 14 % 2 ^ searchBlk s b scope) 0
  let dev := p / 2 ^ (14 + searchBlk s b scope)
  let word := if or then dev * 2 ^ 21 + blk * 2 ^ 14 + p % 2 ^ 14 else 2 ^ 63
  let mine := or && (!scopeCascade s b scope || dev == myIdx s)
  let s := forEach (gang s b) (fun s c => setSlot s c 3 { word := BitVec.ofNat 64 (b2n or * 2 ^ 63) }) s
  searchDone s b x word (fun _ => if mine then some (blk, p % 2 ^ 14) else none) enum

/-- A search goes on from the step at which it stands, as long as results are there. -/
def searchGo (b scope : Nat) (enum : Bool) : Nat → State → ACtx → State × Flow
  | 0, s, x => parkWith s b x
  | n + 1, s, x =>
    if x.again && slotBusy s b 3 then parkWith s b x else
    let x := searchTake s b scope x
    let k := searchBits s b scope
    if k < x.step then (searchEnd s b scope x enum, .next)
    else
      let s := if x.step = 0 then askRange s b scope 0 (2 ^ k) else askRange s b scope (x.cnt / 2) (2 ^ (k - x.step))
      searchGo b scope enum n s { x with step := x.step + 1, again := true }

/-- AFFS and AENUM (R146, R147). A scope that is the program's alone is searched at once, in every block of the program;
another advances by a step when every block of the scope, in every device of a cascade, has issued that step (R113). -/
def affsOp (s : State) (b : Nat) (x : ACtx) (op : Nat) : State × Flow :=
  let scope := aOpt x.w / 128
  let enum := op == 0x92
  if !x.again && slotBusy s b 3 then (s, .stay)
  else if ownScope s b scope && !scopeCascade s b scope then
    let s0 := s
    let s := forEach (gang s b) (fun s c => setSlot s c 3
      { word := BitVec.ofNat 64 (b2n (firstTag s0 (scopeBlocks s0 c scope)).isSome * 2 ^ 63) }) s
    (searchDone s b x (tagWord s0 b (firstTag s0 (scopeBlocks s0 b scope))) (fun c => firstTag s0 (scopeBlocks s0 c scope)) enum,
      .next)
  else searchGo b scope enum (searchBits s b scope + 2) s x

/-! ### Requests and sums (R148-R152) -/

/-- T := plane S.BASE and A in every cell, when SRC = 1 (R148). -/
def tagFrom (s : State) (b : Nat) (x : ACtx) : State :=
  if x.w.testBit 4 then cellsOfGang s b x fun _ _ c => { c with t := c.plane (bits x.s 10 0) && c.a } else s

/-- AOR and ACNT (R148). -/
def aorOp (s : State) (b : Nat) (x : ACtx) (cnt : Bool) : State × Flow :=
  let k := aOpt x.w / 32 % 4
  if slotBusy s b k then (s, .stay)
  else (gangRequest (tagFrom s b x) b k (aOpt x.w / 128) 0 true cnt, .next)

/-- Their check. -/
def aorOk (x : ACtx) : Bool :=
  aD x.w == 0 && aU x.w == 0 && optIn x.w 0x1F0 && decide (aOpt x.w / 128 < 3)
    && (if x.w.testBit 4 then planeOk x.s else aS x.w == 0)

/-- Words of the sum of a field of n planes (R150). -/
def sumWords (n : Nat) : Nat := (n + 26 + 63) / 64

/-- The sum of a field over the active cells of some blocks (R150, R151). -/
def sumOf (s : State) (bs : List Nat) (d : Desc) : Int :=
  s.cells.foldl (fun a e => if bs.contains (e.1 / 16384) && e.2.a then a + e.2.int d else a) 0

/-- How many of those cells are active with 1 in plane BASE + j. -/
def planeCount (s : State) (bs : List Nat) (p : Nat) : Nat :=
  s.cells.foldl (fun a e => if bs.contains (e.1 / 16384) && e.2.a && e.2.plane p then a + 1 else a) 0

/-- The word that slot k holds once an ASUM has issued n planes: the count of the last one issued to it, or its old word. -/
def sumSlot (s : State) (c scope k n : Nat) (d : Desc) : Slot :=
  match (List.range n).reverse.find? fun j => j % 4 == k with
  | some j => { word := BitVec.ofNat 64 (2 ^ 62 + planeCount s (scopeBlocks s c scope) (d.base + j)) }
  | none => slotOf s c k

/-- The sum written to the scratchpad of block c, T := A, and the slots left as R151 gives. -/
def sumDone (s0 : State) (b scope : Nat) (x : ACtx) (s : State) : State × Flow :=
  let d := descOf x.s
  let w := sumWords d.len
  let s := forEach (gang s0 b) (fun s c =>
    let s := writeVal s (bwin c + x.d) (16 * w) (wrap (64 * w) (sumOf s0 (scopeBlocks s0 c scope) d))
    forEach [0, 1, 2, 3] (fun s k => setSlot s c k (sumSlot s0 c scope k d.len d)) s) s
  (cellsOfGang s b x fun _ _ y => { y with t := y.a }, .next)

/-- The count of the latest plane is taken: cnt is the sum so far, modulo its W words. -/
def sumTake (s : State) (b : Nat) (x : ACtx) : ACtx :=
  if !x.again then x else
  let d := descOf x.s
  let m := 2 ^ (64 * sumWords d.len)
  let j := x.step - 1
  let v := bits (slotOf s b (j % 4)).word.toNat 31 0 * 2 ^ j
  { x with again := false, cnt := (x.cnt + if d.sgn && x.step == d.len then m - v % m else v) % m }

/-- A sum over other programs' blocks or other devices goes on, plane by plane, as long as results are there. -/
def sumGo (b scope : Nat) : Nat → State → ACtx → State × Flow
  | 0, s, x => parkWith s b x
  | n + 1, s, x =>
    if x.again && slotBusy s b ((x.step - 1) % 4) then parkWith s b x else
    let x := sumTake s b x
    let d := descOf x.s
    if d.len ≤ x.step then
      let s := forEach (gang s b) (fun s c => writeVal s (bwin c + x.d) (16 * sumWords d.len) x.cnt) s
      (cellsOfGang s b x fun _ _ y => { y with t := y.a }, .next)
    else
      let k := x.step % 4
      let s := cellsOfGang s b x fun _ _ y => { y with t := y.plane (d.base + x.step) && y.a }
      let s := gangCombine (gangRequest s b k scope 0 false true) b k
      sumGo b scope n s { x with step := x.step + 1, again := true }

/-- ASUM's scope reaches blocks of other programs or other devices, so that its requests combine plane by plane. -/
def sumSteps (s : State) (b : Nat) (x : ACtx) : Bool :=
  !ownScope s b (aOpt x.w / 128) || scopeCascade s b (aOpt x.w / 128)

/-- ASUM (R150, R151). -/
def asumOp (s : State) (b : Nat) (x : ACtx) : State × Flow :=
  let scope := aOpt x.w / 128
  if !x.again && [0, 1, 2, 3].any fun k => slotBusy s b k then (s, .stay)
  else if sumSteps s b x then sumGo b scope ((descOf x.s).len + 2) s x
  else sumDone s b scope x s

/-- ASUM's check (R150). -/
def asumOk (x : ACtx) : Bool :=
  let w := sumWords (descOf x.s).len
  binOk x.s && srcOk (descOf x.s) && aU x.w == 0 && optIn x.w 0x180 && decide (aOpt x.w / 128 < 3)
    && x.d % 16 == 0 && decide (x.d + 16 * w ≤ 0x80000)

/-- ARDS: the word of a slot once it is complete (R149). -/
def ardsOp (s : State) (b : Nat) (x : ACtx) : State × Flow :=
  let k := aOpt x.w % 4
  if (slotOf s b k).busy then (s, .stay) else (wr s b (aD x.w) (slotOf s b k).word.toNat, .next)

/-- ABAR: an OR request and the wait for its result (R152). -/
def abarOp (s : State) (b : Nat) (x : ACtx) : State × Flow :=
  let k := aOpt x.w / 32 % 4
  let scope := aOpt x.w / 128
  if x.again then (if slotBusy s b k then (s, .stay) else (s, .next))
  else if slotBusy s b k then (s, .stay)
  else
    let s := gangCombine (gangRequest s b k scope 0 true false) b k
    if slotBusy s b k then parkWith s b x else (s, .next)

/-! ### Turn memory (R153-R156) -/

/-- Byte address of byte i of the turn-memory area at digit offset off of block c. -/
def turnByte (c off i : Nat) : Nat := (0x100000 + bwin c + off) / 2 + i

/-- Bytes of an element, 0 for the PLANE aspect. -/
def aspectBytes (w : Nat) : Nat := let a := aOpt w / 64; if a = 0 then 0 else 2 ^ (a - 1)

/-- Their check (R153, R154). -/
def turnOk (x : ACtx) (store : Bool) : Bool :=
  let d := descOf x.d
  let e := aspectBytes x.w
  binOk x.d && aU x.w == 0 && optIn x.w (if store then 0x1E0 else 0x1C0) && decide (aOpt x.w / 64 < 7)
    && x.s % 256 == 0 && decide (x.s + aspectArea x ≤ 0x100000) && (e == 0 || decide (d.len ≤ 8 * e))
    && (if store then srcOk d else dstOk d)

/-- What ATLD reads for cell i of block c: bit j of the field (R153). -/
def turnVal (s : State) (c i : Nat) (x : ACtx) : Nat :=
  let d := descOf x.d
  let e := aspectBytes x.w
  if e = 0 then
    (List.range d.len).foldl (fun v j =>
      let y := (memByte s.mem (turnByte c x.s (2048 * j + 16 * (i / 128) + i % 128 / 8))).toNat
      v + y / 2 ^ (7 - i % 8) % 2 * 2 ^ j) 0
  else bytesVal ((List.range e).map fun k => memByte s.mem (turnByte c x.s (e * i + k)))

/-- What ATST does for cell i of block c. -/
def turnPut (m : List Host.Cell) (c i : Nat) (y : Cell) (x : ACtx) : List Host.Cell :=
  let d := descOf x.d
  let e := aspectBytes x.w
  if e = 0 then
    (List.range d.len).foldl (fun m j =>
      let a := turnByte c x.s (2048 * j + 16 * (i / 128) + i % 128 / 8)
      memSetByte m a (BitVec.ofNat 8 (putBits (memByte m a).toNat (7 - i % 8) (7 - i % 8) (b2n (y.plane (d.base + j)))))) m
  else
    let v := y.field d.base d.len
    let v := if x.w.testBit 5 && y.plane d.hi then v + (2 ^ (8 * e) - 2 ^ d.len) else v
    (List.range e).foldl (fun m k => memSetByte m (turnByte c x.s (e * i + k)) (BitVec.ofNat 8 (v / 256 ^ (e - 1 - k)))) m

/-- ATLD. -/
def atldOp (s : State) (b : Nat) (x : ACtx) : State × Flow :=
  let s0 := s
  writeActive s b x fun c i y => y.setField (descOf x.d).base (descOf x.d).len (turnVal s0 c i x)

/-- ATST. -/
def atstOp (s : State) (b : Nat) (x : ACtx) : State × Flow :=
  let s := forEach (gang s b) (fun s c =>
    let act := s.cells.filter fun e => inBlock c e.1 && e.2.a
    if act.isEmpty then s else
    let s := breakResv s (0x100000 + bwin c + x.s) (aspectArea x)
    let s := { s with mem := act.foldl (fun m e => turnPut m c (e.1 % 16384) e.2 x) s.mem }
    if act.length = 16384 then cleanWords s (0x100000 + bwin c + x.s) (aspectArea x) else s) s
  (cellsOfGang s b x fun _ _ y => y, .next)

/-- ALUT's check (R156). -/
def alutOk (x : ACtx) : Bool :=
  let d := descOf x.d
  let e := descOf x.s
  binOk x.d && binOk x.s && optIn x.w 0 && dstOk d && srcOk e && decide (e.len ≤ 12) && decide (d.len ≤ 64)
    && overlapOk d e true && x.u % 16 == 0 && decide (x.u + 16 * 2 ^ e.len ≤ 0x100000)

/-- One active cell of block c under the table entries lo to hi - 1 of ALUT, as they stand (R156). -/
def alutCell (s : State) (c : Nat) (x : ACtx) (lo hi : Nat) (y : Cell) : Cell :=
  let v := y.field (descOf x.s).base (descOf x.s).len
  if lo ≤ v ∧ v < hi then y.setField (descOf x.d).base (descOf x.d).len (readVal s (0x100000 + bwin c + x.u + 16 * v) 16) else y

/-- The flags of the cells whose D the table entries lo to hi - 1 of ALUT have written (R176). -/
def alutFlags (s : State) (b : Nat) (x : ACtx) (lo hi : Nat) : State :=
  forEach (gang s b) (fun s c => noteFlagsOf s c (descOf x.d).base (descOf x.d).hi fun y =>
    let v := y.field (descOf x.s).base (descOf x.s).len
    decide (lo ≤ v) && decide (v < hi)) s

/-- ALUT: the entry that S names, for the entries not read before (R156). -/
def alutOp (s : State) (b : Nat) (x : ACtx) : State × Flow :=
  let n := 2 ^ (descOf x.s).len
  let t := cellsOfGang s b x fun c _ y => if y.a then alutCell s c x x.step n y else y
  (alutFlags t b x x.step n, .next)

/-- ALOG (R132). -/
def execAlog (b : Blk) (w : BitVec 24) (s : State) : Host.Outcome State Fault Refusal :=
  .next (issueArr s b.toNat (wordOf 0x80 w) (fun _ x => alogOk x) fun s x => writeActive s b.toNat x fun _ _ c => alogCell x c)

/-- AMOV (R133). -/
def execAmov (b : Blk) (w : BitVec 24) (s : State) : Host.Outcome State Fault Refusal :=
  .next (issueArr s b.toNat (wordOf 0x81 w) (fun _ x => binOk x.d && binOk x.s && aU x.w == 0 && optIn x.w 0 && dstOk (descOf x.d)
    && srcOk (descOf x.s) && overlapOk (descOf x.d) (descOf x.s) false) fun s x => writeActive s b.toNat x fun _ _ c => amovCell x c)

/-- ASPL (R134). -/
def execAspl (b : Blk) (w : BitVec 24) (s : State) : Host.Outcome State Fault Refusal :=
  .next (issueArr s b.toNat (wordOf 0x82 w) (fun _ x => binOk x.d && dstOk (descOf x.d) && aU x.w == 0 && optIn x.w 0) fun s x => writeActive s b.toNat x fun _ _ c => asplCell x c)

/-- AACT (R135). -/
def execAact (b : Blk) (w : BitVec 24) (s : State) : Host.Outcome State Fault Refusal :=
  .next (issueArr s b.toNat (wordOf 0x83 w) (fun _ x => aactOk x) fun s x => aactOp s b.toNat x)

/-- ATAG (R136). -/
def execAtag (b : Blk) (w : BitVec 24) (s : State) : Host.Outcome State Fault Refusal :=
  .next (issueArr s b.toNat (wordOf 0x84 w) (fun _ x => atagOk x) fun s x => (cellsOfGang s b.toNat x fun _ _ c => atagCell x c, .next))

/-- ABRD (R137). -/
def execAbrd (b : Blk) (w : BitVec 24) (s : State) : Host.Outcome State Fault Refusal :=
  .next (issueArr s b.toNat (wordOf 0x85 w) (fun _ x => aD x.w == 0 && optIn x.w 1) fun s x => abrdOp s b.toNat x)

/-- ABCP (R138). -/
def execAbcp (b : Blk) (w : BitVec 24) (s : State) : Host.Outcome State Fault Refusal :=
  .next (issueArr s b.toNat (wordOf 0x86 w) (fun _ x => binOk x.d && binOk x.s && aU x.w == 0 && optIn x.w 1 && (descOf x.d).len == 1
    && (descOf x.s).len == 1 && dstOk (descOf x.d) && srcOk (descOf x.s) && overlapOk (descOf x.d) (descOf x.s) false) fun s x => abcpOp s b.toNat x)

/-- ASHF (R139). -/
def execAshf (b : Blk) (w : BitVec 24) (s : State) : Host.Outcome State Fault Refusal :=
  .next (issueArr s b.toNat (wordOf 0x87 w) (fun _ x => ashfOk x) fun s x => ashfOp s b.toNat x)

/-- AADD (R140). -/
def execAadd (b : Blk) (w : BitVec 24) (s : State) : Host.Outcome State Fault Refusal :=
  .next (issueArr s b.toNat (wordOf 0x88 w) (fun _ x => addOk x true) fun s x => arithOp s b.toNat x fun p q => p + q)

/-- ASUB (R140). -/
def execAsub (b : Blk) (w : BitVec 24) (s : State) : Host.Outcome State Fault Refusal :=
  .next (issueArr s b.toNat (wordOf 0x89 w) (fun _ x => addOk x true) fun s x => arithOp s b.toNat x fun p q => p - q)

/-- ANEG (R140). -/
def execAneg (b : Blk) (w : BitVec 24) (s : State) : Host.Outcome State Fault Refusal :=
  .next (issueArr s b.toNat (wordOf 0x8A w) (fun _ x => addOk x false) fun s x => arithOp s b.toNat x fun p _ => -p)

/-- AMUL (R141). -/
def execAmul (b : Blk) (w : BitVec 24) (s : State) : Host.Outcome State Fault Refusal :=
  .next (issueArr s b.toNat (wordOf 0x8B w) (fun _ x => mulOk x 1) fun s x => arithOp s b.toNat x fun p q => p * q)

/-- ADIV (R142). -/
def execAdiv (b : Blk) (w : BitVec 24) (s : State) : Host.Outcome State Fault Refusal :=
  .next (issueArr s b.toNat (wordOf 0x8C w) (fun _ x => mulOk x 3) fun s x => adivOp s b.toNat x)

/-- ACMP (R143). -/
def execAcmp (b : Blk) (w : BitVec 24) (s : State) : Host.Outcome State Fault Refusal :=
  .next (issueArr s b.toNat (wordOf 0x8D w) (fun _ x => binOk x.s && binOk x.u && aD x.w == 0 && optIn x.w 15 && decide (x.w % 8 < 6)
    && srcOk (descOf x.s) && srcOk (descOf x.u)) fun s x => (cellsOfGang s b.toNat x fun _ _ c => acmpCell x c, .next))

/-- AADDG (R144). -/
def execAaddg (b : Blk) (w : BitVec 24) (s : State) : Host.Outcome State Fault Refusal :=
  .next (issueArr s b.toNat (wordOf 0x8E w) (fun _ x => gangOk x false) fun s x => gangArith s b.toNat x fun p q => p + q)

/-- ASUBG (R144). -/
def execAsubg (b : Blk) (w : BitVec 24) (s : State) : Host.Outcome State Fault Refusal :=
  .next (issueArr s b.toNat (wordOf 0x8F w) (fun _ x => gangOk x false) fun s x => gangArith s b.toNat x fun p q => p - q)

/-- ACMPG (R144). -/
def execAcmpg (b : Blk) (w : BitVec 24) (s : State) : Host.Outcome State Fault Refusal :=
  .next (issueArr s b.toNat (wordOf 0x90 w) (fun _ x => gangOk x true) fun s x => gangCmp s b.toNat x)

/-- AFFS (R146). -/
def execAffs (b : Blk) (w : BitVec 24) (s : State) : Host.Outcome State Fault Refusal :=
  .next (issueArr s b.toNat (wordOf 0x91 w) (fun _ x => aS x.w == 0 && aU x.w == 0 && optIn x.w 0x1C0 && decide (aOpt x.w / 128 < 3)) fun s x => affsOp s b.toNat x 0x91)

/-- AENUM (R147). -/
def execAenum (b : Blk) (w : BitVec 24) (s : State) : Host.Outcome State Fault Refusal :=
  .next (issueArr s b.toNat (wordOf 0x92 w) (fun _ x => aS x.w == 0 && aU x.w == 0 && optIn x.w 0x1C0 && decide (aOpt x.w / 128 < 3)) fun s x => affsOp s b.toNat x 0x92)

/-- AOR (R148). -/
def execAor (b : Blk) (w : BitVec 24) (s : State) : Host.Outcome State Fault Refusal :=
  .next (issueArr s b.toNat (wordOf 0x93 w) (fun _ x => aorOk x) fun s x => aorOp s b.toNat x false)

/-- ACNT (R148). -/
def execAcnt (b : Blk) (w : BitVec 24) (s : State) : Host.Outcome State Fault Refusal :=
  .next (issueArr s b.toNat (wordOf 0x94 w) (fun _ x => aorOk x) fun s x => aorOp s b.toNat x true)

/-- ASUM (R150, R151). -/
def execAsum (b : Blk) (w : BitVec 24) (s : State) : Host.Outcome State Fault Refusal :=
  .next (issueArr s b.toNat (wordOf 0x95 w) (fun _ x => asumOk x) fun s x => asumOp s b.toNat x)

/-- ARDS (R149). -/
def execArds (b : Blk) (w : BitVec 24) (s : State) : Host.Outcome State Fault Refusal :=
  .next (issueArr s b.toNat (wordOf 0x96 w) (fun _ x => aS x.w == 0 && aU x.w == 0 && optIn x.w 3) fun s x => ardsOp s b.toNat x)

/-- ABAR (R152). -/
def execAbar (b : Blk) (w : BitVec 24) (s : State) : Host.Outcome State Fault Refusal :=
  .next (issueArr s b.toNat (wordOf 0x97 w) (fun _ x => aD x.w == 0 && aS x.w == 0 && aU x.w == 0 && optIn x.w 0x1E0 && decide (aOpt x.w / 128 < 3)) fun s x => abarOp s b.toNat x)

/-- ATLD (R153, R154). -/
def execAtld (b : Blk) (w : BitVec 24) (s : State) : Host.Outcome State Fault Refusal :=
  .next (issueArr s b.toNat (wordOf 0x98 w) (fun _ x => turnOk x false) fun s x => atldOp s b.toNat x)

/-- ATST (R153, R154). -/
def execAtst (b : Blk) (w : BitVec 24) (s : State) : Host.Outcome State Fault Refusal :=
  .next (issueArr s b.toNat (wordOf 0x99 w) (fun _ x => turnOk x true) fun s x => atstOp s b.toNat x)

/-- ALUT (R156). -/
def execAlut (b : Blk) (w : BitVec 24) (s : State) : Host.Outcome State Fault Refusal :=
  .next (issueArr s b.toNat (wordOf 0x9A w) (fun _ x => alutOk x) fun s x => alutOp s b.toNat x)

/-- ORC_COMBINE_RESULT (R112-R114): the results of the requests that wait in a slot reach it, when every block of the
scope has issued its request. One tree fault repeats the combine and is counted at the region's node; a second one raises
a machine check, whose element is the physical block (R375), and the request stays. -/
def execOrcCombineResult (b : Blk) (slot faults : BitVec 2) (s : State) : Host.Outcome State Fault Refusal :=
  let b := b.toNat
  let k := slot.toNat
  .next (if !slotBusy s b k || !scopeReady s b k then s
    else if faults = 0 then gangCombine s b k
    else
      let s := addSat s (R.ORN_GEOM (b / 8)) R.ORN_GEOM_TRETRY 1
      if 2 ≤ faults.toNat then blockCheck s b 1 0 else gangCombine s b k)

end Sys2Proof.Machine
end

