-- ==== Sys2Proof/Machine/Dec.lean ====
section
/-! DEFINITION. Decimal arithmetic on numbers (chapter 5): packed and zoned fields, DPD, the rounding procedure of R189
and the operations of R187 to R197. Array and scalar instructions share it (R206). Flags are bits: 0 invalid, 1 division
by zero, 2 overflow, 3 underflow, 4 inexact, 5 data exception, as planes 2040 to 2045 and SFLAG number them. -/

namespace Sys2Proof.Machine

/-! ### BCD digits -/

/-- The value of the low d digits of a BCD number; none when one of them is above 9. -/
def bcdVal : Nat → Nat → Option Nat
  | 0, _ => some 0
  | d + 1, v => if 9 < v % 16 then none else (bcdVal d (v / 16)).map fun r => 10 * r + v % 16

/-- The low d digits of a number in BCD. -/
def bcdOf : Nat → Nat → Nat
  | 0, _ => 0
  | d + 1, x => x % 10 + 16 * bcdOf d (x / 10)

/-- Digit count by division, at most n + 1. -/
def ndigGo : Nat → Nat → Nat
  | 0, _ => 1
  | n + 1, x => if x < 10 then 1 else 1 + ndigGo n (x / 10)

/-- ndig of R189. -/
def ndig (x : Nat) : Nat := ndigGo (Nat.log2 x) x

/-! ### Packed and zoned fields (R163, R177, R178) -/

/-- Whether sign code n reads as minus under SMAP; none for 0 to 9, a data exception. -/
def signMinus (dctl n : Nat) : Option Bool :=
  if n < 10 then none else some (decide (n < 15) && dctl.testBit (24 + (n - 10)))

/-- A packed field of d digits: sign and magnitude. -/
def packedVal (dctl v d : Nat) : Option (Bool × Nat) :=
  match signMinus dctl (v % 16), bcdVal d (v / 16) with
  | some m, some x => some (m, x)
  | _, _ => none

/-- The digits of a zoned field as BCD. -/
def zonedDigits : Nat → Nat → Nat
  | 0, _ => 0
  | d + 1, v => v % 16 + 16 * zonedDigits d (v / 256)

/-- A zoned field of d digits: the zone of byte 0 carries the sign, other zones are ignored. -/
def zonedVal (dctl v d : Nat) : Option (Bool × Nat) :=
  match signMinus dctl (v / 16 % 16), bcdVal d (zonedDigits d v) with
  | some m, some x => some (m, x)
  | _, _ => none

/-- The sign code of a result (R177). -/
def signCode (dctl : Nat) (neg fsgn : Bool) : Nat :=
  if neg then bits dctl 59 56 else if fsgn then 15 else bits dctl 63 60

/-- A packed result of d digits: its low digits with the sign of the exact result, and overflow (R179). -/
def packedOf (dctl d : Nat) (fsgn neg : Bool) (x : Nat) : Nat × Nat :=
  (16 * bcdOf d x + signCode dctl (neg && x != 0) fsgn, if x < 10 ^ d then 0 else 4)

/-- A zoned result of d digits, zones 0xF but for the sign. -/
def zonedOf (dctl d : Nat) (neg : Bool) (x : Nat) : Nat × Nat :=
  ((List.range d).foldl (fun v i =>
      v + (x / 10 ^ i % 10 + 16 * (if i = 0 then signCode dctl (neg && x != 0) false else 15)) * 256 ^ i) 0,
    if x < 10 ^ d then 0 else 4)

/-- Sign and magnitude as an integer, and back. -/
def smInt (p : Bool × Nat) : Int := if p.1 then -(p.2 : Int) else p.2
def intNeg (i : Int) : Bool := decide (i < 0)

/-! ### Densely packed decimal (R164, R185) -/

/-- The three digits of a declet, as a number. -/
def decletVal (v : Nat) : Nat :=
  let p2 := bits v 9 7
  let pq := bits v 9 8 * 2
  let r := bits v 7 7
  let s2 := bits v 6 4
  let st := bits v 6 5 * 2
  let u := bits v 4 4
  let y := bits v 0 0
  if !v.testBit 3 then 100 * p2 + 10 * s2 + bits v 2 0
  else match bits v 2 1 with
    | 0 => 100 * p2 + 10 * s2 + 8 + y
    | 1 => 100 * p2 + 10 * (8 + u) + st + y
    | 2 => 100 * (8 + r) + 10 * s2 + pq + y
    | _ => match bits v 6 5 with
      | 0 => 100 * (8 + r) + 10 * (8 + u) + pq + y
      | 1 => 100 * (8 + r) + 10 * (pq + u) + 8 + y
      | 2 => 100 * p2 + 10 * (8 + u) + 8 + y
      | _ => 100 * (8 + r) + 10 * (8 + u) + 8 + y

/-- The canonical declet of a number below 1,000. -/
def decletOf (x : Nat) : Nat :=
  let a := x / 100 % 10
  let e := x / 10 % 10
  let i := x % 10
  let hi (d : Nat) : Nat := d / 2 % 4
  let lo (d : Nat) : Nat := d % 2
  let f (pq r st u wx y : Nat) : Nat := pq * 256 + r * 128 + st * 32 + u * 16 + 8 + wx * 2 + y
  match decide (8 ≤ a), decide (8 ≤ e), decide (8 ≤ i) with
  | false, false, false => a * 128 + e * 16 + i
  | false, false, true => f (hi a) (lo a) (hi e) (lo e) 0 (lo i)
  | false, true, false => f (hi a) (lo a) (hi i) (lo e) 1 (lo i)
  | true, false, false => f (hi i) (lo a) (hi e) (lo e) 2 (lo i)
  | true, true, false => f (hi i) (lo a) 0 (lo e) 3 (lo i)
  | true, false, true => f (hi e) (lo a) 1 (lo e) 3 (lo i)
  | false, true, true => f (hi a) (lo a) 2 (lo e) 3 (lo i)
  | true, true, true => f 0 (lo a) 3 (lo e) 3 (lo i)

/-! ### Decimal numbers and formats (R186) -/

/-- A decimal floating-point value. -/
inductive DNum where
  | fin (neg : Bool) (c : Nat) (q : Int)
  | inf (neg : Bool)
  | qnan
  | snan
  deriving DecidableEq, Repr, Inhabited

/-- A format's precision and exponent range. -/
structure Fmt where
  p : Nat
  etiny : Int
  qmax : Int

def Fmt.emax (f : Fmt) : Int := f.qmax + f.p - 1
def Fmt.emin (f : Fmt) : Int := f.etiny + f.p - 1

/-- decimal64 and decimal128. -/
def dec64 : Fmt := { p := 16, etiny := -398, qmax := 369 }
def dec128 : Fmt := { p := 34, etiny := -6176, qmax := 6111 }
/-- LDEC of p digits in all. -/
def ldecFmt (p : Nat) : Fmt := { p := p, etiny := -134217728, qmax := 134217727 }

/-- The format of a wide (decimal128) or narrow operand. -/
def decFmt (wide : Bool) : Fmt := if wide then dec128 else dec64

/-- The value of an interchange encoding with n declets and an exponent continuation of e bits. -/
def decodeDpd (f : Fmt) (n e v : Nat) : DNum :=
  let w := 10 * n + e
  let neg := v.testBit (w + 5)
  let comb := v / 2 ^ w % 32
  let c := (List.range n).foldl (fun a i => a + decletVal (v / 2 ^ (10 * i) % 1024) * 1000 ^ i) 0
  let fin (msd hi : Nat) : DNum :=
    let c := msd * 1000 ^ n + c
    .fin neg (if c < 10 ^ f.p then c else 0) ((hi * 2 ^ e + v / 2 ^ (10 * n) % 2 ^ e : Nat) + f.etiny)
  if comb < 24 then fin (comb % 8) (comb / 8)
  else if comb < 30 then fin (8 + comb % 2) (comb / 2 % 4)
  else if comb = 30 then .inf neg
  else if v.testBit (w - 1) then .snan else .qnan

/-- The encoding of a value; a NaN is the canonical one (R192). -/
def encodeDpd (f : Fmt) (n e : Nat) : DNum → Nat
  | .fin neg c q =>
    let w := 10 * n + e
    let x := (q - f.etiny).toNat
    let msd := c / 1000 ^ n
    let hi := x / 2 ^ e
    let comb := if msd < 8 then 8 * hi + msd else 24 + 2 * hi + msd % 2
    b2n neg * 2 ^ (w + 5) + comb * 2 ^ w + x % 2 ^ e * 2 ^ (10 * n)
      + (List.range n).foldl (fun a i => a + decletOf (c / 1000 ^ i % 1000) * 2 ^ (10 * i)) 0
  | .inf neg => b2n neg * 2 ^ (10 * n + e + 5) + 30 * 2 ^ (10 * n + e)
  | _ => 31 * 2 ^ (10 * n + e)

/-- A decimal64 or decimal128 encoding read and written. -/
def decRead (wide : Bool) (v : Nat) : DNum := if wide then decodeDpd dec128 11 12 v else decodeDpd dec64 5 8 v
def decWrite (wide : Bool) (x : DNum) : Nat := if wide then encodeDpd dec128 11 12 x else encodeDpd dec64 5 8 x

/-! ### Rounding (R188, R189) -/

/-- c divided by 10^k and rounded in a mode: the result, and whether something was dropped. -/
def roundAt (mode : Nat) (neg : Bool) (c k : Nat) : Nat × Bool :=
  let hi := c / 10 ^ k
  let r := c % 10 ^ k
  if r = 0 then (hi, false) else
  let half := 5 * 10 ^ (k - 1)
  let inc := match mode with
    | 0 => decide (half < r) || (r == half && hi % 2 == 1)
    | 1 => decide (half ≤ r)
    | 2 => false
    | 3 => !neg
    | 4 => neg
    | 5 => decide (half < r)
    | 6 => true
    | _ => hi % 5 == 0
  (if inc then hi + 1 else hi, true)

/-- The rounding procedure of R189 for the exact value (-1)^neg × c × 10^q. -/
def roundDec (f : Fmt) (mode : Nat) (neg : Bool) (c : Nat) (q : Int) : DNum × Nat :=
  let tiny := c != 0 && decide ((ndig c : Int) + q - 1 < f.emin)
  let t := max (max q (q + ndig c - f.p)) f.etiny
  let (hi, rest) := roundAt mode neg c (t - q).toNat
  let (hi, t) := if f.p < ndig hi then (hi / 10, t + 1) else (hi, t)
  let fl := if rest then (if tiny then 24 else 16) else 0
  if hi ≠ 0 ∧ f.qmax < t then
    if (ndig hi : Int) + t - 1 ≤ f.emax then (.fin neg (hi * 10 ^ (t - f.qmax).toNat) f.qmax, fl)
    else if mode = 2 ∨ mode = 7 ∨ (mode = 3 ∧ neg) ∨ (mode = 4 ∧ !neg) then
      (.fin neg (10 ^ f.p - 1) f.qmax, Nat.lor fl 20)
    else (.inf neg, Nat.lor fl 20)
  else (.fin neg hi (if hi = 0 then min t f.qmax else t), fl)

/-! ### Operations (R187, R191-R196) -/

def DNum.isNan : DNum → Bool
  | .qnan => true
  | .snan => true
  | _ => false

def DNum.isSnan (x : DNum) : Bool := x == .snan

/-- What a NaN operand gives: the canonical NaN, invalid for a signalling one. -/
def nanOf (l : List DNum) : Option (DNum × Nat) :=
  if l.any DNum.isSnan then some (.qnan, 1) else if l.any DNum.isNan then some (.qnan, 0) else none

/-- The value with the other sign; a NaN stays as it is. -/
def DNum.neg : DNum → DNum
  | .fin n c q => .fin (!n) c q
  | .inf n => .inf (!n)
  | x => x

/-- The exact sum of two finite values, rounded; the sign of a zero by R191. -/
def addFin (f : Fmt) (mode : Nat) (n1 : Bool) (c1 : Nat) (q1 : Int) (n2 : Bool) (c2 : Nat) (q2 : Int) : DNum × Nat :=
  let q := min q1 q2
  let v := smInt (n1, c1 * 10 ^ (q1 - q).toNat) + smInt (n2, c2 * 10 ^ (q2 - q).toNat)
  let neg := if v = 0 then (if n1 == n2 then n1 else mode == 4) else intNeg v
  roundDec f mode neg v.natAbs q

/-- Sum. -/
def dAdd (f : Fmt) (mode : Nat) (x y : DNum) : DNum × Nat :=
  match nanOf [x, y] with
  | some r => r
  | none => match x, y with
    | .inf a, .inf b => if a == b then (.inf a, 0) else (.qnan, 1)
    | .inf a, _ => (.inf a, 0)
    | _, .inf b => (.inf b, 0)
    | .fin n1 c1 q1, .fin n2 c2 q2 => addFin f mode n1 c1 q1 n2 c2 q2
    | _, _ => (.qnan, 0)

/-- Product. -/
def dMul (f : Fmt) (mode : Nat) (x y : DNum) : DNum × Nat :=
  match nanOf [x, y] with
  | some r => r
  | none => match x, y with
    | .inf a, .inf b => (.inf (a != b), 0)
    | .inf a, .fin b c _ => if c = 0 then (.qnan, 1) else (.inf (a != b), 0)
    | .fin a c _, .inf b => if c = 0 then (.qnan, 1) else (.inf (a != b), 0)
    | .fin n1 c1 q1, .fin n2 c2 q2 => roundDec f mode (n1 != n2) (c1 * c2) (q1 + q2)
    | _, _ => (.qnan, 0)

/-- The quotient of two coefficients as R187 presents it: coefficient, and how far its exponent lies below the preferred
one. -/
def quotient (p c1 c2 : Nat) : Nat × Nat :=
  match (List.range (4 * p)).find? fun j => c1 * 10 ^ j % c2 == 0 with
  | some j => (c1 * 10 ^ j / c2, j)
  | none =>
    let k := p + 2 + ndig c2 - ndig c1
    let k := if ndig (c1 * 10 ^ k / c2) = p + 3 then k - 1 else k
    (c1 * 10 ^ k / c2 * 10 + 1, k + 1)

/-- Quotient. -/
def dDiv (f : Fmt) (mode : Nat) (x y : DNum) : DNum × Nat :=
  match nanOf [x, y] with
  | some r => r
  | none => match x, y with
    | .inf _, .inf _ => (.qnan, 1)
    | .inf a, .fin b _ _ => (.inf (a != b), 0)
    | .fin a _ _, .inf b => (.fin (a != b) 0 f.etiny, 0)
    | .fin n1 c1 q1, .fin n2 c2 q2 =>
      if c2 = 0 then (if c1 = 0 then (.qnan, 1) else (.inf (n1 != n2), 2))
      else
        let (c, j) := quotient f.p c1 c2
        roundDec f mode (n1 != n2) c (q1 - q2 - j)
    | _, _ => (.qnan, 0)

/-- Whether a product is 0 × infinity. -/
def zeroTimesInf : DNum → DNum → Bool
  | .inf _, .fin _ c _ => c == 0
  | .fin _ c _, .inf _ => c == 0
  | _, _ => false

/-- x × y + z with one rounding (R196). -/
def dFma (f : Fmt) (mode : Nat) (x y z : DNum) : DNum × Nat :=
  if [x, y, z].any DNum.isSnan || zeroTimesInf x y then (.qnan, 1) else
  match nanOf [x, y, z] with
  | some r => r
  | none =>
    let sg : DNum → Bool := fun d => match d with | .fin n _ _ => n | .inf n => n | _ => false
    match x, y, z with
    | .fin n1 c1 q1, .fin n2 c2 q2, .fin n3 c3 q3 => addFin f mode (n1 != n2) (c1 * c2) (q1 + q2) n3 c3 q3
    | .fin _ _ _, .fin _ _ _, .inf n => (.inf n, 0)
    | a, b, .inf n => if (sg a != sg b) == n then (.inf n, 0) else (.qnan, 1)
    | a, b, _ => (.inf (sg a != sg b), 0)

/-- quantize(x, y) (R195). -/
def dQuantize (f : Fmt) (mode : Nat) (x y : DNum) : DNum × Nat :=
  match nanOf [x, y] with
  | some r => r
  | none => match x, y with
    | .inf a, .inf _ => (.inf a, 0)
    | .fin n c q, .fin _ _ q2 =>
      let (c, rest) := if q2 ≤ q then (c * 10 ^ (q - q2).toNat, false) else roundAt mode n c (q2 - q).toNat
      if f.p < ndig c then (.qnan, 1) else (.fin n c q2, if rest then 16 else 0)
    | _, _ => (.qnan, 1)

/-- The order of two values without NaN: negative, zero or positive. -/
def dOrder : DNum → DNum → Int
  | .inf a, .inf b => if a == b then 0 else if a then -1 else 1
  | .inf a, _ => if a then -1 else 1
  | _, .inf b => if b then 1 else -1
  | .fin n1 c1 q1, .fin n2 c2 q2 =>
    let q := min q1 q2
    smInt (n1, c1 * 10 ^ (q1 - q).toNat) - smInt (n2, c2 * 10 ^ (q2 - q).toNat)
  | _, _ => 0

/-- A relation of R143 on an order. -/
def relOrder (rel : Nat) (o : Int) : Bool :=
  match rel with
  | 0 => o == 0
  | 1 => o != 0
  | 2 => decide (o < 0)
  | 3 => decide (o ≤ 0)
  | 4 => decide (0 < o)
  | _ => decide (0 ≤ o)

/-- A comparison (R194): the relation's value and the flags. -/
def dCompare (rel : Nat) (sig : Bool) (x y : DNum) : Bool × Nat :=
  if x.isNan || y.isNan then
    (rel == 1 || rel == 6, if x.isSnan || y.isSnan || (sig && rel != 6) then 1 else 0)
  else (rel != 6 && relOrder rel (dOrder x y), 0)

/-- A value brought into another format: R189, a NaN canonical (R197). -/
def dConvert (f : Fmt) (mode : Nat) (x : DNum) : DNum × Nat :=
  match nanOf [x] with
  | some r => r
  | none => match x with
    | .fin n c q => roundDec f mode n c q
    | y => (y, 0)

/-- A value rounded to an integer, and whether a fraction was dropped; none for NaN and infinity. -/
def dToInt (mode : Nat) : DNum → Option (Int × Bool)
  | .fin n c q =>
    if 0 ≤ q then some (smInt (n, c * 10 ^ q.toNat), false)
    else
      let (v, rest) := roundAt mode n c (-q).toNat
      some (smInt (n, v), rest)
  | _ => none

/-! ### LDEC (R165, R166, R201) -/

/-- The value that a head segment and the coefficient of its group give: bad is a fault that another segment has. DESIGN CHOICE
(log 102): the digits of an infinity are not looked at, as R165 has its coefficient ignored, although R201 names any digit above 9
a data exception. -/
def ldecVal (head : Nat) (coef : Option Nat) (bad : Bool) : Option DNum :=
  let neg := head.testBit 31
  match bits head 30 28 with
  | 0 => if bad then none else coef.map fun c => .fin neg c ((bits head 27 0 : Int) - 134217728)
  | 1 => if bad then none else some (.inf neg)
  | 2 => if bad || coef.isNone then none else some .qnan
  | 3 => if bad || coef.isNone then none else some .snan
  | _ => none

/-- The header and the coefficient of a value. -/
def ldecHead : DNum → Nat × Nat
  | .fin n c q => (b2n n * 2 ^ 31 + (q + 134217728).toNat % 2 ^ 28, c)
  | .inf n => (b2n n * 2 ^ 31 + 2 ^ 28, 0)
  | _ => (2 * 2 ^ 28, 0)

/-- The P of a descriptor's NDIG. -/
def ldecP (nd : Nat) : Nat := 64 * 2 ^ nd

/-- The value of a group from its segments' field values, the head first. -/
def ldecGroup (p : Nat) (segs : List Nat) : Option DNum :=
  let k := segs.length
  let hd (v : Nat) : Nat := v / 2 ^ (4 * p)
  let coef := segs.foldl (fun a v => match a, bcdVal p v with
    | some a, some d => some (a * 10 ^ p + d)
    | _, _ => none) (some 0)
  let bad := (List.range k).any fun i =>
    0 < i && hd (segs.getD i 0) != 7 * 2 ^ 28 + (k - 1 - i)
  ldecVal (hd (segs.getD 0 0)) coef bad

/-- The field value of segment j of a result of k segments. -/
def ldecSeg (p k j : Nat) (x : DNum) : Nat :=
  let (h, c) := ldecHead x
  bcdOf p (c / 10 ^ (p * j)) + (if j + 1 = k then h else 7 * 2 ^ 28 + j) * 2 ^ (4 * p)

/-! ### Descriptors and effects (R161, R162, R167, R172-R176) -/

/-- The bits of a decimal descriptor are those of its kind (R161, R162). -/
def decDescOk (v : Nat) : Bool :=
  let d := descOf v
  bits v 63 56 == 0 && bits v 47 40 == 0 && bits v 31 27 == 0 && !v.testBit 22 &&
    match d.kind with
    | 0 => d.nd == 0 && d.chk == 0 && decide (1 ≤ d.len) && decide (d.len ≤ 2031)
    | 1 => decide (1 ≤ d.nd) && d.chk == 0 && d.len == 4 * d.nd + 4
    | 2 => decide (1 ≤ d.nd) && d.chk == 0 && !d.sgn && d.len == 8 * d.nd
    | 3 => d.nd == 0 && d.chk == 0 && !d.sgn && d.len == 64
    | 4 => d.nd == 0 && d.chk == 0 && !d.sgn && d.len == 128
    | 5 => decide (d.nd ≤ 2) && !d.sgn && d.len == 4 * ldecP d.nd + 32
        && [0, 1, 3, 7, 15, 31, 63, 127, 255].contains d.chk
    | _ => false

/-- The number of cells of a group. -/
def Desc.k (d : Desc) : Nat := d.chk + 1

/-- First work plane and number of work planes (R167). -/
def workBase (x : ACtx) : Nat := bits x.dctl 42 32
def workLen (x : ACtx) : Nat := bits x.dctl 53 43

/-- The work area is large enough, within the user planes and apart from the operands (R167). -/
def workOk (x : ACtx) (need : Nat) (ops : List Desc) : Bool :=
  let w : Desc := { base := workBase x, len := workLen x, sgn := false, kind := 0, nd := 0, chk := 0 }
  decide (need ≤ w.len) && decide (1 ≤ w.len) && decide (w.hi ≤ 2031) && ops.all fun d => !meets w d

/-- The destination and sources of a decimal instruction: kinds, planes and overlaps. -/
def decOpsOk (x : ACtx) (kd ks : Nat) (ku : Option Nat) (need : Nat) : Bool :=
  let d := descOf x.d
  let s := descOf x.s
  let u := descOf x.u
  decDescOk x.d && decDescOk x.s && d.kind == kd && s.kind == ks && dstOk d && srcOk s && overlapOk d s false
    && (match ku with
        | some k => decDescOk x.u && u.kind == k && srcOk u && overlapOk d u false && workOk x need [d, s, u]
        | none => aU x.w == 0 && workOk x need [d, s])

/-- RM of the dispatched DCTL. -/
def decMode (x : ACtx) : Nat := bits x.dctl 2 0

/-- A cell with the flag planes of fl set and T as R174 gives. -/
def decFlags (x : ACtx) (fl : Nat) (c : Cell) : Cell :=
  let c := (List.range 6).foldl (fun c k => if fl.testBit k then c.setPlane (2040 + k) true else c) c
  { c with t := fl.testBit 5 || Nat.land (fl % 32) (bits x.dctl 12 8) != 0 }

/-- A cell that takes a result: the value of D, if it is written, and the flags raised. -/
def decPut (x : ACtx) (d : Desc) (r : Option Nat × Nat) (c : Cell) : Cell :=
  decFlags x r.2 (match r.1 with | some v => c.setField d.base d.len v | none => c)

/-- The bits of DFLAG.FL that such a result sets (R176). -/
def decFl (d : Desc) (r : Option Nat × Nat) : Nat :=
  match r.1 with
  | some v => if 2040 ≤ d.base then Nat.lor r.2 (v % 2 ^ d.len * 2 ^ (d.base - 2040) % 128) else r.2
  | none => r.2

/-- DFLAG of every block of the gang after the results of the cells that raise, and the work area of active cells
undefined (R167). -/
def decEnd (s0 s : State) (b : Nat) (x : ACtx) (fl : Nat → Nat) : State :=
  forEach (gang s0 b) (fun s c =>
    let s := dropRepair s c (workBase x) (workBase x + workLen x - 1)
    let s := (List.range 6).foldl (fun s k => if (fl c).testBit k then dropRepair s c (2040 + k) (2040 + k) else s) s
    setDflag (spoilPlanes s c (workBase x) (workLen x) (fun y => y.a)) c (fl c)) s

/-- The same for an instruction that writes D. -/
def decAfter (s0 s : State) (b : Nat) (x : ACtx) (fl : Nat → Nat) : State :=
  decEnd s0 (forEach (gang s0 b) (fun s c => dropRepair s c (descOf x.d).base (descOf x.d).hi) s) b x fl

/-- A decimal instruction whose result in a cell follows from that cell: f gives the value of D, if written, and the
flags. -/
def decCells (s : State) (b : Nat) (x : ACtx) (f : Cell → Option Nat × Nat) : State × Flow :=
  let d := descOf x.d
  let s1 := cellsOfGang s b x fun _ _ c => if c.a then decPut x d (f c) c else { c with t := false }
  (decAfter s s1 b x (fun k => s.cells.foldl (fun a e =>
    if inBlock k e.1 && e.2.a then Nat.lor a (decFl d (f e.2)) else a) 0), .next)

/-- The value of a field of a cell. -/
def Cell.val (c : Cell) (d : Desc) : Nat := c.field d.base d.len

end Sys2Proof.Machine
end

