-- ==== Sys2Proof/Machine/Packed.lean ====
section
/-! DEFINITION. The packed and zoned decimal instructions, opcodes 0xA0 to 0xAA (R177-R184). -/

namespace Sys2Proof.Machine

/-- The packed value of an operand of a cell. -/
def Cell.packed (c : Cell) (x : ACtx) (d : Desc) : Option (Bool × Nat) := packedVal x.dctl (c.val d) d.nd

/-- A packed result in D, from an exact integer. -/
def pkResult (x : ACtx) (v : Int) : Option Nat × Nat :=
  let d := descOf x.d
  let (w, fl) := packedOf x.dctl d.nd d.sgn (intNeg v) v.natAbs
  (some w, fl)

/-- What a data exception gives: D unchanged and flag 5 alone (R178). -/
def dataExc : Option Nat × Nat := (none, 32)

/-- A packed instruction of two sources. -/
def pkTwo (x : ACtx) (f : Bool × Nat → Bool × Nat → Option Nat × Nat) (c : Cell) : Option Nat × Nat :=
  match c.packed x (descOf x.s), c.packed x (descOf x.u) with
  | some p, some q => f p q
  | _, _ => dataExc

/-- APDIV (R181). -/
def pkDiv (x : ACtx) (p q : Bool × Nat) : Option Nat × Nat :=
  if q.2 = 0 then (none, 2) else
  let v := if x.w.testBit 1 then smInt (p.1, p.2 % q.2) else smInt (p.1 != q.1, p.2 / q.2)
  if 10 ^ (descOf x.d).nd ≤ v.natAbs then (none, 4) else pkResult x v

/-- APSRP (R182): k is the signed value of wU. DESIGN CHOICE (log 101): a value that does not fit D keeps its low digits and raises
flag 2 for k at or below 0 too, where R182 names no lost digit. -/
def pkShift (x : ACtx) (p : Bool × Nat) : Option Nat × Nat :=
  let k := sgn 64 x.u
  let mode := if x.w.testBit 3 then decMode x else x.w % 8
  if 0 ≤ k then pkResult x (smInt (p.1, p.2 * 10 ^ k.toNat))
  else
    let (v, rest) := roundAt mode p.1 p.2 (-k).toNat
    let (w, fl) := pkResult x (smInt (p.1, v))
    (w, if rest then Nat.lor fl 16 else fl)

/-- APCVB (R184). -/
def pkToBin (x : ACtx) (p : Bool × Nat) : Option Nat × Nat :=
  let d := descOf x.d
  (some (wrap d.len (smInt p)), if outside d (smInt p) then 4 else 0)

/-- A cell's result from one packed source. -/
def pkOne (x : ACtx) (f : Bool × Nat → Option Nat × Nat) (c : Cell) : Option Nat × Nat :=
  match c.packed x (descOf x.s) with
  | some p => f p
  | none => dataExc

/-- APPACK and APUNPK (R184). -/
def pkPack (x : ACtx) (c : Cell) : Option Nat × Nat :=
  match zonedVal x.dctl (c.val (descOf x.s)) (descOf x.s).nd with
  | some p => pkResult x (smInt p)
  | none => dataExc
def pkUnpack (x : ACtx) (p : Bool × Nat) : Option Nat × Nat :=
  let (w, fl) := zonedOf x.dctl (descOf x.d).nd p.1 p.2
  (some w, fl)

/-- Work need of APMUL and APDIV (R169). -/
def pkWork (x : ACtx) : Nat := 4 * ((descOf x.s).nd + (descOf x.u).nd) + 16

/-- APADD (R179). -/
def execApadd (b : Blk) (w : BitVec 24) (s : State) : Host.Outcome State Fault Refusal :=
  .next (issueArr s b.toNat (wordOf 0xA0 w) (fun _ x => decOpsOk x 1 1 (some 1) 8 && optIn x.w 0)
    fun s x => decCells s b.toNat x (pkTwo x fun p q => pkResult x (smInt p + smInt q)))

/-- APSUB (R179). -/
def execApsub (b : Blk) (w : BitVec 24) (s : State) : Host.Outcome State Fault Refusal :=
  .next (issueArr s b.toNat (wordOf 0xA1 w) (fun _ x => decOpsOk x 1 1 (some 1) 8 && optIn x.w 0)
    fun s x => decCells s b.toNat x (pkTwo x fun p q => pkResult x (smInt p - smInt q)))

/-- APMUL (R180). -/
def execApmul (b : Blk) (w : BitVec 24) (s : State) : Host.Outcome State Fault Refusal :=
  .next (issueArr s b.toNat (wordOf 0xA2 w)
    (fun _ x => decOpsOk x 1 1 (some 1) (pkWork x) && optIn x.w 0 && decide ((descOf x.s).nd ≤ 31))
    fun s x => decCells s b.toNat x (pkTwo x fun p q => pkResult x (smInt p * smInt q)))

/-- APDIV (R181). -/
def execApdiv (b : Blk) (w : BitVec 24) (s : State) : Host.Outcome State Fault Refusal :=
  .next (issueArr s b.toNat (wordOf 0xA3 w) (fun _ x => decOpsOk x 1 1 (some 1) (pkWork x) && optIn x.w 2)
    fun s x => decCells s b.toNat x (pkTwo x (pkDiv x)))

/-- APCMP (R183). -/
def execApcmp (b : Blk) (w : BitVec 24) (s : State) : Host.Outcome State Fault Refusal :=
  .next (issueArr s b.toNat (wordOf 0xA4 w)
    (fun _ x => decOpsOk x 0 1 (some 1) 8 && optIn x.w 7 && decide (x.w % 8 < 6) && (descOf x.d).len == 1)
    fun s x => decCells s b.toNat x (pkTwo x fun p q => (some (b2n (relInt (x.w % 8) (smInt p) (smInt q))), 0)))

/-- APSRP (R182). -/
def execApsrp (b : Blk) (w : BitVec 24) (s : State) : Host.Outcome State Fault Refusal :=
  .next (issueArr s b.toNat (wordOf 0xA5 w)
    (fun _ x =>
      let d := descOf x.d
      let e := descOf x.s
      decDescOk x.d && decDescOk x.s && d.kind == 1 && e.kind == 1 && dstOk d && srcOk e && overlapOk d e false
        && workOk x 8 [d, e] && optIn x.w 15 && decide (-255 ≤ sgn 64 x.u) && decide (sgn 64 x.u ≤ 255))
    fun s x => decCells s b.toNat x (pkOne x (pkShift x)))

/-- APSET (R179). -/
def execApset (b : Blk) (w : BitVec 24) (s : State) : Host.Outcome State Fault Refusal :=
  .next (issueArr s b.toNat (wordOf 0xA6 w) (fun _ x => decOpsOk x 1 1 none 8 && optIn x.w 0)
    fun s x => decCells s b.toNat x (pkOne x fun p => pkResult x (smInt p)))

/-- APCVB (R184). -/
def execApcvb (b : Blk) (w : BitVec 24) (s : State) : Host.Outcome State Fault Refusal :=
  .next (issueArr s b.toNat (wordOf 0xA7 w) (fun _ x => decOpsOk x 0 1 none 16 && optIn x.w 0)
    fun s x => decCells s b.toNat x (pkOne x (pkToBin x)))

/-- APCVD (R184). -/
def execApcvd (b : Blk) (w : BitVec 24) (s : State) : Host.Outcome State Fault Refusal :=
  .next (issueArr s b.toNat (wordOf 0xA8 w) (fun _ x => decOpsOk x 1 0 none 16 && optIn x.w 0)
    fun s x => decCells s b.toNat x fun c => pkResult x (c.int (descOf x.s)))

/-- APPACK (R184). -/
def execAppack (b : Blk) (w : BitVec 24) (s : State) : Host.Outcome State Fault Refusal :=
  .next (issueArr s b.toNat (wordOf 0xA9 w) (fun _ x => decOpsOk x 1 2 none 16 && optIn x.w 0)
    fun s x => decCells s b.toNat x (pkPack x))

/-- APUNPK (R184). -/
def execApunpk (b : Blk) (w : BitVec 24) (s : State) : Host.Outcome State Fault Refusal :=
  .next (issueArr s b.toNat (wordOf 0xAA w) (fun _ x => decOpsOk x 2 1 none 16 && optIn x.w 0)
    fun s x => decCells s b.toNat x (pkOne x (pkUnpack x)))

end Sys2Proof.Machine
end

