-- ==== Sys2Proof/Machine/Float.lean ====
section
/-! DEFINITION. The decimal floating-point array instructions, opcodes 0xAB to 0xB2 (R185-R197). -/

namespace Sys2Proof.Machine

/-- Whether a descriptor is DEC128. -/
def Desc.wide (d : Desc) : Bool := d.kind == 4

/-- A DEC64 or DEC128 operand of a cell. -/
def Cell.dec (c : Cell) (d : Desc) : DNum := decRead d.wide (c.val d)

/-- A floating-point result in D. -/
def dfResult (d : Desc) (r : DNum × Nat) : Option Nat × Nat := (some (decWrite d.wide r.1), r.2)

/-- D, S and U are of one DEC kind, with the work areas for DEC64 and DEC128. -/
def dfOk (x : ACtx) (n64 n128 : Nat) : Bool :=
  let d := descOf x.d
  (d.kind == 3 || d.kind == 4) && decOpsOk x d.kind d.kind (some d.kind) (if d.wide then n128 else n64) && optIn x.w 0

/-- An instruction of S, U and the old D. -/
def dfCells (s : State) (b : Nat) (x : ACtx) (f : Fmt → Nat → DNum → DNum → DNum → DNum × Nat) : State × Flow :=
  let d := descOf x.d
  decCells s b x fun c =>
    dfResult d (f (decFmt d.wide) (decMode x) (c.dec (descOf x.s)) (c.dec (descOf x.u)) (c.dec d))

/-- ADFCMP's check. -/
def dfCmpOk (x : ACtx) : Bool :=
  let e := descOf x.s
  (e.kind == 3 || e.kind == 4) && decOpsOk x 0 e.kind (some e.kind) 32 && (descOf x.d).len == 1 && optIn x.w 15
    && x.w % 8 != 7

/-- A value as a packed field: TOPACK (R197). -/
def dfToPack (dctl nd : Nat) (fsgn : Bool) : DNum → Option Nat × Nat
  | .fin n c _ => let (w, fl) := packedOf dctl nd fsgn n c
                  (some w, fl)
  | _ => (none, 1)

/-- A packed value as a decimal number: FROMPACK (R197). -/
def dfFromPack (f : Fmt) (mode : Nat) : Option (Bool × Nat) → Option (DNum × Nat)
  | some p => some (roundDec f mode p.1 p.2 0)
  | none => none

/-- A value as an integer with a range: TOBIN (R197). -/
def dfToBin (mode len : Nat) (out : Int → Bool) (v : DNum) : Option Nat × Nat :=
  match dToInt mode v with
  | some (i, rest) => if out i then (none, 1) else (some (wrap len i), if rest then 16 else 0)
  | none => (none, 1)

/-- The operands that a form of ADFCVT takes (R197). -/
def dfCvtOk (x : ACtx) : Bool :=
  let d := descOf x.d
  let e := descOf x.s
  let wd (k : Nat) : Nat := if k = 4 then 320 else 160
  optIn x.w 7 && match x.w % 8 with
    | 0 => decOpsOk x 4 3 none 320
    | 1 => decOpsOk x 3 4 none 320
    | 2 => (d.kind == 3 || d.kind == 4) && decOpsOk x d.kind 1 none (wd d.kind)
    | 3 => (e.kind == 3 || e.kind == 4) && decOpsOk x 1 e.kind none (wd e.kind)
    | 4 => (d.kind == 3 || d.kind == 4) && decOpsOk x d.kind 0 none (wd d.kind)
    | 5 => (e.kind == 3 || e.kind == 4) && decOpsOk x 0 e.kind none (wd e.kind)
    | _ => false

/-- ADFCVT in one cell (R197). -/
def dfCvtCell (x : ACtx) (c : Cell) : Option Nat × Nat :=
  let d := descOf x.d
  let e := descOf x.s
  let f := decFmt d.wide
  let m := decMode x
  match x.w % 8 with
  | 2 => match dfFromPack f m (c.packed x e) with
    | some r => dfResult d r
    | none => dataExc
  | 3 => dfToPack x.dctl d.nd d.sgn (c.dec e)
  | 4 => let i := c.int e
         dfResult d (roundDec f m (intNeg i) i.natAbs 0)
  | 5 => dfToBin m d.len (outside d) (c.dec e)
  | _ => dfResult d (dConvert f m (c.dec e))

/-- ADFADD (R187). -/
def execAdfadd (b : Blk) (w : BitVec 24) (s : State) : Host.Outcome State Fault Refusal :=
  .next (issueArr s b.toNat (wordOf 0xAB w) (fun _ x => dfOk x 160 320)
    fun s x => dfCells s b.toNat x fun f m p q _ => dAdd f m p q)

/-- ADFSUB (R187). -/
def execAdfsub (b : Blk) (w : BitVec 24) (s : State) : Host.Outcome State Fault Refusal :=
  .next (issueArr s b.toNat (wordOf 0xAC w) (fun _ x => dfOk x 160 320)
    fun s x => dfCells s b.toNat x fun f m p q _ => dAdd f m p q.neg)

/-- ADFMUL (R187). -/
def execAdfmul (b : Blk) (w : BitVec 24) (s : State) : Host.Outcome State Fault Refusal :=
  .next (issueArr s b.toNat (wordOf 0xAD w) (fun _ x => dfOk x 160 320)
    fun s x => dfCells s b.toNat x fun f m p q _ => dMul f m p q)

/-- ADFDIV (R187). -/
def execAdfdiv (b : Blk) (w : BitVec 24) (s : State) : Host.Outcome State Fault Refusal :=
  .next (issueArr s b.toNat (wordOf 0xAE w) (fun _ x => dfOk x 160 320)
    fun s x => dfCells s b.toNat x fun f m p q _ => dDiv f m p q)

/-- ADFFMA (R196). -/
def execAdffma (b : Blk) (w : BitVec 24) (s : State) : Host.Outcome State Fault Refusal :=
  .next (issueArr s b.toNat (wordOf 0xAF w) (fun _ x => dfOk x 256 480)
    fun s x => dfCells s b.toNat x fun f m p q r => dFma f m p q r)

/-- ADFQUA (R195). -/
def execAdfqua (b : Blk) (w : BitVec 24) (s : State) : Host.Outcome State Fault Refusal :=
  .next (issueArr s b.toNat (wordOf 0xB0 w) (fun _ x => dfOk x 160 320)
    fun s x => dfCells s b.toNat x fun f m p q _ => dQuantize f m p q)

/-- ADFCMP (R194). -/
def execAdfcmp (b : Blk) (w : BitVec 24) (s : State) : Host.Outcome State Fault Refusal :=
  .next (issueArr s b.toNat (wordOf 0xB1 w) (fun _ x => dfCmpOk x) fun s x => decCells s b.toNat x fun c =>
    let (r, fl) := dCompare (x.w % 8) (x.w.testBit 3) (c.dec (descOf x.s)) (c.dec (descOf x.u))
    (some (b2n r), fl))

/-- ADFCVT (R197). -/
def execAdfcvt (b : Blk) (w : BitVec 24) (s : State) : Host.Outcome State Fault Refusal :=
  .next (issueArr s b.toNat (wordOf 0xB2 w) (fun _ x => dfCvtOk x) fun s x => decCells s b.toNat x (dfCvtCell x))

end Sys2Proof.Machine
end

