-- ==== Sys2Proof/Machine/Long.lean ====
section
/-! DEFINITION. The long-decimal instructions, opcodes 0xB3 to 0xB9 (R165, R166, R201-R205). -/

namespace Sys2Proof.Machine

/-! ### Groups of cells (R166) -/

/-- The cells of the group of k cells that holds cell i of block c, the head first. A group of 256 cells spans two block
columns of a region, or two rows of a block whose line is its own chain (R54); a shorter one lies in one row. -/
def groupCells (s : State) (c i k : Nat) : List (Nat × Nat) :=
  let g := partCfg s ((partOf s c).getD 0)
  if k ≤ 128 ∨ (g.ew = 2 ∧ g.scope = 0) then (List.range k).map fun j => (c, i - i % k + j)
  else (List.range k).map fun j => (c - c % 2 + j / 128, 128 * (i / 128) + j % 128)

/-- The position of a cell in the group of k cells that holds it, 0 at the head. -/
def groupPos (s : State) (c i k : Nat) : Nat :=
  let g := partCfg s ((partOf s c).getD 0)
  if k ≤ 128 ∨ (g.ew = 2 ∧ g.scope = 0) then i % k else 128 * (c % 2) + i % 128

/-- The value of an LDEC operand of the group whose head is cell i of block c (R165, R201). -/
def groupDec (s : State) (c i : Nat) (d : Desc) : Option DNum :=
  ldecGroup (ldecP d.nd) ((groupCells s c i d.k).map fun e => (cellAt s e.1 e.2).val d)

/-- The result in cell i of block c of an instruction on groups: k is the spacing at which groups begin, f gives the
result of the group whose head it is given, its value and flags, none for a data exception. DESIGN CHOICE (log 67): the flags, the
data exception and T of a group are those of its head cell. -/
def longCell (s0 : State) (x : ACtx) (k : Nat) (f : Nat → Nat → Option (DNum × Nat)) (c i : Nat) (y : Cell) : Cell :=
  let d := descOf x.d
  let j := groupPos s0 c i k
  let y := { y with t := false }
  if d.k ≤ j then y else
  match (groupCells s0 c i k).head? with
  | none => y
  | some h =>
    if !(cellAt s0 h.1 h.2).a then y else
    match f h.1 h.2 with
    | none => if j = 0 then decFlags x 32 y else y
    | some (v, fl) =>
      let y := y.setField d.base d.len (ldecSeg (ldecP d.nd) d.k (d.k - 1 - j) v)
      if j = 0 then decFlags x fl y else y

/-- An instruction whose result in D follows from groups of cells. DESIGN CHOICE (log 105): of a group that spans two blocks an
instruction of an INDEPENDENT partition writes the half in its own block, where the head is active, in whichever block the head
lies. Every cell of a group that is written is settled as
a writing cell is (R128). -/
def longOp (s : State) (b : Nat) (x : ACtx) (k : Nat) (f : State → Nat → Nat → Option (DNum × Nat)) : State × Flow :=
  let wrote (c i : Nat) : Bool := decide (groupPos s c i k < (descOf x.d).k) &&
    match (groupCells s c i k).head? with | some h => (cellAt s h.1 h.2).a && (f s h.1 h.2).isSome | none => false
  let s1 := forEach (gang s b) (fun t c =>
    mapCells t c fun i y =>
      let z := longCell s x k (f s) c i y
      if y.a || wrote c i then settle x y z else z) s
  (decAfter s s1 b x (fun c => s.cells.foldl (fun a e =>
    if inBlock c e.1 && e.2.a && groupPos s c (e.1 % 16384) k == 0 then
      Nat.lor a (match f s c (e.1 % 16384) with | some r => r.2 | none => 32)
    else a) 0), .next)

/-! ### Arithmetic (R201, R202) -/

/-- D, S and U are LDEC of equal P and K. -/
def ldOk (x : ACtx) (chain : Bool) : Bool :=
  let d := descOf x.d
  let e := descOf x.s
  let u := descOf x.u
  decOpsOk x 5 5 (some 5) (4 * ldecP d.nd + 64) && optIn x.w 0 && d.nd == e.nd && d.nd == u.nd && d.chk == e.chk
    && d.chk == u.chk && (chain || d.chk == 0)

/-- Such an operation on every group whose head is active. -/
def ldArith (s : State) (b : Nat) (x : ACtx) (g : Fmt → Nat → DNum → DNum → DNum × Nat) : State × Flow :=
  let d := descOf x.d
  longOp s b x d.k fun s c i =>
    match groupDec s c i (descOf x.s), groupDec s c i (descOf x.u) with
    | some p, some q => some (g (ldecFmt (d.k * ldecP d.nd)) (decMode x) p q)
    | _, _ => none

/-- ALDADD (R201, R202). -/
def execAldadd (b : Blk) (w : BitVec 24) (s : State) : Host.Outcome State Fault Refusal :=
  .next (issueArr s b.toNat (wordOf 0xB3 w) (fun _ x => ldOk x true)
    fun s x => ldArith s b.toNat x fun f m p q => dAdd f m p q)

/-- ALDSUB (R201, R202). -/
def execAldsub (b : Blk) (w : BitVec 24) (s : State) : Host.Outcome State Fault Refusal :=
  .next (issueArr s b.toNat (wordOf 0xB4 w) (fun _ x => ldOk x true)
    fun s x => ldArith s b.toNat x fun f m p q => dAdd f m p q.neg)

/-- ALDMUL (R201). -/
def execAldmul (b : Blk) (w : BitVec 24) (s : State) : Host.Outcome State Fault Refusal :=
  .next (issueArr s b.toNat (wordOf 0xB5 w) (fun _ x => ldOk x false)
    fun s x => ldArith s b.toNat x fun f m p q => dMul f m p q)

/-- ALDDIV (R201). -/
def execAlddiv (b : Blk) (w : BitVec 24) (s : State) : Host.Outcome State Fault Refusal :=
  .next (issueArr s b.toNat (wordOf 0xB6 w) (fun _ x => ldOk x false)
    fun s x => ldArith s b.toNat x fun f m p q => dDiv f m p q)

/-! ### Conversions (R203) -/

/-- The operands that a form of ALDCVT takes. -/
def ldCvtOk (x : ACtx) : Bool :=
  let d := descOf x.d
  let e := descOf x.s
  optIn x.w 7 && match x.w % 8 with
    | 0 => decOpsOk x 5 4 none 64 && d.chk == 0
    | 1 => decOpsOk x 5 3 none 64 && d.chk == 0
    | 2 => decOpsOk x 4 5 none 64 && e.chk == 0
    | 3 => decOpsOk x 3 5 none 64 && e.chk == 0
    | 4 => decOpsOk x 5 5 none 64 && (d.nd != e.nd || d.chk != e.chk)
    | _ => false

/-- ALDCVT. Form 4 puts the group of D at the head of the group of S. -/
def ldCvt (s : State) (b : Nat) (x : ACtx) : State × Flow :=
  let d := descOf x.d
  let e := descOf x.s
  match x.w % 8 with
  | 2 | 3 => decCells s b x fun c =>
      match ldecGroup (ldecP e.nd) [c.val e] with
      | some v => dfResult d (dConvert (decFmt d.wide) (decMode x) v)
      | none => dataExc
  | 4 => longOp s b x (max d.k e.k) fun s c i =>
      (groupDec s c i e).map fun v => dConvert (ldecFmt (d.k * ldecP d.nd)) (decMode x) v
  | _ => decCells s b x fun c =>
      let r := dConvert (ldecFmt (ldecP d.nd)) (decMode x) (c.dec e)
      (some (ldecSeg (ldecP d.nd) 1 0 r.1), r.2)

/-- ALDCVT (R203). -/
def execAldcvt (b : Blk) (w : BitVec 24) (s : State) : Host.Outcome State Fault Refusal :=
  .next (issueArr s b.toNat (wordOf 0xB7 w) (fun _ x => ldCvtOk x) fun s x => ldCvt s b.toNat x)

/-! ### Limbs (R204, R205) -/

/-- r0 and the number of rows that wU gives. -/
def limbR0 (x : ACtx) : Nat := bits x.u 6 0
def limbNr (x : ACtx) : Nat := bits x.u 13 7 + 1

/-- The rows lie in the block and the area in the turn memory, per digits a cell. -/
def limbOk (x : ACtx) (at_ per : Nat) : Bool :=
  x.u / 2 ^ 14 == 0 && decide (limbR0 x + limbNr x ≤ 128) && decide (at_ + per * 128 * limbNr x ≤ 0x100000)

/-- Whether cell index i lies in the rows of the instruction, and its place among them. -/
def limbIn (x : ACtx) (i : Nat) : Bool := decide (limbR0 x ≤ i / 128) && decide (i / 128 < limbR0 x + limbNr x)
def limbIdx (x : ACtx) (i : Nat) : Nat := i - 128 * limbR0 x

/-- Turn-memory digit offset off of block c as a digit address. -/
def turnAt (c off : Nat) : Nat := 0x100000 + bwin c + off

/-- The digits of a cell's limbs, four hexadecimal digits a limb, limb 0 first. -/
def limbDigits (p v : Nat) : List Nat :=
  (List.range (p / 4)).flatMap fun j => digitsOf 4 ((bcdVal 4 (v / 2 ^ (16 * j))).getD 0)

/-- ALDSPL: the coefficient digits of every segment whose cell is active; an active cell of a group whose operand has a fault
raises the data exception (R178, R201). -/
def ldSplit (s : State) (b : Nat) (x : ACtx) : State × Flow :=
  let e := descOf x.s
  let p := ldecP e.nd
  let bad (c i : Nat) : Bool :=
    match (groupCells s c i e.k).head? with
    | some h => (groupDec s h.1 h.2 e).isNone || (groupCells s c i e.k).any fun k =>
        (bcdVal p ((cellAt s k.1 k.2).val e)).isNone
    | none => true
  let s1 := forEach (gang s b) (fun t c =>
    (s.cells.filter fun y => inBlock c y.1 && y.2.a && limbIn x (y.1 % 16384) && !bad c (y.1 % 16384)).foldl (fun t y =>
      writeDigits t (turnAt c (x.d + p * limbIdx x (y.1 % 16384))) (limbDigits p (y.2.val e))) t) s
  let fl (c i : Nat) : Nat := if bad c i then 32 else 0
  let s2 := cellsOfGang s1 b x fun c i y => if y.a then decFlags x (fl c i) y else { y with t := false }
  (decEnd s s2 b x (fun c => s.cells.foldl (fun a y =>
    if inBlock c y.1 && y.2.a then Nat.lor a (fl c (y.1 % 16384)) else a) 0), .next)

/-- ALDSPL's check: the D field is 0, so the area begins at w0. -/
def ldSplitOk (x : ACtx) : Bool :=
  let e := descOf x.s
  aD x.w == 0 && optIn x.w 0 && decDescOk x.s && e.kind == 5 && srcOk e && workOk x 32 [e] && x.d % 256 == 0
    && limbOk x x.d (ldecP e.nd)

/-- The limbs of a cell, summed with their weights. -/
def limbSum (s : State) (c i : Nat) (x : ACtx) (p : Nat) : Nat :=
  if limbIn x i then
    (List.range (p / 4)).foldl (fun a j =>
      a + readVal s (turnAt c (x.s + 4 * p * limbIdx x i + 16 * j)) 16 * 10 ^ (4 * j)) 0
  else 0

/-- ALDNRM: the value of every group whose head is active; cells outside the rows add nothing. -/
def ldNorm (s : State) (b : Nat) (x : ACtx) : State × Flow :=
  let d := descOf x.d
  let p := ldecP d.nd
  longOp s b x d.k fun s c i =>
    let v := (groupCells s c i d.k).foldl (fun a e => a * 10 ^ p + limbSum s e.1 e.2 x p) 0
    some (roundDec (ldecFmt (d.k * p)) (decMode x) false v 0)

/-- ALDNRM's check. -/
def ldNormOk (x : ACtx) : Bool :=
  let d := descOf x.d
  optIn x.w 0 && decDescOk x.d && d.kind == 5 && dstOk d && workOk x 96 [d] && limbOk x x.s (4 * ldecP d.nd)

/-- ALDSPL (R204). -/
def execAldspl (b : Blk) (w : BitVec 24) (s : State) : Host.Outcome State Fault Refusal :=
  .next (issueArr s b.toNat (wordOf 0xB8 w) (fun _ x => ldSplitOk x) fun s x => ldSplit s b.toNat x)

/-- ALDNRM (R205). -/
def execAldnrm (b : Blk) (w : BitVec 24) (s : State) : Host.Outcome State Fault Refusal :=
  .next (issueArr s b.toNat (wordOf 0xB9 w) (fun _ x => ldNormOk x) fun s x => ldNorm s b.toNat x)

end Sys2Proof.Machine
end

