-- ==== Sys2Proof/Machine/Scalar.lean ====
section
/-! DEFINITION. The integer and immediate instructions, opcodes 0x01 to 0x2A (R240-R242). -/

namespace Sys2Proof.Machine

/-- A REG instruction: D := f S U FN D. ok says which FN values R240 gives it; uZero that U must be 0. -/
def regOp (s : State) (b w : Nat) (uZero : Bool) (ok : Nat → Bool) (f : Nat → Nat → Nat → Nat → Nat) : State × Flow :=
  if !ok (fFN w) || (uZero && fU w != 0) then illegal s w
  else (wr s b (fD w) (f (rd s b (fS w)) (rd s b (fU w)) (fFN w) (rd s b (fD w))), .next)

/-- The register fields of a REG instruction. -/
def regFields (w : Nat) : List Nat := [fD w, fS w, fU w]

/-- A REG instruction issued. -/
def issueReg (s : State) (b w : Nat) (uZero : Bool) (ok : Nat → Bool) (f : Nat → Nat → Nat → Nat → Nat) : State :=
  issue s b w (regFields w) false fun s => regOp s b w uZero ok f

/-- An IMM instruction: D := f S IMM12; ok says which words R240 allows. -/
def issueImm (s : State) (b w : Nat) (ok : Nat → Bool) (f : Nat → Nat → Nat) : State :=
  issue s b w [fD w, fS w] false fun s =>
    if !ok (bits w 11 0) then illegal s w else (wr s b (fD w) (f (rd s b (fS w)) (immS w)), .next)

/-- FN must be 0. -/
def fn0 (fn : Nat) : Bool := fn == 0
/-- FN[0] selects unsigned. -/
def fn1 (fn : Nat) : Bool := decide (fn ≤ 1)

/-- The sum of two registers with the nibble carries written (R262). -/
def addNcy (s : State) (b d x y : Nat) : State :=
  wr (setF s (R.NCY b) R.NCY_NCY (nibbleCarries x y)) b d ((x + y) % 2 ^ 64)

/-- S divided by U, truncated (R242). -/
def divOp (x y : Nat) (unsigned : Bool) : Nat :=
  if y = 0 then 2 ^ 64 - 1 else if unsigned then x / y else wrap 64 (Int.tdiv (sgn 64 x) (sgn 64 y))

/-- The remainder, with the sign of S (R242). -/
def remOp (x y : Nat) (unsigned : Bool) : Nat :=
  if y = 0 then x else if unsigned then x % y else wrap 64 (Int.tmod (sgn 64 x) (sgn 64 y))

/-- Leading zero bits of a 64-bit value. -/
def clz64 (x : Nat) : Nat := ((List.range 64).find? fun i => x.testBit (63 - i)).getD 64

/-- One bits of a 64-bit value. -/
def popc64 (x : Nat) : Nat := (List.range 64).foldl (fun a i => a + bits x i i) 0

/-- x shifted right by k, the sign bit repeated. -/
def sar64 (x k : Nat) : Nat := wrap 64 (sgn 64 x / (2 ^ k : Nat))

/-- ADD (R240): D := S + U, and NCY (R262). -/
def execAdd (b : Blk) (w : BitVec 24) (s : State) : Host.Outcome State Fault Refusal :=
  .next (issue s b.toNat (wordOf 0x01 w) (regFields (wordOf 0x01 w)) false fun s =>
    if fFN (wordOf 0x01 w) ≠ 0 then illegal s (wordOf 0x01 w)
    else (addNcy s b.toNat (fD (wordOf 0x01 w)) (rd s b.toNat (fS (wordOf 0x01 w))) (rd s b.toNat (fU (wordOf 0x01 w))), .next))

/-- SUB (R240): D := S - U. -/
def execSub (b : Blk) (w : BitVec 24) (s : State) : Host.Outcome State Fault Refusal :=
  .next (issueReg s b.toNat (wordOf 0x02 w) false fn0 fun x y _ _ => (x + (2 ^ 64 - y)) % 2 ^ 64)

/-- AND (R240). -/
def execAnd (b : Blk) (w : BitVec 24) (s : State) : Host.Outcome State Fault Refusal :=
  .next (issueReg s b.toNat (wordOf 0x03 w) false fn0 fun x y _ _ => Nat.land x y)

/-- OR (R240). -/
def execOr (b : Blk) (w : BitVec 24) (s : State) : Host.Outcome State Fault Refusal :=
  .next (issueReg s b.toNat (wordOf 0x04 w) false fn0 fun x y _ _ => Nat.lor x y)

/-- XOR (R240). -/
def execXor (b : Blk) (w : BitVec 24) (s : State) : Host.Outcome State Fault Refusal :=
  .next (issueReg s b.toNat (wordOf 0x05 w) false fn0 fun x y _ _ => Nat.xor x y)

/-- ANDN (R240): D := S and not U. -/
def execAndn (b : Blk) (w : BitVec 24) (s : State) : Host.Outcome State Fault Refusal :=
  .next (issueReg s b.toNat (wordOf 0x06 w) false fn0 fun x y _ _ => Nat.land x (2 ^ 64 - 1 - y))

/-- SHL (R240): S shifted left by U[5:0]. -/
def execShl (b : Blk) (w : BitVec 24) (s : State) : Host.Outcome State Fault Refusal :=
  .next (issueReg s b.toNat (wordOf 0x07 w) false fn0 fun x y _ _ => x * 2 ^ (y % 64) % 2 ^ 64)

/-- SHR (R240): logical right shift by U[5:0]. -/
def execShr (b : Blk) (w : BitVec 24) (s : State) : Host.Outcome State Fault Refusal :=
  .next (issueReg s b.toNat (wordOf 0x08 w) false fn0 fun x y _ _ => x / 2 ^ (y % 64))

/-- SAR (R240): arithmetic right shift by U[5:0]. -/
def execSar (b : Blk) (w : BitVec 24) (s : State) : Host.Outcome State Fault Refusal :=
  .next (issueReg s b.toNat (wordOf 0x09 w) false fn0 fun x y _ _ => sar64 x (y % 64))

/-- ROL (R240): rotate left by U[5:0]. -/
def execRol (b : Blk) (w : BitVec 24) (s : State) : Host.Outcome State Fault Refusal :=
  .next (issueReg s b.toNat (wordOf 0x0A w) false fn0 fun x y _ _ => x * 2 ^ (y % 64) % 2 ^ 64 + x / 2 ^ (64 - y % 64))

/-- MUL (R240): low 64 bits of S × U. -/
def execMul (b : Blk) (w : BitVec 24) (s : State) : Host.Outcome State Fault Refusal :=
  .next (issueReg s b.toNat (wordOf 0x0B w) false fn0 fun x y _ _ => x * y % 2 ^ 64)

/-- MULH (R240): high 64 bits of S × U. -/
def execMulh (b : Blk) (w : BitVec 24) (s : State) : Host.Outcome State Fault Refusal :=
  .next (issueReg s b.toNat (wordOf 0x0C w) false fn1 fun x y fn _ => if fn = 1 then x * y / 2 ^ 64 else wrap 64 (sgn 64 x * sgn 64 y / (2 ^ 64 : Nat)))

/-- DIV (R240, R242). -/
def execDiv (b : Blk) (w : BitVec 24) (s : State) : Host.Outcome State Fault Refusal :=
  .next (issueReg s b.toNat (wordOf 0x0D w) false fn1 fun x y fn _ => divOp x y (fn == 1))

/-- REM (R240, R242). -/
def execRem (b : Blk) (w : BitVec 24) (s : State) : Host.Outcome State Fault Refusal :=
  .next (issueReg s b.toNat (wordOf 0x0E w) false fn1 fun x y fn _ => remOp x y (fn == 1))

/-- CMP (R240, R241). -/
def execCmp (b : Blk) (w : BitVec 24) (s : State) : Host.Outcome State Fault Refusal :=
  .next (issueReg s b.toNat (wordOf 0x0F w) false (fun fn => decide (fn ≤ 9)) fun x y fn _ => b2n (relTrue fn x y))

/-- MIN (R240). -/
def execMin (b : Blk) (w : BitVec 24) (s : State) : Host.Outcome State Fault Refusal :=
  .next (issueReg s b.toNat (wordOf 0x10 w) false fn1 fun x y fn _ => if (if fn = 1 then decide (x ≤ y) else decide (sgn 64 x ≤ sgn 64 y)) then x else y)

/-- MAX (R240). -/
def execMax (b : Blk) (w : BitVec 24) (s : State) : Host.Outcome State Fault Refusal :=
  .next (issueReg s b.toNat (wordOf 0x11 w) false fn1 fun x y fn _ => if (if fn = 1 then decide (x ≤ y) else decide (sgn 64 x ≤ sgn 64 y)) then y else x)

/-- CLZ (R240). -/
def execClz (b : Blk) (w : BitVec 24) (s : State) : Host.Outcome State Fault Refusal :=
  .next (issueReg s b.toNat (wordOf 0x12 w) true fn0 fun x _ _ _ => clz64 x)

/-- POPC (R240). -/
def execPopc (b : Blk) (w : BitVec 24) (s : State) : Host.Outcome State Fault Refusal :=
  .next (issueReg s b.toNat (wordOf 0x13 w) true fn0 fun x _ _ _ => popc64 x)

/-- SEL (R240): D := S when D is not 0, else U. -/
def execSel (b : Blk) (w : BitVec 24) (s : State) : Host.Outcome State Fault Refusal :=
  .next (issueReg s b.toNat (wordOf 0x14 w) false fn0 fun x y _ d => if d = 0 then y else x)

/-- ADDI (R240): D := S + IMM12, and NCY (R262). -/
def execAddi (b : Blk) (w : BitVec 24) (s : State) : Host.Outcome State Fault Refusal :=
  .next (issue s b.toNat (wordOf 0x20 w) [fD (wordOf 0x20 w), fS (wordOf 0x20 w)] false fun s =>
    (addNcy s b.toNat (fD (wordOf 0x20 w)) (rd s b.toNat (fS (wordOf 0x20 w))) (immS (wordOf 0x20 w)), .next))

/-- ANDI (R240). -/
def execAndi (b : Blk) (w : BitVec 24) (s : State) : Host.Outcome State Fault Refusal :=
  .next (issueImm s b.toNat (wordOf 0x21 w) (fun _ => true) fun x y => Nat.land x y)

/-- ORI (R240). -/
def execOri (b : Blk) (w : BitVec 24) (s : State) : Host.Outcome State Fault Refusal :=
  .next (issueImm s b.toNat (wordOf 0x22 w) (fun _ => true) fun x y => Nat.lor x y)

/-- XORI (R240). -/
def execXori (b : Blk) (w : BitVec 24) (s : State) : Host.Outcome State Fault Refusal :=
  .next (issueImm s b.toNat (wordOf 0x23 w) (fun _ => true) fun x y => Nat.xor x y)

/-- SHLI (R240). -/
def execShli (b : Blk) (w : BitVec 24) (s : State) : Host.Outcome State Fault Refusal :=
  .next (issueImm s b.toNat (wordOf 0x24 w) (fun i => decide (i < 64)) fun x y => x * 2 ^ (y % 64) % 2 ^ 64)

/-- SHRI (R240). -/
def execShri (b : Blk) (w : BitVec 24) (s : State) : Host.Outcome State Fault Refusal :=
  .next (issueImm s b.toNat (wordOf 0x25 w) (fun i => decide (i < 64)) fun x y => x / 2 ^ (y % 64))

/-- SARI (R240). -/
def execSari (b : Blk) (w : BitVec 24) (s : State) : Host.Outcome State Fault Refusal :=
  .next (issueImm s b.toNat (wordOf 0x26 w) (fun i => decide (i < 64)) fun x y => sar64 x (y % 64))

/-- CMPI (R240, R241): the relation in IMM12[11:8], the value in IMM12[7:0], signed. -/
def execCmpi (b : Blk) (w : BitVec 24) (s : State) : Host.Outcome State Fault Refusal :=
  .next (issueImm s b.toNat (wordOf 0x27 w) (fun i => decide (i / 256 ≤ 9)) fun x _ => b2n (relTrue (bits (wordOf 0x27 w) 11 8) x (wrap 64 (sgn 8 (bits (wordOf 0x27 w) 7 0)))))

/-- LIZ (R240): D := IMM16 × 2^(16·HW). -/
def execLiz (b : Blk) (w : BitVec 24) (s : State) : Host.Outcome State Fault Refusal :=
  .next (issue s b.toNat (wordOf 0x28 w) [fD (wordOf 0x28 w)] false fun s =>
    (wr s b.toNat (fD (wordOf 0x28 w)) (imm16 (wordOf 0x28 w) * 2 ^ (16 * bits (wordOf 0x28 w) 17 16)), .next))

/-- LIK (R240): bits [16·HW + 15 : 16·HW] of D := IMM16. -/
def execLik (b : Blk) (w : BitVec 24) (s : State) : Host.Outcome State Fault Refusal :=
  .next (issue s b.toNat (wordOf 0x29 w) [fD (wordOf 0x29 w)] false fun s =>
    (wr s b.toNat (fD (wordOf 0x29 w)) (putBits (rd s b.toNat (fD (wordOf 0x29 w))) (16 * bits (wordOf 0x29 w) 17 16 + 15) (16 * bits (wordOf 0x29 w) 17 16) (imm16 (wordOf 0x29 w))), .next))

/-- ADR (R240): D := PC + 8 × DISP18. -/
def execAdr (b : Blk) (w : BitVec 24) (s : State) : Host.Outcome State Fault Refusal :=
  .next (issue s b.toNat (wordOf 0x2A w) [fD (wordOf 0x2A w)] false fun s =>
    (wr s b.toNat (fD (wordOf 0x2A w)) (wrap 64 ((pcOf s b.toNat : Int) + 8 * sgn 18 (bits (wordOf 0x2A w) 17 0))), .next))

end Sys2Proof.Machine
end

