-- ==== Sys2Proof/Machine/ScalarDec.lean ====
section
/-! DEFINITION. The scalar decimal unit, opcodes 0x60 to 0x77 (R206, R260-R264). -/

namespace Sys2Proof.Machine

/-! ### Packed and BCD registers (R260-R262) -/

/-- A result for register D: written unless it is none, with its flags in SFLAG. -/
def putDec (s : State) (b w : Nat) (r : Option Nat × Nat) : State × Flow :=
  let s := setSflag s b r.2
  (match r.1 with | some v => wr s b (fD w) v | none => s, .next)

/-- A packed register's value: 15 digits and a sign. -/
def pkReg (s : State) (b r : Nat) : Option (Bool × Nat) := packedVal (rg s (R.DCTL b)) (rd s b r) 15

/-- An exact result in a packed register. -/
def pkRegResult (s : State) (b : Nat) (v : Int) : Option Nat × Nat :=
  let (w, fl) := packedOf (rg s (R.DCTL b)) 15 false (intNeg v) v.natAbs
  (some w, fl)

/-- A packed instruction of S and U. -/
def pkRegTwo (s : State) (b w : Nat) (f : Int → Int → Option Nat × Nat) : State × Flow :=
  putDec s b w (match pkReg s b (fS w), pkReg s b (fU w) with
    | some p, some q => f (smInt p) (smInt q)
    | _, _ => dataExc)

/-- The body of a scalar decimal instruction, its FN checked. -/
def issueDec (s : State) (b w : Nat) (ok : Bool) (body : State → State × Flow) : State :=
  issue s b w (regFields w) false fun s => if ok then body s else illegal s w

/-- DADJ (R262). -/
def dadjVal (ncy x : Nat) (fn0 : Bool) : Nat :=
  if fn0 then bits ncy 15 15
  else (List.range 16).foldl (fun a i =>
    let n := x / 16 ^ i % 16
    a + (if ncy.testBit i then n else (n + 10) % 16) * 16 ^ i) 0

/-- PMUL.D (R261). -/
def pmulVal (x u : Nat) (high : Bool) : Option Nat :=
  match bcdVal 16 x, bcdVal 1 u, bcdVal 1 (u / 16) with
  | some a, some m, some c => some (if high then (a * m + c) / 10 ^ 16 else bcdOf 16 (a * m + c))
  | _, _, _ => none

/-- PSHL.D (R261). -/
def pshlVal (x : Nat) (k : Int) : Nat :=
  if 16 ≤ k.natAbs then 0 else if 0 ≤ k then x * 16 ^ k.natAbs % 2 ^ 64 else x / 16 ^ k.natAbs

/-- DADJ (R262). -/
def execDadj (b : Blk) (w : BitVec 24) (s : State) : Host.Outcome State Fault Refusal :=
  let b := b.toNat
  let w := wordOf 0x60 w
  .next (issueDec s b w (decide (fFN w ≤ 1) && fU w == 0) fun s =>
    (wr s b (fD w) (dadjVal (rgF s (R.NCY b) R.NCY_NCY) (rd s b (fS w)) (w.testBit 0)), .next))

/-- PADD (R260). -/
def execPadd (b : Blk) (w : BitVec 24) (s : State) : Host.Outcome State Fault Refusal :=
  let b := b.toNat
  let w := wordOf 0x61 w
  .next (issueDec s b w (fFN w == 0) fun s => pkRegTwo s b w fun p q => pkRegResult s b (p + q))

/-- PSUB (R260). -/
def execPsub (b : Blk) (w : BitVec 24) (s : State) : Host.Outcome State Fault Refusal :=
  let b := b.toNat
  let w := wordOf 0x62 w
  .next (issueDec s b w (fFN w == 0) fun s => pkRegTwo s b w fun p q => pkRegResult s b (p - q))

/-- PCMP (R260, R183). -/
def execPcmp (b : Blk) (w : BitVec 24) (s : State) : Host.Outcome State Fault Refusal :=
  let b := b.toNat
  let w := wordOf 0x63 w
  .next (issueDec s b w (decide (fFN w < 6)) fun s =>
    pkRegTwo s b w fun p q => (some (b2n (relInt (fFN w) p q)), 0))

/-- PMUL.D (R261). -/
def execPmulD (b : Blk) (w : BitVec 24) (s : State) : Host.Outcome State Fault Refusal :=
  let b := b.toNat
  let w := wordOf 0x64 w
  .next (issueDec s b w (decide (fFN w ≤ 1)) fun s =>
    putDec s b w (match pmulVal (rd s b (fS w)) (rd s b (fU w)) (w.testBit 0) with
      | some v => (some v, 0)
      | none => dataExc))

/-- PSHL.D (R261). -/
def execPshlD (b : Blk) (w : BitVec 24) (s : State) : Host.Outcome State Fault Refusal :=
  let b := b.toNat
  let w := wordOf 0x65 w
  .next (issueDec s b w (fFN w == 0) fun s =>
    (wr s b (fD w) (pshlVal (rd s b (fS w)) (sgn 64 (rd s b (fU w)))), .next))

/-- PCVT (R260, R184): 15 digits always fit a 64-bit signed value. -/
def execPcvt (b : Blk) (w : BitVec 24) (s : State) : Host.Outcome State Fault Refusal :=
  let b := b.toNat
  let w := wordOf 0x66 w
  .next (issueDec s b w (decide (fFN w ≤ 1) && fU w == 0) fun s =>
    if w.testBit 0 then putDec s b w (pkRegResult s b (sgn 64 (rd s b (fS w))))
    else putDec s b w (match pkReg s b (fS w) with
      | some p => (some (wrap 64 (smInt p)), 0)
      | none => dataExc))

/-! ### Decimal floating point (R263, R264) -/

/-- FN[0]: decimal128. -/
def decWideW (w : Nat) : Bool := w.testBit 0

/-- Whether a field names a decimal operand: any w or g register, for decimal128 an even one (R264). -/
def decRegOk (wide : Bool) (r : Nat) : Bool := decide (r < 48) && (!wide || r % 2 == 0)

/-- The register fields that a decimal operand takes. -/
def decRegs (wide : Bool) (r : Nat) : List Nat := if wide then [r, r + 1] else [r]

/-- A decimal operand read, and written. -/
def decReg (s : State) (b : Nat) (wide : Bool) (r : Nat) : DNum :=
  decRead wide (if wide then rd s b r * 2 ^ 64 + rd s b (r + 1) else rd s b r)
def putDecReg (s : State) (b : Nat) (wide : Bool) (r v : Nat) : State :=
  if wide then wr (wr s b r (v / 2 ^ 64)) b (r + 1) (v % 2 ^ 64) else wr s b r v

/-- RM of block b's DCTL. -/
def sMode (s : State) (b : Nat) : Nat := rgF s (R.DCTL b) R.DCTL_RM

/-- A scalar floating-point instruction of S, U and the old D. -/
def decScalar (s : State) (b w : Nat) (f : Fmt → Nat → DNum → DNum → DNum → DNum × Nat) : State :=
  let wd := decWideW w
  issue s b w ([fD w, fS w, fU w].flatMap (decRegs wd)) false fun s =>
    if !(decide (fFN w ≤ 1) && [fD w, fS w, fU w].all (decRegOk wd)) then illegal s w
    else
      let (r, fl) := f (decFmt wd) (sMode s b) (decReg s b wd (fS w)) (decReg s b wd (fU w)) (decReg s b wd (fD w))
      (putDecReg (setSflag s b fl) b wd (fD w) (decWrite wd r), .next)

/-- DADD (R263). -/
def execDadd (b : Blk) (w : BitVec 24) (s : State) : Host.Outcome State Fault Refusal :=
  .next (decScalar s b.toNat (wordOf 0x70 w) fun f m p q _ => dAdd f m p q)

/-- DSUB (R263). -/
def execDsub (b : Blk) (w : BitVec 24) (s : State) : Host.Outcome State Fault Refusal :=
  .next (decScalar s b.toNat (wordOf 0x71 w) fun f m p q _ => dAdd f m p q.neg)

/-- DMUL (R263). -/
def execDmul (b : Blk) (w : BitVec 24) (s : State) : Host.Outcome State Fault Refusal :=
  .next (decScalar s b.toNat (wordOf 0x72 w) fun f m p q _ => dMul f m p q)

/-- DDIV (R263). -/
def execDdiv (b : Blk) (w : BitVec 24) (s : State) : Host.Outcome State Fault Refusal :=
  .next (decScalar s b.toNat (wordOf 0x73 w) fun f m p q _ => dDiv f m p q)

/-- DFMA (R263). -/
def execDfma (b : Blk) (w : BitVec 24) (s : State) : Host.Outcome State Fault Refusal :=
  .next (decScalar s b.toNat (wordOf 0x74 w) fun f m p q r => dFma f m p q r)

/-- DQUA (R263). -/
def execDqua (b : Blk) (w : BitVec 24) (s : State) : Host.Outcome State Fault Refusal :=
  .next (decScalar s b.toNat (wordOf 0x75 w) fun f m p q _ => dQuantize f m p q)

/-- DCMP (R263, R194): D is any register. -/
def execDcmp (b : Blk) (w : BitVec 24) (s : State) : Host.Outcome State Fault Refusal :=
  let b := b.toNat
  let w := wordOf 0x76 w
  let wd := decWideW w
  .next (issue s b w (fD w :: [fS w, fU w].flatMap (decRegs wd)) false fun s =>
    if !(bits w 3 1 != 7 && !w.testBit 5 && [fS w, fU w].all (decRegOk wd)) then illegal s w
    else
      let (r, fl) := dCompare (bits w 3 1) (w.testBit 4) (decReg s b wd (fS w)) (decReg s b wd (fU w))
      (wr (setSflag s b fl) b (fD w) (b2n r), .next))

/-- A 64-bit binary operand of DCVT, signed unless FN[4] = 1. -/
def cvtBin (w v : Nat) : Int := if w.testBit 4 then v else sgn 64 v
def cvtOutside (w : Nat) (i : Int) : Bool :=
  if w.testBit 4 then decide (i < 0) || decide ((2 ^ 64 : Nat) ≤ i)
  else decide (i < -(2 ^ 63 : Nat)) || decide ((2 ^ 63 : Nat) ≤ i)

/-- Which of D and S of DCVT are decimal128, and whether they are decimal at all (R263). -/
def cvtRegs (w : Nat) : Option Bool × Option Bool :=
  let wd := decWideW w
  match bits w 3 1 with
  | 0 => (some true, some false)
  | 1 => (some false, some true)
  | 2 => (some wd, none)
  | 3 => (none, some wd)
  | 4 => (some wd, none)
  | _ => (none, some wd)

/-- The check of DCVT: forms 0 to 5, FN[4] only with a binary value, U = 0, FN[0] naming the destination's format for
WIDEN and NARROW. -/
def cvtOk (w : Nat) : Bool :=
  let k := bits w 3 1
  let r (o : Option Bool) (f : Nat) : Bool := match o with | some wd => decRegOk wd f | none => true
  decide (k ≤ 5) && fU w == 0 && !w.testBit 5 && (!w.testBit 4 || decide (4 ≤ k))
    && r (cvtRegs w).1 (fD w) && r (cvtRegs w).2 (fS w)

/-- DCVT's result for D and its flags. -/
def cvtVal (s : State) (b w : Nat) : Option Nat × Nat :=
  let m := sMode s b
  let wd := decWideW w
  let dctl := rg s (R.DCTL b)
  match bits w 3 1 with
  | 0 => let r := dConvert dec128 m (decReg s b false (fS w))
         (some (decWrite true r.1), r.2)
  | 1 => let r := dConvert dec64 m (decReg s b true (fS w))
         (some (decWrite false r.1), r.2)
  | 2 => match dfFromPack (decFmt wd) m (pkReg s b (fS w)) with
    | some r => (some (decWrite wd r.1), r.2)
    | none => dataExc
  | 3 => dfToPack dctl 15 false (decReg s b wd (fS w))
  | 4 => let i := cvtBin w (rd s b (fS w))
         let r := roundDec (decFmt wd) m (intNeg i) i.natAbs 0
         (some (decWrite wd r.1), r.2)
  | _ => dfToBin m 64 (cvtOutside w) (decReg s b wd (fS w))

/-- DCVT (R263). WIDEN takes a decimal64 S and NARROW a decimal128 S, whatever FN[0]. -/
def execDcvt (b : Blk) (w : BitVec 24) (s : State) : Host.Outcome State Fault Refusal :=
  let b := b.toNat
  let w := wordOf 0x77 w
  let fs (o : Option Bool) (f : Nat) : List Nat := decRegs (o.getD false) f
  .next (issue s b w (fs (cvtRegs w).1 (fD w) ++ fs (cvtRegs w).2 (fS w)) false fun s =>
    if !cvtOk w then illegal s w
    else
      let (v, fl) := cvtVal s b w
      let s := setSflag s b fl
      (match v with | some v => putDecReg s b ((cvtRegs w).1.getD false) (fD w) v | none => s, .next))

end Sys2Proof.Machine
end

