-- ==== Sys2Proof/Machine/Records.lean ====
section
/-! DEFINITION. The record instructions, opcodes 0xC0 to 0xC3, and the suspension of resumable instructions: yield at a
safe point and abandon (R207-R233). -/

namespace Sys2Proof.Machine

/-! ### Strings (R207, R208, R211, R212) -/

/-- A string descriptor: BINARY, unsigned, whole bytes. -/
def strOk (v : Nat) : Bool := binOk v && !v.testBit 23 && bits v 21 11 % 8 == 0

/-- Length in bytes. -/
def Desc.bytes (d : Desc) : Nat := d.len / 8

/-- Byte k of a string, 0 the leftmost, and a cell with that byte set. -/
def Cell.strByte (c : Cell) (d : Desc) (k : Nat) : Nat := c.field (d.base + 8 * (d.bytes - 1 - k)) 8
def Cell.setByte (c : Cell) (d : Desc) (k v : Nat) : Cell := c.setField (d.base + 8 * (d.bytes - 1 - k)) 8 v

/-- PAD, FILL, ZONE, RPE and RPL of the dispatched RCTL. -/
def rPad (x : ACtx) : Nat := bits x.rctl 7 0
def rFill (x : ACtx) : Nat := bits x.rctl 15 8
def rZone (x : ACtx) : Nat := bits x.rctl 19 16
def rRpe (x : ACtx) : Bool := x.rctl.testBit 31
def rRpl (x : ACtx) : Nat := bits x.rctl 42 32

/-- The result planes as a field; they lie in 0-2031 apart from every operand. -/
def rplDesc (x : ACtx) : Desc := { base := rRpl x, len := 2, sgn := false, kind := 0, nd := 0, chk := 0 }
def rplOk (x : ACtx) (ops : List Desc) : Bool :=
  !rRpe x || (decide ((rplDesc x).hi ≤ 2031) && ops.all fun d => !meets (rplDesc x) d)

/-- A cell with its result code written. -/
def putCode (x : ACtx) (code : Nat) (c : Cell) : Cell := c.setField (rRpl x) 2 code

/-! ### AMVS (R213) -/

def amvsOk (x : ACtx) : Bool :=
  let d := descOf x.d
  let e := descOf x.s
  let u := descOf x.u
  strOk x.d && strOk x.s && optIn x.w 1 && dstOk d && srcOk e && overlapOk d e false
    && (if x.w.testBit 0 then binOk x.u && !u.sgn && srcOk u && overlapOk d u false else x.u == 0)

/-- The length that AMVS takes in the cell with key k: that of S, or the smaller of it and the cell's length field, which a
yield has kept where the field is D itself (R213, R225). -/
def amvsLen (x : ACtx) (k : Nat) (c : Cell) : Nat :=
  let m := (descOf x.s).bytes
  if x.w.testBit 0 then
    min m (match x.lens.find? fun e => e.1 == k with | some e => e.2 | none => c.val (descOf x.u))
  else m

/-- Bytes lo to hi - 1 of D in the active cell with key k. -/
def amvsCell (x : ACtx) (lo hi k : Nat) (c : Cell) : Cell :=
  let d := descOf x.d
  let e := descOf x.s
  let n := amvsLen x k c
  (List.range (hi - lo)).foldl (fun y j =>
    let i := lo + j
    y.setByte d i (if i < n then y.strByte e i else rPad x)) c

/-! ### ATRN (R214, R215) -/

def atrnOk (x : ACtx) : Bool :=
  let d := descOf x.d
  let e := descOf x.s
  strOk x.d && strOk x.s && optIn x.w 0 && d.len == e.len && dstOk d && srcOk e && overlapOk d e false
    && x.u % 512 == 0 && decide (x.u + 512 ≤ 0x100000)

/-- Table-entry group g, sixteen entries of byte g / 16, in one active cell of block b; plane 2032 is DONE. -/
def atrnGroup (s : State) (b : Nat) (x : ACtx) (g : Nat) (c : Cell) : Cell :=
  let k := g / 16
  let c := if g % 16 = 0 then c.setPlane 2032 false else c
  let v := c.strByte (descOf x.s) k
  if !c.plane 2032 && v / 16 == g % 16 then
    (c.setByte (descOf x.d) k (readVal s (turnAt b (x.u + 2 * v)) 2)).setPlane 2032 true
  else c

/-- Groups lo to hi - 1. -/
def atrnCell (s : State) (b : Nat) (x : ACtx) (lo hi : Nat) (c : Cell) : Cell :=
  (List.range (hi - lo)).foldl (fun c j => atrnGroup s b x (lo + j) c) c

/-! ### ACMPS (R216) -/

def acmpsOk (x : ACtx) : Bool :=
  let e := descOf x.s
  let u := descOf x.u
  aD x.w == 0 && strOk x.s && strOk x.u && optIn x.w 31 && decide (x.w % 8 < 6) && srcOk e && srcOk u
    && (if x.w.testBit 4 then rRpe x && rplOk x [e, u] else true)

/-- Bytes to compare. -/
def acmpsLen (x : ACtx) : Nat := max (descOf x.s).bytes (descOf x.u).bytes

/-- Byte k of an operand, extended by PAD. -/
def padByte (x : ACtx) (d : Desc) (c : Cell) (k : Nat) : Nat := if k < d.bytes then c.strByte d k else rPad x

/-- The order found in bytes lo to hi - 1: 0 none, 1 less, 2 greater. -/
def acmpsScan (x : ACtx) (lo hi : Nat) (c : Cell) : Nat :=
  ((List.range (hi - lo)).findSome? fun j =>
    let p := padByte x (descOf x.s) c (lo + j)
    let q := padByte x (descOf x.u) c (lo + j)
    if p < q then some 1 else if q < p then some 2 else none).getD 0

/-- The order with the progress planes of a resumed compare: plane 2032 decided, 2033 less, 2034 greater. -/
def acmpsOrder (x : ACtx) (c : Cell) : Nat :=
  if 0 < x.step ∧ c.plane 2032 then (if c.plane 2033 then 1 else 2) else acmpsScan x x.step (acmpsLen x) c

/-- The end of ACMPS in one cell. -/
def acmpsCell (x : ACtx) (c : Cell) : Cell :=
  let o := acmpsOrder x c
  let r := relOrder (x.w % 8) (if o = 1 then -1 else if o = 2 then 1 else 0)
  let y := if c.a && x.w.testBit 4 then putCode x o c else c
  if x.w.testBit 3 then { y with a := c.a && r } else { y with t := r && c.a }

/-! ### AEDIT (R217-R220) -/

/-- Whether a pattern code takes a digit. -/
def isDigitCode (b : Nat) : Bool := b == 0x1D || b == 0x1E

/-- Position of the last digit byte of a pattern. -/
def lastDigit (pat : List Nat) : Nat :=
  (List.range pat.length).foldl (fun a k => if isDigitCode (pat.getD k 0) then k else a) 0

def aeditOk (x : ACtx) : Bool :=
  let d := descOf x.d
  let e := descOf x.s
  strOk x.d && decDescOk x.s && e.kind == 1 && optIn x.w 3 && dstOk d && srcOk e && overlapOk d e false
    && rplOk x [d, e] && x.u % 2 == 0 && decide (x.u + 2 * d.bytes ≤ 0x80000)
    && x.pat.countP isDigitCode == e.nd

/-- The per-cell progress of AEDIT: planes 2032 lit, 2033 nz, 2034 neg, 2035 bad. -/
def aeditStart (x : ACtx) (c : Cell) : Cell :=
  let e := descOf x.s
  let v := c.val e
  let bad := (signMinus x.dctl (v % 16)).isNone || (bcdVal e.nd (v / 16)).isNone
  (((c.setPlane 2032 false).setPlane 2033 (v / 16 != 0)).setPlane 2034 ((signMinus x.dctl (v % 16)).getD false)).setPlane 2035 bad

/-- One pattern byte b at position k in an active cell: i the nibble of the next digit, last as fixed at the check. -/
def aeditByte (x : ACtx) (last k i b : Nat) (c : Cell) : Cell :=
  let d := descOf x.d
  let lit := c.plane 2032 || b == 0x1E
  let (out, lit) :=
    if isDigitCode b then
      let g := if 1 ≤ i then c.field ((descOf x.s).base + 4 * i) 4 else 0
      if lit || g != 0 then (16 * rZone x + g, true) else (rFill x, lit)
    else if b = 0x1F then (rFill x, false)
    else if last < k then (if c.plane 2034 then b else rFill x, lit)
    else (if lit then b else rFill x, lit)
  let c := c.setPlane 2032 lit
  if c.plane 2035 then c else c.setByte d k out

/-- Pattern bytes lo to hi - 1, i being the nibble of the next digit before byte lo. -/
def aeditCell (x : ACtx) (last lo hi i : Nat) (c : Cell) : Cell :=
  ((List.range (hi - lo)).foldl (fun (p : Nat × Cell) j =>
    let b := x.pat.getD (lo + j) 0
    (if isDigitCode b then p.1 - 1 else p.1, aeditByte x last (lo + j) p.1 b p.2)) (i, c)).2

/-- The result code of a cell whose progress planes stand. -/
def aeditCode (c : Cell) : Nat := if !c.plane 2033 then 0 else if c.plane 2034 then 1 else 2

/-- The end of AEDIT in an active cell. -/
def aeditEnd (x : ACtx) (c : Cell) : Cell :=
  if c.plane 2035 then { c.setPlane 2045 true with t := true } else
  let k := aeditCode c
  let t := match x.w % 4 with | 0 => k == 0 | 1 => k == 1 | 2 => k == 2 | _ => k != 0
  { (if rRpe x then putCode x k c else c) with t := t }

/-- The counters of AEDIT: source digits left and the last digit byte; kept with 2^20 once the check stage is done. -/
def aeditCnt (x : ACtx) : Nat × Nat := if 0 < x.cnt then (x.cnt / 1024 % 1024, x.cnt % 1024) else ((descOf x.s).nd, lastDigit x.pat)

/-- AEDIT from the byte at which it stands to its end. -/
def aeditOp (s : State) (b : Nat) (x : ACtx) : State × Flow :=
  let (i, last) := aeditCnt x
  let start (c : Cell) : Cell := if 0 < x.cnt then c else aeditStart x c
  let s := cellsOfGang s b x fun _ _ c =>
    if c.a then aeditEnd x (aeditCell x last x.step (descOf x.d).bytes i (start c)) else { c with t := false }
  (forEach (gang s b) (fun s c =>
    let s := noteFlags s c (descOf x.d).base (descOf x.d).hi
    let s := if rRpe x then dropRepair s c (rRpl x) (rRpl x + 1) else s
    if s.cells.any fun e => inBlock c e.1 && e.2.a && e.2.plane 2035 then setDflag (dropRepair s c 2045 2045) c 32 else s) s, .next)

/-- AMVS (R213). -/
def execAmvs (b : Blk) (w : BitVec 24) (s : State) : Host.Outcome State Fault Refusal :=
  .next (issueArr s b.toNat (wordOf 0xC0 w) (fun _ x => amvsOk x)
    fun s x => writeActive s b.toNat x fun k i c => amvsCell x x.step (descOf x.d).bytes (16384 * k + i) c)

/-- ATRN (R214). -/
def execAtrn (b : Blk) (w : BitVec 24) (s : State) : Host.Outcome State Fault Refusal :=
  .next (issueArr s b.toNat (wordOf 0xC1 w) (fun _ x => atrnOk x)
    fun s x => writeActive s b.toNat x fun k _ c => atrnCell s k x x.step (16 * (descOf x.d).bytes) c)

/-- ACMPS (R216). -/
def execAcmps (b : Blk) (w : BitVec 24) (s : State) : Host.Outcome State Fault Refusal :=
  .next (issueArr s b.toNat (wordOf 0xC2 w) (fun _ x => acmpsOk x)
    fun s x =>
      let s := cellsOfGang s b.toNat x fun _ _ c => acmpsCell x c
      (if x.w.testBit 4 then forEach (gang s b.toNat) (fun s c => dropRepair s c (rRpl x) (rRpl x + 1)) s else s, .next))

/-- AEDIT (R217-R220). -/
def execAedit (b : Blk) (w : BitVec 24) (s : State) : Host.Outcome State Fault Refusal :=
  .next (issueArr s b.toNat (wordOf 0xC3 w) (fun _ x => aeditOk x) fun s x => aeditOp s b.toNat x)

/-! ### Yield (R221-R224) -/

/-- The operand check of a resumable opcode. -/
def resumableOk (x : ACtx) : Bool :=
  match x.w / 2 ^ 24 with
  | 0xC0 => amvsOk x
  | 0xC1 => atrnOk x
  | 0xC2 => acmpsOk x
  | 0xC3 => aeditOk x
  | 0x8B => mulOk x 1
  | 0x8C => mulOk x 3
  | 0x9A => alutOk x
  | 0x87 => ashfOk x
  | 0x95 => asumOk x
  | 0xA2 => decOpsOk x 1 1 (some 1) (pkWork x) && optIn x.w 0 && decide ((descOf x.s).nd ≤ 31)
  | 0xA3 => decOpsOk x 1 1 (some 1) (pkWork x) && optIn x.w 2
  | 0xA7 => decOpsOk x 0 1 none 16 && optIn x.w 0
  | 0xA8 => decOpsOk x 1 0 none 16 && optIn x.w 0
  | 0xAD => dfOk x 160 320
  | 0xAE => dfOk x 160 320
  | 0xAF => dfOk x 256 480
  | 0xB3 => ldOk x true && (descOf x.d).chk != 0
  | 0xB4 => ldOk x true && (descOf x.d).chk != 0
  | 0xB5 => ldOk x false
  | 0xB6 => ldOk x false
  | 0xB8 => ldSplitOk x
  | 0xB9 => ldNormOk x
  | _ => false

/-- Cell i of block c as it stands at the safe point after `step` of R221's units, x.step having been done before. The
latest plane request of ASUM has left its plane in T (R150). DESIGN CHOICE (log 104): what D and the work area hold at a safe
point of another instruction, such as a decimal one, the spec does not state; they stay as they are, and the whole operation
takes effect at the end. -/
def yieldCell (s : State) (x : ACtx) (c step i : Nat) (y : Cell) : Cell :=
  match x.w / 2 ^ 24 with
  | 0xC0 => if y.a then amvsCell x x.step step (16384 * c + i) y else y
  | 0x9A => if y.a then alutCell s c x x.step step y else y
  | 0x95 => if sumSteps s c x then y else { y with t := y.plane ((descOf x.s).base + (step - 1)) && y.a }
  | 0xC1 => if y.a then atrnCell s c x x.step step y else y
  | 0xC2 =>
    if y.a then
      let o := if 0 < x.step ∧ y.plane 2032 then (if y.plane 2033 then 1 else 2) else acmpsScan x x.step step y
      ((y.setPlane 2032 (o != 0)).setPlane 2033 (o == 1)).setPlane 2034 (o == 2)
    else y
  | 0xC3 =>
    let (i, last) := aeditCnt x
    if y.a then aeditCell x last x.step step i (if 0 < x.cnt then y else aeditStart x y) else y
  | _ => y

/-- How many safe points the instruction passes short of its end (R221): bytes, groups of table entries, bits, digits, steps,
planes, segments or rows; for the floating-point ones, multiples of 256 ACLK of its count in R169. The point after the last
byte of AEDIT, and that after the last segment, stand at the end (log entry 90). -/
def yieldMax (x : ACtx) : Nat :=
  let d := descOf x.d
  let e := descOf x.s
  let u := descOf x.u
  match x.w / 2 ^ 24 with
  | 0xC0 => d.bytes
  | 0xC1 => 16 * d.bytes
  | 0xC2 => acmpsLen x
  | 0xC3 => d.bytes - 1
  | 0x8B => e.len
  | 0x8C => e.len
  | 0x9A => 2 ^ e.len
  | 0x87 => bits x.u 11 0
  | 0x95 => e.len
  | 0xA2 => e.nd
  | 0xA3 => max (e.nd + 1 - u.nd) 1
  | 0xA7 => e.nd
  | 0xA8 => e.len
  | 0xAD => if d.kind = 3 then 8 else 34
  | 0xAE => if d.kind = 3 then 19 else 74
  | 0xAF => if d.kind = 3 then 12 else 41
  | 0xB3 => d.k - 1
  | 0xB4 => d.k - 1
  | 0xB5 => ldecP d.nd
  | 0xB6 => ldecP d.nd
  | 0xB8 => limbNr x
  | 0xB9 => limbNr x
  | _ => 0

/-- The safe points that the instruction can have passed by now: one that works with other programs or devices has passed those
of the steps it has issued, and of a shift those whose edge data has come. -/
def yieldNow (s : State) (b : Nat) (x : ACtx) : Nat :=
  let m := yieldMax x
  match x.w / 2 ^ 24 with
  | 0x87 =>
    let e := descOf x.s
    let dir := (aOpt x.w / 128 + 2) % 4
    if cascadePart s ((partOf s b).getD 0) then (if x.again then min m (edgeHere s b dir (aOpt x.w / 32 % 4) (m * e.len) / e.len) else 0)
    else m
  | 0x95 => if sumSteps s b x then (if x.again then x.step else 0) else m
  | _ => m

/-- AEDIT's counters at the safe point after `step` pattern bytes; what another instruction keeps. -/
def yieldCnt (x : ACtx) (step : Nat) : Nat :=
  if x.w / 2 ^ 24 = 0xC3 then
    let (i, last) := aeditCnt x
    2 ^ 20 + 1024 * (i - ((x.pat.take step).drop x.step).countP isDigitCode) + last
  else x.cnt

/-- The kind of request that a yield serves first (R222): 3 epoch, 2 halt, 1 interrupt, 0 none. -/
def yieldCause (s : State) (b : Nat) : Nat :=
  if (gang s b).any fun c => (seqOf s c).epochReq then 3
  else if haltPending s b || (seqOf s b).stepping then 2
  else if irqWaits s b then 1
  else 0

/-- ARR_SUSP and the saved A, T and C of every block of b's program, with the record and the block's slot words, which its
resume area takes (R223, R228, R297). -/
def suspend (s : State) (b : Nat) (r : Susp) (op step cause : Nat) : State :=
  forEach (gang s b) (fun s c =>
    let s := dropRepair (saveATC s c) c 2037 2039
    let a := R.ARR_SUSP c
    let s := setF (setF (setF s a R.ARR_SUSP_OP op) a R.ARR_SUSP_STEP step) a R.ARR_SUSP_CAUSE cause
    let s := setB (setB s a R.ARR_SUSP_VALID true) a R.ARR_SUSP_RUN false
    let r := { r with slots := [0, 1, 2, 3].map fun k => (slotOf s c k).word }
    updSeq s c fun q => { q with susp := some r, area := some r }) s

/-- The lengths that AMVS keeps at its first yield when its length field is D itself. -/
def yieldLens (s : State) (b : Nat) (x : ACtx) : List (Nat × Nat) :=
  let u := descOf x.u
  if x.w / 2 ^ 24 ≠ 0xC0 ∨ !x.w.testBit 0 ∨ u.base ≠ (descOf x.d).base ∨ !x.lens.isEmpty then x.lens else
  (s.cells.filter fun e => (gang s b).contains (e.1 / 16384) && e.2.a).map fun e => (e.1, e.2.val u)

/-- What a yield keeps of the legs of a shift in its own program alone (R104, R130). -/
def yieldLegs (s : State) (b : Nat) (x : ACtx) (step : Nat) : List (Nat × List Nat) :=
  if x.w / 2 ^ 24 = 0x87 && !(match partOf s b with | some n => lockstep s n | none => false) then
    x.legs ++ [(step, legCells s b x)]
  else x.legs

/-- The writes that the steps up to a yield have made: pending repairs that they cancel, the flags of D (R116, R176), and the
slots to which ASUM has issued its planes (R150, R223). -/
def yieldMarks (s : State) (b : Nat) (x : ACtx) (step : Nat) : State :=
  let d := descOf x.d
  match x.w / 2 ^ 24 with
  | 0x9A => alutFlags s b x x.step step
  | 0xC0 | 0xC1 | 0xC3 => noteDst s b d
  | 0x95 =>
    if sumSteps s b x then s else
    let s0 := s
    forEach (gang s b) (fun s c =>
      forEach [0, 1, 2, 3] (fun s k => setSlot s c k (sumSlot s0 c (aOpt x.w / 128) k step (descOf x.s))) s) s
  | _ => s

/-- The safe point at which the instruction of block b in progress with context x stands or can stand: past the one at which it
yielded before (R222), and not past those that it has reached. One that waits with its requests issued stands at the latest. -/
def yieldsAt (s : State) (b : Nat) (x : ACtx) (step : Nat) : Bool :=
  let op := x.w / 2 ^ 24
  decide (step ≤ yieldNow s b x)
    && (if op = 0x95 ∧ sumSteps s b x then x.again && step == x.step
        else decide (x.step < step) || (op == 0xC3 && step == 0 && x.cnt == 0))

/-- The instruction of block b in progress with context x yields at a safe point. The result of a request that it had
outstanding is taken into its counters (R223). -/
def yieldAs (s : State) (b : Nat) (x : ACtx) (step cause : Nat) : State :=
  let op := x.w / 2 ^ 24
  let s0 := dispatchAct s b x (.yield (BitVec.ofNat 16 step) (BitVec.ofNat 8 cause))
  let s1 := if x.step = 0 ∧ x.cnt = 0 then forEach (gang s b) (fun s c => spoilAll s c 2032 5) s0 else s0
  let s2 := forEach (gang s b) (fun t c => mapListed t c fun i y => yieldCell s x c step i y) s1
  let s2 := yieldMarks s2 b x step
  let x := { (if op = 0x95 then sumTake s b x else x) with lens := yieldLens s b x, legs := yieldLegs s b x step }
  let r := { recordOf s b x step with cnt := yieldCnt x step }
  suspend (updSeq s2 b fun q => { q with resume := none }) b r op step cause

/-- It yields for the requests that are pending, if it can. -/
def yieldArr (s : State) (b : Nat) (x : ACtx) (step : Nat) : State :=
  if yieldCause s b = 0 || !yieldsAt s b x step then s else yieldAs s b x step (yieldCause s b)

/-- A microcoded instruction of block b yields where its micro-engine stands; registers that SVS and SVP leave unsaved return as
0 (R294), and the control store has its cycles (R20). -/
def yieldMicro (s : State) (b : Nat) (m : Micro) (cause : Nat) : State :=
  let m : Micro := { m with sp := false, run := 0, stop := none }
  let m := if m.svs then m else { m with sa := 0, sb := 0, sz := false, sn := false, sc := false }
  let m := if m.svp then m else { m with pp0 := 0, pp1 := 0, pp2 := 0, pp3 := 0, tar := 0 }
  let r : Susp := { w := m.w, pc := m.pc, d := m.d, s := m.s, u := m.u, dctl := m.dctl, rctl := m.rctl, step := m.steps
                    micro := some m }
  let s := match partOf s b with
    | some n => sendAct s n (.yield (BitVec.ofNat 16 m.steps) (BitVec.ofNat 8 cause))
    | none => s
  suspend (setMicro s b none) b r (m.w.toNat / 2 ^ 24) (m.steps % 65536) cause

/-- Block b belongs to a member of a LOCKSTEP cascade, whose instructions yield on the lead's decision alone (R434). -/
def led (s : State) (b : Nat) : Bool := match partOf s b with | some n => follows s n | none => false

/-- SAFE_POINT_YIELD (R222, R223): the instruction that block b's sequencer executes, whose word is w, yields with
progress `step`. It is the one that was resumed and has not ended, or the one at PC that has issued since the last
boundary. A combining request that it has outstanding completes first. A microcoded customer instruction yields at its
own safe point, where its micro-engine stands. -/
def execSafePointYield (b : Blk) (w : BitVec 32) (step : BitVec 16) (s : State) : Host.Outcome State Fault Refusal :=
  let b := b.toNat
  let q := seqOf s b
  let op := w.toNat / 2 ^ 24
  .next (
    if !executing s b || (gang s b).any (fun c => [0, 1, 2, 3].any fun k => slotBusy s c k) then s else
    match q.micro with
    | some m =>
      let cause := match m.stop with | some c => c.2.toNat | none => yieldCause s b
      if !m.sp then s
      else if cause = 0 then updSeq s b fun q => { q with micro := some { m with sp := false } }
      else yieldMicro s b m cause
    | none =>
      if led s b then s else
      match q.resume with
      | some r => if r.w = w && resumable op then yieldArr s b (suspCtx s b r) step.toNat else s
      | none =>
        let x := freshCtx s b w.toNat
        let pc := pcOf s b
        if !resumable op || rgB s (R.ARR_SUSP b) R.ARR_SUSP_VALID || q.waiting || 0x7FFF8 < pc || pc % 8 ≠ 0
          || (q.ldx.any fun l => [aD x.w, aS x.w, aU x.w].any fun r => regId s b r == l.reg) || !resumableOk x then s
        else yieldArr s b x step.toNat)

/-! ### Abandon (R232) -/

/-- The D, word and DCTL of a record as a context for its destination. -/
def susDest (r : Susp) : Desc := descOf r.d.toNat

/-- n digits of memory from address a hold undefined values. -/
def freeDigits (s : State) (a n : Nat) : State :=
  let k := s.free
  writeDigits { s with free := k + n } a ((List.range n).map fun i => (Config.freeValue (k + i)).toNat % 16)

/-- The destination of an abandoned instruction of block c holds undefined values in the cells that were active at the
yield; AMVS, ATRN and AEDIT leave their bytes as they stand. Of a microcoded one it is the field that CHKD of its entry names. -/
def spoilDest (s : State) (c : Nat) (r : Susp) : State :=
  let op := r.w.toNat / 2 ^ 24
  let d := susDest r
  let act (y : Cell) : Bool := y.plane 2039
  let work (s : State) : State :=
    if 0xA0 ≤ op ∧ op < 0xC0 then spoilPlanes s c (bits r.dctl.toNat 42 32) (bits r.dctl.toNat 53 43) act else s
  if r.micro.isSome then (if (dtEntry s c op).testBit 60 then spoilPlanes s c d.base d.len act else s) else
  match op with
  | 0xC0 | 0xC1 => s
  | 0xC3 => if r.rctl.getLsbD 31 then spoilPlanes s c (bits r.rctl.toNat 42 32) 2 act else s
  | 0xC2 => if r.w.getLsbD 4 then spoilPlanes s c (bits r.rctl.toNat 42 32) 2 act else s
  | 0x95 => freeDigits s (bwin c + r.d.toNat) (16 * sumWords (descOf r.s.toNat).len)
  | 0xB8 =>
    let p := ldecP (descOf r.s.toNat).nd
    work (freeDigits s (turnAt c r.d.toNat) (p * 128 * (bits r.u.toNat 13 7 + 1)))
  | _ => work (spoilPlanes s c d.base d.len act)

/-- The suspended instruction of block c is abandoned there. -/
def abandonBlock (s : State) (c : Nat) : State :=
  match (seqOf s c).susp with
  | some r => spoilAll (abandonOp (spoilDest s c r) c) c 2032 8
  | none => abandonOp s c

/-- The suspended instruction of block b's program is abandoned in every block of this device that holds it. -/
def abandonHere (s : State) (b : Nat) : State :=
  if !rgB s (R.ARR_SUSP b) R.ARR_SUSP_VALID then s else forEach (gang s b) abandonBlock s

/-- ABANDON: in every block of the program, on every device of a LOCKSTEP cascade; a member forwards it to the lead (R232, R434;
log entry 50). -/
def abandonAll (s : State) (b : Nat) : State :=
  if !rgB s (R.ARR_SUSP b) R.ARR_SUSP_VALID then s else
  match partOf s b with
  | some n => if follows s n then forwardReq s n .abandon else sendAct (abandonHere s b) n .abandon
  | none => abandonHere s b

/-- ABANDON (R232). -/
def execAbandon (b : Blk) (s : State) : Host.Outcome State Fault Refusal := .next (abandonAll s b.toNat)

end Sys2Proof.Machine
end

