-- ==== Sys2Proof/Machine/Dma.lean ====
section
/-! DEFINITION. The DMA channels of a block: rings, descriptors, row requests, completion (R337-R344), and the
scratchpad's idle cycles (R323, R324). -/

namespace Sys2Proof.Machine

/-- Key of a channel. -/
def dmaKey (b : Nat) (ch : Bool) : Nat := 2 * b + b2n ch

/-- The descriptor in progress on a channel. -/
def dmaRun (s : State) (b : Nat) (ch : Bool) : Option DmaRun :=
  if mapHas (dmaKey b ch) s.dma then some (mapGet {} (dmaKey b ch) s.dma) else none

/-- That descriptor replaced; BUSY follows. -/
def setDma (s : State) (b : Nat) (ch : Bool) (r : Option DmaRun) : State :=
  let s := setB s (R.DMA_CTRL b (b2n ch)) R.DMA_CTRL_BUSY r.isSome
  match r with
  | some r => { s with dma := mapPut (dmaKey b ch) r s.dma }
  | none => { s with dma := mapErase (dmaKey b ch) s.dma }

/-- Whether a channel moves data now: enabled, its block up, its partition not held, not rolling back, not at a boundary
(R343, R472, R513). -/
def dmaLive (s : State) (b : Nat) (ch : Bool) : Bool :=
  s.powered && !s.perst && !heldRegion s (b / 8) && decide (blockCur s b ≤ 1)
    && !frozen s b (if ch then R.DBG_CTRL_FZTB else R.DBG_CTRL_FZDMA)
    && (match partOf s b with
        | some n => let e := epochOf s n; e.step == 0 && !e.rolling && epState s n != 6
        | none => false)

/-- The ring's first digit and number of entries. -/
def ringBase (s : State) (b : Nat) (ch : Bool) : Nat := rgF s (R.DMA_RING b (b2n ch)) R.DMA_RING_BASE
def ringSize (s : State) (b : Nat) (ch : Bool) : Nat := 2 ^ rgF s (R.DMA_CTRL b (b2n ch)) R.DMA_CTRL_SIZE

/-- EN written 1 (R337). -/
def dmaEnableOp (s : State) (b : Nat) (ch : Bool) : State :=
  let a := R.DMA_CTRL b (b2n ch)
  let n := rgF s a R.DMA_CTRL_SIZE
  if rgB s a R.DMA_CTRL_EN then s
  else if n = 0 ∨ 12 < n ∨ 0x80000 < ringBase s b ch + 64 * ringSize s b ch then setB s a R.DMA_CTRL_CFG true
  else setB s a R.DMA_CTRL_EN true

/-- DMA_ENABLE (R337). -/
def execDmaEnable (b : Blk) (ch : Bool) (s : State) : Host.Outcome State Fault Refusal := .next (dmaEnableOp s b.toNat ch)

/-- TAIL written (R337). -/
def dmaTailOp (s : State) (b : Nat) (ch : Bool) (tail : Nat) : State := setF s (R.DMA_RING b (b2n ch)) R.DMA_RING_TAIL tail

/-- DMA_TAIL_WRITE (R337). -/
def execDmaTailWrite (b : Blk) (ch : Bool) (tail : BitVec 12) (s : State) : Host.Outcome State Fault Refusal :=
  .next (dmaTailOp s b.toNat ch tail.toNat)

/-! ### A descriptor (R338-R341) -/

def DmaRun.op (r : DmaRun) : Nat := bits r.w0.toNat 63 60
def DmaRun.key (r : DmaRun) : Nat := bits r.w0.toNat 59 56
def DmaRun.toLocal (r : DmaRun) : Bool := r.w0.getLsbD 53
def DmaRun.host (r : DmaRun) : Bool := r.w0.getLsbD 52
def DmaRun.rows (r : DmaRun) : Nat := bits r.w0.toNat 47 32 + 1
def DmaRun.loc (r : DmaRun) : Nat := bits r.w1.toNat 20 0
def DmaRun.len (r : DmaRun) : Nat := bits r.w3.toNat 63 40
def DmaRun.lstr (r : DmaRun) : Nat := bits r.w3.toNat 39 20
def DmaRun.rstr (r : DmaRun) : Nat := bits r.w3.toNat 19 0
/-- FILL of local rows, and of remote rows. -/
def DmaRun.fillLocal (r : DmaRun) : Bool := r.op == 2 && r.toLocal
def DmaRun.fillRemote (r : DmaRun) : Bool := r.op == 2 && !r.toLocal

/-- Whether a descriptor is refused with BADDESC (R340). -/
def DmaRun.bad (r : DmaRun) (ch : Bool) : Bool :=
  let w0 := r.w0.toNat
  let lo := if ch then 0x100000 else 0
  let hi := if ch then 0x200000 else 0x80000
  decide (2 < r.op) || w0.testBit 54 || bits w0 51 48 != 0 || bits w0 31 16 != 0 || bits w0 7 1 != 0
    || (!r.fillRemote && r.w1.toNat / 2 ^ 21 != 0) || (!r.host && !r.fillLocal && r.w2.toNat / 2 ^ 48 != 0)
    || r.len == 0
    || (!r.fillRemote && (decide (r.loc < lo) || decide (hi < r.loc + (r.rows - 1) * r.lstr + r.len)))
    || (r.host && (r.op == 2 || r.loc % 2 == 1 || r.len % 2 == 1 || r.lstr % 2 == 1))

/-- A descriptor fails at the request with number id, or at none (0): no further request is issued (R342). The first failure
stands. -/
def DmaRun.failAt (r : DmaRun) (id status addr : Nat) : DmaRun :=
  if r.status = 0 then { r with status := BitVec.ofNat 8 status, eaddr := BitVec.ofNat 64 addr, failId := id } else r
def DmaRun.fail (r : DmaRun) (status addr : Nat) : DmaRun := r.failAt 0 status addr

/-- A response of the request with number id may still be followed: the descriptor has not failed, or at a later request
(R342). -/
def DmaRun.stands (r : DmaRun) (id : Nat) : Bool := r.status == 0 || r.failId == 0 || decide (id < r.failId)

/-- Whether every row has been issued. -/
def DmaRun.issuedAll (r : DmaRun) : Bool := decide (r.rows ≤ r.row)

/-- Local and remote address of the next digit; the remote address counts bytes on the host side. -/
def DmaRun.nextLocal (r : DmaRun) : Nat := r.loc + r.row * r.lstr + r.off
def DmaRun.nextRemote (r : DmaRun) : Nat :=
  if r.host then (r.w2.toNat + r.row * r.rstr + r.off / 2) % 2 ^ 64 else r.w2.toNat + r.row * r.rstr + r.off

/-- The n digits of a 16-digit pattern that a row's digits off onward take. -/
def patternDigits (v off n : Nat) : List Nat := (List.range n).map fun i => v / 16 ^ (15 - (off + i) % 16) % 16

/-- A row's data passes through the channel's local memory: a COPY that reads it, or a FILL of local rows. -/
def DmaRun.local (r : DmaRun) : Bool := r.fillLocal || (r.op == 1 && !r.toLocal)

/-- Digits of the next request: to the end of the row, no further than the next multiple of 1,024 remote digits, and for
channel 1 within one turn line (log entry 72). -/
def DmaRun.chunk (r : DmaRun) (ch : Bool) : Nat :=
  let rest := r.len - r.off
  let n := if r.fillLocal || r.host then min rest 1024 else min rest (1024 - r.nextRemote % 1024)
  if ch && !r.fillRemote then min n (256 - r.nextLocal % 256) else n

/-- A descriptor with n digits of its row behind it. -/
def DmaRun.advance (r : DmaRun) (n : Nat) : DmaRun :=
  if r.len ≤ r.off + n then { r with row := r.row + 1, off := 0 } else { r with off := r.off + n }

/-- A descriptor in progress on a channel has a further request to issue, and may issue it (R341, R342). -/
def DmaRun.issues (r : DmaRun) : Bool := !r.issuedAll && r.status == 0 && decide (r.out.length < 64) && r.op != 0

/-- The request that a remote side is next asked for, from the digits that a local read has given, if it needs any (R339,
R341). -/
def dmaSend (s : State) (b : Nat) (ch : Bool) (r : DmaRun) (data : List Nat) : State :=
  let n := r.chunk ch
  let ra := r.nextRemote
  let r1 := r.advance n
  let part := (partOf s b).getD 0
  if r.host then
    let f := requester s part
    if !busMaster s f then setDma s b ch (some (r.fail 6 ra))
    else if r.toLocal then
      let id := s.mesh.nextId
      setDma (hostReadAs s f (.dma b ch r.nextLocal) ra (n / 2)) b ch (some { r1 with out := r1.out ++ [(id, r.nextLocal, ra)] })
    else if 2 ^ 28 < logFill s (b / 8) + n / 2 then earlyBoundary s part
    else
      let s := hold s part (.hostWrite (.dma (BitVec.ofNat 7 b) ch) f ra (bytesOfDigits data))
      setDma (if 3 * 2 ^ 26 ≤ logFill s (b / 8) then earlyBoundary s part else s) b ch (some r1)
  else
    let id := s.mesh.nextId
    let i : Initiator := .dma (BitVec.ofNat 7 b) ch
    let s := if r.toLocal then sendReq s i false ra n r.key false [] else sendReq s i true ra n r.key false data
    setDma s b ch (some { r1 with out := r1.out ++ [(id, r.nextLocal, ra)] })

/-- The next request of a descriptor whose data does not come from the local memory. -/
def dmaIssue (s : State) (b : Nat) (ch : Bool) : State :=
  match dmaRun s b ch with
  | none => s
  | some r =>
    if !r.issues || r.local then s
    else dmaSend s b ch r (if r.fillRemote then patternDigits r.w1.toNat r.off (r.chunk ch) else [])

/-- A channel has something to read or write in its local memory now: data that has arrived, or a row's. -/
def dmaWants (s : State) (b : Nat) (ch : Bool) : Bool :=
  dmaLive s b ch && match dmaRun s b ch with | some r => !r.inbox.isEmpty || (r.issues && r.local) | none => false

/-- Data of a channel moves into or out of its local memory (R339, R341): data that has arrived first. A double-bit error
fails the descriptor (R342). wr: how digits are written at a local offset. -/
def dmaMove (s : State) (b : Nat) (ch : Bool) (wr : State → Nat → List Nat → State) : State :=
  match dmaRun s b ch with
  | none => s
  | some r =>
    match r.inbox with
    | (o, ds) :: rest => wr (setDma s b ch (some { r with inbox := rest })) o (ds.map BitVec.toNat)
    | [] =>
      if !r.issues || !r.local then s else
      let n := r.chunk ch
      if r.fillLocal then wr (setDma s b ch (some (r.advance n))) r.nextLocal (patternDigits r.w2.toNat r.off n)
      else
        let (s, ok) := memCheck s b (bwin b + r.nextLocal) n
        if !ok then setDma s b ch (some (r.fail 4 r.nextRemote))
        else dmaSend s b ch r (readDigits s (bwin b + r.nextLocal) n)

/-- The descriptor at HEAD is taken and checked (R337, R340, R341); its words are checked as they are read (R325, R342). -/
def dmaTake (s : State) (b : Nat) (ch : Bool) : State :=
  let h := rgF s (R.DMA_RING b (b2n ch)) R.DMA_RING_HEAD
  let a := bwin b + ringBase s b ch + 64 * h
  let (s, ok) := memCheck s b a 64
  let w (i : Nat) : Word := BitVec.ofNat 64 (readVal s (a + 16 * i) 16)
  let r : DmaRun := { entry := h, w0 := w 0, w1 := w 1, w2 := w 2, w3 := w 3 }
  setDma s b ch (some (if !ok then r.fail 4 (ringBase s b ch + 64 * h)
    else if r.bad ch then r.fail 1 r.loc else if r.op = 0 then { r with row := r.rows } else r))

/-- Whether a channel has an entry to process. -/
def dmaReady (s : State) (b : Nat) (ch : Bool) : Bool :=
  rgB s (R.DMA_CTRL b (b2n ch)) R.DMA_CTRL_EN
    && rgF s (R.DMA_RING b (b2n ch)) R.DMA_RING_HEAD != rgF s (R.DMA_RING b (b2n ch)) R.DMA_RING_TAIL

/-- A descriptor that has ended is completed (R341, R342). -/
def dmaFinish (s : State) (b : Nat) (ch : Bool) (r : DmaRun) : State :=
  let c := b2n ch
  let st := r.status.toNat
  let a := bwin b + ringBase s b ch + 64 * r.entry
  let s0 := setDma (writeVal s a 16 (putBits (putBits r.w0.toNat 15 8 st) 0 0 1)) b ch none
  if st = 0 then
    let s := setF s0 (R.DMA_RING b c) R.DMA_RING_HEAD ((r.entry + 1) % ringSize s0 b ch)
    if r.w0.getLsbD 55 then forwardIrqs (bicSet s b (5 + 2 * c)) else s
  else
    let s := setB (setB s0 (R.DMA_CTRL b c) R.DMA_CTRL_EN false) (R.DMA_CTRL b c) R.DMA_CTRL_ERR true
    let s := setRg s (R.DMA_ERR b c) (st * 2 ^ 56 + r.entry * 2 ^ 44)
    bicRise s0 (setRg s (R.DMA_EADDR b c) r.eaddr.toNat) b (6 + 2 * c)

/-- A descriptor in progress has ended: everything issued is answered and in place (R341). -/
def DmaRun.ended (r : DmaRun) : Bool := r.out.isEmpty && r.inbox.isEmpty && (r.issuedAll || r.status != 0)

/-- A channel has a descriptor to read or a completion to write (R337, R341). -/
def descWants (s : State) (b : Nat) (ch : Bool) : Bool :=
  dmaLive s b ch && match dmaRun s b ch with | some r => r.ended | none => dmaReady s b ch

/-- A descriptor read, with the requests that it can issue at once, or a completion write. -/
def descServe (s : State) (b : Nat) (ch : Bool) : State :=
  match dmaRun s b ch with
  | some r => dmaFinish s b ch r
  | none => iter 64 (fun _ s => dmaIssue s b ch) (dmaTake s b ch)

/-! ### The scratchpad's idle cycles (R323, R324) -/

/-- The request, of those that stand at a port, that came first. -/
def oldest (l : List MeshReq) : Option MeshReq :=
  l.foldl (fun best q => match best with
    | none => some q
    | some b => if q.seq < b.seq then some q else some b) none

/-- Request q stands at the scratchpad of block b, through a logical or a physical window. -/
def atScratchpad (s : State) (b : Nat) (q : MeshReq) : Bool :=
  q.atPort && !q.dead && !q.done && match targetBlk s (targetOf s q.addr) with | some (c, o) => c == b && decide (o < 0x80000) | none => false

/-- The request at block b's scratchpad that came first. -/
def spRequest (s : State) (b : Nat) : Option MeshReq := oldest (s.mesh.flight.filter (atScratchpad s b))

/-- The contenders of block b's scratchpad that want a cycle: 0 mesh requests, 1 the data of channel 0, 2 the descriptor
reads and completion writes of both channels. -/
def spWants (s : State) (b k : Nat) : Bool :=
  match k with
  | 0 => (spRequest s b).isSome
  | 1 => dmaWants s b false
  | _ => descWants s b false || descWants s b true

/-- The contender that the next idle cycle serves: the first from the rotating pointer on. -/
def spNext (s : State) (b : Nat) : Option Nat :=
  ((List.range 3).map fun i => ((seqOf s b).spPtr + i) % 3).find? fun k => spWants s b k

/-- The pointer advances past the contender that is served. -/
def spPass (s : State) (b k : Nat) : State := updSeq s b fun q => { q with spPtr := (k + 1) % 3 }

/-- The channel whose descriptor read or completion write comes first: the lower one. -/
def descNext (s : State) (b : Nat) : Bool := !descWants s b false

/-- The descriptor access of a channel when the next idle cycle serves it. -/
def descTurn (s : State) (b : Nat) (ch : Bool) : State :=
  if spNext s b = some 2 ∧ descNext s b = ch then descServe (spPass s b 2) b ch else s

/-- DMA_DESCRIPTOR (R339): the descriptor at HEAD is taken in the idle cycle that serves it and its requests are issued, as
many as may be outstanding; a descriptor in progress issues further ones. -/
def execDmaDescriptor (b : Blk) (ch : Bool) (s : State) : Host.Outcome State Fault Refusal :=
  let b := b.toNat
  .next (if !dmaLive s b ch then s
    else if (dmaRun s b ch).isSome then iter 64 (fun _ s => dmaIssue s b ch) s
    else descTurn s b ch)

/-- DMA_COMPLETION (R341): after the last acknowledgement, in the idle cycle that serves it. -/
def execDmaCompletion (b : Blk) (ch : Bool) (s : State) : Host.Outcome State Fault Refusal :=
  let b := b.toNat
  .next (if (dmaRun s b ch).isSome then descTurn s b ch else s)

/-- EN written 0 (R343): a descriptor in progress ends ABORTED, unless it has ended already. -/
def dmaDisableOp (s : State) (b : Nat) (ch : Bool) : State :=
  let s := setB s (R.DMA_CTRL b (b2n ch)) R.DMA_CTRL_EN false
  match dmaRun s b ch with
  | some r =>
    if r.ended then s
    else setDma s b ch (some (r.fail 8 (if r.fillLocal then r.nextLocal else r.nextRemote)))
  | none => s

/-- DMA_DISABLE (R343). -/
def execDmaDisable (b : Blk) (ch : Bool) (s : State) : Host.Outcome State Fault Refusal := .next (dmaDisableOp s b.toNat ch)

/-- The DMA status of a mesh status (R342). -/
def dmaStatus (st : Nat) : Nat :=
  match st with | 0 => 0 | 1 => 3 | 2 => 2 | 3 => 4 | 4 => 7 | 5 => 5 | 6 => 6 | 7 => 6 | _ => 3

/-- A response to a channel: acknowledgement, data for the local row, or failure (R341, R342). Whether data of a request
beyond the faulting one is still written is a free choice. -/
def dmaResp (s : State) (b : Nat) (ch : Bool) (id st addr : Nat) (data : List Nat) : State :=
  match dmaRun s b ch with
  | none => s
  | some r =>
    match r.out.find? fun e => e.1 == id with
    | none => s
    | some e =>
      let r1 := { r with out := r.out.filter fun x => x.1 != id }
      if st ≠ 0 then setDma s b ch (some (r1.failAt id (dmaStatus st) addr))
      else if !r.toLocal then setDma s b ch (some r1)
      else if r.stands id || freeNat s % 2 == 1 then
        setDma (if r.stands id then s else takeFree s) b ch (some { r1 with inbox := r1.inbox ++ [(e.2.1, data.map (BitVec.ofNat 4))] })
      else setDma (takeFree s) b ch (some r1)

/-- Both channels of a block stop without a completion (R75, R343). -/
def dmaStopBlock (s : State) (b : Nat) : State :=
  let stop (s : State) (ch : Bool) : State := setB (setDma s b ch none) (R.DMA_CTRL b (b2n ch)) R.DMA_CTRL_EN false
  stop (stop s false) true

/-- A contender that has waited its bound: its channel stops with STALLED, at the local offset of the data that has waited, or of
the next row's digits (R324). Data that waits there is not written, nor, but for what R342 leaves open, what comes after it
(R342). -/
def stallOut (s : State) (b : Nat) (ch : Bool) : State :=
  if !rgB s (R.DMA_CTRL b (b2n ch)) R.DMA_CTRL_EN then s else
  let s := if (dmaRun s b ch).isNone && dmaReady s b ch then dmaTake s b ch else s
  match dmaRun s b ch with
  | some r => setDma s b ch (some (match r.inbox with
    | (o, _) :: _ =>
      let later : List (Nat × Nat × Nat) := r.out.filter fun e => decide (o < e.2.1)
      DmaRun.failAt { r with inbox := [] } ((later.map fun e => e.1).head?.getD 0) 7 o
    | [] => r.fail 7 r.nextLocal))
  | none => s

/-- SCRATCHPAD_STALL_BOUND (R324). -/
def execScratchpadStallBound (b : Blk) (c : Contender) (s : State) : Host.Outcome State Fault Refusal :=
  let b := b.toNat
  .next (if rgF s (R.DMA_CTRL b 0) R.DMA_CTRL_STALL = 0 then s else
    match c with
    | .mesh id => (match reqOf s id with
        | some q => if atScratchpad s b q then respond s q 4 [] else s
        | none => s)
    | .data0 => stallOut s b false
    | .desc ch => stallOut s b ch)

end Sys2Proof.Machine
end

