-- ==== Sys2Proof/Machine/Dram.lean ====
section
/-! DEFINITION. A request at a region's DRAM port: key check, decode, copy on first write, parking, the access itself
(R308-R313, R330-R335, R379, R381). -/

namespace Sys2Proof.Machine

/-- A store that found no free shadow parks (R379). -/
def parkReq (s : State) (q : MeshReq) : State :=
  let fl := s.mesh.flight.map fun r => if r.id = q.id then { r with parked := true } else r
  { s with mesh := { s.mesh with flight := fl } }

/-- The DRAM digits of a store change; a store from outside the owning partition reaches the committed copy too
(R332, R381). -/
def dramStore (s : State) (q : MeshReq) : State :=
  let a := q.addr
  let ds := q.data.map BitVec.toNat
  let s := if keyless q.src then s else forEach (framesOf a q.len) (fun s fr => markFrame s fr true) s
  let s := writeDigits s a ds
  let s := if q.part.isSome && q.part == partOfRegion s (dramRegion a) then s else throughSnap s a ds
  respond s q 0 []

/-- The frames of a store that need a shadow before it: those of an assigned region whose WR is 0. -/
def needShadow (s : State) (q : MeshReq) : List Nat :=
  if keyless q.src then [] else
  match partOfRegion s (dramRegion q.addr) with
  | some n => if epState s n = 0 then [] else (framesOf q.addr q.len).filter fun fr => !(keyByte s fr).testBit 6
  | none => []

/-- A store passes the copy on first write: its frames are copied first, or it parks, or it waits for a copy that is
under way (R379). -/
def dramWrite (s : State) (q : MeshReq) : State :=
  let g := dramRegion q.addr
  let new := needShadow s q
  let busy := (s.dram.copies.filter fun c => c.1 / 262144 == g).length
  if new.isEmpty then dramStore s q
  else
    let n := (partOfRegion s g).getD 0
    let max := rgF s (R.EP_CTRL n) R.EP_CTRL_SHMAX
    if shadowsUsed s g + busy + new.length ≤ max then
      { s with dram := { s.dram with copies := s.dram.copies ++ new.map fun fr => (fr, q.id) } }
    else earlyBoundary (parkReq s q) n

/-- The DRAM words, by digit address, that request q reads: all that a fetch covers, and those that a store covers in part
(R308). -/
def wordsRead (q : MeshReq) : List Nat :=
  let a := q.addr
  let all := (List.range ((a + q.len - 1) / 128 + 1 - a / 128)).map fun i => 128 * (a / 128 + i)
  if !q.wr then all else all.filter fun w => decide (w < a) || decide (a + q.len < w + 128)

/-- The words that request q reads are decoded in order, as u finds them; whether all can be delivered. -/
def dramDecodes (s : State) (q : MeshReq) (u : List DramFind) : State × Bool :=
  (wordsRead q).zipIdx.foldl (fun (p : State × Bool) w =>
    let r := dramDecode p.1 w.1 (u.getD w.2 (.errors [])) false
    (r.1, p.2 && r.2)) (s, true)

/-- Whether DRAM request q can be performed now: its region is not zeroed, its keys not reloaded, its rows not copied to a
spare and its frames not to a shadow (R310, R315, R335, R379). -/
def dramFree (s : State) (q : MeshReq) : Bool :=
  let g := dramRegion q.addr
  let fr := framesOf q.addr q.len
  !s.dram.zeroing.getLsbD (g / 2) && !s.dram.reload.getLsbD g
    && (match mapGet [] g s.dram.copying with | row :: _ => !overlap q.addr q.len row 4096 | [] => true)
    && !(s.dram.copies.any fun c => c.2 == q.id) && !(q.wr && s.dram.copies.any fun c => fr.contains c.1)

/-- A request performed at the DRAM port of its region (R308, R313, R330, R332, R334); keys: which key bytes of its frames
fail their parity; u: what the decode of the words it reads finds. -/
def dramAccess (s : State) (q : MeshReq) (keys : List Bool) (u : List DramFind) : State :=
  let a := q.addr
  let frs := framesOf a q.len
  let bad := frs.zipIdx.filter fun f => keys.getD f.2 false
  if decide (0x700000000 ≤ dramOff a + q.len - 1) && !keyless q.src then respond s q 1 []
  else if !bad.isEmpty then respond (forEach bad (fun s f => keyParityError s f.1) s) q 3 []
  else if frs.any fun fr => !keyAllows s fr q.key.toNat q.wr then
    respond (keyViolation s q.key.toNat q.wr a) q 2 []
  else
    let s := if q.wr || keyless q.src then s else forEach frs (fun s fr => markFrame s fr false) s
    let (s, ok) := dramDecodes s q u
    if !ok then respond s q 3 []
    else if q.wr then dramWrite s q
    else respond s q 0 (readDigits s a q.len)

/-- The copy of a frame finds a word that the decoder cannot correct: the frame has no shadow, and its store is answered as one
whose merge fails (R313). -/
def copyFails (s : State) (id : Nat) : State :=
  let s := { s with dram := { s.dram with copies := s.dram.copies.filter fun x => x.2 != id } }
  match reqOf s id with | some q => respond s q 3 [] | none => s

/-- SHADOW_COPY_DONE (R312, R379): the oldest copy of region g has been read through the decoder, and its store is performed once
it waits for no other. -/
def execShadowCopyDone (d : DramCopy) (s : State) : Host.Outcome State Fault Refusal :=
  let g := d.g.toNat
  .next (match s.dram.copies.find? fun c => c.1 / 262144 == g with
    | none => s
    | some c =>
      let s := { s with dram := { s.dram with copies := s.dram.copies.filter fun x => x != c } }
      let (s, ok) := copyDecodes s (0x20000 * c.1) d.finds
      if !ok then copyFails s c.2 else
      let n := (partOfRegion s g).getD 0
      let s := updEpoch s n fun e => { e with shadowed := setAdd c.1 e.shadowed }
      let s := if rgF s (R.EP_CTRL n) R.EP_CTRL_SHMAX ≤ shadowsUsed s g + 32 then earlyBoundary s n else s
      if s.dram.copies.any fun x => x.2 == c.2 then markFrame s c.1 true
      else match reqOf s c.2 with
        | some q => if q.dead then respond s q 0 [] else dramStore s q
        | none => s)

end Sys2Proof.Machine
end

