-- ==== Sys2Proof/Machine/Check.lean ====
section
/-! DEFINITION. Machine checks at the controller: strikes, rollback, replacement, migration (R299, R375, R384-R391). -/

namespace Sys2Proof.Machine

/-- The journal record of a cascade's ABORT: 1 FAIL, 2 strike, 3 CTO (R394). -/
def cascAbort (s : State) (n why : Nat) : State := epochMsg (journal s 0x0A 9 n 0 why 0) n ctlAbort

/-- A rollback for a strike on this device. In a cascade partition the lead is told by FAIL, and the lead tells every
device by ABORT (R389). -/
def rollbackHere (s : State) (n arg src unit loc : Nat) : State :=
  if epState s n = 6 then s else
  let s := rollback s n arg src unit loc
  if !cascadePart s n then s
  else if leadsCascade s then cascAbort s n 2
  else epochMsg { s with rein := { s.rein with prepared := none } } n ctlFail

/-- A strike against an element of partition n: the first rolls the partition back; a second before the next commit also
puts the element's replacement in its place (R375): the state after the replacement's tests, and whether something takes the
element's place. Where nothing does the event is outside concealment (R390), unless the element is logical block blk and a
load that is under way may bring a holder when it ends (R79). -/
def strike (s : State) (n : Nat) (key : BitVec 8 × BitVec 10 × BitVec 64) (m : MCheck) (failed : Bool) (blk : Option Nat)
    (replace : State → State × Bool) : State :=
  let again := decide (key ∈ (epochOf s n).strikes) || failed
  let s := updEpoch s n fun e => { e with strikes := setAdd key e.strikes }
  if !again then rollbackHere s n 1 m.src.toNat m.unit.toNat m.loc.toNat
  else match replace s with
    | (t, true) => rollbackHere t n 2 m.src.toNat m.unit.toNat m.loc.toNat
    | (t, false) => match blk with
      | none => concealmentLost t n m.src.toNat m.unit.toNat m.loc.toNat
      | some b =>
        if replaceLater t (b / 8) then
          rollbackHere (updEpoch t n fun e => { e with wait := setAdd (b, m.src, m.answers) e.wait }) n 2 m.src.toNat m.unit.toNat
            m.loc.toNat
        else concealmentLost (deadBlock t m.unit.toNat m.src.toNat) n m.src.toNat m.unit.toNat m.loc.toNat

/-- Logical block b is replaced, if something can take its place. -/
def orReplace (s : State) (b src : Nat) (answers : Bool) : State × Bool :=
  match replaceBlock s b src answers with | some t => (t, true) | none => (s, false)

/-- The failing column c of block b is spared, else the block is replaced (R118, R375). A USED spare that has failed with it
is DEAD either way (R120). -/
def columnFails (s : State) (b src : Nat) (c : Option (Fin 144)) (answers : Bool) : State × Bool :=
  match c with
  | some c => match spareColumn s b c.val src with
    | some t => (t, true)
    | none => orReplace (killSpare s b c.val) b src answers
  | none => orReplace s b src answers

/-- A fault that no partition's rollback takes up: the strike is journaled (R79). -/
def strayFault (s : State) (m : MCheck) : State := journal s 1 m.src.toNat 0 m.unit.toNat 1 m.loc.toNat

/-- A strike against the physical block m.unit (R375). A fault in a held region has no partition to roll back: it is
journaled, and the block counts as dead in the sparing computation of the next APPLY (R79). A block that a fold has isolated
keeps its memories in service: nothing takes their place when these fail (R387, R390). -/
def blockStrike (s : State) (m : MCheck) : State :=
  let p := m.unit.toNat
  if p < 144 && heldRegion s (p / 9) && (match storeOfPhys s p with | some b => heldRegion s (b / 8) | none => true) then
    deadBlock s p m.src.toNat
  else match blockOfPhys s p with
  | none => match storeOfPhys s p with
    | none => strayFault s m
    | some b => match partOf s b with
      | none => strayFault s m
      | some n => strike s n (1, m.unit, 0) m (!m.answers) none fun s => (s, false)
  | some b =>
    match partOf s b with
    | none => deadBlock s p m.src.toNat
    | some n => strike s n (1, m.unit, 0) m false (some b) fun s => columnFails s b m.src.toNat m.badCol m.answers

/-- A twin mismatch of physical block m.unit (R119, R375): both columns are tested at a second strike. In a block without a
partition the test is made at once, and the fault journaled (R79). -/
def twinStrike (s : State) (m : MCheck) : State :=
  match storeOfPhys s m.unit.toNat with
  | none => strayFault s m
  | some b =>
    let test (s : State) : State × Bool :=
      let s := if m.badTwin then killTwin s b else s
      if m.badCol.isSome then columnFails s b 4 m.badCol m.answers else (s, true)
    match partOf s b with
    | none =>
      let s := strayFault (if m.badTwin then killTwin s b else s) m
      (match m.badCol with
        | some c => (spareColumn s b c.val 4).getD (deadBlock (killSpare s b c.val) m.unit.toNat 4)
        | none => s)
    | some n => strike s n (4, m.unit, m.loc) m false (some b) test

/-- A concealed fault of a control store (R299): reload, rollback; the second one at the word, or at the dispatch entry, fails
the block. An illegal microword strikes the physical block (R375). -/
def storeStrike (s : State) (m : MCheck) : State :=
  let r : MCheck := { m with loc := BitVec.ofNat 64 (m.loc.toNat % 0x10000) }
  match blockOfPhys s m.unit.toNat with
  | none => strayFault s r
  | some b =>
    let s := reloadStore s b 3
    match partOf s b with
    | none => strayFault s r
    | some n =>
      if m.loc.toNat / 0x10000 = 2 then strike s n (1, m.unit, 0) r false (some b) fun s => columnFails s b 3 m.badCol m.answers
      else strike s n (3, m.unit, m.loc) r false (some b) fun s => orReplace s b 3 m.answers

/-- An uncorrectable DRAM word at digit address m.loc (R313, R375, R390). -/
def dramStrike (s : State) (m : MCheck) : State :=
  let a := m.loc.toNat
  let g := dramRegion a
  match partOfRegion s g with
  | none => strayFault s m
  | some n =>
    if !((epochOf s n).shadowed.contains (a / 0x20000)) then concealmentLost s n 6 (0x100 + g) a
    else strike s n (6, m.unit, BitVec.ofNat 64 (rowOf a)) m false none fun s =>
      let rows := mapGet [] g s.dram.rows
      if 512 ≤ rows.length then (s, true) else
      let rows := rows ++ [rowOf a]
      let s := { s with dram := { s.dram with rows := mapPut g rows s.dram.rows } }
      let s := setF s (R.DRAM_ECC g) R.DRAM_ECC_SPROWS rows.length
      let s := warnOp (journal s 7 6 n (0x100 + g) 0 (rowOf a)) 4 (0x100 + g) n true
      (if rows.length = 512 then cicRise s (setB s (R.DRAM_ECC g) R.DRAM_ECC_SPFULL true) (32 + g) else s, true)

/-- A key byte's parity failed (R334, R375): rewritten from the mirror at the first strike. -/
def keyStrike (s : State) (m : MCheck) : State :=
  let fr := m.loc.toNat / 0x20000
  let s := setKeyByte s fr (keyByte s fr)
  match partOfRegion s (fr / 262144) with
  | none => strayFault s m
  | some n => rollbackHere s n 1 7 m.unit.toNat m.loc.toNat

/-- The router of a unit of R393. -/
def unitRouter (unit : Nat) : Nat := routerAt ((unit - 512) % 6) ((unit - 512) / 6)

/-- A response timeout (R360, R375): the target is probed; one that does not answer fails at once and is isolated (R364). A
target at a router (0, y) or (5, y) stands behind its local port 0 (R346). -/
def targetStrike (s : State) (m : MCheck) : State :=
  let u := m.unit.toNat
  if u < 144 then
    let cut (s : State) : State := if m.answers then s else setF s (R.RT_ISO (u / 9)) ⟨1 + u % 9, 1 + u % 9⟩ 1
    match blockOfPhys s u with
    | none => match (storeOfPhys s u).bind (partOf s) with
      | none => strayFault (cut s) m
      | some n => strike (cut s) n (8, m.unit, 0) m (!m.answers) none fun s => (s, m.answers)
    | some b => match partOf s b with
      | none => if m.answers then strayFault s m else deadBlock (cut s) u 8
      | some n => strike s n (8, m.unit, 0) m (!m.answers) (some b) fun s => orReplace s b 8 m.answers
  else
    let a := if u < 512 then R.RT_ISO (u % 16) else R.RT_ISO (unitRouter u)
    let s := if m.answers then s else setF s a ⟨0, 0⟩ 1
    match (unitRegion u).bind (partOfRegion s) with
    | none => strayFault s m
    | some n => strike s n (8, m.unit, 0) m (!m.answers) none fun s => (s, true)

/-- An error on a mesh link of router m.unit (R354, R363, R375): journaled; a region router's partition rolls back. -/
def linkStrike (s : State) (m : MCheck) : State :=
  match (unitRegion m.unit.toNat).bind (partOfRegion s) with
  | some n => rollbackHere s n 1 8 m.unit.toNat m.loc.toNat
  | none => strayFault s m

/-- The routers that the link from router r on side d joins. -/
def linkEnds (r d : Nat) : List Nat :=
  let x := (routerUnit r) % 6
  let y := (routerUnit r) / 6
  [r, match d with | 0 => routerAt x (y - 1) | 1 => routerAt (x + 1) y | 2 => routerAt x (y + 1) | _ => routerAt (x - 1) y]

/-- A mesh link has been taken down on side d of router m.unit: an event outside concealment for the partitions of the
regions that it joins (R361, R390; log entry 98). -/
def linkLost (s : State) (m : MCheck) (d : Nat) : State :=
  let ns := ((linkEnds (unitRouter m.unit.toNat) d).filterMap fun r => if r < 16 then partOfRegion s r else none).eraseDups
  if ns.isEmpty then strayFault s m
  else ns.foldl (fun s n => concealmentLost s n 8 m.unit.toNat m.loc.toNat) s

/-- A strike in the controller itself loses every partition (R390). -/
def controllerStrike (s : State) (m : MCheck) : State :=
  forEach ((List.range 16).filter (defined s)) (fun s n => concealmentLost s n 0x0A m.unit.toNat m.loc.toNat) s

/-- What the controller does with a machine check (R375). -/
def checkOp (s : State) (m : MCheck) : State :=
  match m.src.toNat with
  | 1 => blockStrike s m
  | 2 => blockStrike s m
  | 5 => blockStrike s m
  | 3 => storeStrike s m
  | 4 => twinStrike s m
  | 6 => dramStrike s m
  | 7 => keyStrike s m
  | 8 =>
    if m.unit.toNat < 512 then targetStrike s m
    else if m.loc = 0 then linkStrike s m
    else if m.loc.toNat ≤ 4 then linkLost s m (m.loc.toNat - 1)
    else targetStrike s m
  | 0x0A => controllerStrike s m
  | _ => s

/-- MACHINE_CHECK_ALARM (R375): the alarm reaches the controller. -/
def execMachineCheckAlarm (m : MCheck) (s : State) : Host.Outcome State Fault Refusal :=
  .next (sweepIso (checkOp { s with dbg := { s.dbg with
    chk := s.dbg.chk.erase (m.src.toNat, m.unit.toNat, m.loc.toNat) } } m))

/-! ### Migration (R388) -/

/-- A FREE spare column of block b. -/
def freeSpare (s : State) (b : Nat) : Option Nat := (List.range 4).find? fun n => spState s b n == 0

/-- MIGRATION (R388): the partition of a block whose corrections passed the threshold stops, when there is somewhere to
move to; column c alone when they lie in it, and the block when they lie elsewhere. -/
def execMigration (b : Blk) (col : Option (Fin 144)) (s : State) : Host.Outcome State Fault Refusal :=
  let b := b.toNat
  .next (match partOf s b with
    | none => s
    | some n =>
      if (seqOf s b).mig ≠ 1 ∨ col ≠ (seqOf s b).migCol ∨ epState s n ≠ 1 then s else
      let can := match col with
        | some _ => (freeSpare s b).isSome
        | none => (newHolder s (b / 8) (b % 8) true true).isSome
      if !can then updSeq s b fun q => { q with mig := 0 }
      else girthStop (updSeq s b fun q => { q with mig := 2 }) n 6)

/-- MIGRATION_DONE (R388): the state stands in the new holder, and the partition resumes. -/
def execMigrationDone (b : Blk) (col : Option (Fin 144)) (s : State) : Host.Outcome State Fault Refusal :=
  let b := b.toNat
  .next (match partOf s b with
    | none => s
    | some n =>
      if (seqOf s b).mig ≠ 2 ∨ col ≠ (seqOf s b).migCol then s else
      let s := updSeq s b fun q => { q with mig := 0, migCol := none }
      let moved (s : State) : State := addSat s R.CN_COUNT R.CN_COUNT_MIGRATES 1
      let old := (holder s b).getD 0
      let s := match col with
        | some c => match freeSpare s b with
          | none => s
          | some k =>
            let s := moved (addSat s R.CN_COUNT R.CN_COUNT_COLSPARES 1)
            let s := setF (killSpare s b c.val) (R.ARR_COLMAP b) (spFld k) (1024 + c.val)
            let s := journal s 2 0x0B n old (holderCode s b) c.val
            pickTwin (journal s 3 0x0B n old (k * 256 + c.val) c.val) b
        | none => match newHolder s (b / 8) (b % 8) true true with
          | none => s
          | some (code, s) =>
            let cur := domCur s old
            let s := setF (moved s) (R.BSW_MAP (b / 8)) (posFld (b % 8)) code
            let s := match holder s b with | some p => moveHolder (setDom s p cur) b old p | none => s
            regeom (journal (showHolders s (b / 8)) 2 0x0B n old code 0) n true
      freePart s n)

end Sys2Proof.Machine
end

