-- ==== Sys2Proof/Machine/Route.lean ====
section
/-! DEFINITION. The Sluice state of a domain: fence, drain, hold buffer (R364-R369). -/

namespace Sys2Proof.Machine

/-- A packet of request q is addressed to domain j of region g; the gateway's fence stands before its blocks too. -/
def boundFor (s : State) (g j : Nat) (q : MeshReq) : Bool :=
  let t := targetOf s q.addr
  if j = 9 then gateOf t == some g else domainOf s t == some (g, j)

/-- Request q comes from domain j of region g: a block by its source port, or the gateway's own agents by theirs (R345). -/
def issuedBy (g j : Nat) (q : MeshReq) : Bool := q.home == g && q.sport == (if j = 9 then 0 else 1 + j)

/-- Domain j of region g is drained (R367): every packet that passed its fence point is answered, and every request that
the domain issued before the fence has been answered to it, wherever it waits. Requests held at the fence abort the entry
instead (R368). -/
def drained (s : State) (g j : Nat) : Bool :=
  (s.mesh.flight.all fun q => q.dead ||
      !((q.seq != 0 && q.held.isNone && !q.done && boundFor s g j q) || (issuedBy g j q && !q.fenced && !q.timedOut)))
    && (s.mesh.resps.all fun r => r.req.dead || r.req.timedOut || !issuedBy g j r.req)

/-- The number of packets in the hold buffer of region g (R369): requests and interrupt messages. -/
def heldCount (s : State) (g : Nat) : Nat :=
  (s.mesh.flight.filter fun q => match q.held with | some k => k / 10 == g | none => false).length
    + (s.irq.held.filter fun e => e.1 / 10 == g).length

/-- A load that is under way has fenced domain j of region g (R74). -/
def loadFence (s : State) (g j : Nat) : Bool := match s.img with | some L => (loadDoms s L).contains (g, j) | none => false

/-- The hold buffer of region g has no place for a packet that must be held before its domain j, which has begun to leave L0 or
which a load has fenced: the packet waits in its upstream queue (R369). -/
def bufferFull (s : State) (g j : Nat) : Bool :=
  decide (64 ≤ heldCount s g) && (decide (4 ≤ sluiceSt s g j) || loadFence s g j)

/-- GW_SLUICE.HELDPK follows the hold buffer. -/
def showHeld (s : State) (g : Nat) : State := setF s (R.GW_SLUICE g) R.GW_SLUICE_HELDPK (min 64 (heldCount s g))

/-- The fence before domain j of region g lifts (R367, R368): the packets held there go first, in arrival order, and the
domain's own requests that waited leave. -/
def liftFence (s : State) (g j : Nat) : State :=
  let own := s.mesh.flight.filter fun q => q.fenced && issuedBy g j q
  let fl := (s.mesh.flight.filter fun q => !(q.fenced && issuedBy g j q)).map fun q =>
    if q.held = some (10 * g + j) then { q with held := none, freed := true } else q
  let own := own.map fun q => { q with fenced := false, sent := s.nclk }
  let s := { s with mesh := { s.mesh with flight := fl ++ own }
                    irq := { s.irq with held := s.irq.held.filter fun e => e.1 != 10 * g + j
                                        freed := s.irq.freed ++ s.irq.held.filter fun e => e.1 == 10 * g + j
                                        msgs := ((s.irq.held.filter fun e => e.1 == 10 * g + j).map fun e => (e.2.1, e.2.2.1))
                                          ++ s.irq.msgs } }
  own.foldl leave (showHeld (setSluice s g j 0) g)

/-- SLUICE_FENCE_REQ (R366): the fence that was requested for a domain is in place. -/
def execSluiceFenceReq (g : Rgn) (j : Fin 10) (s : State) : Host.Outcome State Fault Refusal :=
  .next (if sluiceSt s g.toNat j = 1 then setSluice s g.toNat j 2 else s)

/-- SLUICE_DRAINED (R367). -/
def execSluiceDrained (g : Rgn) (j : Fin 10) (s : State) : Host.Outcome State Fault Refusal :=
  .next (if sluiceSt s g.toNat j = 2 && drained s g.toNat j then setSluice s g.toNat j 3 else s)

end Sys2Proof.Machine
end

