-- ==== Sys2Proof/Machine/Power.lean ====
section
/-! DEFINITION. Dividers, the V/F curves, margin monitors, power limit, the power ladder, supply sag and the thermal
limit (chapter 15, R382, R547). -/

namespace Sys2Proof.Machine

/-! ### The start of a sequencer (R412) -/

/-- The registers that a start writes: PC, g1, g2 and PSR with IE = 0. -/
def startRegs (b pc a0 a1 psr : Nat) : List (Nat × Nat) :=
  [(R.DBG_PC b, pc), (R.GREG b 1, a0), (R.GREG b 2, a1), (R.PSR b, putBits psr 0 0 0)]

/-- A start that an agent outside the partition makes also reaches the committed copy, so that a rollback keeps it (R381,
log entry 34). -/
def startInSnap (c : Snap) (b pc a0 a1 : Nat) : Snap :=
  let rs := startRegs b pc a0 a1 (mapGet (regReset (R.PSR b)) (R.PSR b) c.regs).toNat
  { c with
    regs := rs.foldl (fun m e => mapSet (regReset e.1) e.1 (BitVec.ofNat 64 e.2) m) c.regs
    seqs := mapSet {} b { mapGet {} b c.seqs with inProg := true, inRun := true, waiting := false, exit := none } c.seqs
    pwr := c.pwr.map fun x => if x.1 = b ∧ x.2 = 1 then (b, 0) else x }

/-- Sequencer b starts at a PC with its two arguments in g1 and g2 (R412); in each block of its program the roving twin is
appointed (R119). -/
def startSeq (s : State) (b pc a0 a1 : Nat) : State :=
  let s := (startRegs b pc a0 a1 (rg s (R.PSR b))).foldl (fun s e => setRg s e.1 e.2) (endHush s b)
  let s := setF (setB s (R.DBG_STATUS b) R.DBG_STATUS_HALTED false) (R.DBG_STATUS b) R.DBG_STATUS_CAUSE 0
  let s := updSeq s b fun q => { q with inProg := true, inRun := true, waiting := false, exit := none }
  let s := forEach (gang s b) pickTwin s
  match partOf s b with
  | some n => updEpoch s n fun e => { e with com := e.com.map fun c => startInSnap c b pc a0 a1 }
  | none => s

/-- A run that waited for the wake of block b starts once no other of its blocks is asleep, and its TIMEOUT counts from there
(R414, R475). -/
def startWoken (s : State) (b : Nat) : State :=
  s.host.runs.foldl (fun s r =>
    if r.waking.contains b then
      let left := r.waking.filter (· != b)
      let due : Option Nat := match r.cmd with
        | some (_, _, c) => if left.isEmpty ∧ cmdVal c 48 4 ≠ 0 then some (now s + cmdVal c 48 4 * 100000) else r.deadline
        | none => r.deadline
      let s := { s with host := { s.host with runs := s.host.runs.map fun x =>
        if x = r then { x with waking := left, deadline := due } else x } }
      match r.cmd with
      | some (_, _, c) =>
        if left.isEmpty then r.blocks.foldl (fun s k => startSeq s k (cmdVal c 8 4) (cmdVal c 32 8) (cmdVal c 40 8)) s else s
      | none => s
    else s) s

/-! ### Points and voltages (R466, R470) -/

/-- The voltage of point k on curve c in mV (R466). -/
def pointMV (c k : Nat) : Nat :=
  let base := match k / 4 with | 0 => 600 | 1 => 600 | 2 => 625 | _ => 650
  min 850 (base + 25 * (k % 4) + 25 * c)

/-- The divider group in use by region g. -/
def grp (s : State) (g : Nat) : Nat := 3 - rgF s (R.PC_RGN g) R.PC_RGN_ADIV

/-- The group that region g is to enter: that of the move that waits for its voltage or its switch, else the one in use. -/
def nextGrp (s : State) (g : Nat) : Nat :=
  if mapHas g s.pwr.wait then 3 - (mapGet 0 g s.pwr.wait).toNat
  else if mapHas g s.pwr.switch then 3 - (mapGet 0 g s.pwr.switch).toNat else grp s g

/-- The lowest point of group k, and its top point within PMAX. -/
def lowPoint (k : Nat) : Nat := 4 * k
def topPoint (s : State) (g k : Nat) : Nat := min (4 * k + 3) (rgF s (R.PC_RGN g) R.PC_RGN_PMAX)

/-- The point at which region g enters group k: the top one where a fallback holds it in that group, else the lowest
(R467). -/
def enterPoint (s : State) (g k : Nat) : Nat :=
  if mapHas g s.pwr.fall && (mapGet 0 g s.pwr.fall).toNat == k then topPoint s g k else lowPoint k

/-- The voltage that region g needs: that of its point, and of the point at which it enters a faster group (R470, R471). -/
def regionMV (s : State) (g : Nat) : Nat :=
  let c := rgF s (R.PC_RGN g) R.PC_RGN_CURVE
  let v := pointMV c (rgF s (R.PC_RGN g) R.PC_RGN_POINT)
  if grp s g < nextGrp s g then max v (pointMV c (enterPoint s g (nextGrp s g))) else v

/-- The voltage that the assigned regions need; 700 mV while none is (R470). -/
def wantMV (s : State) : Nat :=
  let gs := (List.range 16).filter (assigned s)
  if gs.isEmpty then 700 else (gs.map (regionMV s)).foldl max 0

/-- The regulator is commanded when the voltage needed differs; otherwise the switches that waited may be taken. While a
change settles, the next one waits (R470, R471). -/
def commandVolt (s : State) : State :=
  if rgB s R.PC_VF R.PC_VF_SETTLE then s else
  let v := wantMV s
  let old := rgF s R.PC_VF R.PC_VF_MV
  let s := if v ≤ old then
      { s with pwr := { s.pwr with switch := s.pwr.wait.foldl (fun m e => mapPut e.1 e.2 m) s.pwr.switch, wait := [] } } else s
  if v = old then s
  else emit (setB (setF s R.PC_VF R.PC_VF_MV v) R.PC_VF R.PC_VF_SETTLE true) (.vout v)

/-- VOLTAGE_SETTLED (R470). -/
def execVoltageSettled (s : State) : Host.Outcome State Fault Refusal :=
  .next (if rgB s R.PC_VF R.PC_VF_SETTLE then commandVolt (setB s R.PC_VF R.PC_VF_SETTLE false) else s)

/-! ### Dividers (R464-R469) -/

/-- The fastest group that region g may take: that of TDIV, within PMAX and the fallbacks (R468). -/
def allowedGrp (s : State) (g : Nat) : Nat :=
  min (min (3 - rgF s (R.PC_RGN g) R.PC_RGN_TDIV) (rgF s (R.PC_RGN g) R.PC_RGN_PMAX / 4)) (mapGet (3 : BitVec 2) g s.pwr.fall).toNat

/-- The regions whose spare region g holds or that hold a spare of g (R469). -/
def spareMates (s : State) (g : Nat) : List Nat :=
  (List.range 4).filterMap fun d => match neighbour g d with
    | none => none
    | some h =>
      let lends := rgF s (R.BSW_MAP g) R.BSW_MAP_SPARE_ST == 2 && rgF s (R.BSW_MAP g) R.BSW_MAP_LEND_DIR == d
      let borrows := (List.range 8).any fun k => rgF s (R.BSW_MAP g) (posFld k) == 16 + d
      if lends || borrows then some h else none

/-- The regions that must share region g's divider: those of its LOCKSTEP partition, lenders and borrowers (R465,
R469). -/
def divMates (s : State) (g : Nat) : List Nat :=
  let more (g : Nat) : List Nat := spareMates s g ++ match partOfRegion s g with
    | some n => if lockstep s n then regionsOf s n else []
    | none => []
  iter 8 (fun _ l => l.foldl (fun l h => (more h).foldl (fun l x => setAdd x l) l) l) [g]

/-- The regions of l move to group k: a faster one once the voltage is there, a slower one by a switch that takes effect
between two microwords (R464, R471). -/
def moveGroup (s : State) (l : List Nat) (k : Nat) : State :=
  let code : BitVec 2 := BitVec.ofNat 2 (3 - k)
  let s := l.foldl (fun s g =>
    let clear : PwrSt := { s.pwr with wait := mapErase g s.pwr.wait, switch := mapErase g s.pwr.switch }
    if grp s g < k then { s with pwr := { clear with wait := mapPut g code clear.wait } }
    else if k < grp s g then { s with pwr := { clear with switch := mapPut g code clear.switch } }
    else { s with pwr := clear }) s
  commandVolt s

/-- The regions that share region g's divider take the slowest group that f allows any of them. -/
def retarget (s : State) (g : Nat) (f : Nat → Nat) : State :=
  let l := divMates s g
  moveGroup s l ((l.map f).foldl min 3)

/-- DIVIDER_SWITCH (R464): the switch chosen for region g takes effect, in every region that shares its divider at one
tick. A region that a fallback holds in the group runs at its top point, else at its lowest. -/
def execDividerSwitch (g : Rgn) (s : State) : Host.Outcome State Fault Refusal :=
  let g := g.toNat
  .next (if !mapHas g s.pwr.switch then s else
    commandVolt ((divMates s g).foldl (fun s h =>
      if mapHas h s.pwr.switch then
        let c := (mapGet 0 h s.pwr.switch).toNat
        let s := setF (setF s (R.PC_RGN h) R.PC_RGN_ADIV c) (R.PC_RGN h) R.PC_RGN_POINT (enterPoint s h (3 - c))
        { s with pwr := { s.pwr with switch := mapErase h s.pwr.switch } }
      else s) s))

/-- A spare mate of region g lies outside the set that a TDIV write changes and would keep another divider (R465). -/
def tdivRefused (s : State) (g d : Nat) : Bool :=
  let set := match partOfRegion s g with | some n => if lockstep s n then regionsOf s n else [g] | none => [g]
  underLoad s g
    || set.any fun h => (spareMates s h).any fun x => !set.contains x && rgF s (R.PC_RGN x) R.PC_RGN_TDIV != d

/-- A write of TDIV of region g (R465, R468). -/
def tdivOp (s : State) (g d : Nat) : State :=
  if tdivRefused s g d then setB s (R.PC_RGN g) R.PC_RGN_REFUSED true else
  let set := match partOfRegion s g with | some n => if lockstep s n then regionsOf s n else [g] | none => [g]
  let s := set.foldl (fun s h => setF s (R.PC_RGN h) R.PC_RGN_TDIV d) s
  retarget s g (allowedGrp s)

/-- Who may write PC_RGN.TDIV of region g (R480). -/
def tdivMay (s : State) (i : Initiator) (g : Nat) : Bool :=
  match i with
  | .host f => f.val == 0
  | .awl => true
  | .seq b => (partOf s b.toNat).isSome && partOf s b.toNat == partOfRegion s g
  | .controller | .security | .image | .dma _ _ | .rein _ => false

/-- TDIV_WRITE (R465). -/
def execTdivWrite (i : Initiator) (g : Rgn) (d : BitVec 2) (s : State) : Host.Outcome State Fault Refusal :=
  .next (if tdivMay s i g.toNat then tdivOp s g.toNat d.toNat else s)

/-- MARGIN_LOW_REPORT (R467): one point up, or a margin fallback at the top of the group or at PMAX. -/
def execMarginLowReport (g : Rgn) (s : State) : Host.Outcome State Fault Refusal :=
  let g := g.toNat
  let s0 := setB s (R.PC_RGN g) R.PC_RGN_MLOW true
  let p := rgF s0 (R.PC_RGN g) R.PC_RGN_POINT
  .next (if !assigned s g then s0
    else if p % 4 < 3 ∧ p < rgF s0 (R.PC_RGN g) R.PC_RGN_PMAX then commandVolt (setF s0 (R.PC_RGN g) R.PC_RGN_POINT (p + 1))
    else if p / 4 = 0 then s0
    else
      let s1 := addSat s0 (R.PC_RGN g) R.PC_RGN_FALLBACK 1
      let s2 := powerEvent s1 R.PC_EVENT_FALLEV
      let s3 := { s2 with pwr := { s2.pwr with fall := mapPut g (BitVec.ofNat 2 (p / 4 - 1)) s2.pwr.fall } }
      retarget s3 g (fun h => min (grp s3 h) (allowedGrp s3 h)))

/-- MARGIN_QUIET (R467): 1 ms without a low report; one point down. -/
def execMarginQuiet (g : Rgn) (s : State) : Host.Outcome State Fault Refusal :=
  let g := g.toNat
  let s0 := setB s (R.PC_RGN g) R.PC_RGN_MLOW false
  let p := rgF s0 (R.PC_RGN g) R.PC_RGN_POINT
  .next (if assigned s g && p % 4 != 0 then commandVolt (setF s0 (R.PC_RGN g) R.PC_RGN_POINT (p - 1)) else s0)

/-- DIVIDER_RETURN (R468, R469): a region held slower than TDIV returns one group faster. -/
def execDividerReturn (g : Rgn) (s : State) : Host.Outcome State Fault Refusal :=
  let g := g.toNat
  let k := grp s g + 1
  .next (if !assigned s g || decide (3 - rgF s (R.PC_RGN g) R.PC_RGN_TDIV < k)
        || decide (rgF s (R.PC_RGN g) R.PC_RGN_PMAX < 4 * k) || rgB s (R.PC_RGN g) R.PC_RGN_MLOW then s else
    let last : Bool := decide (k = 3 - rgF s (R.PC_RGN g) R.PC_RGN_TDIV)
    let fall := if last then mapErase g s.pwr.fall else mapPut g (BitVec.ofNat 2 k) s.pwr.fall
    let s1 : State := if (mapGet (3 : BitVec 2) g s.pwr.fall).toNat < k then { s with pwr := { s.pwr with fall := fall } } else s
    retarget s1 g fun h => min (grp s1 h + 1) (allowedGrp s1 h))

/-! ### Power limit and temperature (R477, R547) -/

/-- PMAX that the image gives region g. -/
def topOf (s : State) (g : Nat) : Nat := (mapGet ({} : RegionCfg) g s.cfg.regions).top.toNat

/-- A reduction grows by 4 points in every assigned region, and no further than to PMAX 3 (R477, R547). -/
def cutMore (s : State) (m : List (Nat × Nat)) : List (Nat × Nat) :=
  ((List.range 16).filter (assigned s)).foldl (fun m g => mapSet 0 g (min (topOf s g - 3) (mapGet 0 g m + 4)) m) m

/-- A reduction shrinks by 4 points in every region that it holds. -/
def cutLess (m : List (Nat × Nat)) : List (Nat × Nat) := m.foldl (fun m e => mapSet 0 e.1 (e.2 - 4) m) m

/-- PMAX of region g under both reductions: the image's value less the larger, never below 3 (R547). -/
def pmaxOf (s : State) (g : Nat) : Nat :=
  max (min (topOf s g) 3) (topOf s g - max (mapGet 0 g s.pwr.capCut) (mapGet 0 g s.pwr.thCut))

/-- PMAX of every assigned region as the reductions stand. A region whose group in use, or to come, lies above it moves to a
slower one; a point above it within the group falls to it, and the voltage follows (R468, R470). -/
def applyPmax (s : State) : State :=
  commandVolt ((List.range 16).foldl (fun s g =>
    if !assigned s g then s else
    let p := pmaxOf s g
    let s := setF s (R.PC_RGN g) R.PC_RGN_PMAX p
    let k := rgF s (R.PC_RGN g) R.PC_RGN_POINT
    let s := setF s (R.PC_RGN g) R.PC_RGN_POINT (if k / 4 = p / 4 then min k p else k)
    if p / 4 < max (grp s g) (nextGrp s g) then retarget s g (fun h => min (nextGrp s h) (allowedGrp s h)) else s) s)

/-- POWER_SAMPLE (R477): a 1 ms average against LIMIT. -/
def execPowerSample (avg : BitVec 16) (s : State) : Host.Outcome State Fault Refusal :=
  let a := avg.toNat
  let s := setF s R.PC_PWR R.PC_PWR_AVG a
  let lim := rgF s R.PC_PWR R.PC_PWR_LIMIT
  .next (if lim < a then
    let s1 := { s with pwr := { s.pwr with capCut := cutMore s s.pwr.capCut, capOk := none } }
    applyPmax (powerEvent s1 R.PC_EVENT_CAPEV)
  else if 100 * a < 95 * lim then
    match s.pwr.capOk with
    | none => { s with pwr := { s.pwr with capOk := some (now s) } }
    | some t => if now s < t + 10000000 then s
      else applyPmax { s with pwr := { s.pwr with capCut := cutLess s.pwr.capCut, capOk := some (now s) } }
  else { s with pwr := { s.pwr with capOk := none } })

/-- THERMAL_SAMPLE (R547): the highest sensor reading at a 1 ms sample. -/
def execThermalSample (t : BitVec 8) (s : State) : Host.Outcome State Fault Refusal :=
  let v := t.toNat
  let s := setF s R.TH_STATUS R.TH_STATUS_TMAX v
  let s := setF s R.TH_STATUS R.TH_STATUS_PEAK (max v (rgF s R.TH_STATUS R.TH_STATUS_PEAK))
  .next (if 100 ≤ v then
    let s := if rgB s R.TH_STATUS R.TH_STATUS_HOT then s else setB s R.TH_STATUS R.TH_STATUS_HOTEV true
    let s := addSat (setB s R.TH_STATUS R.TH_STATUS_HOT true) R.TH_STATUS R.TH_STATUS_THROT 1
    applyPmax { s with pwr := { s.pwr with thCut := cutMore s s.pwr.thCut, thOk := none } }
  else if v < 95 then
    match s.pwr.thOk with
    | none => { s with pwr := { s.pwr with thOk := some (now s) } }
    | some t => if now s < t + 10000000 then s else
      let cut := cutLess s.pwr.thCut
      applyPmax (setB { s with pwr := { s.pwr with thCut := cut } } R.TH_STATUS R.TH_STATUS_HOT (!cut.isEmpty))
  else { s with pwr := { s.pwr with thOk := none } })

/-! ### The power ladder (R472-R475, R231, R382) -/

/-- A refusal of a power request: RCODE and PC_EVENT.REFEV (R474). -/
def refusePower (s : State) (d code : Nat) : State :=
  let s1 := setF s (R.PC_DOM d) R.PC_DOM_RCODE code
  powerEvent s1 R.PC_EVENT_REFEV

/-- The states that a domain takes by request (R473). -/
def takesState (d v : Nat) : Bool :=
  if d < 144 then decide (v ≤ 5) else if d < 160 then v == 0 || v == 4 || v == 5 else false

/-- The logical blocks that physical block p holds: its own, and the one folded onto it. -/
def heldBy (s : State) (p : Nat) : List Nat := (List.range 128).filter fun b => holder s b == some p

/-- The positions whose memories physical block p keeps (R387). -/
def memsOf (s : State) (p : Nat) : List Nat := (List.range 128).filter fun b => memPhys s b == some p

/-- The positions that stand in domain d with their logic or their memories. -/
def domBlocks (s : State) (d : Nat) : List Nat :=
  if d < 144 then (List.range 128).filter fun b => holder s b == some d || memPhys s b == some d else []

/-- The region of a block or gateway domain. -/
def domRegion (d : Nat) : Nat := if d < 144 then d / 9 else d - 144

/-- A gateway enters a state only while every block of its region is in that state or deeper (R473). -/
def gatewayMay (s : State) (d v : Nat) : Bool :=
  d < 144 || (List.range 9).all fun j => decide (v ≤ domCur s (9 * (d - 144) + j))

/-- Why a request of domain d for state v is refused, named being the domains that the request names (R474); 0 when it is
not. -/
def powerRefusal (s : State) (d v : Nat) (named : List Nat) : Nat :=
  let bs := domBlocks s d
  if !takesState d v then 4
  else if d < 160 && underLoad s (domRegion d) then 5
  else if decide (v ≠ 0) && !gatewayMay s d v then 4
  else if bs.any (fun b => decide (1 < v) && (match partOf s b with
      | some n => lockstep s n && !((blocksOf s n).all fun c => match holder s c with
          | some p => named.contains p | none => true)
      | none => false)) then 4
  else if bs.any (fun b => decide (1 < v) && (seqOf s b).inProg && !halted s b) then 3
  else if v == 5 && bs.any (fun b => rgB s (R.ARR_SUSP b) R.ARR_SUSP_VALID) then 2
  else 0

/-- Domain d begins to change to state v: states L4 and L5 wait for the Sluice handshake, and L5 of an assigned partition
first waits for the next boundary (R382). -/
def beginState (s : State) (d v : Nat) : State :=
  let s := setB { s with pwr := { s.pwr with goal := mapPut d (BitVec.ofNat 3 v) s.pwr.goal } } (R.PC_DOM d) R.PC_DOM_BUSY true
  if v < 4 then s else
  match sluiceOf d with
  | none => s
  | some (g, j) =>
    match partOfRegion s g with
    | some n => if v = 5 then updEpoch s n fun e => { e with off := setAdd d e.off }
                else if sluiceSt s g j = 0 then setSluice s g j 1 else s
    | none => if sluiceSt s g j = 0 then setSluice s g j 1 else s

/-- FENCE commands in mode POWER complete once every block they name is in the state (R420). -/
def fenceDone (s : State) (w : Nat × Nat × BitVec 512) : Bool :=
  let c := w.2.2
  (List.range 128).all fun b => !(cmdVal c 16 16).testBit b || blockCur s b == cmdByte c 6

/-- Those that are complete, or whose block was refused, complete. -/
def endPowerFences (s : State) (refused : Option Nat) : State :=
  let (done, rest) := s.host.powers.partition fun w => fenceDone s w ||
    match refused with | some b => (cmdVal w.2.2 16 16).testBit b | none => false
  let s' := { s with host := { s.host with powers := rest } }
  done.foldl (fun t w =>
    if fenceDone s w then complete t w.1 w.2.1 w.2.2 0 0 0
    else complete t w.1 w.2.1 w.2.2 0x0F (refused.getD 0) 0) s'

/-- A request for state v waits for domain d's change, with the domains it names (R475). -/
def waitDom (s : State) (d v : Nat) (named : List Nat) : State :=
  { s with pwr := { s.pwr with waiting := mapPut d (BitVec.ofNat 3 v) s.pwr.waiting, waitNamed := mapPut d named s.pwr.waitNamed } }

/-- No change of domain d is under way or waits. -/
def stopDom (s : State) (d : Nat) : State :=
  setB { s with pwr := { s.pwr with goal := mapErase d s.pwr.goal, waiting := mapErase d s.pwr.waiting
                                    waitNamed := mapErase d s.pwr.waitNamed } } (R.PC_DOM d) R.PC_DOM_BUSY false

/-- Domain d begins to leave its state for L0: one that is off is waking (R368). -/
def riseDom (s : State) (d : Nat) : State :=
  if domCur s d = 0 then s else
  let s := setB { s with pwr := { s.pwr with goal := mapPut d 0 s.pwr.goal } } (R.PC_DOM d) R.PC_DOM_BUSY true
  let s := setF s (R.PC_DOM d) R.PC_DOM_REQ 0
  match sluiceOf d with
  | some (g, j) => if sluiceSt s g j = 4 then setSluice s g j 5 else s
  | none => s

/-- A wake of domain d to L0: an entry that has a Sluice handshake is aborted, with RCODE WAKE (R368, R474); any other change
under way ends first (R475). -/
def wakeDom (s : State) (d : Nat) : State :=
  if !mapHas d s.pwr.goal then riseDom s d else
  let v := (mapGet 0 d s.pwr.goal).toNat
  if v = 0 then s
  else if v < 4 || decide (v < domCur s d) then waitDom s d 0 [d]
  else
    let s := refusePower (stopDom s d) d 1
    let s := endPowerFences s (domBlocks s d).head?
    let s := setF s (R.PC_DOM d) R.PC_DOM_REQ (domCur s d)
    let s := match sluiceOf d with
      | some (g, j) =>
        let s := match partOfRegion s g with | some n => updEpoch s n fun e => { e with off := e.off.filter (· != d) } | none => s
        if 1 ≤ sluiceSt s g j ∧ sluiceSt s g j ≤ 3 then raiseFences (liftFence s g j) else s
      | none => s
    riseDom s d

/-- The partitions whose blocks, memories or gateway power domain d holds. -/
def domParts (s : State) (d : Nat) : List Nat :=
  if d < 144 then ((domBlocks s d).filterMap (partOf s)).eraseDups
  else if d < 160 then (partOfRegion s (d - 144)).toList else []

/-- A power request that an agent outside the partition has made in the open epoch: a rollback carries it out again
(R378). -/
def notePower (s : State) (d v : Nat) (named : List Nat) : State :=
  (domParts s d).foldl (fun s n => updEpoch s n fun e => { e with preq := e.preq ++ [(d, BitVec.ofNat 3 v, named)] }) s

/-- A power request of domain d for state v, with the domains the request names (R474, R475). DESIGN CHOICE (log entry 55): an
entry that a wake finds under way without a Sluice handshake completes first. -/
def powerOp (s : State) (d v : Nat) (named : List Nat) : State :=
  if d = 168 ∨ d = 174 ∨ 175 ≤ d then s else
  let code := powerRefusal s d v named
  if code = 2 then
    let s := notePower (refusePower s d 2) d v named
    if rgB s (R.PC_DOM d) R.PC_DOM_BUSY then waitDom (setF s (R.PC_DOM d) R.PC_DOM_REQ 4) d 4 named
    else if domCur s d < 4 then beginState (setF s (R.PC_DOM d) R.PC_DOM_REQ 4) d 4 else s
  else if code ≠ 0 then refusePower s d code
  else
    let s := notePower (setF s (R.PC_DOM d) R.PC_DOM_REQ v) d v named
    if rgB s (R.PC_DOM d) R.PC_DOM_BUSY then waitDom s d v named
    else if v = domCur s d then s
    else if v < domCur s d then
      (match sluiceOf d with
        | some (g, j) => if sluiceSt s g j = 4 then setSluice (beginState s d v) g j 5 else beginState s d v
        | none => beginState s d v)
    else beginState s d v

/-- POWER_REQUEST (R474): a request for one domain through PC_DOM.REQ. -/
def execPowerRequest (d : Fin 176) (target : BitVec 3) (s : State) : Host.Outcome State Fault Refusal :=
  .next (powerOp s d.val target.toNat [d.val])

/-- The domain's change is complete; a request or a wake that waited is carried out (R475). -/
def settleDom (s : State) (d : Nat) : State :=
  let t := stopDom s d
  if mapHas d s.pwr.waiting then
    let v := (mapGet 0 d s.pwr.waiting).toNat
    if v = 0 then riseDom t d else powerOp t d v (mapGet [] d s.pwr.waitNamed)
  else t

/-- The domain that key k of the committed power states names: a position's block, a region's gateway, or the memories of a
folded position. -/
def pwrDom (s : State) (k : Nat) : Option Nat :=
  if k < 128 then holder s k else if k < 256 then some (k + 16) else memPhys s (k - 256)

/-- Domain d of region g has entered state v of L5, or of L4 by R231: a rollback leaves it there (R382). -/
def noteOff (s : State) (g d v : Nat) : State :=
  match partOfRegion s g with
  | some n => updEpoch s n fun e => { e with com := e.com.map fun c =>
      { c with pwr := c.pwr.map fun x => if pwrDom s x.1 = some d then (x.1, BitVec.ofNat 3 v) else x } }
  | none => s

/-- An L5 request of domain d waits for the boundary of its partition (R382). -/
def waitsBoundary (s : State) (d : Nat) : Bool := (domParts s d).any fun n => (epochOf s n).off.contains d

/-- DOMAIN_ENTRY_COMPLETE (R472): domain d has reached the lower state it was entering. L4 and L5 need the drained fence,
or that of the state it leaves, and L5 of an assigned partition its boundary; R231 leaves a block with a suspended
instruction in L4. DESIGN CHOICE (log entry 107): a gateway that one of its blocks no longer allows to enter waits. -/
def execDomainEntryComplete (d : Fin 176) (s : State) : Host.Outcome State Fault Refusal :=
  let d := d.val
  .next (if !mapHas d s.pwr.goal then s else
    let v := (mapGet 0 d s.pwr.goal).toNat
    if v ≤ domCur s d ∨ waitsBoundary s d ∨ !gatewayMay s d v then s else
    match (if 4 ≤ v then sluiceOf d else none) with
    | some (g, j) =>
      if sluiceSt s g j ≠ 3 ∧ sluiceSt s g j ≠ 4 then s else
      let stay := decide (v = 5) && (domBlocks s d).any fun b => rgB s (R.ARR_SUSP b) R.ARR_SUSP_VALID
      let v := if stay then 4 else v
      let s := setF (setSluice s g j 4) (R.PC_DOM d) R.PC_DOM_CUR v
      let s := if stay then refusePower (setF s (R.PC_DOM d) R.PC_DOM_REQ 4) d 2 else s
      let s := if v = 5 || stay then noteOff s g d v else s
      endPowerFences (settleDom s d) (if stay then (domBlocks s d).head? else none)
    | none => endPowerFences (settleDom (setF s (R.PC_DOM d) R.PC_DOM_CUR v) d) none)

/-- The memories of logical block b are cleared, as on a wake from L5 (R327, R328). -/
def clearBlock (s : State) (b : Nat) : State :=
  let s := breakResv s (bwin b) 0x200000
  { s with
    cells := mapDrop (fun k => k / 16384 == b) s.cells
    mem := mapDrop (fun k => decide (bwin b ≤ 2 * k) && decide (2 * k < 0x200000 + bwin b)) s.mem
    flaws := mapDrop (fun w => decide (bwin b ≤ 16 * w) && decide (16 * w < 0x200000 + bwin b)) s.flaws }

/-- What a wake from L5 leaves of logical block b's logic: the control store filled from its verified copies, the sequencer at
its reset state (R57, R235, R276). -/
def wakeCleared (s : State) (b : Nat) : State :=
  let s := csFill s b
  let t := (seqOf s b).twinCol
  let s := setSeq s b { twinCol := t }
  resetRegs (fun a => decide (bwin b ≤ a) && decide (a < 0x1000000 + bwin b) &&
    (let o := a % 0x1000000
     (decide (0x700010 ≤ o) && decide (o < 0x700200)) || (decide (0x710000 ≤ o) && decide (o < 0x710E00))
       || (decide (0x720000 ≤ o) && decide (o < 0x720040)))) s

/-- Physical block p has left L5 (R328, R387): the logic of the positions that it holds and the memories that it keeps are
cleared, or its own while it has no position. -/
def blockWoken (s : State) (p : Nat) : State :=
  let hs := heldBy s p
  let ms := memsOf s p
  if hs.isEmpty && ms.isEmpty then wakeCleared (clearBlock s (idleBlk p)) (idleBlk p)
  else hs.foldl wakeCleared (ms.foldl clearBlock s)

/-- Key bytes of region g that a gateway's wake from L5 finds lost: reset, unless the mirror of an assigned region holds
LOCK and RDO (R327, R335). -/
def gatewayWoken (s : State) (g : Nat) : State :=
  if assigned s g then
    let fr := mapOnly (fun k => k / 262144 == g) s.keys
    let s := fr.foldl (fun s e => setKeyByte s e.1 (e.2.toNat % 32)) s
    { s with dram := { s.dram with reload := s.dram.reload ||| BitVec.ofNat 16 (2 ^ g) } }
  else { s with keys := mapDrop (fun k => k / 262144 == g) s.keys }

/-- The DRAM of regions 2k and 2k + 1 is zeroed after controller k's wake from L5 (R310, R327). -/
def controllerWoken (s : State) (k : Nat) : State :=
  { s with
    mem := mapDrop (fun x => 2 * x / 0x800000000 == 2 * k || 2 * x / 0x800000000 == 2 * k + 1) s.mem
    dram := { s.dram with zeroing := s.dram.zeroing ||| BitVec.twoPow 8 k, fresh := s.dram.fresh ||| BitVec.twoPow 8 k } }

/-- DOMAIN_WAKE_COMPLETE (R472, R368): domain d is in the higher state; what L5 lost is cleared, the fence lifts and held
packets are delivered, and runs that waited for the block start. -/
def execDomainWakeComplete (d : Fin 176) (s : State) : Host.Outcome State Fault Refusal :=
  let d := d.val
  .next (if !mapHas d s.pwr.goal then s else
    let v := (mapGet 0 d s.pwr.goal).toNat
    if domCur s d ≤ v then s else
    let old := domCur s d
    let bs := domBlocks s d
    let s := setF s (R.PC_DOM d) R.PC_DOM_CUR v
    let s := if old = 5 then
        (if d < 144 then blockWoken s d
         else if d < 160 then gatewayWoken s (d - 144)
         else if d < 168 then controllerWoken s (d - 160) else s)
      else s
    let s := match sluiceOf d with
      | some (g, j) => if v < 4 ∧ 4 ≤ sluiceSt s g j then raiseFences (liftFence s g j) else s
      | none => s
    let s := if v = 0 then bs.foldl startWoken s else s
    endPowerFences (settleDom s d) none)

/-- DOMAIN_WAKE (R459, R472, R475): a request, an interrupt delivery, a held packet or the Wellhead wakes domain d. -/
def execDomainWake (d : Fin 176) (s : State) : Host.Outcome State Fault Refusal :=
  .next (if d.val = 168 ∨ d.val = 174 ∨ d.val = 175 then s else wakeDom s d.val)

/-- DMA channel ch of block b has nothing to do (R340, R341). -/
def dmaIdle (s : State) (b : Nat) (ch : Bool) : Bool := (dmaRun s b ch).isNone && !dmaReady s b ch

/-- Whether block domain p may fall into L1 by itself (R472): its sequencers rest, no channel works, and no mesh request is at
its memories' port B. -/
def hushes (s : State) (p : Nat) : Bool :=
  rgB s (R.PC_DOM p) R.PC_DOM_AUTOHUSH && domCur s p == 0 && !mapHas p s.pwr.goal
    && ((domBlocks s p).all fun b =>
      (halted s b || (seqOf s b).waiting || heldRegion s (b / 8)) && dmaIdle s b false && dmaIdle s b true)
    && s.mesh.flight.all fun q => q.dead || q.done || q.held.isSome || !boundFor s (p / 9) (p % 9) q

/-- AUTO_HUSH (R472). -/
def execAutoHush (p : Fin 144) (s : State) : Host.Outcome State Fault Refusal :=
  .next (if hushes s p.val then setF s (R.PC_DOM p.val) R.PC_DOM_CUR 1 else s)

/-- The blocks of block b's program leave the states in which the delivery of an interrupt finds them: L1 ends at once, L2 and
L3 by a wake (R472). -/
def deliverWake (s : State) (b : Nat) : State :=
  (gang s b).foldl (fun s c => match holder s c with
    | some p => if domCur s p = 1 then endHush s c else if domCur s p = 2 ∨ domCur s p = 3 then wakeDom s p else s
    | none => s) s

/-! ### Wellhead (R459) -/

/-- KIND and INDEX of a slot that watches an event. -/
def wakeKey (e : WakeEvent) : Nat × Nat :=
  match e with
  | .doorbell f => (0, f.val)
  | .rein p => (1, p.toNat)
  | .pwrWarn => (2, 0)
  | .timer t => (3, t.toNat)
  | .awl => (4, 0)
  | .gpio pin rising => (5, pin.toNat + 16 * b2n rising)

/-- The domains that slot k names (R459). -/
def slotDomains (s : State) (k : Nat) : List Nat :=
  let a := R.WH_SLOT k
  let gs := (List.range 16).filter (rgF s a R.WH_SLOT_REGMASK).testBit
  gs.map (· + 144)
    ++ (if rgB s a R.WH_SLOT_BLK then gs.flatMap fun g => (List.range 9).map (· + 9 * g) else [])
    ++ (if rgB s a R.WH_SLOT_MEM then (gs.map fun g => 160 + g / 2).eraseDups else [])
    ++ (if rgB s a R.WH_SLOT_SBAG then [173] else [])
    ++ (if rgF s a R.WH_SLOT_KIND = 1 then [169 + rgF s a R.WH_SLOT_INDEX % 4] else [])

/-- An event of the Wellhead: every slot that watches it fires and wakes its domains. -/
def wellhead (s : State) (e : WakeEvent) : State :=
  (List.range 32).foldl (fun s k =>
    let a := R.WH_SLOT k
    if rgB s a R.WH_SLOT_EN && (rgF s a R.WH_SLOT_KIND, rgF s a R.WH_SLOT_INDEX) == wakeKey e then
      (slotDomains s k).foldl wakeDom (setF s R.WH_EVENT ⟨k, k⟩ 1)
    else s) s

/-! ### The power states that a rollback leaves (R378, R382) -/

/-- Domain d returns to state v, in which the boundary held it; an entry to L5 that this boundary has released goes on. -/
def returnDom (s : State) (d v : Nat) : State :=
  if mapHas d s.pwr.goal && (mapGet 0 d s.pwr.goal).toNat == 5 && !waitsBoundary s d then s else
  let s := setDom (stopDom s d) d v
  match sluiceOf d with
  | some (g, j) =>
    if 4 ≤ v then setSluice s g j 4 else if sluiceSt s g j ≠ 0 then liftFence s g j else s
  | none => s

/-- The end of a rollback of partition n: its domains are in the states that the boundary held, it resumes, and the power
requests that outside agents had made since are carried out again (R378, R384). -/
def resumePart (s : State) (n : Nat) : State :=
  let e := epochOf s n
  if !e.rolling || !e.wait.isEmpty then s else
  let s := match e.com with
    | some c => c.pwr.foldl (fun s x => match pwrDom s x.1 with | some d => returnDom s d x.2.toNat | none => s) s
    | none => s
  let s := resumeRollback (updEpoch s n fun e => { e with preq := [], off := [] }) n
  e.preq.foldl (fun s r => powerOp s r.1 r.2.1.toNat r.2.2) s

/-- ROLLBACK_RESUME (R384). -/
def execRollbackResume (n : Part) (s : State) : Host.Outcome State Fault Refusal := .next (resumePart s n.toNat)

/-! ### Supply sag (R478, R479) -/

/-- The inhibit bit of a condition, and its event bit. -/
def sagBit (c : SagCond) : Fld × Fld :=
  match c with
  | .cart => (R.PC_EVENT_CARTLOW, R.PC_EVENT_CARTEV)
  | .io => (R.PC_EVENT_IOLOW, R.PC_EVENT_IOEV)
  | .core => (R.PC_EVENT_CORELOW, R.PC_EVENT_COREEV)
  | .warn => (R.PC_EVENT_WARN, R.PC_EVENT_WARNEV)

/-- Whether Saddlebag writes, boot-flash writes and fuse programming are inhibited. -/
def cartInhibit (s : State) : Bool :=
  rgB s R.PC_EVENT R.PC_EVENT_CARTLOW || rgB s R.PC_EVENT R.PC_EVENT_CORELOW || rgB s R.PC_EVENT R.PC_EVENT_WARN
def flashInhibit (s : State) : Bool :=
  rgB s R.PC_EVENT R.PC_EVENT_IOLOW || rgB s R.PC_EVENT R.PC_EVENT_CORELOW || rgB s R.PC_EVENT R.PC_EVENT_WARN
def fuseInhibit (s : State) : Bool := rgB s R.PC_EVENT R.PC_EVENT_CORELOW

/-- Whether a mailbox command burns fuses, and whether it writes the flash (R491). -/
def burnsFuses (cmd : Nat) : Bool := decide (1 ≤ cmd) && decide (cmd ≤ 4)
def writesFlash (cmd : Nat) : Bool := cmd == 1 || cmd == 2 || cmd == 5 || cmd == 6

/-- Whether an inhibit in force stops a mailbox command (R493). -/
def mbxInhibited (s : State) (cmd : Nat) : Bool :=
  (burnsFuses cmd && fuseInhibit s) || (writesFlash cmd && flashInhibit s)

/-- An inhibit ends the writes in progress: the mailbox command (R493) and a save to the cartridge (R505). -/
def cutWrites (s : State) : State :=
  let m := s.sec.mbx.map fun m => if m.status = 0 && mbxInhibited s m.cmd.toNat then { m with cut := true } else m
  let o := s.sb.op.map fun o => if !o.restore && o.status == 0 && cartInhibit s then { o with status := 4 } else o
  { s with sec := { s.sec with mbx := m }, sb := { s.sb with op := o } }

/-- SUPPLY_SAG (R478): an inhibit is entered; PWR_WARN# is an event of the Wellhead too (R459). -/
def execSupplySag (c : SagCond) (s : State) : Host.Outcome State Fault Refusal :=
  let s1 := setB s R.PC_EVENT (sagBit c).1 true
  let s2 := cutWrites (powerEvent s1 (sagBit c).2)
  .next (if c = .warn then wellhead s2 .pwrWarn else s2)

/-- Codes of SB_STATUS.STATE (R497). -/
def sbTrusted : Nat := 3
def sbUntrusted : Nat := 4
def sbForeign : Nat := 5
def sbWorn : Nat := 6
def sbExhausted : Nat := 7
def sbFailed : Nat := 8

/-- SB_STATUS.STATE. -/
def sbState (s : State) : Nat := rgF s R.SB_STATUS R.SB_STATUS_STATE

/-- The cartridge replaced. -/
def setCart (s : State) (c : Option Cart) : State := { s with sb := { s.sb with cart := c } }

/-- A blank cartridge that the challenge has accepted is bound to this device, once its header may be written (R478, R498). -/
def bindCart (s : State) : State :=
  match s.sb.cart with
  | some c =>
    if c.id.blank && [sbTrusted, sbWorn, sbExhausted].contains (sbState s) && !cartInhibit s then
      setCart s (some { c with id := { c.id with bind := idevidHash s, blank := false } }) else s
  | none => s

/-- INHIBIT_RELEASE (R478). -/
def execInhibitRelease (c : SagCond) (s : State) : Host.Outcome State Fault Refusal :=
  .next (bindCart (setB s R.PC_EVENT (sagBit c).1 false))

end Sys2Proof.Machine
end

