-- ==== Sys2Proof/Machine/Control.lean ====
section
/-! DEFINITION. Local loads and stores, reservations, mesh access, control transfer, loops, repetition, traps, control
registers, and the entries that a boundary takes: opcodes 0x30 to 0x51 (R236-R274). -/

namespace Sys2Proof.Machine

/-! ### Loads and stores (R246-R251) -/

/-- A value of n digits extended to 64 bits. -/
def extend (n v : Nat) (signed : Bool) : Nat := if signed then wrap 64 (sgn (4 * n) v) else v

/-- The address register of a MEM operand after the access. -/
def putAfter (s : State) (b : Nat) (m : MemOp) : State :=
  match m.after with | some a => wr s b (48 + m.areg) a | none => s

/-- The register fields of a MEM word: R, the address register and, under POST and PRE, its modifier. -/
def memFields (w : Nat) : List Nat :=
  [fD w, 48 + bits w 17 15] ++ if bits w 14 13 = 0 then [] else [56 + bits w 17 15]

/-- A load still in its two slots: it issues itself before they are counted (R249). -/
def pushLoad (s : State) (b r v : Nat) : State :=
  updSeq s b fun q => { q with loads := q.loads ++ [{ reg := regId s b r, val := BitVec.ofNat 64 v, slots := 3 }] }

/-- LD and LDS (R246, R247). -/
def loadOp (s : State) (b w : Nat) (signed : Bool) : State × Flow :=
  let m := memOp s b w
  if !m.ok || (m.after.isSome && fD w == 48 + m.areg) then illegal s w
  else if !localOk m.ea m.n then (s, .trap 4 (wrap 64 m.ea))
  else reading s b (localAddr b m.ea) m.n fun s =>
    (pushLoad (putAfter s b m) b (fD w) (extend m.n (loadLocal s b m.ea m.n) signed), .next)

/-- ST (R246, R247). -/
def storeOp (s : State) (b w : Nat) : State × Flow :=
  let m := memOp s b w
  if !m.ok then illegal s w
  else if !localOk m.ea m.n then (s, .trap 4 (wrap 64 m.ea))
  else merging s b (localAddr b m.ea) m.n fun s => (putAfter (storeLocal s b m.ea m.n (rd s b (fD w))) b m, .next)

/-- LD (R246). -/
def execLd (b : Blk) (w : BitVec 24) (s : State) : Host.Outcome State Fault Refusal :=
  .next (issue s b.toNat (wordOf 0x30 w) (memFields (wordOf 0x30 w)) false fun s => loadOp s b.toNat (wordOf 0x30 w) false)

/-- LDS (R247). -/
def execLds (b : Blk) (w : BitVec 24) (s : State) : Host.Outcome State Fault Refusal :=
  .next (issue s b.toNat (wordOf 0x31 w) (memFields (wordOf 0x31 w)) false fun s => loadOp s b.toNat (wordOf 0x31 w) true)

/-- ST (R247). -/
def execSt (b : Blk) (w : BitVec 24) (s : State) : Host.Outcome State Fault Refusal :=
  .next (issue s b.toNat (wordOf 0x32 w) (memFields (wordOf 0x32 w)) false fun s => storeOp s b.toNat (wordOf 0x32 w))

/-! ### Reservations (R265, R266) -/

/-- Digits of a line at local offset ea: 32 in the scratchpad, 256 in the turn memory (R248). -/
def lineLen (ea : Nat) : Nat := if ea < 0x100000 then 32 else 256

/-- Whether U names an address register and the reserved bits of FN are 0. -/
def resvForm (w : Nat) : Bool := decide (48 ≤ fU w) && decide (fU w < 56) && decide (fFN w < 16)

/-- LDR: a load that reserves the line of its address. -/
def ldrOp (s : State) (b w : Nat) : State × Flow :=
  let ea := rd s b (fU w)
  let n := fFN w + 1
  if !resvForm w || fS w != 0 then illegal s w
  else if !localOk ea n then (s, .trap 4 ea)
  else
    reading s b (localAddr b ea) n fun s =>
    let k := lineLen ea
    let s1 := pushLoad s b (fD w) (loadLocal s b ea n)
    let s2 := updSeq s1 b fun q => { q with resv := some (localAddr b (ea - ea % k : Nat), k) }
    (setB s2 (R.PSR b) R.PSR_RESV_VALID true, .next)

/-- Whether the reservation of block b covers n digits at local offset ea. -/
def resvCovers (s : State) (b ea n : Nat) : Bool :=
  match (seqOf s b).resv with
  | some r => decide (r.1 ≤ localAddr b ea) && decide (localAddr b ea + n ≤ r.1 + r.2)
  | none => false

/-- STC: a store under the reservation; D says whether it stored. -/
def stcOp (s : State) (b w : Nat) : State × Flow :=
  let ea := rd s b (fU w)
  let n := fFN w + 1
  if !resvForm w then illegal s w
  else if !localOk ea n then (s, .trap 4 ea)
  else
    let ok := resvCovers s b ea n
    merging s b (localAddr b ea) (if ok then n else 0) fun s =>
    let s1 := if ok then storeLocal s b ea n (rd s b (fS w)) else s
    (wr (clearResv s1 b) b (fD w) (b2n ok), .next)

/-- LDR (R265). -/
def execLdr (b : Blk) (w : BitVec 24) (s : State) : Host.Outcome State Fault Refusal :=
  .next (issue s b.toNat (wordOf 0x33 w) [fD (wordOf 0x33 w), fU (wordOf 0x33 w)] false fun s => ldrOp s b.toNat (wordOf 0x33 w))

/-- STC (R265). -/
def execStc (b : Blk) (w : BitVec 24) (s : State) : Host.Outcome State Fault Refusal :=
  .next (issue s b.toNat (wordOf 0x34 w) [fD (wordOf 0x34 w), fS (wordOf 0x34 w), fU (wordOf 0x34 w)] false fun s =>
    stcOp s b.toNat (wordOf 0x34 w))

/-! ### Mesh access (R267, R268) -/

/-- Whether n digits at address a are placed as LDX and STX require. -/
def meshAligned (a n : Nat) : Bool :=
  if n = 1 ∨ n = 2 ∨ n = 4 ∨ n = 8 ∨ n = 16 then a % n == 0 else decide (a % 16 + n ≤ 16)

/-- The requests of block b's sequencer that are outstanding. -/
def outst (s : State) (b : Nat) : Nat := rgF s (R.MKEY b) R.MKEY_OUTST

/-- A mesh request of block b's sequencer leaves with the key of MKEY. -/
def seqReq (s : State) (b : Nat) (wr : Bool) (a n : Nat) (data : List Nat) : State :=
  showOutst (sendReq s (.seq (BitVec.ofNat 7 b)) wr a n (rgF s (R.MKEY b) R.MKEY_KEY) false data) b

/-- LDX: the destination is pending until the response arrives. -/
def ldxOp (s : State) (b w : Nat) : State × Flow :=
  let a := rd s b (fS w)
  let n := fFN w % 16 + 1
  if fU w ≠ 0 ∨ 32 ≤ fFN w then illegal s w
  else if 2 ^ 48 ≤ a ∨ !meshAligned a n then (s, .trap 4 a)
  else if 8 ≤ outst s b then (s, .stay)
  else
    let p : LdxPend := { id := s.mesh.nextId, reg := regId s b (fD w), n := n, sext := decide (16 ≤ fFN w) }
    (updSeq (seqReq s b false a n []) b fun q => { q with ldx := q.ldx ++ [p] }, .next)

/-- STX. -/
def stxOp (s : State) (b w : Nat) : State × Flow :=
  let a := rd s b (fS w)
  let n := fFN w % 16 + 1
  if fD w ≠ 0 ∨ 16 ≤ fFN w then illegal s w
  else if 2 ^ 48 ≤ a ∨ !meshAligned a n then (s, .trap 4 a)
  else if 8 ≤ outst s b then (s, .stay)
  else (seqReq s b true a n (digitsOf n (rd s b (fU w))), .next)

/-- LDX (R267). -/
def execLdx (b : Blk) (w : BitVec 24) (s : State) : Host.Outcome State Fault Refusal :=
  .next (issue s b.toNat (wordOf 0x35 w) [fD (wordOf 0x35 w), fS (wordOf 0x35 w)] false fun s => ldxOp s b.toNat (wordOf 0x35 w))

/-- STX (R267). -/
def execStx (b : Blk) (w : BitVec 24) (s : State) : Host.Outcome State Fault Refusal :=
  .next (issue s b.toNat (wordOf 0x36 w) [fS (wordOf 0x36 w), fU (wordOf 0x36 w)] false fun s => stxOp s b.toNat (wordOf 0x36 w))

/-- FENCE (R267): it waits until no request is outstanding. -/
def execFence (b : Blk) (w : BitVec 24) (s : State) : Host.Outcome State Fault Refusal :=
  .next (issue s b.toNat (wordOf 0x4E w) [] false fun s =>
    if w ≠ 0 then illegal s (wordOf 0x4E w) else (s, if outst s b.toNat = 0 then .next else .stay))

/-! ### Control transfer (R236, R240, R253-R255, R272) -/

/-- The target of a BR word: PC + 8 × DISP18. -/
def brTarget (s : State) (b w : Nat) : Int := pcOf s b + 8 * sgn 18 (bits w 17 0)

/-- BZ (R240). -/
def execBz (b : Blk) (w : BitVec 24) (s : State) : Host.Outcome State Fault Refusal :=
  .next (issue s b.toNat (wordOf 0x40 w) [fD (wordOf 0x40 w)] true fun s =>
    (s, if rd s b.toNat (fD (wordOf 0x40 w)) = 0 then .jump (brTarget s b.toNat (wordOf 0x40 w)) else .next))

/-- BNZ (R240). -/
def execBnz (b : Blk) (w : BitVec 24) (s : State) : Host.Outcome State Fault Refusal :=
  .next (issue s b.toNat (wordOf 0x41 w) [fD (wordOf 0x41 w)] true fun s =>
    (s, if rd s b.toNat (fD (wordOf 0x41 w)) ≠ 0 then .jump (brTarget s b.toNat (wordOf 0x41 w)) else .next))

/-- J (R236): PC + 8 × DISP24. -/
def execJ (b : Blk) (w : BitVec 24) (s : State) : Host.Outcome State Fault Refusal :=
  .next (issue s b.toNat (wordOf 0x42 w) [] true fun s => (s, .jump (pcOf s b.toNat + 8 * sgn 24 w.toNat)))

/-- JR (R240): the address in S. -/
def execJr (b : Blk) (w : BitVec 24) (s : State) : Host.Outcome State Fault Refusal :=
  .next (issue s b.toNat (wordOf 0x43 w) [fS (wordOf 0x43 w)] true fun s =>
    if fD (wordOf 0x43 w) ≠ 0 ∨ fU (wordOf 0x43 w) ≠ 0 ∨ fFN (wordOf 0x43 w) ≠ 0 then illegal s (wordOf 0x43 w)
    else (s, .jump (rd s b.toNat (fS (wordOf 0x43 w)) : Nat)))

/-- CALL (R253). -/
def execCall (b : Blk) (w : BitVec 24) (s : State) : Host.Outcome State Fault Refusal :=
  .next (issue s b.toNat (wordOf 0x44 w) [bits (wordOf 0x44 w) 7 2] true fun s => callOp s b.toNat (wordOf 0x44 w))

/-- RET (R254). -/
def execRet (b : Blk) (w : BitVec 24) (s : State) : Host.Outcome State Fault Refusal :=
  .next (issue s b.toNat (wordOf 0x45 w) [] true fun s => retOp s b.toNat (wordOf 0x45 w))

/-- RETI (R272). -/
def execReti (b : Blk) (w : BitVec 24) (s : State) : Host.Outcome State Fault Refusal :=
  .next (issue s b.toNat (wordOf 0x46 w) [] true fun s => retiOp s b.toNat (wordOf 0x46 w))

/-! ### Loops and repetition (R256-R259) -/

/-- A loop of len instructions opened with a count. -/
def openLoop (s : State) (b w count len : Nat) : State × Flow :=
  let ls := pcOf s b + 8
  let le := pcOf s b + 8 * len
  let outside := match (examined s b).head? with
    | some n => decide (ls < rg s (R.LS b n)) || decide (rg s (R.LE b n) < le)
    | none => false
  match (List.range 4).find? fun n => !loopAct s b n with
  | none => (s, .trap 7 w)
  | some n =>
    if outside || decide (0x7FFF8 < le) then (s, .trap 7 w)
    else if count = 0 then (if pcOk (le + 8 : Nat) then (s, .goto (le + 8)) else (s, .trap 5 (le + 8)))
    else
      let s := setRg (setRg (setRg s (R.LS b n) ls) (R.LE b n) le) (R.LC b n) count
      (setF (setF s (R.LSTAT b) (tagFld n) (rgF s (R.PSR b) R.PSR_DEPTH)) (R.LSTAT b) ⟨n, n⟩ 1, .next)

/-- LOOP (R256): the count from a register. -/
def execLoop (b : Blk) (w : BitVec 24) (s : State) : Host.Outcome State Fault Refusal :=
  .next (issue s b.toNat (wordOf 0x47 w) [fD (wordOf 0x47 w)] true fun s =>
    if bits (wordOf 0x47 w) 17 16 ≠ 0 ∨ imm16 (wordOf 0x47 w) = 0 then illegal s (wordOf 0x47 w)
    else openLoop s b.toNat (wordOf 0x47 w) (rd s b.toNat (fD (wordOf 0x47 w)) % 2 ^ 32) (imm16 (wordOf 0x47 w)))

/-- LOOPI (R256): the count in the word. -/
def execLoopi (b : Blk) (w : BitVec 24) (s : State) : Host.Outcome State Fault Refusal :=
  .next (issue s b.toNat (wordOf 0x48 w) [] true fun s =>
    if bits (wordOf 0x48 w) 11 0 = 0 then illegal s (wordOf 0x48 w)
    else openLoop s b.toNat (wordOf 0x48 w) (bits (wordOf 0x48 w) 23 12) (bits (wordOf 0x48 w) 11 0))

/-- A repetition of the next instruction; one that stands at the end of a loop traps (R259). -/
def openRep (s : State) (b w count : Nat) : State × Flow :=
  if (examined s b).any fun n => rg s (R.LE b n) == pcOf s b then (s, .trap 6 w)
  else if count = 0 then (setF s (R.REPC b) R.REPC_COUNT 0, .skip)
  else (setF s (R.REPC b) R.REPC_COUNT count, .rep)

/-- REP (R259). -/
def execRep (b : Blk) (w : BitVec 24) (s : State) : Host.Outcome State Fault Refusal :=
  .next (issue s b.toNat (wordOf 0x49 w) [] true fun s =>
    if bits (wordOf 0x49 w) 11 0 ≠ 0 ∨ bits (wordOf 0x49 w) 23 12 = 0 then (s, .trap 3 (wordOf 0x49 w))
    else openRep s b.toNat (wordOf 0x49 w) (bits (wordOf 0x49 w) 23 12))

/-- REPR (R259). -/
def execRepr (b : Blk) (w : BitVec 24) (s : State) : Host.Outcome State Fault Refusal :=
  .next (issue s b.toNat (wordOf 0x4A w) [fS (wordOf 0x4A w)] true fun s =>
    if fD (wordOf 0x4A w) ≠ 0 ∨ fU (wordOf 0x4A w) ≠ 0 ∨ fFN (wordOf 0x4A w) ≠ 0 then illegal s (wordOf 0x4A w)
    else openRep s b.toNat (wordOf 0x4A w) (rd s b.toNat (fS (wordOf 0x4A w)) % 4096))

/-! ### Traps, breakpoint, WAIT (R239, R269, R273) -/

/-- TRAP (R269). -/
def execTrap (b : Blk) (w : BitVec 24) (s : State) : Host.Outcome State Fault Refusal :=
  .next (issue s b.toNat (wordOf 0x4B w) [] true fun s =>
    if bits (wordOf 0x4B w) 23 16 ≠ 0 then illegal s (wordOf 0x4B w)
    else if entryWaits s b.toNat then (s, .stay) else (s, .trapAfter 0x0E (imm16 (wordOf 0x4B w))))

/-- BKPT (R269, R507): it halts the sequencer when BKPTEN = 1. -/
def execBkpt (b : Blk) (w : BitVec 24) (s : State) : Host.Outcome State Fault Refusal :=
  .next (issue s b.toNat (wordOf 0x4C w) [] true fun s =>
    if bits (wordOf 0x4C w) 23 16 ≠ 0 then illegal s (wordOf 0x4C w)
    else if rgB s (R.DBG_CTRL b.toNat) R.DBG_CTRL_BKPTEN then (s, .haltAfter 2) else (s, .trap 0x0F (imm16 (wordOf 0x4C w))))

/-- WAIT (R273). -/
def execWait (b : Blk) (w : BitVec 24) (s : State) : Host.Outcome State Fault Refusal :=
  .next (issue s b.toNat (wordOf 0x4D w) [] true fun s =>
    if w ≠ 0 then illegal s (wordOf 0x4D w)
    else if irqPending s b.toNat || !(fwdFor s b.toNat).isEmpty then (s, .next) else (updSeq s b.toNat fun q => { q with waiting := true }, .park))

/-- A delivery that is due finds block b's program below L0: its blocks leave L1 at once, L2 and L3 by a wake (R472). -/
def wokenFor (s : State) (b : Nat) (due : Bool) : State :=
  if due && runnable s b && !executing s b then deliverWake s b else s

/-- A source for which block b's WAIT waits is pending (R273, R434). -/
def waitDue (s : State) (b : Nat) : Bool := (seqOf s b).waiting && (irqPending s b || !(fwdFor s b).isEmpty)

/-- WAIT of block b completes when its source is pending. -/
def waitOp (s : State) (b : Nat) : State :=
  let q := seqOf s b
  if waitDue s b && executing s b && !q.epochReq && !q.epochStop then
    endStep (takeExit (retire (updSeq s b fun q => { q with waiting := false }) b) b) b else s

/-- WAIT_COMPLETE (R273, R472): an unmasked BIC source of the program's blocks, or of a member's that is forwarded to it, is
pending. -/
def execWaitComplete (b : Blk) (s : State) : Host.Outcome State Fault Refusal :=
  .next (waitOp (wokenFor s b.toNat (waitDue s b.toNat)) b.toNat)

/-- Whether the instruction tables assign a primary opcode (R239, R240, R122, R160, R207). -/
def assignedOp (op : Nat) : Bool :=
  (decide (1 ≤ op) && decide (op ≤ 0x14)) || (decide (0x20 ≤ op) && decide (op ≤ 0x2A)) || (decide (0x30 ≤ op) && decide (op ≤ 0x36))
    || (decide (0x40 ≤ op) && decide (op ≤ 0x4E)) || op == 0x50 || op == 0x51 || (decide (0x60 ≤ op) && decide (op ≤ 0x66))
    || (decide (0x70 ≤ op) && decide (op ≤ 0x77)) || (decide (0x80 ≤ op) && decide (op ≤ 0x9A))
    || (decide (0xA0 ≤ op) && decide (op ≤ 0xB9)) || (decide (0xC0 ≤ op) && decide (op ≤ 0xC3))
    || (decide (0xE0 ≤ op) && decide (op ≤ 0xEF))

/-- RESERVED_OPCODE (R239): an opcode that no table assigns traps with EMULATE; an array opcode 0x80 to 0xCF does so by its
dispatch entry, which a patch may have made valid (R281, R293, R298). -/
def execReservedOpcode (b : Blk) (op : BitVec 8) (w : BitVec 24) (s : State) : Host.Outcome State Fault Refusal :=
  .next (if assignedOp op.toNat then s
    else if 0x80 ≤ op.toNat ∧ op.toNat < 0xD0 then
      issueArr s b.toNat (wordOf op.toNat w) (fun _ _ => true) fun s _ => (s, .trap 2 (wordOf op.toNat w))
    else issue s b.toNat (wordOf op.toNat w) [] false fun s => (s, .trap 2 (wordOf op.toNat w)))

/-! ### Control registers (R274) -/

/-- The digit address of the control register with a number. -/
def ctlAddr (b n : Nat) : Option Nat :=
  if n ≤ 9 then some (0x700000 + bwin b + 16 * n)
  else if 0x10 ≤ n ∧ n ≤ 0x1B then some (0x700100 + bwin b + 0x40 * ((n - 0x10) / 4) + 16 * (n % 4))
  else if n = 0x1C then some (R.LSTAT b)
  else if 0x20 ≤ n ∧ n ≤ 0x23 then some (0x720000 + bwin b + 16 * (n - 0x20))
  else if n = 0x30 then some (0x700300 + bwin b)
  else none

/-- A control register written by its number. ARR_SUSP.ABANDON abandons the suspended instruction (R232). -/
def mtcWrite (s : State) (b n v : Nat) : State :=
  match ctlAddr b n with
  | none => s
  | some a =>
    let s := if n = 0x30 then s else writePlain s a (2 ^ 64 - 1) v
    if n = 0x23 ∧ v.testBit 4 then abandonAll s b else s

/-- MFC (R274). -/
def execMfc (b : Blk) (w : BitVec 24) (s : State) : Host.Outcome State Fault Refusal :=
  .next (issue s b.toNat (wordOf 0x50 w) [fD (wordOf 0x50 w)] false fun s =>
    if fS (wordOf 0x50 w) ≠ 0 ∨ fU (wordOf 0x50 w) ≠ 0 then illegal s (wordOf 0x50 w)
    else match ctlAddr b.toNat (fFN (wordOf 0x50 w)) with
      | none => illegal s (wordOf 0x50 w)
      | some a => (wr s b.toNat (fD (wordOf 0x50 w)) (readReg s a), .next))

/-- MTC (R274); a repeated MTC to REPC traps (R259). -/
def execMtc (b : Blk) (w : BitVec 24) (s : State) : Host.Outcome State Fault Refusal :=
  .next (issue s b.toNat (wordOf 0x51 w) [fS (wordOf 0x51 w)] false fun s =>
    if fD (wordOf 0x51 w) ≠ 0 ∨ fU (wordOf 0x51 w) ≠ 0 ∨ (ctlAddr b.toNat (fFN (wordOf 0x51 w))).isNone then
      illegal s (wordOf 0x51 w)
    else if fFN (wordOf 0x51 w) = 9 ∧ rgB s (R.PSR b.toNat) R.PSR_REPF then (s, .trap 6 (wordOf 0x51 w))
    else (mtcWrite s b.toNat (fFN (wordOf 0x51 w)) (rd s b.toNat (fS (wordOf 0x51 w))), .next))

/-! ### What a boundary takes (R229, R268, R270, R271, R508) -/

/-- Block b's program stands at an instruction boundary or, suspended, at a safe point. -/
def atBoundary (s : State) (b : Nat) : Bool :=
  let q := seqOf s b
  programOf s b == b && executing s b && !q.epochReq && !q.epochStop && q.micro.isNone && q.resume.isNone

/-- Whether the PC stands at a suspended instruction whose handler has not been entered: the frame marks it (R225). -/
def suspHere (s : State) (b : Nat) : Bool :=
  match (seqOf s b).susp with | some r => !r.entered && r.pc.toNat == pcOf s b | none => false

/-- The kind of request that now holds the suspension of block b's program (R222). -/
def suspCause (s : State) (b cause : Nat) : State :=
  if suspHere s b then
    forEach (gang s b) (fun s c => setF (updSeq s c fun q =>
      { q with susp := q.susp.map fun r => { r with entered := r.entered || cause == 1 } }) (R.ARR_SUSP c) R.ARR_SUSP_CAUSE cause) s
  else s

/-- The handler of a trap that is no kind of R222 is entered while an instruction stays suspended. -/
def suspEntered (s : State) (b : Nat) : State :=
  if suspHere s b then
    forEach (gang s b) (fun s c => updSeq s c fun q => { q with susp := q.susp.map fun r => { r with entered := true } }) s
  else s

/-- The lowest eligible source of block b's program is taken (R271). -/
def entryOp (s : State) (b : Nat) : State :=
  let q := seqOf s b
  if !atBoundary s b || q.stepping || q.waiting || haltPending s b || !q.meshTraps.isEmpty || entryWaits s b
    || !rgB s (R.PSR b) R.PSR_IE then s
  else match irqFor s b with
    | none => (match fwdFor s b with
      | e :: rest =>
        if entryFault s b then programFault s b 6 0
        else
          let t := enter (suspCause { s with rein := { s.rein with fwd := rest } } b 1) b 1
            (e.2.1.toNat * 2 ^ 16 + e.2.2.toNat) (pcOf s b) false (suspHere s b)
          match partOf s b with | some n => sendAct t n (.irq e.1 e.2.1 e.2.2) | none => t
      | [] => s)
    | some (c, n) =>
      if entryFault s b then programFault s b 6 0
      else bicDeliver (enter (suspCause s b 1) b 1 (c * 2 ^ 16 + n) (pcOf s b) false (suspHere s b)) c n

/-- INTERRUPT_ENTRY (R271, R472). -/
def execInterruptEntry (b : Blk) (s : State) : Host.Outcome State Fault Refusal :=
  let due := rgB s (R.PSR b.toNat) R.PSR_IE && (irqFor s b.toNat).isSome && !(seqOf s b.toNat).waiting
  .next (entryOp (wokenFor s b.toNat due) b.toNat)

/-- MESH_TRAP (R268): the oldest failed response is taken. -/
def execMeshTrap (b : Blk) (s : State) : Host.Outcome State Fault Refusal :=
  let b := b.toNat
  let q := seqOf s b
  .next (
    if !atBoundary s b || q.waiting || entryWaits s b || (haltPending s b && !q.stepping) then s
    else match q.meshTraps with
      | [] => s
      | t :: r =>
        if entryFault s b then programFault s b 6 0
        else enter (suspEntered (updSeq s b fun q => { q with meshTraps := r }) b) b 0x0D (t.1.toNat * 2 ^ 56 + t.2.toNat) (pcOf s b) true (suspHere s b))

/-- The HALTREQ bits of a program's blocks end when the halt is taken. -/
def clearHaltReq (s : State) (b : Nat) : State :=
  forEach (gang s b) (fun s c => setB s (R.DBG_CTRL c) R.DBG_CTRL_HALTREQ false) s

/-- A halt request ends the L1 of the blocks of block b's program (R472). -/
def hushEnds (s : State) (b : Nat) : State :=
  if haltPending s b && runnable s b && !executing s b then (gang s b).foldl endHush s else s

/-- The halt that waits is taken at a boundary. -/
def haltOp (s : State) (b : Nat) : State :=
  if atBoundary s b && haltPending s b then haltGang (suspCause (clearHaltReq s b) b 2) b 1 else s

/-- HALT_TAKEN (R229, R472, R508). -/
def execHaltTaken (b : Blk) (s : State) : Host.Outcome State Fault Refusal := .next (haltOp (hushEnds s b.toNat) b.toNat)

end Sys2Proof.Machine
end

