-- ==== Sys2Proof/Machine/Vosel.lean ====
section
/-! DEFINITION. The Vosel format: frames, header, trailer and records, the checks of CHECK, STREAM and VERIFY, and the
sparing map (R39-R67, R80-R82). A rejection is (CODE, FRAME, DETAIL, ENTRY) as IMG_ERR shows it (R81). -/

namespace Sys2Proof.Machine

/-- A rejection: CODE, FRAME, DETAIL, ENTRY (R81). -/
abbrev Rej : Type := Nat × Nat × Nat × Nat

/-- The first condition of a list that fails, as its rejection. -/
def firstRej (l : List (Bool × Rej)) : Option Rej := (l.find? fun x => !x.1).map fun x => x.2

/-- The first rejection of a list. -/
def firstOf (l : List (Option Rej)) : Option Rej := l.findSome? id

/-- Byte i of a frame, and its n bytes from i, most significant first (R42). -/
def fb (f : List Byte) (i : Nat) : Nat := (f.getD i 0).toNat
def fv (f : List Byte) (i n : Nat) : Nat := bytesVal ((f.drop i).take n)

/-- n bytes of memory from byte address a. -/
def memBytes (s : State) (a n : Nat) : List Byte := (List.range n).map fun i => memByte s.mem (a + i)

/-! ### CHECK (R45, R46, R48, R68) -/

/-- Frame n of the image that IMG_SRC names, and the first 56 bytes of its trailer. -/
def imgFrame (s : State) (n : Nat) : List Byte := memBytes s (rgF s R.IMG_SRC R.IMG_SRC_ADDR / 2 + 128 * n) 128
def imgTrailer (s : State) (frames n : Nat) : List Byte := memBytes s (rgF s R.IMG_SRC R.IMG_SRC_ADDR / 2 + 128 * frames) n

/-- "VSL1", "VSL2", "VSLT" as numbers. -/
def vsl1 : Nat := 0x56534C31
def vsl2 : Nat := 0x56534C32
def vslt : Nat := 0x56534C54

/-- The checks of the header and of trailer bytes 0-7. Which one is reported where several fail is the model's choice: the
first in this order, then those of `busyRej` in theirs (log entry 22). -/
def headRej (s : State) : Option Rej :=
  let src := rgF s R.IMG_SRC R.IMG_SRC_ADDR
  let len := rgF s R.IMG_LEN R.IMG_LEN_BYTES
  let h := imgFrame s 0
  let frames := fv h 20 4
  let t := imgTrailer s frames 8
  let sig := fv t 4 2
  let magic := fv h 4 4
  let maj := rgF s R.STEPPING R.STEPPING_MAJOR
  let mnr := rgF s R.STEPPING R.STEPPING_MINOR
  firstRej
    [(src % 256 == 0 && decide (src + 2 * len ≤ 0x8000000000), (0x02, 0, 0, 0)),
     (fb h 2 == 1, (0x18, 0, fb h 2, 0)),
     (magic == vsl1 || magic == vsl2, (0x03, 0, 0, 0)),
     (fb h 8 == (if magic = vsl1 then 1 else 2), (0x04, 0, 0, 0)),
     (decide (fb h 12 < maj) || (fb h 12 == maj && decide (fb h 13 ≤ mnr)), (0x04, 0, 0, 0)),
     (decide (fb h 14 ≤ rgF s R.STEPPING R.STEPPING_RUSIL_LEVEL), (0x04, 0, 0, 0)),
     (fv h 10 2 == 0x2F12, (0x05, 0, 0, 0)),
     (decide (2 ≤ frames) && decide (frames ≤ 65536), (0x06, 0, 0, 0)),
     (fv t 0 4 == vslt, (0x03, 0, 0, 0)),
     (sig == 0 || sig == 3309, (0x06, 0, 0, 0)),
     (len == 128 * frames + 56 + sig, (0x06, 0, 0, 0)),
     (sig != 0 || !rgB s R.SEC_STATE R.SEC_STATE_LOCKED, (0x07, 0, 0, 0))]

/-- Whether a frame's CRC holds (R41). -/
def crcOk (f : List Byte) : Bool := (crc32 (f.take 124)).toNat == fv f 124 4

/-- The regions that the PART records of a partial image name, with the frame of each (R72). CHECK comes before the CRCs are
judged (R70); that a frame with a wrong CRC names nothing there is the model's choice (log entry 23). -/
def namedRegions (s : State) (frames : Nat) : List (Nat × Nat) :=
  (List.range frames).flatMap fun n =>
    let f := imgFrame s n
    if n ≠ 0 ∧ crcOk f ∧ fb f 2 = 2 then
      ((List.range 16).filter fun g => (fv f 6 2).testBit g).map fun g => (n, g)
    else []

/-- Partition n is idle (R73): no RUN of it is outstanding and none of its sequencers is within a program. -/
def idlePart (s : State) (n : Nat) : Bool :=
  !(s.host.runs.any fun r => r.part == n)
    && !((epochOf s n).held.any fun h => match h with | .compl _ => true | _ => false)
    && (blocksOf s n).all fun b => !(seqOf s b).inProg

/-- The current partitions that a load replaces, and the regions it affects (R72). -/
def replacedBy (s : State) (partial_ : Bool) (mask : Nat) : List Nat :=
  (List.range 16).filter fun n => defined s n && (!partial_ || mask.testBit n)

/-- The rest of CHECK: scope in a cascade, regions of running partitions, idle partitions (R72, R73, R80). -/
def busyRej (s : State) (partial_ : Bool) (mask : Nat) (named : List (Nat × Nat)) (replaced : List Nat) (force : Bool) :
    Option Rej :=
  let cp := s.cfg.cascade.cpid.toNat
  firstOf
    [(if s.cfg.cascade.role ≠ 0 ∧ partial_ ∧ mask.testBit cp then some (0x18, 0, cp, 0) else none),
     (named.find? fun e => match partOfRegion s e.2 with | some n => !mask.testBit n | none => false).map
        fun e => (0x0A, e.1, e.2, 0),
     (if force then none else (replaced.find? fun n => !idlePart s n).map fun n => (0x09, 0, n, 0)),
     (if force then none else
        (replaced.findSome? fun n => (blocksOf s n).find? fun b => rgB s (R.ARR_SUSP b) R.ARR_SUSP_VALID).map
          fun b => (0x08, 0, b, 0))]

/-! ### STREAM (R43, R49-R60, R82) -/

/-- The bytes of a frame that its record uses; the rest must be 0. -/
def usedBytes (f : List Byte) : Nat :=
  match fb f 2 with
  | 1 => 26 | 2 => 15 | 3 => 12 | 4 => 8 | 5 => 4 + 8 * fb f 3 | 6 => 9 | 7 => 4 + 4 * fb f 3 | 8 => 13 | _ => 4

/-- The entry in which payload byte a lies. -/
def entryAt (f : List Byte) (a : Nat) : Nat := match fb f 2 with | 5 => (a - 4) / 8 | 7 => (a - 4) / 4 | _ => 0

/-- Whether n is a source of the CIC (R454). -/
def cicExists (n : Nat) : Bool :=
  n == 0 || (decide (4 ≤ n) && decide (n ≤ 11)) || (decide (16 ≤ n) && decide (n ≤ 47))
    || (decide (64 ≤ n) && decide (n ≤ 191)) || (decide (256 ≤ n) && decide (n ≤ 271)) || (decide (512 ≤ n) && decide (n < 1024))

/-- The format checks of one SEG entry (R62). A sequencer DRIVE whose cell number ARG[6:0] is not 0 is refused with the other
fields that have no meaning for its OP: the model's choice (log entry 22). -/
def segForm (v : Nat) : Option Nat :=
  let op := bits v 47 44
  let arg := bits v 31 0
  if 5 < op then some 2
  else if bits v 35 32 ≠ 0 then some 3
  else
    let ok := match op with
      | 1 => (bits arg 31 30 == 1 || bits arg 31 30 == 2) && bits arg 29 7 == 0 && (bits arg 31 30 == 2 || bits arg 6 0 == 0)
      | 2 | 5 => bits arg 31 16 == 0
      | 4 => bits arg 31 7 == 0
      | _ => arg == 0
    if ok then none else some 4

/-- The format checks of one IRQ entry (R60). -/
def irqForm (v : Nat) : Option Nat :=
  let top := match bits v 21 20 with | 0 => 0 | 2 => 2047 | _ => 127
  if !cicExists (bits v 31 22) then some 0
  else if top < bits v 19 9 then some 1
  else if bits v 3 0 ≠ 0 then some 3
  else none

/-- The field checks of a record: conditions with the payload offset of the field, and whether the limit is one of
v1 (R82). -/
def fieldConds (v1 : Bool) (mask : Nat) (f : List Byte) : List (Bool × Nat × Bool) :=
  let b := fb f
  match b 2 with
  | 1 =>
    [(b 9 / 2 == 0, 9, false), (b 15 == 0, 15, false), (b 14 == 1 || b 14 == 2, 14, false),
     (!v1 || b 9 % 2 == 0, 9, true), (!v1 || ((List.range 16).filter fun i => mask.testBit i).length == 1, 24, true)]
  | 2 =>
    let e := b 9
    let ew := e / 64
    let sc := e / 2 % 8
    [(decide (b 4 ≤ 15) && mask.testBit (b 4), 4, false), (decide (b 5 ≤ 1), 5, false),
     (decide (b 8 ≤ 127) && (b 5 == 0 || b 8 == 0), 8, false),
     (!v1 || decide (sc ≤ 2), 9, true), (ew != 3 && decide (e / 16 % 4 ≤ 1), 9, false),
     (decide (sc ≤ 3) && (ew == 2 || (sc == 0 && e % 2 == 0)), 9, false),
     (decide (1 ≤ b 10) && decide (b 10 ≤ 100), 10, false), (b 11 / 4 == 0, 11, false), (b 14 / 16 == 0, 14, false)]
  | 3 =>
    [(decide (b 4 ≤ 15), 4, false), (decide (1 ≤ b 5) && decide (b 4 + b 5 ≤ 16), 5, false), (decide (b 6 ≤ 3), 6, false),
     (b 7 / 16 % 4 == 0, 7, false), (b 8 % 4 != 3 && b 8 / 4 % 32 == 0, 8, false), (b 9 / 2 == 0, 9, false),
     (decide (b 11 ≤ 5), 11, false)]
  | 4 =>
    [(decide (b 4 ≤ 127), 4, false), (decide (1 ≤ b 5) && decide (b 4 + b 5 ≤ 128), 5, false),
     (!v1 || decide (b 6 ≤ 3), 6, true), (decide (b 6 ≤ 5), 6, false), (decide (b 7 ≤ 5), 7, false)]
  | 6 =>
    [(decide (b 4 ≤ 2), 4, false), (decide (b 5 / 16 ≤ 3) && decide (b 5 % 16 ≤ 3), 5, false), (b 6 / 16 == 0, 6, false),
     (b 7 / 2 % 8 == 0, 7, false), (decide (b 8 ≤ 15), 8, false)]
  | 8 => (List.range 9).map fun i => (b (4 + i) == 0 || b (4 + i) == 5, 4 + i, false)
  | _ => []

/-- The checks of frame n as it is read (R43, R49). A bad NENT is IMG_FIELD with DETAIL 3, its offset in the frame, although
byte 3 is no payload byte, and DETAIL of IMG_V1_LIMIT for a CASCADE or CHIP record is 2, the offset of RTYPE, which is none
either: the model's choices (log entry 22). -/
def frameRej (v1 full2 : Bool) (mask n : Nat) (f : List Byte) : Option Rej :=
  let t := fb f 2
  let ent := t == 5 || t == 7
  firstOf
    [firstRej
      [(crcOk f, (0x0B, n, 0, 0)), (fv f 0 2 == n, (0x0C, n, 0, 0)), (decide (t ≤ 8), (0x0D, n, t, 0)),
       ((t == 1) == (n == 0), (0x18, n, t, 0)), (!(v1 && (t == 6 || t == 8)), (0x15, n, 2, 0)),
       (full2 || !(t == 6 || t == 8), (0x18, n, t, 0)),
       (if ent then decide (fb f 3 ≤ (if t = 5 then 15 else 30)) else fb f 3 == 0, (0x0F, n, 3, 0))],
     ((List.range 124).find? fun a => decide (usedBytes f ≤ a) && fb f a != 0).map fun a => (0x0F, n, a, entryAt f a),
     ((fieldConds v1 mask f).find? fun c => !c.1).map fun c => (if c.2.2 then 0x15 else 0x0F, n, c.2.1, 0),
     (if t = 5 then (List.range (fb f 3)).findSome? fun e => (segForm (fv f (4 + 8 * e) 8)).map fun o => (0x0F, n, 4 + 8 * e + o, e)
      else if t = 7 then (List.range (fb f 3)).findSome? fun e => (irqForm (fv f (4 + 4 * e) 4)).map fun o => (0x0F, n, 4 + 4 * e + o, e)
      else none)]

/-! ### The staged settings (R39, R51-R60) -/

/-- The frames of one record type, with their numbers. -/
def recsOf (fs : List (List Byte)) (t : Nat) : List (Nat × List Byte) :=
  ((List.range fs.length).zip fs).filter fun e => fb e.2 2 == t

/-- The partition that a PART record sets. -/
def partOfRec (f : List Byte) : Partition :=
  { indep := fb f 5 == 1, regmask := BitVec.ofNat 16 (fv f 6 2), lead := BitVec.ofNat 7 (fb f 8),
    ew := BitVec.ofNat 2 (fb f 9 / 64), ns := BitVec.ofNat 2 (fb f 9 / 16), scope := BitVec.ofNat 3 (fb f 9 / 2),
    close := fb f 9 % 2 == 1, epochMs := fb f 10, sluice := BitVec.ofNat 2 (fb f 11), gpio := BitVec.ofNat 16 (fv f 12 2),
    rein := BitVec.ofNat 4 (fb f 14) }

/-- The settings that a REGION record gives each of its regions. -/
def regionOfRec (f : List Byte) : RegionCfg :=
  { adiv := BitVec.ofNat 2 (fb f 6), curve := BitVec.ofNat 2 (fb f 7 / 64), top := BitVec.ofNat 4 (fb f 7),
    pol := BitVec.ofNat 2 (fb f 8), nolend := decide (128 ≤ fb f 8), exclude := BitVec.ofNat 9 (fv f 9 2),
    sparePwr := BitVec.ofNat 3 (fb f 11) }

/-- The CASCADE record's settings. -/
def cascadeOfRec (f : List Byte) : Cascade :=
  { role := BitVec.ofNat 2 (fb f 4), w := BitVec.ofNat 2 (fb f 5 / 16), h := BitVec.ofNat 2 (fb f 5),
    posX := BitVec.ofNat 2 (fb f 6 / 4), posY := BitVec.ofNat 2 (fb f 6), ports := BitVec.ofNat 4 (fb f 7 / 16),
    byImage := fb f 7 % 2 == 1, cpid := BitVec.ofNat 4 (fb f 8) }

/-- The entries of the SEG or IRQ frames in frame and entry order: frame, entry, value. -/
def entriesOf (fs : List (List Byte)) (t size : Nat) : List (Nat × Nat × Nat) :=
  (recsOf fs t).flatMap fun e => (List.range (fb e.2 3)).map fun k => (e.1, k, fv e.2 (4 + size * k) size)

/-- The numbers FIRST to FIRST + COUNT - 1 of a REGION or BLOCK record. -/
def runOf (f : List Byte) : List Nat := (List.range (fb f 5)).map (· + fb f 4)

/-- The regions of the image's partitions, with their partition. -/
def ownerOf (fs : List (List Byte)) : List (Nat × Nat) :=
  (recsOf fs 2).foldl (fun m e =>
    (List.range 16).foldl (fun m g => if (fv e.2 6 2).testBit g then mapPut g (fb e.2 4) m else m) m) []

/-- The region map as the load leaves it: regions it affects belong to the image's partitions or to none. -/
def withMap (s : State) (affected : BitVec 16) (owner : List (Nat × Nat)) : State :=
  (List.range 16).foldl (fun s g =>
    if !affected.getLsbD g then s else
    let s := setF s R.IMG_STATUS ⟨48 + g, 48 + g⟩ (b2n (mapHas g owner))
    setF s R.IMG_REGMAP ⟨4 * g + 3, 4 * g⟩ (if mapHas g owner then mapGet 0 g owner else 0)) s

/-- The settings in force once the image is: what its records set, over what partitions outside it keep. A BLOCK record sets
nothing for blocks of other partitions (R57). A partial image leaves the routes of the sources whose owner stays (R60, R454).
A memory controller that serves a region of a partial image's partitions is
released in L0 (R59). -/
def stage (s : State) (L : ImgLoad) (fs : List (List Byte)) : Settings :=
  let old := s.cfg
  let aff (g : Nat) : Bool := L.affected.getLsbD g
  let base : Settings := if L.partial_ then
      { old with
        parts := old.parts.filter fun e => !L.replaced.contains e.1
        regions := mapDrop aff old.regions, gang := mapDrop (fun b => aff (b / 8)) old.gang
        pwr := mapDrop (fun b => aff (b / 8)) old.pwr
        segs := old.segs.filter fun e => !aff (bits e.toNat 63 57 / 8), irq := [] }
    else {}
  let parts := (recsOf fs 2).foldl (fun m e => mapPut (fb e.2 4) (partOfRec e.2) m) base.parts
  let regions := (recsOf fs 3).foldl (fun m e => (runOf e.2).foldl (fun m g => mapPut g (regionOfRec e.2) m) m) base.regions
  let own := ownerOf fs
  let mine (f : List Byte) : List Nat := (runOf f).filter fun b => mapHas (b / 8) own
  let gang := (recsOf fs 4).foldl (fun m e => (mine e.2).foldl (fun m b => mapSet 0 b (BitVec.ofNat 3 (fb e.2 6)) m) m) base.gang
  let pwr := (recsOf fs 4).foldl (fun m e => (mine e.2).foldl (fun m b => mapSet 0 b (BitVec.ofNat 3 (fb e.2 7)) m) m) base.pwr
  let segs := base.segs ++ ((entriesOf fs 5 8).filter fun e => bits e.2.2 47 44 != 0).map fun e => BitVec.ofNat 64 e.2.2
  let t := withMap { s with cfg := { base with parts := parts } } L.affected own
  let stays (i : Nat) : Bool := cicOwner t i == cicOwner s i && match cicOwner s i with | some n => !L.replaced.contains n | none => true
  let irq := (entriesOf fs 7 4).foldl (fun m e => mapPut (bits e.2.2 31 22) (BitVec.ofNat 32 e.2.2) m)
    (if L.partial_ then old.irq.filter fun e => stays e.1 else [])
  let casc := if L.partial_ then base.cascade else match recsOf fs 6 with | e :: _ => cascadeOfRec e.2 | [] => {}
  let chip := if L.partial_ then mapDrop (fun k => mapHas (2 * k) own || mapHas (2 * k + 1) own) base.chip else match recsOf fs 8 with
    | e :: _ => (List.range 9).foldl (fun m k => mapSet 0 k (BitVec.ofNat 3 (fb e.2 (4 + k))) m) []
    | [] => []
  { parts := parts, regions := regions, gang := gang, pwr := pwr, segs := segs, cascade := casc, chip := chip, irq := irq }

/-! ### VERIFY (R50, R52, R54, R55, R58-R60, R431, R454) -/

/-- What each record names, with the offset and entry where it names it (R50). -/
def namesOf (f : List Byte) : List (Nat × Nat × Nat) :=
  match fb f 2 with
  | 2 => (1000 + fb f 4, 4, 0) :: ((List.range 16).filter fun g => (fv f 6 2).testBit g).map fun g => (2000 + g, 6, 0)
  | 3 => (runOf f).map fun g => (3000 + g, 4, 0)
  | 4 => (runOf f).map fun b => (4000 + b, 4, 0)
  | 6 => [(5000, 4, 0)]
  | 7 => (List.range (fb f 3)).map fun e => (6000 + bits (fv f (4 + 4 * e) 4) 31 22, 4 + 4 * e, e)
  | 8 => [(5001, 4, 0)]
  | _ => []

/-- The first name that appears twice, in frame order. -/
def dupRej (fs : List (List Byte)) : Option Rej :=
  let all := ((List.range fs.length).zip fs).flatMap fun e => (namesOf e.2).map fun k => (e.1, k)
  (all.foldl (fun (p : List Nat × Option Rej) e =>
    if p.2.isSome then p else if p.1.contains e.2.1 then (p.1, some (0x0F, e.1, e.2.2.1, e.2.2.2)) else (e.2.1 :: p.1, none))
    ([], none)).2

/-- A set of regions is a rectangle of the 4 x 4 grid (R52). -/
def rectangle (gs : List Nat) : Bool :=
  let xs := gs.map (· % 4)
  let ys := gs.map (· / 4)
  !gs.isEmpty && gs.length == (xs.foldl max 0 - xs.foldl min 3 + 1) * (ys.foldl max 0 - ys.foldl min 3 + 1)

/-- Shape and lead of each partition (R52). -/
def partsRej (fs : List (List Byte)) : Option Rej :=
  (recsOf fs 2).findSome? fun e =>
    let gs := (List.range 16).filter fun g => (fv e.2 6 2).testBit g
    firstRej [(rectangle gs, (0x10, e.1, fb e.2 4, 0)), (fb e.2 5 == 1 || gs.contains (fb e.2 8 / 8), (0x0F, e.1, 8, 0))]

/-- REGION records name regions of the image's partitions (R55). -/
def scopeRej (fs : List (List Byte)) : Option Rej :=
  let own := ownerOf fs
  ((recsOf fs 3).find? fun e => !((runOf e.2).all fun g => mapHas g own)).map fun e => (0x0F, e.1, 4, 0)

/-- In a LOCKSTEP partition every region has one ADIV and every block PWR L0 (R52). That IMG_ERR names the PART record and
its MODE byte is the model's choice (log entry 22). -/
def lockRej (fs : List (List Byte)) (c : Settings) : Option Rej :=
  ((recsOf fs 2).find? fun e =>
    let gs := (List.range 16).filter fun g => (fv e.2 6 2).testBit g
    let ad (g : Nat) : Nat := (mapGet ({} : RegionCfg) g c.regions).adiv.toNat
    fb e.2 5 == 0 && !(gs.all fun g => ad g == ad (gs.headD 0) && (List.range 8).all fun k => mapGet 0 (8 * g + k) c.pwr == 0)).map
    fun e => (0x0F, e.1, 5, 0)

/-- A GPIO pin or Rein port is owned by one partition (R52). -/
def ownRej (s : State) (L : ImgLoad) (fs : List (List Byte)) : Option Rej :=
  let kept := s.cfg.parts.filter fun e => L.partial_ && !L.replaced.contains e.1
  let g0 := kept.foldl (fun m e => Nat.lor m e.2.gpio.toNat) 0
  let r0 := kept.foldl (fun m e => Nat.lor m e.2.rein.toNat) 0
  ((recsOf fs 2).foldl (fun (p : Nat × Nat × Option Rej) e =>
    let (g, r, x) := p
    let eg := fv e.2 12 2
    let er := fb e.2 14
    if x.isSome then p else
    match (List.range 16).find? (Nat.land g eg).testBit with
    | some i => (g, r, some (0x11, e.1, i, 0))
    | none => match (List.range 4).find? (Nat.land r er).testBit with
      | some i => (g, r, some (0x11, e.1, 0x100 + i, 0))
      | none => (Nat.lor g eg, Nat.lor r er, none)) (g0, r0, none)).2.2

/-- The ports that R424 joins for a device at (x, y) of a cascade of (w + 1) x (h + 1). -/
def joinedPorts (c : Cascade) : Nat :=
  if c.role = 0 then 0 else
  b2n (decide (c.posY ≠ 0)) + 2 * b2n (decide (c.posX.toNat < c.w.toNat)) + 4 * b2n (decide (c.posY.toNat < c.h.toNat))
    + 8 * b2n (decide (c.posX ≠ 0))

/-- The CASCADE record agrees with the straps, the ports and the partitions (R58, R431); CHAIN_SCOPE CASCADE stands only
in its CPID partition (R54). -/
def cascRej (s : State) (fs : List (List Byte)) (c : Settings) : Option Rej :=
  firstOf
    [(match recsOf fs 6 with
      | [] => none
      | e :: _ =>
        let k := cascadeOfRec e.2
        let ok := k.posX == s.rein.posX && k.posY == s.rein.posY
          && (k.byImage || k.role == 0 || (k.role == 1) == s.rein.leads)
          && (k.role != 0 || (k.w == 0 && k.h == 0))
          && (match mapGet none k.cpid.toNat (c.parts.map fun p => (p.1, some p.2)) with
              | some p => p.regmask == 0xFFFF | none => false)
          && k.ports.toNat == joinedPorts k
          && c.parts.all fun p => Nat.land p.2.rein.toNat k.ports.toNat == 0
        if ok then none else some (0x14, e.1, 0, 0)),
     ((recsOf fs 2).find? fun e => fb e.2 9 / 2 % 8 == 3 && !((recsOf fs 6).any fun k => fb k.2 8 == fb e.2 4)).map
        fun e => (0x0F, e.1, 9, 0)]

/-- A memory controller is released in L5 only when both its regions are unassigned (R59). -/
def chipRej (t : State) (fs : List (List Byte)) : Option Rej :=
  (recsOf fs 8).findSome? fun e =>
    ((List.range 8).find? fun k => fb e.2 (4 + k) == 5 && (assigned t (2 * k) || assigned t (2 * k + 1))).map
      fun k => (0x0F, e.1, 4 + k, 0)

/-- Routes: chip-owned sources take TKIND 0 or 2, a sequencer target lies in the owning partition, and a partial image
routes only sources of the partitions it defines (R60, R454). t is the state as the load leaves it. -/
def routeRej (t : State) (L : ImgLoad) (fs : List (List Byte)) : Option Rej :=
  let ours := (recsOf fs 2).map fun e => fb e.2 4
  (entriesOf fs 7 4).findSome? fun (n, e, v) =>
    let o := 4 + 4 * e
    let own := cicOwner t (bits v 31 22)
    firstRej
      [(own.isSome || bits v 21 20 == 0 || bits v 21 20 == 2, (0x0F, n, o + 1, e)),
       (!L.partial_ || (match own with | some p => ours.contains p | none => false), (0x0F, n, o, e)),
       (bits v 21 20 != 1 || partOf t (bits v 19 9) == own, (0x0F, n, o + 1, e))]

/-! ### Routing segments (R61-R66) -/

/-- The segment at which a SEG entry is refused, if it is: t is the state as the load leaves it, own the regions of the
image, links the sources of earlier LINKs. It is the source segment s + i of the first pair at fault, where the fault lies at
the target too, and s for a bad CNT: the model's choice (log entry 23). -/
def segBad (t : State) (own : List (Nat × Nat)) (links : List Nat) (v : Nat) : Option Nat :=
  let s0 := bits v 63 48
  let op := bits v 47 44
  let cnt := bits v 43 36
  if op = 0 then none
  else if 4 ≤ op ∧ cnt ≠ 0 then some s0
  else (List.range (cnt + 1)).findSome? fun i =>
    let sg := s0 + i
    let b := sg / 512
    let l := sg % 512
    let tg := if op = 4 then 512 * bits v 6 0 + 0x100 else bits v 15 0 + i
    let bt := tg / 512
    let lt := tg % 512
    let there (b l : Nat) : Bool := mapHas (b / 8) own && decide (l ≤ 0x104)
    let near := if l < 0x80 then blkY b == blkY bt && (blkX b + 1 == blkX bt || blkX bt + 1 == blkX b)
      else blkX b == blkX bt && (blkY b + 1 == blkY bt || blkY bt + 1 == blkY b)
    let p := partCfg t ((partOf t b).getD 0)
    let ok := there b l && (op == 1 || op == 3 || (there bt lt && partOf t bt == partOf t b)) && match op with
      | 1 | 3 => decide (l < 0x100)
      | 2 => decide (l < 0x100) && l == lt && near
      | 4 => l == 0x100 && p.ew == 2 && p.scope == 0 && !links.contains b
      | _ => (((l == 0x102 && lt == 0x104) || (l == 0x104 && lt == 0x102)) && blkY b == blkY bt)
          || (((l == 0x101 && lt == 0x103) || (l == 0x103 && lt == 0x101)) && blkX b == blkX bt)
    if ok then none else some sg

/-- IMG_SEGMENT of the image's entries in order (R63). -/
def segRej (t : State) (fs : List (List Byte)) : Option Rej :=
  let own := ownerOf fs
  ((entriesOf fs 5 8).foldl (fun (p : List Nat × Option Rej) (n, e, v) =>
    if p.2.isSome then p else
    match segBad t own p.1 v with
    | some sg => (p.1, some (0x12, n, sg, e))
    | none => (if bits v 47 44 = 4 then bits v 63 57 :: p.1 else p.1, none)) ([], none)).2

/-- What an entry drives: nets by their lowest segment, chain inputs, express ports. -/
def drives (t : State) (v : Nat) : List (Nat × Nat) :=
  match bits v 47 44 with
  | 1 => (List.range (bits v 43 36 + 1)).map fun i =>
      (0, (netOf t (bits v 63 48 + i)).foldl min (bits v 63 48 + i))
  | 4 => [(1, bits v 6 0)]
  | 5 => [(2, bits v 63 48), (2, bits v 15 0)]
  | _ => []

/-- The first entry that adds a second driver, with the segment that IMG_ERR names (R65). -/
def driverRej (t : State) (fs : List (List Byte)) : Option Rej :=
  ((entriesOf fs 5 8).foldl (fun (p : List (Nat × Nat) × Option Rej) (n, e, v) =>
    if p.2.isSome then p else
    let d := drives t v
    if d.any p.1.contains then
      let sg := match bits v 47 44 with | 4 => 512 * bits v 6 0 + 0x100 | 5 => bits v 15 0 | _ => bits v 63 48
      (p.1, some (0x0E, n, sg, e))
    else (d ++ p.1, none)) ([], none)).2

/-! ### Sparing (R67) -/

/-- The blocks of region g that the journal holds dead. -/
def journalDead (s : State) (g : Nat) : Nat := (mapGet 0 g s.jdead).toNat

/-- A holder for position k of region g when its own block is dead and its spare is not there: a neighbour's spare, or a
fold. pos holds the positions settled so far, 0xFF for those still open. -/
def spareFor (s : State) (L : ImgLoad) (r : RegionCfg) (g : Nat) (dead : Nat) (pos : List Nat) (lent : List (Nat × Nat)) :
    Option (Nat × List (Nat × Nat)) :=
  let lend := if r.pol = 2 then none else (List.range 4).findSome? fun d => match neighbour g d with
    | some h =>
      if !L.affected.getLsbD h && rgF s (R.BSW_MAP h) R.BSW_MAP_SPARE_ST == 0
          && !(rgF s (R.BSW_MAP h) R.BSW_MAP_DEAD).testBit 8 && !mapHas h lent
          && !(mapGet ({} : RegionCfg) h s.cfg.regions).nolend && rgF s (R.PC_RGN h) R.PC_RGN_ADIV == r.adiv.toNat
      then some (d, h) else none
    | none => none
  match lend with
  | some (d, h) => some (16 + d, mapPut h ((d + 2) % 4) lent)
  | none =>
    if r.pol ≠ 0 then none else
    ((List.range 8).find? fun k2 => !pos.contains (32 + k2) && (!dead.testBit k2 || pos.getD k2 0xFF == 8)).map
      fun k2 => (32 + k2, lent)

/-- BSW_MAP of one region under load, with the spares lent so far; a rejection when a position stays without holder. -/
def spareRegion (s : State) (L : ImgLoad) (c : Settings) (g : Nat) (lent : List (Nat × Nat)) :
    Except Rej (Nat × List (Nat × Nat)) :=
  let r := mapGet ({} : RegionCfg) g c.regions
  let old := rg s (R.BSW_MAP g)
  let st := bits old 58 57
  let dead := Nat.lor (journalDead s g) r.exclude.toNat
  let free := st != 2 && !dead.testBit 8
  let go := (List.range 8).foldl (fun (x : Except Rej (List Nat × List (Nat × Nat) × Bool)) k =>
    match x with
    | .error e => .error e
    | .ok (pos, lent, used) =>
      if !dead.testBit k then .ok (pos ++ [k], lent, used)
      else if free && !used then .ok (pos ++ [8], lent, true)
      else match spareFor s L r g dead pos lent with
        | some (code, lent) => .ok (pos ++ [code], lent, used)
        | none => .error (0x13, 0, 16 * g + k, 0)) (.ok ([], lent, false))
  match go with
  | .error e => .error e
  | .ok (pos, lent, used) =>
    let st' := if st = 2 then 2 else if dead.testBit 8 then 3 else if used then 1 else 0
    let v := (if st' = 2 then bits old 60 59 * 2 ^ 59 else 0) + st' * 2 ^ 57 + dead * 2 ^ 48
      + (List.range 8).foldl (fun a k => a + pos.getD k 0 * 2 ^ (6 * k)) 0
    .ok (v, lent)

/-- The maps of every region under load and of every lender. -/
def sparing (s : State) (L : ImgLoad) (c : Settings) : Except Rej (List (Nat × Word)) :=
  let go := (List.range 16).foldl (fun (x : Except Rej (List (Nat × Word) × List (Nat × Nat))) g =>
    match x with
    | .error e => .error e
    | .ok (m, lent) =>
      if !L.affected.getLsbD g then .ok (m, lent) else
      match spareRegion s L c g lent with
      | .error e => .error e
      | .ok (v, lent) => .ok (mapPut g (BitVec.ofNat 64 v) m, lent)) (.ok ([], []))
  match go with
  | .error e => .error e
  | .ok (m, lent) => .ok (lent.foldl (fun m e =>
      mapPut e.1 (BitVec.ofNat 64 (putBits (putBits (rg s (R.BSW_MAP e.1)) 58 57 2) 60 59 e.2)) m) m)

end Sys2Proof.Machine
end

