-- ==== Sys2Proof/Machine/Image.lean ====
section
/-! DEFINITION. The image engine: CHECK, HOLD, STREAM, VERIFY, APPLY and RELEASE of a structural image (R68-R80). -/

namespace Sys2Proof.Machine

/-- IMG_ERR shows a rejection (R81). -/
def setErr (s : State) (r : Rej) : State :=
  setRg s R.IMG_ERR (r.1 * 2 ^ 56 + r.2.1 % 65536 * 2 ^ 24 + r.2.2.1 % 65536 * 2 ^ 8 + r.2.2.2 % 256)

/-- PHASE (R70). -/
def setPhase (s : State) (p : Nat) : State := setF s R.IMG_STATUS R.IMG_STATUS_PHASE p

/-- The load ends: BUSY and GO clear, and the LOAD_IMAGE command that started it completes with a status (R70, R416). -/
def endLoad (s : State) (ph status detail result : Nat) : State :=
  let cmd := match s.img with | some l => l.cmd | none => none
  let s := setB (setB (setPhase { s with img := none } ph) R.IMG_STATUS R.IMG_STATUS_BUSY false) R.IMG_CTRL R.IMG_CTRL_GO false
  match cmd with
  | some (f, q, c) => complete (sweepIso (endWaits s)) f q c status detail result
  | none => sweepIso (endWaits s)

/-- A rejection is reported: IMG_ERR, ERR and its CIC source. -/
def reportRej (s : State) (r : Rej) (ph : Nat) : State :=
  let s1 := setErr s r
  let s2 := setB s1 R.IMG_STATUS R.IMG_STATUS_ERR true
  endLoad (cicRise s s2 0) ph 0x0C r.1 (rg s2 R.IMG_ERR)

/-- The partitions of a load no longer exist: their settings, versions, routes, region map and geometry go (R60, R71,
R105). -/
def dropParts (s : State) (L : ImgLoad) : State :=
  let aff (g : Nat) : Bool := L.affected.getLsbD g
  let c := s.cfg
  let cfg : Settings :=
    { c with parts := c.parts.filter fun e => !L.replaced.contains e.1
             regions := mapDrop aff c.regions, gang := mapDrop (fun b => aff (b / 8)) c.gang
             pwr := mapDrop (fun b => aff (b / 8)) c.pwr
             segs := c.segs.filter fun e => !aff (bits e.toNat 63 57 / 8)
             irq := c.irq.filter fun e => match cicOwner s e.1 with | some n => !L.replaced.contains n | none => true }
  let s := L.replaced.foldl (fun s n => setRg s (R.IMG_PVER n) 0) { s with cfg := cfg }
  let s := (List.range 16).foldl (fun s g => if aff g then setRg s (R.ORN_GEOM g) 0 else s) s
  commandVolt (withMap s L.affected [])

/-- REIN_ID shows the device's place in the cascade (R425, R427, R446). The lead's index is this device's own when it
leads, else that of the lead its ports have seen. -/
def applyCascade (s : State) : State :=
  let c := s.cfg.cascade
  let w := c.w.toNat + 1
  let i := if c.role = 0 then 0 else w * c.posY.toNat + c.posX.toNat
  let l := if c.role = 2 then (s.rein.leadSeen.getD 0).toNat else i
  let a := R.REIN_ID
  let s := setF (setF (setF s a R.REIN_ID_DEVIDX i) a R.REIN_ID_LEADIDX l) a R.REIN_ID_ROLE c.role.toNat
  let s := setF (setF s a R.REIN_ID_SW c.w.toNat) a R.REIN_ID_SH c.h.toNat
  if c.role = 0 then setF (setF s a R.REIN_ID_H 0) a R.REIN_ID_MYHOPS 0 else
  let h := ((List.range (w * (c.h.toNat + 1))).map (hopsOf s)).foldl max 0
  setF (setF s a R.REIN_ID_H h) a R.REIN_ID_MYHOPS (hopsOf s i)

/-- The cascade in which a cascade-wide load is coordinated: the one its record sets, staged or among the frames read so far,
or, where that leaves the device STANDALONE or there is none, the one in force (R80, R432; log entry 27). -/
def loadCascade (s : State) (L : ImgLoad) : Cascade :=
  let c := match L.staged, recsOf L.frames 6 with
    | some c, _ => c.cascade
    | none, e :: _ => cascadeOfRec e.2
    | none, [] => s.cfg.cascade
  if c.role = 0 then s.cfg.cascade else c

/-- The load is part of a cascade-wide one, as far as its record is known, and this device leads that (R80, R432). -/
def wideLoad (s : State) (L : ImgLoad) : Bool := !L.partial_ && decide ((loadCascade s L).role ≠ (0 : BitVec 2))
def leadsLoad (s : State) (L : ImgLoad) : Bool := !L.partial_ && decide ((loadCascade s L).role = (1 : BitVec 2))

/-- The device as that cascade places it. -/
def inLoadCascade (s : State) (L : ImgLoad) : State := applyCascade { s with cfg := { s.cfg with cascade := loadCascade s L } }

/-- What f sends, by the paths of that cascade. -/
def viaStaged (s : State) (L : ImgLoad) (f : State → State) : State := { s with out := (f (inLoadCascade s L)).out }

/-- The other devices of a cascade-wide load are told that this device's has failed (R432). -/
def tellFail (s : State) (L : ImgLoad) (dev : Nat) : State :=
  if !wideLoad s L then s else viaStaged s L fun s =>
    if leadsLoad s L then fromLead s ctlLoadAbort (BitVec.ofNat 64 dev) else toLead s ctlLoadAbort (BitVec.ofNat 64 dev)

/-- A rejection after HOLD: PHASE FAILED, the affected regions stay held (R71); in a cascade-wide load the others are
told (R432). -/
def failLoad (s : State) (L : ImgLoad) (r : Rej) : State :=
  tellFail (reportRej (dropParts s L) r 7) L (myIdx (inLoadCascade s L))

/-! ### CHECK and HOLD (R68-R75) -/

/-- An epoch boundary of partition n is requested for the load, even of a partition that FORCE has stopped (R73, R74). -/
def holdBoundary (s : State) (n : Nat) : State :=
  let e := epochOf s n
  if epState s n = 6 ∨ epState s n = 0 ∨ e.step ≠ 0 then s
  else if e.rolling then updEpoch s n fun e => { e with defer := true }
  else if cascadePart s n && !leadsCascade s then forwardReq (updEpoch s n fun e => { e with defer := true }) n .epoch
  else startBoundary s n

/-- The load that CHECK accepts. -/
def openLoad (s : State) (cmd : Option (Nat × Nat × BitVec 512)) : ImgLoad :=
  let h := imgFrame s 0
  let v1 := fv h 4 4 == vsl1
  let p := !v1 && fb h 9 % 2 == 1
  let mask := fv h 24 2
  let rep := replacedBy s p mask
  let named := if p then namedRegions s (min (fv h 20 4) 65536) else []
  let aff := (List.range 16).foldl (fun a g =>
    let hit := !p || named.any (fun e => e.2 == g) || (match partOfRegion s g with | some n => mask.testBit n | none => false)
    a + b2n hit * 2 ^ g) 0
  { verified := if p then [] else s.rein.verified, partial_ := p, v1 := v1, partMask := BitVec.ofNat 16 mask, version := BitVec.ofNat 32 (fv h 16 4),
    signed := fv (imgTrailer s (fv h 20 4) 8) 4 2 != 0, affected := BitVec.ofNat 16 aff, replaced := rep,
    count := fv h 20 4, cmd := cmd }

/-- The rejection of CHECK, if any. -/
def checkRej (s : State) : Option Rej :=
  match headRej s with
  | some r => some r
  | none =>
    let h := imgFrame s 0
    let p := fv h 4 4 != vsl1 && fb h 9 % 2 == 1
    let mask := fv h 24 2
    busyRej s p mask (if p then namedRegions s (fv h 20 4) else []) (replacedBy s p mask) (rgB s R.IMG_CTRL R.IMG_CTRL_FORCE)

/-- A load starts (R68, R69): GO, BUSY, FORCED, an empty report; then CHECK, whose rejection changes nothing else, and
the boundaries of HOLD. -/
def imgStart (s : State) (cmd : Option (Nat × Nat × BitVec 512)) : State :=
  let s := if (ownerSlot s.sec.fuses).isSome then setB s R.IMG_CTRL R.IMG_CTRL_UNCHECKED false else s
  let s := setB (setB s R.IMG_CTRL R.IMG_CTRL_GO true) R.IMG_STATUS R.IMG_STATUS_BUSY true
  let s := setB s R.IMG_STATUS R.IMG_STATUS_FORCED (rgB s R.IMG_CTRL R.IMG_CTRL_FORCE)
  let s := setPhase (setF (setRg s R.IMG_ERR 0) R.IMG_STATUS R.IMG_STATUS_DISCARDS 0) 1
  let s := { s with host := { s.host with imgStarted := true } }
  let L := openLoad s cmd
  let s := { s with img := some L, rein := if L.partial_ then s.rein else { s.rein with verified := [] } }
  match checkRej s with
  | some r => tellFail (reportRej s r 0) L (myIdx (inLoadCascade s L))
  | none =>
    let s := setPhase s 2
    let s := L.replaced.foldl (fun s n =>
      let s := if !idlePart s n then girthStop s n 4 else s
      holdBoundary s n) s
    raiseFences s

/-- A register start (R68, R69). -/
def imgGoOp (s : State) : State :=
  if rgB s R.IMG_STATUS R.IMG_STATUS_BUSY then setB s R.IMG_STATUS R.IMG_STATUS_REFUSED true else imgStart s none

/-- IMG_GO (R68): IMG_CTRL.GO is written with 1. A sequencer's or a host's write counts alike. -/
def execImgGo (_i : Initiator) (s : State) : Host.Outcome State Fault Refusal := .next (imgGoOp s)

/-- The progress of the array instruction that stands mid-execution in block b, counted as STEP counts it: a shift that waits for
edge data has passed the steps whose data has come (R233, R437). -/
def progressOf (s : State) (b k : Nat) : Nat :=
  let p := programOf s b
  match (seqOf s p).resume with
  | some r => if r.w.toNat / 2 ^ 24 = 0x87 ∧ cascadePart s ((partOf s p).getD 0) then max k (yieldNow s p (suspCtx s p r)) else k
  | none => k

/-- A suspended or Girth-stopped instruction of block b is discarded under FORCE (R233); whether there was one. -/
def discardOp (s : State) (b : Nat) : State × Bool :=
  let a := R.ARR_SUSP b
  if rgB s a R.ARR_SUSP_VALID then (abandonOp s b, true)
  else match midArray s b with
    | some (w, k) =>
      let s := setF (setF s a R.ARR_SUSP_DOP (w.toNat / 2 ^ 24)) a R.ARR_SUSP_DSTEP (progressOf s b k % 65536)
      let s1 := setB (setB (setB s a R.ARR_SUSP_RUN false) a R.ARR_SUSP_FROZEN false) a R.ARR_SUSP_DISC true
      (bicRise s s1 b 10, true)
    | none => (s, false)

/-- Block b's instruction under way is discarded, with what abandoning a suspended one leaves undefined (R232, R233). -/
def dropOp (s : State) (b : Nat) : State :=
  if rgB s (R.ARR_SUSP b) R.ARR_SUSP_VALID then abandonBlock s b else (discardOp s b).1

/-- The registers of a block that its sequencer's reset puts back (R75, R235): control registers, register file, DCTL and
RCTL. ARR_SUSP keeps DOP, DSTEP and DISC (R233), and the BIC keeps its state (R458). -/
def seqResetOff (o : Nat) : Bool :=
  (decide (0x700010 ≤ o) && decide (o < 0x700200)) || (decide (0x710000 ≤ o) && decide (o < 0x710E00))
    || o == 0x720000 || o == 0x720010 || o == 0x720020 || o == 0x700820 || o == 0x700810

/-- Block b is held: its sequencer in reset, watchdog, timers and DMA stopped, A, X, Y, C and T 0 in its cells (R75). -/
def holdBlock (s : State) (b : Nat) : State :=
  let q := seqOf s b
  let s := setSeq (dmaStopBlock (breakResv s (bwin b) 0x200000) b) b
    { twinCol := q.twinCol, spWb := q.spWb, tmWb := q.tmWb, csWait := q.csWait }
  let s := resetRegs (fun a => decide (bwin b ≤ a) && decide (a < 0x1000000 + bwin b) && seqResetOff (a % 0x1000000)) s
  let s := setRg s (R.ARR_SUSP b) (Nat.land (rg s (R.ARR_SUSP b)) 0xFFFFFF08)
  let s := setB s (R.WD_CFG b) R.WD_CFG_EN false
  let s := (List.range 4).foldl (fun s i => setB s (R.TMR b i) R.TMR_EN false) s
  let still (c : Cell) : Cell := { c with x := false, y := false, c := false, a := false, t := false }
  let held := s.cells.map fun e => if e.1 / 16384 = b then (e.1, still e.2) else e
  { s with cells := held.filter fun e => decide (e.2 ≠ ({} : Cell)) }

/-- The CIC sources of partition n are masked (R75). -/
def maskPart (s : State) (n : Nat) : State :=
  (List.range 1024).foldl (fun s i =>
    if cicExists i && cicOwner s i == some n then setF s (R.CIC_MASK (i / 64)) ⟨i % 64, i % 64⟩ 1 else s) s

/-- The pins and lanes that partition n owns are released: GPIO high-impedance with the buffers off, Rein lanes idle
(R75). -/
def idlePins (s : State) (n : Nat) : State :=
  let p := partCfg s n
  let s := (List.range 16).foldl (fun s i =>
    if p.gpio.getLsbD i then setF s R.GPIO_IN ⟨i, i⟩ 0 else s) s
  (List.range 4).foldl (fun s i => if p.rein.getLsbD i then setF s (R.REIN_STATUS i) R.REIN_STATUS_STATE 0 else s) s

/-- The gateways of domains ds refuse from now on, whatever the Sluice policy (R75): what their fences held is refused too. -/
def refuseHeld (s : State) (ds : List (Nat × Nat)) : State :=
  let hit (k : Nat) : Bool := ds.contains (k / 10, k % 10)
  let gone := s.irq.held.filter fun e => hit e.1
  let s : State := { s with irq := { s.irq with held := (s.irq.held.filter fun e => !hit e.1), acks := s.irq.acks ++ gone.map fun e => (e.2.2.1, 2) } }
  let qs : List MeshReq := s.mesh.flight.filter fun q => match q.held with | some k => hit k | none => false
  (ds.map (·.1)).eraseDups.foldl showHeld (qs.foldl (fun s q => respond s { q with held := none } 6 []) s)

/-- IMAGE_HOLD_DRAINED (R74, R75, R233): once the open epochs have committed and the fenced domains have drained, the
held state is applied and STREAM begins. No frame of a partition without an epoch keeps WR (R379). -/
def execImageHoldDrained (s : State) : Host.Outcome State Fault Refusal :=
  .next (match s.img with
    | none => s
    | some L =>
      let gs := (List.range 16).filter L.affected.getLsbD
      let ds := loadDoms s L
      if phase s ≠ 2 ∨ !committedAll s L ∨ !(ds.all fun d => decide (1 ≤ sluiceSt s d.1 d.2) && drained s d.1 d.2) then s else
      let bs := gs.flatMap fun g => (List.range 8).map (· + 8 * g)
      let force := rgB s R.IMG_CTRL R.IMG_CTRL_FORCE
      let (s, k) := if force then bs.foldl (fun (p : State × Nat) b =>
          let (t, d) := discardOp p.1 b
          (t, p.2 + b2n d)) (s, 0) else (s, 0)
      let s := setF s R.IMG_STATUS R.IMG_STATUS_DISCARDS (min k 255)
      let s := L.replaced.foldl (fun s n =>
        let s := endRuns s n 0x09 0 0 false
        let s := maskPart (idlePins s n) n
        let s := forEach (epochOf s n).shadowed (fun s fr => setKeyByte s fr (putBits (keyByte s fr) 6 6 0)) s
        setF { s with epochs := mapErase n s.epochs } (R.EP_STAT n) R.EP_STAT_STATE 0) s
      let fl := s.mesh.flight.map fun q => match q.part with
        | some n => if L.replaced.contains n then { q with dead := true } else q
        | none => q
      let s := bs.foldl holdBlock { s with mesh := { s.mesh with flight := fl } }
      let s := ds.foldl (fun s d => if sluiceSt s d.1 d.2 < 3 then setSluice s d.1 d.2 3 else s) s
      let s := setF s R.IMG_STATUS R.IMG_STATUS_HELD (Nat.lor (rgF s R.IMG_STATUS R.IMG_STATUS_HELD) L.affected.toNat)
      setPhase (refuseHeld s ds) 3)

/-! ### STREAM and VERIFY (R43, R47, R48, R70) -/

/-- The rejection of VERIFY, if any; t is the state as the load leaves it. -/
def verifyRej (s t : State) (L : ImgLoad) (fs : List (List Byte)) (unchecked : Bool) : Option Rej :=
  let tr := imgTrailer s L.count 3365
  firstOf
    [(if digestBytes (sha3_384 fs.flatten) = (tr.drop 8).take 48 then none else some (0x16, 0, 0, 0)),
     (if !L.signed || ownerSigned s (ascii "VOSEL") (tr.take 56) (tr.drop 56) then none else some (0x17, 0, 0, 0)),
     dupRej fs, partsRej fs, scopeRej fs, lockRej fs t.cfg, ownRej s L fs, cascRej s fs t.cfg, chipRej t fs,
     routeRej t L fs, segRej t fs, (if unchecked then none else driverRej t fs)]

/-- The members of the cascade in which the load is coordinated, other than the lead. -/
def wideMembers (s : State) (L : ImgLoad) : List Nat := if L.staged.isSome then otherDevices (inLoadCascade s L) else []

/-- The lead of a cascade-wide load that has passed its own VERIFY: with the last member's report it sends RELEASE(T), 200 µs
ahead, and goes on itself (R432). -/
def leadReleases (s : State) (L : ImgLoad) : State :=
  if phase s = 4 ∧ L.staged.isSome ∧ (wideMembers s L).all fun d => L.verified.contains (BitVec.ofNat 4 d) then
    let t := now s + 20000
    let s := viaStaged s L fun s => fromLead s ctlRelease (BitVec.ofNat 64 t)
    setPhase { s with img := some { L with relTick := some t } } 5
  else { s with img := some L }

/-- The CASCADE record that stands on this device: that of an image that has passed VERIFY, else the one in force (R430). -/
def identRec (s : State) : Cascade :=
  match s.img.bind ImgLoad.staged with
  | some c => if c.cascade.role = 0 then s.cfg.cascade else c.cascade
  | none => s.cfg.cascade

/-- The lead's device index as this device knows it under record c. -/
def leadUnder (s : State) (c : Cascade) : Nat :=
  if c.role = 2 then (s.rein.leadSeen.getD 0).toNat else (c.w.toNat + 1) * c.posY.toNat + c.posX.toNat

/-- IDENT as this device sends it: index, straps and, once an image has passed VERIFY, its record (R430). -/
def sendIdent (s : State) (c : Cascade) (p : Nat) : State :=
  let i := if c.role = 0 then myIdx s else (c.w.toNat + 1) * c.posY.toNat + c.posX.toNat
  emit s (.rein p ctlIdent (BitVec.ofNat 64
    (i * 2 ^ 20 + s.rein.posX.toNat * 2 ^ 18 + s.rein.posY.toNat * 2 ^ 16 + b2n s.rein.leads * 2 ^ 15
      + (if c.role = 0 then 0 else 2 ^ 14 + (16 * c.w.toNat + c.h.toNat) * 16 + leadUnder s c))))

/-- The lead, and a device whose TIMEBASE follows it, carries TIMEBASE to its partner on port p (R428, R443). -/
def sendTime (s : State) (p : Nat) : State :=
  if s.rein.leads || rgB s R.REIN_TB R.REIN_TB_ALIGNED then sendCtl s p ctlTime s.timebase else s

/-- The position that R424 gives the partner of port p. -/
def partnerPos (s : State) (p : Nat) : Int × Int :=
  let x : Int := s.rein.posX.toNat
  let y : Int := s.rein.posY.toNat
  match p with | 0 => (x, y - 1) | 1 => (x + 1, y) | 2 => (x, y + 1) | _ => (x - 1, y)

/-- Whether this device's record and the partner's agree in SHAPE and in the lead's position; where one has none yet,
there is nothing to compare. -/
def recordsAgree (s : State) (c : Cascade) (m : IdentMsg) : Bool :=
  match m.record with
  | none => true
  | some (shape, lead) => c.role == 0 || (shape.toNat == 16 * c.w.toNat + c.h.toNat && lead.toNat == leadUnder s c)

/-- The partner's IDENT is judged under record c (R430): position, record, lead. A port that passes goes UP, or DEGRADED on
one group of lanes; one that fails enters MISMATCH. -/
def judgeIdent (s : State) (c : Cascade) (p : Nat) (m : IdentMsg) : State :=
  let far : Option (BitVec 4) := if m.lead then some m.dev else m.record.map (·.2)
  let twoLeads := (m.lead && s.rein.leads) || match far, s.rein.leadSeen with | some d, some e => d != e | _, _ => false
  if portState s p = portDown then s
  else if ((m.posX.toNat : Int), (m.posY.toNat : Int)) ≠ partnerPos s p then setPort s p portMismatch 3
  else if !recordsAgree s c m then setPort s p portMismatch 4
  else if twoLeads then setPort s p portMismatch 5
  else
    let s : State := match far with | some d => { s with rein := { s.rein with leadSeen := some d } } | none => s
    if portUsable s p then s
    else if rgF s (R.REIN_LANE p) R.REIN_LANE_GROUP = 0 then sendTime (setPort s p portUp 0) p
    else sendTime (setB (setPort s p portDegraded 0) (R.REIN_STATUS p) R.REIN_STATUS_DEGEV true) p

/-- An image has passed VERIFY: its CASCADE record goes out in IDENT, and the partners' records are held against it (R430). -/
def showRecord (s : State) (L : ImgLoad) : State :=
  if L.partial_ then s else
  let c := loadCascade s L
  let s := (List.range 4).foldl (fun s p => if 3 ≤ portState s p ∧ portState s p ≠ 5 then sendIdent s c p else s) s
  s.rein.idents.foldl (fun s e => judgeIdent s c e.1 e.2) s

/-- VERIFY after the last frame: a rejection, or the staged settings, for which every position finds a holder; in a
cascade-wide load a member then reports and waits for RELEASE, and the lead waits for the reports (R65-R67, R430, R432). -/
def verifyLoad (s : State) (L : ImgLoad) (fs : List (List Byte)) : State :=
  let s := setPhase s 4
  let c := stage s L fs
  let t := withMap { s with cfg := c } L.affected (ownerOf fs)
  let unchecked := rgB s R.IMG_CTRL R.IMG_CTRL_UNCHECKED
  match verifyRej s t L fs unchecked with
  | some r => failLoad s L r
  | none =>
    match sparing s L c with
    | .error r => failLoad s L r
    | .ok _ =>
      let s := match driverRej t fs with
        | some r => setB (setErr s r) R.IMG_STATUS R.IMG_STATUS_DD true
        | none => s
      let L := { L with frames := fs, staged := some c, owner := ownerOf fs, verTick := now s,
                        digest := BitVec.ofNat 384 (fv (imgTrailer s L.count 56) 8 48) }
      let L := { L with wide := wideLoad s L, leads := leadsLoad s L }
      let s := showRecord { s with img := some L } L
      if !L.wide then setPhase s 5
      else if L.leads then leadReleases s L
      else viaStaged s L fun s =>
        L.verified.foldl (fun s d => toLead s ctlVerified (d.setWidth 64)) (toLead s ctlVerified (BitVec.ofNat 64 (myIdx s)))

/-- IMAGE_FRAME (R43): one frame is read, checked and staged; after the last one, VERIFY. -/
def execImageFrame (s : State) : Host.Outcome State Fault Refusal :=
  .next (match s.img with
    | none => s
    | some L =>
      if phase s ≠ 3 then s else
      let n := L.frames.length
      let f := imgFrame s n
      match frameRej L.v1 (!L.v1 && !L.partial_) L.partMask.toNat n f with
      | some r => failLoad s L r
      | none =>
        let fs := L.frames ++ [f]
        if n + 1 < L.count then { s with img := some { L with frames := fs } } else verifyLoad s L fs)

/-! ### APPLY and RELEASE (R67, R70, R75-R77, R370) -/

/-- The CIC sources of the partitions concerned take PEND = 0, ACT = 0, MASK = 1 and their routes from the image or the
default; a full load routes every source (R60, R454, R458). -/
def applyRoutes (s : State) (c : Settings) (mine : Nat → Bool) (full : Bool) : State :=
  (List.range 1024).foldl (fun s i =>
    if !cicExists i then s else
    let m := mine i
    let s := if m then
        let k : Fld := ⟨i % 64, i % 64⟩
        setF (setF (setF s (R.CIC_PEND (i / 64)) k 0) (R.CIC_ACT (i / 64)) k 0) (R.CIC_MASK (i / 64)) k 1
      else s
    if full || m then
      setRg s (R.CIC_ROUTE i) (if mapHas i c.irq then (mapGet 0 i c.irq).toNat else routeReset i) else s) s

/-- Divider, curve and point of a region that a load assigns (R55, R465-R468). -/
def applyClock (s : State) (c : Settings) (g : Nat) : State :=
  let r := mapGet ({} : RegionCfg) g c.regions
  let a := R.PC_RGN g
  let s := setF (setF (setF s a R.PC_RGN_TDIV r.adiv.toNat) a R.PC_RGN_CURVE r.curve.toNat) a R.PC_RGN_PMAX (pmaxOf s g)
  let s := setB s a R.PC_RGN_MLOW false
  { s with pwr := { s.pwr with fall := mapErase g s.pwr.fall, wait := mapErase g s.pwr.wait, switch := mapErase g s.pwr.switch } }

/-- The divider in use of region g after APPLY: the slowest that any region that shares it is held to. -/
def applyDiv (s : State) (g : Nat) : State :=
  let k := ((divMates s g).map (allowedGrp s)).foldl min 3
  let s : State := { s with pwr := { s.pwr with wait := mapErase g s.pwr.wait, switch := mapErase g s.pwr.switch } }
  setF (setF s (R.PC_RGN g) R.PC_RGN_ADIV (3 - k)) (R.PC_RGN g) R.PC_RGN_POINT (lowPoint k)

/-- The store of a block in its window: cells, scratchpad and turn memory, column map. -/
def storeKey (b : Nat) (k : Nat) : Bool := k / 16384 == b
def storeMem (b : Nat) (k : Nat) : Bool := decide (bwin b ≤ 2 * k) && decide (2 * k < bwin b + 0x1000000)

/-- What the store of block b holds becomes that of block d, in whose place it stands from now on: planes, memories, column
map, customer store and dispatch entries (R75). -/
def moveStore (s : State) (b d : Nat) : State :=
  let carried {α : Type} (p q : Nat → Bool) (f : Nat → Nat) (m : List (Nat × α)) : List (Nat × α) :=
    (mapOnly p m).foldl (fun m e => mapPut (f e.1) e.2 m) (mapDrop (fun k => p k || q k) m)
  let v := rg s (R.ARR_COLMAP b)
  let t := if d < 128 then takeMap s d v else setRg s (R.ARR_COLMAP d) v
  let t : State := { t with
    cs := carried (csKey b) (csKey d) (fun k => 16384 * d + k % 16384) s.cs
    dt := carried (dtKey b) (dtKey d) (fun k => 256 * d + k % 256) s.dt
    dtBad := (s.dtBad.filter fun k => !dtKey d k && !dtKey b k) ++ (s.dtBad.filter (dtKey b)).map fun k => 256 * d + k % 256 }
  { setRg t (R.CS_FP d) (csFp t d) with
    cells := carried (storeKey b) (storeKey d) (fun k => 16384 * d + k % 16384) s.cells
    mem := carried (storeMem b) (storeMem d) (fun k => bwin d / 2 + (k - bwin b / 2)) s.mem
    flaws := carried (fun w => storeMem b (8 * w)) (fun w => storeMem d (8 * w)) (fun w => bwin d / 16 + (w - bwin b / 16)) s.flaws }

/-- The holders of APPLY are in force, s0 being the state before it: a position that stands on another physical block finds
what that one's memories hold (R75: contents kept), and the one it has left keeps its own. -/
def rehome (s0 s : State) : State :=
  let moved := (List.range 128).filterMap fun b => match ownPhys s0 b, ownPhys s b with
    | some p, some q => if p = q then none else some (b, p, q)
    | _, _ => none
  let s := moved.foldl (fun s m => moveStore s m.1 (idleBlk m.2.1)) s
  moved.foldl (fun t m => cicRise s0 (showTwinStop (moveStore t (idleBlk m.2.2) m.1) m.1) (64 + m.1)) s

/-- IMAGE_APPLY (R76): the sparing map is computed and the staged settings are written, the planes of affected holders that are not in L5 are cleared, and
the routers under load begin their credit hold. -/
def execImageApply (s : State) : Host.Outcome State Fault Refusal :=
  .next (match s.img with
    | none => s
    | some L =>
      match L.staged with
      | none => s
      | some c =>
        if phase s ≠ 5 then s else
        match sparing s L c with
        | .error r => failLoad s L r
        | .ok maps =>
        let gs := (List.range 16).filter L.affected.getLsbD
        let before := s
        let ns := (L.owner.map fun e => e.2).eraseDups
        let s := L.replaced.foldl (fun s n => setRg s (R.IMG_PVER n) 0) s
        let s := withMap { s with cfg := c } L.affected L.owner
        let s := ns.foldl (fun s n => setRg s (R.IMG_PVER n) L.version.toNat) s
        let touched (t : State) (i : Nat) : Bool :=
          match cicOwner t i with | some n => L.replaced.contains n || ns.contains n | none => false
        let after := s
        let s := applyRoutes s c (fun i => touched before i || touched after i) (!L.partial_)
        let s := rehome before (maps.foldl (fun s e => setRg s (R.BSW_MAP e.1) e.2.toNat) s)
        let s : State := { s with foldHome := s.foldHome.filter fun e => !gs.contains (e.1 / 8) || holderCode s e.1 / 16 == 2 }
        let s := ((List.range 128).filter fun b => gs.contains (b / 8)).foldl showSeqId s
        let s := gs.foldl (fun s g => if assigned s g then applyClock s c g else s) s
        let s := (List.range 16).foldl (fun s g => if assigned s g && (divMates s g).any L.affected.getLsbD then applyDiv s g else s) s
        let s := commandVolt s
        let s := if L.partial_ then s else applyCascade s
        let s := gs.foldl (fun s g => if assigned s g then s else setRg s (R.ORN_GEOM g) 0) s
        let s := ns.foldl (fun s n => regeom s n false) s
        let clear (k : Nat) : Bool := gs.contains (k / 16384 / 8) && blockCur s (k / 16384) != 5
        let s := { s with cells := mapDrop clear s.cells }
        let s := ((List.range 128).filter fun b => gs.contains (b / 8)).foldl csKeep s
        let s := freeTags s fun q => match domainOf s (targetOf s q.addr) with | some d => gs.contains d.1 | none => false
        let s := gs.foldl (fun s g => setB { s with mesh := { s.mesh with recfg := mapPut g s.nclk s.mesh.recfg } }
          (R.RT_LINK g) R.RT_LINK_RECFG true) s
        setPhase s 6)

/-- The requests for targets of router r that keep the configuration now in force: those that wait before them, and those whose
head flits stand in its queues (R370). -/
def keepOld (s : State) (r : Nat) : State :=
  let heads := s.mesh.queues.flatMap fun e => if e.1 / 32 = r then e.2.filterMap fun x => headReq s x.f else []
  let ids := heads.map MeshReq.id
  let mine (q : MeshReq) : Bool := q.old.isNone && routerFor (targetOf s q.addr) == r && (ids.contains q.id || q.seq != 0)
  let old := (BitVec.ofNat 10 (rgF s (R.RT_ISO r) R.RT_ISO_ISO), BitVec.ofNat 10 (rgF s (R.GW_SLUICE r) R.GW_SLUICE_POL))
  { s with mesh := { s.mesh with flight := s.mesh.flight.map fun q => if mine q then { q with old := some old } else q } }

/-- ROUTER_RECONFIG (R370): once its queues are empty, or 2,400 NCLK after it began to withhold credits, the router at (x, y)
takes its isolation and its Sluice policy and returns the credits. A spare that it has lent follows the borrower's policy, and
a running borrower's stays (R78; log entry 26). -/
def execRouterReconfig (x : Fin 6) (y : Fin 4) (s : State) : Host.Outcome State Fault Refusal :=
  let g := routerAt x y
  let since := mapGet s.nclk g s.mesh.recfg
  let empty := s.mesh.queues.all fun e => e.1 / 32 != g || e.2.isEmpty
  .next (if !rgB s (R.RT_LINK g) R.RT_LINK_RECFG || !(empty || decide (since + 2400 ≤ s.nclk)) then s else
    let s := keepOld s g
    let s := setB s (R.RT_LINK g) R.RT_LINK_RECFG false
    let s := setF s (R.RT_LINK g) R.RT_LINK_HOLDMAX (max (min 65535 (s.nclk - since)) (rgF s (R.RT_LINK g) R.RT_LINK_HOLDMAX))
    let s := { s with mesh := { s.mesh with recfg := mapErase g s.mesh.recfg } }
    if 16 ≤ g then s else
    let s := setF s (R.RT_ISO g) ⟨9, 1⟩ (rgF s (R.BSW_MAP g) R.BSW_MAP_DEAD)
    let polOf (h : Nat) : Nat := match partOfRegion s h with | some n => (partCfg s n).sluice.toNat | none => 0
    let spare := match blockOfPhys s (9 * g + 8) with
      | some b => if b / 8 = g then polOf g % 2
        else if underLoad s (b / 8) then polOf (b / 8) % 2 else b2n ((rgF s (R.GW_SLUICE g) R.GW_SLUICE_POL).testBit 8)
      | none => polOf g % 2
    sweepIso (setF s (R.GW_SLUICE g) R.GW_SLUICE_POL (polOf g % 2 * 255 + spare * 256 + polOf g / 2 * 512)))

/-- A domain enters its release state, with its Sluice state; a wake from L5 clears what it lost (R57, R77, R327). -/
def releaseDom (s : State) (d v : Nat) : State :=
  let old := domCur s d
  let s := setDom (stopDom s d) d v
  let s := match sluiceOf d with
    | some (g, j) => if v < 4 then liftFence s g j else setSluice s g j 4
    | none => s
  if old = 5 ∧ v < 5 then
    (if d < 144 then blockWoken s d
     else if d < 160 then gatewayWoken s (d - 144)
     else if d < 168 then controllerWoken s (d - 160) else s)
  else s

/-- The domains of region g at release: blocks to their PWR state and a FREE spare to SPARE_PWR; all to L5 when the region
is unassigned (R51, R56, R77). A spare that a running partition has borrowed stays as it is (R78); other domains that the
load has fenced go on in their state. Where positions folded onto one another share a holder, the last one's PWR stands: the
model's choice (log entry 26). -/
def releaseRegion (s : State) (g : Nat) : State :=
  let lent := match blockOfPhys s (9 * g + 8) with | some b => b / 8 != g | none => false
  if assigned s g then
    let s := (List.range 9).foldl (fun s j => if sluiceSt s g j = 3 && !(j == 8 && lent) then liftFence s g j else s) s
    let s := releaseDom s (144 + g) 0
    let s := (List.range 8).foldl (fun s k => match holder s (8 * g + k) with
      | some p => releaseDom s p (mapGet 0 (8 * g + k) s.cfg.pwr).toNat
      | none => s) s
    if rgF s (R.BSW_MAP g) R.BSW_MAP_SPARE_ST = 0 then
      releaseDom s (9 * g + 8) (mapGet ({} : RegionCfg) g s.cfg.regions).sparePwr.toNat else s
  else releaseDom (((List.range 9).filter fun j => j != 8 || !lent).foldl (fun s j => releaseDom s (9 * g + j) 5) s) (144 + g) 5

/-- The chip's domains at the release of a full load (R58, R59, R431). -/
def releaseChip (s : State) : State :=
  let s := (List.range 8).foldl (fun s k => releaseDom s (160 + k) (mapGet 0 k s.cfg.chip).toNat) s
  let s := releaseDom s 173 (mapGet 0 8 s.cfg.chip).toNat
  (List.range 4).foldl (fun s p => releaseDom s (169 + p) (if s.cfg.cascade.ports.getLsbD p then 0 else 5)) s

/-- A borrowed spare that no position stands on any more goes on as it was before the load fenced it. -/
def freeSpares (s : State) (L : ImgLoad) : State :=
  (List.range 16).foldl (fun s h => if !L.affected.getLsbD h && !heldRegion s h && sluiceSt s h 8 == 3
      && !mapHas (9 * h + 8) s.pwr.goal then liftFence s h 8 else s) s

/-- A controller that serves a region which a partial load has assigned leaves L5 (R59). -/
def wakeControllers (s : State) : State :=
  (List.range 8).foldl (fun s k => if domCur s (160 + k) = 5 && (assigned s (2 * k) || assigned s (2 * k + 1)) then
    releaseDom s (160 + k) 0 else s) s

/-- A partition starts at T_rel: its blocks leave reset halted, its pins and lanes return, its first epoch begins (R75,
R77, R376). -/
def releasePart (s : State) (n t : Nat) : State :=
  let p := partCfg s n
  let s := unstop s n
  let s := (blocksOf s n).foldl (fun s b => haltSeq s b 7) s
  let s := (List.range 16).foldl (fun s i => if p.gpio.getLsbD i then setRg s (R.GPIO_CFG i) (regReset (R.GPIO_CFG i)).toNat else s) s
  let s := (List.range 4).foldl (fun s i => if p.rein.getLsbD i then setF s (R.REIN_STATUS i) R.REIN_STATUS_STATE 2 else s) s
  let s := setF (setF s (R.EP_STAT n) R.EP_STAT_EPOCH 0) (R.EP_STAT n) R.EP_STAT_STATE 1
  let s := if cascadePart s n then { s with rein := { s.rein with prepared := none, unacked := none, ready := [] } } else s
  { s with epochs := mapPut n { next := t + p.epochMs * 100000, com := some (takeSnap s n) } s.epochs }

/-- IMAGE_RELEASE (R77): once the routers have reconfigured, and at tick T of a cascade-wide load, the affected regions
are released together. -/
def execImageRelease (s : State) : Host.Outcome State Fault Refusal :=
  .next (match s.img with
    | none => s
    | some L =>
      let gs := (List.range 16).filter L.affected.getLsbD
      let early := match L.relTick with | some t => decide (now s < t) | none => false
      if phase s != 6 || early || gs.any (fun g => rgB s (R.RT_LINK g) R.RT_LINK_RECFG) then s else
      let free := gs.filter (assigned s)
      let ns := (L.owner.map fun e => e.2).eraseDups
      let s := freeSpares (gs.foldl releaseRegion s) L
      let s := if L.partial_ then wakeControllers s else releaseChip s
      let s := free.foldl (fun s g => setF s R.IMG_STATUS ⟨32 + g, 32 + g⟩ 0) s
      let s := ns.foldl (fun s n => releasePart s n (L.relTick.getD (now s))) s
      let s := (List.range 6).foldl (fun s i => setRg s (R.IMG_DIGEST i) (L.digest.toNat / 2 ^ (64 * (5 - i)) % 2 ^ 64)) s
      let s : State := { s with rein := { s.rein with released := true } }
      let s1 := setB (setB s R.IMG_STATUS R.IMG_STATUS_SIGNED L.signed) R.IMG_STATUS R.IMG_STATUS_DONE true
      let s2 := cicRise s s1 0
      let s3 := setB (setPhase s2 0) R.IMG_STATUS R.IMG_STATUS_BUSY false
      endLoad s3 0 0 0 (rg s3 R.IMG_STATUS))

end Sys2Proof.Machine
end

