-- ==== Sys2Proof/Machine/Irq.lean ====
section
/-! DEFINITION. The block and chip interrupt controllers and the Wellhead (chapter 14). -/

namespace Sys2Proof.Machine

/-! ### Block interrupt controller (R447-R452) -/

/-- PEND of the existing sources of v set in block b; outside tells a write of an agent outside the block's partition,
which a rollback keeps (R383). -/
def bicPendSetOp (s : State) (b v : Nat) (outside : Bool) : State :=
  let m := Nat.land v bicAll
  let s := setRg s (R.BIC_PEND b) (Nat.lor (rg s (R.BIC_PEND b)) m)
  let raise (c : Snap) : Snap :=
    { c with regs := mapSet 0 (R.BIC_PEND b) (mapGet 0 (R.BIC_PEND b) c.regs ||| BitVec.ofNat 64 m) c.regs }
  forwardIrqs (match partOf s b with
  | some n => if outside then updEpoch s n fun e => { e with com := e.com.map raise, alt := e.alt.map raise } else s
  | none => s)

/-- BIC_PEND_SET (R447): a write by the block's own partition. -/
def execBicPendSet (b : Blk) (v : Word) (s : State) : Host.Outcome State Fault Refusal :=
  .next (bicPendSetOp s b.toNat v.toNat false)

/-- PEND, or MASK, of the sources of v cleared or set. -/
def bicPendClrOp (s : State) (b v : Nat) : State :=
  setRg s (R.BIC_PEND b) (Nat.land (rg s (R.BIC_PEND b)) (2 ^ 64 - 1 - Nat.land v (2 ^ 64 - 1)))
def bicMaskSetOp (s : State) (b v : Nat) : State :=
  setRg s (R.BIC_MASK b) (Nat.lor (rg s (R.BIC_MASK b)) (Nat.land v bicAll))
def bicMaskClrOp (s : State) (b v : Nat) : State :=
  setRg s (R.BIC_MASK b) (Nat.land (rg s (R.BIC_MASK b)) (2 ^ 64 - 1 - Nat.land v bicAll))

/-- BIC_PEND_CLR (R447). -/
def execBicPendClr (b : Blk) (v : Word) (s : State) : Host.Outcome State Fault Refusal := .next (bicPendClrOp s b.toNat v.toNat)

/-- BIC_MASK_SET (R447). -/
def execBicMaskSet (b : Blk) (v : Word) (s : State) : Host.Outcome State Fault Refusal := .next (bicMaskSetOp s b.toNat v.toNat)

/-- BIC_MASK_CLR (R447). -/
def execBicMaskClr (b : Blk) (v : Word) (s : State) : Host.Outcome State Fault Refusal := .next (bicMaskClrOp s b.toNat v.toNat)

/-- The end of service of source n of block b (R448): nothing when it is not in service. -/
def bicEoiOp (s : State) (b n : Nat) : State :=
  if !(rg s (R.BIC_ACT b)).testBit n then s else
  let s := setF s (R.BIC_ACT b) ⟨n, n⟩ 0
  if bicInput s b n then bicSet s b n else s

/-- BIC_EOI (R448). -/
def execBicEoi (b : Blk) (src : BitVec 6) (s : State) : Host.Outcome State Fault Refusal := .next (bicEoiOp s b.toNat src.toNat)

/-- BIC_CICQ_POP (R455): a read of BIC_CICQ returns and removes the oldest entry. -/
def execBicCicqPop (_i : Initiator) (b : Blk) (s : State) : Host.Outcome State Fault Refusal :=
  let a := R.BIC_CICQ b.toNat
  .next (popCicq (emit s (.regRead a (BitVec.ofNat 64 (readReg s a)))) b.toNat)

/-! ### Chip interrupt controller (R447-R450, R454-R458) -/

/-- Whether initiator i may write the bits of CIC source n (R457). -/
def cicMay (s : State) (i : Initiator) (n : Nat) : Bool :=
  match i with
  | .host f => f.val == 0
  | .awl | .security | .image | .controller => true
  | .seq b => (partOf s b.toNat).isSome && cicOwner s n == partOf s b.toNat
  | .dma b _ => (partOf s b.toNat).isSome && cicOwner s n == partOf s b.toNat
  | .rein _ => false

/-- The bits of v in word w that exist and that initiator i may write. -/
def cicBits (s : State) (i : Initiator) (w v : Nat) : List Nat :=
  ((List.range 64).filter fun k => v.testBit k && cicExists (64 * w + k) && cicMay s i (64 * w + k)).map (· + 64 * w)

/-- A bit of a CIC register word. -/
def cicPut (s : State) (a : Nat → Nat) (n v : Nat) : State := setF s (a (n / 64)) ⟨n % 64, n % 64⟩ v

/-- A pending bit raised by an initiator outside its owner is kept by a rollback (R383). -/
def cicRaised (s : State) (i : Initiator) (n : Nat) : State :=
  if (cicOwner s n).isSome && initPart s i == cicOwner s n then s else cicOutside s n

def cicPendSetOp (s : State) (i : Initiator) (w v : Nat) : State :=
  (cicBits s i w v).foldl (fun s n => cicRaised (cicPut s R.CIC_PEND n 1) i n) s
def cicPendClrOp (s : State) (i : Initiator) (w v : Nat) : State := (cicBits s i w v).foldl (fun s n => cicPut s R.CIC_PEND n 0) s
def cicMaskSetOp (s : State) (i : Initiator) (w v : Nat) : State := (cicBits s i w v).foldl (fun s n => cicPut s R.CIC_MASK n 1) s
/-- DESIGN CHOICE (log 106): R75 masks the sources of a held partition and R447 lets a write of MASK_CLR clear a mask; the spec does
not say which holds when the PF writes it before the release. The write clears the mask. -/
def cicMaskClrOp (s : State) (i : Initiator) (w v : Nat) : State := (cicBits s i w v).foldl (fun s n => cicPut s R.CIC_MASK n 0) s

/-- CIC_PEND_SET (R447). -/
def execCicPendSet (i : Initiator) (w : BitVec 4) (v : Word) (s : State) : Host.Outcome State Fault Refusal :=
  .next (cicPendSetOp s i w.toNat v.toNat)

/-- CIC_PEND_CLR (R447). -/
def execCicPendClr (i : Initiator) (w : BitVec 4) (v : Word) (s : State) : Host.Outcome State Fault Refusal :=
  .next (cicPendClrOp s i w.toNat v.toNat)

/-- CIC_MASK_SET (R447). -/
def execCicMaskSet (i : Initiator) (w : BitVec 4) (v : Word) (s : State) : Host.Outcome State Fault Refusal :=
  .next (cicMaskSetOp s i w.toNat v.toNat)

/-- CIC_MASK_CLR (R447). -/
def execCicMaskClr (i : Initiator) (w : BitVec 4) (v : Word) (s : State) : Host.Outcome State Fault Refusal :=
  .next (cicMaskClrOp s i w.toNat v.toNat)

/-- The end of service of CIC source n (R448). -/
def cicEnd (s : State) (n : Nat) : State :=
  if !(rg s (R.CIC_ACT (n / 64))).testBit (n % 64) then s else
  let s := cicPut s R.CIC_ACT n 0
  if cicInput s n then cicSet s n else s

/-- A write of CIC_EOI by an initiator that may write the source's bits. -/
def cicEoiOp (s : State) (i : Initiator) (n : Nat) : State := if cicMay s i n then cicEnd s n else s

/-- CIC_EOI (R448). -/
def execCicEoi (i : Initiator) (src : BitVec 10) (s : State) : Host.Outcome State Fault Refusal := .next (cicEoiOp s i src.toNat)

/-- A write of CIC_ROUTE (R454, R457): only of chip-owned sources, and TKIND 1 and 3 keep the previous TKIND. -/
def cicRouteOp (s : State) (i : Initiator) (n v : Nat) : State :=
  let may := match i with | .host f => f.val == 0 | .awl | .security | .image | .controller => true | _ => false
  if !may || (cicOwner s n).isSome || !cicExists n then s else
  let a := R.CIC_ROUTE n
  let k := if bits v 21 20 % 2 = 1 then bits (rg s a) 21 20 else bits v 21 20
  setRg s a (putBits (putBits (rg s a) 19 4 (bits v 19 4)) 21 20 k)

/-- CIC_ROUTE_WRITE (R457). -/
def execCicRouteWrite (i : Initiator) (src : BitVec 10) (v : BitVec 32) (s : State) : Host.Outcome State Fault Refusal :=
  .next (cicRouteOp s i src.toNat v.toNat)

/-- TKIND, TGT and HOG of source n. -/
def routeKind (s : State) (n : Nat) : Nat := bits (rg s (R.CIC_ROUTE n)) 21 20
def routeTgt (s : State) (n : Nat) : Nat := bits (rg s (R.CIC_ROUTE n)) 19 9
def routeHog (s : State) (n : Nat) : Nat := bits (rg s (R.CIC_ROUTE n)) 8 4

/-- Source n may be delivered now (R447, R449, R455); an unrouted source is masked (R60). -/
def cicEligible (s : State) (n : Nat) : Bool :=
  cicExists n && routeKind s n != 0 && (rg s (R.CIC_PEND (n / 64))).testBit (n % 64)
    && !(rg s (R.CIC_MASK (n / 64))).testBit (n % 64) && !(rg s (R.CIC_ACT (n / 64))).testBit (n % 64)
    && (rgF s (R.CIC_HOG (routeHog s n)) R.CIC_HOG_PERIOD == 0 || decide (mapGet 0 (routeHog s n) s.irq.cicHog ≤ now s)) && decide (mapGet 0 n s.irq.resend ≤ now s)

/-- The delivery of source n commits (R447, R449, R455, R456, R380, R404). -/
def cicDeliver (s : State) (n : Nat) : State :=
  let s := cicPut s R.CIC_PEND n 0
  let p := rgF s (R.CIC_HOG (routeHog s n)) R.CIC_HOG_PERIOD
  let h := routeHog s n
  let s := { s with irq := { s.irq with
    cicHog := if p = 0 then s.irq.cicHog else mapPut h (now s + p) s.irq.cicHog
    resend := mapErase n s.irq.resend } }
  if routeKind s n = 1 then
    let s := cicPut s R.CIC_ACT n 1
    presentIrq { s with irq := { s.irq with msgs := s.irq.msgs ++ [(routeTgt s n, n)] } } (routeTgt s n) n
  else
    let own := cicOwner s n
    let s := match (if routeKind s n = 2 then some 0 else own.map (· + 1)) with
      | none => s
      | some f => match (if 512 ≤ n then own else none) with
        | some q => hold s q (.msix f (routeTgt s n))
        | none => sendMsix s f (routeTgt s n)
    if cicInput s n then cicSet s n else s

/-- CIC_DELIVERY (R450): the lowest-numbered eligible source. -/
def execCicDelivery (s : State) : Host.Outcome State Fault Refusal :=
  .next (match (List.range 1024).find? (cicEligible s) with | some n => cicDeliver s n | none => s)

/-- Block b answers the IRQ message of source n with a status. -/
def ackIrq (s : State) (b n st : Nat) : State :=
  presentAck { s with irq := { s.irq with acks := s.irq.acks ++ [(n, st)] } } b n st

/-- BIC source 63 of block b, which an agent outside its partition raises, is kept by a rollback (R383). -/
def cicqRise (s0 s : State) (b : Nat) : State :=
  let t := bicRise s0 s b 63
  if bicInput s0 b 63 || !bicInput s b 63 then t else bicPendSetOp t b (2 ^ 63) true

/-- A request that a lifted fence has released before an IRQ message to block b, and that the message must not overtake
(R368). -/
def msgWaits (s : State) (b n : Nat) : Bool :=
  match s.irq.freed.find? fun e => e.2.1 == b && e.2.2.1 == n with
  | none => false
  | some e => s.mesh.flight.any fun r =>
      r.freed && decide (r.seq < e.2.2.2) && (gateOf (targetOf s r.addr) == some (e.1 / 10) || domainOf s (targetOf s r.addr) == some (e.1 / 10, e.1 % 10))

/-- The IRQ message of source n is at the fence point of block b (R366-R369, R455). -/
def irqArrives (s : State) (b n : Nat) : State :=
  if s.irq.msgs.find? (fun m => m.1 == b) ≠ some (b, n) || msgWaits s b n then s else
  let s' := { s with irq := { s.irq with msgs := s.irq.msgs.erase (b, n)
                                         freed := s.irq.freed.filter fun e => !(e.2.1 == b && e.2.2.1 == n) } }
  match fenceFor s (.block b 0x780200) with
  | some (g, j) =>
    if (rgF s (R.GW_SLUICE g) R.GW_SLUICE_POL).testBit j && !heldRegion s (b / 8) then
      if bufferFull s g j then s
      else
        let k := s'.mesh.nextSeq
        let s' := { s' with irq := { s'.irq with held := s'.irq.held ++ [(10 * g + j, b, n, k)] }
                            mesh := { s'.mesh with nextSeq := k + 1 } }
        wakeDom (showHeld s' g) (domainNo g j)
    else ackIrq s' b n 2
  | none =>
    if heldRegion s (b / 8) then ackIrq s' b n 2 else
    let q := mapGet [] b s'.irq.cicq
    if 16 ≤ q.length then ackIrq s' b n 1
    else
      let t := endHush { s' with irq := { s'.irq with cicq := mapPut b (q ++ [BitVec.ofNat 10 n]) s'.irq.cicq } } b
      ackIrq (forwardIrqs (cicqRise s' t b)) b n 0

/-- CIC_IRQ_MESSAGE (R358, R366-R369, R455): the oldest IRQ message to a block reaches its fence point and its BIC_CICQ. -/
def execCicIrqMessage (b : Blk) (src : BitVec 10) (s : State) : Host.Outcome State Fault Refusal :=
  .next (irqArrives s b.toNat src.toNat)

/-- The IRQACK of source n with a status has come to the CIC (R455): a refused source returns to PEND; without a hold-off window
it waits 1,000 ticks. -/
def ackArrives (s : State) (n st : Nat) : State :=
  if !s.irq.acks.contains (n, st) then s else
  let s := { s with irq := { s.irq with acks := s.irq.acks.erase (n, st) } }
  if st = 0 then s else
  let s := cicSet (cicPut s R.CIC_ACT n 0) n
  if rgF s (R.CIC_HOG (routeHog s n)) R.CIC_HOG_PERIOD = 0 then
    { s with irq := { s.irq with resend := mapPut n (now s + 1000) s.irq.resend } } else s

/-- IRQACK (R455). -/
def execIrqack (src : BitVec 10) (st : BitVec 2) (s : State) : Host.Outcome State Fault Refusal :=
  .next (ackArrives s src.toNat st.toNat)

/-- CIC_RESEND_TIMER (R455): the 1,000 ticks of a refused source have passed. -/
def execCicResendTimer (src : BitVec 10) (s : State) : Host.Outcome State Fault Refusal :=
  .next (if mapHas src.toNat s.irq.resend && decide (mapGet 0 src.toNat s.irq.resend ≤ now s) then
    { s with irq := { s.irq with resend := mapErase src.toNat s.irq.resend } } else s)

/-! ### Wellhead (R459) -/

/-- WELLHEAD_EVENT (R459). -/
def execWellheadEvent (e : WakeEvent) (s : State) : Host.Outcome State Fault Refusal := .next (wellhead s e)

/-- Timer t of the Wellhead starts: it expires after PERIOD µs, 100 ticks each (R459). -/
def whStart (s : State) (t : Nat) : State :=
  { s with irq := { s.irq with wh := mapPut t (100 * rgF s (R.WH_TMR t) R.WH_TMR_PERIOD) s.irq.wh } }

/-- Timer t of the Wellhead stands still. -/
def whStop (s : State) (t : Nat) : State := { s with irq := { s.irq with wh := mapErase t s.irq.wh } }

/-- WH_TMR of timer t written: it starts when EN becomes 1 and stops when EN becomes 0 (log entry 108). -/
def whTmrWrite (s : State) (t m v : Nat) : State :=
  let was := rgB s (R.WH_TMR t) R.WH_TMR_EN
  let s1 := writePlain s (R.WH_TMR t) m v
  let on := rgB s1 (R.WH_TMR t) R.WH_TMR_EN
  if on && !was then whStart s1 t else if !on then whStop s1 t else s1

/-- The Wellhead's timers count one tick, whether TIMEBASE counts or not. -/
def whTick (s : State) : State :=
  if s.irq.wh.isEmpty then s else
  { s with irq := { s.irq with wh := s.irq.wh.map fun e => (e.1, e.2 - 1) } }

/-- WH_TIMER_EXPIRY (R459): the time of timer t has passed; a periodic timer runs on. -/
def execWhTimerExpiry (t : BitVec 1) (s : State) : Host.Outcome State Fault Refusal :=
  let a := R.WH_TMR t.toNat
  .next (if rgB s a R.WH_TMR_EN && mapHas t.toNat s.irq.wh && mapGet 0 t.toNat s.irq.wh == 0 then
    wellhead (if rgB s a R.WH_TMR_PER then whStart s t.toNat else whStop s t.toNat) (.timer t)
  else s)

end Sys2Proof.Machine
end

