-- ==== Sys2Proof/Machine/Micro.lean ====
section
/-! DEFINITION. The micro-engine, the control store and the cell's microword cycle (R84-R121, R276-R306). -/

namespace Sys2Proof.Machine

/-! ### Stitch ports (R523, R524, R529) -/

/-- A trace packet. -/
def tracePkt (time kind blk port data : Nat) : Nat :=
  (time % 2 ^ 48 * 2 ^ 80 + kind * 2 ^ 78 + blk * 2 ^ 71 + port * 2 ^ 66 + data % 2 ^ 64)

/-- A write of v to Stitch port k of block b; a packet that finds no credit is counted and a LOST packet tells of it. -/
def stitchOp (s : State) (b k v : Nat) (credit : Bool) : State :=
  if !(rg s (R.STITCH_CTRL b)).testBit k || !rgB s R.TR_CTRL R.TR_CTRL_EN then s
  else if !credit then updSeq s b fun q => { q with lost := q.lost + 1 }
  else
    let n := (seqOf s b).lost
    let s := if n = 0 then s else
      tracePut (updSeq s b fun q => { q with lost := 0 }) (tracePkt (now s) 1 b k n)
    tracePut s (tracePkt (now s) 0 b k v)

/-! ### The control store (R20, R276-R282, R306) -/

/-- Whether the fetch of block b's program takes the cycles of b's control store. -/
def fetching (s : State) (b : Nat) : Bool :=
  let p := programOf s b
  executing s p && (seqOf s p).micro.isSome

/-- A write of v to quarter q of word n of block b: words below 12,288 ignore writes; a staged quarter of another word is
discarded (R279). -/
def csStage (s : State) (b n q v : Nat) : State :=
  if n < 12288 ∨ q = 3 then s else
  let old := (seqOf s b).stage
  let lost := match old with | some o => o.1.toNat != n | none => false
  let s := if lost then setB s (R.MC_STATUS b) R.MC_STATUS_STGLOST true else s
  let cur := match old with | some o => if o.1.toNat = n then o.2 else (none, none, none) | none => (none, none, none)
  let v := BitVec.ofNat 64 v
  let new := match q with
    | 0 => (some v, cur.2.1, cur.2.2)
    | 1 => (cur.1, some v, cur.2.2)
    | _ => (cur.1, cur.2.1, some v)
  updSeq s b fun z => { z with stage := some (BitVec.ofNat 14 n, new) }

/-- CS_QUARTER_STAGE (R279). -/
def execCsQuarterStage (b : Blk) (n : BitVec 14) (q : BitVec 2) (v : Word) (s : State) : Host.Outcome State Fault Refusal :=
  .next (csStage s b.toNat n.toNat q.toNat v.toNat)

/-- The commit of word n that a write of its quarter 3 makes, with the quarters staged for it (R279). -/
def csTake (s : State) (b n : Nat) : State × CsPend :=
  let mine := match (seqOf s b).stage with | some o => o.1.toNat == n | none => false
  let st := match (seqOf s b).stage with | some o => if o.1.toNat = n then o.2 else (none, none, none) | none => (none, none, none)
  (if mine then updSeq s b fun q => { q with stage := none } else s,
   { n := BitVec.ofNat 14 n, q0 := st.1, q1 := st.2.1, q2 := st.2.2 })

/-- An access to the control store of block b: it waits while the sequencer's fetch takes the cycles (R18, R20), else it
follows those that waited. -/
def csAccess (s : State) (b : Nat) (p : CsPend) : State :=
  if fetching s b then updSeq s b fun q => { q with csWait := q.csWait ++ [p] } else csApply (csFlush s b) b p

/-- CS_COMMIT (R279). -/
def execCsCommit (b : Blk) (n : BitVec 14) (s : State) : Host.Outcome State Fault Refusal :=
  .next (if n.toNat < 12288 then s else
    let (s, p) := csTake s b.toNat n.toNat
    csAccess s b.toNat p)

/-- An upset strikes the control store of block b at word n, or its dispatch table (log entry 82). -/
def csUpset (s : State) (b n : Nat) (u : CsUpset) : State :=
  match u with
  | .bit k =>
    if n < 12288 then
      { s with csFlip := mapSet 0 (16384 * b + n) (mapGet 0 (16384 * b + n) s.csFlip ^^^ BitVec.twoPow 196 k.val) s.csFlip }
    else
    let v := mapGet (0 : BitVec 196) (16384 * b + n) s.cs
    { s with cs := mapSet 0 (16384 * b + n) (v ^^^ BitVec.twoPow 196 k.val) s.cs }
  | .entry e => { s with dtBad := setAdd (256 * b + e.toNat) s.dtBad }

/-- CS_READ (R280): a read of a quarter of a word, with the upset that has struck since. -/
def execCsRead (b : Blk) (n : BitVec 14) (q : CsQuarterRead) (s : State) : Host.Outcome State Fault Refusal :=
  let s := match q.upset with | some u => csUpset s b.toNat n.toNat u | none => s
  .next (csAccess s b.toNat { n := n, rd := some q.quarter, sec := q.sec })

/-- A write of a dispatch entry (R282). -/
def dtWrite (s : State) (b e : Nat) (whole : Bool) (v : Nat) : State :=
  if e / 16 ≠ 14 then s
  else if !whole then setB s (R.MC_STATUS b) R.MC_STATUS_PARTW true
  else if bits v 13 0 < 0x3000 ∨ v.testBit 62 ∨ bits v 56 14 ≠ 0 then setB s (R.MC_STATUS b) R.MC_STATUS_DTERR true
  else dtSet s b e v

/-- DT_ENTRY_WRITE (R282). -/
def execDtEntryWrite (b : Blk) (e : BitVec 8) (whole : Bool) (v : Word) (s : State) : Host.Outcome State Fault Refusal :=
  .next (dtWrite s b.toNat e.toNat whole v.toNat)

/-! ### Dispatch of a customer instruction (R293) -/

/-- The blocks whose customer store differs from the lead's (R293). -/
def fpDiffer (s : State) (b : Nat) : List Nat := (gang s b).filter fun c => rg s (R.CS_FP c) != rg s (R.CS_FP b)

/-- CUSTOMER_INSTRUCTION (R293): dispatch; the routine then runs by microword cycles. -/
def execCustomerInstruction (b : Blk) (e : BitVec 4) (w : BitVec 24) (s : State) : Host.Outcome State Fault Refusal :=
  let b := b.toNat
  let op := 0xE0 + e.toNat
  let w := wordOf op w
  .next (issue (resumeIdle s b) b w [aD w, aS w, aU w] false fun s =>
    let x := freshCtx s b w
    let ent := dtEntry s b op
    match badEntry s b op with
    | some c => (storeFault s c 2 op, .park)
    | none =>
    if !ent.testBit 63 then (s, .trap 2 w)
    else if !(fpDiffer s b).isEmpty then
      (forEach (fpDiffer s b) (fun s c => setB s (R.MC_STATUS c) R.MC_STATUS_FPMIS true) s, .trapKeep 3 w)
    else if !entryOk ent x then (s, .trap 0x0B w)
    else if ent.testBit 61 && rgB s (R.ARR_SUSP b) R.ARR_SUSP_VALID then (s, .trap 0x0C w)
    else (setMicro (dispatchAway s b x) b (some (microStart s b x ent)), .park))

/-! ### The fields of a microword (R86, R283) -/

def uFS (u : Nat) : Nat := bits u 191 184
def uFC (u : Nat) : Nat := bits u 183 176
def uXSRC (u : Nat) : Nat := bits u 153 151
def uYSRC (u : Nat) : Nat := bits u 150 148
def uDEST (u : Nat) : Nat := bits u 147 145
def uACT (u : Nat) : Nat := bits u 144 143
def uCINIT (u : Nat) : Nat := bits u 142 140
def uIMM (u : Nat) : Nat := bits u 111 96
def uTOP (u : Nat) : Nat := bits u 95 94
def uTAM (u : Nat) : Nat := bits u 89 88
def uKIND (u : Nat) : Nat := bits u 79 78
def uSLOT (u : Nat) : Nat := bits u 73 72
def uNAM (u : Nat) : Nat := bits u 63 60
def uCOND (u : Nat) : Nat := bits u 59 56
def uCSLOT (u : Nat) : Nat := bits u 55 54
def uCLC (u : Nat) : Nat := bits u 53 52
def uTARGET (u : Nat) : Nat := bits u 47 34
def uSOP (u : Nat) : Nat := bits u 19 16

/-- The routine is a customer's: the rules of R301 hold for it. -/
def Micro.cust (m : Micro) : Bool := m.w.toNat / 2 ^ 28 == 14

/-- A plane pointer and a loop counter by number. -/
def Micro.pp (m : Micro) : Nat → Nat
  | 0 => m.pp0.toNat | 1 => m.pp1.toNat | 2 => m.pp2.toNat | _ => m.pp3.toNat
def Micro.setPp (m : Micro) (n v : Nat) : Micro :=
  let v := BitVec.ofNat 11 v
  match n with | 0 => { m with pp0 := v } | 1 => { m with pp1 := v } | 2 => { m with pp2 := v } | _ => { m with pp3 := v }
def Micro.lc (m : Micro) : Nat → Nat
  | 0 => m.lc0.toNat | 1 => m.lc1.toNat | 2 => m.lc2.toNat | _ => m.lc3.toNat
def Micro.setLc (m : Micro) (n v : Nat) : Micro :=
  let v := BitVec.ofNat 16 v
  match n with | 0 => { m with lc0 := v } | 1 => { m with lc1 := v } | 2 => { m with lc2 := v } | _ => { m with lc3 := v }

/-- The effective planes P and Q (R284). -/
def effP (m : Micro) (u : Nat) : Nat := (bits u 175 165 + if u.testBit 127 then m.pp (bits u 126 125) else 0) % 2048
def effQ (m : Micro) (u : Nat) : Nat := (bits u 164 154 + if u.testBit 124 then m.pp (bits u 123 122) else 0) % 2048

/-- A reserved code stands in some field (R93, R298). DESIGN CHOICE (log 103): the reserved GCIN code counts in a serial block and
with GEN = 0 too, where R107 says that GCIN is ignored. -/
def reservedCode (u : Nat) : Bool :=
  uYSRC u == 7 || uDEST u == 7 || uACT u == 3 || decide (4 < uCINIT u) || bits u 134 133 == 3 || bits u 77 76 == 3
    || decide (3 < bits u 119 117) || decide (11 < uSOP u) || uTAM u == 3 || decide (10 < uNAM u) || decide (6 < uCOND u)

/-- The modes that name TARGET. -/
def usesTarget (n : Nat) : Bool := decide (1 ≤ n) && decide (n ≤ 6)

/-- COND (R290), slots complete. -/
def condTrue (s : State) (b : Nat) (m : Micro) (u : Nat) : Bool :=
  match uCOND u with
  | 0 => true
  | 1 => (slotOf s b (uCSLOT u)).word.getLsbD 63
  | 2 => bits (slotOf s b (uCSLOT u)).word.toNat 31 0 != 0
  | 3 => m.lc (uCLC u) == 0
  | 4 => m.sz
  | 5 => m.sn
  | _ => m.sc

/-- Where a microword goes: its next micro-PC, none when it ends the instruction (R290). -/
def nextUpc (s : State) (b : Nat) (m : Micro) (u : Nat) : Option Nat :=
  let inc := m.upc.toNat + 1
  let t := uTARGET u
  match uNAM u with
  | 0 => some inc
  | 1 => some t
  | 2 => some (if condTrue s b m u then t else inc)
  | 3 => some (if condTrue s b m u then inc else t)
  | 4 => some (if 1 < m.lc (uCLC u) then t else inc)
  | 5 => if 1 < m.lc (uCLC u) then some t else none
  | 6 => some t
  | 7 => some ((m.stack.head?.getD 0).toNat)
  | 8 => none
  | 9 => if condTrue s b m u then none else some inc
  | _ => none

/-- An illegal microword: a reserved code, or a breach of R288, R291 or R292. -/
def illegalUw (s : State) (b : Nat) (m : Micro) (u : Nat) : Bool :=
  reservedCode u
    || ((uNAM u == 4 || uNAM u == 5) && bits u (27 + 2 * uCLC u) (26 + 2 * uCLC u) != 0)
    || (uNAM u == 6 && (m.stack.length == 4 || m.upc == 16383)) || (uNAM u == 7 && m.stack.isEmpty)
    || (match nextUpc s b m u with | some n => decide (16383 < n) | none => false)
    || (u.testBit 5 && uFS u != 0)

/-- A breach of the rules for customer routines (R301). -/
def custBreach (s : State) (b : Nat) (m : Micro) (u : Nat) : Bool :=
  (usesTarget (uNAM u) && decide (uTARGET u < 12288))
    || (match nextUpc s b m u with | some n => decide (n < 12288) | none => false)
    || (uDEST u == 0 && ((decide (2032 ≤ effQ m u) && decide (effQ m u ≤ 2039)) || effQ m u == 2047))
    || uTOP u == 3 || (uNAM u == 10 && m.mark) || (u.testBit 25 && !m.rsm)

/-- The microword waits for a result slot (R110, R286, R291), or to issue a request of its own (R113). -/
def slotWait (s : State) (b u : Nat) : Bool :=
  (u.testBit 71 && slotBusy s b (bits u 70 69)) || (uSOP u == 10 && slotBusy s b (uIMM u % 4))
    || ((uCOND u == 1 || uCOND u == 2) && ([2, 3, 9].contains (uNAM u)) && slotBusy s b (uCSLOT u))
    || (uKIND u != 0 && slotBusy s b (uSLOT u))

/-! ### The cell cycle (R87-R92, R106-R109, R289) -/

/-- What a cycle gives every cell: the state at its start, the microword, effective planes, the table FS, the row
group and the turn-memory line when one moves. -/
structure UCycle where
  s : State
  u : Nat
  p : Nat
  q : Nat
  fs : Nat
  line : Nat
  /-- the first of the free planes of this cycle: for each block one for undefined net and link values, one for plane 2047
  (R96), one for what a turn by the turning network brings (R289) -/
  k : Nat

/-- Plane p of a cell as a cycle reads it: the value of plane 2047 is undefined (R96). -/
def uPlane (z : UCycle) (c i p : Nat) (y : Cell) : Bool :=
  if p = 2047 then (Config.freePlane (z.k + 128 + c)).getLsbD i else y.plane p

/-- Whether cell i lies in the row group of the turn control. -/
def inGroup (u i : Nat) : Bool := i / 1024 == bits u 93 90

/-- Byte address and bit of cell i in the turn line (R289). -/
def lineByte (c line i : Nat) : Nat := turnByte c (256 * line) (i % 1024 / 8)

/-- M of cell i of block c. What TURN brings, for which the spec gives vendor routines' words no rule, is free. -/
def cellM (z : UCycle) (c i : Nat) (y : Cell) : Bool :=
  if uTOP z.u = 1 && inGroup z.u i then (memByte z.s.mem (lineByte c z.line i)).getLsbD (7 - i % 8)
  else if uTOP z.u = 3 && inGroup z.u i then (Config.freePlane (z.k + 256 + c)).getLsbD i
  else uPlane z c i z.p y

/-- The ALU's first input and the carry that CINIT names. -/
def aluM (z : UCycle) (c i : Nat) (y : Cell) : Bool :=
  match uYSRC z.u with
  | 0 => cellM z c i y
  | 1 => cellM z c i y
  | 4 => uPlane z c i z.q y
  | 6 => uPlane z c i z.q y
  | _ => y.y
def aluC (u : Nat) (y : Cell) : Bool :=
  match uCINIT u with | 0 => y.c | 1 => false | 2 => true | 3 => y.t | _ => y.a

/-- The carry out of cell i with carry in v. -/
def aluCn (z : UCycle) (c i : Nat) (y : Cell) (v : Bool) : Bool :=
  (uFC z.u).testBit (4 * b2n (aluM z c i y) + 2 * b2n y.x + b2n v)

/-- The carry input of cell i: CINIT, or in a cycle with GEN = 1 the chain from the east end of its group (R107, R108). -/
def carryIn (z : UCycle) (c i : Nat) (y : Cell) : Bool :=
  let w := gangWidth z.s c
  if !z.u.testBit 135 || w == 1 then aluC z.u y else
  let r := i - i % w
  let lsb := r + w - 1
  let c0 := match bits z.u 134 133 with
    | 1 => (cellAt z.s c r).c
    | 2 => (cellAt z.s c lsb).c
    | _ => aluC z.u (cellAt z.s c lsb)
  (List.range (lsb - i)).foldl (fun v j => aluCn z c (lsb - j) (cellAt z.s c (lsb - j)) v) c0

/-- The value that XSRC selects. -/
def selX (z : UCycle) (c i : Nat) (y : Cell) : Bool :=
  let und := (Config.freePlane (z.k + c)).getLsbD i
  let nb (d eo : Nat) : Bool := srcVal (xOf z.s) und (nbrSrc z.s c i d eo)
  match uXSRC z.u with
  | 0 => y.x
  | 1 => cellM z c i y
  | 2 => nb 0 (bits z.u 137 136)
  | 3 => nb 1 (bits z.u 139 138)
  | 4 => nb 2 (bits z.u 137 136)
  | 5 => nb 3 (bits z.u 139 138)
  | 6 => srcVal (xOf z.s) und (netSrc z.s c (i / 128) false)
  | _ => srcVal (xOf z.s) und (netSrc z.s c (i % 128) true)

/-- S of cell i. -/
def aluS (z : UCycle) (c i : Nat) (y : Cell) : Bool :=
  z.fs.testBit (4 * b2n (aluM z c i y) + 2 * b2n y.x + b2n (carryIn z c i y))

/-- Whether a cell writes (R90). -/
def writesU (u : Nat) (y : Cell) : Bool :=
  y.a || (uACT u != 2 && uDEST u == 4) || (uACT u == 1 && uDEST u == 5)

/-- One cell after one microword (R92). An inactive cell writes only its A or T (R94). -/
def cycleCell (z : UCycle) (c i : Nat) (y : Cell) : Cell :=
  if !writesU z.u y then y else
  let v := aluS z c i y
  let d := uDEST z.u
  if !y.a then (if d = 4 then { y with a := v } else { y with t := v }) else
  let cn := aluCn z c i y (carryIn z c i y)
  let m := cellM z c i y
  let sx := selX z c i y
  let ys := uYSRC z.u
  let y1 := if d = 0 then y.setPlane z.q v else y
  { y1 with
    x := if d = 1 then v else if ys = 5 then m else sx
    y := if d = 2 then v else if ys = 5 then sx else if ys = 1 ∨ ys = 3 ∨ ys = 6 then m else y.y
    c := if d = 3 then v else cn
    a := if d = 4 then v else y.a
    t := if d = 5 then v else y.t }

/-- Whether an all-zero cell stays all zero under a microword, so that only listed cells need a look. -/
def keepsZero (z : UCycle) : Bool :=
  !(uACT z.u != 2 && uDEST z.u == 4) && !(uACT z.u == 1 && uDEST z.u == 5)
    || (!z.fs.testBit 0 && uCINIT z.u != 2 && !z.u.testBit 135 && uTOP z.u != 1 && uTOP z.u != 3 && z.p != 2047 && z.q != 2047)

/-- The turn line that a WRITE leaves in block c: the S of the active cells of the group. -/
def turnStore (z : UCycle) (s : State) (c : Nat) : State :=
  let act := z.s.cells.filter fun e => inBlock c e.1 && e.2.a && inGroup z.u (e.1 % 16384)
  if act.isEmpty then s else
  let s := breakResv s (turnAt c (256 * z.line)) 256
  let s := { s with mem := act.foldl (fun m e =>
      let i := e.1 % 16384
      let a := lineByte c z.line i
      memSetByte m a (BitVec.ofNat 8 (putBits (memByte m a).toNat (7 - i % 8) (7 - i % 8) (b2n (aluS z c i e.2))))) s.mem }
  if act.length = 1024 then cleanWords s (turnAt c (256 * z.line)) 256 else s

/-- The cells of every block of the gang after one microword. -/
def cycleCells (z : UCycle) (s : State) (b : Nat) : State :=
  forEach (gang s b) (fun s c =>
    let s := if keepsZero z then mapListed s c (cycleCell z c) else mapCells s c (cycleCell z c)
    let s := if uDEST z.u = 0 then noteFlags s c z.q z.q else s
    if uTOP z.u = 2 then turnStore z s c else s) s

/-! ### Scalar unit, pointers, counters (R284-R289) -/

/-- The scalar unit's source. -/
def scalarSrc (m : Micro) (u : Nat) : Nat :=
  match bits u 15 14 with | 0 => m.d.toNat | 1 => m.s.toNat | 2 => m.u.toNat | _ => m.sb.toNat

/-- SA and its flags after SOP: carry as given. -/
def Micro.putSa (m : Micro) (v : Nat) (carry : Bool) : Micro :=
  let v := v % 2 ^ 64
  { m with sa := BitVec.ofNat 64 v, sz := v == 0, sn := v.testBit 63, sc := carry }

/-- The scalar operation of a microword, slot words being those of block b. -/
def scalarOp (s : State) (b : Nat) (m : Micro) (u : Nat) : Micro :=
  let x := scalarSrc m u
  let a := m.sa.toNat
  let i := uIMM u
  match uSOP u with
  | 1 => m.putSa x false
  | 2 => m.putSa (bits x 21 11) false
  | 3 => m.putSa i false
  | 4 => let v := wrap 64 (sgn 16 i)
         m.putSa (a + v) (decide (2 ^ 64 ≤ a + v))
  | 5 => m.putSa (a + x) (decide (2 ^ 64 ≤ a + x))
  | 6 => m.putSa (a + (2 ^ 64 - x)) (decide (x ≤ a))
  | 7 => m.putSa (Nat.land a i) false
  | 8 => m.putSa (a / 2 ^ (i % 64)) false
  | 9 => m.putSa (a * 2 ^ (i % 64)) false
  | 10 => m.putSa (slotOf s b (i % 4)).word.toNat false
  | 11 => { m with sb := m.sa }
  | _ => m

/-- The pointers after a microword: those of o are the values at its start. -/
def pointerOp (o m : Micro) (u : Nat) : Micro :=
  let m := if u.testBit 127 && u.testBit 121 then m.setPp (bits u 126 125) (o.pp (bits u 126 125) + 1) else m
  let m := if u.testBit 124 && u.testBit 120 then m.setPp (bits u 123 122) (o.pp (bits u 123 122) + 1) else m
  let l := bits u 116 115
  match bits u 119 117 with
  | 1 => m.setPp l (uIMM u)
  | 2 => m.setPp l o.sa.toNat
  | 3 => m.setPp l (o.pp l + uIMM u)
  | _ => m

/-- The loop counters after a microword. -/
def counterOp (o m : Micro) (u : Nat) : Micro :=
  let m := (List.range 4).foldl (fun m n => match bits u (27 + 2 * n) (26 + 2 * n) with
    | 1 => m.setLc n (o.lc n - 1)
    | 2 => m.setLc n (uIMM u)
    | 3 => m.setLc n o.sa.toNat
    | _ => m) m
  if uNAM u = 4 ∨ uNAM u = 5 then m.setLc (uCLC u) (o.lc (uCLC u) - 1) else m

/-- Whether a microword sets the write mark (R293): a word that passes C through unchanged does not write it. -/
def marks (u : Nat) : Bool :=
  [0, 3, 4, 5].contains (uDEST u) || uTOP u == 2 || !(uFC u == 0xAA && uCINIT u == 0 && !u.testBit 135)

/-- The micro-engine after a microword that goes on at n; o is the engine at its start. -/
def microNext (s : State) (b : Nat) (o : Micro) (u n : Nat) : Micro :=
  let m := counterOp o (pointerOp o (scalarOp s b o u) u) u
  let m := if uTAM u = 1 then { m with tar := o.tar + 1 } else m
  let m := match uNAM u with
    | 6 => { m with stack := (o.upc + 1) :: o.stack }
    | 7 => { m with stack := o.stack.tail }
    | _ => m
  { m with upc := BitVec.ofNat 14 n, mark := o.mark || marks u, run := o.run + 1, brk := false, edge := false, nets := 0 }

/-! ### Faults found by the check stages (R28, R115-R119, R298, R299) -/

/-- The plane, row and group that the place of an upset names: bits [18:8], [7:1] and [0]; and its column, bits [27:20], where
it lies in one. -/
def posPlane (p : Nat) : Nat := bits p 18 8
def posCol (p : Nat) : Option (Fin 144) := if h : bits p 27 20 < 144 then some ⟨bits p 27 20, h⟩ else none

/-- What a check stage of block b finds in a cycle, and whether the microword still takes effect. No twin finds anything while
twin checking is stopped (R119). -/
def cycleUpset (s : State) (b : Nat) (word : Nat) (u : Upset) : State × Bool :=
  match u with
  | .clean => (s, true)
  | .corrected pos _ =>
    let p := pos.toNat
    let a := R.ARR_ECC b
    let s := addSat s a R.ARR_ECC_CE 1
    let s := warnCorrected s ((holder s b).getD 0) ((partOf s b).getD 0)
    let s := setF (setF (setF s a R.ARR_ECC_PLANE (posPlane p)) a R.ARR_ECC_ROW (bits p 7 1)) a R.ARR_ECC_GROUP (bits p 0 0)
    let s := setB s a R.ARR_ECC_CEV true
    let r := (BitVec.ofNat 11 (posPlane p), BitVec.ofNat 7 (bits p 7 1), p.testBit 0)
    let q := seqOf s b
    let s := if q.repair.isSome then addSat s a R.ARR_ECC_WBLOST 1 else s
    (updSeq s b fun q => { noteCorr q (posCol p) with repair := match q.repair with | some o => some o | none => some r }, true)
  | .uncorrectable pos => (blockCheck (setB s (R.ARR_ECC b) R.ARR_ECC_UE true) b 1 (posPlane pos.toNat), false)
  | .pair => (blockCheck s b 2 0, false)
  | .twin =>
    if (List.range 4).any fun n => spState s b n == 2 then
      (blockCheck (addSat s (R.ARR_ECC b) R.ARR_ECC_TWINMM 1) b 4 (seqOf s b).twinCol.toNat, true)
    else (s, true)
  | .csParity => (storeFault s b 1 word, false)
  | .dtParity => (storeFault s b 2 word, false)

/-! ### One microword (R92, R290-R301) -/

/-- The instruction of block b ends (R291). -/
def microEnd (s : State) (b : Nat) (m : Micro) (u : Nat) : State :=
  if m.far then setMicro s b none else
  let d := bits m.w.toNat 23 19
  let m2 := scalarOp s b m u
  let s := if u.testBit 13 then wr s b d m2.sa.toNat else s
  endStep (takeExit (retire (setMicro s b none) b) b) b

/-- The blocks of b's gang whose plane repair is pending (R116). -/
def repairing (s : State) (b : Nat) : List Nat := (gang s b).filter fun c => (seqOf s c).repair.isSome

/-- The side whose neighbour a microword's XSRC selects, with the EDGE code of its axis (R87, R99). -/
def uSide (u : Nat) : Option (Nat × Nat) :=
  let d := uXSRC u - 2
  if uXSRC u < 2 ∨ 6 ≤ uXSRC u then none
  else some (d, if d % 2 = 0 then bits u 137 136 else bits u 139 138)

/-- The turn line that TAM names (R289). -/
def uLine (m : Micro) (u : Nat) : Nat :=
  match uTAM u with | 2 => (m.tar.toNat + uIMM u % 4096) % 4096 | _ => m.tar.toNat

/-- The microword u of block b's program takes effect on cells, turn memory, slots and the micro-engine. A word with DEST
other than Q rewrites the groups of old, whose repair was pending before it (R116). -/
def microRun (s : State) (b : Nat) (m : Micro) (u : Nat) (old : List Nat) : State :=
  let fs := if u.testBit 5 then (if m.sa.getLsbD 0 then 0xFF else 0) else uFS u
  let z : UCycle := { s := s, u := u, p := effP m u, q := effQ m u, fs := fs, line := uLine m u, k := s.free }
  let s0 := match uSide u with
    | some (d, eo) => edgeTake s b d eo 1
    | none => if uXSRC u < 6 then s else netTake s ((partOf s b).getD 0) (uXSRC u == 7)
  let s1 := cycleCells z { s0 with free := s.free + 384 } b
  let s1 := if uDEST u = 0 then s1 else forEach old (fun s c => updSeq s c fun q => { q with repair := none }) s1
  let s1 := if u.testBit 7 then stitchOp s1 b (uIMM u % 32) m.sa.toNat true else s1
  let s1 := if uKIND u = 0 then s1 else gangRequest s1 b (uSLOT u) (bits u 77 76) 0 (u.testBit 78) (u.testBit 79)
  match nextUpc s b m u with
  | none => microEnd s1 b m u
  | some n =>
    let m2 := microNext s b m u n
    let m3 := if u.testBit 25 then
        { m2 with run := 0, steps := m2.steps + 1, svs := u.testBit 24, svp := u.testBit 23, 
                  sp := if m.far then (match m.stop with | some c => c.1.toNat == m2.steps + 1 | none => false)
                    else yieldCause s b != 0 }
      else m2
    setMicro s1 b (some m3)

/-- The edge data, or the nets, that a microword of a LOCKSTEP cascade partition takes from other devices have not arrived; its
own have then left (R103, R435). -/
def edgeWait (s : State) (b : Nat) (m : Micro) (u : Nat) : State × Bool :=
  match uSide u with
  | none =>
    if uXSRC u < 6 then (s, false) else
    let r := netStep s ((partOf s b).getD 0) (uXSRC u == 7) (xOf s) m.nets
    (if r.2.1 = m.nets then r.1 else setMicro r.1 b (some { m with nets := r.2.1 }), !r.2.2)
  | some (d, eo) =>
    let n := (partOf s b).getD 0
    let s1 := if m.edge || !cascadePart s n then s else
      setMicro (edgeSend s n ((d + 2) % 4) eo (xOf s)) b (some { m with edge := true })
    (s1, edgeHere s b d eo 1 == 0)

/-- The turn line that a microword moves is read and checked in every block of the program: whole by READ, and by a WRITE that
does not cover it (R289, R322); whether it can be delivered. -/
def lineReads (s : State) (b : Nat) (m : Micro) (u : Nat) : State × Bool :=
  if s.flaws.isEmpty || uTOP u == 0 then (s, true) else
  (gang s b).foldl (fun p c =>
    let full := (s.cells.filter fun e => inBlock c e.1 && e.2.a && inGroup u (e.1 % 16384)).length == 1024
    let q := memCheck p.1 c (turnAt c (256 * uLine m u)) (if uTOP u = 2 ∧ full then 0 else 256)
    (q.1, p.2 && q.2)) (s, true)

/-- The next microword of block b's program: its parity in every block of the program (R298), its waits and checks, then its
effect. old: the blocks whose plane repair was pending before this cycle. -/
def microCycle (s : State) (b : Nat) (m : Micro) (old : List Nat) : State :=
  let n := m.upc.toNat
  let u := csWord s b n
  if m.sp then s
  else match (gang s b).find? fun c => csBad s c n with
  | some c => storeFault s c 1 n
  | none =>
  if slotWait s b u then s
  else if illegalUw s b m u then (if n < 12288 then storeFault s b 3 n else programFault s b 3 n)
  else if m.cust && custBreach s b m u then programFault s b 4 n
  else if m.cust && decide (8192 ≤ m.run) then programFault s b 5 n
  else if u.testBit 6 && rgB s (R.MC_CTRL b) R.MC_CTRL_UBRKEN && !m.brk && !m.far then
    let s := match partOf s b with
      | some p => { s with dbg := { s.dbg with pstop := s.dbg.pstop ||| BitVec.twoPow 16 p } }
      | none => s
    haltGang (girthRaise (setMicro s b (some { m with brk := true })) 2 (partOf s b)) b 5
  else if uNAM u = 10 then
    (if m.far then setMicro s b none else endStep (trapAt (setMicro s b none) b 0x0B m.w.toNat) b)
  else
    let (s1, wait) := edgeWait s b m u
    if wait then s1 else
    let (s2, ok) := lineReads s1 b m u
    if ok then microRun s2 b m u old else s2

/-- MICROWORD_CYCLE (R92): the next microword of the customer routine that block b's program runs, in every block of the
program; the fault that block b's check stages find in that cycle, if any. A vendor routine's cycles are the effect of
its instruction, so for one of those only what the check stages find is left. DESIGN CHOICE (log 92): what suppresses the
microword in one block of a LOCKSTEP program, a pair mismatch or a double-bit error, suppresses it in every block of the
program, which issue each microword together; R28 and R117 speak of the block that found it. -/
def execMicrowordCycle (b : Blk) (u : Upset) (s : State) : Host.Outcome State Fault Refusal :=
  let b := b.toNat
  let p := programOf s b
  .next (if !executing s p then s else
    match (seqOf s p).micro with
    | some m =>
      let (s1, go) := cycleUpset s b (if u == .dtParity then m.w.toNat / 2 ^ 24 else m.upc.toNat) u
      if go then microCycle s1 p m (repairing s p) else s1
    | none => (cycleUpset (takeFree s) b (freeNat s % (if u == .dtParity then 256 else 12288)) u).1)

/-- PLANE_REPAIR (R116): the corrected group that waits is rewritten, in a cycle of a vendor routine whose microword has DEST
other than Q; the microwords of a routine in the control store do it themselves. -/
def execPlaneRepair (b : Blk) (s : State) : Host.Outcome State Fault Refusal :=
  .next (if (seqOf s (programOf s b.toNat)).micro.isSome then s else updSeq s b.toNat fun q => { q with repair := none })

/-- TWIN_ADVANCE (R119): at a multiple of 100,000 ticks the twin of a block that executes moves to the next column. -/
def execTwinAdvance (b : Blk) (u : Upset) (s : State) : Host.Outcome State Fault Refusal :=
  let b := b.toNat
  .next (if now s % 100000 ≠ 0 ∨ !executing s (programOf s b) then s else
    let s := pickTwin s b
    match (List.range 4).find? fun n => spState s b n == 2 with
    | none => s
    | some n =>
      let c := (seqOf s b).twinCol + 1
      let s := updSeq s b fun q => { q with twinCol := c }
      let s := setF s (R.ARR_COLMAP b) (spFld n) (2 * 1024 + c.toNat)
      (cycleUpset s b 0 u).1)

end Sys2Proof.Machine
end

