-- ==== Sys2Proof/Machine/Debug.lean ====
section
/-! DEFINITION. Debug, trace and the Awl port: halts, single steps, Girth, watchdog and timers, Awl frames, the trace
sink, Spillway (chapter 17). -/

namespace Sys2Proof.Machine

/-! ### Requests that a member of a cascade forwards (R434) -/

/-! ### Halts (R507-R511) -/

/-- HALTREQ (R507): it reads 1 until the halt is taken. -/
def execHaltreq (b : Blk) (s : State) : Host.Outcome State Fault Refusal :=
  let s1 := setB s (R.DBG_CTRL b.toNat) R.DBG_CTRL_HALTREQ true
  .next (match partOf s b.toNat with | some n => forwardReq s1 n .halt | none => s1)

/-- Whether block b is halted with a cause that RELEASE and STEP end. -/
def releasable (s : State) (b : Nat) : Bool :=
  rgB s (R.DBG_STATUS b) R.DBG_STATUS_HALTED && decide (1 ≤ rgF s (R.DBG_STATUS b) R.DBG_STATUS_CAUSE)
    && decide (rgF s (R.DBG_STATUS b) R.DBG_STATUS_CAUSE ≤ 3)

/-- The halt of block c ends; a stop that holds it as well goes on. -/
def releaseBlock (s : State) (c : Nat) : State :=
  if !releasable s c then s else
  let a := R.DBG_STATUS c
  let s1 := setB (clearResv (endHush s c) c) a R.DBG_STATUS_HALTED false
  let s2 := setF s1 a R.DBG_STATUS_CAUSE (if rgB s a R.DBG_STATUS_STOPPED then 4 else 0)
  wdRelease s s2 c

/-- A suspended instruction goes on at the release only while DBG_PC holds its address (R509). -/
def keepSuspended (s : State) (b : Nat) : State :=
  match (seqOf s b).susp with
  | some r => if r.pc.toNat == pcOf s b then s else
      forEach (gang s b) (fun s c => updSeq s c fun q => { q with susp := q.susp.map fun r => { r with entered := true } }) s
  | none => s

/-- The halt of block b's whole program ends (R508), on every device of a LOCKSTEP cascade (R434); a suspended instruction goes
on (R229, R509). -/
def releaseHalt (s : State) (b : Nat) : State :=
  if !(gang s b).any (fun c => releasable s c) then s else
  let s1 := forEach (gang s b) releaseBlock (keepSuspended s (programOf s b))
  let s2 := match partOf s b with | some n => sendAct s1 n .release | none => s1
  resumeIdle s2 (programOf s b)

/-- DBG_RELEASE (R508). -/
def execDbgRelease (b : Blk) (s : State) : Host.Outcome State Fault Refusal := .next (releaseHalt s b.toNat)

/-- The instruction with opcode op and low bits w, as block b's sequencer executes it (R239, R240). -/
def execOpcode (op : Nat) (b : Blk) (w : BitVec 24) (s : State) : Host.Outcome State Fault Refusal :=
  match op with
  | 1 => execAdd b w s
  | 2 => execSub b w s
  | 3 => execAnd b w s
  | 4 => execOr b w s
  | 5 => execXor b w s
  | 6 => execAndn b w s
  | 7 => execShl b w s
  | 8 => execShr b w s
  | 9 => execSar b w s
  | 10 => execRol b w s
  | 11 => execMul b w s
  | 12 => execMulh b w s
  | 13 => execDiv b w s
  | 14 => execRem b w s
  | 15 => execCmp b w s
  | 16 => execMin b w s
  | 17 => execMax b w s
  | 18 => execClz b w s
  | 19 => execPopc b w s
  | 20 => execSel b w s
  | 32 => execAddi b w s
  | 33 => execAndi b w s
  | 34 => execOri b w s
  | 35 => execXori b w s
  | 36 => execShli b w s
  | 37 => execShri b w s
  | 38 => execSari b w s
  | 39 => execCmpi b w s
  | 40 => execLiz b w s
  | 41 => execLik b w s
  | 42 => execAdr b w s
  | 48 => execLd b w s
  | 49 => execLds b w s
  | 50 => execSt b w s
  | 51 => execLdr b w s
  | 52 => execStc b w s
  | 53 => execLdx b w s
  | 54 => execStx b w s
  | 64 => execBz b w s
  | 65 => execBnz b w s
  | 66 => execJ b w s
  | 67 => execJr b w s
  | 68 => execCall b w s
  | 69 => execRet b w s
  | 70 => execReti b w s
  | 71 => execLoop b w s
  | 72 => execLoopi b w s
  | 73 => execRep b w s
  | 74 => execRepr b w s
  | 75 => execTrap b w s
  | 76 => execBkpt b w s
  | 77 => execWait b w s
  | 78 => execFence b w s
  | 80 => execMfc b w s
  | 81 => execMtc b w s
  | 96 => execDadj b w s
  | 97 => execPadd b w s
  | 98 => execPsub b w s
  | 99 => execPcmp b w s
  | 100 => execPmulD b w s
  | 101 => execPshlD b w s
  | 102 => execPcvt b w s
  | 112 => execDadd b w s
  | 113 => execDsub b w s
  | 114 => execDmul b w s
  | 115 => execDdiv b w s
  | 116 => execDfma b w s
  | 117 => execDqua b w s
  | 118 => execDcmp b w s
  | 119 => execDcvt b w s
  | 128 => execAlog b w s
  | 129 => execAmov b w s
  | 130 => execAspl b w s
  | 131 => execAact b w s
  | 132 => execAtag b w s
  | 133 => execAbrd b w s
  | 134 => execAbcp b w s
  | 135 => execAshf b w s
  | 136 => execAadd b w s
  | 137 => execAsub b w s
  | 138 => execAneg b w s
  | 139 => execAmul b w s
  | 140 => execAdiv b w s
  | 141 => execAcmp b w s
  | 142 => execAaddg b w s
  | 143 => execAsubg b w s
  | 144 => execAcmpg b w s
  | 145 => execAffs b w s
  | 146 => execAenum b w s
  | 147 => execAor b w s
  | 148 => execAcnt b w s
  | 149 => execAsum b w s
  | 150 => execArds b w s
  | 151 => execAbar b w s
  | 152 => execAtld b w s
  | 153 => execAtst b w s
  | 154 => execAlut b w s
  | 160 => execApadd b w s
  | 161 => execApsub b w s
  | 162 => execApmul b w s
  | 163 => execApdiv b w s
  | 164 => execApcmp b w s
  | 165 => execApsrp b w s
  | 166 => execApset b w s
  | 167 => execApcvb b w s
  | 168 => execApcvd b w s
  | 169 => execAppack b w s
  | 170 => execApunpk b w s
  | 171 => execAdfadd b w s
  | 172 => execAdfsub b w s
  | 173 => execAdfmul b w s
  | 174 => execAdfdiv b w s
  | 175 => execAdffma b w s
  | 176 => execAdfqua b w s
  | 177 => execAdfcmp b w s
  | 178 => execAdfcvt b w s
  | 179 => execAldadd b w s
  | 180 => execAldsub b w s
  | 181 => execAldmul b w s
  | 182 => execAlddiv b w s
  | 183 => execAldcvt b w s
  | 184 => execAldspl b w s
  | 185 => execAldnrm b w s
  | 192 => execAmvs b w s
  | 193 => execAtrn b w s
  | 194 => execAcmps b w s
  | 195 => execAedit b w s
  | _ =>
    if op / 16 = 14 then execCustomerInstruction b (BitVec.ofNat 4 op) w s
    else execReservedOpcode b (BitVec.ofNat 8 op) w s

/-- The state that an outcome leaves; s where there is none. -/
def stateOf (s : State) (o : Host.Outcome State Fault Refusal) : State := match o with | .next t => t | _ => s

/-- The resumable instruction with word w, under a step, runs to its next safe point, if one lies ahead, and whether it
has yielded there (R510). -/
def stepYield (s : State) (b : Nat) (w : BitVec 32) : State × Bool :=
  let valid (t : State) : Bool := rgB t (R.ARR_SUSP b) R.ARR_SUSP_VALID
  let t := resumeIdle s b
  let next := match (seqOf t b).resume with
    | some r => r.step % 65536 + 1
    | none => if w.toNat / 2 ^ 24 = 0xC3 then 0 else 1
  let u := stateOf t (execSafePointYield (BitVec.ofNat 7 b) w (BitVec.ofNat 16 next) t)
  (u, valid u && !valid t)

/-- One instruction executes, and the program halts with CAUSE STEP (R510). While something else is due first, the
instruction that follows is the one that ends the step. -/
def stepOp (s : State) (b : Nat) : State :=
  let p := programOf s b
  let s1 := updSeq (releaseHalt s p) p fun q => { q with stepping := true }
  let w : BitVec 32 := BitVec.ofNat 32 (readVal s1 (bwin p + pcOf s1 p) 8)
  let op := w.toNat / 2 ^ 24
  let (s2, yielded) := if resumable op && canIssue s1 p && pcOk (pcOf s1 p) then stepYield s1 p w else (s1, false)
  if yielded then endStep s2 p else stateOf s2 (execOpcode op (BitVec.ofNat 7 p) (BitVec.ofNat 24 w.toNat) s2)

/-- DBG_STEP (R510): at any other time it is ignored. -/
def execDbgStep (b : Blk) (s : State) : Host.Outcome State Fault Refusal :=
  let b := b.toNat
  .next (if releasable s b && !rgB s (R.DBG_STATUS b) R.DBG_STATUS_STOPPED then stepOp s b else s)

/-! ### Girth (R514, R515) -/

/-- Channel n stops partition p: a member of a LOCKSTEP cascade asks the lead, whose decision stops every device (R434). -/
def girthStopOne (s : State) (n p : Nat) : State :=
  if follows s p then forwardReq s p (.girth (BitVec.ofNat 3 n)) else stopPart s p 4

/-- A chip-scope stop reaches partition p. -/
def chipStopOne (s : State) (n p : Nat) : State :=
  if follows s p then forwardReq s p (.girth (BitVec.ofNat 3 n))
  else sendAct (forEach (blocksOf s p) (fun s b => haltSeq s b 4) s) p (.stop 4)

/-- A channel's STOP: its partitions, or every partition of the device. -/
def girthStopScope (s : State) (n : Nat) : State :=
  let c := R.GIRTH_CH n
  let ps := (List.range 16).filter (defined s)
  if rgB s c R.GIRTH_CH_CHIP then
    forEach ps (fun s p => chipStopOne s n p) { s with dbg := { s.dbg with chipStop := true } }
  else forEach (ps.filter fun p => (rgF s c R.GIRTH_CH_PMASK).testBit p) (fun s p => girthStopOne s n p) s

/-- Channel n fires: FIRED and TIME, then its actions. -/
def girthFireOp (s : State) (n : Nat) : State :=
  let c := R.GIRTH_CH n
  let act := rgF s c R.GIRTH_CH_ACT
  let a := R.GIRTH_STAT
  let s1 := setF (setF s a ⟨56 + n, 56 + n⟩ 1) a R.GIRTH_STAT_TIME (now s % 2 ^ 48)
  let s2 := if act.testBit 0 then girthStopScope s1 n else s1
  let s3 := if act.testBit 1 then cicRise s2 (setF s2 a ⟨48 + n, 48 + n⟩ 1) 11 else s2
  if act.testBit 2 then tracePut s3 (tracePkt (now s3) 3 0 0 n) else s3

/-- Channel n is armed for the time that GIRTH_TBM names, which is now, and has not fired for it. -/
def girthTimeDue (s : State) (n : Nat) : Bool :=
  rgB s (R.GIRTH_CH n) R.GIRTH_CH_EN && (rgF s (R.GIRTH_CH n) R.GIRTH_CH_SRC).testBit 3 && now s == rg s R.GIRTH_TBM
    && !s.dbg.girthAt.contains (n, now s)

/-- A lower channel than n is due (R18). -/
def girthLower (s : State) (n : Nat) : Bool :=
  s.dbg.girth.any (fun e => decide (e.1 < n)) || (List.range n).any (girthTimeDue s)

/-- The source of channel n that has occurred is taken. -/
def girthTaken (s : State) (n src : Nat) : State :=
  { s with dbg := { s.dbg with
      girth := s.dbg.girth.erase (n, src)
      girthAt := if src = 3 then mapPut n (now s) s.dbg.girthAt else s.dbg.girthAt } }

/-- GIRTH_FIRE (R514): an armed channel fires on a selected source that has occurred; source 3 occurs when TIMEBASE
reaches GIRTH_TBM. Of several channels that are due the lowest comes first (R18). -/
def execGirthFire (n src : BitVec 3) (s : State) : Host.Outcome State Fault Refusal :=
  let n := n.toNat
  let src := src.toNat
  let due := decide ((n, src) ∈ s.dbg.girth) || (src == 3 && girthTimeDue s n)
  .next (if due && !girthLower s n then girthFireOp (girthTaken s n src) n else s)

/-- The software source of a channel (R515): its scope is the channel's own. -/
def girthTrigOp (s : State) (v : Nat) : State :=
  let hits := (List.range 8).filter fun n =>
    v.testBit n && rgB s (R.GIRTH_CH n) R.GIRTH_CH_EN && (rgF s (R.GIRTH_CH n) R.GIRTH_CH_SRC).testBit 0
  { s with dbg := { s.dbg with girth := hits.foldl (fun l n => if (n, 0) ∈ l then l else l ++ [(n, 0)]) s.dbg.girth } }

/-- GIRTH_TRIG (R515). -/
def execGirthTrig (v : BitVec 8) (s : State) : Host.Outcome State Fault Refusal := .next (girthTrigOp s v.toNat)

/-- GIRTH_CMD.REL: the stopped partitions that v names go on. -/
def girthReleaseOp (s : State) (v : Nat) : State :=
  forEach ((List.range 16).filter fun p => v.testBit p && defined s p) freePart s

/-- GIRTH_RELEASE (R515). -/
def execGirthRelease (v : BitVec 16) (s : State) : Host.Outcome State Fault Refusal := .next (girthReleaseOp s v.toNat)

/-- GIRTH_CMD.RELCHIP: the chip-scope stop ends; a partition stopped by itself stays stopped. -/
def girthRelchipOp (s : State) : State :=
  if !s.dbg.chipStop then s else
  let s1 : State := { s with dbg := { s.dbg with chipStop := false } }
  forEach ((List.range 16).filter fun p => defined s p && !s.dbg.pstop.getLsbD p) (fun t p =>
    let t1 := freePart t p
    forEach (blocksOf t p) (fun u b => if halted s b && !halted u b then wdReload u b else u) t1) s1

/-- GIRTH_RELCHIP (R515). -/
def execGirthRelchip (s : State) : Host.Outcome State Fault Refusal := .next (girthRelchipOp s)

/-! ### Watchdog and timers (R516-R518) -/

/-- A watchdog window starts: it ends PERIOD ticks from now. -/
def wdStart (s : State) (b : Nat) : State :=
  setF s (R.WD_CNT b) R.WD_CNT_REMAIN (rgF s (R.WD_CFG b) R.WD_CFG_PERIOD)

/-- An expiry: WDOG, the next window, EXP; the second in succession raises Girth source 5 when GIRTH = 1. -/
def wdExpire (s : State) (b : Nat) : State :=
  let e := rgF s (R.WD_CNT b) R.WD_CNT_EXP
  let s1 := setF (wdStart (forwardIrqs (bicSet s b 0)) b) (R.WD_CNT b) R.WD_CNT_EXP (min 2 (e + 1))
  if e = 1 ∧ rgB s (R.WD_CFG b) R.WD_CFG_GIRTH then girthRaise s1 5 (partOf s b) else s1

/-- WD_CFG written with bits m of v: writing EN = 1 starts a window. -/
def wdCfgWrite (s : State) (b m v : Nat) : State :=
  let s1 := writePlain s (R.WD_CFG b) m v
  if (Nat.land m v).testBit 63 then wdStart s1 b else s1

/-- WD_ENABLE (R516): WD_CFG written with v. -/
def execWdEnable (b : Blk) (v : Word) (s : State) : Host.Outcome State Fault Refusal :=
  .next (wdCfgWrite s b.toNat (2 ^ 64 - 1) v.toNat)

/-- A kick. One at the expiry tick belongs to the next window; one in the closed half counts as an expiry. -/
def wdKickOp (s : State) (b : Nat) : State :=
  if !rgB s (R.WD_CFG b) R.WD_CFG_EN then s else
  let s := if rgF s (R.WD_CNT b) R.WD_CNT_REMAIN = 0 then wdExpire s b else s
  let p := rgF s (R.WD_CFG b) R.WD_CFG_PERIOD
  if rgB s (R.WD_CFG b) R.WD_CFG_WIN && decide (p - p / 2 < rgF s (R.WD_CNT b) R.WD_CNT_REMAIN) then wdExpire s b
  else setF (wdStart s b) (R.WD_CNT b) R.WD_CNT_EXP 0

/-- WD_KICK (R516). -/
def execWdKick (b : Blk) (s : State) : Host.Outcome State Fault Refusal := .next (wdKickOp s b.toNat)

/-- WD_EXPIRY (R516): the window has run out, and the watchdog is not frozen. -/
def execWdExpiry (b : Blk) (s : State) : Host.Outcome State Fault Refusal :=
  let b := b.toNat
  .next (if rgB s (R.WD_CFG b) R.WD_CFG_EN && rgF s (R.WD_CNT b) R.WD_CNT_REMAIN == 0 && !frozen s b R.DBG_CTRL_FZWD then
    wdExpire s b else s)

/-- TMRn written with bits m of v: writing EN = 1 loads REMAIN (R518). -/
def timerWrite (s : State) (b n m v : Nat) : State :=
  let a := R.TMR b n
  let s1 := writePlain s a m v
  if (Nat.land m v).testBit 63 then setF s1 a R.TMR_REMAIN (rgF s1 a R.TMR_PERIOD) else s1

/-- TIMER_START (R518): TMRn written with v. -/
def execTimerStart (b : Blk) (n : BitVec 2) (v : Word) (s : State) : Host.Outcome State Fault Refusal :=
  .next (timerWrite s b.toNat n.toNat (2 ^ 64 - 1) v.toNat)

/-- TIMER_EXPIRY (R518). -/
def execTimerExpiry (b : Blk) (n : BitVec 2) (s : State) : Host.Outcome State Fault Refusal :=
  let b := b.toNat
  let a := R.TMR b n.toNat
  .next (if rgB s a R.TMR_EN && rgF s a R.TMR_REMAIN == 0 && !frozen s b R.DBG_CTRL_FZTMR then
    let s1 := forwardIrqs (bicSet s b (1 + n.toNat))
    if rgB s a R.TMR_PER then setF s1 a R.TMR_REMAIN (rgF s a R.TMR_PERIOD) else setB s1 a R.TMR_EN false
  else s)

/-- A running counter that is not frozen loses one tick. -/
def tickDown (s : State) (a : Nat) (en rem fz : Fld) (b : Nat) (cnt : Nat) : State :=
  if rgB s a en && decide (0 < rgF s cnt rem) && !frozen s b fz then setF s cnt rem (rgF s cnt rem - 1) else s

/-- The lead's CTRL traffic carries its TIMEBASE to the partners at every millisecond (R428, R443). -/
def sendTimes (s : State) : State :=
  if s.rein.leads && now s % 100000 == 0 then (List.range 4).foldl sendTime s else s

/-- One tick: the Wellhead's timers count, and TIMEBASE while it runs (R462), with it watchdogs and timers. A member's sources
that are eligible go to the lead (R434), and what the edges of an INDEPENDENT cascade partition show goes to its neighbours
(R104). -/
def tick (s : State) : State :=
  let s := whTick s
  if !s.tbRun then s
  else if s.rein.holdTick then { s with rein := { s.rein with holdTick := false } } else
  let s1 := s.regs.foldl (fun s e =>
    let b := winBlk e.1
    let o := winOff e.1
    if !inWin e.1 then s
    else if o = 0x700840 then tickDown s e.1 R.WD_CFG_EN R.WD_CNT_REMAIN R.DBG_CTRL_FZWD b (R.WD_CNT b)
    else if 0x700880 ≤ o ∧ o < 0x7008C0 then tickDown s e.1 R.TMR_EN R.TMR_REMAIN R.DBG_CTRL_FZTMR b e.1
    else s) s
  showEdges (forwardIrqs (sendTimes { s1 with timebase := s1.timebase + 1 }))

/-! ### The Awl port (R519-R522) -/

/-- Acknowledge codes. -/
def ackOk : BitVec 3 := 1
def ackWait : BitVec 3 := 2
def ackParity : BitVec 3 := 3
def ackFault : BitVec 3 := 4

/-- The frame, which the Wellhead has seen (R459), is answered. -/
def awlAnswer (s : State) (ack : BitVec 3) (data : Option Word) : State := emit (wellhead s .awl) (.awl ack data)

/-- A locked device with AWL_CTRL.ENL = 0 answers every frame but PREAD with FAULT (R522). -/
def awlShut (s : State) : Bool := rgB s R.SEC_STATE R.SEC_STATE_LOCKED && !rgB s R.AWL_CTRL R.AWL_CTRL_ENL

/-- The request that a frame makes of the mesh: one aligned 16-digit word (R520). -/
def awlSend (s : State) (rd consume : Bool) (key : BitVec 4) (a : BitVec 40) (v : Word) : State :=
  let id := s.mesh.nextId
  let s1 := sendReq s .awl (!rd) (16 * a.toNat) 16 key.toNat (rd && !consume) (if rd then [] else digitsOf 16 v.toNat)
  { s1 with dbg := { s1.dbg with awlReq := some (id, rd, consume, key, a), awlResp := none } }

/-- A read frame: sent, waited for, or answered with what has arrived (R521). par: the frame's parity holds. -/
def awlRead (s : State) (consume : Bool) (key : BitVec 4) (a : BitVec 40) (par : Bool) : State :=
  if !par then awlAnswer s ackParity none
  else if awlShut s || s.dbg.awlStatus.getLsbD 0 then awlAnswer s ackFault none
  else match s.dbg.awlReq with
    | none => awlAnswer (awlSend s true consume key a 0) ackWait none
    | some (_, rd, c, k, x) =>
      if rd && c == consume && k == key && x == a then
        match s.dbg.awlResp with
        | some v => awlAnswer { s with dbg := { s.dbg with awlReq := none, awlResp := none } } ackOk (some v)
        | none => awlAnswer s ackWait none
      else awlAnswer s ackWait none

/-- QREAD (R519). -/
def execQread (key : BitVec 4) (a : BitVec 40) (par : Bool) (s : State) : Host.Outcome State Fault Refusal :=
  .next (awlRead s false key a par)

/-- CREAD (R519). -/
def execCread (key : BitVec 4) (a : BitVec 40) (par : Bool) (s : State) : Host.Outcome State Fault Refusal :=
  .next (awlRead s true key a par)

/-- AWL_WRITE (R519): accepted when it is sent into the mesh. -/
def execAwlWrite (key : BitVec 4) (a : BitVec 40) (v : Word) (par : Bool) (s : State) : Host.Outcome State Fault Refusal :=
  .next (
    if !par then awlAnswer s ackParity none
    else if awlShut s || s.dbg.awlStatus.getLsbD 0 then awlAnswer s ackFault none
    else if s.dbg.awlReq.isSome then awlAnswer s ackWait none
    else awlAnswer (awlSend s false false key a v) ackOk none)

/-- The outstanding request is discarded; its response is dropped on arrival. -/
def awlAbortOp (s : State) : State := { s with dbg := { s.dbg with awlReq := none, awlResp := none } }

/-- AWL_ABORT (R521). -/
def execAwlAbort (s : State) : Host.Outcome State Fault Refusal := .next (awlAbortOp s)

/-- PREAD (R519): a port register; what the port registers without a card read as is a free value. -/
def execPread (a : BitVec 40) (par : Bool) (s : State) : Host.Outcome State Fault Refusal :=
  .next (
    if !par then awlAnswer s ackParity none
    else if a = 0 then awlAnswer s ackOk (some 0x2F12D70000000000)
    else if a = 1 then awlAnswer s ackOk (some s.dbg.awlStatus)
    else awlAnswer (takeFree s) ackOk (some (BitVec.ofNat 64 (freeNat s))))

/-- PWRITE (R519): AWL_STATUS clears BADOP and STICKY where 1 is written, and ABORT acts. -/
def execPwrite (a : BitVec 40) (v : Word) (par : Bool) (s : State) : Host.Outcome State Fault Refusal :=
  .next (
    if !par then awlAnswer s ackParity none
    else if awlShut s then awlAnswer s ackFault none
    else if a ≠ 1 then awlAnswer s ackOk none
    else
      let s1 : State := { s with dbg := { s.dbg with awlStatus := s.dbg.awlStatus &&& ~~~(v &&& 3) } }
      awlAnswer (if v.getLsbD 2 then awlAbortOp s1 else s1) ackOk none)

/-- A response to the Awl port's request (R521); that of a discarded request is dropped. -/
def awlResponse (s : State) (id status : Nat) (data : List Nat) : State :=
  match s.dbg.awlReq with
  | some (i, rd, _, _, _) =>
    if i ≠ id then s
    else if status ≠ 0 then
      { s with dbg := { s.dbg with
          awlReq := none, awlResp := none
          awlStatus := BitVec.ofNat 64 (putBits s.dbg.awlStatus.toNat 63 56 status) ||| 1 } }
    else if rd then { s with dbg := { s.dbg with awlResp := some (BitVec.ofNat 64 (digitsVal data)) } }
    else { s with dbg := { s.dbg with awlReq := none } }
  | none => s

/-! ### Stitch, the sink, Spillway (R523-R529) -/

/-- STITCH_PORT_WRITE (R523). -/
def execStitchPortWrite (b : Blk) (k : BitVec 5) (v : Word) (credit : Bool) (s : State) : Host.Outcome State Fault Refusal :=
  .next (stitchOp s b.toNat k.toNat v.toNat credit)

/-- A packet is dropped at the sink: counted, with its CIC source and its warning. -/
def traceLost (s : State) : State :=
  let s1 := addSat s R.TR_STATUS R.TR_STATUS_LOST 1
  warnOp (cicRise s1 (setB s1 R.TR_STATUS R.TR_STATUS_LOSTV true) 11) 8 0 0 true

/-- A packet's 16 bytes written into slot w of the buffer (R525): DRAM under key 0 by a request from the debug unit's port,
which the rules for every request apply to (R309, R310, R332), or host memory. -/
def traceStore (s : State) (w : Nat) (p : Nat) : State :=
  let base := rg s R.TR_BASE
  if rgB s R.TR_CTRL R.TR_CTRL_DEST then
    (if busMaster s 0 then emit s (.hostWrite 0 (base + 16 * w) (bytesOf 16 p)) else s)
  else
    sendReq s .awl true ((base + 32 * w) % 2 ^ 48) 32 0 false (digitsOf 32 p)

/-- TRACE_PACKET (R525): a packet reaches the sink. -/
def execTracePacket (p : BitVec 128) (s : State) : Host.Outcome State Fault Refusal :=
  .next (
    if !rgB s R.TR_CTRL R.TR_CTRL_EN then s
    else if rgB s R.TR_STATUS R.TR_STATUS_FULL then traceLost s
    else
      let w := rgF s R.TR_STATUS R.TR_STATUS_WPTR
      let s1 := setF (traceStore s w p.toNat) R.TR_STATUS R.TR_STATUS_WPTR ((w + 1) % 2 ^ 22)
      if w + 1 < 2 ^ 22 then s1
      else if rgB s R.TR_CTRL R.TR_CTRL_MODE then setB s1 R.TR_STATUS R.TR_STATUS_FULL true
      else setB s1 R.TR_STATUS R.TR_STATUS_WRAP true)

/-- WARNING (R527): warning code 1 to 9 of unit u. -/
def execWarning (code : Fin 10) (u : BitVec 10) (credit : Bool) (s : State) : Host.Outcome State Fault Refusal :=
  .next (if code.val = 0 then s else warnOp s code.val u.toNat ((unitPart s u.toNat).getD 0) credit)

/-- SPILLWAY_WINDOW_END (R527). -/
def execSpillwayWindowEnd (s : State) : Host.Outcome State Fault Refusal :=
  .next (rollSpill s)

end Sys2Proof.Machine
end

