-- ==== Sys2Proof/Machine/Security.lean ====
section
/-! DEFINITION. The security unit: fuses, boot flash, patch bundles, the owner mailbox (R302-R305, R481-R493). -/

namespace Sys2Proof.Machine

/-! ### Boot flash (R484, R485) -/

/-- Byte a of the boot flash; an erased byte reads 0xFF. -/
def flashByte (s : State) (a : Nat) : Byte := mapGet 0xFF a s.sec.flash

/-- n bytes of the flash from byte a. -/
def flashRead (s : State) (a n : Nat) : List Byte := (List.range n).map fun i => flashByte s (a + i)

/-- The flash with byte a set. -/
def flashPut (s : State) (a : Nat) (v : Byte) : State := { s with sec := { s.sec with flash := mapSet 0xFF a v s.sec.flash } }

/-- Bytes programmed from byte a: programming turns ones into zeros. -/
def flashProgram (s : State) (a : Nat) (bs : List Byte) : State :=
  (bs.foldl (fun (p : Nat × State) v => (p.1 + 1, flashPut p.2 p.1 (flashByte p.2 p.1 &&& v))) (a, s)).2

/-- Bytes erased and written from byte a. -/
def flashReplace (s : State) (a : Nat) (bs : List Byte) : State :=
  (bs.foldl (fun (p : Nat × State) v => (p.1 + 1, flashPut p.2 p.1 v)) (a, s)).2

/-- n bytes erased from byte a. -/
def flashErase (s : State) (a n : Nat) : State :=
  { s with sec := { s.sec with flash := mapDrop (fun k => decide (a ≤ k) && decide (k < a + n)) s.sec.flash } }

/-- The flash holds a directory: its MAGIC and a mode byte that names a mode (log entry 57). -/
def directory (s : State) : Bool := flashRead s 0 4 == ascii "HTBF" && decide ((flashByte s 4).toNat ≤ 1)

/-- Entry k of the directory: type, copy, offset, length. -/
def flashEntry (s : State) (k : Nat) : Nat × Nat × Nat × Nat := Config.flashEntry (flashRead s (Config.flashTable + 16 * k) 16)

/-- Offset and length of an item, by type and copy: the first of the 16 entries that names it; length 0 when none does. -/
def flashItem (s : State) (type copy : Nat) : Nat × Nat :=
  if !directory s then (0, 0) else
  match (List.range 16).find? fun k => (flashEntry s k).1 == type && (flashEntry s k).2.1 == copy with
  | some k => (flashEntry s k).2.2
  | none => (0, 0)

/-- Bytes of an item, none of them when it is missing. -/
def bootItem (s : State) (type copy : Nat) : List Byte := flashRead s (flashItem s type copy).1 (flashItem s type copy).2

/-! ### Patch bundles (R302-R305, R486) -/

/-- What a bundle that passes every check holds: patch version, microwords, entries, digest. -/
structure Bundle where
  patch : Nat := 0
  words : List (Nat × Nat) := []
  entries : List (Nat × Nat) := []
  digest : BitVec 384 := 0
  deriving DecidableEq, Repr, Inhabited

/-- n bytes of a list from byte i, as a list and as a number. -/
def cutBytes (bs : List Byte) (i n : Nat) : List Byte := (bs.drop i).take n
def cutVal (bs : List Byte) (i n : Nat) : Nat := bytesVal (cutBytes bs i n)

/-- Length of an ML-DSA-65 signature (R302) and of a public key. -/
def sigLen : Nat := 3309
def keyLen : Nat := 1952

/-- The header fields of a bundle (R302): magic, format, flags, target, mask ROM, stepping, version, floor, records,
reserved bytes. A host bundle must be encrypted (R305). -/
def bundleHeader (s : State) (bs : List Byte) (host : Bool) : Bool :=
  let v := cutVal bs
  let enc := v 5 1 == 1
  let step := rgF s R.STEPPING R.STEPPING_MAJOR * 256 + rgF s R.STEPPING R.STEPPING_MINOR
  cutBytes bs 0 4 == ascii "HTMP" && v 4 1 == 1 && decide (v 5 1 ≤ 1) && v 6 2 == 0x2F12
    && v 8 2 == rgF s R.MCODE_VERSION R.MCODE_VERSION_ROMID && decide (v 10 2 ≤ step) && v 12 4 != 0
    && decide (rgF s R.SEC_STATE R.SEC_STATE_PFLOOR ≤ v 12 1) && decide (1 ≤ v 16 2) && decide (v 16 2 ≤ 4336)
    && v 18 2 == 0 && v 48 16 == 0 && (enc || (v 20 28 == 0)) && (enc || !host)
    && bs.length == 64 + 32 * v 16 2 + 48 + sigLen

/-- A record of 32 bytes is as R303 allows. -/
def recordOk (r : List Byte) : Bool :=
  let v := cutVal r
  v 1 1 == 0 && v 4 4 == 0 &&
    ((v 0 1 == 1 && decide (0x2000 ≤ v 2 2) && decide (v 2 2 ≤ 0x2FFF))
      || (v 0 1 == 2 && decide (v 2 2 ≤ 0xFF) && v 2 2 / 16 != 14 && v 8 16 == 0 && decide (bits (v 24 8) 13 0 < 0x3000)))

/-- Whether no number occurs twice. -/
def noRepeat : List Nat → Bool
  | [] => true
  | x :: r => !r.contains x && noRepeat r

/-- The checks of R304, in order; none at the first failure. -/
def bundleCheck (s : State) (bs : List Byte) (host : Bool) : Option Bundle :=
  if !bundleHeader s bs host then none else
  let n := cutVal bs 16 2
  let stored := cutBytes bs 64 (32 * n)
  let dig := cutBytes bs (64 + 32 * n) 48
  let sig := cutBytes bs (64 + 32 * n + 48) sigLen
  if digestBytes (sha3_384 (cutBytes bs 0 (64 + 32 * n))) ≠ dig then none
  else if (vendorSigner s (ascii "HTMCODE") dig sig).isNone then none
  else
    let plain := if cutVal bs 5 1 = 0 then some stored else
      Config.gcmOpen s.sec.fuses.patchKey (cutBytes bs 20 12) (cutBytes bs 32 16) (cutBytes bs 0 20) stored
    match plain with
    | none => none
    | some p =>
      let rs := (List.range n).map fun i => cutBytes p (32 * i) 32
      let ws := (rs.filter fun r => cutVal r 0 1 == 1).map fun r => (cutVal r 2 2, cutVal r 8 24)
      let es := (rs.filter fun r => cutVal r 0 1 == 2).map fun r => (cutVal r 2 2, cutVal r 24 8)
      if p.length = 32 * n && rs.all recordOk && noRepeat (ws.map (·.1)) && noRepeat (es.map (·.1)) then
        some { patch := cutVal bs 12 4, words := ws, entries := es, digest := BitVec.ofNat 384 (bytesVal dig) }
      else none

/-- A bundle is written into the patch RAM and dispatch table of every block (R304): words and entries that no record
names hold 0 and the mask ROM's. src: 1 flash, 2 host. -/
def bundleApply (s : State) (p : Bundle) (src : Nat) : State :=
  let cs := p.words.foldl (fun m w =>
    mapSet 0 (16384 * 128 + w.1) (BitVec.ofNat 196 (csParity w.2 * 2 ^ 192 + w.2)) m) (mapDrop (fun k => k / 16384 == 128) s.cs)
  let dt := p.entries.foldl (fun m e => mapSet 0 (256 * 128 + e.1) (BitVec.ofNat 64 (Nat.lor e.2 (2 ^ 62))) m)
    (mapDrop (fun k => k / 256 == 128) s.dt)
  let s1 : State := { s with cs := cs, dt := dt, sec := { s.sec with patchDigest := p.digest } }
  let s2 := setF (setF s1 R.MCODE_VERSION R.MCODE_VERSION_PATCH p.patch) R.MCODE_VERSION R.MCODE_VERSION_SRC src
  forEach (List.range 128) (fun s b => setF s (R.SEQ_MCODE_VERSION b) R.SEQ_MCODE_VERSION_PATCH p.patch) s2

/-! ### Fuses (R481, R483) -/

/-- The hash in owner slot i, and the fuses with it. -/
def slotHash (f : Fuses) (i : Nat) : BitVec 384 := match i with | 0 => f.slot0 | 1 => f.slot1 | _ => f.slot2
def setSlotHash (f : Fuses) (i : Nat) (h : BitVec 384) : Fuses :=
  match i with | 0 => { f with slot0 := h } | 1 => { f with slot1 := h } | _ => { f with slot2 := h }

/-- The next slot that no burn has touched. -/
def nextSlot (f : Fuses) : Option Nat := (List.range 3).find? fun i => !f.burned.getLsbD i

/-- SEC_STATE shows the fuses (R506). -/
def showFuses (s : State) : State :=
  let f := s.sec.fuses
  let a := R.SEC_STATE
  let s := setB s a R.SEC_STATE_LOCKED (ownerSlot f).isSome
  let s := setF s a R.SEC_STATE_OSLOT ((ownerSlot f).getD 0)
  let s := setF s a R.SEC_STATE_SPOILED (f.burned &&& ~~~f.valid).toNat
  let s := setF s a R.SEC_STATE_VKREV f.vkrev.toNat
  let s := setF s a R.SEC_STATE_PFLOOR f.pfloor.toNat
  let s := setF s a R.SEC_STATE_BFLOOR f.bfloor.toNat
  setF s a R.SEC_STATE_PKGEN f.pkgen.toNat

/-- The fuses replaced. -/
def setFuses (s : State) (f : Fuses) : State := showFuses { s with sec := { s.sec with fuses := f } }

/-! ### The mailbox (R491-R493) -/

/-- First digit of the mailbox buffer, and its bytes (R506). -/
def mbxBuf : Nat := chipCtl + 0x402000
def mbxBytes : Nat := 8192

/-- The nonce (R491). -/
def nonceBytes (s : State) : List Byte := (List.range 6).flatMap fun i => bytesOf 8 (rg s (R.SEC_NONCE i))

/-- A fresh random nonce. -/
def freshNonce (s : State) : State :=
  let v := (Config.random s.free).toNat
  forEach (List.range 6) (fun s i => setRg s (R.SEC_NONCE i) (v / 2 ^ (64 * (5 - i)) % 2 ^ 64)) (takeFree s)

/-- ARG0, ARG1 and the payload of a buffer. -/
def arg0 (bs : List Byte) : Nat := cutVal bs 0 8
def arg1 (bs : List Byte) : Nat := cutVal bs 8 8
def payload (bs : List Byte) : List Byte := bs.drop 16

/-- What a signed command's payload holds before its signature. -/
def signedPart (cmd : Nat) (bs : List Byte) : List Byte := if cmd ≤ 2 then (payload bs).take keyLen else []

/-- Its signature, and the digest under it. -/
def cmdSig (cmd : Nat) (bs : List Byte) : List Byte := ((payload bs).drop (signedPart cmd bs).length).take sigLen
def cmdDigest (s : State) (cmd : Nat) (bs : List Byte) : List Byte :=
  digestBytes (sha3_384 (nonceBytes s ++ [BitVec.ofNat 8 cmd] ++ cutBytes bs 0 16
    ++ digestBytes (sha3_384 (signedPart cmd bs))))

/-- Whether the signature of a command is that of a signer R491 names. -/
def cmdSigned (s : State) (cmd : Nat) (bs : List Byte) : Bool :=
  let ctx := ascii "HTSEC"
  let msg := cmdDigest s cmd bs
  let sig := cmdSig cmd bs
  match cmd with
  | 1 => Config.mldsaVerify (signedPart cmd bs) ctx msg sig
  | 2 => rgB s R.SEC_STATE R.SEC_STATE_LOCKED && ownerSigned s ctx msg sig
  | 3 => ownerSigned s ctx msg sig
  | _ => (List.range 4).any fun k =>
      !s.sec.fuses.vkrev.getLsbD k && decide (k ≠ arg0 bs) && Config.mldsaVerify (Config.vendorKey k) ctx msg sig

/-- Whether the buffer cannot be a command of this number. -/
def badCommand (cmd : Nat) (bs : List Byte) : Bool :=
  let need := if cmd ≤ 2 then 16 + keyLen + sigLen else if cmd ≤ 4 then 16 + sigLen else 16
  decide (cmd = 0) || decide (7 < cmd) || decide (bs.length < need)
    || (cmd == 3 && decide (1 < arg0 bs)) || (cmd == 4 && decide (3 < arg0 bs))
    || (cmd == 5 && (arg0 bs % max 1 Config.flashSector != 0 || arg1 bs % max 1 Config.flashSector != 0))
    || (cmd == 7 && decide (8176 < arg1 bs))

/-- Whether a command is refused with STATE (R492). -/
def refusedState (s : State) (cmd : Nat) (bs : List Byte) : Bool :=
  let f := s.sec.fuses
  let busy := rgB s R.IMG_STATUS R.IMG_STATUS_BUSY
  match cmd with
  | 1 => rgB s R.SEC_STATE R.SEC_STATE_LOCKED || busy || (nextSlot f).isNone
  | 2 => busy || (nextSlot f).isNone
  | 3 =>
    let v := arg1 bs
    let (floor, run) := if arg0 bs = 0 then (f.bfloor.toNat, rgF s R.BOOT_STATUS R.BOOT_STATUS_BFWVER / 2 ^ 24)
      else (f.pfloor.toNat, rgF s R.MCODE_VERSION R.MCODE_VERSION_PATCH / 2 ^ 24)
    decide (v < floor) || decide (64 < v) || decide (run < v)
  | 4 => (f.vkrev ||| BitVec.twoPow 4 (arg0 bs)) == 15 || s.sec.bfwKey == some (BitVec.ofNat 2 (arg0 bs))
  | _ => false

/-- Whether a flash command reaches beyond the largest flash (R484). -/
def beyondFlash (cmd : Nat) (bs : List Byte) : Bool :=
  match cmd with
  | 5 => decide (2 ^ 28 < arg0 bs + arg1 bs)
  | 6 => decide (2 ^ 28 < arg0 bs + (payload bs).length)
  | 7 => decide (2 ^ 28 < arg0 bs + arg1 bs)
  | _ => false

/-- What the checks of a command decide: 0 OK, 1 BADCMD, 2 AUTH, 3 STATE, 4 INHIBIT, 6 FLASH. -/
def mbxStatus (s : State) (cmd : Nat) (bs : List Byte) : Nat :=
  if badCommand cmd bs then 1
  else if refusedState s cmd bs then 3
  else if cmd ≤ 4 && !cmdSigned s cmd bs then 2
  else if beyondFlash cmd bs then 6
  else if mbxInhibited s cmd then 4
  else 0

/-- Whether an initiator's mailbox writes count (R491). -/
def mbxMay (i : Initiator) : Bool := match i with | .host f => f.val == 0 | .awl => true | _ => false

/-- GO written with a command: it starts, unless one is running. -/
def mbxGo (s : State) (cmd : Nat) : State :=
  let a := R.SEC_MBX
  if rgB s a R.SEC_MBX_BUSY then s else
  let bs := readBytes s mbxBuf (min mbxBytes (rgF s a R.SEC_MBX_LEN))
  let m : MbxRun := { cmd := BitVec.ofNat 8 cmd, status := BitVec.ofNat 8 (mbxStatus s cmd bs), args := bs }
  let s1 := setB (setB (setF s a R.SEC_MBX_CMD cmd) a R.SEC_MBX_GO true) a R.SEC_MBX_BUSY true
  { s1 with sec := { s1.sec with mbx := some m } }

/-- A mailbox command of initiator i. -/
def mbxRow (i : Initiator) (cmd : Nat) (s : State) : State := if mbxMay i then mbxGo s cmd else s

/-- OWNER_LOCK (R491). -/
def execOwnerLock (i : Initiator) (s : State) : Host.Outcome State Fault Refusal := .next (mbxRow i 1 s)
/-- OWNER_TRANSFER (R491). -/
def execOwnerTransfer (i : Initiator) (s : State) : Host.Outcome State Fault Refusal := .next (mbxRow i 2 s)
/-- RAISE_FLOOR (R491). -/
def execRaiseFloor (i : Initiator) (s : State) : Host.Outcome State Fault Refusal := .next (mbxRow i 3 s)
/-- REVOKE_VKEY (R491). -/
def execRevokeVkey (i : Initiator) (s : State) : Host.Outcome State Fault Refusal := .next (mbxRow i 4 s)
/-- FLASH_ERASE (R491). -/
def execFlashErase (i : Initiator) (s : State) : Host.Outcome State Fault Refusal := .next (mbxRow i 5 s)
/-- FLASH_PROGRAM (R491). -/
def execFlashProgram (i : Initiator) (s : State) : Host.Outcome State Fault Refusal := .next (mbxRow i 6 s)
/-- FLASH_READ (R491). -/
def execFlashRead (i : Initiator) (s : State) : Host.Outcome State Fault Refusal := .next (mbxRow i 7 s)

/-- The new owner key of a lock or transfer: the next slot with its VALID fuse, the old slot's RETIRED fuse, the key in
the flash. A lock sets UNCHECKED to 0 (R492). -/
def burnOwner (s : State) (key : List Byte) : State :=
  let f := s.sec.fuses
  match nextSlot f with
  | none => s
  | some i =>
    let old := ownerSlot f
    let f1 := setSlotHash f i (sha3_384 key)
    let f2 : Fuses := { f1 with
      burned := f1.burned ||| BitVec.twoPow 3 i, valid := f1.valid ||| BitVec.twoPow 3 i
      retired := match old with | some o => f1.retired ||| BitVec.twoPow 3 o | none => f1.retired }
    let (o, n) := flashItem s 4 0
    let s1 := setFuses { s with sec := { s.sec with ownerKey := some key } } f2
    let s2 := setB s1 R.IMG_CTRL R.IMG_CTRL_UNCHECKED false
    if keyLen ≤ n then flashReplace s2 o key else s2

/-- How many of n bytes from flash byte a are programmed when the pages up to a free number of them complete (R479). -/
def pagesDone (a n k : Nat) : Nat :=
  let p := max 1 Config.flashPage
  let pages := (a + n + p - 1) / p - a / p
  let done := k % (pages + 1)
  if done = 0 then 0 else min n ((a / p + done) * p - a)

/-- A command that an inhibit cut short (R479, R483, R493): the slot is left part-burned, the floor at the bits burned,
the flash part-written; how far it got is a free value. -/
def mbxCut (s : State) (cmd : Nat) (bs : List Byte) : State :=
  let f := s.sec.fuses
  let k := freeNat s
  let s1 := takeFree s
  match cmd with
  | 3 =>
    let v := arg1 bs
    let up (o : BitVec 8) : BitVec 8 := BitVec.ofNat 8 (o.toNat + k % (v - o.toNat + 1))
    setFuses s1 (if arg0 bs = 0 then { f with bfloor := up f.bfloor } else { f with pfloor := up f.pfloor })
  | 4 => if k % 2 = 0 then s1 else setFuses s1 { f with vkrev := f.vkrev ||| BitVec.twoPow 4 (arg0 bs) }
  | 5 => flashErase s1 (arg0 bs) (k % (arg1 bs / max 1 Config.flashSector + 1) * max 1 Config.flashSector)
  | 6 => flashProgram s1 (arg0 bs) ((payload bs).take (pagesDone (arg0 bs) (payload bs).length k))
  | _ =>
    match nextSlot f with
    | none => s1
    | some i =>
      let some_ := Config.random s.free &&& sha3_384 (signedPart cmd bs)
      let f1 := setSlotHash f i some_
      setFuses s1 { f1 with burned := f1.burned ||| BitVec.twoPow 3 i }

/-- A command's effect (R491). -/
def mbxEffect (s : State) (cmd : Nat) (bs : List Byte) : State :=
  let f := s.sec.fuses
  match cmd with
  | 3 => setFuses s (if arg0 bs = 0 then { f with bfloor := BitVec.ofNat 8 (arg1 bs) }
      else { f with pfloor := BitVec.ofNat 8 (arg1 bs) })
  | 4 => setFuses s { f with vkrev := f.vkrev ||| BitVec.twoPow 4 (arg0 bs) }
  | 5 => flashErase s (arg0 bs) (arg1 bs)
  | 6 => flashProgram s (arg0 bs) (payload bs)
  | 7 => writeDigits s (mbxBuf + 32) (digitsOfBytes (flashRead s (arg0 bs) (arg1 bs)))
  | _ => burnOwner s (signedPart cmd bs)

/-- MAILBOX_COMMAND_DONE (R493): the effect, STATUS and DONE; the nonce is replaced after a signed command. -/
def execMailboxCommandDone (s : State) : Host.Outcome State Fault Refusal :=
  .next (match s.sec.mbx with
    | none => s
    | some m =>
      let cmd := m.cmd.toNat
      let s1 : State := { s with sec := { s.sec with mbx := none } }
      let s2 := if m.status ≠ 0 then s1 else if m.cut then mbxCut s1 cmd m.args else mbxEffect s1 cmd m.args
      let s3 := if burnsFuses cmd then freshNonce s2 else s2
      let a := R.SEC_MBX
      let s4 := setF s3 a R.SEC_MBX_STATUS (if m.status = 0 && m.cut then 4 else m.status.toNat)
      let s5 := setB (setB s4 a R.SEC_MBX_BUSY false) a R.SEC_MBX_GO false
      cicRise s (setB s5 a R.SEC_MBX_DONE true) 9)

end Sys2Proof.Machine
end

