-- ==== Sys2Proof/Machine/Saddlebag.lean ====
section
/-! DEFINITION. The Saddlebag: cartridges, the journal, wear, checkpoints to the cartridge (R393, R496-R505). -/

namespace Sys2Proof.Machine

/-! ### State and life of the cartridge (R497, R501) -/

/-- SB_STATUS.STATE set. -/
def setSbState (s : State) (v : Nat) : State := setF s R.SB_STATUS R.SB_STATUS_STATE v

/-- Life used in percent: WRITTEN over RATED. -/
def lifePct (written rated : Nat) : Nat := if rated = 0 then 255 else min 255 (100 * written / rated)

/-- The state of a bound cartridge by its life: TRUSTED, WORN at 100 %, EXHAUSTED 1 GiB beyond. -/
def lifeState (written rated : Nat) : Nat :=
  if written < rated then sbTrusted else if written < rated + 1024 then sbWorn else sbExhausted

/-- SB_LIFE, PCT and EOLMB show a cartridge's life. -/
def showLife (s : State) (c : CartId) : State :=
  let w := c.written.toNat
  let r := c.rated.toNat
  let s := setRg s R.SB_LIFE (w * 2 ^ 32 + r)
  let s := setF s R.SB_STATUS R.SB_STATUS_PCT (lifePct w r)
  setF s R.SB_JRNL R.SB_JRNL_EOLMB (min 1024 (w - r))

/-- Event bits of SB_STATUS set, with the SBAG source that follows them (R454). -/
def sbEvent (s : State) (f : Fld) : State := cicRise s (setB s R.SB_STATUS f true) 10

/-- n bytes written to cartridge c: WRITTEN grows, and LIFEEV is set as it crosses 80, 90 or 100 % (R501). -/
def wear (s : State) (c : Cart) (n : Nat) : State :=
  let w0 := c.id.written.toNat
  let r := c.id.rated.toNat
  let w := min (w0 + (c.rest + n) / 2 ^ 20) (2 ^ 32 - 1)
  let id := { c.id with written := BitVec.ofNat 32 w }
  let s := showLife (setCart s (some { c with id := id, rest := (c.rest + n) % 2 ^ 20 })) id
  let s := if sbState s = sbTrusted ∨ sbState s = sbWorn then setSbState s (lifeState w r) else s
  if [80, 90, 100].any fun p => decide (lifePct w0 r < p) && decide (p ≤ lifePct w r) then sbEvent s R.SB_STATUS_LIFEEV else s

/-! ### Insertion, removal, adoption (R497, R498, R502) -/

/-- What an inserted cartridge holds: what it held when it was removed, else nothing. -/
def cartOf (s : State) (c : CartId) : Cart :=
  match s.sb.shelf.find? fun k => k.id.serial == c.serial && !c.blank with
  | some k => { k with id := c }
  | none => { id := c }

/-- The state that probe and challenge give a cartridge. -/
def challengeState (s : State) (c : CartId) : Nat :=
  if !c.chainOk || !c.sigOk then sbUntrusted
  else if !c.blank && c.bind != idevidHash s then sbForeign
  else lifeState c.written.toNat c.rated.toNat

/-- A cartridge is detected, probed and challenged; a blank one is bound to this device, at once or when the inhibit of
Saddlebag writes ends (R478). -/
def insertOp (s : State) (c : CartId) : State :=
  let st := challengeState s c
  let s := { s with sb := { s.sb with cart := some (cartOf s c),
                                      shelf := s.sb.shelf.filter fun k => k.id.serial != c.serial } }
  let s := setB (setF s R.SB_STATUS R.SB_STATUS_GEN c.gen.toNat) R.SB_STATUS R.SB_STATUS_PRES true
  let s := setRg (setRg s (R.SB_SERIAL 1) (c.serial.toNat / 2 ^ 64)) (R.SB_SERIAL 0) (c.serial.toNat % 2 ^ 64)
  let s := bindCart (showLife (setSbState s st) c)
  if st = sbUntrusted then sbEvent s R.SB_STATUS_FAILEV else s

/-- CARTRIDGE_INSERT (R497). -/
def execCartridgeInsert (c : CartId) (s : State) : Host.Outcome State Fault Refusal :=
  .next (if s.sb.cart.isSome then s else sbEvent (insertOp s c) R.SB_STATUS_INSEV)

/-- The slot of a save that failed holds no checkpoint. -/
def dropSlot (c : Cart) (o : CkptOp) : Cart := { c with slots := mapErase o.slot c.slots }

/-- CARTRIDGE_REMOVE (R502): an operation in progress ends REMOVED; the records stay queued. -/
def execCartridgeRemove (s : State) : Host.Outcome State Fault Refusal :=
  .next (match s.sb.cart with
    | none => s
    | some c =>
      let c := match s.sb.op with | some o => if o.restore then c else dropSlot c o | none => c
      let op := s.sb.op.map fun o => { o with status := 8 }
      let s := { s with sb := { s.sb with cart := none, shelf := s.sb.shelf ++ [c], op := op } }
      let a := R.SB_STATUS
      let s := setB (setF (setSbState s 0) a R.SB_STATUS_GEN 0) a R.SB_STATUS_PRES false
      let s := setF (setB s a R.SB_STATUS_MAPV false) a R.SB_STATUS_PCT 0
      let s := setRg (setRg (setRg s R.SB_LIFE 0) (R.SB_SERIAL 0) 0) (R.SB_SERIAL 1) 0
      sbEvent (setF s R.SB_JRNL R.SB_JRNL_EOLMB 0) R.SB_STATUS_REMEV)

/-- SB_CTRL.ADOPT: a FOREIGN cartridge is erased and bound; nothing happens in any other state, or while Saddlebag
writes are inhibited. -/
def adoptOp (s : State) : State :=
  match s.sb.cart with
  | some c =>
    if sbState s ≠ sbForeign || cartInhibit s then s else
    let s := setCart s (some { c with id := { c.id with bind := idevidHash s }, journal := [], spare := [], seq := 0 })
    setSbState s (lifeState c.id.written.toNat c.id.rated.toNat)
  | none => s

/-- ADOPT (R498). -/
def execAdopt (s : State) : Host.Outcome State Fault Refusal := .next (adoptOp s)

/-! ### The journal (R393, R500) -/

/-- The kinds that make up the spare map (R394). -/
def persists (r : JRec) : Bool := decide (3 ≤ r.kind.toNat) && decide (r.kind.toNat ≤ 8)

/-- The 32 bytes of a record, with its CRC (R393). -/
def recordBytes (r : JRec) : List Byte :=
  let bs := bytesOf 8 r.time.toNat ++ [r.kind, r.src, r.pid, r.dev] ++ bytesOf 2 r.unit.toNat ++ bytesOf 2 r.arg.toNat
    ++ bytesOf 4 r.epoch.toNat ++ bytesOf 8 r.loc.toNat
  bs ++ bytesOf 4 (crc32 bs).toNat

/-- Records that the journal ring of 1 GiB holds. -/
def ringRecords : Nat := 2 ^ 25

/-- JOURNAL_WRITE (R500): the oldest queued record reaches the cartridge; one that persists also rewrites the older
spare-map snapshot. A record that finds its domain in L5 wakes it. -/
def execJournalWrite (s : State) : Host.Outcome State Fault Refusal :=
  .next (match s.sb.queue, s.sb.cart with
    | r :: q, some c =>
      if domCur s 173 ≠ 0 then wakeDom s 173
      else if (sbState s ≠ sbTrusted ∧ sbState s ≠ sbWorn) ∨ cartInhibit s then s
      else
        let j := (if c.journal.length < ringRecords then c.journal else c.journal.tail) ++ [r]
        let c1 : Cart := if persists r then { c with journal := j, spare := c.spare ++ [r], seq := c.seq + 1 } else { c with journal := j }
        let n := 32 + if persists r then 64 + 32 * c1.spare.length + 48 else 0
        let s := { s with sb := { s.sb with queue := q } }
        wear (setF s R.SB_JRNL R.SB_JRNL_QDEPTH q.length) c1 n
    | _, _ => s)

/-! ### Checkpoints (R503-R505) -/

/-- Checkpoint slots of a cartridge (R499). -/
def slotCount (c : Cart) : Nat := if c.id.gen.toNat = 2 then 62 else 14

/-- Whether the slot, or with a periodic save both slots, are slots of the cartridge. -/
def slotOk (c : Cart) (slot intv : Nat) : Bool := decide (slot + b2n (decide (0 < intv)) < slotCount c)

/-- The DIGEST of the last accepted image (R83). -/
def imgDigest (s : State) : BitVec 384 :=
  BitVec.ofNat 384 ((List.range 6).foldl (fun a i => a * 2 ^ 64 + rg s (R.IMG_DIGEST i)) 0)

/-- Whether a slot's header matches the partition (R504). -/
def slotMatches (s : State) (n : Nat) (k : CartSlot) : Bool :=
  k.regmask == (partCfg s n).regmask && k.pver.toNat == rgF s (R.IMG_PVER n) R.IMG_PVER_VERSION && k.digest == imgDigest s

/-- What the checks of an operation decide (R505). -/
def ckptStatus (s : State) (restore : Bool) (n slot intv : Nat) : Nat :=
  if !defined s n then 1 else
  match s.sb.cart with
  | none => 2
  | some c =>
    if sbState s = sbWorn ∨ sbState s = sbExhausted then 3
    else if sbState s ≠ sbTrusted then 2
    else if !slotOk c slot intv then 9
    else if restore then
      (if !idlePart s n then 6
       else if mapHas slot c.slots && slotMatches s n (mapGet {} slot c.slots) then 0 else 5)
    else if cartInhibit s then 4
    else 0

/-- An operation has ended with a status: GO reads 0, DONEV and, if it failed, ERRV are set, with the SBAG source. -/
def ckptEnd (s : State) (st : Nat) : State :=
  let a := R.SB_CKPT
  let s1 := setB (setF s a R.SB_CKPT_STATUS st) a R.SB_CKPT_GO false
  let s2 := if st = 0 then s1 else setB s1 a R.SB_CKPT_ERRV true
  cicRise s (setB s2 a R.SB_CKPT_DONEV true) 10

/-- An operation on a slot starts, or ends at once. -/
def ckptBegin (s : State) (restore : Bool) (slot : Nat) : State :=
  let a := R.SB_CKPT
  let n := rgF s a R.SB_CKPT_PID
  let st := ckptStatus s restore n (rgF s a R.SB_CKPT_SLOT) (if restore then 0 else rgF s a R.SB_CKPT_INTV)
  if st ≠ 0 then ckptEnd s st else
  let o : CkptOp := { restore := restore, part := n, slot := slot, mems := rgB s a R.SB_CKPT_MEMS }
  setB { s with sb := { s.sb with op := some o } } a R.SB_CKPT_GO true

/-- SB_CKPT.GO with OP SAVE: the save, and the first of the periodic ones that follow. -/
def ckptSaveOp (s : State) : State :=
  if s.sb.op.isSome then s else
  let i := rgF s R.SB_CKPT R.SB_CKPT_INTV
  let s := { s with sb := { s.sb with alt := true, nextSave := if i = 0 then none else some (now s + i * 100000000) } }
  ckptBegin (setB s R.SB_CKPT R.SB_CKPT_OP false) false (rgF s R.SB_CKPT R.SB_CKPT_SLOT)

/-- CKPT_SAVE (R503). -/
def execCkptSave (s : State) : Host.Outcome State Fault Refusal := .next (ckptSaveOp s)

/-- SB_CKPT.GO with OP RESTORE. -/
def ckptRestoreOp (s : State) : State :=
  if s.sb.op.isSome then s else
  ckptBegin (setB s R.SB_CKPT R.SB_CKPT_OP true) true (rgF s R.SB_CKPT R.SB_CKPT_SLOT)

/-- CKPT_RESTORE (R504). -/
def execCkptRestore (s : State) : Host.Outcome State Fault Refusal := .next (ckptRestoreOp s)

/-- CKPT_PERIODIC_START (R503): the next periodic save, in SLOT and SLOT + 1 by turns. -/
def execCkptPeriodicStart (s : State) : Host.Outcome State Fault Refusal :=
  .next (match s.sb.nextSave with
    | none => s
    | some t =>
      if now s < t then s else
      let i := rgF s R.SB_CKPT R.SB_CKPT_INTV
      let slot := rgF s R.SB_CKPT R.SB_CKPT_SLOT + b2n s.sb.alt
      let busy := s.sb.op.isSome
      let s := { s with sb := { s.sb with alt := !s.sb.alt, nextSave := if i = 0 then none else some (t + i * 100000000) } }
      if busy || i = 0 then s else ckptBegin s false slot)

/-- Whether a digit of memory belongs to a scratchpad or turn memory. -/
def blockMem (a : Nat) : Bool :=
  decide (0x010000000000 ≤ a) && decide (a < 0x010080000000) && decide (a % 0x1000000 < 0x200000)

/-- What a save writes of the committed state: planes and state record, and with MEMS the block memories. -/
def savedPart (c : Snap) (mems : Bool) : Snap :=
  { c with mem := mapOnly (fun k => mems && blockMem (2 * k)) c.mem, runs := [], parked := [] }

/-- Bytes of a save (R503). -/
def saveBytes (s : State) (n : Nat) (mems : Bool) : Nat :=
  (blocksOf s n).length * (0x408000 + if mems then 0xC0000 else 0)

/-- The committed state that a slot becomes: what the slot does not hold stays as it is. -/
def restoredSnap (s : State) (n : Nat) (k : CartSlot) : Snap :=
  let cur := takeSnap s n
  let bs := ((blocksOf s n).filter fun b => (mapGet ({} : Seq) b k.snap.seqs).inProg)
  { k.snap with
    mem := mapOver (fun x => k.mems && blockMem (2 * x)) k.snap.mem (mapDrop (fun x => k.mems && blockMem (2 * x)) cur.mem)
    runs := if bs.isEmpty then [] else [{ part := n, blocks := bs }]
    pwr := cur.pwr, parked := cur.parked, cicPend := cur.cicPend }

/-- A slot is written into the committed slots, restored and resumed (R384, R504). -/
def restoreSlot (s : State) (n : Nat) (k : CartSlot) : State :=
  let c := restoredSnap s n k
  let s := restoreSnap s n c
  let s := updEpoch s n fun e => { e with com := some c, alt := none, held := [], shadowed := [], step := 0, rolling := true, wasHalted := false }
  resumePart s n

/-- CKPT_DONE (R505): the operation in progress ends; media: the cartridge has failed. -/
def execCkptDone (media : Bool) (s : State) : Host.Outcome State Fault Refusal :=
  .next (match s.sb.op with
    | none => s
    | some o =>
      let s := { s with sb := { s.sb with op := none } }
      let st := if o.status ≠ 0 then o.status else if media then 7 else 0
      let s := if st = 7 then sbEvent (setSbState s sbFailed) R.SB_STATUS_FAILEV else s
      let s := match s.sb.cart with
        | none => s
        | some c =>
          if o.restore then (if st = 0 then restoreSlot s o.part (mapGet {} o.slot c.slots) else s)
          else if st ≠ 0 then setCart s (some (dropSlot c o))
          else match (epochOf s o.part).com with
            | none => s
            | some p =>
              let k : CartSlot :=
                { regmask := (partCfg s o.part).regmask, pver := BitVec.ofNat 32 (rgF s (R.IMG_PVER o.part) R.IMG_PVER_VERSION)
                  digest := imgDigest s, epoch := BitVec.ofNat 32 (rgF s (R.EP_STAT o.part) R.EP_STAT_EPOCH)
                  mems := o.mems, snap := savedPart p o.mems }
              wear s { c with slots := mapPut o.slot k c.slots } (saveBytes s o.part o.mems)
      let s := ckptEnd s st
      if (epochOf s o.part).defer && !(epochOf s o.part).rolling then requestBoundary s o.part else s)

end Sys2Proof.Machine
end

