-- ==== Sys2Proof/Machine/Rein.lean ====
section
/-! DEFINITION. The Rein ports and what a cascade does together: training, identity, cascade-wide loads, dispatch, edge
data, partials, tunnelled requests, TIMEBASE, lanes (chapter 13). -/

namespace Sys2Proof.Machine

/-! ### Ports (R430, R444-R446) -/

/-- The link of port p stands on a path between the lead and another device (R427): the ports of a column do, and in
the lead's row those of the row. -/
def onPath (s : State) (p : Nat) : Bool := p % 2 == 0 || (posOf s (myIdx s)).2 == (posOf s (leadIdx s)).2

/-- A port goes DOWN (R445): its event, its CIC source. Where a device loses its path to the lead, the cascade partition is
outside concealment on every device (R390): this one acts, and tells the devices behind it and, where it still reaches the
lead, the lead (log entry 99). -/
def portFails (s : State) (p cause : Nat) : State :=
  let s0 := s
  let s1 := setB (setPort s p portDown cause) (R.REIN_STATUS p) R.REIN_STATUS_DOWNEV true
  let s2 := cicRise s0 s1 (4 + p)
  let c := s2.cfg.cascade
  if c.role ≠ 0 ∧ c.ports.getLsbD p ∧ cascadePart s2 c.cpid.toNat ∧ onPath s2 p then
    let s3 := fromLead (concealmentLost s2 c.cpid.toNat 9 (0x200 + 6 * p + 5) 0) ctlAbort (cascArg .lost)
    if towardPort s3 = some p then s3 else toLead s3 ctlFail (BitVec.ofNat 64 (myIdx s3 * 2 ^ 32) + cascArg .lost)
  else s2

/-- LSTj of REIN_LANE. -/
def laneFld (j : Nat) : Fld := ⟨2 * j + 1, 2 * j⟩
def laneState (s : State) (p j : Nat) : Nat := rgF s (R.REIN_LANE p) (laneFld j)

/-- The failed lanes of a port. -/
def failedLanes (s : State) (p : Nat) : List Nat := (List.range 17).filter fun j => laneState s p j == 2

/-- The lanes that a port with failed lanes f runs on: group (0 all, 1 L, 2 H) and the lane that lane 16 stands in for;
none when no group is complete (R444). -/
def laneGroup (f : List Nat) : Option (Nat × Option Nat) :=
  let spare := !f.contains 16
  let fit (lo hi : Nat) : Option (Option Nat) :=
    match f.filter fun j => decide (lo ≤ j) && decide (j < hi) with
    | [] => some none
    | [j] => if spare then some (some j) else none
    | _ => none
  match fit 0 16 with
  | some r => some (0, r)
  | none => match fit 0 8 with
    | some r => some (1, r)
    | none => (fit 8 16).map fun r => (2, r)

/-- The lanes of a port set out for failed lanes f (R444, R446); none when the port cannot run. -/
def laneSet (s : State) (p : Nat) (f : List Nat) : Option State :=
  match laneGroup f with
  | none => none
  | some (g, sub) =>
    let used (j : Nat) : Bool := match g with | 0 => decide (j < 16) | 1 => decide (j < 8) | _ => decide (8 ≤ j) && decide (j < 16)
    let code (j : Nat) : Nat :=
      if f.contains j then 2 else if j = 16 then (if sub.isSome then 0 else 1) else if used j then 0 else 3
    let v := (List.range 17).foldl (fun a j => a + code j * 4 ^ j) 0
    some (setRg s (R.REIN_LANE p) (v + g * 2 ^ 36 + sub.getD 0 * 2 ^ 38))

/-- Lanes f of a port have failed: it switches, degrades or goes DOWN (R444). -/
def lanesFail (s : State) (p : Nat) (f : List Nat) : State :=
  let old := rg s (R.REIN_LANE p)
  match laneSet s p f with
  | none => portFails (f.foldl (fun s j => setF s (R.REIN_LANE p) (laneFld j) 2) s) p 1
  | some t =>
    let a := R.REIN_STATUS p
    let g := rgF t (R.REIN_LANE p) R.REIN_LANE_GROUP
    let inUse := laneState t p 16 == 0
    let wasUse := bits old 33 32 == 0
    let t := if inUse && !wasUse then setB t a R.REIN_STATUS_SPEV true else t
    let t := if g ≠ 0 ∧ bits old 37 36 = 0 then setB (setPort t p portDegraded 0) a R.REIN_STATUS_DEGEV true else t
    if bits old 37 36 = g ∧ inUse = wasUse ∧ bits old 41 38 = rgF t (R.REIN_LANE p) R.REIN_LANE_SUBST then t
    else warnOp (addSat t a R.REIN_STATUS_LANESW 1) 6 (0x200 + 6 * p + 5) (s.cfg.cascade.cpid.toNat) true

/-- REIN_LANE_FAILURE (R428, R444): a lane that has lost lock fails, and one that has caused more than 64 frame retries
within 1 ms; retries count in RETRY. -/
def execReinLaneFailure (p : BitVec 2) (f : LaneFault) (s : State) : Host.Outcome State Fault Refusal :=
  let p := p.toNat
  .next (if !portUsable s p || laneState s p f.lane == 2 then s else
    let s := addSat s (R.REIN_STATUS p) R.REIN_STATUS_RETRY f.retries
    if 1 ≤ f.retries ∧ f.retries ≤ 64 then s else lanesFail s p (failedLanes s p ++ [f.lane.val]))

/-- REIN_PARTNER_DETECTED (R430): training, from readiness until the first image is released, and of a partition's lanes after
their release (R75). The port stays in TRAIN until the partner's IDENT has come. lanes: bit j, lane j has locked. -/
def execReinPartnerDetected (p : BitVec 2) (lat : BitVec 8) (clockOk : Bool) (lanes : BitVec 17) (s : State) :
    Host.Outcome State Fault Refusal :=
  let p := p.toNat
  .next (
    if !rgB s R.HI_STATUS R.HI_STATUS_READY || decide (portTrain < portState s p) || domCur s (169 + p) != 0
        || (s.rein.released && portState s p != portTrain) then s else
    let s := setF s (R.REIN_STATUS p) R.REIN_STATUS_LLAT lat.toNat
    if !clockOk then portFails s p 2 else
    let f := (List.range 17).filter fun j => !lanes.getLsbD j
    match laneSet s p f with
    | none => portFails (f.foldl (fun s j => setF s (R.REIN_LANE p) (laneFld j) 2) s) p 1
    | some t =>
      let t := if laneState t p 16 = 0 then setB t (R.REIN_STATUS p) R.REIN_STATUS_SPEV true else t
      sendIdent (setPort t p portTrain 0) (identRec t) p)

/-- IDENT (R430): position, record and lead are checked, and the port goes UP or enters MISMATCH. -/
def execIdent (p : BitVec 2) (m : IdentMsg) (s : State) : Host.Outcome State Fault Refusal :=
  let p := p.toNat
  .next (
    if portState s p < portTrain ∨ portState s p = portDown then s else
    let a := R.REIN_STATUS p
    let s := setB (setF s a R.REIN_STATUS_PEER m.dev.toNat) a R.REIN_STATUS_PEERV true
    let s := { s with rein := { s.rein with idents := mapPut p m s.rein.idents } }
    judgeIdent s (identRec s) p m)

/-! ### Cascade-wide loads (R432) -/

/-- The device index that the load in progress gives this device. -/
def wideIdx (s : State) (L : ImgLoad) : Nat := if L.staged.isSome then myIdx (inLoadCascade s L) else myIdx s

/-- VERIFIED (R432): the report of a member goes on to the lead, or, where the way is not known yet, when this device's own
image has passed VERIFY; with the last one the lead sends RELEASE(T). -/
def execVerified (dev : BitVec 4) (s : State) : Host.Outcome State Fault Refusal :=
  .next (match s.img with
    | none => { s with rein := { s.rein with verified := setAdd dev s.rein.verified } }
    | some L =>
      if L.partial_ then { s with rein := { s.rein with verified := setAdd dev s.rein.verified } }
      else if L.relTick.isSome then s
      else if L.staged.isSome && !L.leads then viaStaged s L fun s => toLead s ctlVerified (dev.setWidth 64)
      else leadReleases s { L with verified := setAdd dev L.verified })

/-- RELEASE (R432): a member applies, and releases at tick T. -/
def execRelease (t : Word) (s : State) : Host.Outcome State Fault Refusal :=
  .next (match s.img with
    | none => s
    | some L =>
      if !L.wide || L.leads || L.relTick.isSome || phase s != 4 then s else
      let s := viaStaged s L fun s => fromLead s ctlRelease t
      setPhase { s with img := some { L with relTick := some t.toNat } } 5)

/-- The load ends FAILED with IMG_CASCADE and the device at fault (R432), here and behind this device. -/
def cascadeFail (s : State) (L : ImgLoad) (dev : Nat) : State :=
  let s := reportRej (dropParts s L) (0x14, 0, dev, 0) 7
  viaStaged s L fun s => fromLead s ctlLoadAbort (BitVec.ofNat 64 dev)

/-- CASCADE_LOAD_ABORT (R432): the lead's ABORT at a member, or a member's failure at the lead. -/
def execCascadeLoadAbort (dev : BitVec 4) (s : State) : Host.Outcome State Fault Refusal :=
  .next (match s.img with
    | none => { s with rein := { s.rein with verified := [] } }
    | some L => if L.partial_ || L.relTick.isSome || decide (phase s < 2) then s else cascadeFail s L dev.toNat)

/-- CASCADE_LOAD_TIMEOUT (R432): 1 s after VERIFY the report of device dev, or at a member RELEASE, is missing. -/
def execCascadeLoadTimeout (dev : BitVec 4) (s : State) : Host.Outcome State Fault Refusal :=
  .next (match s.img with
    | none => s
    | some L =>
      if !L.wide || L.relTick.isSome || L.staged.isNone || decide (now s < L.verTick + 100000000) then s
      else if L.leads then
        (if (wideMembers s L).contains dev.toNat && !L.verified.contains dev then cascadeFail s L dev.toNat else s)
      else
        let me := wideIdx s L
        cascadeFail (viaStaged s L fun s => toLead s ctlLoadAbort (BitVec.ofNat 64 me)) L me)

/-! ### The cascade partition at work (R433-R438) -/

/-- The instruction of a frame as it executes here: registers and control registers are those of the frame (R433). -/
def frameOp (m : DispFrame) (go : Bool) : Susp :=
  { w := m.w, d := m.d, s := m.s, u := m.u, dctl := m.dctl, rctl := m.rctl, far := some m.pattern, go := go }

/-- The instruction of a frame executes to its end, with its record r. -/
def runFrame (s : State) (b : Nat) (r : Susp) : State :=
  let op := r.w.toNat / 2 ^ 24
  stateOf s (execOpcode op (BitVec.ofNat 7 b) (BitVec.ofNat 24 r.w.toNat) (updSeq s b fun q => { q with resume := some r }))

/-- A dispatch starts here (R433). -/
def startFrame (s : State) (b : Nat) (m : DispFrame) : State :=
  let op := m.w.toNat / 2 ^ 24
  if farRun s b || op < 0x80 then s
  else if op / 16 = 14 ∨ rerouted s b op then
    setMicro s b (some { microStart s b (suspCtx s b (frameOp m false)) (dtEntry s b op) with far := true })
  else runFrame s b (frameOp m true)

/-- The lead's instruction has yielded: this device's part yields at the same safe point, a microcoded one when its engine has
come to it (R434). -/
def yieldFrame (s : State) (b : Nat) (m : DispFrame) (step : BitVec 16) (cause : BitVec 8) : State :=
  match (seqOf s b).micro with
  | some u =>
    if !u.far then s
    else if u.steps = step.toNat ∧ u.run = 0 then yieldMicro s b u cause.toNat
    else updSeq s b fun q => { q with micro := some { u with stop := some (step, cause) } }
  | none =>
    let r := match (seqOf s b).resume with | some r => if r.far.isSome then r else frameOp m false | none => frameOp m false
    yieldAs s b (suspCtx s b r) step.toNat cause.toNat

/-- What a frame of DISP says happens on this device, in its blocks of the cascade partition n (R433, R434). -/
def actHere (s : State) (n b : Nat) (m : DispFrame) : State :=
  match m.act with
  | .start => startFrame s b m
  | .yield step cause => yieldFrame s b m step cause
  | .resume => resumeOp s b
  | .go => match (seqOf s b).resume with
    | some r => if r.far.isSome then runFrame s b { r with go := true } else s
    | none => s
  | .abandon => abandonHere s b
  | .halt c => haltGang (clearHaltReq s b) b c.toNat
  | .release => releaseHalt s b
  | .stop c => girthStop s n c.toNat
  | .free => freePart s n
  | .irq dev c k =>
    if dev.toNat = myIdx s then
      let s : State := { s with rein := { s.rein with fwd := s.rein.fwd.erase (dev, c, k) } }
      if bicEligible s c.toNat k.toNat then bicDeliver s c.toNat k.toNat else s
    else s

/-- DISPATCH_FRAME (R433, R434): what the lead has dispatched, or decided, goes on away from the lead and happens here. -/
def execDispatchFrame (m : DispFrame) (s : State) : Host.Outcome State Fault Refusal :=
  .next (
    let n := s.cfg.cascade.cpid.toNat
    if !follows s n then s else actHere (sendDisp s m) n (leadOf s n) m)

/-- FORWARDED_REQUEST (R434): a member's request goes on toward the lead, which takes it at its next boundary. -/
def execForwardedRequest (dev : BitVec 4) (r : FwdReq) (s : State) : Host.Outcome State Fault Refusal :=
  .next (
    let n := s.cfg.cascade.cpid.toNat
    if !cascadePart s n then s
    else if !leadsCascade s then toLead s ctlForward (BitVec.ofNat 64 (fwdCode r))
    else match r with
      | .abandon => abandonAll s (leadOf s n)
      | .interrupt b k => { s with rein := { s.rein with fwd := s.rein.fwd ++ [(dev, b, k)] } }
      | .halt => setB s (R.DBG_CTRL (leadOf s n)) R.DBG_CTRL_HALTREQ true
      | .epoch => askBoundary s n
      | .girth _ => stopPart s n 4)

/-- EDGE_FRAME (R435, R436): what arrives from a neighbour, or by a return path, waits at its edge for the microword that
takes it; in an INDEPENDENT partition it is what that edge shows from now on. A return for another device goes
on toward it. -/
def execEdgeFrame (p : BitVec 2) (m : EdgeMsg) (s : State) : Host.Outcome State Fault Refusal :=
  .next (if !portUsable s p.toNat then s else
    let here := match m.ret with | some (i, _) => i.toNat == myIdx s | none => true
    if !here then
      (match m.ret.bind fun r => portFor s r.1.toNat with | some o => sendFrames s [(o, m)] | none => s)
    else
      let side := match m.ret with | some (_, d) => d.toNat | none => p.toNat
      let key := 64 * side + 32 * b2n m.net + m.index.toNat
      let old := if !lockstep s s.cfg.cascade.cpid.toNat then [] else mapGet [] key s.rein.edge
      { s with rein := { s.rein with edge := mapSet [] key (old ++ [m.data]) s.rein.edge } })

/-- ORC_PARTIAL (R438): a partial of what stands behind a neighbour, which waits for this device's own and goes toward the lead
with it, or a result on its way back. -/
def execOrcPartial (slot : BitVec 2) (m : OrcFrame) (s : State) : Host.Outcome State Fault Refusal :=
  .next (
    let n := s.cfg.cascade.cpid.toNat
    let k := slot.toNat
    let v := b2n m.or * 2 ^ 63 + b2n m.cv * 2 ^ 62 + m.count.toNat
    let put (i : Nat) (s : State) : State := { s with rein := { s.rein with orc := mapPut i (BitVec.ofNat 64 v) s.rein.orc } }
    if !cascadePart s n then s
    else if m.result then
      (if leadsCascade s then s else (awayPorts s).foldl (fun s p => sendOrc s p k m) (put (64 + k) s))
    else sendPartial (put (16 * k + m.dev.toNat) s) (leadOf s n) k)

/-! ### Tunnelled memory (R440-R442) -/

/-- Status TARGET_ISOLATED (R353). -/
def stIsolated : Nat := 5

/-- A tunnelled request on its way goes from the Rein router of the port by which it came to that of the port by which it leaves,
through column x = 5, without a tag of this device (R441): its flits. The TAG field is the model's choice (log 98). -/
def presentTransit (s : State) (p o rid addr len : Nat) (wr : Bool) (key : BitVec 4) (data : List Digit) : State :=
  presentAll s (routerAt 5 p) 0 0 (packetFlits (routeWord (routerAt 5 o) 0 (routerAt 5 p) 0 (b2n wr) rid key.toNat len) (addr % 2 ^ 48)
    (if wr then data.map BitVec.toNat else []))

/-- The partition of a tunnelled request at its target: that of the cascade, when the request comes from it and addresses a
region of it (R381). -/
def innerPart (s : State) (inner : Bool) (a : Nat) : Option Nat :=
  if inner ∧ partOfRegion s (dramRegion a) = some s.cfg.cascade.cpid.toNat then some s.cfg.cascade.cpid.toNat else none

/-- TUNNELLED_REQUEST (R441): a request goes on, or enters this device with a local tag; a response goes back. -/
def execTunnelledRequest (p : BitVec 2) (m : TunMsg) (s : State) : Host.Outcome State Fault Refusal :=
  let p := p.toNat
  .next (if !portUsable s p then s else
    let id := s.mesh.nextId
    let tag (s : State) (rid : Nat) : State := { s with mesh := { s.mesh with tun := s.mesh.tun ++ [(id, p, rid)] } }
    match m with
    | .request rid dev wr addr len key data inner =>
      if dev.toNat = myIdx s then
        (if 0x8000000000 ≤ addr.toNat then emit s (.tun p (.response rid 1 [])) else
          tag (sendFor s (innerPart s inner addr.toNat) (.rein (BitVec.ofNat 4 p)) wr addr.toNat len.toNat key.toNat false (data.map BitVec.toNat)) rid)
      else match pathTo s dev.toNat with
        | some o =>
          if portUsable s o && !routeDown s 9 (routerAt 5 p) (routerAt 5 o) then
            tag (emit (presentTransit { s with mesh := { s.mesh with nextId := id + 1 } } p o rid addr.toNat len.toNat wr key data)
              (.tun o (.request id dev wr addr len key data inner))) rid
          else emit s (.tun p (.response rid (BitVec.ofNat 8 stIsolated) []))
        | none => emit s (.tun p (.response rid (BitVec.ofNat 8 stIsolated) []))
    | .response rid st data =>
      match s.mesh.tun.find? fun t => t.1 == rid with
      | some (_, o, far) =>
        emit { s with mesh := { s.mesh with tun := s.mesh.tun.filter fun t => t.1 != rid } } (.tun o (.response far st data))
      | none => match reqOf s rid with
        | some q => respond s q st.toNat (data.map BitVec.toNat)
        | none => s)

/-! ### TIMEBASE (R443) -/

/-- TIMEBASE_FIRST_SETTING (R443): the lead's value and the latency of the link in ACLK, 16 of which make a tick; it goes on to
the partners. -/
def execTimebaseFirstSetting (lead : Word) (lat : BitVec 8) (s : State) : Host.Outcome State Fault Refusal :=
  .next (if rgB s R.REIN_TB R.REIN_TB_ALIGNED || s.rein.leads then s else
    let s := setB { s with timebase := lead + BitVec.ofNat 64 (lat.toNat / 16) } R.REIN_TB R.REIN_TB_ALIGNED true
    (List.range 4).foldl sendTime s)

/-- TIMEBASE_COMPARISON (R443): lead is the lead's value as it stands now. -/
def execTimebaseComparison (lead : Word) (s : State) : Host.Outcome State Fault Refusal :=
  .next (if !rgB s R.REIN_TB R.REIN_TB_ALIGNED then s else
    let d : Int := (s.timebase.toNat : Int) - lead.toNat
    let s := fromLead s ctlTime lead
    let s := setF s R.REIN_TB R.REIN_TB_OFFSET (wrap 8 (max (-128) (min 127 d)))
    if -2 < d ∧ d < 2 then s else
    let s := warnOp (setB s R.REIN_TB R.REIN_TB_ALERR true) 5 0x205 (s.cfg.cascade.cpid.toNat) true
    if d < 0 then { s with timebase := s.timebase + 1 } else { s with rein := { s.rein with holdTick := true } })

end Sys2Proof.Machine
end

