-- ==== Sys2Proof/Machine/Pins.lean ====
section
/-! DEFINITION. The GPIO pins: synchronised input edges and the pins' configuration (R543-R545). -/

namespace Sys2Proof.Machine

/-- The partition that owns GPIO pin i (R51). -/
def pinOwner (s : State) (i : Nat) : Option Nat :=
  (List.range 16).find? fun n => defined s n && (partCfg s n).gpio.toNat.testBit i

/-- Pin i belongs to a held partition: its input buffer is off and its configuration does not change (R543, R544). -/
def pinHeld (s : State) (i : Nat) : Bool :=
  match pinOwner s i with
  | some n => (regionsOf s n).any (heldRegion s)
  | none => false

/-- EDGE of pin i takes an edge to the level: 1 rising, 2 falling, 3 both. -/
def edgeTaken (s : State) (i : Nat) (level : Bool) : Bool :=
  let e := rgF s (R.GPIO_CFG i) R.GPIO_CFG_EDGE
  if level then e % 2 == 1 else decide (2 ≤ e)

/-- Girth source 6 occurs at pin i: it counts in the armed channels whose GPIN names the pin (R515). -/
def girthPin (s : State) (i : Nat) : State :=
  let hits := (List.range 8).filter fun n =>
    let a := R.GIRTH_CH n
    rgB s a R.GIRTH_CH_EN && (rgF s a R.GIRTH_CH_SRC).testBit 6 && rgF s a R.GIRTH_CH_GPIN == i
      && (rgB s a R.GIRTH_CH_CHIP
        || match pinOwner s i with | some k => (rgF s a R.GIRTH_CH_PMASK).testBit k | none => false)
  { s with dbg := { s.dbg with girth := hits.foldl (fun l n => setAdd (n, 6) l) s.dbg.girth } }

/-- An edge that EDGE of pin i takes: CIC source 256 + i, which a rollback keeps (R383), and Girth source 6. -/
def pinEdge (s : State) (i : Nat) : State := girthPin (cicOutside (cicSet s (256 + i)) (256 + i)) i

/-- GPIO_EDGE (R459, R545): the synchronised level of a pin has changed; the Wellhead's own detector takes every edge. While its
input buffer is off it gives no edge and reads 0, and no pin is sampled without supplies or under PERST#. -/
def execGpioEdge (n : BitVec 4) (level : Bool) (s : State) : Host.Outcome State Fault Refusal :=
  let i := n.toNat
  .next (if !s.powered || s.perst || pinHeld s i || (rg s R.GPIO_IN).testBit i == level then s else
    let s1 := wellhead (setF s R.GPIO_IN ⟨i, i⟩ (b2n level)) (.gpio n level)
    if edgeTaken s i level then pinEdge s1 i else s1)

/-- Whether initiator i may write GPIO_CFG of pin n (R544). -/
def pinMay (s : State) (i : Initiator) (n : Nat) : Bool :=
  match i with
  | .host f => f.val == 0
  | .awl => true
  | .seq b => (partOf s b.toNat).isSome && pinOwner s n == partOf s b.toNat
  | .dma b _ => (partOf s b.toNat).isSome && pinOwner s n == partOf s b.toNat
  | _ => false

/-- The bits of m of v written to GPIO_CFG of pin n by initiator i. -/
def pinWrite (s : State) (i : Initiator) (n m v : Nat) : State :=
  if pinMay s i n && !pinHeld s n then writePlain s (R.GPIO_CFG n) m v else s

/-- GPIO_CONFIG_WRITE (R544). -/
def execGpioConfigWrite (i : Initiator) (n : BitVec 4) (v : BitVec 32) (s : State) : Host.Outcome State Fault Refusal :=
  .next (pinWrite s i n.toNat (2 ^ 32 - 1) v.toNat)

end Sys2Proof.Machine
end

