-- ==== Sys2Proof/Machine/Queue.lean ====
section
/-! DEFINITION. The host's command queues and MSI-X: queue registers and doorbells, fetching, the start of a command,
posting of completions (R404, R406-R409). -/

namespace Sys2Proof.Machine

/-! ### MSI-X (R404) -/

/-- The messages of function f that were pending and are no longer masked are sent. -/
def flushMsix (s : State) (f : Nat) : State :=
  let ready := s.host.pba.filter fun k => k / 2048 == f && busMaster s (requesterOf s f) && msixOn s f && unmasked s f (k % 2048)
  let s := { s with host := { s.host with pba := s.host.pba.filter fun k => !ready.contains k } }
  ready.foldl (fun s k => sendMsix s f (k % 2048)) s

/-- How many MSI-X vectors function f has (R398). -/
def vectors (f : Nat) : Nat := if f = 0 then 2048 else 128

/-- Dword i of MSI-X table entry v of function f written; unmasking sends a pending message. -/
def msixWrite (s : State) (f v i : Nat) (x : BitVec 32) : State :=
  let k := 4 * (2048 * f + v) + i
  flushMsix { s with host := { s.host with msixTab := mapSet (if i = 3 then 1 else 0) k x s.host.msixTab } } f

/-- MSIX_UNMASK (R404): the Mask bit of a vector's table entry is cleared. -/
def execMsixUnmask (f : Func) (v : BitVec 11) (s : State) : Host.Outcome State Fault Refusal :=
  .next (if v.toNat < vectors f.val then
    msixWrite s f.val v.toNat 3 (msixDword s f.val v.toNat 3 &&& ~~~1) else s)

/-! ### Queue registers (R406) -/

/-- The sizes and the vector of a queue pair, from QCFG as it took effect. -/
def sqSize (q : QState) : Nat := bits q.cfg.toNat 15 0
def cqSize (q : QState) : Nat := bits q.cfg.toNat 31 16
def cqVec (q : QState) : Nat := bits q.cfg.toNat 58 48

/-- A command of queue q of function f is told apart from those of the queue that is enabled next. -/
def retired (f q : Nat) (w : Nat × Nat × BitVec 512) : Nat × Nat × BitVec 512 := if w.1 = f ∧ w.2.1 = q then (f, deadQ q, w.2.2) else w

/-- The same for what is held until a commit. -/
def retiredHeld (f q : Nat) (h : Held) : Held :=
  match h with
  | .compl c => if c.f = f ∧ c.q = q then .compl { c with q := deadQ q } else h
  | _ => h

/-- The same for a read of host memory, and for a packet of a COPY. -/
def retiredRead (f q : Nat) (p : HostPurpose) : HostPurpose :=
  match p with
  | .sqFetch g k => if g = f ∧ k = q then .sqFetch g (deadQ k) else p
  | .copy g k c o => if g = f ∧ k = q then .copy g (deadQ k) c o else p
  | .image g k c => if g = f ∧ k = q then .image g (deadQ k) c else p
  | .microcode g k c => if g = f ∧ k = q then .microcode g (deadQ k) c else p
  | .dma _ _ _ => p
def retiredPend (f q : Nat) (p : HostPend) : HostPend :=
  match p with
  | .copy g k c o n => if g = f ∧ k = q then .copy g (deadQ k) c o n else p
  | _ => p

/-- Every command of queue q of function f goes on under the number of a disabled queue, wherever it stands. -/
def retireQueue (s : State) (f q : Nat) : State :=
  let w := retired f q
  let run (r : Run) : Run := { r with cmd := r.cmd.map w }
  let snap (c : Snap) : Snap := { c with runs := c.runs.map run }
  { s with
    host := { s.host with
      cmds := s.host.cmds.map fun h => if h.f = f ∧ h.q = q then { h with q := deadQ q } else h
      runs := s.host.runs.map run
      caps := s.host.caps.map fun c => if c.f = f ∧ c.q = q then { c with q := deadQ q } else c
      rds := s.host.rds.map fun r => { r with purpose := retiredRead f q r.purpose }
      reqs := s.host.reqs.map fun e => (e.1, retiredPend f q e.2)
      powers := s.host.powers.map w
      fences := s.host.fences.map w }
    epochs := s.epochs.map fun e => (e.1, { e.2 with
      waiters := e.2.waiters.map w, held := e.2.held.map (retiredHeld f q), com := e.2.com.map snap, alt := e.2.alt.map snap })
    img := s.img.map fun L => { L with cmd := L.cmd.map w } }

/-- Queue q of function f has been disabled: no command is aborted, a read of one under way included, and the completions of
its commands are discarded (R406). -/
def queueOff (s : State) (f q : Nat) : State :=
  let gone := s.host.compls.filter fun c => c.f == f && c.q == q
  let s := gone.foldl dropCmd { s with host := { s.host with compls := s.host.compls.filter fun c => !(c.f == f && c.q == q) } }
  let s := setQueue s f q { queueOf s f q with stamps := [] }
  endOrderFences (retireQueue s f q)

/-- A write of QCFG: at the rise of EN the queue registers take effect and heads and tails are 0. -/
def qcfgWrite (s : State) (f q m v : Nat) : State :=
  let a := R.QCFG f q
  let was := rgB s a R.QCFG_EN
  let s := writePlain s a m v
  let on := rgB s a R.QCFG_EN
  if on && !was then
    setQueue (setRg (setRg s (R.SQ_TAIL f q) 0) (R.CQ_HEAD f q) 0) f q { cfg := BitVec.ofNat 64 (rg s a) }
  else if was && !on then queueOff s f q
  else s

/-- QUEUE_ENABLE (R406). -/
def execQueueEnable (f : Func) (q : BitVec 6) (v : Word) (s : State) : Host.Outcome State Fault Refusal :=
  .next (qcfgWrite s f.val q.toNat (2 ^ 64 - 1) v.toNat)

/-- A doorbell value above the queue's SIZE: QCFG.ERR sets and EN clears. -/
def badDoorbell (s : State) (f q : Nat) : State :=
  let a := R.QCFG f q
  let s' := setB (setB s a R.QCFG_ERR true) a R.QCFG_EN false
  if rgB s a R.QCFG_EN then queueOff s' f q else s'

/-- SQ_TAIL of queue q of function f written: the Wellhead sees the doorbell (R459), and the commands up to the new tail are
submitted. -/
def sqTailOp (s : State) (f q v : Nat) : State :=
  let s := wellhead (setRg s (R.SQ_TAIL f q) (v % 2 ^ 16)) (.doorbell (funcOf f))
  let z := queueOf s f q
  let en := rgB s (R.QCFG f q) R.QCFG_EN
  if (if en then sqSize z else rgF s (R.QCFG f q) R.QCFG_SQSIZE) < v % 2 ^ 16 then badDoorbell s f q
  else if en then
    let n := (v % 2 ^ 16 + (sqSize z + 1) - z.sqTail.toNat) % (sqSize z + 1)
    let s := { s with host := { s.host with bells := s.host.bells + 1 } }
    setQueue s f q { z with sqTail := BitVec.ofNat 16 v, stamps := z.stamps ++ List.replicate n s.host.bells }
  else s

/-- CQ_HEAD of queue q of function f written. -/
def cqHeadOp (s : State) (f q v : Nat) : State :=
  let s := setRg s (R.CQ_HEAD f q) (v % 2 ^ 16)
  let z := queueOf s f q
  let en := rgB s (R.QCFG f q) R.QCFG_EN
  if (if en then cqSize z else rgF s (R.QCFG f q) R.QCFG_CQSIZE) < v % 2 ^ 16 then badDoorbell s f q
  else if en then setQueue s f q { z with cqHead := BitVec.ofNat 16 v }
  else s

/-- SQ_TAIL_DOORBELL (R406). -/
def execSqTailDoorbell (f : Func) (q : BitVec 6) (v : BitVec 16) (s : State) : Host.Outcome State Fault Refusal :=
  .next (sqTailOp s f.val q.toNat v.toNat)

/-- CQ_HEAD_WRITE (R406). -/
def execCqHeadWrite (f : Func) (q : BitVec 6) (v : BitVec 16) (s : State) : Host.Outcome State Fault Refusal :=
  .next (cqHeadOp s f.val q.toNat v.toNat)

/-! ### Reads of host memory (R399, R415) -/

/-- A read of host memory for function f's purpose. -/
def hostRead (s : State) (f : Nat) (p : HostPurpose) (addr len : Nat) : State := hostReadAs s (requesterOf s f) p addr len

/-! ### Fetching and starting (R407, R409) -/

/-- The commands of queue q of function f that count against its limit of 64. -/
def live (s : State) (f q : Nat) : Nat := (s.host.cmds.filter fun h => h.f == f && h.q == q).length

/-- Queue number k (64 f + q) is ready to be served: enabled, a command announced, fewer than 64 outstanding, no fetch of
it under way, and its function may send requests. -/
def served (s : State) (k : Nat) : Bool :=
  let f := k / 64
  let q := k % 64
  let z := queueOf s f q
  rgB s (R.QCFG f q) R.QCFG_EN && z.sqHead != z.sqTail && decide (live s f q < 64)
    && !(s.host.rds.any fun r => r.purpose == .sqFetch f q) && busMaster s (requesterOf s f)

/-- The queue that is served next: the first ready one from the rotating pointer on. -/
def nextServed (s : State) : Option Nat :=
  ((List.range 1088).map fun i => (s.host.rr + i) % 1088).find? fun k => served s k

/-- COMMAND_FETCH (R407): the host interface reads the next command of the queue it serves. -/
def execCommandFetch (f : Func) (q : BitVec 6) (s : State) : Host.Outcome State Fault Refusal :=
  let k := 64 * f.val + q.toNat
  .next (if !rgB s R.HI_STATUS R.HI_STATUS_READY || nextServed s != some k then s else
    let z := queueOf s f.val q.toNat
    let h := z.sqHead.toNat
    let z := { z with sqHead := BitVec.ofNat 16 ((h + 1) % (sqSize z + 1)) }
    let s := { setQueue s f.val q.toNat z with host := { (setQueue s f.val q.toNat z).host with rr := (k + 1) % 1088 } }
    hostRead s f.val (.sqFetch f.val q.toNat) (rgF s (R.SQ_BASE f.val q.toNat) R.SQ_BASE_ADDR * 4096 + 64 * h) 64)

/-- The functions that may issue an opcode, and whether it is listed (R409). -/
def opcListed (o : Nat) : Bool := decide (1 ≤ o) && decide (o ≤ 8)
def opcMay (f o : Nat) : Bool := f == 0 || (o != 3 && o != 4)

/-- The doorbell of the command that queue q of function f has fetched is noted with it. -/
def popStamp (s : State) (f q : Nat) : State := setQueue s f q { queueOf s f q with stamps := (queueOf s f q).stamps.tail }

/-- A fetched command joins those that wait to start; an unlisted opcode completes at once (R409). -/
def takeCommand (s : State) (f q : Nat) (c : BitVec 512) : State :=
  let z := queueOf s f q
  let s := if q < 64 then popStamp s f q else s
  let h : HostCmd := { f := f, q := q, body := c, sqhd := z.sqHead, started := !opcListed (cmdByte c 0), stamp := z.stamps.headD 0 }
  let s := { s with host := { s.host with cmds := s.host.cmds ++ [h] } }
  if opcListed (cmdByte c 0) then s else complete s f q c 2 0 0

/-- The command with body c starts: in fetch order, after every earlier command of its queue when ORD is 1 (R407). A
command that no fetch delivered counts as fetched now. None: it does not start yet. -/
def cmdStart (s : State) (f q : Nat) (c : BitVec 512) (opc : Nat) : Option State :=
  if cmdByte c 0 ≠ opc then none else
  let mine := s.host.cmds.filter fun h => h.f == f && h.q == q
  let ord := (cmdByte c 1).testBit 0
  match mine.find? fun h => h.body == c && !h.started with
  | some h =>
    let earlier := mine.takeWhile fun x => x != h
    if earlier.any (fun x => !x.started) || (ord && !earlier.isEmpty) then none
    else some { s with host := { s.host with cmds := s.host.cmds.map fun x => if x = h then { x with started := true } else x } }
  | none =>
    if mine.any (fun x => !x.started) || (ord && !mine.isEmpty) then none
    else some { s with host := { s.host with
      cmds := s.host.cmds ++ [{ f := f, q := q, body := c, sqhd := (queueOf s f q).sqHead, started := true, stamp := s.host.bells + 1 }] } }

/-- The queue number under which a command starts: that of a disabled queue when one with its body still waits there. -/
def startQ (s : State) (f q : Nat) (c : BitVec 512) : Nat :=
  if s.host.cmds.any fun h => h.f == f && h.q == deadQ q && h.body == c && !h.started then deadQ q else q

/-! ### Completions (R407, R408) -/

/-- The 16 bytes of a completion entry (R408). -/
def complBytes (c : Compl) (phase : Bool) : List Byte :=
  bytesOf 2 c.cid.toNat ++ [BitVec.ofNat 8 (b2n phase * 128 + c.q % 64), c.status] ++ bytesOf 2 c.sqhd.toNat
    ++ bytesOf 2 c.detail.toNat ++ bytesOf 8 c.result.toNat

/-- The completion of a queue is written into its CQ. -/
def writeCompl (s : State) (c : Compl) : State :=
  let z := queueOf s c.f c.q
  let t := z.cqTail.toNat
  let n := cqSize z + 1
  let s := emit s (.hostWrite (requesterOf s c.f) (rgF s (R.CQ_BASE c.f c.q) R.CQ_BASE_ADDR * 4096 + 16 * t) (complBytes c z.phase))
  let s := setQueue s c.f c.q { z with cqTail := BitVec.ofNat 16 ((t + 1) % n), phase := if t + 1 = n then !z.phase else z.phase }
  dropCmd { s with host := { s.host with compls := s.host.compls.erase c } } c

/-- The vector of queue q of function f is sent. -/
def sendVector (s : State) (f q : Nat) : State :=
  let v := cqVec (queueOf s f q)
  if v < vectors f then sendMsix s f v else s

/-- The CQ of queue q of function f takes an entry: with every slot but one taken it is full, and the function must be able to
write. -/
def cqTakes (s : State) (f q : Nat) : Bool :=
  let z := queueOf s f q
  rgB s (R.QCFG f q) R.QCFG_EN && (z.cqTail.toNat + 1) % (cqSize z + 1) != z.cqHead.toNat && busMaster s (requesterOf s f)

/-- The oldest completion of a queue is written into its CQ, and the vector sent. -/
def postTo (s : State) (c : Compl) : State := endOrderFences (sendVector (writeCompl s c) c.f c.q)

/-- COMPLETION_POST (R408): the oldest completion of the queue is posted when the CQ has a free slot and the function may
write; that of a disabled queue is discarded. -/
def execCompletionPost (f : Func) (q : BitVec 6) (s : State) : Host.Outcome State Fault Refusal :=
  let f := f.val
  let q := q.toNat
  .next (match s.host.compls.find? fun c => c.f == f && c.q == q with
    | none => s
    | some c =>
      if !rgB s (R.QCFG f q) R.QCFG_EN then
        endOrderFences (dropCmd { s with host := { s.host with compls := s.host.compls.erase c } } c)
      else if cqTakes s f q then postTo s c else s)

/-- The completions that wait at queue k (64 f + q) are written as far as its CQ takes them; the result says how many
were. -/
def postAll (k : Nat) : Nat → State → State × Nat
  | 0, s => (s, 0)
  | n + 1, s =>
    match s.host.compls.find? fun c => c.f == k / 64 && c.q == k % 64 with
    | none => (s, 0)
    | some c =>
      if !cqTakes s (k / 64) (k % 64) then (s, 0) else
      let r := postAll k n (writeCompl s c)
      (r.1, r.2 + 1)

end Sys2Proof.Machine
end

