-- ==== Sys2Proof/Machine/Regwrite.lean ====
section
/-! DEFINITION. A write to any register: the field's access code, the writers that the rules allow, and what the write
starts (R4-R9, R274, R331, R457, R480, R491, R544). -/

namespace Sys2Proof.Machine

/-- The access key of an initiator (R331). -/
def initKey (s : State) (i : Initiator) : Nat :=
  match i with
  | .host f => if f.val = 0 then rgF s R.KU_PFKEY R.KU_PFKEY_KEY else bits (rg s R.KU_VFKEY) (4 * f.val - 1) (4 * f.val - 4)
  | .seq b => rgF s (R.MKEY b.toNat) R.MKEY_KEY
  | .dma b ch => match dmaRun s b.toNat ch with | some r => r.key | none => 0
  | _ => 0

/-- The PF's host software or the Awl port. -/
def pfOrAwl (i : Initiator) : Bool := match i with | .host f => f.val == 0 | .awl => true | _ => false

/-- Bits m of v over the word old. -/
def mergeBits (old m v : Nat) : Nat := Nat.lor (Nat.land old (2 ^ 64 - 1 - m)) (Nat.land v m)

/-! ### Sequencer, debug, DMA and interrupt registers of a block -/

/-- HI_EXIT stored by block b's sequencer (R413): outside a run it is ignored; at an instruction boundary the sequencer
leaves its program. -/
def hiExitOp (s : State) (b code : Nat) : State :=
  let q := seqOf s b
  if !q.inRun || q.exit.isSome then s else
  let s1 := updSeq s b fun q => { q with exit := some (BitVec.ofNat 32 code) }
  if q.waiting then s1 else takeExit s1 b

/-- HI_EXIT (R413). -/
def execHiExit (b : Blk) (code : BitVec 32) (s : State) : Host.Outcome State Fault Refusal := .next (hiExitOp s b.toNat code.toNat)

/-- DMA_CTRL of a channel written: EN starts or stops the channel after the other fields are written (R337, R342). -/
def dmaCtrlWrite (s : State) (b : Nat) (ch : Bool) (m v : Nat) : State :=
  let a := R.DMA_CTRL b (b2n ch)
  let en := rgB s a R.DMA_CTRL_EN
  let s1 := writePlain s a (Nat.land m (2 ^ 64 - 2)) v
  if !m.testBit 0 then s1
  else if v.testBit 0 && !en then dmaEnableOp s1 b ch
  else if !v.testBit 0 && en then dmaDisableOp s1 b ch
  else s1

/-- DBG_CTRL written: the plain bits, then RELEASE, STEP and HALTREQ. -/
def dbgCtrlWrite (s : State) (b : Nat) (m v : Nat) : State :=
  let x := Nat.land m v
  let s1 := writePlain s (R.DBG_CTRL b) m v
  if idleFrom ≤ b then s1 else
  let s2 := if x.testBit 1 then releaseHalt s1 b else s1
  let s3 := if x.testBit 2 then stateOf s2 (execDbgStep (BitVec.ofNat 7 b) s2) else s2
  if x.testBit 0 then stateOf s3 (execHaltreq (BitVec.ofNat 7 b) s3) else s3

/-- The register at offset o of block b's window written by initiator i. -/
def blockWrite (s : State) (i : Initiator) (b o m v : Nat) : State :=
  let a := bwin b + o
  let x := Nat.land m v
  if (decide (0x700000 ≤ o) && decide (o < 0x700200)) || fileOff o then (if quietSeq s b then writePlain s a m v else s)
  else if o = 0x700820 then (if halted s b then writePlain s a m v else s)
  else if o = 0x700800 then dbgCtrlWrite s b m v
  else if o = 0x700840 then wdCfgWrite s b m v
  else if o = 0x700850 then (if x.testBit 63 then wdKickOp s b else s)
  else if 0x700880 ≤ o ∧ o < 0x7008C0 then timerWrite s b ((o - 0x700880) / 16) m v
  else if 0x700C00 ≤ o ∧ o < 0x700E00 then stitchOp s b ((o - 0x700C00) / 16) x true
  else if o = 0x720030 then
    let s1 := writePlain s a m v
    if x.testBit 4 then abandonAll s1 b else s1
  else if o = 0x770010 then dmaCtrlWrite s b false m v
  else if o = 0x770110 then dmaCtrlWrite s b true m v
  else if o = 0x780010 then bicPendSetOp s b x (decide (initPart s i ≠ partOf s b))
  else if o = 0x780020 then bicPendClrOp s b x
  else if o = 0x780040 then bicMaskSetOp s b x
  else if o = 0x780050 then bicMaskClrOp s b x
  else if o = 0x780070 then bicEoiOp s b (bits x 5 0)
  else writePlain s a m v

/-! ### Chip control -/

/-- BREQ of partition n: a boundary now; a member of a cascade forwards it to the lead (R376, R434). -/
def breqOp (s : State) (n : Nat) : State :=
  if cascadePart s n && decide (myIdx s ≠ leadIdx s) then forwardReq s n .epoch else askBoundary s n

/-- IMG_CTRL written. -/
def imgCtrlWrite (s : State) (m v : Nat) : State :=
  let s1 := writePlain s R.IMG_CTRL m v
  if (Nat.land m v).testBit 0 then imgGoOp s1 else s1

/-- The registers of the chip interrupt controller (R457). -/
def cicWrite (s : State) (i : Initiator) (o m v : Nat) : State :=
  let x := Nat.land m v
  let w := o % 0x100 / 16
  if 0x200100 ≤ o ∧ o < 0x200200 then cicPendSetOp s i w x
  else if 0x200200 ≤ o ∧ o < 0x200300 then cicPendClrOp s i w x
  else if 0x200400 ≤ o ∧ o < 0x200500 then cicMaskSetOp s i w x
  else if 0x200500 ≤ o ∧ o < 0x200600 then cicMaskClrOp s i w x
  else if o = 0x200700 then cicEoiOp s i (bits x 9 0)
  else if 0x201000 ≤ o then
    cicRouteOp s i ((o - 0x201000) / 16) (mergeBits (rg s (chipCtl + o)) m v)
  else match i with
    | .seq _ | .dma _ _ | .rein _ => s
    | _ => writePlain s (chipCtl + o) m v

/-- PC_DOM of domain d written (R480): AUTOHUSH of a block, and a power request. DESIGN CHOICE (log 93): 'ignored outside domains
0-143' is read as a write of AUTOHUSH that changes nothing there. -/
def pcDomWrite (s : State) (i : Initiator) (d m v : Nat) : State :=
  if !pfOrAwl i then s else
  let a := R.PC_DOM d
  let m' := if d < 144 then Nat.land m (2 ^ 19) else 0
  let s1 := setRg s a (mergeBits (rg s a) m' v)
  if bits m 18 16 = 0 then s1 else
  let r := bits (mergeBits (rg s a) m v) 18 16
  if r ≤ 5 then powerOp s1 d r [d] else s1

/-- GIRTH_CMD written: RELCHIP, REL and TRIG. -/
def girthCmdWrite (s : State) (x : Nat) : State :=
  let s1 := if x.testBit 24 then girthRelchipOp s else s
  let s2 := if bits x 23 8 = 0 then s1 else girthReleaseOp s1 (bits x 23 8)
  if bits x 7 0 = 0 then s2 else girthTrigOp s2 (bits x 7 0)

/-- SB_CKPT written: its fields, then GO, which starts nothing while an operation is under way. -/
def sbCkptWrite (s : State) (m v : Nat) : State :=
  let busy := s.sb.op.isSome
  let s1 := writePlain s R.SB_CKPT m v
  if busy || !(Nat.land m v).testBit 63 then s1
  else if rgB s1 R.SB_CKPT R.SB_CKPT_OP then ckptRestoreOp s1 else ckptSaveOp s1

/-- A queue register at offset o of the queue blocks (R406). -/
def queueWrite (s : State) (o m v : Nat) : State :=
  let f := o / 0x8000
  let q := o % 0x8000 / 0x100
  let a := chipCtl + 0x800000 + o
  let idx := bits (mergeBits (rg s a) m v) 15 0
  if o % 0x100 = 0x20 then qcfgWrite s f q m v
  else if o % 0x100 = 0x30 then sqTailOp s f q idx
  else if o % 0x100 = 0x40 then cqHeadOp s f q idx
  else writePlain s a m v

/-- MS_STAT written: with EN the first window is open, to the next multiple of PERIOD; a new PERIOD takes effect at the
next boundary (R372). -/
def msStatWrite (s : State) (m v : Nat) : State :=
  let on := rgB s R.MS_STAT R.MS_STAT_EN
  let s1 := writePlain s R.MS_STAT m v
  let p := rgF s1 R.MS_STAT R.MS_STAT_PERIOD
  if !rgB s1 R.MS_STAT R.MS_STAT_EN then { s1 with mesh := { s1.mesh with statNext := none, live := [] } }
  else if on then s1
  else { s1 with mesh := { s1.mesh with statNext := some ((now s / p + 1) * p) } }

/-- The register at offset o of chip control written by initiator i with access key k. -/
def chipWrite (s : State) (i : Initiator) (k o m v : Nat) : State :=
  let a := chipCtl + o
  let x := Nat.land m v
  if 0x100 ≤ o ∧ o < 0x200 then pinWrite s i ((o - 0x100) / 16) m v
  else if o = 0x100000 then imgCtrlWrite s m v
  else if 0x200000 ≤ o ∧ o < 0x280000 then cicWrite s i o m v
  else if o = 0x280210 ∨ o = 0x280220 then whTmrWrite s ((o - 0x280210) / 16) m v
  else if o = 0x300020 then (if pfOrAwl i then writePlain s a m v else s)
  else if 0x300100 ≤ o ∧ o < 0x300200 then
    let g := (o - 0x300100) / 16
    let s1 := writePlain s a (Nat.land m (2 ^ 62 - 1)) v
    if bits m 63 62 ≠ 0 ∧ tdivMay s i g then tdivOp s1 g (bits (mergeBits (rg s a) m v) 63 62) else s1
  else if 0x301000 ≤ o ∧ o < 0x301B00 then pcDomWrite s i ((o - 0x301000) / 16) m v
  else if o = 0x400020 then
    (if !mbxMay i then s else
      let s1 := writePlain s a m v
      if x.testBit 63 then mbxGo s1 (rgF s1 R.SEC_MBX R.SEC_MBX_CMD) else s1)
  else if o = 0x600010 then msStatWrite s m v
  else if o = 0x500010 then (if x.testBit 0 then adoptOp s else s)
  else if o = 0x500040 then sbCkptWrite s m v
  else if 0x800000 ≤ o ∧ o < 0x888000 then queueWrite s (o - 0x800000) m v
  else if o = 0x8C0010 then
    match i with
    | .seq b => hiExitOp s b.toNat (bits x 31 0)
    | _ => s
  else if o = 0x900100 then girthCmdWrite s x
  else if o = 0x900800 then
    match i with
    | .host f => if f.val = 0 then writePlain s a m v else s
    | _ => s
  else if 0xA00000 ≤ o ∧ o < 0xA01000 ∧ o % 0x100 = 0 then
    let s1 := writePlain s a m v
    if x.testBit 63 then breqOp s1 ((o - 0xA00000) / 0x100) else s1
  else if o = 0xB00000 then kuWrite s k (mergeBits (rg s a) m v)
  else if o = 0xB00010 ∨ o = 0xB00020 then (if pfOrAwl i then writePlain s a m v else s)
  else writePlain s a m v

/-- The bits m of v written to the register at digit address a, by initiator i with access key k. -/
def regWrite (s : State) (i : Initiator) (k a m v : Nat) : State :=
  if !regThere s a then s
  else if inWin a then blockWrite s i (winBlk a) (winOff a) m v
  else if 0x040000000000 ≤ a then chipWrite s i k (a - chipCtl) m v
  else writePlain s a m v

/-- REGISTER_WRITE (R6). -/
def execRegisterWrite (i : Initiator) (a : Addr) (mask v : Word) (s : State) : Host.Outcome State Fault Refusal :=
  .next (regWrite s i (initKey s i) a.toNat mask.toNat v.toNat)

/-- EPOCH_BREQ (R376): EP_CTRL.BREQ of partition n. -/
def execEpochBreq (n : Part) (s : State) : Host.Outcome State Fault Refusal := .next (breqOp s n.toNat)

end Sys2Proof.Machine
end

