-- ==== Sys2Proof/Machine/HostMem.lean ====
section
/-! DEFINITION. Mesh requests that the host interface makes: what becomes of their responses, for host reads and posted
writes and for the packets of a COPY (R402, R403, R415). -/

namespace Sys2Proof.Machine

/-- How a mesh status is reported to the host: 0 success, 1 unsupported request, 8 poisoned data, 4 completer abort. -/
def cplStatus (st : Nat) : Nat := match st with | 0 => 0 | 1 => 1 | 3 => 8 | _ => 4

/-- An error of function f reported through AER (R403): its bit in the uncorrectable status is Unsupported Request,
Completer Abort or Poisoned TLP Egress Blocked, and the first one's header is logged, with its pointer (log entry 20). -/
def aerReport (s : State) (f kind : Nat) (wr : Bool) (addr : Nat) : State :=
  let bit := match kind with | 1 => 20 | 4 => 15 | _ => 26
  let s := if cfgReg s f 65 ≠ 0 then s else
    (List.range 4).foldl (fun s i => setCfg s f (71 + i) (Config.tlpHeader f wr addr i).toNat)
      (setCfg s f 70 (putBits (cfgReg s f 70) 4 0 bit))
  emit (setCfg s f 65 (Nat.lor (cfgReg s f 65) (2 ^ bit))) (.aer f kind)

/-- A host request of function f that failed is recorded in HI_ERR and reported through AER (R403). -/
def hostErr (s : State) (f : Nat) (wr : Bool) (st addr : Nat) : State :=
  aerReport (setRg s R.HI_ERR (st * 2 ^ 56 + f * 2 ^ 51 + b2n wr * 2 ^ 50 + 2 ^ 49 + addr % 2 ^ 48)) f (cplStatus st) wr addr

/-- A mesh request of the host interface for function f, which carries the function's access key (R402). -/
def hostReq (s : State) (f : Nat) (wr : Bool) (addr len : Nat) (data : List Nat) (p : HostPend) : State :=
  let i : Initiator := .host (funcOf f)
  let id := s.mesh.nextId
  let s := sendReq s i wr addr len (initKey s i) false data
  { s with host := { s.host with reqs := s.host.reqs ++ [(id, p)] } }

/-! ### COPY (R415) -/

/-- The operands of a COPY. -/
def copyOut (c : BitVec 512) : Bool := cmdByte c 5 == 1
def copyHost (c : BitVec 512) : Nat := cmdVal c 8 8
def copyDev (c : BitVec 512) : Nat := cmdVal c 16 8
def copyLen (c : BitVec 512) : Nat := cmdVal c 24 4

/-- The next packet of a COPY after off bytes: within one target and one 1,024-digit line of addresses. -/
def copyChunk (c : BitVec 512) (off : Nat) : Nat := min (copyLen c - off) ((1024 - (copyDev c + 2 * off) % 1024) / 2)

/-- A COPY goes on after off bytes, or is complete. -/
def copyNext (s : State) (f q : Nat) (c : BitVec 512) (off : Nat) : State :=
  if copyLen c ≤ off then complete s f q c 0 0 (copyLen c)
  else
    let a := copyDev c + 2 * off
    let n := copyChunk c off
    if !busMaster s (requesterOf s f) then complete s f q c 6 0 a
    else if copyOut c then hostReq s f false a (2 * n) [] (.copy f q c off n)
    else hostRead s f (.copy f q c off) (copyHost c + off) n

/-- The data of a COPY's host read has arrived: it goes to the device. -/
def copyData (s : State) (f q : Nat) (c : BitVec 512) (off : Nat) (bs : List Byte) : State :=
  hostReq s f true (copyDev c + 2 * off) (2 * copyChunk c off) (digitsOfBytes (bs.take (copyChunk c off)))
    (.copy f q c off (copyChunk c off))

/-- The response to a packet of a COPY. -/
def copyResp (s : State) (f q : Nat) (c : BitVec 512) (off n st : Nat) (data : List Nat) : State :=
  let a := copyDev c + 2 * off
  if st ≠ 0 then complete s f q c 7 st a
  else if !copyOut c then copyNext s f q c (off + n)
  else if !busMaster s (requesterOf s f) then complete s f q c 6 0 a
  else copyNext (emit s (.hostWrite (requesterOf s f) (copyHost c + off) (bytesOfDigits data))) f q c (off + n)

/-! ### Host reads and writes (R402, R403) -/

/-- The digits of a host read's packets in order; those of a failed packet are missing and read as poisoned data. -/
def readParts (r : HostRead) : List Nat :=
  let order := (List.range r.len).filterMap fun i => (r.parts.find? fun p => p.1 == i).map fun p => p.2.map BitVec.toNat
  order.flatten

/-- A host read is complete once its last packet is answered. -/
def readDone (s : State) (g : Nat) (r : HostRead) : State :=
  if r.left ≠ 0 then { s with host := { s.host with reads := mapPut g r s.host.reads } }
  else
    let s := { s with host := { s.host with reads := mapErase g s.host.reads } }
    emit s (.readCpl r.f (cplStatus r.status) (if r.status = 0 then bytesOfDigits (readParts r) else []))

/-- A response to a mesh request of the host interface. -/
def hostResp (s : State) (q : MeshReq) (st : Nat) (data : List Nat) : State :=
  let f := match q.src with | .host f => f.val | _ => 0
  match s.host.reqs.find? fun e => e.1 == q.id with
  | none => s
  | some e =>
    let s := { s with host := { s.host with reqs := s.host.reqs.filter fun x => x.1 != q.id } }
    match e.2 with
    | .copy f k c off n => copyResp s f k c off n st data
    | .write => if st = 0 then s else hostErr s f true st (askedAddr s q)
    | .read g off =>
      let s := if st = 0 then s else hostErr s f false st (askedAddr s q)
      let r := mapGet ({} : HostRead) g s.host.reads
      readDone s g { r with left := r.left - 1, status := if r.status = 0 then st else r.status,
                            parts := r.parts ++ [(off, data.map (BitVec.ofNat 4))] }

end Sys2Proof.Machine
end

