-- ==== Sys2Proof/Machine/Perform.lean ====
section
/-! DEFINITION. What a mesh request does at its target: block windows, gateway windows, chip control (R30-R34, R279-R282,
R320-R326, R333, R400, R520). -/

namespace Sys2Proof.Machine

/-! ### Registers (R400, R520) -/

/-- An access to a register: 16 digits at its address, where a 32-bit register stands in the upper half, or 8 digits at its
address or, in a 64-bit register, at its second half. Anything else is a gap. -/
def regSpan (a n : Nat) : Option (Nat × Nat) :=
  let base := a - a % 16
  let w := regWidth base
  if n = 16 ∧ a % 16 = 0 then some (0, 64)
  else if n = 8 ∧ a % 16 = 0 then some (32, 32)
  else if n = 8 ∧ a % 16 = 8 ∧ w = 64 then some (0, 32)
  else none

/-- A register's value as its 16-digit word shows it. -/
def regWord (s : State) (base : Nat) : Nat := if regWidth base = 32 then readReg s base % 2 ^ 32 * 2 ^ 32 else readReg s base

/-- A request whose digits lie on the register at digit address a. -/
def regAccess (s : State) (q : MeshReq) (a : Nat) : State :=
  let base := a - a % 16
  match regSpan a q.len with
  | none => respond s q 1 []
  | some (lo, w) =>
    if !regThere s base then respond s q 1 []
    else
    let m := (2 ^ w - 1) * 2 ^ lo
    let sh := if regWidth base = 32 then 2 ^ 32 else 1
    if q.wr then
      let v := digitsVal (q.data.map BitVec.toNat) * 2 ^ lo
      respond (regWrite s q.src q.key.toNat base (m / sh) (v / sh)) q 0 []
    else
      let v := regWord s base / 2 ^ lo % 2 ^ w
      let s := respond s q 0 (digitsOf (w / 4) v)
      if q.quiet then s else consumed s base (m / sh)

/-! ### A block window (R30) -/

/-- A request to the scratchpad of block b at digit address a, in the cycles that the port gives it (R323, R325): the words
that a store covers in part are read first. -/
def spadAccess (s : State) (q : MeshReq) (b a : Nat) : State :=
  if q.wr then
    let (s, ok) := mergeCheck s b a q.len
    if !ok then respond s q 3 [] else
    let ds := q.data.map BitVec.toNat
    let s := writeDigits s a ds
    respond (if q.part.isSome && q.part == partOf s b then s else throughSnap s a ds) q 0 []
  else
    let (s, ok) := memCheck s b a q.len
    if !ok then respond s q 3 [] else respond s q 0 (readDigits s a q.len)

/-- The quarters of 16 digits that n digits from offset o touch, and whether each is covered whole. -/
def quarters (o n : Nat) : List (Nat × Bool) :=
  (List.range ((o + n - 1) / 16 + 1 - o / 16)).map fun i =>
    let k := o / 16 + i
    (k, decide (o ≤ 16 * k) && decide (16 * k + 16 ≤ o + n))

/-- The value of quarter k of a request at offset o. -/
def quarterVal (q : MeshReq) (o k : Nat) : Nat := digitsVal (((q.data.map BitVec.toNat).drop (16 * k - o)).take 16)

/-- A write to the control store in the cycle that it is given: whole quarters are staged, and quarter 3 commits (R279). -/
def csWindowWrite (s : State) (q : MeshReq) (b o : Nat) : State :=
  (quarters o q.len).foldl (fun s e =>
    let n := e.1 / 4
    if n < 12288 then s
    else if !e.2 then setB s (R.MC_STATUS b) R.MC_STATUS_PARTW true
    else if e.1 % 4 = 3 then
      let (s, p) := csTake s b n
      csApply s b p
    else csStage s b n (e.1 % 4) (quarterVal q o e.1)) s

/-- Quarter k of the control store as an initiator reads it: the vendor words read 0, except by the security unit
(R280). -/
def csRead (s : State) (i : Initiator) (b k : Nat) : Nat := csQuarter s b (k / 4) (k % 4) (i == .security)

/-- A read of the control store in the cycle that it is given. -/
def csWindowRead (s : State) (q : MeshReq) (b o : Nat) : State :=
  let ds := (List.range q.len).map fun i => csRead s q.src b ((o + i) / 16) / 16 ^ (15 - (o + i) % 16) % 16
  respond ((quarters o q.len).foldl (fun s e => csReadMark s b (e.1 / 4) (q.src == .security)) s) q 0 ds

/-- A request to the control store of block b at offset o of the store, once no fetch takes its cycle: the accesses that
waited before it come first, and a write is answered when it is complete (R20, R278). -/
def csWindow (s : State) (q : MeshReq) (b o : Nat) : State :=
  let s := csFlush s b
  if q.wr then respond (csWindowWrite s q b o) q 0 [] else csWindowRead s q b o

/-- A write to the dispatch table (R282). -/
def dtWindowWrite (s : State) (q : MeshReq) (b o : Nat) : State :=
  (quarters o q.len).foldl (fun s e => dtWrite s b e.1 e.2 (quarterVal q o e.1)) s

/-- A read of the dispatch table. -/
def dtWindowRead (s : State) (q : MeshReq) (b o : Nat) : State :=
  respond s q 0 ((List.range q.len).map fun i => dtEntry s b ((o + i) / 16) / 16 ^ (15 - (o + i) % 16) % 16)

/-- Digits o to o + n - 1 of a block window lie in its control store. -/
def inStore (o n : Nat) : Bool := decide (0x400000 ≤ o) && decide (o + n ≤ 0x500000)

/-- A request at offset o of the window of block b. The turn memory's port is served line by line elsewhere. -/
def blockAccess (s : State) (q : MeshReq) (b o : Nat) : State :=
  let e := o + q.len
  let s := endHush s b
  if e ≤ 0x80000 then spadAccess s q b (bwin b + o)
  else if inStore o q.len then csWindow s q b (o - 0x400000)
  else if 0x600000 ≤ o ∧ e ≤ 0x601000 then
    (if q.wr then respond (dtWindowWrite s q b (o - 0x600000)) q 0 [] else dtWindowRead s q b (o - 0x600000))
  else if 0x700000 ≤ o then regAccess s q (bwin b + o)
  else respond s q 1 []

/-! ### A gateway window, chip control (R32, R33) -/

/-- A request at offset o of the window of region g. -/
def gatewayAccess (s : State) (q : MeshReq) (g o : Nat) : State :=
  if 0x200000 ≤ o ∧ o < 0x280000 then
    let k := q.key.toNat
    let o := o - 0x200000
    if q.wr then
      if !keyRule o q.len then respond (keyViolation s k true q.addr) q 2 []
      else
        let (s, st) := keyStoreWrite s g o ((bytesOfDigits (q.data.map BitVec.toNat)).map BitVec.toNat) k
        respond s q st []
    else
      let (s, st, ds) := keyStoreRead s g o q.len k
      respond s q st ds
  else regAccess s q q.addr

/-- A request at offset o of chip control: the mailbox buffer, or a register. -/
def chipAccess (s : State) (q : MeshReq) (o : Nat) : State :=
  let b := mbxBuf - chipCtl
  if b ≤ o ∧ o + q.len ≤ b + 2 * mbxBytes then
    (if !q.wr then respond s q 0 (readDigits s q.addr q.len)
     else respond (if mbxMay q.src then writeDigits s q.addr (q.data.map BitVec.toNat) else s) q 0 [])
  else regAccess s q q.addr

/-- A physical window answers the initiators at routers (0,0) and (0,3) alone (R31). -/
def physOk (q : MeshReq) (t : Target) : Bool :=
  match t with
  | .phys _ _ => physMay q.src
  | _ => true

/-- A request performed at its target, but at DRAM and turn memory, whose ports serve it. A physical window reaches the
position that its block holds, or the block's own state. -/
def performAt (s : State) (q : MeshReq) (t : Target) : State :=
  if !physOk q t then respond s q 1 [] else
  match t with
  | .gateway g o => gatewayAccess s q g o
  | .chip o => chipAccess s q o
  | _ => match targetBlk s t with
    | some (b, o) => blockAccess s q b o
    | none => respond s q 1 []

end Sys2Proof.Machine
end

