-- ==== Sys2Proof/Machine/Mesh.lean ====
section
/-! DEFINITION. Mesh requests at the target: the order of arrivals, isolation, fences, the ports of memories; responses,
tags, timeouts, statistics windows (R20-R23, R308, R319-R325, R345-R372). -/

namespace Sys2Proof.Machine

/-! ### Waiting at the target (R23, R358, R366-R369) -/

/-- The policy of domain j of region g as it stands for request q: HOLD_WAKE? (R366, R370) -/
def holdsWake (s : State) (q : MeshReq) (g j : Nat) : Bool :=
  match q.old with
  | some (_, pol) => pol.getLsbD j
  | none => (rgF s (R.GW_SLUICE g) R.GW_SLUICE_POL).testBit j

/-- Request q has reached its target and waits there: its place in the order of arrivals and its NCLK are noted once. -/
def waitHere (s : State) (q : MeshReq) (f : MeshReq → MeshReq) : State :=
  let n := s.mesh.nextSeq
  if q.seq ≠ 0 then updReq s q f
  else updReq { s with mesh := { s.mesh with nextSeq := n + 1 } } q fun r => f { r with seq := n, cyc := s.nclk }

/-- A packet under HOLD_WAKE stands before the fence of domain j of region g: it is held, and wakes the domain. Before the
domain leaves L0 that ends the power entry and lifts the fence, but one of an image load stays (R74, R368). -/
def heldArrival (s : State) (g j : Nat) (q : MeshReq) : State :=
  if bufferFull s g j then s
  else wakeDom (showHeld (waitHere s q fun r => { r with held := some (10 * g + j) }) g) (domainNo g j)

/-! ### Arrival at the target (R346, R348, R353) -/

/-- A write that leaves its partition is held until the commit (R380): to DRAM or block windows of other regions, and to
cascade addresses outside the partition. -/
def leavesPart (s : State) (q : MeshReq) (t : Target) : Bool :=
  let inside (g : Nat) : Bool := decide (partOfRegion s g = q.part)
  q.wr && q.part.isSome && match t with
    | .dram g => !inside g
    | .block b _ => !inside (b / 8)
    | .device _ a => !(inside (dramRegion a) && cascadePart s (q.part.getD 0))
    | _ => false

/-- Request q is one of the cascade's own partition (R381). -/
def innerReq (s : State) (q : MeshReq) : Bool := match q.part with | some n => cascadePart s n | none => false

/-- A held write joins the outbound log, and its initiator is answered at once; a full log parks it (R380). -/
def logWrite (s : State) (q : MeshReq) : State :=
  let n := q.part.getD 0
  let g := match q.src with | .seq b => b.toNat / 8 | .dma b _ => b.toNat / 8 | _ => 0
  if 2 ^ 28 < logFill s g + (q.len + 1) / 2 then earlyBoundary (parkReq s q) n
  else
    let s := respondAt (hold s n (.meshWrite q)) q.home q 0 []
    if 3 * 2 ^ 26 ≤ logFill s g then earlyBoundary s n else s

/-- A request for another device of the cascade leaves through a port, or is answered when no port can take it (R442). -/
def tunnelOut (s : State) (q : MeshReq) (j a : Nat) : State :=
  match pathTo s j with
  | some p =>
    if !portUsable s p then respond s q stIsolated []
    else emit s (.tun p (.request q.id (BitVec.ofNat 4 j) q.wr (BitVec.ofNat 48 a) (BitVec.ofNat 11 q.len) q.key q.data (innerReq s q)))
  | none => respond s q stIsolated []

/-- Whether a region of the target is held; the image engine and the controller are not refused (R75). -/
def refusedHeld (s : State) (q : MeshReq) (t : Target) : Bool :=
  !keyless q.src && match t with
    | .dram g => heldRegion s g
    | .block b _ => heldRegion s (b / 8)
    | .phys p _ => heldRegion s (p / 9)
    | .gateway g _ => heldRegion s g
    | _ => false

/-- The position behind a block window has no holder yet, or its state is being moved (R31, R38). -/
def unplaced (s : State) (t : Target) : Bool :=
  match t with
  | .block b _ => (holder s b).isNone || decide ((seqOf s b).mig = 2)
  | _ => false

/-- The power state of the block behind a target: 0 when no block stands there. -/
def blockLevel (s : State) (t : Target) : Nat :=
  match domainOf s t with
  | some (g, j) => if j < 9 then domCur s (9 * g + j) else 0
  | none => 0

/-- The memory in a target whose port serves one contender at a time: a region's DRAM, a scratchpad, a turn memory
(R23, R321, R323). -/
def portedTarget (s : State) (q : MeshReq) (t : Target) : Bool :=
  match t with
  | .dram _ => true
  | _ => physOk q t && match targetBlk s t with
    | some (_, o) => decide (o + q.len ≤ 0x80000) || (decide (0x100000 ≤ o) && decide (o + q.len ≤ 0x200000))
    | none => false

/-- A request at a control store whose cycles the sequencer's fetch takes (R18, R20). -/
def storeWaits (s : State) (q : MeshReq) (t : Target) : Bool :=
  physOk q t && match targetBlk s t with
    | some (b, o) => inStore o q.len && fetching s b
    | none => false

/-- An earlier request of the same initiator to a digit of q that is not yet performed (R358). -/
def before (s : State) (q : MeshReq) : Option MeshReq :=
  s.mesh.flight.find? fun r =>
    r.seq != 0 && r.id != q.id && (q.seq == 0 || decide (r.seq < q.seq)) && r.src == q.src && !r.dead && !r.done
      && overlap q.addr q.len r.addr r.len

/-- A request behind every fence: the block's L2 or L3 ends first (R472); at a memory with a port of its own it waits for
the port's grant, at a control store for the fetch to end, behind an earlier one of its initiator for that; elsewhere it is
performed. -/
def reachTarget (s : State) (q : MeshReq) (t : Target) : State :=
  let l := blockLevel s t
  if l = 2 ∨ l = 3 then
    match domainOf s t with
    | some (g, j) => wakeDom (waitHere s q fun r => { r with passed := true }) (9 * g + j)
    | none => s
  else if portedTarget s q t then waitHere s q fun r => { r with atPort := true, freed := false, passed := true }
  else if storeWaits s q t || (before s q).isSome then waitHere s q fun r => { r with passed := true }
  else performAt s q t

/-- A fence of one of target t's domains stands before target u too: their gateway, one of which is addressed, or their
domain. -/
def sharesFence (s : State) (t u : Target) : Bool :=
  (domainOf s t).isSome && (domainOf s t == domainOf s u
    || (gateOf t == gateOf u && [t, u].any fun x => match domainOf s x with | some d => d.2 == 9 | none => false))

/-- A packet, a request or an IRQ message, that a lifted fence of the target's domains has released and that comes before q
(R368). -/
def freedBefore (s : State) (q : MeshReq) (t : Target) : Bool :=
  (s.mesh.flight.any fun r =>
      r.freed && r.id != q.id && (q.seq == 0 || decide (r.seq < q.seq) || !q.freed) && sharesFence s t (targetOf s r.addr))
    || s.irq.freed.any fun e => (q.seq == 0 || decide (e.2.2.2 < q.seq) || !q.freed) && sharesFence s t (.block e.2.1 0x780200)

/-- A request at the fence point of its target; one that has passed it and waits behind it is not judged again (R366). -/
def atFence (s : State) (q : MeshReq) (t : Target) : State :=
  if q.passed then reachTarget s q t else
  match fenceFor s t with
  | none => if freedBefore s q t then waitHere s q id else reachTarget s q t
  | some (g, j) => if holdsWake s q g j then heldArrival s g j q else respond s q 7 []

/-- A request whose source port sent none to the same router before it that is still on its way (R358). -/
def nextSent (s : State) (q : MeshReq) : Bool :=
  match s.mesh.flight.find? fun r =>
    r.seq == 0 && !r.untagged && !r.fenced && !r.timedOut && !r.dead && !r.done && !r.parked
      && r.home == q.home && r.sport == q.sport && destRouter s (targetOf s r.addr) == destRouter s (targetOf s q.addr) with
  | some r => r.id == q.id
  | none => true

/-- A request arrives. Where a rule makes it wait, it waits. -/
def arrive (s : State) (q : MeshReq) : State :=
  if q.untagged || q.fenced || q.parked || q.held.isSome || q.done || q.atPort then s
  else if q.dead then respond s q 0 []
  else
    let t := targetOf s q.addr
    if portCut s q.home q.sport then updReq (absorb s q.home) q fun x => { x with done := true }
    else if q.len = 0 || spanKey s q.addr != spanKey s (q.addr + q.len - 1) || t == .nowhere then respond s q 1 []
    else if leavesPart s q t then logWrite s q
    else if q.seq == 0 && !nextSent s q then s
    else match isolated s q t with
      | some r => respond (absorb s r) q 5 []
      | none => match routeStop s 9 q.home (destRouter s t) with
        | some r => respondAt s r q 5 []
        | none => match t with
          | .device j a => tunnelOut s q j a
          | _ =>
            if refusedHeld s q t then respond s q 6 []
            else if unplaced s t then waitHere s q id
            else atFence s q t

/-- The state with an upset in the control store of the block that request q addresses (log entry 82). -/
def storeStruck (s : State) (q : MeshReq) (u : Option CsStrike) : State :=
  match u, targetBlk s (targetOf s q.addr) with
  | some u, some (b, _) => csUpset s b u.word.toNat u.upset
  | _, _ => s

/-- MESH_REQUEST (R353); u: an upset that has struck the control store at its target since (R280). -/
def execMeshRequest (id : Nat) (u : Option CsStrike) (s : State) : Host.Outcome State Fault Refusal :=
  .next (match reqOf s id with | some q => arrive (storeStruck s q u) q | none => s)

/-- SLUICE_HELD_ARRIVAL (R368): a packet under HOLD_WAKE has come to the fence of domain j of region g. -/
def execSluiceHeldArrival (g : Rgn) (j : Fin 10) (id : Nat) (s : State) : Host.Outcome State Fault Refusal :=
  .next (match reqOf s id with
    | some q =>
      if q.held.isNone && !q.untagged && !q.fenced && !q.done && !q.passed && fenceFor s (targetOf s q.addr) == some (g.toNat, j.val)
          && holdsWake s q g.toNat j.val
      then heldArrival s g.toNat j.val q else s
    | none => s)

/-! ### The control store (R18, R20) -/

/-- The mesh request that waits for the control store of block b and came first. -/
def storeRequest (s : State) (b : Nat) : Option MeshReq :=
  oldest (s.mesh.flight.filter fun q =>
    let t := targetOf s q.addr
    q.seq != 0 && !q.held.isSome && !q.dead && !q.done && storeWaits s q t && (fenceFor s t).isNone
      && (match targetBlk s t with | some (c, _) => c == b | none => false))

/-- CS_HOLD_GRANT (R20): the oldest access that waits for block b's control store takes a cycle from the sequencer. -/
def execCsHoldGrant (b : Blk) (s : State) : Host.Outcome State Fault Refusal :=
  let b := b.toNat
  .next (match (seqOf s b).csWait with
    | p :: r => csApply (updSeq s b fun q => { q with csWait := r }) b p
    | [] => match storeRequest s b with
      | some q => performAt s q (targetOf s q.addr)
      | none => s)

/-! ### The DRAM port (R23, R308, R358) -/

/-- The requester behind a request at the DRAM port of region g: its physical block, else mesh ingress, 9. -/
def dramRequester (g : Nat) (q : MeshReq) : Nat := if q.home = g ∧ 1 ≤ q.sport then q.sport - 1 else 9

/-- Request q waits at the DRAM port of region g and could be performed now. -/
def dramWaits (s : State) (g : Nat) (q : MeshReq) : Bool :=
  q.atPort && !q.parked && !q.dead && !q.done && q.addr / 0x800000000 == g && dramFree s q
    && (match before s q with | some r => r.parked | none => true)

/-- The order of the port's grants: the NCLK of arrival, then the requester, then the order of arrival. -/
def grantsFirst (g : Nat) (q r : MeshReq) : Bool :=
  decide (q.cyc < r.cyc) || (q.cyc == r.cyc && (decide (dramRequester g q < dramRequester g r)
    || (dramRequester g q == dramRequester g r && decide (q.seq < r.seq))))

/-- A requester that has been granted waits while another one's request that was pending then is still there. -/
def barred (s : State) (g : Nat) (ws : List MeshReq) (q : MeshReq) : Bool :=
  (mapGet [] (16 * g + dramRequester g q) s.dram.bar).any fun i => ws.any fun r => r.id == i

/-- The request that the DRAM port of region g grants next. -/
def dramGrant (s : State) (g : Nat) : Option MeshReq :=
  let ws := s.mesh.flight.filter (dramWaits s g)
  (ws.filter fun q => !barred s g ws q).foldl (fun best q => match best with
    | none => some q
    | some b => if grantsFirst g q b then some q else some b) none

/-- The port of region g grants requester k: the others whose requests are pending now come before its next one (R23). -/
def noteGrant (s : State) (g k : Nat) : State :=
  let others := (s.mesh.flight.filter fun r => dramWaits s g r && dramRequester g r != k).map MeshReq.id
  { s with dram := { s.dram with bar := mapSet [] (16 * g + k) others s.dram.bar } }

/-- DRAM_ACCESS (R308): a request that the port of its region grants; which key bytes of its frames fail their parity, and
what the decode of its words finds. One behind a parked store of its own initiator parks with it (R358, R379). -/
def execDramAccess (id : Nat) (u : DramFinds) (s : State) : Host.Outcome State Fault Refusal :=
  .next (match reqOf s id with
    | none => s
    | some q =>
      let g := q.addr / 0x800000000
      if (dramGrant s g).map MeshReq.id ≠ some id then s else
      let s := noteGrant s g (dramRequester g q)
      match before s q with
      | some _ => parkReq s q
      | none => dramAccess s q u.keys u.words)

/-! ### Turn port B and the scratchpad's idle cycles (R319-R323) -/

/-- Request q stands at the turn memory of block b, through a logical or a physical window. -/
def atTurn (s : State) (b : Nat) (q : MeshReq) : Bool :=
  q.atPort && !q.dead && !q.done && match targetBlk s (targetOf s q.addr) with
    | some (c, o) => c == b && decide (0x100000 ≤ o) && decide (o < 0x200000)
    | none => false

/-- The request at block b's turn memory that came first. -/
def tmRequest (s : State) (b : Nat) : Option MeshReq := oldest (s.mesh.flight.filter (atTurn s b))

/-- Digits ds written by port B at turn offset t, within one line, while port A may write. -/
def portBDigits (s : State) (b : Nat) (a : Option PortA) (t : Nat) (ds : List Nat) : State :=
  let v := lineBits (t % 256) ds
  portBWrite s b (t / 256) v.1 v.2 a

/-- Port B serves the next line of request q to block b's turn memory: o is its offset in the turn memory. A read returns
what stood there before port A's write of the same cycle (R18). -/
def turnServe (s : State) (b o : Nat) (q : MeshReq) (a : Option PortA) : State :=
  let t := o + q.off
  let n := min (q.len - q.off) (256 - t % 256)
  let at_ := 0x100000 + bwin b + t
  let last := decide (q.len ≤ q.off + n)
  if q.wr then
    let ds := ((q.data.drop q.off).take n).map BitVec.toNat
    let s := portBDigits (breakResv s at_ n) b a t ds
    let s := if q.part.isSome && q.part == partOf s b then s else throughSnap s at_ ds
    if last then respond s q 0 [] else updReq s q fun x => { x with off := x.off + n }
  else
    let (s, ok) := memCheck s b at_ n
    let got := q.got ++ (readDigits s at_ n).map (BitVec.ofNat 4)
    let s := portAWrite s b a
    if !ok then respond s q 3 []
    else if last then respond s q 0 (got.map BitVec.toNat)
    else updReq s q fun x => { x with off := x.off + n, got := got }

/-- TURN_PORT_B_ACCESS (R319, R321): port B serves one line of the contender that comes first from the rotating pointer on,
0 channel 1, 1 the mesh target port, while port A may write a line; u: the upsets that have struck the memory. -/
def execTurnPortBAccess (b : Blk) (a : Option PortA) (u : List MemUpset) (s : State) : Host.Outcome State Fault Refusal :=
  let b := b.toNat
  let s := endHush (strikeMem s b true u) b
  let pass (k : Nat) (s : State) : State := updSeq s b fun q => { q with tmPtr := 1 - k }
  let mesh := tmRequest s b
  .next (
    if dmaWants s b true && ((seqOf s b).tmPtr == 0 || mesh.isNone) then
      let own (s : State) (o : Nat) (ds : List Nat) : State :=
        portBDigits (breakResv s (bwin b + o) ds.length) b a (o - 0x100000) ds
      let reads := match dmaRun s b true with | some r => r.inbox.isEmpty && !r.fillLocal | none => true
      let s := dmaMove (pass 0 s) b true own
      if reads then portAWrite s b a else s
    else match mesh with
      | some q =>
        let o := match targetBlk s (targetOf s q.addr) with | some (_, o) => o - 0x100000 | none => 0
        turnServe (pass 1 s) b o q a
      | none => portAWrite s b a)

/-- SCRATCHPAD_IDLE_GRANT (R323): the contender that comes first from the rotating pointer on is served; u: the upsets that
have struck the memory. -/
def execScratchpadIdleGrant (b : Blk) (u : List MemUpset) (s : State) : Host.Outcome State Fault Refusal :=
  let b := b.toNat
  let s := strikeMem s b false u
  .next (match spNext s b with
    | none => s
    | some k =>
      let s := spPass s b k
      match k with
      | 0 => (match spRequest s b with | some q => performAt s q (targetOf s q.addr) | none => s)
      | 1 => dmaMove s b false fun s o ds => writeDigits s (bwin b + o) ds
      | _ => descServe s b (descNext s b))

/-! ### Statistics (R371, R372) -/

/-- The multiple of PERIOD that comes next (R372). -/
def nextWindow (s : State) : Nat :=
  let p := rgF s R.MS_STAT R.MS_STAT_PERIOD
  (now s / p + 1) * p

/-- The windows that have ended by now are closed (R10, R372): every router copies its counters, which restart; where a
whole window has passed since, the registers show that one, which counted nothing. -/
def rollStats (s : State) : State :=
  match s.mesh.statNext with
  | none => s
  | some t =>
    if !rgB s R.MS_STAT R.MS_STAT_EN || decide (now s < t) then s else
    let stat (a : Nat) : Bool := match routerOf a with | some (_, o) => decide (0x1000 ≤ o) | none => false
    let more := (now s - t) / rgF s R.MS_STAT R.MS_STAT_PERIOD
    let s := { s with regs := mapDrop stat s.regs }
    let s := if more = 0 then s.mesh.live.foldl (fun s e => setRg s e.1 e.2) s else s
    let s := setF s R.MS_STAT R.MS_STAT_WINDOWS (rgF s R.MS_STAT R.MS_STAT_WINDOWS + 1 + more)
    { s with mesh := { s.mesh with live := [], statNext := some (nextWindow s) } }

/-- STATS_WINDOW_END (R372). -/
def execStatsWindowEnd (s : State) : Host.Outcome State Fault Refusal := .next (rollStats s)

/-- The bin of a latency in NCLK (R371). -/
def latencyBin (n : Nat) : Nat := if n < 16 then 0 else if 262144 ≤ n then 15 else Nat.log2 n - 3

/-- A response counts in its tracker's statistics, in the window in which it arrives (R371, R372). -/
def countStat (s : State) (q : MeshReq) (st : Nat) : State :=
  if !rgB s R.MS_STAT R.MS_STAT_EN then s else
  let s := rollStats s
  let r := q.home
  let n := q.sport
  let bump (a v : Nat) (m : List (Nat × Nat)) : List (Nat × Nat) := mapSet 0 a (mapGet 0 a m + v) m
  let bytes := bump (if q.wr then R.ST_WRB r n else R.ST_RDB r n) (if st = 0 then (q.len + 1) / 2 else 0) s.mesh.live
  let counts := bump (R.ST_CNT r n) (if q.wr then 1 else 2 ^ 32) bytes
  { s with mesh := { s.mesh with live := bump (R.ST_HIST r n (latencyBin (s.nclk - q.taken))) 1 counts } }

/-! ### Responses (R353, R358-R360) -/

/-- A response to block b's sequencer (R267, R268). -/
def seqResp (s : State) (b : Nat) (q : MeshReq) (st : Nat) (data : List Nat) : State :=
  let z := seqOf s b
  let l := z.ldx.find? fun l => l.id == q.id
  let s := setSeq s b { z with ldx := z.ldx.filter fun l => l.id != q.id }
  if st ≠ 0 then updSeq s b fun z =>
    { z with meshTraps := z.meshTraps ++ [(BitVec.ofNat 8 st, BitVec.ofNat 48 (askedAddr s q))] }
  else match l with
    | some l =>
      let v := digitsVal data
      writeId s b l.reg (if l.sext then wrap 64 (sgn (4 * l.n) v) else v)
    | none => s

/-- A held write of partition n that its target has refused with a status at its commit: the gateway of region g records
and counts it and sends warning 0x09 (R380). -/
def heldRefused (s : State) (n g st addr : Nat) : State :=
  let s := setRg s (R.GW_HFAIL g) (st % 256 * 2 ^ 56 + 2 ^ 55 + n % 16 * 2 ^ 48 + addr % 2 ^ 48)
  warnOp (addSat s (R.GW_SHADOW g) R.GW_SHADOW_HFAIL 1) 9 (0x100 + g) n true

/-- A response reaches its initiator; that to a held write reaches the gateway that performs it. -/
def deliver (s : State) (q : MeshReq) (st : Nat) (data : List Nat) : State :=
  match q.logOf with
  | some (n, g) => if st = 0 then s else heldRefused s n g st (askedAddr s q)
  | none =>
  match q.src with
  | .seq b => showOutst (seqResp s b.toNat q st data) b.toNat
  | .dma b ch => dmaResp s b.toNat ch q.id st (askedAddr s q) data
  | .host _ => hostResp s q st data
  | .awl => awlResponse s q.id st data
  | .rein _ =>
    match s.mesh.tun.find? fun t => t.1 == q.id with
    | some (_, p, far) =>
      emit { s with mesh := { s.mesh with tun := s.mesh.tun.filter fun t => t.1 != q.id } }
        (.tun p (.response far (BitVec.ofNat 8 st) (data.map (BitVec.ofNat 4))))
    | none => s
  | .security | .image | .controller => s

/-- A response arrives with a status and data and frees its tag (R358, R359): a late one and one to work that was rolled
back are discarded, and so, without its tag, is one to an isolated source (R360, R364, R384). -/
def respArrives (s : State) (x : MeshResp) (st : Nat) (data : List Nat) : State :=
  let q := x.req
  if portCut s q.home q.sport then loseResp (absorb s q.home) x else
  let s := { s with mesh := { s.mesh with resps := s.mesh.resps.filter fun y => y.id != x.id } }
  let s := countStat (showTags s q.home) q st
  if q.timedOut then addSat s (R.RT_TAGS q.home) R.RT_TAGS_LATE 1
  else if q.dead then (match q.src with | .seq b => showOutst s b.toNat | _ => s)
  else deliver s q st data

/-- The response that comes next of those that one source port sends to the port of x (R358). -/
def firstResp (s : State) (x : MeshResp) : Option MeshResp :=
  s.mesh.resps.find? fun y => y.via == x.via && y.req.home == x.req.home && y.req.sport == x.req.sport

/-- MESH_RESPONSE (R358): a response arrives, after those that its source port has sent to the same port before it. -/
def execMeshResponse (id : Nat) (s : State) : Host.Outcome State Fault Refusal :=
  .next (match s.mesh.resps.find? fun r => r.id == id with
    | none => s
    | some x =>
      if firstResp s x == some x then respArrives s x x.status.toNat (x.data.map BitVec.toNat) else s)

/-- The router at which a tracker stands. -/
def trackerRouter (t : Tracker) : Nat :=
  match t with
  | .gateway g => g.toNat
  | .host => routerAt 0 1
  | .security => routerAt 0 0
  | .awl => routerAt 0 3
  | .rein y => routerAt 5 y.toNat

/-- TAG_ALLOCATE (R359): the oldest request that waits for a freed tag of the tracker takes it. -/
def execTagAllocate (t : Tracker) (s : State) : Host.Outcome State Fault Refusal :=
  let r := trackerRouter t
  .next (match s.mesh.flight.find? fun q => q.untagged && trackerHome q.home == r && decide (tagsUsed s q.home < tagCap q.home) with
    | none => s
    | some q => takeTag s q)

/-- The unit that a response timeout names: the target's block or gateway, or its router (R360, R393). -/
def targetUnit (s : State) (t : Target) : Nat :=
  match domainOf s t with
  | some (g, j) => if j < 9 then 9 * g + j else 0x100 + g
  | none => 0x200 + routerUnit (destRouter s t)

/-- A request has been without a response for MS_CTRL.RTO since it left its source: 1,200 NCLK make a microsecond. -/
def overdue (s : State) (q : MeshReq) : Bool :=
  !q.timedOut && !q.untagged && !q.fenced && !q.dead && decide (q.sent + 1200 * rgF s R.MS_CTRL R.MS_CTRL_RTO ≤ s.nclk)

/-- The initiator of an overdue request sees TARGET_ISOLATED, and an alarm is raised (R360). -/
def answerLate (s : State) (q : MeshReq) : State :=
  raiseCheck (deliver s q 5 []) 8 (targetUnit s (targetOf s q.addr)) q.addr (q.part.getD 0)

/-- RESPONSE_TIMEOUT (R360): the tag stays taken. -/
def execResponseTimeout (id : Nat) (s : State) : Host.Outcome State Fault Refusal :=
  .next (match reqOf s id with
    | some q => if overdue s q then answerLate (updReq s q fun x => { x with timedOut := true }) q else s
    | none => match s.mesh.resps.find? fun x => x.id == id with
      | some x =>
        if !overdue s x.req then s else
        let rs := s.mesh.resps.map fun y => if y.id = id then { y with req := { y.req with timedOut := true } } else y
        answerLate { s with mesh := { s.mesh with resps := rs } } x.req
      | none => s)

end Sys2Proof.Machine
end

