-- ==== Sys2Proof/Machine/Router.lean ====
section
/-! DEFINITION. The routers: input queues, checks of header and words, credits, allocation of outputs, the NCLK in which each
output sends a flit, links taken down, link timeouts (R18, R24, R347-R356, R361-R365). -/

namespace Sys2Proof.Machine

/-- Key of a channel of input or output p of router r. -/
def flitKey (r p vc : Nat) : Nat := 32 * r + 4 * p + vc

/-- The queue of a router input (R355), and that queue replaced. -/
def flitsAt (s : State) (k : Nat) : List QFlit := mapGet [] k s.mesh.queues
def setFlits (s : State) (k : Nat) (l : List QFlit) : State := { s with mesh := { s.mesh with queues := mapSet [] k l s.mesh.queues } }

/-- The port of the router beside, at the other end of a link. -/
def facing (p : Nat) : Nat := (p + 2) % 4

/-- A chip machine check of router r: loc 0, or 1 + d for a link taken down on side d (log entry 98). -/
def meshCheck (s : State) (r loc : Nat) : State := raiseCheck s 8 (0x200 + routerUnit r) loc 0

/-- The channel of the output that feeds input p of router r: none for a local input. -/
def feeder (r p vc : Nat) : Option Nat :=
  if 4 ≤ p then none else (routerBeside r p).map fun u => flitKey u (facing p) vc

/-- A slot of an input queue empties: its credit is back at the sender 2 NCLK later (R355). -/
def giveCredit (s : State) (r p vc : Nat) : State :=
  match feeder r p vc with
  | some k => { s with mesh := { s.mesh with back := s.mesh.back ++ [(s.nclk + 2, k)] } }
  | none => s

/-! ### Packets that are thrown away (R354, R361, R363, R364) -/

/-- A packet that goes no further at router r: its request is answered with TARGET_ISOLATED by that router, and its response
is lost (R361). -/
def deadEnd (s : State) (r : Nat) (f : Flit) : State :=
  match headReq s f with
  | some q => respondAt s r q 5 []
  | none => match headResp s f with
    | some x => loseResp s x
    | none => s

/-- A packet is thrown away at router r: its request is never performed, and its response never reaches its tracker (R360, R363,
R364). -/
def discardPacket (s : State) (f : Flit) : State :=
  match headReq s f with
  | some q => updReq s q fun x => { x with done := true }
  | none => match headResp s f with
    | some x => loseResp s x
    | none => s

/-- A link is taken down on router r's side: the flits bound for it go no further (R361). -/
def downSide (s : State) (r d : Nat) : State :=
  let s := setF s (R.RT_LINK r) ⟨47 - d, 47 - d⟩ 1
  let qs := s.mesh.queues.map fun e =>
    if e.1 / 32 = r then (e.1, e.2.map fun x => if x.out = d then { x with drop := true, sent := false } else x) else e
  let off (k : Nat) : Bool := k / 4 == 8 * r + d
  meshCheck { s with mesh := { s.mesh with
    queues := qs, creds := mapDrop off s.mesh.creds, alloc := mapDrop off s.mesh.alloc
    back := s.mesh.back.filter fun e => !off e.2 } } r (1 + d)

/-! ### Reception (R349-R355, R361-R363) -/

/-- A flit after correction of its single-bit errors, and its words that cannot be corrected (R362, R363). -/
def mended (f : Flit) (u : List FlitUpset) : Flit × BitVec 8 :=
  u.foldl (fun p x => match x with
    | .single i k =>
      if k.val < 64 then ({ p.1 with words := p.1.words ^^^ BitVec.twoPow 512 (64 * (7 - i.toNat) + k.val) }, p.2)
      else ({ p.1 with check := p.1.check ^^^ BitVec.twoPow 64 (8 * (7 - i.toNat) + (k.val - 64)) }, p.2)
    | .double i => (p.1, p.2 ||| BitVec.twoPow 8 i.toNat)) (f, 0)

/-- The flit that the sender still keeps of those sent through channel k and not yet accepted at the input it feeds, at
which n flits of the channel stand (R361). -/
def keptFlit (s : State) (k n : Nat) : Option Flit :=
  let l := mapGet [] k s.mesh.creds
  let i := n + (s.mesh.back.filter fun e => e.2 == k).length
  match l[i]? with
  | none => none
  | some e =>
    let j := ((l.take i).filter fun x => x.1 == e.1).length
    ((flitsAt s (flitKey (k / 32) e.1 (k % 4))).filter fun x => x.sent)[j]?.map QFlit.f

/-- A head flit whose header parity fails is discarded, and the sender resends it from its queue. When the eighth resend in
succession has failed too, both routers take the link down (R361). -/
def resendFlit (s : State) (r p vc : Nat) : State :=
  let k := flitKey r p vc
  let n := mapGet 0 k s.mesh.retry + 1
  if n ≤ 8 then
    let s := addSat s (R.RT_LINK r) R.RT_LINK_RETRY 1
    let s := emit { s with mesh := { s.mesh with retry := mapPut k n s.mesh.retry } } (.resend r (portNamed p))
    match feeder r p vc with
    | none => s
    | some c => match keptFlit s c (flitsAt s k).length with
      | some f => emit s (.flit (c / 32) (portNamed (facing p)) vc f)
      | none => s
  else
    let s := { s with mesh := { s.mesh with retry := mapErase k s.mesh.retry } }
    match routerBeside r p with
    | some u => downSide (downSide s r p) u (facing p)
    | none => meshCheck s r 0

/-- Whether a head flit opens a machine-check alarm: an ALARM for the controller behind router (0,0) (R355, R526). -/
def mcAlarm (f : Flit) : Bool := headType f == 5 && headDest f == routerAt 0 0

/-- Whether a queue takes a further flit of a channel: 8 slots, of which VC3 keeps 2 for machine-check alarms (R355). -/
def takesFlit (vc : Nat) (mcs : List Bool) (mc : Bool) : Bool :=
  decide (mcs.length < 8) && (vc != 3 || mc || decide ((mcs.filter (!·)).length < 6))

/-- A flit joins the queue of its input, or, of a packet that goes no further, leaves it at once. -/
def enqueue (s : State) (r p vc : Nat) (x : QFlit) : State :=
  let k := flitKey r p vc
  let l := flitsAt s k
  if x.drop then giveCredit s r p vc
  else if !takesFlit vc (l.map QFlit.mc) x.mc then s
  else setFlits s k (l ++ [{ x with since := s.nclk }])

/-- A head flit that has passed its header check opens its packet at an input. At its destination it is discarded when word 0
cannot be corrected, or its type is reserved, or its VC field is not its type's (R354, R363); at its source router when
its source is isolated (R364); and where its route needs a link that is down it is answered (R361). -/
def openPacket (s : State) (r p vc : Nat) (f : Flit) (bad : BitVec 8) : State :=
  let out := outOf r (flitWord f 0)
  let wrong := decide (4 ≤ out) && (bad.getLsbD 0 || typeVC (headType f) != some (bits (flitWord f 0) 45 44))
  let cut := decide (4 ≤ p) && headSource f == r && portCut s r (bits (flitWord f 0) 49 46)
  let down := decide (out < 4) && linkDown s r out
  let i : InPacket := { out := out, left := dataFlits f, mc := mcAlarm f, drop := wrong || cut || down }
  let s := { s with mesh := { s.mesh with retry := mapErase (flitKey r p vc) s.mesh.retry
                                          packets := mapSet {} (flitKey r p vc) i s.mesh.packets } }
  let s := if wrong then meshCheck (discardPacket s f) r 0 else if cut then discardPacket (absorb s r) f else if down then deadEnd s r f else s
  enqueue s r p vc { f := f, bad := bad, out := out, last := i.left == 0, mc := i.mc, drop := i.drop }

/-- FLIT_RECEIVE (R361-R363, R370): a flit comes in through a port, on its channel; u: what its check bytes find. A head flit opens
its packet, and data flits follow the head of their channel. A word that cannot be corrected goes on as it is. A router under
reconfiguration withholds its local inputs' credits too, and the unit keeps its flit. -/
def execFlitReceive (r : Fin 24) (port : RPort) (f : FlitIn) (u : List FlitUpset) (s : State) :
    Host.Outcome State Fault Refusal :=
  let r := r.val
  let p := portNum port
  let vc := f.vc.toNat
  let f := f.flit
  let k := flitKey r p vc
  .next (
    if 4 ≤ p ∧ mapHas r s.mesh.recfg then s
    else if f.head then
      if !hparOk (flitWord f 0) then resendFlit s r p vc
      else openPacket s r p vc (mended f u).1 (mended f u).2
    else
      let i := mapGet {} k s.mesh.packets
      if i.left = 0 then s
      else
        let s := { s with mesh := { s.mesh with packets := mapSet {} k { i with left := i.left - 1 } s.mesh.packets } }
        enqueue s r p vc { f := (mended f u).1, bad := (mended f u).2, out := i.out, last := i.left == 1, mc := i.mc, drop := i.drop })

/-! ### Delivery at a local port (R351, R353, R363) -/

/-- A MSG of the interrupt controllers, by its address and payload word 0 (R455): KIND 0x01 to a BIC_CICQ, 0x02 to the CIC. -/
def takeMsg (s : State) (f : Flit) : State :=
  let a := bits (flitWord f 1) 47 0
  let w := flitWord f 2
  if bits w 63 56 = 1 ∧ inWin a ∧ winOff a = 0x780200 then irqArrives s (winBlk a) (bits w 9 0)
  else if bits w 63 56 = 2 ∧ a = ackAddr then ackArrives s (bits w 9 0) (bits w 49 48)
  else s

/-- A packet has left its destination router through a local port. A request is performed with the fields that its flits
carry, and a response is taken with them; a word that cannot be corrected makes its status UNCORR. -/
def takePacket (s : State) (l : List QFlit) : State :=
  match l with
  | [] => s
  | h :: _ =>
    let bad := l.any fun x => x.bad != 0
    let fs := l.map QFlit.f
    match headReq s h.f with
    | some q =>
      if bad then respond s q 3 [] else
      let q1 := { q with wr := headType h.f == 1, addr := bits (flitWord h.f 1) 47 0, len := headLen h.f
                         key := BitVec.ofNat 4 (bits (flitWord h.f 0) 21 18), data := (payloadOf fs).map (BitVec.ofNat 4) }
      arrive (updReq s q fun _ => q1) q1
    | none => match headResp s h.f with
      | some x => if bad then respArrives s x 3 [] else respArrives s x (headStatus h.f) (payloadOf fs)
      | none => if headType h.f = 4 ∧ !bad then takeMsg s h.f else s

/-! ### One NCLK of the routers (R18, R24, R355, R356) -/

/-- Credits that have come back: the sender's queue gives up the flit that it kept. -/
def takeCredits (s : State) : State :=
  let due := s.mesh.back.filter fun e => decide (e.1 ≤ s.nclk)
  if due.isEmpty then s else
  due.foldl (fun s e =>
    match mapGet [] e.2 s.mesh.creds with
    | [] => s
    | c :: rest =>
      let r := e.2 / 32
      let vc := e.2 % 4
      let l := flitsAt s (flitKey r c.1 vc)
      let gone := l.find? fun x => x.sent && x.out == e.2 % 32 / 4
      let s := { s with mesh := { s.mesh with creds := mapSet [] e.2 rest s.mesh.creds } }
      match gone with
      | some x => giveCredit (setFlits s (flitKey r c.1 vc) (l.erase x)) r c.1 vc
      | none => s) { s with mesh := { s.mesh with back := s.mesh.back.filter fun e => !decide (e.1 ≤ s.nclk) } }

/-- The first flit of an input's queue that has not been sent on. -/
def frontFlit (s : State) (r p vc : Nat) : Option QFlit := (flitsAt s (flitKey r p vc)).find? fun x => !x.sent

/-- A flit at the front of a queue of router r whose link has been taken down leaves, and its packet goes no further. -/
def dropFront (s : State) (r p vc : Nat) : State :=
  match frontFlit s r p vc with
  | some x =>
    if !x.drop then s else
    let s := giveCredit (setFlits s (flitKey r p vc) ((flitsAt s (flitKey r p vc)).erase x)) r p vc
    if x.f.head then deadEnd s r x.f else s
  | none => s

/-- Channel vc of output o of router r, when it is free, goes to the next input from its pointer on at whose front a head
flit waits for it (R356). -/
def allocate (s : State) (r o vc : Nat) : State :=
  let k := flitKey r o vc
  if mapHas k s.mesh.alloc then s else
  let p := mapGet 0 k s.mesh.ptr
  let waits (i : Nat) : Bool := match frontFlit s r i vc with | some x => x.out == o && x.f.head && !x.drop | none => false
  match ((List.range 6).map fun j => (p + j) % 6).find? waits with
  | some i => { s with mesh := { s.mesh with alloc := mapPut k i s.mesh.alloc, ptr := mapSet 0 k ((i + 1) % 6) s.mesh.ptr } }
  | none => s

/-- A packet at the head of a local output waits in its queue while the hold buffer before its target is full (R369). -/
def heldBack (s : State) (x : QFlit) : Bool :=
  x.f.head && match headReq s x.f with
    | some q => (match fenceFor s (targetOf s q.addr) with
      | some (g, j) => holdsWake s q g j && bufferFull s g j
      | none => false)
    | none => false

/-- The input and the flit that channel vc of output o of router r could send in this NCLK: a flit of the packet to which the
channel is allocated, with a credit of the queue beyond (R355); a router under reconfiguration gives none (R370). -/
def sendable (s : State) (r o vc : Nat) : Option (Nat × QFlit) :=
  let k := flitKey r o vc
  if !mapHas k s.mesh.alloc then none else
  let i := mapGet 0 k s.mesh.alloc
  match frontFlit s r i vc with
  | none => none
  | some x =>
    let credit := match (if o < 4 then routerBeside r o else none) with
      | some n => !mapHas n s.mesh.recfg && takesFlit vc ((mapGet [] k s.mesh.creds).map fun c => c.2) x.mc
      | none => decide (4 ≤ o) && !heldBack s x
    if x.out == o && !x.drop && credit then some (i, x) else none

/-- The time at which a flit becomes the first that waits in its queue starts. -/
def startWait (now : Nat) : List QFlit → List QFlit
  | [] => []
  | x :: l => if x.sent then x :: startWait now l else { x with since := now } :: l

/-- Flit x of input i leaves router r through channel vc of output o. Across a link the queue keeps it until its credit
returns; at a local port it is delivered, and with its packet's last flit the packet is. -/
def sendFlit (s : State) (r o vc i : Nat) (x : QFlit) : State :=
  let k := flitKey r o vc
  let ki := flitKey r i vc
  let s := if x.last then { s with mesh := { s.mesh with alloc := mapErase k s.mesh.alloc } } else s
  let s := emit s (.flit r (portNamed o) vc x.f)
  if o < 4 then
    let mark : List QFlit → List QFlit := fun l =>
      (l.foldl (fun (p : Bool × List QFlit) y => if !p.1 && !y.sent then (true, p.2 ++ [{ y with sent := true }]) else (p.1, p.2 ++ [y]))
        (false, [])).2
    let s := setFlits s ki (startWait s.nclk (mark (flitsAt s ki)))
    { s with mesh := { s.mesh with creds := mapPut k (mapGet [] k s.mesh.creds ++ [(i, x.mc)]) s.mesh.creds } }
  else
    let s := giveCredit (setFlits s ki (startWait s.nclk ((flitsAt s ki).erase x))) r i vc
    let l := mapGet [] k s.mesh.rx ++ [x]
    if x.last then takePacket { s with mesh := { s.mesh with rx := mapErase k s.mesh.rx } } l
    else { s with mesh := { s.mesh with rx := mapPut k l s.mesh.rx } }

/-- Output o of router r sends one flit of one allocated channel: VC3 first and VC0 last, but VC0 after 3 NCLK in which it
could send and was not granted (R24). -/
def outputCycle (s : State) (r o : Nat) : State :=
  let s := (List.range 4).foldl (fun s vc => allocate s r o vc) s
  let k := 8 * r + o
  let hungry := mapGet 0 k s.mesh.starve
  let zero := (sendable s r o 0).isSome
  let order := if zero && decide (3 ≤ hungry) then [0] else [3, 2, 1, 0]
  match order.findSome? fun vc => (sendable s r o vc).map fun x => (vc, x) with
  | none => { s with mesh := { s.mesh with starve := mapErase k s.mesh.starve } }
  | some (vc, i, x) =>
    let n := if zero && vc != 0 then hungry + 1 else 0
    sendFlit { s with mesh := { s.mesh with starve := mapSet 0 k n s.mesh.starve } } r o vc i x

/-- One NCLK of router r. -/
def routerCycle (s : State) (r : Nat) : State :=
  let s := (List.range 24).foldl (fun s k => dropFront s r (k / 4) (k % 4)) s
  (List.range 6).foldl (fun s o => outputCycle s r o) s

/-- One NCLK of the mesh: credits that are due, then every router that holds flits. -/
def meshCycle (s : State) : State :=
  if s.mesh.queues.isEmpty && s.mesh.back.isEmpty then s else
  let s := takeCredits s
  ((s.mesh.queues.map fun e => e.1 / 32).eraseDups).foldl routerCycle s

/-! ### Link timeout (R365) -/

/-- LINK_TIMEOUT (R365): a flit has waited 64 µs, 76,800 NCLK, at the head of an input queue without a grant. -/
def execLinkTimeout (r : Fin 24) (port : RPort) (vc : BitVec 2) (s : State) : Host.Outcome State Fault Refusal :=
  let r := r.val
  let p := portNum port
  let k := flitKey r p vc.toNat
  .next (match frontFlit s r p vc.toNat with
    | none => s
    | some x =>
      if x.warned || decide (s.nclk < x.since + 76800) then s else
      let s := setFlits s k ((flitsAt s k).map fun y => if y = x then { y with warned := true } else y)
      let s := if p < 4 then setF s (R.RT_LINK r) ⟨43 - p, 43 - p⟩ 1 else setB s (R.RT_LINK r) R.RT_LINK_LTOL true
      warnAt s 1 (0x200 + routerUnit r) 0 (4 * p + vc.toNat) true)

end Sys2Proof.Machine
end

