-- ==== Sys2Proof/Machine/Clock.lean ====
section
/-! DEFINITION. The clock that runs while no command waits: NCLK at 1.2 GHz, twelve cycles to a tick of TIMEBASE
(00 *Numbers and units*, R15, R462). -/

namespace Sys2Proof.Machine

/-- One NCLK: every router moves what it can, and with every twelfth TIMEBASE has a tick. -/
def cycle (s : State) : State :=
  let s := meshCycle { s with nclk := s.nclk + 1 }
  if s.nclk % 12 = 0 then tick s else s

end Sys2Proof.Machine
end

