-- ==== Sys2Proof/Machine/Commit.lean ====
section
/-! DEFINITION. Epoch boundaries: the request, the stop, the quiesce and the copy, the commit with the release of the held
effects, and the two phases of a cascade's boundary (R376-R382, R389, R422). -/

namespace Sys2Proof.Machine

/-! ### Steps 1 to 4 (R376-R378) -/

/-- EPOCH_BOUNDARY_TICK (R376): the scheduled tick has come; the schedule goes on from it, and the boundary is requested. -/
def execEpochBoundaryTick (n : Part) (s : State) : Host.Outcome State Fault Refusal :=
  let n := n.toNat
  .next (if !defined s n || epState s n == 0 || epState s n == 6 || decide (now s < (epochOf s n).next) then s else
    requestBoundary (updEpoch s n fun e => { e with next := e.next + (partCfg s n).epochMs * 100000 }) n)

/-- A forced load has stopped block b for good, whatever it was executing (R74, R233). -/
def forceStopped (s : State) (b : Nat) : Bool :=
  rgB s R.IMG_STATUS R.IMG_STATUS_FORCED && rgB s (R.DBG_STATUS b) R.DBG_STATUS_STOPPED
    && match s.img, partOf s b with | some L, some n => L.replaced.contains n | _, _ => false

/-- The array instruction of block b waits for requests of other programs of an INDEPENDENT partition, which do not come while
they stop (R113; log entry 91). -/
def waitsOthers (s : State) (b : Nat) : Bool :=
  (match partOf s b with | some n => !lockstep s n | none => false) && [0, 1, 2, 3].any fun k => (slotOf s b k).busy

/-- Block b stands at an instruction boundary or at a safe point: no array instruction of it is under way, but one that UBRK
has halted, a forced load has stopped or other programs hold up (R74, R230, R292, R377, R511). -/
def standsStill (s : State) (b : Nat) : Bool :=
  let q := seqOf s b
  (match q.micro with
    | none => q.resume.isNone
    | some m => m.brk && rgB s (R.DBG_STATUS b) R.DBG_STATUS_HALTED)
  || forceStopped s b || waitsOthers s b

/-- EPOCH_STOP (R377): the last sequencer has stopped or yielded, and Girth holds the partition. -/
def execEpochStop (n : Part) (s : State) : Host.Outcome State Fault Refusal :=
  let n := n.toNat
  .next (if (epochOf s n).step ≠ 1 || !(blocksOf s n).all (standsStill s) then s else
    let s := forEach (blocksOf s n) (fun s b => updSeq s b fun q => { q with epochReq := false, epochStop := true }) s
    let s := forEach (blocksOf s n) (fun s b => suspCause s b 3) s
    updEpoch s n fun e => { e with step := 2 })

/-- Block b's channel waits for the data of a row in host memory. -/
def hostRowOut (s : State) (n : Nat) : Bool :=
  s.host.rds.any fun r => match r.purpose with | .dma b _ _ => partOf s b == some n | _ => false

/-- A mesh request of partition n has no response yet, parked stores apart (R377 step 3). -/
def meshOut (s : State) (n : Nat) : Bool :=
  (s.mesh.flight.any fun q => q.part == some n && !q.parked && !q.dead && !q.timedOut)
    || (s.mesh.resps.any fun r => r.req.part == some n && !r.req.dead && !r.req.timedOut)

/-- The lead holds READY from every device, itself included: it sends COMMIT (R389). -/
def leadCommits (s : State) (n : Nat) : State :=
  if (epochOf s n).step = 4 && (otherDevices s).all (fun d => s.rein.ready.contains (BitVec.ofNat 4 d)) then
    let s := epochMsg s n ctlCommit
    setF (updEpoch s n fun e => { e with step := 5 }) (R.EP_STAT n) R.EP_STAT_STATE 4
  else s

/-- EPOCH_QUIESCE_DONE (R377): every response has come, and the state is copied to the alternate slots. A device of a
cascade is then PREPARED and waits for the second phase (R389). -/
def execEpochQuiesceDone (n : Part) (s : State) : Host.Outcome State Fault Refusal :=
  let n := n.toNat
  .next (if (epochOf s n).step ≠ 2 || meshOut s n || hostRowOut s n then s else
    let c := takeSnap s n
    let s := updEpoch s n fun e => { e with alt := some c, step := 4 }
    if !cascadePart s n then setF s (R.EP_STAT n) R.EP_STAT_STATE 4
    else
      let s := setF s (R.EP_STAT n) R.EP_STAT_STATE 3
      if leadsCascade s then leadCommits s n
      else
        let e := BitVec.ofNat 32 (nextEpoch s n)
        epochMsg { s with rein := { s.rein with prepared := some e } } n ctlReady)

/-! ### Steps 5 and 6 (R377, R379, R380, R388, R422) -/

/-- The region whose outbound log holds an initiator's writes. -/
def logRegion (i : Initiator) : Nat :=
  match i with | .seq b => b.toNat / 8 | .dma b _ => b.toNat / 8 | _ => 0

/-- A held write of partition n to the mesh is performed (R380), under a tag of the gateway whose log held it; without a free one
it waits, and behind its gateway's own fence (R359, R367). An answer that comes at once is taken up at once. -/
def performHeld (s : State) (n : Nat) (r : MeshReq) : State :=
  let id := s.mesh.nextId
  let g := logRegion r.src
  let full := decide (tagCap g ≤ tagsUsed s g)
  let q := { r with id := id, part := none, untagged := full, fenced := fencedDom s g 9, logOf := some (n, g), home := g, sport := 0
                    tag := if full then 0 else newTag s g, sent := s.nclk, taken := s.nclk, seq := 0, passed := false, old := none }
  let s := { s with mesh := { s.mesh with nextId := id + 1, flight := s.mesh.flight ++ [q] } }
  if full then addSat s (R.RT_TAGS g) R.RT_TAGS_WAITS 1 else
  let s := arrive (showTags s g) q
  match s.mesh.resps.find? fun x => x.id == id with
  | some x => respArrives s x x.status.toNat []
  | none => s

/-- A held write of partition n. One into host memory that R399 stops is reported as refused; which status the report
shows is a free value. -/
def releaseWrite (s : State) (n : Nat) (h : Held) : State :=
  match h with
  | .hostWrite i f addr data =>
    if busMaster s f then emit s (.hostWrite f addr data)
    else takeFree (heldRefused s n (logRegion i) (freeNat s) addr)
  | .meshWrite r => performHeld s n r
  | _ => s

/-- A held completion of a RUN: in one that ended with OK, RESULT names the commit that releases it (R413). -/
def releaseCompl (s : State) (epoch : Nat) (h : Held) : State :=
  match h with
  | .compl c =>
    postCompl s (if c.status = 0 then { c with result := BitVec.ofNat 64 (epoch * 2 ^ 32 + c.result.toNat % 2 ^ 32) } else c)
  | _ => s

/-- A held MSI-X message. -/
def releaseMsix (s : State) (h : Held) : State :=
  match h with
  | .msix f v => sendMsix s f v
  | _ => s

/-- The queue of a held completion (64 f + q), unless it has been disabled. -/
def heldQueue (h : Held) : Option Nat := match h with | .compl c => if c.q < 64 then some (64 * c.f + c.q) else none | _ => none

/-- The held effects of a commit, in the order of R422: writes, completion entries as far as their CQs take them, and the
messages, with the vectors of the queues just written. -/
def releaseHeld (s : State) (n epoch : Nat) (hs : List Held) : State :=
  let s := hs.foldl (fun s h => releaseWrite s n h) s
  let s := hs.foldl (fun s h => releaseCompl s epoch h) s
  let r := ((hs.filterMap heldQueue).eraseDups).foldl (fun (p : State × List Nat) k =>
    let x := postAll k p.1.host.compls.length p.1
    (x.1, p.2 ++ List.replicate x.2 k)) (s, [])
  endOrderFences (hs.foldl releaseMsix (r.2.foldl (fun s k => sendVector s (k / 64) (k % 64)) r.1))

/-- The stores that wait parked for partition n: its own, and those at the gateways of its regions. -/
def parkedFor (s : State) (n : Nat) : List MeshReq :=
  s.mesh.flight.filter fun q => q.parked && (q.part == some n || partOfRegion s (parkRegion s q) == some n)

/-- Parked stores are performed in arrival order, as stores of the new epoch (R379). -/
def unpark (s : State) (n : Nat) : State :=
  (parkedFor s n).foldl (fun s q =>
    let q := { q with parked := false }
    arrive (updReq s q fun _ => q) q) s

/-- The corrections of the epoch that ends are judged: more than CETH in a block make a migration due (R388). -/
def judgeCorr (s : State) (b : Nat) : State :=
  let t := rgF s R.CN_CTRL R.CN_CTRL_CETH
  updSeq s b fun q => { q with corr := 0, corrCol := none, corrMix := false, mig := if t ≠ 0 ∧ t < q.corr then 1 else 0
                               migCol := if q.corrMix then none else q.corrCol }

/-- Steps 5 and 6 of partition n's boundary. An instruction that the boundary held continues (R230). -/
def commitNow (s : State) (n : Nat) : State :=
  let e := epochOf s n
  let s := forEach e.shadowed (fun s fr => setKeyByte s fr (putBits (keyByte s fr) 6 6 0)) s
  let s := updEpoch s n fun e =>
    { e with com := e.alt.map fun c => { c with pwr := pwrOf s n }, alt := none, held := [], shadowed := [], strikes := []
             waiters := [], off := [], step := 0
             preq := e.preq.filter fun r => mapHas r.1 s.pwr.goal && !e.off.contains r.1 }
  let s := { s with pages := s.pages.filter fun k => !pageOf s n k }
  let k := nextEpoch s n
  let s := setF s (R.EP_STAT n) R.EP_STAT_EPOCH k
  let s := setRg s (R.EP_TLAST n) (now s)
  let s := setF s (R.EP_STAT n) R.EP_STAT_STATE 1
  let s := releaseHeld s n k e.held
  let s := e.waiters.foldl (fun s w => complete s w.1 w.2.1 w.2.2 0 0 (k * 2 ^ 32)) s
  let s := unpark s n
  let s := forEach (blocksOf s n) judgeCorr s
  let s := e.off.foldl (fun s d => match sluiceOf d with
    | some (g, j) => if sluiceSt s g j = 0 then setSluice s g j 1 else s
    | none => s) s
  let s := forEach (blocksOf s n) (fun s b =>
    let s := updSeq s b fun q => { q with epochReq := false, epochStop := false }
    if rgB s (R.DBG_STATUS b) R.DBG_STATUS_HALTED then suspCause s b 2 else s) s
  raiseFences (forEach (blocksOf s n) resumeIdle s)

/-- EPOCH_COMMIT (R377): after the copy; at the lead of a cascade, once COMMIT has been sent (R389). -/
def execEpochCommit (n : Part) (s : State) : Host.Outcome State Fault Refusal :=
  let n := n.toNat
  .next (if (epochOf s n).step = (if cascadePart s n then 5 else 4) ∧ (epochOf s n).alt.isSome then commitNow s n else s)

/-! ### The two phases of a cascade's boundary (R389) -/

/-- The cascade's partition. -/
def casPart (s : State) : Nat := s.cfg.cascade.cpid.toNat

/-- The messages of R389 reach this device: it belongs to a cascade whose partition has started and has not been lost. -/
def inCascade (s : State) : Bool :=
  cascadePart s (casPart s) && epState s (casPart s) != 0 && epState s (casPart s) != 6

/-- Messages of the boundary that makes epoch e are the ones taken up; others are late. -/
def forEpoch (s : State) (e : BitVec 32) : Bool := decide (e.toNat = nextEpoch s (casPart s))

/-- PREPARE (R389): steps 1 to 4 begin. During a rollback the answer is FAIL; during a Girth stop the message waits to be
repeated. -/
def execPrepare (e : BitVec 32) (s : State) : Host.Outcome State Fault Refusal :=
  let n := casPart s
  .next (if !inCascade s || leadsCascade s || !forEpoch s e then s else
    let s := fromLead s ctlPrepare (e.setWidth 64)
    if s.rein.prepared = some e then epochMsg s n ctlReady
    else if (epochOf s n).step ≠ 0 then s
    else if (epochOf s n).rolling then epochMsg s n ctlFail
    else if boundaryWaits s n then s
    else startBoundary s n)

/-- READY (R389): the lead notes device dev; a device on the way passes it on. -/
def execReady (dev : BitVec 4) (e : BitVec 32) (s : State) : Host.Outcome State Fault Refusal :=
  let n := casPart s
  .next (if !inCascade s then s
    else if !leadsCascade s then toLead s ctlReady (BitVec.ofNat 64 (dev.toNat * 2 ^ 32 + e.toNat))
    else if !forEpoch s e || (epochOf s n).step = 0 then s
    else leadCommits { s with rein := { s.rein with ready := setAdd dev s.rein.ready } } n)

/-- The lead's ABORT, with the journal's reason, and its own rollback (R389). A boundary whose COMMIT has been sent stands. -/
def leadAborts (s : State) (n why : Nat) : State :=
  if (epochOf s n).step = 5 || (epochOf s n).rolling then s else
  rollback (cascAbort s n why) n 1 9 0 0

/-- FAIL (R389): the lead aborts; outside a boundary it is the report of a strike. A report that a device's path is lost takes
the partition out of concealment on every device that the lead still reaches (R445). -/
def execFail (dev : BitVec 4) (m : CascMsg) (s : State) : Host.Outcome State Fault Refusal :=
  let n := casPart s
  .next (if !inCascade s then s
    else if !leadsCascade s then
      toLead s ctlFail (BitVec.ofNat 64 (dev.toNat * 2 ^ 32) + cascArg m)
    else match m with
      | .epoch e => if !forEpoch s e then s else leadAborts s n (if (epochOf s n).step = 0 then 2 else 1)
      | .lost => fromLead (concealmentLost s n 9 0 0) ctlAbort (cascArg .lost))

/-- COMMIT (R389): a prepared device performs steps 5 and 6. -/
def execCommit (e : BitVec 32) (s : State) : Host.Outcome State Fault Refusal :=
  let n := casPart s
  .next (if !inCascade s || leadsCascade s then s else
    let s := fromLead s ctlCommit (e.setWidth 64)
    if s.rein.prepared = some e && (epochOf s n).step = 4 then
      commitNow { s with rein := { s.rein with prepared := none, unacked := none } } n
    else s)

/-- ABORT (R389): the alternate slots are discarded, and the device rolls back; where a path to the lead is lost, the partition
stops for good (R390, R445). -/
def execAbort (m : CascMsg) (s : State) : Host.Outcome State Fault Refusal :=
  let n := casPart s
  .next (if !inCascade s || leadsCascade s then s else match m with
    | .lost => concealmentLost (fromLead s ctlAbort (cascArg .lost)) n 9 0 0
    | .epoch e =>
      if !forEpoch s e then s else
      let s := fromLead s ctlAbort (e.setWidth 64)
      let s := { s with rein := { s.rein with prepared := none, unacked := none } }
      if (epochOf s n).rolling then s else rollback s n 1 9 0 0)

/-- CASCADE_READY_TIMEOUT (R389): a device's READY is missing CTO microseconds after PREPARE. -/
def execCascadeReadyTimeout (s : State) : Host.Outcome State Fault Refusal :=
  let n := casPart s
  let since := (epochOf s n).prep
  .next (if !inCascade s || !leadsCascade s || (epochOf s n).step = 0
      || (otherDevices s).all (fun d => s.rein.ready.contains (BitVec.ofNat 4 d))
      || decide (now s < since + 100 * rgF s R.CN_CTRL R.CN_CTRL_CTO) then s else leadAborts s n 3)

/-- CASCADE_MSG_REPEAT (R389): the last message, which is not acknowledged, is sent again. -/
def execCascadeMsgRepeat (s : State) : Host.Outcome State Fault Refusal :=
  .next (match s.rein.unacked with | some m => if inCascade s then sendEpochMsg s m else s | none => s)

end Sys2Proof.Machine
end

