-- ==== Sys2Proof/Machine/HostIf.lean ====
section
/-! DEFINITION. The host's side of the link: configuration space, the windows of the BARs, resets of functions, link
training, the DOE mailbox with SPDM (R396-R405, R423, R494, R495). The places of the capabilities in configuration space
and the layout of their registers are PCI Express's (log entry 20). -/

namespace Sys2Proof.Machine

/-! ### Configuration space (R396, R398) -/

/-- Memory Space Enable of function f: of the PF, or the VFs' bit in the SR-IOV capability. -/
def memEnable (s : State) (f : Nat) : Bool := if f = 0 then (cfgReg s 0 1).testBit 1 else (cfgReg s 0 90).testBit 3

/-- Function f is there: the PF always, a VF while VF Enable is set and NumVFs reaches it. -/
def funcThere (s : State) (f : Nat) : Bool := f == 0 || (vfEnable s && decide (f ≤ cfgReg s 0 92 % 2 ^ 16))

/-- The size of the PF's BAR2: 2 to this power in bytes; 256 GiB at reset. -/
def bar2Log (s : State) : Nat := if cfgReg s 0 114 = 0 then 38 else 20 + bits (cfgReg s 0 114) 13 8

/-- Negotiated speed and width as the Link Status register shows them. -/
def linkStatus (s : State) : Nat := rgF s R.HI_STATUS R.HI_STATUS_SPEED + 16 * rgF s R.HI_STATUS R.HI_STATUS_WIDTH

/-- What configuration dword d of function f shows beside the bits that the host writes. -/
def cfgFixed (s : State) (f d : Nat) : Nat :=
  let pf := decide (f = 0)
  match d with
  | 0 => (if pf then 0x2F12 else 0x2F13) * 2 ^ 16 + 0xCE7A
  | 1 => 0x00100000
  | 2 => 0x120000 * 2 ^ 8 + rgF s R.STEPPING R.STEPPING_MAJOR % 16 * 16 + rgF s R.STEPPING R.STEPPING_MINOR % 16
  | 4 => if pf then 0x4 else 0
  | 6 => if pf then 0xC else 0
  | 11 => (Config.cfgOpen f 11).toNat
  | 13 => 0x40
  | 16 => 0x00035001
  | 17 => 0x8
  | 20 => (vectors f - 1) * 2 ^ 16 + 0x7011
  | 21 => if pf then 0x600000 else 0x40000
  | 22 => if pf then 0x610000 else 0x50000
  | 28 => 0x00020010
  | 29 => 0x10008022
  | 31 => 0x00000906
  | 32 => linkStatus s * 2 ^ 16
  | 37 => 0x00030000
  | 39 => 0x0000007E
  | 64 => 0x14020001
  | 70 => 0x000000A0
  | 80 => if pf then 0x1601000E else 0x0001000E
  | 88 => if pf then 0x1A010010 else 0
  | 89 => if pf then 0x4 else 0
  | 91 => if pf then 0x00100010 else 0
  | 93 => if pf then 0x00010001 else 0
  | 94 => if pf then 0x2F13 * 2 ^ 16 else 0
  | 95 => if pf then (Config.cfgOpen f 95).toNat else 0
  | 96 => if pf then 1 else 0
  | 97 => if pf then 0x4 else 0
  | 99 => if pf then 0xC else 0
  | 104 => if pf then 0x1C01002E else 0
  | 112 => if pf then 0x00010015 else 0
  | 113 => if pf then 0x007FC000 else 0
  | 114 => if pf then 0x22 + (if cfgReg s 0 114 = 0 then 18 * 2 ^ 8 else 0) else 0
  | _ => 0

/-- The bits of configuration dword d of function f that the host writes. -/
def cfgMask (s : State) (f d : Nat) : Nat :=
  let pf := decide (f = 0)
  match d with
  | 1 => if pf then 0x146 else 0x4
  | 4 => if pf then 0xFF000000 else 0
  | 5 => if pf then 0xFFFFFFFF else 0
  | 6 => if pf then 2 ^ 32 - 2 ^ (min (bar2Log s) 32) else 0
  | 7 => if pf then 2 ^ 32 - 2 ^ (bar2Log s - 32) else 0
  | 17 => 0x3
  | 20 => 0xC0000000
  | 30 => if pf then 0x7FFF else 0
  | 32 => if pf then 0x0FFF else 0
  | 38 => if pf then 0xFFFF else 0
  | 66 | 67 | 69 => if pf then 0xFFFFFFFF else 0
  | 70 => if pf then 0x140 else 0
  | 90 => if pf then 0x39 else 0
  | 92 => if pf then 0xFFFF else 0
  | 97 => if pf then 0xFFF00000 else 0
  | 98 => if pf then 0xFFFFFFFF else 0
  | 100 => if pf then 0xFFFFFFC0 else 0
  | 114 => if pf then 0x3F00 else 0
  | _ => 0

/-- Configuration dword d of function f. -/
def cfgRead (s : State) (f d : Nat) : Nat := Nat.lor (cfgFixed s f d) (cfgReg s f d)

/-! ### Resets of functions (R397, R401) -/

/-- A sequencer left out of its program, with no array instruction under way. -/
def leftSeq (q : Seq) : Seq :=
  { q with inProg := false, inRun := false, waiting := false, stepping := false, exit := none, susp := none, micro := none, resume := none }

/-- A function's reset reaches the committed copy too, so that a rollback does not bring its programs back. -/
def leaveSnap (c : Snap) (bs : List Nat) : Snap :=
  { c with
    seqs := bs.foldl (fun m b => mapSet {} b (leftSeq (mapGet {} b m)) m) c.seqs
    regs := bs.foldl (fun m b =>
      let a := R.ARR_SUSP b
      let v := (mapGet (regReset a) a m).toNat
      mapSet (regReset a) a (BitVec.ofNat 64 (putBits v R.ARR_SUSP_VALID.hi R.ARR_SUSP_VALID.lo 0)) m) c.regs
    runs := [] }

/-- A command ends without a completion. -/
def endSilently (s : State) (w : Nat × Nat × BitVec 512) : State :=
  { s with host := { s.host with cmds := s.host.cmds.filter fun h => !(h.f == w.1 && h.q == w.2.1 && h.body == w.2.2) } }

/-- What a reset of a function does to partition n: its sequencers are halted through Girth and leave their programs,
suspended instructions are abandoned, and the open epoch's held effects are discarded. -/
def flrPart (s : State) (n : Nat) : State :=
  let bs := blocksOf s n
  let s := girthStop s n 4
  let s := forEach bs (fun s b => leaveProgram (updSeq (dropOp s b) b leftSeq) b) s
  let s := unstop s n
  let gone := s.host.runs.filterMap fun r => if r.part = n then r.cmd else none
  let s := { s with host := { s.host with runs := s.host.runs.filter fun r => r.part != n } }
  let s := gone.foldl endSilently s
  updEpoch s n fun e =>
    { e with held := [], com := e.com.map fun c => leaveSnap c bs, alt := e.alt.map fun c => leaveSnap c bs }

/-- What a read of host memory serves: the function whose command or queue it belongs to. -/
def purposeFunc (p : HostPurpose) : Option Nat :=
  match p with
  | .sqFetch f _ => some f
  | .copy f _ _ _ => some f
  | .image f _ _ => some f
  | .microcode f _ _ => some f
  | .dma _ _ _ => none

/-- The registers, queues and commands of function f are reset; its outstanding commands end without completion. The error
log of its configuration space is kept. -/
def flrFunc (s : State) (f : Nat) : State :=
  let lo := chipCtl + 0x800000 + 0x8000 * f
  let s := resetRegs (fun a => decide (lo ≤ a) && decide (a < lo + 0x8000)) s
  let mine (w : Nat × Nat × BitVec 512) : Bool := w.1 == f
  let h := s.host
  let h1 : HostSt :=
    { h with
      queues := mapDrop (fun k => k / 64 == f) h.queues
      cmds := h.cmds.filter fun c => c.f != f
      compls := h.compls.filter fun c => c.f != f
      caps := h.caps.filter fun c => c.f != f
      rds := h.rds.filter fun r => purposeFunc r.purpose != some f
      reqs := h.reqs.filter fun r => match r.2 with
        | .copy g _ _ _ _ => g != f
        | .read k _ => (mapGet ({} : HostRead) k h.reads).f != f
        | .write => true
      reads := h.reads.filter fun r => r.2.f != f
      powers := h.powers.filter fun w => !mine w
      fences := h.fences.filter fun w => !mine w
      msixTab := mapDrop (fun k => k / 8192 == f) h.msixTab
      pba := h.pba.filter fun k => k / 2048 != f
      cfg := mapDrop (fun k => k / 1024 == f && !(decide (65 ≤ k % 1024) && decide (k % 1024 ≤ 74))) h.cfg
      spdm := if f = 0 then 0 else h.spdm
      spdmLog := if f = 0 then [] else h.spdmLog }
  { s with
    host := h1
    epochs := s.epochs.map fun e => (e.1, { e.2 with waiters := e.2.waiters.filter fun w => !mine w })
    img := s.img.map fun L => match L.cmd with
      | some w => if mine w then { L with cmd := none } else L
      | none => L }

/-- A reset of function f (R401): that of the PF reaches every partition and every function. -/
def flrOp (s : State) (f : Nat) : State :=
  if f = 0 then
    forEach (List.range 17) flrFunc (forEach ((List.range 16).filter (defined s)) flrPart s)
  else flrFunc (if defined s (f - 1) then flrPart s (f - 1) else s) f

/-- FLR (R401). -/
def execFlr (f : Func) (s : State) : Host.Outcome State Fault Refusal := .next (flrOp s f.val)

/-- HOT_RESET (R397): a Hot Reset, a link-down event or a Secondary Bus Reset. -/
def execHotReset (s : State) : Host.Outcome State Fault Refusal := .next (flrOp s 0)

/-! ### Configuration requests (R398, R423) -/

/-- A configuration write: error status clears by ones, a BAR2 size that is not supported and an unsupported power state
are ignored, Initiate FLR resets the function. -/
def cfgWrite (s : State) (f d v : Nat) : State :=
  let m := cfgMask s f d
  let s1 :=
    if 71 ≤ d ∧ d ≤ 74 then s
    else if d = 70 then setCfg s f d (Nat.lor (cfgReg s f d % 32) (Nat.land v m))
    else if d = 65 ∨ d = 68 then setCfg s f d (Nat.land (cfgReg s f d) (2 ^ 32 - 1 - v % 2 ^ 32))
    else if d = 114 then (if f = 0 ∧ 10 ≤ bits v 13 8 ∧ bits v 13 8 ≤ 18 then setCfg s f d (bits v 13 8 * 2 ^ 8) else s)
    else if d = 17 then (if v % 4 = 0 ∨ v % 4 = 3 then setCfg s f d (v % 4) else s)
    else setCfg s f d (Nat.land v m)
  if d = 30 ∧ v.testBit 15 then flrOp s1 f
  else if d = 1 ∨ d = 20 ∨ d = 90 then forEach (List.range 17) flushMsix s1
  else s1

/-- CONFIG_REQUEST (R398, R423): answered with Request Retry Status (2) until the device is ready, with UR (1) where no
function is. A reset device answers nothing. -/
def execConfigRequest (f : Func) (wr : Bool) (reg : BitVec 10) (v : BitVec 32) (s : State) : Host.Outcome State Fault Refusal :=
  let f := f.val
  let d := reg.toNat
  .next (if s.perst || !s.powered then s
    else if !rgB s R.HI_STATUS R.HI_STATUS_READY then emit s (.cfgCpl f 2 0)
    else if !funcThere s f then emit s (.cfgCpl f 1 0)
    else if wr then cfgWrite (emit s (.cfgCpl f 0 0)) f d v.toNat
    else emit s (.cfgCpl f 0 (BitVec.ofNat 32 (cfgRead s f d))))

/-! ### The windows (R400, R401) -/

/-- What a byte offset of a BAR reaches: digits of the device, the MSI-X table or PBA from a byte on, nothing (0), or no
window at all. -/
inductive Win where
  | mesh (a : Nat)
  | table (o : Nat)
  | pba (o : Nat)
  | zero
  | ur
  deriving DecidableEq, Repr, Inhabited

/-- What offset o of the PF's BAR0 reaches, and the end of the window. -/
def pfBar0 (s : State) (o : Nat) : Win × Nat :=
  if o < 0x600000 then (.mesh (chipCtl + 2 * o), 0x600000)
  else if o < 0x608000 then (.table (o - 0x600000), 0x608000)
  else if o < 0x610000 then (.zero, 0x610000)
  else if o < 0x610100 then (.pba (o - 0x610000), 0x610100)
  else if o < 0x800000 then (.zero, 0x800000)
  else if o < 0x1000000 then (.mesh (rgF s R.HI_APBASE R.HI_APBASE_BASE * 2 ^ 24 + 2 * (o - 0x800000)), 0x1000000)
  else (.ur, o + 1)

/-- The same for the PF's BAR2: BASE must be a multiple of twice its size. -/
def pfBar2 (s : State) (o : Nat) : Win × Nat :=
  let n := 2 ^ bar2Log s
  let a := rgF s R.HI_B2CFG R.HI_B2CFG_BASE * 2 ^ 31
  if o < n ∧ a % (2 * n) = 0 then (.mesh (a + 2 * o), n) else (.ur, o + 1)

/-- The same for BAR0 of a VF, function f. -/
def vfBar0 (f o : Nat) : Win × Nat :=
  if o < 0x2000 then (.mesh (chipCtl + 0x800000 + 0x8000 * f + 2 * o), 0x2000)
  else if o < 0x40000 then (.zero, 0x40000)
  else if o < 0x40800 then (.table (o - 0x40000), 0x40800)
  else if o < 0x50000 then (.zero, 0x50000)
  else if o < 0x50010 then (.pba (o - 0x50000), 0x50010)
  else if o < 0x100000 then (.zero, 0x100000)
  else (.ur, o + 1)

/-- The same for BAR2 of a VF: DRAM in the regions of its partition. -/
def vfBar2 (s : State) (f o : Nat) : Win × Nat :=
  if o < 2 ^ 38 ∧ partOfRegion s (2 * o / 0x800000000) = some (f - 1) then
    (.mesh (2 * o), o - o % 0x400000000 + 0x400000000)
  else (.ur, o + 1)

/-- What offset o of a BAR of function f reaches, and the end of the window. -/
def window (s : State) (f : Nat) (bar : Bar) (o : Nat) : Win × Nat :=
  match bar with
  | .bar0 => if f = 0 then pfBar0 s o else vfBar0 f o
  | .bar2 => if f = 0 then pfBar2 s o else vfBar2 s f o

/-- A request of n bytes from offset o, cut at the ends of windows and, in the mesh, at every 1,024 digits: place within
the request, what it reaches, bytes (R402). -/
def spans (s : State) (f : Nat) (bar : Bar) : Nat → Nat → Nat → Nat → List (Nat × Win × Nat)
  | 0, _, _, _ => []
  | fuel + 1, i, o, n =>
    if n = 0 then [] else
    let (w, e) := window s f bar o
    let k := min n (e - o)
    let k := match w with | .mesh a => min k ((1024 - a % 1024) / 2) | _ => k
    (i, w, k) :: spans s f bar fuel (i + k) (o + k) (n - k)

/-- Function f takes memory requests: the device is ready, the function is there, in D0 and enabled, and a VF's partition
is defined (R398, R423). -/
def memReady (s : State) (f : Nat) : Bool :=
  rgB s R.HI_STATUS R.HI_STATUS_READY && funcThere s f && memEnable s f && decide (cfgReg s f 17 % 4 = 0)
    && (f == 0 || defined s (f - 1))

/-- Byte i of function f's MSI-X table, little-endian dwords. -/
def tableByte (s : State) (f i : Nat) : Byte :=
  BitVec.ofNat 8 ((msixDword s f (i / 16) (i / 4 % 4)).toNat / 256 ^ (i % 4))

/-- Byte i of function f's pending-bit array. -/
def pbaByte (s : State) (f i : Nat) : Byte :=
  BitVec.ofNat 8 ((List.range 8).foldl (fun a j => a + b2n (s.host.pba.contains (2048 * f + 8 * i + j)) * 2 ^ j) 0)

/-- The digits of a part of a host read that no mesh request serves. -/
def localPart (s : State) (f : Nat) (p : Nat × Win × Nat) : Option (Nat × List Digit) :=
  let bytes : Option (List Byte) := match p.2.1 with
    | .table o => some ((List.range p.2.2).map fun i => tableByte s f (o + i))
    | .pba o => some ((List.range p.2.2).map fun i => pbaByte s f (o + i))
    | .zero => some (List.replicate p.2.2 0)
    | _ => none
  bytes.map fun bs => (2 * p.1, (digitsOfBytes bs).map (BitVec.ofNat 4))

/-- The mesh requests of a host read: their place in bytes, digit address, bytes. -/
def meshParts (ps : List (Nat × Win × Nat)) : List (Nat × Nat × Nat) :=
  ps.filterMap fun p => match p.2.1 with | .mesh a => some (p.1, a, p.2.2) | _ => none

/-- A request that no window takes. -/
def noWindow (ps : List (Nat × Win × Nat)) : Bool := ps.any fun p => p.2.1 == .ur

/-- A memory read of n bytes by the host (R402). -/
def hostMemRead (s : State) (f : Nat) (bar : Bar) (o n : Nat) : State :=
  let ps := spans s f bar (n + 1) 0 o n
  if !memReady s f || noWindow ps then aerReport (emit s (.readCpl f 1 [])) f 1 false o
  else
    let g := s.mesh.nextId
    let ms := meshParts ps
    let r : HostRead := { f := f, len := 2 * n, left := ms.length, parts := ps.filterMap (localPart s f) }
    let s := readDone { s with mesh := { s.mesh with nextId := g + 1 } } g r
    ms.foldl (fun s m => hostReq s f false m.2.1 (2 * m.2.2) [] (.read g (2 * m.1))) s

/-- A part of a memory write by the host. -/
def writePart (s : State) (f : Nat) (data : List Byte) (p : Nat × Win × Nat) : State :=
  let bs := (data.drop p.1).take p.2.2
  match p.2.1 with
  | .mesh a => hostReq s f true a (2 * p.2.2) (digitsOfBytes bs) .write
  | .table o =>
    (bs.zip (List.range bs.length)).foldl (fun s e =>
      let i := o + e.2
      let d := (msixDword s f (i / 16) (i / 4 % 4)).toNat
      msixWrite s f (i / 16) (i / 4 % 4) (BitVec.ofNat 32 (putBits d (8 * (i % 4) + 7) (8 * (i % 4)) e.1.toNat))) s
  | _ => s

/-- A posted memory write by the host. -/
def hostMemWrite (s : State) (f : Nat) (bar : Bar) (o : Nat) (data : List Byte) : State :=
  let ps := spans s f bar (data.length + 1) 0 o data.length
  if !memReady s f || noWindow ps then aerReport s f 1 true o
  else ps.foldl (fun s p => writePart s f data p) s

/-- HOST_MEMORY_READ (R402). -/
def execHostMemoryRead (f : Func) (bar : Bar) (off : BitVec 48) (len : BitVec 13) (s : State) : Host.Outcome State Fault Refusal :=
  .next (if s.perst || !s.powered then s else hostMemRead s f.val bar off.toNat len.toNat)

/-- HOST_MEMORY_WRITE (R402). -/
def execHostMemoryWrite (f : Func) (bar : Bar) (off : BitVec 48) (data : List Byte) (s : State) : Host.Outcome State Fault Refusal :=
  .next (if s.perst || !s.powered then s else hostMemWrite s f.val bar off.toNat data)

/-- PCIE_LINK_TRAINED (R396): the highest rate and width common to both ends; FLIT mode always at 64 GT/s. -/
def execPcieLinkTrained (speed : BitVec 4) (width : BitVec 5) (flit : Bool) (s : State) : Host.Outcome State Fault Refusal :=
  let a := R.HI_STATUS
  .next (if s.perst || !s.powered || speed = 0 || decide (6 < speed.toNat) || !([1, 2, 4, 8, 16].contains width.toNat) then s else
    setB (setF (setF s a R.HI_STATUS_SPEED speed.toNat) a R.HI_STATUS_WIDTH width.toNat) a R.HI_STATUS_FLIT (flit || speed == 6))

/-! ### DOE and SPDM (R405, R495) -/

/-- A response object leaves the PF's mailbox. -/
def doeAnswer (s : State) (bs : List Byte) : State := emit s (.doe bs)

/-- The mailbox answers once the device is ready. -/
def doeReady (s : State) : Bool := rgB s R.HI_STATUS R.HI_STATUS_READY && !s.perst && s.powered

/-- DOE_DISCOVERY (R405): index 0 is Discovery and index 1 CMA/SPDM; vendor ID, type, next index. -/
def execDoeDiscovery (index : BitVec 8) (s : State) : Host.Outcome State Fault Refusal :=
  .next (if !doeReady s then s else
    doeAnswer s (match index.toNat with
      | 0 => [0x01, 0x00, 0x00, 0x01]
      | 1 => [0x01, 0x00, 0x01, 0x00]
      | _ => [0xFF, 0xFF, 0x00, 0x00]))

/-- An SPDM message: version 1.3, code, two parameters, the rest. -/
def spdmMsg (code p1 p2 : Nat) (rest : List Byte) : List Byte :=
  [0x13, BitVec.ofNat 8 code, BitVec.ofNat 8 p1, BitVec.ofNat 8 p2] ++ rest

/-- A request and its response, which both join the transcript. stage: what the exchange must have reached, and what it
reaches. A request out of order is answered with ERROR, UnexpectedRequest. -/
def spdmStep (s : State) (stage next : Nat) (req resp : List Byte) : State :=
  if !doeReady s then s
  else if s.host.spdm < stage then doeAnswer s (spdmMsg 0x7F 0x04 0 [])
  else
    let log := if stage = 0 then [] else s.host.spdmLog
    doeAnswer { s with host := { s.host with spdm := if next = 0 then s.host.spdm else next, spdmLog := log ++ req ++ resp } } resp

/-- The certificate chain in a slot (R494, R495): slot 1 is there when the CERT item is. -/
def chainOf (s : State) (slot : Nat) : List Byte :=
  Config.certChain slot (bootItem s 5 0) (Config.mldsaPublic (aliasSeed s))

/-- Bit k: slot k holds a chain. Slot 0 always does. -/
def slotMask (s : State) : Nat := if (chainOf s 1).isEmpty then 1 else 3

/-- n bytes of a number, least significant first. -/
def bytesLE (n v : Nat) : List Byte := (bytesOf n v).reverse

/-- GET_VERSION (R405): SPDM 1.3. -/
def execGetVersion (s : State) : Host.Outcome State Fault Refusal :=
  .next (spdmStep s 0 1 [0x10, 0x84, 0, 0] [0x10, 0x04, 0, 0, 0, 1, 0x00, 0x13])

/-- GET_CAPABILITIES (R405): certificates, challenge, signed measurements; timing and sizes are free values. -/
def execGetCapabilities (s : State) : Host.Outcome State Fault Refusal :=
  .next (spdmStep (takeFree s) 1 2 (spdmMsg 0xE1 0 0 [])
    (spdmMsg 0x61 0 0 ([0, BitVec.ofNat 8 (freeNat s), 0, 0] ++ bytesLE 4 0x16 ++ bytesLE 8 (freeNat s / 256))))

/-- NEGOTIATE_ALGORITHMS (R405): SHA3-384, no base asymmetric algorithm, ML-DSA-65 as the one extended algorithm, whose
number is a free value. -/
def execNegotiateAlgorithms (s : State) : Host.Outcome State Fault Refusal :=
  .next (spdmStep (takeFree s) 2 3 (spdmMsg 0xE3 0 0 [])
    (spdmMsg 0x63 0 0 (bytesLE 4 0 ++ bytesLE 4 0x10 ++ [1, 0] ++ bytesLE 4 (freeNat s))))

/-- GET_DIGESTS (R405): SHA3-384 of the chain in each slot that holds one. -/
def execGetDigests (s : State) : Host.Outcome State Fault Refusal :=
  let d (k : Nat) : List Byte := digestBytes (sha3_384 (chainOf s k))
  .next (spdmStep s 3 0 (spdmMsg 0x81 0 0 []) (spdmMsg 0x01 0 (slotMask s) (d 0 ++ if slotMask s = 3 then d 1 else [])))

/-- GET_CERTIFICATE (R495): a portion of a slot's chain, and how much remains. -/
def execGetCertificate (slot : BitVec 1) (off len : BitVec 16) (s : State) : Host.Outcome State Fault Refusal :=
  let k := slot.toNat
  let c := chainOf s k
  let part := (c.drop off.toNat).take len.toNat
  let req := spdmMsg 0x82 k 0 (bytesLE 2 off.toNat ++ bytesLE 2 len.toNat)
  .next (if (slotMask s).testBit k then
      spdmStep s 3 0 req
        (spdmMsg 0x02 k 0 (bytesLE 2 part.length ++ bytesLE 2 (c.length - off.toNat - part.length) ++ part))
    else spdmStep s 3 0 req (spdmMsg 0x7F 0x01 0 []))

/-- A response that the Alias key signs over the transcript. -/
def signed (s : State) (req body : List Byte) : List Byte := body ++ Config.mldsaSign (aliasSeed s) (s.host.spdmLog ++ req ++ body)

/-- CHALLENGE (R405): the digest of the slot's chain, a random nonce, the Alias key's signature. -/
def execChallenge (slot : BitVec 1) (nonce : BitVec 256) (s : State) : Host.Outcome State Fault Refusal :=
  let k := slot.toNat
  let req := spdmMsg 0x83 k 0 (bytesOf 32 nonce.toNat)
  let mine := bytesOf 32 ((Config.random s.free).toNat % 2 ^ 256)
  .next (if (slotMask s).testBit k then
      spdmStep (takeFree s) 3 0 req
        (signed s req (spdmMsg 0x03 k (2 ^ k) (digestBytes (sha3_384 (chainOf s k)) ++ mine)))
    else spdmStep s 3 0 req (spdmMsg 0x7F 0x01 0 []))

/-- Measurement k (R495). -/
def measurement (s : State) (k : Nat) : BitVec 384 :=
  let f := s.sec.fuses
  match k with
  | 1 => s.sec.bfwDigest
  | 2 => s.sec.patchDigest
  | 3 => Config.measure 3 [rgF s R.MCODE_VERSION R.MCODE_VERSION_ROMID, f.pkgen.toNat]
  | 4 => Config.measure 4 [f.slot0.toNat, f.slot1.toNat, f.slot2.toNat, f.vkrev.toNat, f.bfloor.toNat, f.pfloor.toNat]
  | 5 => BitVec.ofNat 384 ((List.range 6).foldl (fun a i => a * 2 ^ 64 + rg s (R.IMG_DIGEST i)) 0)
  | _ => match s.sb.cart with
    | some c => if rgF s R.SB_STATUS R.SB_STATUS_STATE = sbTrusted then
        Config.measure 6 [c.id.serial.toNat, (Config.cartLeaf Config.cartRootKey c.id.serial).toNat] else 0
    | none => 0

/-- GET_MEASUREMENTS (R495): index 0 asks for their number, 255 for all. -/
def execGetMeasurements (index : BitVec 8) (s : State) : Host.Outcome State Fault Refusal :=
  let i := index.toNat
  let req := spdmMsg 0xE0 0 i []
  let one (k : Nat) : List Byte := BitVec.ofNat 8 k :: digestBytes (measurement s k)
  .next (if i = 0 then spdmStep s 3 0 req (spdmMsg 0x60 6 0 [])
    else if i ≤ 6 then spdmStep s 3 0 req (signed s req (spdmMsg 0x60 0 0 (one i)))
    else if i = 255 then spdmStep s 3 0 req (signed s req (spdmMsg 0x60 0 0 ([1, 2, 3, 4, 5, 6].flatMap one)))
    else spdmStep s 3 0 req (spdmMsg 0x7F 0x01 0 []))

end Sys2Proof.Machine
end

