-- ==== Sys2Proof/Machine/HostCmd.lean ====
section
/-! DEFINITION. The host's commands: RUN, COPY, LOAD_IMAGE, LOAD_MICROCODE, CAPTURE, EPOCH, FENCE, QUERY, what ends them,
and the data that reads of host memory return (R409-R421, R530, R531). -/

namespace Sys2Proof.Machine

/-! ### The checks of every command (R409) -/

/-- The partition that a command names. -/
def cmdPid (c : BitVec 512) : Nat := cmdByte c 4

/-- The offset of the first field that breaks a rule. -/
def firstBad (l : List (Nat × Bool)) : Option Nat := (l.find? fun e => e.2).map fun e => e.1

/-- Whether bytes i to i + n - 1 of a command are not all 0. -/
def notZero (c : BitVec 512) (i n : Nat) : Bool := cmdVal c i n != 0

/-- The fields that every command of function f has, MODE and ARG8 with their own rules. -/
def commonBad (f : Nat) (c : BitVec 512) (mode arg : Bool) : List (Nat × Bool) :=
  [(1, decide (4 ≤ cmdByte c 1)), (4, f != 0 && cmdPid c != f - 1), (5, mode), (6, arg), (7, cmdByte c 7 != 0)]

/-- The test of a field that depends on the partition: it is made where the command names one that an image defines. -/
def partBad (s : State) (c : BitVec 512) (bad : Nat → Bool) : Bool := decide (cmdPid c < 16) && defined s (cmdPid c) && bad (cmdPid c)

/-- A command of opcode opc starts: one that its function may not issue completes with NOT_PERMITTED, one that breaks a
field rule with INVALID. -/
def cmdGo (s : State) (f q : Nat) (c : BitVec 512) (opc : Nat) (bad : List (Nat × Bool)) (go : Nat → State → State) : State :=
  let q := startQ s f q c
  match cmdStart s f q c opc with
  | none => s
  | some s =>
    if !opcMay f opc then complete s f q c 3 0 0
    else match firstBad bad with
      | some o => complete s f q c 1 o 0
      | none => go q s

/-- A command for a partition that no image defines completes with NOPART; otherwise it goes on with its number. -/
def withPart (s : State) (f q : Nat) (c : BitVec 512) (go : Nat → State) : State :=
  if 16 ≤ cmdPid c || !defined s (cmdPid c) then complete s f q c 4 0 0 else go (cmdPid c)

/-- RUN, CAPTURE and EPOCH at a member of a LOCKSTEP cascade partition (R439). -/
def leadOnly (s : State) (n : Nat) : Bool := cascadePart s n && lockstep s n && !leadsCascade s

/-- The blocks that BLKMASK names. -/
def maskBlocks (c : BitVec 512) : List Nat := (List.range 128).filter fun b => (cmdVal c 16 16).testBit b

/-! ### RUN (R412-R414, R475) -/

/-- The blocks whose sequencers a RUN starts, and whether its BLKMASK is wrong (R412). -/
def runBlocks (s : State) (n : Nat) (c : BitVec 512) : List Nat := if lockstep s n then [leadOf s n] else maskBlocks c
def runMaskBad (s : State) (c : BitVec 512) (n : Nat) : Bool :=
  !leadOnly s n && if lockstep s n then notZero c 16 16 else (maskBlocks c).any fun b => partOf s b != some n

/-- The sequencers of a RUN start, after the exit latency of those of its blocks that are below L1 (R475); what it asks of the
power states is asked again after a rollback (R378). -/
def runStart (s : State) (n f q : Nat) (c : BitVec 512) (bs : List Nat) : State :=
  let gs := if lockstep s n then blocksOf s n else bs
  let asleep := gs.filter fun b => decide (2 ≤ blockCur s b)
  let ms := cmdVal c 48 4
  let r : Run := { part := n, cmd := some (f, q, c), blocks := bs, waking := asleep
                   deadline := if ms = 0 || !asleep.isEmpty then none else some (now s + ms * 100000) }
  let s := { s with host := { s.host with runs := s.host.runs ++ [r] } }
  let s := updEpoch s n fun e => { e with com := e.com.map fun x => { x with runs := x.runs ++ [r] } }
  let s := (gs.filter fun b => blockCur s b != 0).foldl
    (fun s b => match holder s b with | some p => notePower s p 0 [p] | none => s) s
  let s := asleep.foldl (fun s b => match holder s b with | some p => wakeDom s p | none => s) s
  let s := gs.foldl endHush s
  if asleep.isEmpty then bs.foldl (fun s b => startSeq s b (cmdVal c 8 4) (cmdVal c 32 8) (cmdVal c 40 8)) s else s

/-- RUN whose own fields are right. -/
def runGo (f q : Nat) (c : BitVec 512) (s : State) : State :=
  withPart s f q c fun n =>
    let bs := runBlocks s n c
    if leadOnly s n then complete s f q c 3 0 0
    else match bs.find? fun b => (seqOf s b).inProg || captured s n with
      | some b => complete s f q c 5 b 0
      | none =>
        if bs.isEmpty then
          let s := completeHeld s n f q c 0 0 0
          if (cmdByte c 1).testBit 1 then askBoundary s n else s
        else runStart s n f q c bs

/-- RUN (R412). -/
def execRun (f : Func) (q : BitVec 6) (c : BitVec 512) (s : State) : Host.Outcome State Fault Refusal :=
  let bad := commonBad f.val c (cmdByte c 5 != 0) (cmdByte c 6 != 0)
    ++ [(8, !pcOk (cmdVal c 8 4)), (12, notZero c 12 4), (16, partBad s c (runMaskBad s c)), (52, notZero c 52 12)]
  .next (cmdGo s f.val q.toNat c 1 bad (fun q => runGo f.val q c))

/-- A run's time is over: the sequencers that have not exited are halted through Girth and leave their programs. -/
def timeOut (s : State) (n : Nat) (r : Run) : State :=
  let bs := r.blocks.filter fun b => !(r.exits.any fun e => e.1 == b)
  let gs := if lockstep s n then blocksOf s n else bs
  let s := gs.foldl (fun s b => leaveProgram (updSeq (dropOp (haltSeq s b 4) b) b leftSeq) b) s
  let s := { s with host := { s.host with runs := s.host.runs.erase r } }
  match r.cmd with
  | some (f, q, c) => completeHeld s n f q c 8 0 0
  | none => s

/-- RUN_TIMEOUT (R414): the runs of partition n whose TIMEOUT has passed end. -/
def execRunTimeout (n : Part) (s : State) : Host.Outcome State Fault Refusal :=
  let n := n.toNat
  let late := s.host.runs.filter fun r => r.part == n && match r.deadline with | some t => decide (t ≤ now s) | none => false
  .next (late.foldl (fun s r => timeOut s n r) s)

/-! ### COPY (R415) -/

/-- The digits that a VF may name: DRAM of its partition's regions, windows of its blocks. a: first digit, e: last. -/
def vfMay (s : State) (n a e : Nat) : Bool :=
  (decide (e < 0x8000000000)
      && ((List.range 16).all fun g => !(decide (a / 0x800000000 ≤ g) && decide (g ≤ e / 0x800000000)) || partOfRegion s g == some n))
    || (decide (0x010000000000 ≤ a) && decide (e < 0x010080000000)
      && ((List.range 128).all fun b =>
        !(decide ((a - 0x010000000000) / 0x1000000 ≤ b) && decide (b ≤ (e - 0x010000000000) / 0x1000000)) || partOf s b == some n))

/-- COPY whose own fields are right. -/
def copyGo (f q : Nat) (c : BitVec 512) (s : State) : State :=
  if f = 0 then copyNext s f q c 0 else withPart s f q c fun _ => copyNext s f q c 0

/-- COPY (R415). -/
def execCopy (f : Func) (q : BitVec 6) (c : BitVec 512) (s : State) : Host.Outcome State Fault Refusal :=
  let bad := commonBad f.val c (decide (2 ≤ cmdByte c 5)) (cmdByte c 6 != 0)
    ++ [(16, copyDev c % 2 != 0 || decide (2 ^ 48 ≤ copyDev c)
          || (f.val != 0 && partBad s c fun n => !vfMay s n (copyDev c) (copyDev c + 2 * copyLen c - 1))), (24, copyLen c == 0), (28, notZero c 28 4), (32, notZero c 32 32)]
  .next (cmdGo s f.val q.toNat c 2 bad (fun q => copyGo f.val q c))

/-! ### LOAD_IMAGE and LOAD_MICROCODE (R416, R417) -/

/-- The staging area (R416). -/
def staging : Nat := 0x740000000

/-- LOAD_IMAGE meets a busy engine: DETAIL is IMG_ENGINE_BUSY; RESULT is a free value. -/
def imageBusy (s : State) (f q : Nat) (c : BitVec 512) : State := complete (takeFree s) f q c 0x0C 1 (freeNat s)

/-- The image engine starts on a command's source. -/
def imageGo (s : State) (f q : Nat) (c : BitVec 512) (src : Nat) : State :=
  if rgB s R.IMG_STATUS R.IMG_STATUS_BUSY then imageBusy s f q c else
  let s := setRg (setRg s R.IMG_SRC src) R.IMG_LEN (cmdVal c 16 4)
  let s := setB s R.IMG_CTRL R.IMG_CTRL_FORCE ((cmdByte c 5).testBit 1)
  imgStart (setB s R.IMG_CTRL R.IMG_CTRL_UNCHECKED ((cmdByte c 5).testBit 2)) (some (f, q, c))

/-- LOAD_IMAGE whose own fields are right. -/
def loadImageGo (f q : Nat) (c : BitVec 512) (s : State) : State :=
  if !(cmdByte c 5).testBit 0 then imageGo s f q c (cmdVal c 8 8)
  else if rgB s R.IMG_STATUS R.IMG_STATUS_BUSY then imageBusy s f q c
  else if !busMaster s f then complete s f q c 6 0 0
  else if cmdVal c 16 4 = 0 then imageGo s f q c staging
  else hostRead s f (.image f q c) (cmdVal c 8 8) (cmdVal c 16 4)

/-- LOAD_IMAGE (R416). -/
def execLoadImage (f : Func) (q : BitVec 6) (c : BitVec 512) (s : State) : Host.Outcome State Fault Refusal :=
  let host := (cmdByte c 5).testBit 0
  let bad := commonBad f.val c (decide (8 ≤ cmdByte c 5)) (cmdByte c 6 != 0)
    ++ [(8, !host && (cmdVal c 8 8 % 2 != 0 || decide (2 ^ 48 ≤ cmdVal c 8 8))), (16, host && decide (2 ^ 24 < cmdVal c 16 4)),
        (20, notZero c 20 12), (32, notZero c 32 32)]
  .next (cmdGo s f.val q.toNat c 3 bad (fun q => loadImageGo f.val q c))

/-- No host bundle is accepted any more: a bundle is applied, or an image load has started (R305). -/
def mcodeClosed (s : State) : Bool := rgF s R.MCODE_VERSION R.MCODE_VERSION_SRC != 0 || s.host.imgStarted

/-- LOAD_MICROCODE whose own fields are right. -/
def loadMicrocodeGo (f q : Nat) (c : BitVec 512) (s : State) : State :=
  if mcodeClosed s then complete s f q c 0x0E 0 0
  else if !busMaster s f then complete s f q c 6 0 0
  else hostRead s f (.microcode f q c) (cmdVal c 8 8) (cmdVal c 16 4)

/-- LOAD_MICROCODE (R417). -/
def execLoadMicrocode (f : Func) (q : BitVec 6) (c : BitVec 512) (s : State) : Host.Outcome State Fault Refusal :=
  let n := cmdVal c 16 4
  let bad := commonBad f.val c (cmdByte c 5 != 0) (cmdByte c 6 != 0)
    ++ [(16, decide (n < 3421) || (n - 3421) % 32 != 0), (20, notZero c 20 12), (32, notZero c 32 32)]
  .next (cmdGo s f.val q.toNat c 4 bad (fun q => loadMicrocodeGo f.val q c))

/-- A host bundle has arrived: its length must be the one its header gives; it is examined and applied, or HOSTFAIL sets
(R305, R417). -/
def bundleArrived (s : State) (f q : Nat) (c : BitVec 512) (bs : List Byte) : State :=
  if bs.length ≠ 64 + 32 * cutVal bs 16 2 + 3357 then complete s f q c 1 16 0
  else if mcodeClosed s then complete s f q c 0x0E 0 0
  else match bundleCheck s bs true with
    | some p =>
      let s := bundleApply s p 2
      complete s f q c 0 0 (readReg s R.MCODE_VERSION)
    | none => complete (setB s R.MCODE_VERSION R.MCODE_VERSION_HOSTFAIL true) f q c 0x0D 0 0

/-! ### CAPTURE (R418, R530, R531) -/

/-- Bytes of a capture of partition n. -/
def captureLen (s : State) (n : Nat) : Nat := 4096 + (blocksOf s n).length * 4227072

/-- The capture edge: the partition stops, with CAUSE CAPTURE where a halt does not keep its own, and readout begins. -/
def captureEdge (s : State) (k : Capture) : State :=
  let n := k.part
  let s := girthStop s n 6
  { s with
    dbg := { s.dbg with capStop := s.dbg.capStop ||| BitVec.twoPow 16 n }
    host := { s.host with caps := s.host.caps.map fun x => if x = k then { k with edge := some s.timebase } else x } }

/-- The buffer is too short: a length of 0 is right only where a capture holds the partition stopped (R418). -/
def captureBad (s : State) (c : BitVec 512) (n : Nat) : Bool :=
  !leadOnly s n && if cmdVal c 16 4 = 0 then !captured s n else decide (cmdVal c 16 4 < captureLen s n)

/-- CAPTURE whose own fields are right. -/
def captureGo (f q : Nat) (c : BitVec 512) (s : State) : State :=
  withPart s f q c fun n =>
    if leadOnly s n then complete s f q c 3 0 0
    else if cmdVal c 16 4 = 0 then complete (takeFree (freePart s n)) f q c 0 0 (freeNat s)
    else
      let k : Capture := { part := n, f := f, q := q, body := c }
      let s := { s with host := { s.host with caps := s.host.caps ++ [k] } }
      if cmdByte c 5 = 0 then captureEdge s k else s

/-- CAPTURE (R418). -/
def execCapture (f : Func) (q : BitVec 6) (c : BitVec 512) (s : State) : Host.Outcome State Fault Refusal :=
  let m := cmdByte c 5
  let a := cmdByte c 6
  let bad := commonBad f.val c (decide (3 ≤ m)) (a / 8 % 16 != 0 || (m != 2 && a % 8 != 0))
    ++ [(16, partBad s c (captureBad s c)), (20, notZero c 20 4), (24, m != 1 && notZero c 24 8), (32, notZero c 32 32)]
  .next (cmdGo s f.val q.toNat c 5 bad (fun q => captureGo f.val q c))

/-- The moment of a capture's MODE has come: at once, at a TIMEBASE, or once the named Girth channel has fired. -/
def edgeDue (s : State) (k : Capture) : Bool :=
  match cmdByte k.body 5 with
  | 0 => true
  | 1 => decide (cmdVal k.body 24 8 ≤ now s)
  | _ => (rgF s R.GIRTH_STAT R.GIRTH_STAT_FIRED).testBit (cmdByte k.body 6 % 8)

/-- CAPTURE_EDGE (R530). -/
def execCaptureEdge (n : Part) (s : State) : Host.Outcome State Fault Refusal :=
  .next (match s.host.caps.find? fun k => k.part == n.toNat && k.edge.isNone && edgeDue s k with
    | some k => captureEdge s k
    | none => s)

/-- A plane's 2,048 bytes in the PLANE layout: bit 7 - (c mod 8) of byte 16 r + c / 8 is cell (r, c) (R153). -/
def planeBytes (s : State) (b : Nat) (bit : Cell → Bool) : List Byte :=
  (List.range 2048).map fun k => BitVec.ofNat 8 ((List.range 8).foldl (fun a i => a * 2 + b2n (bit (cellAt s b (8 * k + i)))) 0)

/-- Control register n of block b as R274 numbers it. -/
def ctlWord (s : State) (b n : Nat) : Nat :=
  if n ≤ 0x09 ∨ (0x10 ≤ n ∧ n ≤ 0x1C) then readReg s (0x700000 + bwin b + 16 * n)
  else if 0x20 ≤ n ∧ n ≤ 0x23 then readReg s (0x720000 + bwin b + 16 * (n - 0x20))
  else if n = 0x30 then now s
  else if n = 0x3F then readReg s (R.DBG_PC b)
  else 0

/-- Block b's state record of 32 KiB (R531). -/
def stateRecord (s : State) (b : Nat) : List Byte :=
  let w (v : Nat) : List Byte := bytesOf 8 v
  let q := seqOf s b
  let regs := (List.range 192).map (fun i => rg s (R.WREG b i)) ++ (List.range 16).map (fun i => rg s (R.GREG b i))
    ++ (List.range 8).map (fun i => rg s (R.AREG b i)) ++ (List.range 8).map (fun i => rg s (R.MREG b i))
  planeBytes s b Cell.x ++ planeBytes s b Cell.y ++ planeBytes s b Cell.c ++ planeBytes s b Cell.a ++ planeBytes s b Cell.t
    ++ regs.flatMap w
    ++ (List.range 64).flatMap (fun n => w (ctlWord s b n))
    ++ (List.range 32).flatMap (fun i => w (resumeWord s b i))
    ++ [q.slot0, q.slot1, q.slot2, q.slot3].flatMap (fun x => w x.word.toNat)
    ++ bytesOf 16 q.rbr.toNat ++ bytesOf 16 q.cbr.toNat
    ++ [R.BIC_PEND b, R.BIC_MASK b, R.BIC_ACT b, R.DMA_RING b 0, R.DMA_RING b 1, R.DMA_CTRL b 0, R.DMA_CTRL b 1, R.WD_CNT b].flatMap
      (fun a => w (readReg s a))
    ++ List.replicate 19840 0

/-- The capture buffer of partition n (R531). -/
def captureBytes (s : State) (n edge : Nat) : List Byte :=
  let bs := blocksOf s n
  let head := ascii "HTCP" ++ [BitVec.ofNat 8 n, if lockstep s n then 0 else 1] ++ bytesOf 2 bs.length ++ bytesOf 8 edge
    ++ bytesOf 4 (rgF s (R.EP_STAT n) R.EP_STAT_EPOCH) ++ (List.range 6).flatMap (fun i => bytesOf 8 (rg s (R.IMG_DIGEST i)))
    ++ bs.flatMap (bytesOf 2)
  head ++ List.replicate (4096 - head.length) 0
    ++ bs.flatMap fun b => (List.range 2048).flatMap (fun p => planeBytes s b fun c => c.plane p) ++ stateRecord s b

/-- CAPTURE_READOUT_DONE (R530): the whole buffer is written, and under RESUME the partition goes on. -/
def execCaptureReadoutDone (n : Part) (s : State) : Host.Outcome State Fault Refusal :=
  let n := n.toNat
  .next (match s.host.caps.find? fun k => k.part == n && k.edge.isSome with
    | none => s
    | some k =>
      let t := (k.edge.getD 0).toNat
      let s := { s with host := { s.host with caps := s.host.caps.erase k } }
      let r := requesterOf s k.f
      let s := if busMaster s r then
          complete (emit s (.hostWrite r (cmdVal k.body 8 8) (captureBytes s n t))) k.f k.q k.body 0 0 t
        else complete s k.f k.q k.body 6 0 0
      if (cmdByte k.body 6).testBit 7 then freePart s n else s)

/-! ### EPOCH, FENCE, QUERY (R419-R421) -/

/-- EPOCH whose own fields are right. -/
def epochGo (f q : Nat) (c : BitVec 512) (s : State) : State :=
  withPart s f q c fun n =>
    if leadOnly s n then complete s f q c 3 0 0
    else if epState s n = 6 then complete s f q c 0x0B 0 (rgF s (R.EP_STAT n) R.EP_STAT_EPOCH * 2 ^ 32)
    else
      let s := updEpoch s n fun e => { e with waiters := e.waiters ++ [(f, q, c)] }
      if cmdByte c 5 = 0 then askBoundary s n else s

/-- EPOCH (R419). -/
def execEpoch (f : Func) (q : BitVec 6) (c : BitVec 512) (s : State) : Host.Outcome State Fault Refusal :=
  let bad := commonBad f.val c (decide (2 ≤ cmdByte c 5)) (cmdByte c 6 != 0) ++ [(8, notZero c 8 8), (16, notZero c 16 16), (32, notZero c 32 32)]
  .next (cmdGo s f.val q.toNat c 6 bad (fun q => epochGo f.val q c))

/-- FENCE in mode POWER: every named block's domain is requested to the state; a request refused ends the command. -/
def fencePower (s : State) (f q : Nat) (c : BitVec 512) : State :=
  let v := cmdByte c 6
  let bs := maskBlocks c
  let named := bs.filterMap (holder s)
  let bad := bs.find? fun b => match holder s b with | some p => powerRefusal s p v named != 0 | none => false
  let s := named.foldl (fun s p => powerOp s p v named) s
  match bad with
  | some b => complete s f q c 0x0F b 0
  | none => endPowerFences { s with host := { s.host with powers := s.host.powers ++ [(f, q, c)] } } none

/-- FENCE whose own fields are right. -/
def fenceGo (f q : Nat) (c : BitVec 512) (s : State) : State :=
  withPart s f q c fun _ =>
    if cmdByte c 5 = 0 then endOrderFences { s with host := { s.host with fences := s.host.fences ++ [(f, q, c)] } }
    else fencePower s f q c

/-- FENCE_COMMAND (R420). -/
def execFenceCommand (f : Func) (q : BitVec 6) (c : BitVec 512) (s : State) : Host.Outcome State Fault Refusal :=
  let m := cmdByte c 5
  let bad := commonBad f.val c (decide (2 ≤ m)) (if m = 0 then cmdByte c 6 != 0 else decide (6 ≤ cmdByte c 6))
    ++ [(8, notZero c 8 8), (16, if m = 0 then notZero c 16 16 else partBad s c fun n => (maskBlocks c).any fun b => partOf s b != some n),
        (32, notZero c 32 32)]
  .next (cmdGo s f.val q.toNat c 7 bad (fun q => fenceGo f.val q c))

/-- The registers that a QUERY writes. -/
def queryRegs (s : State) (c : BitVec 512) : List Nat :=
  let n := cmdPid c
  if cmdByte c 5 = 0 then [R.CHIP_ID, R.STEPPING, R.MCODE_VERSION, R.IMG_STATUS, R.IMG_REGMAP, R.HI_STATUS, R.CN_COUNT]
  else [R.IMG_PVER n, R.EP_STAT n, R.EP_TLAST n, R.EP_CTRL n] ++ (regionsOf s n).flatMap fun g => [R.ORN_GEOM g, R.BSW_MAP g]

/-- The buffer is written, with zeros behind the last word; RESULT is the number of words. DESIGN CHOICE (log 93): the RC fields
of the registers it takes (CN_COUNT, EP_STAT, ORN_GEOM) keep their values; the spec does not say whether a QUERY clears them. -/
def queryWrite (f q : Nat) (c : BitVec 512) (s : State) : State :=
  let r := requesterOf s f
  let ws := (queryRegs s c).map (readReg s)
  if !busMaster s r then complete s f q c 6 0 0
  else
    complete (emit s (.hostWrite r (cmdVal c 8 8) (ws.flatMap (bytesOf 8) ++ List.replicate (4096 - 8 * ws.length) 0))) f q c 0 0 ws.length

/-- QUERY whose own fields are right. -/
def queryGo (f q : Nat) (c : BitVec 512) (s : State) : State :=
  if f = 0 ∧ cmdByte c 5 = 0 then queryWrite f q c s else withPart s f q c fun _ => queryWrite f q c s

/-- QUERY (R421). -/
def execQuery (f : Func) (q : BitVec 6) (c : BitVec 512) (s : State) : Host.Outcome State Fault Refusal :=
  let bad := commonBad f.val c (decide (2 ≤ cmdByte c 5)) (cmdByte c 6 != 0) ++ [(16, notZero c 16 16), (32, notZero c 32 32)]
  .next (cmdGo s f.val q.toNat c 8 bad (fun q => queryGo f.val q c))

/-! ### Data from host memory (R399, R415) -/

/-- The data of a channel's row from host memory, or its failure with HOSTERR. -/
def dmaHostResp (s : State) (b : Nat) (ch : Bool) (r : HostRd) (data : Option (List Byte)) : State :=
  match data with
  | some bs => dmaResp s b ch r.id 0 r.addr (digitsOfBytes bs)
  | none =>
    match dmaRun s b ch with
    | some d =>
      if d.out.any fun e => e.1 == r.id then
        let d1 := { d with out := d.out.filter fun e => e.1 != r.id }
        setDma s b ch (some (d1.failAt r.id 6 r.addr))
      else s
    | none => s

/-- What becomes of the data that a read of host memory returns; none: the read failed. -/
def hostData (s : State) (r : HostRd) (data : Option (List Byte)) : State :=
  match r.purpose with
  | .sqFetch f q => (match data with | some bs => takeCommand s f q (BitVec.ofNat 512 (bytesVal bs)) | none => s)
  | .copy f q c off => (match data with
    | some bs => copyData s f q c off bs
    | none => complete s f q c 6 0 (copyDev c + 2 * off))
  | .image f q c => (match data with
    | some bs => if rgB s R.IMG_STATUS R.IMG_STATUS_BUSY then imageBusy s f q c
        else imageGo (writeDigits s staging (digitsOfBytes bs)) f q c staging
    | none => complete s f q c 6 0 0)
  | .microcode f q c => (match data with | some bs => bundleArrived s f q c bs | none => complete s f q c 6 0 0)
  | .dma b ch _ => dmaHostResp s b ch r data

/-- HOST_READ_COMPLETION (R396, R415): the data of read number id's request, or none when it failed. Data of another length than
was asked for counts as a failure; a read whose bytes are not all there asks for the next ones. -/
def execHostReadCompletion (id : Nat) (data : Option (List Byte)) (s : State) : Host.Outcome State Fault Refusal :=
  .next (match s.host.rds.find? fun r => r.id == id && r.ask != 0 with
    | none => s
    | some r =>
      let ok := match data with | some bs => if bs.length = r.ask then some (r.got ++ bs) else none | none => none
      match ok with
      | some bs =>
        if bs.length < r.len then sendRead s { r with got := bs, ask := 0 }
        else hostData (nextRead { s with host := { s.host with rds := s.host.rds.filter fun x => x.id != id } } r.f) r (some bs)
      | none => hostData (nextRead { s with host := { s.host with rds := s.host.rds.filter fun x => x.id != id } } r.f) r none)

end Sys2Proof.Machine
end

