-- ==== Sys2Proof/Machine/Boot.lean ====
section
/-! DEFINITION. Power, resets and the boot sequence (R310, R327, R390, R397, R425, R461-R463, R476, R485-R490, R500, R548).
-/

namespace Sys2Proof.Machine

/-! ### Resets (R327, R397, R463, R548) -/

/-- What keeps its contents through every reset but power-on: the Wellhead's registers, and GPIO_IN, which shows pins. -/
def keptReg (a : Nat) : Bool := (decide (R.WH_SLOT 0 ≤ a) && decide (a < R.WH_SLOT 0 + 0x1000)) || a == R.GPIO_IN

/-- A mailbox command in progress is cut short (R479, R483); a read has nothing to cut. -/
def cutMailbox (s : State) : State :=
  match s.sec.mbx with
  | some m => if m.status = 0 ∧ m.cmd ≠ 7 then mbxCut { s with sec := { s.sec with mbx := none } } m.cmd.toNat m.args else s
  | none => s

/-- The cells of held regions: A, X, Y, C and T are 0 (R75, R85), the planes are kept. -/
def heldCells (l : List (Nat × Cell)) : List (Nat × Cell) :=
  (l.map fun e => (e.1, { planes := e.2.planes : Cell })).filter fun e => decide (e.2 ≠ {})

/-- The controllers whose DRAM has to be zeroed when the device starts again: those that had not finished, and those in L5,
which they leave (R310). -/
def freshDram (s : State) : BitVec 8 :=
  (List.range 8).foldl (fun v k => if domCur s (160 + k) = 5 then v ||| BitVec.twoPow 8 k else v) s.dram.fresh

/-- The inhibits of R478 show the supplies and PWR_WARN#: they lift by those alone. -/
def keepInhibits (s t : State) : State := setRg t R.PC_EVENT (Nat.land (rg s R.PC_EVENT) 0xF0000000)

/-- PERST#, or an event that acts as it does: every partition is lost, and its record joins the journal queue (R390,
R391); then the whole device is reset. Memories, key bytes, fuses, flash, cartridge and the journal queue are kept (log
entry 60); the control stores are filled anew, the customer store with 0 (R276). -/
def resetDevice (s : State) : State :=
  let s := cutMailbox (forEach ((List.range 16).filter (defined s)) (fun s n => concealmentLost s n 0x0A 0 0) s)
  let t : State :=
    { pending := s.pending
      regs := mapOnly keptReg s.regs
      irq := { wh := s.irq.wh }
      mem := s.mem
      cells := heldCells s.cells
      flaws := s.flaws
      keys := s.keys
      dram := { fresh := freshDram s }
      sec := { fuses := s.sec.fuses, flash := s.sec.flash }
      sb := { cart := s.sb.cart, shelf := s.sb.shelf, queue := s.sb.queue }
      rein := { leads := s.rein.leads, posX := s.rein.posX, posY := s.rein.posY }
      powered := s.powered
      perst := true
      perstLow := s.perstLow
      testEn := s.testEn
      refLost := s.refLost
      refPerst := s.refPerst
      thermLatch := s.thermLatch
      nclk := s.nclk
      out := s.out
      free := s.free }
  setF (keepInhibits s t) R.SB_JRNL R.SB_JRNL_QDEPTH s.sb.queue.length

/-- The device without supplies, or right after they came: what does not need them is kept. -/
def coldDevice (s : State) (on : Bool) : State :=
  { pending := s.pending
    sec := { fuses := s.sec.fuses, flash := s.sec.flash }
    sb := { cart := s.sb.cart, shelf := s.sb.shelf }
    powered := on
    perst := true
    perstLow := true
    refLost := s.refLost
    refPerst := s.refPerst
    out := s.out
    free := s.free }

/-- POWER_ON (R327): memories are cleared, the key bytes and every register are reset; PERST# is asserted (R476). -/
def execPowerOn (s : State) : Host.Outcome State Fault Refusal := .next (coldDevice s true)

/-- POWER_DOWN (R476): the supplies go, VDD_AON among them. -/
def execPowerDown (s : State) : Host.Outcome State Fault Refusal :=
  .next (if s.powered then coldDevice (cutMailbox s) false else s)

/-- PERST_ASSERT (R397). -/
def execPerstAssert (s : State) : Host.Outcome State Fault Refusal :=
  let s1 : State := { s with perstLow := true }
  .next (if s.powered && !s.perst then resetDevice s1 else s1)

/-- REFCLK_LOSS (R463). -/
def execRefclkLoss (s : State) : Host.Outcome State Fault Refusal :=
  let s1 : State := { s with refLost := true, refPerst := true }
  .next (if s.powered && !s.perst then resetDevice s1 else s1)

/-- THERMTRIP (R548): latched until VDD_AON is removed. -/
def execThermtrip (s : State) : Host.Outcome State Fault Refusal :=
  .next (if !s.powered || s.thermLatch || decide (rgF s R.TH_STATUS R.TH_STATUS_TMAX < 120) then s else
    let s1 : State := { s with thermLatch := true }
    emit (if s.perst then s1 else resetDevice s1) (.thermtrip true))

/-- The device leaves its reset state: TIMEBASE starts at 0, the straps show, and the ROM phase begins; DRAM that must be
zeroed first is (R310, R462, R487). -/
def startBoot (s : State) : State :=
  let s : State :=
    { s with perst := false, tbRun := true, timebase := 0
             dram := { s.dram with zeroing := s.dram.fresh } }
  let a := R.REIN_ID
  let s := setF (setF (setB s a R.REIN_ID_LEADS s.rein.leads) a R.REIN_ID_POSX s.rein.posX.toNat) a R.REIN_ID_POSY s.rein.posY.toNat
  setF s R.BOOT_STATUS R.BOOT_STATUS_PHASE 1

/-- PERST_RELEASE (R425, R487): straps bit 4 is 1 when LEAD# is low, bits 3 and 2 are POS_X, bits 1 and 0 POS_Y. -/
def execPerstRelease (straps : BitVec 5) (testEn : Bool) (s : State) : Host.Outcome State Fault Refusal :=
  .next (if !s.powered || !s.perstLow then s else
    let s1 : State :=
      { s with perstLow := false, testEn := testEn, refPerst := false
               rein := { s.rein with leads := straps.getLsbD 4, posX := straps.extractLsb' 2 2, posY := straps.extractLsb' 0 2 } }
    if s.refLost || s.thermLatch || !s.perst then s1 else startBoot s1)

/-- REFCLK_RESTART (R463): REFCLK has been present for 1 ms; the device starts again when PERST# has been released since the
loss. -/
def execRefclkRestart (s : State) : Host.Outcome State Fault Refusal :=
  .next (if !s.refLost then s else
    let s1 : State := { s with refLost := false }
    if s.powered && s.perst && !s.perstLow && !s.refPerst && !s.thermLatch then startBoot s1 else s1)

/-! ### The phases (R305, R423, R485-R490) -/

/-- BOOT_STATUS.PHASE. -/
def bootPhase (s : State) : Nat := rgF s R.BOOT_STATUS R.BOOT_STATUS_PHASE

/-- That phase set. -/
def setBoot (s : State) (v : Nat) : State := setF s R.BOOT_STATUS R.BOOT_STATUS_PHASE v

/-- The mask ROM's recovery firmware goes on with phase 4 (R488). -/
def recovery (s : State) (code : Nat) : State :=
  let s := setF (setF s R.BOOT_STATUS R.BOOT_STATUS_FAILCODE code) R.BOOT_STATUS R.BOOT_STATUS_BFWVER 0
  setBoot { s with sec := { s.sec with bfwDigest := Config.recoveryDigest, bfwKey := none } } 4

/-- BOOT_ROM_DONE (R487): fuses read, PLL locked; without a flash the recovery firmware runs. The device does not leave
this phase while TEST_EN is high (R536). -/
def execBootRomDone (flash : Bool) (s : State) : Host.Outcome State Fault Refusal :=
  .next (if s.perst || !s.powered || s.testEn || bootPhase s != 1 then s else
    let s := freshNonce (showFuses (setB s R.PC_CLK R.PC_CLK_LOCK true))
    if flash then setBoot s 2 else recovery s 3)

/-- A boot-firmware item that is accepted: its version, digest and vendor key (R482, R485, R486). -/
def firmware (s : State) (item : List Byte) : Option (Nat × BitVec 384 × Nat) :=
  let n := item.length - (48 + sigLen)
  let dig := cutBytes item n 48
  let v := cutVal item 4 4
  if item.length < 8 + 48 + sigLen ∨ 2 ^ 20 < n - 8 then none
  else if cutBytes item 0 4 ≠ ascii "HTBW" ∨ digestBytes (sha3_384 (cutBytes item 0 n)) ≠ dig then none
  else if v / 2 ^ 24 < s.sec.fuses.bfloor.toNat then none
  else (vendorSigner s (ascii "HTBOOT") dig (cutBytes item (n + 48) sigLen)).map fun k => (v, BitVec.ofNat 384 (bytesVal dig), k)

/-- The verdict on a boot-firmware copy (R486, R488): phase 4, copy B, or the recovery firmware. -/
def bootVerdict (s : State) (item : List Byte) : State :=
  match firmware s item with
  | some (v, d, k) =>
    let s := setB (setF s R.BOOT_STATUS R.BOOT_STATUS_BFWVER v) R.BOOT_STATUS R.BOOT_STATUS_COPYB s.sec.copyB
    setBoot { s with sec := { s.sec with bfwDigest := d, bfwKey := some (BitVec.ofNat 2 k) } } 4
  | none =>
    if s.sec.copyB then recovery s 2
    else setBoot (setF { s with sec := { s.sec with copyB := true } } R.BOOT_STATUS R.BOOT_STATUS_FAILCODE 1) 2

/-- BOOT_FETCH_DONE (R486-R488): the copy that the flash holds has been fetched, and phase 3 begins; the command ends that phase
too, with the verdict on the copy. An item that the flash does not hold is not what the fetch delivers (log entry 57). -/
def execBootFetchDone (item : List Byte) (s : State) : Host.Outcome State Fault Refusal :=
  .next (if s.perst || !s.powered || item != bootItem s 1 (b2n s.sec.copyB) then s
    else if bootPhase s = 2 then setBoot s 3
    else if bootPhase s = 3 then bootVerdict s item else s)

/-- BOOT_MCODE (R276, R305): the control stores are filled, the customer store with 0; a patch bundle of the flash (none:
empty) is applied unless the recovery firmware runs or the bundle is rejected. -/
def execBootMcode (bundle : List Byte) (s : State) : Host.Outcome State Fault Refusal :=
  .next (if s.perst || !s.powered || bootPhase s != 4 || bundle != bootItem s 2 0 then s else
    let s : State := { s with cs := [], dt := [], csSh := [], dtSh := [], dtBad := [] }
    let s := if s.sec.bfwKey.isNone || bundle.isEmpty then s
      else match bundleCheck s bundle false with
        | some p => bundleApply s p 1
        | none => setB s R.MCODE_VERSION R.MCODE_VERSION_FLASHFAIL true
    setBoot s 5)

/-! ### The spare map (R394, R500) -/

/-- A block record: the holder is dead, and a free local spare takes its position, with that spare's columns. -/
def replayDead (s : State) (p : Nat) : State :=
  let h := p / 9
  let b := blockOfPhys s p
  let s := setF (markDead s p) (R.BSW_MAP h) ⟨48 + p % 9, 48 + p % 9⟩ 1
  let s := if p % 9 = 8 then setF s (R.BSW_MAP h) R.BSW_MAP_SPARE_ST 3 else s
  match b with
  | some b =>
    let g := b / 8
    if rgF s (R.BSW_MAP g) R.BSW_MAP_SPARE_ST = 0 then
      moveHolder (setF (setF s (R.BSW_MAP g) (posFld (b % 8)) 8) (R.BSW_MAP g) R.BSW_MAP_SPARE_ST 1) b p (9 * g + 8)
    else s
  | none => s

/-- A borrow or a fold: the position that dead block p still holds gets its code. -/
def replayCode (s : State) (p code : Nat) : State :=
  match blockOfPhys s p with
  | none => s
  | some b =>
    let g := b / 8
    let s := setF s (R.BSW_MAP g) (posFld (b % 8)) code
    if code / 16 = 1 then
      match neighbour g (code % 4) with
      | some h => moveHolder (setF (setF s (R.BSW_MAP h) R.BSW_MAP_SPARE_ST 2) (R.BSW_MAP h) R.BSW_MAP_LEND_DIR
          ((code % 4 + 2) % 4)) b p (9 * h + 8)
      | none => s
    else { s with foldHome := mapSet (9 * g + b % 8) b p s.foldHome }

/-- A column spare of physical block p, in the map of its own window where no position stands on it. One that it replaced
before is DEAD, and TWINSTOP reads 1 once no spare is FREE (R119, R120). -/
def replayColumn (s : State) (p arg : Nat) : State :=
  let b := (blockOfPhys s p).getD (idleBlk p)
  let t := showTwinStop (setF (killSpare s b (arg % 256)) (R.ARR_COLMAP b) (spFld (arg / 256 % 4)) (1024 + arg % 256)) b
  if b < 128 then cicRise s t (64 + b) else t

/-- A spared row of region g. -/
def replayRow (s : State) (g row : Nat) : State :=
  let rows := mapGet [] g s.dram.rows ++ [row]
  let s := setF { s with dram := { s.dram with rows := mapPut g rows s.dram.rows } } (R.DRAM_ECC g) R.DRAM_ECC_SPROWS rows.length
  if rows.length = 512 then cicRise s (setB s (R.DRAM_ECC g) R.DRAM_ECC_SPFULL true) (32 + g) else s

/-- A retired lane of region g. -/
def replayLane (s : State) (g p : Nat) : State :=
  let a := R.DRAM_LANE g
  if !rgB s a R.DRAM_LANE_L0V then setB (setF s a R.DRAM_LANE_LANE0 p) a R.DRAM_LANE_L0V true
  else setB (setF s a R.DRAM_LANE_LANE1 p) a R.DRAM_LANE_L1V true

/-- One record of the snapshot. -/
def replay (s : State) (r : JRec) : State :=
  let u := r.unit.toNat
  match r.kind.toNat with
  | 3 => replayColumn s u r.arg.toNat
  | 4 => replayDead s u
  | 5 => replayCode s u r.arg.toNat
  | 6 => replayCode s u r.arg.toNat
  | 7 => replayRow s (u % 16) r.loc.toNat
  | 8 => replayLane s (u % 16) r.arg.toNat
  | _ => s

/-- BOOT_SBAG (R497, R500): a cartridge in the bay is probed and challenged; a TRUSTED one's spare map is replayed. -/
def execBootSbag (s : State) : Host.Outcome State Fault Refusal :=
  .next (if s.perst || !s.powered || bootPhase s != 5 then s else
    let s := match s.sb.cart with
      | none => s
      | some c =>
        let s := insertOp { s with sb := { s.sb with cart := none, shelf := s.sb.shelf ++ [c] } } c.id
        if sbState s = sbTrusted then setB (c.spare.foldl replay s) R.SB_STATUS R.SB_STATUS_MAPV true else s
    setBoot s 6)

/-! ### Readiness (R423, R489, R490) -/

/-- The owner key that the flash holds is checked against the active slot (R490). -/
def checkOwnerKey (s : State) (key : List Byte) : State :=
  match ownerSlot s.sec.fuses with
  | none => s
  | some i =>
    if sha3_384 key = slotHash s.sec.fuses i then { s with sec := { s.sec with ownerKey := some key } }
    else setB s R.BOOT_STATUS R.BOOT_STATUS_OKBAD true

/-- The start-up image is copied into the staging area and its load starts (R489). -/
def startImage (s : State) (image : List Byte) : State :=
  let s := writeDigits s staging (digitsOfBytes image)
  let s := setB s R.BOOT_STATUS R.BOOT_STATUS_IMGSTART true
  imgStart (setRg (setRg s R.IMG_SRC staging) R.IMG_LEN image.length) none

/-- From readiness each Rein port in L0 looks for a partner (R430, R446). -/
def detectPorts (s : State) : State :=
  (List.range 4).foldl (fun s p => if domCur s (169 + p) = 0 ∧ portState s p = 0 then setPort s p portDetect 0 else s) s

/-- BOOT_READY (R423, R487, R489, R490): boot, spare map and zeroing are done. image: the flash's IMAGE item, empty when
there is none; ownerKey: its OWNERKEY item. -/
def execBootReady (image ownerKey : List Byte) (s : State) : Host.Outcome State Fault Refusal :=
  .next (if s.perst || !s.powered || bootPhase s != 6 || s.dram.zeroing != 0 || image != bootItem s 3 0
      || ownerKey != bootItem s 4 0 then s else
    let s := checkOwnerKey s ownerKey
    let s := setF (setBoot s 7) R.BOOT_STATUS R.BOOT_STATUS_MS (now s / 100000 % 2 ^ 16)
    let s := detectPorts (setB s R.HI_STATUS R.HI_STATUS_READY true)
    if rgF s R.MCODE_VERSION R.MCODE_VERSION_SRC ≠ 0 && !image.isEmpty then startImage s image else s)

end Sys2Proof.Machine
end

