-- ==== Sys2Proof/Machine/Dispatch.lean ====
section
/-! DEFINITION. One arm per command: a direct call of its meaning. -/

namespace Sys2Proof.Machine

/-- The effect of a command on everything but the queue. -/
def exec (i : Instr) (s : State) : Host.Outcome State Fault Refusal :=
  match i with
  | .registerWrite ix a mask v => Sys2Proof.Machine.execRegisterWrite ix a mask v s
  | .consumeRead ix a => Sys2Proof.Machine.execConsumeRead ix a s
  | .powerOn => Sys2Proof.Machine.execPowerOn s
  | .perstAssert => Sys2Proof.Machine.execPerstAssert s
  | .perstRelease straps testEn => Sys2Proof.Machine.execPerstRelease straps testEn s
  | .refclkLoss => Sys2Proof.Machine.execRefclkLoss s
  | .bootRomDone flash => Sys2Proof.Machine.execBootRomDone flash s
  | .bootFetchDone item => Sys2Proof.Machine.execBootFetchDone item s
  | .bootMcode bundle => Sys2Proof.Machine.execBootMcode bundle s
  | .bootSbag => Sys2Proof.Machine.execBootSbag s
  | .bootReady image ownerKey => Sys2Proof.Machine.execBootReady image ownerKey s
  | .dramZeroingDone k => Sys2Proof.Machine.execDramZeroingDone k s
  | .imgGo ix => Sys2Proof.Machine.execImgGo ix s
  | .imageHoldDrained => Sys2Proof.Machine.execImageHoldDrained s
  | .imageFrame => Sys2Proof.Machine.execImageFrame s
  | .imageApply => Sys2Proof.Machine.execImageApply s
  | .routerReconfig x y => Sys2Proof.Machine.execRouterReconfig x y s
  | .imageRelease => Sys2Proof.Machine.execImageRelease s
  | .microwordCycle b u => Sys2Proof.Machine.execMicrowordCycle b u s
  | .planeRepair b => Sys2Proof.Machine.execPlaneRepair b s
  | .twinAdvance b u => Sys2Proof.Machine.execTwinAdvance b u s
  | .orcCombineResult b slot faults => Sys2Proof.Machine.execOrcCombineResult b slot faults s
  | .safePointYield b w step => Sys2Proof.Machine.execSafePointYield b w step s
  | .abandon b => Sys2Proof.Machine.execAbandon b s
  | .alog b w => Sys2Proof.Machine.execAlog b w s
  | .amov b w => Sys2Proof.Machine.execAmov b w s
  | .aspl b w => Sys2Proof.Machine.execAspl b w s
  | .aact b w => Sys2Proof.Machine.execAact b w s
  | .atag b w => Sys2Proof.Machine.execAtag b w s
  | .abrd b w => Sys2Proof.Machine.execAbrd b w s
  | .abcp b w => Sys2Proof.Machine.execAbcp b w s
  | .ashf b w => Sys2Proof.Machine.execAshf b w s
  | .aadd b w => Sys2Proof.Machine.execAadd b w s
  | .asub b w => Sys2Proof.Machine.execAsub b w s
  | .aneg b w => Sys2Proof.Machine.execAneg b w s
  | .amul b w => Sys2Proof.Machine.execAmul b w s
  | .adiv b w => Sys2Proof.Machine.execAdiv b w s
  | .acmp b w => Sys2Proof.Machine.execAcmp b w s
  | .aaddg b w => Sys2Proof.Machine.execAaddg b w s
  | .asubg b w => Sys2Proof.Machine.execAsubg b w s
  | .acmpg b w => Sys2Proof.Machine.execAcmpg b w s
  | .affs b w => Sys2Proof.Machine.execAffs b w s
  | .aenum b w => Sys2Proof.Machine.execAenum b w s
  | .aor b w => Sys2Proof.Machine.execAor b w s
  | .acnt b w => Sys2Proof.Machine.execAcnt b w s
  | .asum b w => Sys2Proof.Machine.execAsum b w s
  | .ards b w => Sys2Proof.Machine.execArds b w s
  | .abar b w => Sys2Proof.Machine.execAbar b w s
  | .atld b w => Sys2Proof.Machine.execAtld b w s
  | .atst b w => Sys2Proof.Machine.execAtst b w s
  | .alut b w => Sys2Proof.Machine.execAlut b w s
  | .apadd b w => Sys2Proof.Machine.execApadd b w s
  | .apsub b w => Sys2Proof.Machine.execApsub b w s
  | .apmul b w => Sys2Proof.Machine.execApmul b w s
  | .apdiv b w => Sys2Proof.Machine.execApdiv b w s
  | .apcmp b w => Sys2Proof.Machine.execApcmp b w s
  | .apsrp b w => Sys2Proof.Machine.execApsrp b w s
  | .apset b w => Sys2Proof.Machine.execApset b w s
  | .apcvb b w => Sys2Proof.Machine.execApcvb b w s
  | .apcvd b w => Sys2Proof.Machine.execApcvd b w s
  | .appack b w => Sys2Proof.Machine.execAppack b w s
  | .apunpk b w => Sys2Proof.Machine.execApunpk b w s
  | .adfadd b w => Sys2Proof.Machine.execAdfadd b w s
  | .adfsub b w => Sys2Proof.Machine.execAdfsub b w s
  | .adfmul b w => Sys2Proof.Machine.execAdfmul b w s
  | .adfdiv b w => Sys2Proof.Machine.execAdfdiv b w s
  | .adffma b w => Sys2Proof.Machine.execAdffma b w s
  | .adfqua b w => Sys2Proof.Machine.execAdfqua b w s
  | .adfcmp b w => Sys2Proof.Machine.execAdfcmp b w s
  | .adfcvt b w => Sys2Proof.Machine.execAdfcvt b w s
  | .aldadd b w => Sys2Proof.Machine.execAldadd b w s
  | .aldsub b w => Sys2Proof.Machine.execAldsub b w s
  | .aldmul b w => Sys2Proof.Machine.execAldmul b w s
  | .alddiv b w => Sys2Proof.Machine.execAlddiv b w s
  | .aldcvt b w => Sys2Proof.Machine.execAldcvt b w s
  | .aldspl b w => Sys2Proof.Machine.execAldspl b w s
  | .aldnrm b w => Sys2Proof.Machine.execAldnrm b w s
  | .amvs b w => Sys2Proof.Machine.execAmvs b w s
  | .atrn b w => Sys2Proof.Machine.execAtrn b w s
  | .acmps b w => Sys2Proof.Machine.execAcmps b w s
  | .aedit b w => Sys2Proof.Machine.execAedit b w s
  | .customerInstruction b e w => Sys2Proof.Machine.execCustomerInstruction b e w s
  | .reservedOpcode b op w => Sys2Proof.Machine.execReservedOpcode b op w s
  | .add b w => Sys2Proof.Machine.execAdd b w s
  | .sub b w => Sys2Proof.Machine.execSub b w s
  | .and b w => Sys2Proof.Machine.execAnd b w s
  | .or b w => Sys2Proof.Machine.execOr b w s
  | .xor b w => Sys2Proof.Machine.execXor b w s
  | .andn b w => Sys2Proof.Machine.execAndn b w s
  | .shl b w => Sys2Proof.Machine.execShl b w s
  | .shr b w => Sys2Proof.Machine.execShr b w s
  | .sar b w => Sys2Proof.Machine.execSar b w s
  | .rol b w => Sys2Proof.Machine.execRol b w s
  | .mul b w => Sys2Proof.Machine.execMul b w s
  | .mulh b w => Sys2Proof.Machine.execMulh b w s
  | .div b w => Sys2Proof.Machine.execDiv b w s
  | .rem b w => Sys2Proof.Machine.execRem b w s
  | .cmp b w => Sys2Proof.Machine.execCmp b w s
  | .min b w => Sys2Proof.Machine.execMin b w s
  | .max b w => Sys2Proof.Machine.execMax b w s
  | .clz b w => Sys2Proof.Machine.execClz b w s
  | .popc b w => Sys2Proof.Machine.execPopc b w s
  | .sel b w => Sys2Proof.Machine.execSel b w s
  | .addi b w => Sys2Proof.Machine.execAddi b w s
  | .andi b w => Sys2Proof.Machine.execAndi b w s
  | .ori b w => Sys2Proof.Machine.execOri b w s
  | .xori b w => Sys2Proof.Machine.execXori b w s
  | .shli b w => Sys2Proof.Machine.execShli b w s
  | .shri b w => Sys2Proof.Machine.execShri b w s
  | .sari b w => Sys2Proof.Machine.execSari b w s
  | .cmpi b w => Sys2Proof.Machine.execCmpi b w s
  | .liz b w => Sys2Proof.Machine.execLiz b w s
  | .lik b w => Sys2Proof.Machine.execLik b w s
  | .adr b w => Sys2Proof.Machine.execAdr b w s
  | .ld b w => Sys2Proof.Machine.execLd b w s
  | .lds b w => Sys2Proof.Machine.execLds b w s
  | .st b w => Sys2Proof.Machine.execSt b w s
  | .ldr b w => Sys2Proof.Machine.execLdr b w s
  | .stc b w => Sys2Proof.Machine.execStc b w s
  | .ldx b w => Sys2Proof.Machine.execLdx b w s
  | .stx b w => Sys2Proof.Machine.execStx b w s
  | .bz b w => Sys2Proof.Machine.execBz b w s
  | .bnz b w => Sys2Proof.Machine.execBnz b w s
  | .j b w => Sys2Proof.Machine.execJ b w s
  | .jr b w => Sys2Proof.Machine.execJr b w s
  | .call b w => Sys2Proof.Machine.execCall b w s
  | .ret b w => Sys2Proof.Machine.execRet b w s
  | .reti b w => Sys2Proof.Machine.execReti b w s
  | .loop b w => Sys2Proof.Machine.execLoop b w s
  | .loopi b w => Sys2Proof.Machine.execLoopi b w s
  | .rep b w => Sys2Proof.Machine.execRep b w s
  | .repr b w => Sys2Proof.Machine.execRepr b w s
  | .trap b w => Sys2Proof.Machine.execTrap b w s
  | .bkpt b w => Sys2Proof.Machine.execBkpt b w s
  | .wait b w => Sys2Proof.Machine.execWait b w s
  | .waitComplete b => Sys2Proof.Machine.execWaitComplete b s
  | .fence b w => Sys2Proof.Machine.execFence b w s
  | .mfc b w => Sys2Proof.Machine.execMfc b w s
  | .mtc b w => Sys2Proof.Machine.execMtc b w s
  | .dadj b w => Sys2Proof.Machine.execDadj b w s
  | .padd b w => Sys2Proof.Machine.execPadd b w s
  | .psub b w => Sys2Proof.Machine.execPsub b w s
  | .pcmp b w => Sys2Proof.Machine.execPcmp b w s
  | .pmulD b w => Sys2Proof.Machine.execPmulD b w s
  | .pshlD b w => Sys2Proof.Machine.execPshlD b w s
  | .pcvt b w => Sys2Proof.Machine.execPcvt b w s
  | .dadd b w => Sys2Proof.Machine.execDadd b w s
  | .dsub b w => Sys2Proof.Machine.execDsub b w s
  | .dmul b w => Sys2Proof.Machine.execDmul b w s
  | .ddiv b w => Sys2Proof.Machine.execDdiv b w s
  | .dfma b w => Sys2Proof.Machine.execDfma b w s
  | .dqua b w => Sys2Proof.Machine.execDqua b w s
  | .dcmp b w => Sys2Proof.Machine.execDcmp b w s
  | .dcvt b w => Sys2Proof.Machine.execDcvt b w s
  | .interruptEntry b => Sys2Proof.Machine.execInterruptEntry b s
  | .meshTrap b => Sys2Proof.Machine.execMeshTrap b s
  | .haltTaken b => Sys2Proof.Machine.execHaltTaken b s
  | .csQuarterStage b n q v => Sys2Proof.Machine.execCsQuarterStage b n q v s
  | .csCommit b n => Sys2Proof.Machine.execCsCommit b n s
  | .csHoldGrant b => Sys2Proof.Machine.execCsHoldGrant b s
  | .csRead b n q => Sys2Proof.Machine.execCsRead b n q s
  | .dtEntryWrite b e whole v => Sys2Proof.Machine.execDtEntryWrite b e whole v s
  | .meshRequest id u => Sys2Proof.Machine.execMeshRequest id u s
  | .meshResponse id => Sys2Proof.Machine.execMeshResponse id s
  | .tagAllocate t => Sys2Proof.Machine.execTagAllocate t s
  | .flitReceive r port f u => Sys2Proof.Machine.execFlitReceive r port f u s
  | .responseTimeout id => Sys2Proof.Machine.execResponseTimeout id s
  | .linkTimeout r port vc => Sys2Proof.Machine.execLinkTimeout r port vc s
  | .sluiceFenceReq g j => Sys2Proof.Machine.execSluiceFenceReq g j s
  | .sluiceDrained g j => Sys2Proof.Machine.execSluiceDrained g j s
  | .sluiceHeldArrival g j id => Sys2Proof.Machine.execSluiceHeldArrival g j id s
  | .statsWindowEnd => Sys2Proof.Machine.execStatsWindowEnd s
  | .dramAccess id u => Sys2Proof.Machine.execDramAccess id u s
  | .shadowCopyDone g => Sys2Proof.Machine.execShadowCopyDone g s
  | .dramWriteback g => Sys2Proof.Machine.execDramWriteback g s
  | .patrolScrubRead g u => Sys2Proof.Machine.execPatrolScrubRead g u s
  | .turnPortBAccess b a u => Sys2Proof.Machine.execTurnPortBAccess b a u s
  | .turnWriteback b => Sys2Proof.Machine.execTurnWriteback b s
  | .scratchpadIdleGrant b u => Sys2Proof.Machine.execScratchpadIdleGrant b u s
  | .scratchpadWriteback b => Sys2Proof.Machine.execScratchpadWriteback b s
  | .scratchpadStallBound b c => Sys2Proof.Machine.execScratchpadStallBound b c s
  | .keyByteWrite g off data key => Sys2Proof.Machine.execKeyByteWrite g off data key s
  | .kuRangeGo key v => Sys2Proof.Machine.execKuRangeGo key v s
  | .kuRangeDone => Sys2Proof.Machine.execKuRangeDone s
  | .keyReloadDone g => Sys2Proof.Machine.execKeyReloadDone g s
  | .dmaEnable b ch => Sys2Proof.Machine.execDmaEnable b ch s
  | .dmaDisable b ch => Sys2Proof.Machine.execDmaDisable b ch s
  | .dmaTailWrite b ch tail => Sys2Proof.Machine.execDmaTailWrite b ch tail s
  | .dmaDescriptor b ch => Sys2Proof.Machine.execDmaDescriptor b ch s
  | .dmaCompletion b ch => Sys2Proof.Machine.execDmaCompletion b ch s
  | .epochBoundaryTick n => Sys2Proof.Machine.execEpochBoundaryTick n s
  | .epochBreq n => Sys2Proof.Machine.execEpochBreq n s
  | .epochStop n => Sys2Proof.Machine.execEpochStop n s
  | .epochQuiesceDone n => Sys2Proof.Machine.execEpochQuiesceDone n s
  | .epochCommit n => Sys2Proof.Machine.execEpochCommit n s
  | .machineCheckAlarm m => Sys2Proof.Machine.execMachineCheckAlarm m s
  | .rollbackResume n => Sys2Proof.Machine.execRollbackResume n s
  | .migration b col => Sys2Proof.Machine.execMigration b col s
  | .migrationDone b col => Sys2Proof.Machine.execMigrationDone b col s
  | .prepare e => Sys2Proof.Machine.execPrepare e s
  | .ready dev e => Sys2Proof.Machine.execReady dev e s
  | .fail dev e => Sys2Proof.Machine.execFail dev e s
  | .commit e => Sys2Proof.Machine.execCommit e s
  | .abort e => Sys2Proof.Machine.execAbort e s
  | .cascadeReadyTimeout => Sys2Proof.Machine.execCascadeReadyTimeout s
  | .cascadeMsgRepeat => Sys2Proof.Machine.execCascadeMsgRepeat s
  | .journalWrite => Sys2Proof.Machine.execJournalWrite s
  | .configRequest f wr reg v => Sys2Proof.Machine.execConfigRequest f wr reg v s
  | .hostMemoryRead f bar off len => Sys2Proof.Machine.execHostMemoryRead f bar off len s
  | .hostMemoryWrite f bar off data => Sys2Proof.Machine.execHostMemoryWrite f bar off data s
  | .flr f => Sys2Proof.Machine.execFlr f s
  | .hotReset => Sys2Proof.Machine.execHotReset s
  | .msixUnmask f v => Sys2Proof.Machine.execMsixUnmask f v s
  | .queueEnable f q v => Sys2Proof.Machine.execQueueEnable f q v s
  | .sqTailDoorbell f q v => Sys2Proof.Machine.execSqTailDoorbell f q v s
  | .cqHeadWrite f q v => Sys2Proof.Machine.execCqHeadWrite f q v s
  | .commandFetch f q => Sys2Proof.Machine.execCommandFetch f q s
  | .completionPost f q => Sys2Proof.Machine.execCompletionPost f q s
  | .run f q c => Sys2Proof.Machine.execRun f q c s
  | .copy f q c => Sys2Proof.Machine.execCopy f q c s
  | .loadImage f q c => Sys2Proof.Machine.execLoadImage f q c s
  | .loadMicrocode f q c => Sys2Proof.Machine.execLoadMicrocode f q c s
  | .capture f q c => Sys2Proof.Machine.execCapture f q c s
  | .epoch f q c => Sys2Proof.Machine.execEpoch f q c s
  | .fenceCommand f q c => Sys2Proof.Machine.execFenceCommand f q c s
  | .query f q c => Sys2Proof.Machine.execQuery f q c s
  | .hiExit b code => Sys2Proof.Machine.execHiExit b code s
  | .runTimeout n => Sys2Proof.Machine.execRunTimeout n s
  | .getVersion => Sys2Proof.Machine.execGetVersion s
  | .getCapabilities => Sys2Proof.Machine.execGetCapabilities s
  | .negotiateAlgorithms => Sys2Proof.Machine.execNegotiateAlgorithms s
  | .getDigests => Sys2Proof.Machine.execGetDigests s
  | .getCertificate slot off len => Sys2Proof.Machine.execGetCertificate slot off len s
  | .challenge slot nonce => Sys2Proof.Machine.execChallenge slot nonce s
  | .getMeasurements index => Sys2Proof.Machine.execGetMeasurements index s
  | .ident p m => Sys2Proof.Machine.execIdent p m s
  | .verified dev => Sys2Proof.Machine.execVerified dev s
  | .release t => Sys2Proof.Machine.execRelease t s
  | .cascadeLoadAbort dev => Sys2Proof.Machine.execCascadeLoadAbort dev s
  | .cascadeLoadTimeout dev => Sys2Proof.Machine.execCascadeLoadTimeout dev s
  | .dispatchFrame m => Sys2Proof.Machine.execDispatchFrame m s
  | .forwardedRequest dev r => Sys2Proof.Machine.execForwardedRequest dev r s
  | .orcPartial slot m => Sys2Proof.Machine.execOrcPartial slot m s
  | .edgeFrame p m => Sys2Proof.Machine.execEdgeFrame p m s
  | .tunnelledRequest p m => Sys2Proof.Machine.execTunnelledRequest p m s
  | .timebaseFirstSetting lead lat => Sys2Proof.Machine.execTimebaseFirstSetting lead lat s
  | .timebaseComparison lead => Sys2Proof.Machine.execTimebaseComparison lead s
  | .reinLaneFailure p lane => Sys2Proof.Machine.execReinLaneFailure p lane s
  | .bicPendSet b v => Sys2Proof.Machine.execBicPendSet b v s
  | .bicPendClr b v => Sys2Proof.Machine.execBicPendClr b v s
  | .bicMaskSet b v => Sys2Proof.Machine.execBicMaskSet b v s
  | .bicMaskClr b v => Sys2Proof.Machine.execBicMaskClr b v s
  | .bicEoi b src => Sys2Proof.Machine.execBicEoi b src s
  | .bicCicqPop ix b => Sys2Proof.Machine.execBicCicqPop ix b s
  | .cicPendSet ix w v => Sys2Proof.Machine.execCicPendSet ix w v s
  | .cicPendClr ix w v => Sys2Proof.Machine.execCicPendClr ix w v s
  | .cicMaskSet ix w v => Sys2Proof.Machine.execCicMaskSet ix w v s
  | .cicMaskClr ix w v => Sys2Proof.Machine.execCicMaskClr ix w v s
  | .cicEoi ix src => Sys2Proof.Machine.execCicEoi ix src s
  | .cicRouteWrite ix src v => Sys2Proof.Machine.execCicRouteWrite ix src v s
  | .cicDelivery => Sys2Proof.Machine.execCicDelivery s
  | .cicIrqMessage b src => Sys2Proof.Machine.execCicIrqMessage b src s
  | .irqack src st => Sys2Proof.Machine.execIrqack src st s
  | .cicResendTimer src => Sys2Proof.Machine.execCicResendTimer src s
  | .wellheadEvent e => Sys2Proof.Machine.execWellheadEvent e s
  | .whTimerExpiry t => Sys2Proof.Machine.execWhTimerExpiry t s
  | .tdivWrite ix g d => Sys2Proof.Machine.execTdivWrite ix g d s
  | .dividerSwitch g => Sys2Proof.Machine.execDividerSwitch g s
  | .marginLowReport g => Sys2Proof.Machine.execMarginLowReport g s
  | .marginQuiet g => Sys2Proof.Machine.execMarginQuiet g s
  | .dividerReturn g => Sys2Proof.Machine.execDividerReturn g s
  | .voltageSettled => Sys2Proof.Machine.execVoltageSettled s
  | .powerSample avg => Sys2Proof.Machine.execPowerSample avg s
  | .powerRequest d target => Sys2Proof.Machine.execPowerRequest d target s
  | .autoHush p => Sys2Proof.Machine.execAutoHush p s
  | .domainWake d => Sys2Proof.Machine.execDomainWake d s
  | .domainWakeComplete d => Sys2Proof.Machine.execDomainWakeComplete d s
  | .supplySag c => Sys2Proof.Machine.execSupplySag c s
  | .inhibitRelease c => Sys2Proof.Machine.execInhibitRelease c s
  | .ownerLock ix => Sys2Proof.Machine.execOwnerLock ix s
  | .ownerTransfer ix => Sys2Proof.Machine.execOwnerTransfer ix s
  | .raiseFloor ix => Sys2Proof.Machine.execRaiseFloor ix s
  | .revokeVkey ix => Sys2Proof.Machine.execRevokeVkey ix s
  | .flashErase ix => Sys2Proof.Machine.execFlashErase ix s
  | .flashProgram ix => Sys2Proof.Machine.execFlashProgram ix s
  | .flashRead ix => Sys2Proof.Machine.execFlashRead ix s
  | .cartridgeInsert c => Sys2Proof.Machine.execCartridgeInsert c s
  | .cartridgeRemove => Sys2Proof.Machine.execCartridgeRemove s
  | .adopt => Sys2Proof.Machine.execAdopt s
  | .ckptSave => Sys2Proof.Machine.execCkptSave s
  | .ckptRestore => Sys2Proof.Machine.execCkptRestore s
  | .ckptPeriodicStart => Sys2Proof.Machine.execCkptPeriodicStart s
  | .ckptDone media => Sys2Proof.Machine.execCkptDone media s
  | .haltreq b => Sys2Proof.Machine.execHaltreq b s
  | .dbgRelease b => Sys2Proof.Machine.execDbgRelease b s
  | .dbgStep b => Sys2Proof.Machine.execDbgStep b s
  | .girthFire n src => Sys2Proof.Machine.execGirthFire n src s
  | .girthTrig v => Sys2Proof.Machine.execGirthTrig v s
  | .girthRelease v => Sys2Proof.Machine.execGirthRelease v s
  | .girthRelchip => Sys2Proof.Machine.execGirthRelchip s
  | .wdEnable b v => Sys2Proof.Machine.execWdEnable b v s
  | .wdKick b => Sys2Proof.Machine.execWdKick b s
  | .wdExpiry b => Sys2Proof.Machine.execWdExpiry b s
  | .timerStart b n v => Sys2Proof.Machine.execTimerStart b n v s
  | .timerExpiry b n => Sys2Proof.Machine.execTimerExpiry b n s
  | .qread key a par => Sys2Proof.Machine.execQread key a par s
  | .cread key a par => Sys2Proof.Machine.execCread key a par s
  | .awlWrite key a v par => Sys2Proof.Machine.execAwlWrite key a v par s
  | .pread a par => Sys2Proof.Machine.execPread a par s
  | .pwrite a v par => Sys2Proof.Machine.execPwrite a v par s
  | .awlAbort => Sys2Proof.Machine.execAwlAbort s
  | .stitchPortWrite b k v credit => Sys2Proof.Machine.execStitchPortWrite b k v credit s
  | .tracePacket p => Sys2Proof.Machine.execTracePacket p s
  | .warning code u credit => Sys2Proof.Machine.execWarning code u credit s
  | .spillwayWindowEnd => Sys2Proof.Machine.execSpillwayWindowEnd s
  | .captureEdge n => Sys2Proof.Machine.execCaptureEdge n s
  | .captureReadoutDone n => Sys2Proof.Machine.execCaptureReadoutDone n s
  | .gpioEdge n level => Sys2Proof.Machine.execGpioEdge n level s
  | .gpioConfigWrite ix n v => Sys2Proof.Machine.execGpioConfigWrite ix n v s
  | .thermalSample tmax => Sys2Proof.Machine.execThermalSample tmax s
  | .thermtrip => Sys2Proof.Machine.execThermtrip s
  | .powerDown => Sys2Proof.Machine.execPowerDown s
  | .refclkRestart => Sys2Proof.Machine.execRefclkRestart s
  | .pcieLinkTrained speed width flit => Sys2Proof.Machine.execPcieLinkTrained speed width flit s
  | .reinPartnerDetected p lat clockOk lanes => Sys2Proof.Machine.execReinPartnerDetected p lat clockOk lanes s
  | .rowSpareCopyDone g => Sys2Proof.Machine.execRowSpareCopyDone g s
  | .domainEntryComplete d => Sys2Proof.Machine.execDomainEntryComplete d s
  | .mailboxCommandDone => Sys2Proof.Machine.execMailboxCommandDone s
  | .doeDiscovery index => Sys2Proof.Machine.execDoeDiscovery index s
  | .hostReadCompletion id data => Sys2Proof.Machine.execHostReadCompletion id data s

end Sys2Proof.Machine
end

