-- ==== Sys2Proof/Safety.lean ====
section
/-! DEFINITION. What the claims are stated with: the canonical form of memory and of the cells, a sequencer that issues
with nothing else under way, and the results of instructions in the words of the spec. -/

namespace Sys2Proof.Machine

/-- A committed or copied state keeps its memory in the canonical form. -/
def Snap.memWf (c : Snap) : Bool := Memory.wf c.mem

/-- So do both slots of a partition. -/
def Epoch.memWf (e : Epoch) : Bool :=
  (match e.com with | some c => c.memWf | none => true) && (match e.alt with | some c => c.memWf | none => true)

/-- So does every checkpoint on a cartridge. -/
def Cart.memWf (c : Cart) : Bool := c.slots.all fun e => e.2.snap.memWf

/-- The memory and every copy of it stand in the canonical form: addresses strictly rising, no byte listed that is 0. -/
def State.memWf (s : State) : Bool :=
  Memory.wf s.mem && s.epochs.all (fun e => e.2.memWf)
    && (match s.sb.cart with | some c => c.memWf | none => true) && s.sb.shelf.all Cart.memWf

/-! ### A sequencer that issues -/

/-- Block b's sequencer issues its next instruction (R234, R270), and nothing but that instruction acts at its end: no
load is in its slots (R249), no pending LDX (R267), no loop of this depth is open (R257), no repetition runs (R259), no
single step is under way (R510), no upset has struck a memory (R322, R325) and the fetch unit holds no line from the time of one
(R244). -/
def State.plain (s : State) (b : Nat) : Bool :=
  canIssue s b && (seqOf s b).resume.isNone && pcOk (pcOf s b) && (seqOf s b).ldx.isEmpty && (seqOf s b).loads.isEmpty
    && (examined s b).isEmpty && !rgB s (R.PSR b) R.PSR_REPF && !(seqOf s b).stepping && s.flaws.isEmpty
    && (seqOf s b).fetched.isNone

/-- The 64 bits that register field r of block b names (R237). -/
def State.regBits (s : State) (b r : Nat) : BitVec 64 := BitVec.ofNat 64 (rd s b r)

/-- The program counter at the next instruction. -/
def State.stepped (s : State) (b : Nat) : State := setPc s b (pcOf s b + 8)

/-- Register field r holds v and the program counter stands at the next instruction; everything else as before. -/
def State.withResult (s : State) (b r : Nat) (v : BitVec 64) : State := setPc (wr s b r v.toNat) b (pcOf s b + 8)

/-- CMP's relations by their codes (R241). -/
def relHolds (rel : Nat) (x y : BitVec 64) : Bool :=
  match rel with
  | 0 => x == y
  | 1 => x != y
  | 2 => x.slt y
  | 3 => x.sle y
  | 4 => y.slt x
  | 5 => y.sle x
  | 6 => x.ult y
  | 7 => x.ule y
  | 8 => y.ult x
  | _ => y.ule x

/-- An integer or immediate instruction of R240: its opcode, block and operand word, and whether its fields are legal
(R238). -/
def integerForm (c : Instr) : Option (Nat × Blk × BitVec 24 × Bool) :=
  let fn (w : BitVec 24) : Nat := fFN w.toNat
  let imm (w : BitVec 24) : Nat := w.toNat % 4096
  match c with
  | .add b w => some (0x01, b, w, fn w == 0)
  | .sub b w => some (0x02, b, w, fn w == 0)
  | .and b w => some (0x03, b, w, fn w == 0)
  | .or b w => some (0x04, b, w, fn w == 0)
  | .xor b w => some (0x05, b, w, fn w == 0)
  | .andn b w => some (0x06, b, w, fn w == 0)
  | .shl b w => some (0x07, b, w, fn w == 0)
  | .shr b w => some (0x08, b, w, fn w == 0)
  | .sar b w => some (0x09, b, w, fn w == 0)
  | .rol b w => some (0x0A, b, w, fn w == 0)
  | .mul b w => some (0x0B, b, w, fn w == 0)
  | .mulh b w => some (0x0C, b, w, decide (fn w ≤ 1))
  | .div b w => some (0x0D, b, w, decide (fn w ≤ 1))
  | .rem b w => some (0x0E, b, w, decide (fn w ≤ 1))
  | .cmp b w => some (0x0F, b, w, decide (fn w ≤ 9))
  | .min b w => some (0x10, b, w, decide (fn w ≤ 1))
  | .max b w => some (0x11, b, w, decide (fn w ≤ 1))
  | .clz b w => some (0x12, b, w, fn w == 0 && fU w.toNat == 0)
  | .popc b w => some (0x13, b, w, fn w == 0 && fU w.toNat == 0)
  | .sel b w => some (0x14, b, w, fn w == 0)
  | .addi b w => some (0x20, b, w, true)
  | .andi b w => some (0x21, b, w, true)
  | .ori b w => some (0x22, b, w, true)
  | .xori b w => some (0x23, b, w, true)
  | .shli b w => some (0x24, b, w, decide (imm w < 64))
  | .shri b w => some (0x25, b, w, decide (imm w < 64))
  | .sari b w => some (0x26, b, w, decide (imm w < 64))
  | .cmpi b w => some (0x27, b, w, decide (imm w / 256 ≤ 9))
  | .liz b w => some (0x28, b, w, true)
  | .lik b w => some (0x29, b, w, true)
  | .adr b w => some (0x2A, b, w, true)
  | _ => none

/-! ### Entry (R271) -/

/-- Block b may enter a trap or an interrupt without a spill: no LDX destination is pending, the frame fits, at most
eight frames are resident, no load is in its slots. -/
def State.entryReady (s : State) (b : Nat) : Bool :=
  !entryWaits s b && !entryFault s b && decide (rgF s (R.PSR b) R.PSR_RESF ≤ 8) && decide (rgF s (R.PSR b) R.PSR_CURF < 12)
    && (seqOf s b).loads.isEmpty

/-- Digits of an entry frame: eight words and the globals of IGMASK (R271). -/
def frameDigits (s : State) (b : Nat) : Nat := 16 * (8 + popMask (Nat.land (rgF s (R.TVEC b) R.TVEC_IGMASK) 0xFFFE))

/-- State t is s after an entry of block b with a cause, as TCAUSE and the vector number show it, TVAL and the address
to return to. -/
def State.enteredAs (s t : State) (b tcause vector tval ret : Nat) : Prop :=
  let isp := 16 * rgF s (R.STKP b) R.STKP_ISP - frameDigits s b
  pcOf t b = 256 * rgF s (R.TVEC b) R.TVEC_BASE + 64 * vector
  ∧ rg t (R.TCAUSE b) = tcause ∧ rg t (R.TVAL b) = tval
  ∧ rgF t (R.PSR b) R.PSR_IE = 0 ∧ rgB t (R.PSR b) R.PSR_REPF = false
  ∧ rgF t (R.PSR b) R.PSR_CURF = (rgF s (R.PSR b) R.PSR_CURF + 2) % 12
  ∧ rgF t (R.PSR b) R.PSR_RESF = rgF s (R.PSR b) R.PSR_RESF + 2
  ∧ rgF t (R.PSR b) R.PSR_DEPTH = rgF s (R.PSR b) R.PSR_DEPTH + 1
  ∧ 16 * rgF t (R.STKP b) R.STKP_ISP = isp
  ∧ bits (spWord t b isp) 19 0 = ret ∧ spWord t b (isp + 16) = rg s (R.PSR b)
  ∧ (seqOf t b).resv = none
  ∧ ∀ a, (a < bwin b + isp ∨ bwin b + isp + frameDigits s b ≤ a) → memDigit t.mem a = memDigit s.mem a

/-! ### Array instructions -/

/-- The cells in their canonical form: keys strictly rising, no all-zero cell listed. -/
def State.cellsWf (s : State) : Bool := mapWf (fun _ => ({} : Cell)) s.cells

/-- No patch has replaced the dispatch entry of an array opcode, and every entry has good parity (R281, R298, R304). -/
def State.romEntries (s : State) : Bool := s.dtBad.isEmpty && !(List.range 80).any fun k => patched s (0x80 + k)

/-- Block b issues with nothing else under way and holds no suspended instruction (R222, R228); its dispatch table is that of
the mask ROM. -/
def State.arrPlain (s : State) (b : Nat) : Bool :=
  s.plain b && (seqOf s b).susp.isNone && !rgB s (R.ARR_SUSP b) R.ARR_SUSP_VALID && s.cellsWf && s.romEntries

/-- Outside the n planes from p, and outside the progress planes 2032 to 2039 (R224), z has the planes of y. -/
def Cell.sameBut (y z : Cell) (p n : Nat) : Prop :=
  ∀ q, q < 2048 → (q < p ∨ p + n ≤ q) → (q < 2032 ∨ 2040 ≤ q) → z.plane q = y.plane q

/-- z is y with the integer v written to field d (R127, R128). -/
def Cell.wrote (y z : Cell) (d : Desc) (v : Int) : Prop :=
  z.field d.base d.len = wrap d.len v ∧ y.sameBut z d.base d.len ∧ z.a = y.a ∧ z.c = false

/-- z has the planes of y and its A. -/
def Cell.kept (y z : Cell) : Prop := y.sameBut z 0 0 ∧ z.a = y.a

/-- The block stands at its next instruction with the same memory; cells of blocks on which its program does not act are
as before. -/
def State.arrDone (s t : State) (b : Nat) : Prop :=
  pcOf t b = pcOf s b + 8 ∧ t.mem = s.mem ∧ (∀ c i, c ∉ gang s b → i < 16384 → cellAt t c i = cellAt s c i)
    ∧ ∀ r, rd t b r = rd s b r

/-- What R holds of every cell of the blocks on which b's program acts: block, index, before, after. -/
def State.everyCell (s t : State) (b : Nat) (P : Nat → Nat → Cell → Cell → Prop) : Prop :=
  ∀ c ∈ gang s b, ∀ i, i < 16384 → P c i (cellAt s c i) (cellAt t c i)

/-- z is y after a decimal instruction with context x whose result and flags are r: D, the flag planes, T (R174). -/
def Cell.decimal (y z : Cell) (x : ACtx) (r : Option Nat × Nat) : Prop :=
  let d := descOf x.d
  z.a = y.a ∧ z.t = (r.2.testBit 5 || Nat.land (r.2 % 32) (bits x.dctl 12 8) != 0)
  ∧ (∀ v, r.1 = some v → ∀ j, j < d.len → z.plane (d.base + j)
      = (v.testBit j || (decide (2040 ≤ d.base + j) && decide (d.base + j < 2046) && r.2.testBit (d.base + j - 2040))))
  ∧ (∀ k, k < 6 → (r.1 = none ∨ 2040 + k < d.base ∨ d.base + d.len ≤ 2040 + k) →
      z.plane (2040 + k) = (y.plane (2040 + k) || r.2.testBit k))
  ∧ (r.1 = none → d.base + d.len ≤ 2032 → z.field d.base d.len = y.field d.base d.len)

/-- A decimal instruction of block b has completed with the result f in every active cell, and DFLAG of each block holds
the flags that its active cells raised (R176). -/
def State.decimalDone (s t : State) (b : Nat) (x : ACtx) (f : Cell → Option Nat × Nat) : Prop :=
  s.arrDone t b
  ∧ s.everyCell t b (fun c _ y z =>
      (y.a = true → y.decimal z x (f y)
        ∧ ∀ k, k < 6 → (f y).2.testBit k = true → (rgF t (R.DFLAG c) R.DFLAG_FL).testBit k = true)
      ∧ (y.a = false → y.kept z ∧ z.t = false))

/-! ### Frames and requests -/

/-- t is s with other values in the registers of l alone. -/
def State.regsOnly (s t : State) (l : List Nat) : Prop := t = { s with regs := t.regs } ∧ ∀ a, a ∉ l → rg t a = rg s a

/-- Nothing has left the machine between s and t but flits that a unit presents to its router (R345, R349). -/
def State.sentOnly (s t : State) : Prop :=
  ∃ l, t.out = s.out ++ l ∧ ∀ o ∈ l, ∃ r p v f, o = .present r p v f

/-- Request q is on its way to an address of the map that one packet may span: it waits for no tag, at no fence and at no
port, and its source is not isolated (R348, R359, R364, R367). -/
def State.sends (s : State) (q : MeshReq) : Bool :=
  !q.untagged && !q.fenced && !q.parked && q.held.isNone && !q.done && !q.atPort && !q.dead && !portCut s q.home q.sport
    && q.len != 0 && spanKey s q.addr == spanKey s (q.addr + q.len - 1) && targetOf s q.addr != .nowhere

/-- Request q meets nothing on its way to target t that stops it, answers it or makes it wait: no packet of its source and
no packet that a fence released comes before it, no fence stands before it, nothing on its path is isolated, down or held,
and no rule logs it (R346, R358, R364, R366, R368, R75, R380). -/
def State.reaches (s : State) (q : MeshReq) (t : Target) : Bool :=
  s.sends q && targetOf s q.addr == t && (match t with | .device _ _ => false | _ => true)
    && !leavesPart s q t && (q.seq != 0 || nextSent s q) && (isolated s q t).isNone && !routeDown s 9 q.home (routerFor t)
    && !refusedHeld s q t && !unplaced s t && (fenceFor s t).isNone && !freedBefore s q t
    && blockLevel s t != 2 && blockLevel s t != 3

/-- It is the turn of request q at the DRAM port of region g (R23): the port grants it next, no earlier request of its
initiator stands before it (R358), and the data of a write has its length. -/
def State.dramTurn (s : State) (q : MeshReq) (g : Rgn) : Bool :=
  (dramGrant s g.toNat).map MeshReq.id == some q.id && (before s q).isNone && q.addr / 0x800000000 == g.toNat
    && q.len != 0 && (!q.wr || decide (q.data.length = q.len))

/-- t adds to s's completion entries that of command c of function f, queue q, with a status, DETAIL and RESULT (R407,
R408). -/
def State.answers (s t : State) (f q : Nat) (c : BitVec 512) (status detail result : Nat) : Prop :=
  ∃ e, t.host.compls = s.host.compls ++ [e] ∧ e.f = f ∧ e.q = q ∧ e.cid.toNat = cmdVal c 2 2
    ∧ e.status.toNat = status % 256 ∧ e.detail.toNat = detail % 65536 ∧ e.result.toNat = result % 2 ^ 64

/-- Command c of function f and queue q starts as opcode opc (R407); it is not one that the queue left when it was disabled. -/
def State.starts (s : State) (f q : Nat) (c : BitVec 512) (opc : Nat) : Prop :=
  (cmdStart s f q c opc).isSome = true ∧ startQ s f q c = q

/-- Function f may have one more read of host memory outstanding (R396); the numbers of those under way are not used again. -/
def State.mayRead (s : State) (f : Nat) : Prop :=
  (s.host.rds.filter fun x => x.f == f && x.ask != 0).length < readCap s f ∧ ∀ x ∈ s.host.rds, x.id ≠ s.mesh.nextId

/-- It starts, and the fields that every command has are right (R409), FLAGS, PID and the reserved byte 7. -/
def State.takes (s : State) (f q : Nat) (c : BitVec 512) (opc : Nat) : Prop :=
  s.starts f q c opc ∧ cmdByte c 1 < 4 ∧ (f = 0 ∨ cmdPid c = f - 1) ∧ cmdByte c 7 = 0

/-- Bytes i to i + n - 1 of a command are 0. -/
def zeros (c : BitVec 512) (i n : Nat) : Prop := cmdVal c i n = 0

end Sys2Proof.Machine
end

