-- ==== Sys2Proof/Certificates/Slice0/Obligations.lean ====
section
/-! DEFINITION. The statements for the provers. -/

open Sys2Proof Sys2Proof.Machine

/-! ### The scalar instructions (chapter 7) -/

/-- SUB, AND, OR, XOR, ANDN, SHL, SHR, SAR, ROL and MUL give D the 64-bit result that the table of R240 names, and step
the program counter; nothing else changes. -/
def Obligations.ScalarLogicAndShiftResults : Prop :=
  ∀ (s : State) (b : Blk) (w : BitVec 24), s.plain b.toNat = true → fFN w.toNat = 0 →
    let d := fD w.toNat
    let x := s.regBits b.toNat (fS w.toNat)
    let y := s.regBits b.toNat (fU w.toNat)
    exec (.sub b w) s = .next (s.withResult b.toNat d (x - y))
    ∧ exec (.and b w) s = .next (s.withResult b.toNat d (x &&& y))
    ∧ exec (.or b w) s = .next (s.withResult b.toNat d (x ||| y))
    ∧ exec (.xor b w) s = .next (s.withResult b.toNat d (x ^^^ y))
    ∧ exec (.andn b w) s = .next (s.withResult b.toNat d (x &&& ~~~y))
    ∧ exec (.shl b w) s = .next (s.withResult b.toNat d (x <<< (y.toNat % 64)))
    ∧ exec (.shr b w) s = .next (s.withResult b.toNat d (x >>> (y.toNat % 64)))
    ∧ exec (.sar b w) s = .next (s.withResult b.toNat d (x.sshiftRight (y.toNat % 64)))
    ∧ exec (.rol b w) s = .next (s.withResult b.toNat d (x.rotateLeft (y.toNat % 64)))
    ∧ exec (.mul b w) s = .next (s.withResult b.toNat d (x * y))

/-- MULH, DIV, REM, CMP, MIN, MAX, CLZ, POPC and SEL give D the result that R240 to R242 name, in each of their forms. -/
def Obligations.ScalarArithmeticResults : Prop :=
  ∀ (s : State) (b : Blk) (w : BitVec 24), s.plain b.toNat = true →
    let d := fD w.toNat
    let fn := fFN w.toNat
    let x := s.regBits b.toNat (fS w.toNat)
    let y := s.regBits b.toNat (fU w.toNat)
    (fn = 0 → exec (.mulh b w) s
      = .next (s.withResult b.toNat d ((x.signExtend 128 * y.signExtend 128).extractLsb' 64 64)))
    ∧ (fn = 1 → exec (.mulh b w) s
      = .next (s.withResult b.toNat d ((x.setWidth 128 * y.setWidth 128).extractLsb' 64 64)))
    ∧ (fn = 0 → exec (.div b w) s = .next (s.withResult b.toNat d (if y = 0 then BitVec.allOnes 64 else x.sdiv y)))
    ∧ (fn = 1 → exec (.div b w) s = .next (s.withResult b.toNat d (if y = 0 then BitVec.allOnes 64 else x / y)))
    ∧ (fn = 0 → exec (.rem b w) s = .next (s.withResult b.toNat d (if y = 0 then x else x.srem y)))
    ∧ (fn = 1 → exec (.rem b w) s = .next (s.withResult b.toNat d (if y = 0 then x else x % y)))
    ∧ (fn ≤ 9 → exec (.cmp b w) s = .next (s.withResult b.toNat d (if relHolds fn x y then 1 else 0)))
    ∧ (fn = 0 → exec (.min b w) s = .next (s.withResult b.toNat d (if x.sle y then x else y)))
    ∧ (fn = 1 → exec (.min b w) s = .next (s.withResult b.toNat d (if x.ule y then x else y)))
    ∧ (fn = 0 → exec (.max b w) s = .next (s.withResult b.toNat d (if x.sle y then y else x)))
    ∧ (fn = 1 → exec (.max b w) s = .next (s.withResult b.toNat d (if x.ule y then y else x)))
    ∧ (fn = 0 ∧ fU w.toNat = 0 → exec (.clz b w) s = .next (s.withResult b.toNat d x.clz))
    ∧ (fn = 0 ∧ fU w.toNat = 0 → exec (.popc b w) s = .next (s.withResult b.toNat d x.cpop))
    ∧ (fn = 0 → exec (.sel b w) s = .next (s.withResult b.toNat d (if s.regBits b.toNat d = 0 then y else x)))

/-- The immediate instructions give D the result that R240 names; ADD and ADDI write the nibble carries of their sum to
NCY besides (R262). -/
def Obligations.ScalarImmediateResults : Prop :=
  ∀ (s : State) (b : Blk) (w : BitVec 24), s.plain b.toNat = true →
    let d := fD w.toNat
    let x := s.regBits b.toNat (fS w.toNat)
    let y := s.regBits b.toNat (fU w.toNat)
    let i := (w.setWidth 12).signExtend 64
    let k := w.toNat % 4096
    let hw := bits w.toNat 17 16
    let ncy (y : BitVec 64) : State := setF s (R.NCY b.toNat) R.NCY_NCY (nibbleCarries x.toNat y.toNat)
    (fFN w.toNat = 0 → exec (.add b w) s = .next ((ncy y).withResult b.toNat d (x + y)))
    ∧ exec (.addi b w) s = .next ((ncy i).withResult b.toNat d (x + i))
    ∧ exec (.andi b w) s = .next (s.withResult b.toNat d (x &&& i))
    ∧ exec (.ori b w) s = .next (s.withResult b.toNat d (x ||| i))
    ∧ exec (.xori b w) s = .next (s.withResult b.toNat d (x ^^^ i))
    ∧ (k < 64 → exec (.shli b w) s = .next (s.withResult b.toNat d (x <<< k)))
    ∧ (k < 64 → exec (.shri b w) s = .next (s.withResult b.toNat d (x >>> k)))
    ∧ (k < 64 → exec (.sari b w) s = .next (s.withResult b.toNat d (x.sshiftRight k)))
    ∧ (k / 256 ≤ 9 → exec (.cmpi b w) s
      = .next (s.withResult b.toNat d (if relHolds (k / 256) x ((w.setWidth 8).signExtend 64) then 1 else 0)))
    ∧ exec (.liz b w) s = .next (s.withResult b.toNat d ((w.setWidth 16).setWidth 64 <<< (16 * hw)))
    ∧ exec (.lik b w) s = .next (s.withResult b.toNat d
        ((s.regBits b.toNat d &&& ~~~(0xFFFF#64 <<< (16 * hw))) ||| ((w.setWidth 16).setWidth 64 <<< (16 * hw))))
    ∧ exec (.adr b w) s = .next (s.withResult b.toNat d (BitVec.ofNat 64 (pcOf s b.toNat) + (w.setWidth 18).signExtend 64 * 8))

/-- R262: bit i of NCY is the carry out of sum bit 4i + 3 of ADD and ADDI; DADJ leaves the nibbles with a carry and takes
6 from the others, or gives NCY[15]. -/
def Obligations.NibbleCarriesAndAdjust : Prop :=
  ∀ (s : State) (b : Blk) (w : BitVec 24), s.plain b.toNat = true →
    let n := b.toNat
    let d := fD w.toNat
    let x := s.regBits n (fS w.toNat)
    let carries (t : State) (x y : Nat) : Prop := ∀ i, i < 16 →
      (rgF t (R.NCY n) R.NCY_NCY).testBit i = decide (2 ^ (4 * i + 4) ≤ x % 2 ^ (4 * i + 4) + y % 2 ^ (4 * i + 4))
    (fFN w.toNat = 0 → ∃ t, exec (.add b w) s = .next t ∧ carries t x.toNat (s.regBits n (fU w.toNat)).toNat)
    ∧ (∃ t, exec (.addi b w) s = .next t ∧ carries t x.toNat ((w.setWidth 12).signExtend 64).toNat)
    ∧ (fFN w.toNat = 0 → fU w.toNat = 0 → ∃ v : BitVec 64, exec (.dadj b w) s = .next (s.withResult n d v) ∧ ∀ i, i < 16 →
        v.toNat / 16 ^ i % 16
          = if (rgF s (R.NCY n) R.NCY_NCY).testBit i then x.toNat / 16 ^ i % 16 else (x.toNat / 16 ^ i % 16 + 10) % 16)
    ∧ (fFN w.toNat = 1 → fU w.toNat = 0 → exec (.dadj b w) s
        = .next (s.withResult n d (if (rgF s (R.NCY n) R.NCY_NCY).testBit 15 then 1 else 0)))

/-- The frame of the integer and immediate instructions: of all registers only the destination, the program counter and,
for ADD and ADDI, NCY change, and nothing else in the machine changes; so no flag is set (R242) and no memory written.
An integer or immediate instruction with a reserved field value traps with ILLEGAL and TVAL the word (R238, R269). -/
def Obligations.ScalarIntegerFrame : Prop :=
  (∀ (s t : State) (c : Instr) (op : Nat) (b : Blk) (w : BitVec 24), integerForm c = some (op, b, w, true) →
    s.plain b.toNat = true → exec c s = .next t →
      t = { s with regs := t.regs }
      ∧ ∀ a, a ≠ R.DBG_PC b.toNat → a ≠ idAddr b.toNat (regId s b.toNat (fD w.toNat)) →
          ((op = 0x01 ∨ op = 0x20) → a ≠ R.NCY b.toNat) → rg t a = rg s a)
  ∧ (∀ (s : State) (c : Instr) (op : Nat) (b : Blk) (w : BitVec 24), integerForm c = some (op, b, w, false) →
    s.plain b.toNat = true → exec c s = .next (endStep (trapAt s b.toNat 3 (wordOf op w)) b.toNat))

/-- R242: the integer instructions set no flags, in DCTL and DFLAG; sums, differences and products wrap silently; the
corners of DIV and REM. -/
def Obligations.IntegerCorners : Prop :=
  ∀ (s : State) (b : Blk) (w : BitVec 24), s.plain b.toNat = true →
    let d := fD w.toNat
    let x := s.regBits b.toNat (fS w.toNat)
    let y := s.regBits b.toNat (fU w.toNat)
    (∀ (c : Instr) (op : Nat), integerForm c = some (op, b, w, true) → ∃ t, exec c s = .next t ∧
      rg t (R.DCTL b.toNat) = rg s (R.DCTL b.toNat) ∧ rg t (R.DFLAG b.toNat) = rg s (R.DFLAG b.toNat))
    ∧ (fFN w.toNat = 0 → exec (.add b w) s
          = .next ((setF s (R.NCY b.toNat) R.NCY_NCY (nibbleCarries x.toNat y.toNat)).withResult b.toNat d (x + y))
        ∧ exec (.sub b w) s = .next (s.withResult b.toNat d (x - y))
        ∧ exec (.mul b w) s = .next (s.withResult b.toNat d (x * y)))
    ∧ (fFN w.toNat ≤ 1 → y = 0 → exec (.div b w) s = .next (s.withResult b.toNat d (BitVec.allOnes 64)))
    ∧ (fFN w.toNat ≤ 1 → y = 0 → exec (.rem b w) s = .next (s.withResult b.toNat d x))
    ∧ (fFN w.toNat = 0 → x = BitVec.intMin 64 → y = BitVec.allOnes 64 →
        exec (.div b w) s = .next (s.withResult b.toNat d (BitVec.intMin 64))
        ∧ exec (.rem b w) s = .next (s.withResult b.toNat d 0))

/-- Local loads (R246-R249): LD and LDS put the value of the N digits at the effective address, extended, into the
slots of the load, which the two instructions that follow still see as pending; the address register follows its
modifier, memory and the destination itself are unchanged. LDR does so as well and sets the reservation on its line.
A pending load with one slot left is written at the end of the instruction that runs in it, whatever that instruction
wrote there (R249); before that the slot instruction reads the old value. -/
def Obligations.LocalLoads : Prop :=
  (∀ (s : State) (b : Blk) (w : BitVec 24), s.plain b.toNat = true →
    let n := b.toNat
    let m := memOp s n w.toNat
    let v := loadLocal s n m.ea m.n
    let ra := s.regBits n (fU w.toNat)
    let k := fFN w.toNat + 1
    (m.ok = true → (m.after.isSome = true → fD w.toNat ≠ 48 + m.areg) → localOk m.ea m.n = true →
      (∃ t, exec (.ld b w) s = .next t ∧ t.mem = s.mem ∧ t.cells = s.cells ∧ pcOf t n = pcOf s n + 8
        ∧ seqOf t n = { seqOf s n with loads := [⟨regId s n (fD w.toNat), BitVec.ofNat 64 v, 2⟩] }
        ∧ (∀ a, a ≠ R.DBG_PC n → a ≠ R.AREG n m.areg → rg t a = rg s a)
        ∧ rg t (R.AREG n m.areg) = (match m.after with | some x => x % 2 ^ 24 | none => rg s (R.AREG n m.areg)))
      ∧ (∃ t, exec (.lds b w) s = .next t ∧ t.mem = s.mem ∧ pcOf t n = pcOf s n + 8
        ∧ seqOf t n
          = { seqOf s n with loads := [⟨regId s n (fD w.toNat), BitVec.ofInt 64 (sgn (4 * m.n) v), 2⟩] }
        ∧ (∀ a, a ≠ R.DBG_PC n → a ≠ R.AREG n m.areg → rg t a = rg s a)))
    ∧ (48 ≤ fU w.toNat → fU w.toNat < 56 → fS w.toNat = 0 → fFN w.toNat < 16 → localOk ra.toNat k = true →
      ∃ t, exec (.ldr b w) s = .next t ∧ t.mem = s.mem ∧ pcOf t n = pcOf s n + 8
        ∧ seqOf t n = { seqOf s n with
            loads := [⟨regId s n (fD w.toNat), BitVec.ofNat 64 (loadLocal s n ra.toNat k), 2⟩]
            resv := some (localAddr n (ra.toNat - ra.toNat % lineLen ra.toNat : Nat), lineLen ra.toNat) }
        ∧ rgB t (R.PSR n) R.PSR_RESV_VALID = true
        ∧ (∀ a, a ≠ R.DBG_PC n → a ≠ R.PSR n → rg t a = rg s a)))
  ∧ (∀ (s : State) (b : Blk) (w : BitVec 24) (l : PendLoad), s.plain b.toNat = true → fFN w.toNat = 0 → l.reg < 0xD0 →
    l.reg ≠ 0xC0 → l.slots = 1 →
    let s1 := updSeq s b.toNat fun q => { q with loads := [l] }
    ∃ t, exec (.or b w) s1 = .next t ∧ readId t b.toNat l.reg = l.val.toNat ∧ (seqOf t b.toNat).loads = []
      ∧ (regId s b.toNat (fD w.toNat) ≠ l.reg → regId s b.toNat (fD w.toNat) ≠ 0xC0 → fD w.toNat < 48 →
          t.regBits b.toNat (fD w.toNat) = s.regBits b.toNat (fS w.toNat) ||| s.regBits b.toNat (fU w.toNat)))

/-- Local stores (R246-R248, R265, R266): ST and a covered STC store the low digits of their register at the effective
address and nothing else in memory; STC's D says whether it stored, and its reservation ends; an STC without one stores
nothing. -/
def Obligations.LocalStores : Prop :=
  ∀ (s : State) (b : Blk) (w : BitVec 24), s.plain b.toNat = true →
    let n := b.toNat
    let m := memOp s n w.toNat
    let ra := (s.regBits n (fU w.toNat)).toNat
    let k := fFN w.toNat + 1
    (m.ok = true → localOk m.ea m.n = true →
      ∃ t, exec (.st b w) s = .next t ∧ pcOf t n = pcOf s n + 8
        ∧ readVal t (localAddr n m.ea) m.n = rd s n (fD w.toNat) % 16 ^ m.n
        ∧ (∀ a, (a < localAddr n m.ea ∨ localAddr n m.ea + m.n ≤ a) → memDigit t.mem a = memDigit s.mem a)
        ∧ (∀ a, a ≠ R.DBG_PC n → a ≠ R.AREG n m.areg → (∀ c, a ≠ R.PSR c) → rg t a = rg s a)
        ∧ t.cells = s.cells ∧ t.epochs = s.epochs ∧ t.mesh = s.mesh)
    ∧ (48 ≤ fU w.toNat → fU w.toNat < 56 → fFN w.toNat < 16 → localOk ra k = true → resvCovers s n ra k = true →
      ∃ t, exec (.stc b w) s = .next t ∧ pcOf t n = pcOf s n + 8 ∧ (seqOf t n).resv = none
        ∧ rgB t (R.PSR n) R.PSR_RESV_VALID = false
        ∧ readVal t (localAddr n ra) k = rd s n (fS w.toNat) % 16 ^ k
        ∧ (fD w.toNat ≠ 32 → t.regBits n (fD w.toNat) = 1)
        ∧ (∀ a, (a < localAddr n ra ∨ localAddr n ra + k ≤ a) → memDigit t.mem a = memDigit s.mem a))
    ∧ (48 ≤ fU w.toNat → fU w.toNat < 56 → fFN w.toNat < 16 → localOk ra k = true → resvCovers s n ra k = false →
      ∃ t, exec (.stc b w) s = .next t ∧ pcOf t n = pcOf s n + 8 ∧ (seqOf t n).resv = none ∧ t.mem = s.mem
        ∧ (fD w.toNat ≠ 32 → t.regBits n (fD w.toNat) = 0))
    ∧ (m.ok = true → localOk m.ea m.n = false →
      exec (.st b w) s = .next (endStep (trapAt s n 4 (wrap 64 m.ea)) n))

/-- Mesh access (R267): with fewer than eight requests outstanding LDX and STX send one request of the digits named, and
LDX leaves its destination pending; with eight they wait, unchanged; FENCE completes when none is outstanding and waits
otherwise. -/
def Obligations.MeshAccess : Prop :=
  ∀ (s : State) (b : Blk) (w : BitVec 24), s.plain b.toNat = true →
    let n := b.toNat
    let a := rd s n (fS w.toNat)
    let k := fFN w.toNat % 16 + 1
    (fU w.toNat = 0 → fFN w.toNat < 32 → a < 2 ^ 48 → meshAligned a k = true → outst s n < 8 →
      ∃ t q, exec (.ldx b w) s = .next t ∧ t.mesh.flight = s.mesh.flight ++ [q] ∧ q.src = .seq b ∧ q.wr = false
        ∧ q.len = k ∧ q.id = s.mesh.nextId ∧ (ownDevice s a = false → q.addr = a)
        ∧ q.key.toNat = rgF s (R.MKEY n) R.MKEY_KEY ∧ t.mesh.nextId = s.mesh.nextId + 1
        ∧ (seqOf t n).ldx = [⟨s.mesh.nextId, regId s n (fD w.toNat), k, decide (16 ≤ fFN w.toNat)⟩]
        ∧ pcOf t n = pcOf s n + 8 ∧ t.mem = s.mem)
    ∧ (fD w.toNat = 0 → fFN w.toNat < 16 → a < 2 ^ 48 → meshAligned a k = true → outst s n < 8 →
      ∃ t q, exec (.stx b w) s = .next t ∧ t.mesh.flight = s.mesh.flight ++ [q] ∧ q.src = .seq b ∧ q.wr = true
        ∧ q.len = k ∧ (ownDevice s a = false → q.addr = a)
        ∧ q.data = (digitsOf k (rd s n (fU w.toNat))).map (BitVec.ofNat 4)
        ∧ pcOf t n = pcOf s n + 8 ∧ t.mem = s.mem)
    ∧ (fD w.toNat = 0 → fFN w.toNat < 16 → a < 2 ^ 48 → meshAligned a k = true → 8 ≤ outst s n →
        exec (.stx b w) s = .next s)
    ∧ (fU w.toNat = 0 → fFN w.toNat < 32 → a < 2 ^ 48 → meshAligned a k = true → 8 ≤ outst s n →
        exec (.ldx b w) s = .next s)
    ∧ (w = 0 → outst s n = 0 → exec (.fence b w) s = .next (s.stepped n))
    ∧ (w = 0 → outst s n ≠ 0 → exec (.fence b w) s = .next s)

/-- Branches and jumps (R234, R236, R240): a taken transfer to an address that R234 allows sets the program counter to it,
one that is not taken steps it, and nothing else changes; a target outside traps with cause 5. -/
def Obligations.BranchesAndJumps : Prop :=
  ∀ (s : State) (b : Blk) (w : BitVec 24), s.plain b.toNat = true →
    let n := b.toNat
    let x := s.regBits n (fD w.toNat)
    let br : Int := pcOf s n + 8 * (w.setWidth 18).toInt
    let jp : Int := pcOf s n + 8 * w.toInt
    let ra := (s.regBits n (fS w.toNat)).toNat
    (x = 0 → pcOk br = true → exec (.bz b w) s = .next (setPc s n br.toNat))
    ∧ (x ≠ 0 → exec (.bz b w) s = .next (s.stepped n))
    ∧ (x ≠ 0 → pcOk br = true → exec (.bnz b w) s = .next (setPc s n br.toNat))
    ∧ (x = 0 → exec (.bnz b w) s = .next (s.stepped n))
    ∧ (pcOk jp = true → exec (.j b w) s = .next (setPc s n jp.toNat))
    ∧ (pcOk jp = false → exec (.j b w) s = .next (endStep (trapAt s n 5 (wrap 64 jp)) n))
    ∧ (fD w.toNat = 0 → fU w.toNat = 0 → fFN w.toNat = 0 → pcOk ra = true → exec (.jr b w) s = .next (setPc s n ra))

/-- CALL without a spill (R253): the call record with the mask and the return address at the new CSP, the globals of the
mask after it, and the next window.
RET without a fill (R254): the program counter, the globals and the window of the caller come back. RETI without a
fill (R272): so do the depth, the interrupt enable, REPF and NCY from the frame of the entry. What the rules leave open
here follows log entries 13 and 14. -/
def Obligations.CallsAndReturns : Prop :=
  (∀ (s : State) (b : Blk) (w : BitVec 24), s.plain b.toNat = true →
    let n := b.toNat
    let mask := bits w.toNat 23 8
    let tr := bits w.toNat 7 2
    let size := 16 * (1 + popMask mask)
    let csp := 16 * rgF s (R.STKP n) R.STKP_CSP
    let cs := csp - size
    let gs := maskRegs mask
    bits w.toNat 1 0 = 0 → mask.testBit 0 = false → tr < 48 → pcOk (rd s n tr) = true → size ≤ csp → csp ≤ 0x80000 →
    rgF s (R.PSR n) R.PSR_RESF ≤ 9 → rgF s (R.PSR n) R.PSR_CURF < 12 → rgF s (R.PSR n) R.PSR_DEPTH < 4095 →
      ∃ t, exec (.call b w) s = .next t ∧ pcOf t n = rd s n tr
        ∧ 16 * rgF t (R.STKP n) R.STKP_CSP = cs
        ∧ rgF t (R.PSR n) R.PSR_CURF = (rgF s (R.PSR n) R.PSR_CURF + 1) % 12
        ∧ rgF t (R.PSR n) R.PSR_RESF = rgF s (R.PSR n) R.PSR_RESF + 1
        ∧ rgF t (R.PSR n) R.PSR_DEPTH = rgF s (R.PSR n) R.PSR_DEPTH + 1
        ∧ spWord t n cs = mask * 2 ^ 48 + pcOf s n + 8
        ∧ (∀ i, i < gs.length → spWord t n (cs + 16 * (i + 1)) = readId s n (0xC0 + gs.getD i 0))
        ∧ (∀ a, (a < bwin n + cs ∨ bwin n + csp ≤ a) → memDigit t.mem a = memDigit s.mem a))
  ∧ (∀ (s : State) (b : Blk), s.plain b.toNat = true →
    let n := b.toNat
    let csp := 16 * rgF s (R.STKP n) R.STKP_CSP
    let isp := 16 * rgF s (R.STKP n) R.STKP_ISP
    let r0 := spWord s n csp
    let mask := bits r0 63 48
    let gs := maskRegs mask
    let w0 := spWord s n isp
    let ig := bits w0 63 48
    let is := maskRegs ig
    (0 < rgF s (R.PSR n) R.PSR_DEPTH → csp + 16 * (1 + popMask mask) ≤ 0x80000 → 1 ≤ rgF s (R.PSR n) R.PSR_RESF →
      rgF s (R.PSR n) R.PSR_CURF < 12 → pcOk (bits r0 19 0 : Nat) = true →
      ∃ t, exec (.ret b 0) s = .next t ∧ pcOf t n = bits r0 19 0
        ∧ 16 * rgF t (R.STKP n) R.STKP_CSP = csp + 16 * (1 + popMask mask)
        ∧ rgF t (R.PSR n) R.PSR_CURF = (rgF s (R.PSR n) R.PSR_CURF + 11) % 12
        ∧ rgF t (R.PSR n) R.PSR_RESF = rgF s (R.PSR n) R.PSR_RESF - 1
        ∧ rgF t (R.PSR n) R.PSR_DEPTH = rgF s (R.PSR n) R.PSR_DEPTH - 1
        ∧ (∀ i, i < gs.length → gs.getD i 0 ≠ 0 → readId t n (0xC0 + gs.getD i 0) = spWord s n (csp + 16 * (i + 1)))
        ∧ t.mem = s.mem)
    ∧ (0 < rgF s (R.PSR n) R.PSR_DEPTH → csp + 16 * (1 + popMask mask) ≤ 0x80000 → pcOk (bits r0 19 0 : Nat) = false →
      (1 ≤ rgF s (R.PSR n) R.PSR_RESF ∨ rgF s (R.WSTK n) R.WSTK_WSP < 0x800) →
      exec (.ret b 0) s = .next (endStep (trapAt s n 5 (bits r0 19 0)) n))
    ∧ (0x80000 < csp + 16 → exec (.ret b 0) s = .next (endStep (trapAt s n 4 csp) n))
    ∧ (csp + 16 * (1 + popMask mask) ≤ 0x80000 → rgF s (R.PSR n) R.PSR_DEPTH = 0 →
      (1 ≤ rgF s (R.PSR n) R.PSR_RESF ∨ rgF s (R.WSTK n) R.WSTK_WSP < 0x800) →
      exec (.ret b 0) s = .next (endStep (trapAt s n 8 0) n))
    ∧ (isp + 16 * (8 + popMask ig) ≤ 0x80000 → 2 ≤ rgF s (R.PSR n) R.PSR_RESF → rgF s (R.PSR n) R.PSR_CURF < 12 → pcOk (bits w0 19 0 : Nat) = true →
      (seqOf s n).susp = none → (spWord s n (isp + 64)).testBit 63 = false → (spWord s n (isp + 96)).testBit 63 = false →
      ∃ t, exec (.reti b 0) s = .next t ∧ pcOf t n = bits w0 19 0
        ∧ 16 * rgF t (R.STKP n) R.STKP_ISP = isp + 16 * (8 + popMask ig)
        ∧ rgF t (R.PSR n) R.PSR_CURF = (rgF s (R.PSR n) R.PSR_CURF + 10) % 12
        ∧ rgF t (R.PSR n) R.PSR_RESF = rgF s (R.PSR n) R.PSR_RESF - 2
        ∧ rgF t (R.PSR n) R.PSR_DEPTH = (rgF s (R.PSR n) R.PSR_DEPTH + 4095) % 4096
        ∧ rgF t (R.PSR n) R.PSR_IE = bits (spWord s n (isp + 16)) 0 0
        ∧ rgF t (R.PSR n) R.PSR_REPF = bits w0 46 46
        ∧ rgF t (R.NCY n) R.NCY_NCY = bits (spWord s n (isp + 32)) 63 48
        ∧ rgF t (R.REPC n) R.REPC_COUNT = (if w0.testBit 46 then bits w0 45 34 else rgF s (R.REPC n) R.REPC_COUNT)
        ∧ (seqOf t n).resv = none
        ∧ (∀ i, i < is.length → is.getD i 0 ≠ 0 → readId t n (0xC0 + is.getD i 0) = spWord s n (isp + 16 * (8 + i)))))

/-- Loops and repetition (R256, R259).
A repeated instruction: while REPF is set, an instruction that completes counts REPC down and stays, and the last one
clears REPF and goes on (R259). What the rules leave open here follows log entry 12. -/
def Obligations.LoopsAndRepetition : Prop :=
  (∀ (s : State) (b : Blk) (w : BitVec 24) (l : Nat), s.plain b.toNat = true →
    let n := b.toNat
    let pc := pcOf s n
    let opened (c len : Nat) (t : State) : Prop :=
      pcOf t n = pc + 8 ∧ rg t (R.LS n l) = pc + 8 ∧ rg t (R.LE n l) = pc + 8 * len ∧ rg t (R.LC n l) = c
      ∧ loopAct t n l = true ∧ rgF t (R.LSTAT n) (tagFld l) = rgF s (R.PSR n) R.PSR_DEPTH
    ((List.range 4).find? (fun k => !loopAct s n k) = some l →
      (bits w.toNat 17 16 = 0 → imm16 w.toNat ≠ 0 → pc + 8 * imm16 w.toNat ≤ 0x7FFF8 → rd s n (fD w.toNat) % 2 ^ 32 ≠ 0 →
        ∃ t, exec (.loop b w) s = .next t ∧ opened (rd s n (fD w.toNat) % 2 ^ 32) (imm16 w.toNat) t)
      ∧ (bits w.toNat 17 16 = 0 → imm16 w.toNat ≠ 0 → pc + 8 * imm16 w.toNat < 0x7FFF8 →
          rd s n (fD w.toNat) % 2 ^ 32 = 0 → exec (.loop b w) s = .next (setPc s n (pc + 8 * imm16 w.toNat + 8)))
      ∧ (bits w.toNat 11 0 ≠ 0 → pc + 8 * bits w.toNat 11 0 ≤ 0x7FFF8 → bits w.toNat 23 12 ≠ 0 →
        ∃ t, exec (.loopi b w) s = .next t ∧ opened (bits w.toNat 23 12) (bits w.toNat 11 0) t))
    ∧ (bits w.toNat 11 0 = 0 → bits w.toNat 23 12 ≠ 0 →
        exec (.rep b w) s = .next (setPc (setB (setF s (R.REPC n) R.REPC_COUNT (bits w.toNat 23 12)) (R.PSR n) R.PSR_REPF true)
          n (pc + 8)))
    ∧ (fD w.toNat = 0 → fU w.toNat = 0 → fFN w.toNat = 0 → rd s n (fS w.toNat) % 4096 ≠ 0 →
        exec (.repr b w) s = .next (setPc (setB (setF s (R.REPC n) R.REPC_COUNT (rd s n (fS w.toNat) % 4096)) (R.PSR n)
          R.PSR_REPF true) n (pc + 8)))
    ∧ (fD w.toNat = 0 → fU w.toNat = 0 → fFN w.toNat = 0 → rd s n (fS w.toNat) % 4096 = 0 →
        exec (.repr b w) s = .next (setPc (setF s (R.REPC n) R.REPC_COUNT 0) n (pc + 16))))
  ∧ (∀ (s : State) (b : Blk) (w : BitVec 24), s.plain b.toNat = true → fFN w.toNat = 0 →
    let n := b.toNat
    let s1 (k : Nat) : State := setB (setF s (R.REPC n) R.REPC_COUNT k) (R.PSR n) R.PSR_REPF true
    let v := s.regBits n (fS w.toNat) ^^^ s.regBits n (fU w.toNat)
    (∀ k, 2 ≤ k → k < 4096 →
      exec (.xor b w) (s1 k) = .next (setF (wr (s1 k) n (fD w.toNat) v.toNat) (R.REPC n) R.REPC_COUNT (k - 1)))
    ∧ (∃ t, exec (.xor b w) (s1 1) = .next t ∧ pcOf t n = pcOf s n + 8 ∧ rgB t (R.PSR n) R.PSR_REPF = false
        ∧ rgF t (R.REPC n) R.REPC_COUNT = 0))

/-- TRAP, BKPT without BKPTEN and a reserved opcode take a trap entry (R239, R269, R271): the frame on the interrupt
stack, TCAUSE and TVAL, two windows on, interrupts disabled, the program counter at the vector.
What a boundary takes (R268, R270, R271): INTERRUPT_ENTRY enters with the lowest eligible source of the lowest block,
whose PEND clears and ACT sets, else for the oldest interrupt that a member of the cascade has forwarded (R434); MESH_TRAP
enters for the oldest failed response, marked imprecise. What the rules leave open here follows log entry 14. -/
def Obligations.Entries : Prop :=
  (∀ (s : State) (b : Blk) (w : BitVec 24) (op : BitVec 8), s.plain b.toNat = true → s.entryReady b.toNat = true →
    let n := b.toNat
    (bits w.toNat 23 16 = 0 →
      ∃ t, exec (.trap b w) s = .next t ∧ s.enteredAs t n 0x0E 2 (imm16 w.toNat) (pcOf s n + 8))
    ∧ (bits w.toNat 23 16 = 0 → rgB s (R.DBG_CTRL n) R.DBG_CTRL_BKPTEN = false →
      ∃ t, exec (.bkpt b w) s = .next t ∧ s.enteredAs t n 0x0F 3 (imm16 w.toNat) (pcOf s n))
    ∧ (assignedOp op.toNat = false → patched s op.toNat = false →
      ∃ t, exec (.reservedOpcode b op w) s = .next t ∧ s.enteredAs t n 2 1 (wordOf op.toNat w) (pcOf s n))
    ∧ (assignedOp op.toNat = true → exec (.reservedOpcode b op w) s = .next s))
  ∧ (∀ (s : State) (b : Blk), atBoundary s b.toNat = true → s.entryReady b.toNat = true → (seqOf s b.toNat).stepping = false →
    (seqOf s b.toNat).waiting = false → haltPending s b.toNat = false → (seqOf s b.toNat).susp = none →
    let n := b.toNat
    (∀ c k, rgB s (R.PSR n) R.PSR_IE = true → (seqOf s n).meshTraps = [] → irqFor s n = some (c, k) →
      ∃ t, exec (.interruptEntry b) s = .next t ∧ s.enteredAs t n 1 0 (c * 2 ^ 16 + k) (pcOf s n)
        ∧ (rg t (R.BIC_PEND c)).testBit k = false ∧ (rg t (R.BIC_ACT c)).testBit k = true)
    ∧ (∀ e r, (seqOf s n).meshTraps = e :: r →
      ∃ t, exec (.meshTrap b) s = .next t ∧ s.enteredAs t n 0x10D 2 (e.1.toNat * 2 ^ 56 + e.2.toNat) (pcOf s n)
        ∧ (seqOf t n).meshTraps = r)
    ∧ (∀ e r, rgB s (R.PSR n) R.PSR_IE = true → (seqOf s n).meshTraps = [] → irqFor s n = none → fwdFor s n = e :: r →
      ∃ t, exec (.interruptEntry b) s = .next t ∧ s.enteredAs t n 1 0 (e.2.1.toNat * 2 ^ 16 + e.2.2.toNat) (pcOf s n)
        ∧ t.rein.fwd = r)
    ∧ (rgB s (R.PSR n) R.PSR_IE = false → exec (.interruptEntry b) s = .next s))

/-- Halts and waits (R229, R273, R434, R507, R508): a breakpoint under BKPTEN and a halt that is taken leave every block of the
program halted with its cause, and the halt clears the requests; WAIT goes on at once when a source, a member's forwarded one too, is pending and waits
otherwise, and WAIT_COMPLETE ends the wait. What the rules leave open here follows log entry 3. -/
def Obligations.HaltsAndWaits : Prop :=
  ∀ (s : State) (b : Blk) (w : BitVec 24),
    let n := b.toNat
    (s.plain n = true → bits w.toNat 23 16 = 0 → rgB s (R.DBG_CTRL n) R.DBG_CTRL_BKPTEN = true →
      ∃ t, exec (.bkpt b w) s = .next t ∧ pcOf t n = pcOf s n + 8
        ∧ ∀ c ∈ gang s n, rgB t (R.DBG_STATUS c) R.DBG_STATUS_HALTED = true ∧ rgF t (R.DBG_STATUS c) R.DBG_STATUS_CAUSE = 2)
    ∧ (atBoundary s n = true → haltPending s n = true →
      ∃ t, exec (.haltTaken b) s = .next t
        ∧ ∀ c ∈ gang s n, rgB t (R.DBG_STATUS c) R.DBG_STATUS_HALTED = true ∧ rgF t (R.DBG_STATUS c) R.DBG_STATUS_CAUSE = 1
            ∧ rgB t (R.DBG_CTRL c) R.DBG_CTRL_HALTREQ = false)
    ∧ (s.plain n = true → (irqPending s n = true ∨ fwdFor s n ≠ []) → exec (.wait b 0) s = .next (s.stepped n))
    ∧ (s.plain n = true → irqPending s n = false → fwdFor s n = [] →
        exec (.wait b 0) s = .next (updSeq s n fun q => { q with waiting := true }))
    ∧ (executing s n = true → (seqOf s n).waiting = true → (seqOf s n).epochReq = false → (seqOf s n).epochStop = false →
        (irqPending s n = true ∨ fwdFor s n ≠ []) → (seqOf s n).loads = [] → (seqOf s n).exit = none → (seqOf s n).stepping = false →
        examined s n = [] → rgB s (R.PSR n) R.PSR_REPF = false →
        exec (.waitComplete b) s = .next ((updSeq s n fun q => { q with waiting := false }).stepped n))
    ∧ (irqPending s n = false → fwdFor s n = [] → exec (.waitComplete b) s = .next s)

/-- Control registers by their numbers (R274): MFC reads the register, MTC writes the fields that software may write, the
number 0x30 of TIMEBASE is read-only, and an unassigned number traps with ILLEGAL. -/
def Obligations.ControlRegisters : Prop :=
  ∀ (s : State) (b : Blk) (w : BitVec 24), s.plain b.toNat = true →
    let n := b.toNat
    let k := fFN w.toNat
    let v := rd s n (fS w.toNat)
    let s1 := mtcWrite s n k v
    (∀ a, fS w.toNat = 0 → fU w.toNat = 0 → ctlAddr n k = some a →
      exec (.mfc b w) s = .next (s.withResult n (fD w.toNat) (BitVec.ofNat 64 (readReg s a))))
    ∧ (∀ a, fD w.toNat = 0 → fU w.toNat = 0 → ctlAddr n k = some a → (k = 0x23 → v.testBit 4 = false) →
        examined s1 n = [] → rgB s1 (R.PSR n) R.PSR_REPF = false → exec (.mtc b w) s = .next (s1.stepped n))
    ∧ (∀ a, ctlAddr n k = some a → k ≠ 0x30 → (k = 0x23 → v.testBit 4 = false) →
        rg s1 a = writtenReg s a (2 ^ 64 - 1) v)
    ∧ (fD w.toNat = 0 → fU w.toNat = 0 → k = 0x30 → exec (.mtc b w) s = .next (s.stepped n))
    ∧ (ctlAddr n k = none → fS w.toNat = 0 → fU w.toNat = 0 →
        exec (.mfc b w) s = .next (endStep (trapAt s n 3 (wordOf 0x50 w)) n))

/-- The packed and BCD instructions of a register (R260-R262): a result in D with its flags in SFLAG, a data exception
leaves D and sets flag 5.
DADJ after an addition of two BCD registers, one of them raised by 6 in each digit, leaves their BCD sum (R262): 
with the nibble carries of that addition, each digit is right and FN[0] gives the carry out. What the rules leave open
here follows log entry 65. -/
def Obligations.ScalarPackedResults : Prop :=
  (∀ (s : State) (b : Blk) (w : BitVec 24), s.plain b.toNat = true →
    let n := b.toNat
    let fn := fFN w.toNat
    let d := fD w.toNat
    let x := rd s n (fS w.toNat)
    let y := rd s n (fU w.toNat)
    let dctl := rg s (R.DCTL n)
    let put (v : Nat) (fl : Nat) : State := (setSflag s n fl).withResult n d (BitVec.ofNat 64 v)
    let exc : State := (setSflag s n 32).stepped n
    (∀ p q, packedVal dctl x 15 = some p → packedVal dctl y 15 = some q → fn = 0 →
      exec (.padd b w) s = .next (put (packedOf dctl 15 false (intNeg (smInt p + smInt q)) (smInt p + smInt q).natAbs).1
        (packedOf dctl 15 false (intNeg (smInt p + smInt q)) (smInt p + smInt q).natAbs).2)
      ∧ exec (.psub b w) s = .next (put (packedOf dctl 15 false (intNeg (smInt p - smInt q)) (smInt p - smInt q).natAbs).1
        (packedOf dctl 15 false (intNeg (smInt p - smInt q)) (smInt p - smInt q).natAbs).2))
    ∧ (∀ p q, packedVal dctl x 15 = some p → packedVal dctl y 15 = some q → fn < 6 →
        exec (.pcmp b w) s = .next (put (b2n (relInt fn (smInt p) (smInt q))) 0))
    ∧ (packedVal dctl x 15 = none → fn = 0 → exec (.padd b w) s = .next exc ∧ exec (.psub b w) s = .next exc)
    ∧ (packedVal dctl x 15 = none → fn < 6 → exec (.pcmp b w) s = .next exc)
    ∧ (∀ p, packedVal dctl x 15 = some p → fn = 0 → fU w.toNat = 0 → exec (.pcvt b w) s = .next (put (wrap 64 (smInt p)) 0))
    ∧ (fn = 1 → fU w.toNat = 0 → exec (.pcvt b w) s
        = .next (put (packedOf dctl 15 false (intNeg (sgn 64 x)) (sgn 64 x).natAbs).1
          (packedOf dctl 15 false (intNeg (sgn 64 x)) (sgn 64 x).natAbs).2))
    ∧ (∀ a m c, bcdVal 16 x = some a → bcdVal 1 y = some m → bcdVal 1 (y / 16) = some c → fn ≤ 1 →
        exec (.pmulD b w) s = .next (put (if fn = 1 then (a * m + c) / 10 ^ 16 else bcdOf 16 (a * m + c)) 0))
    ∧ (fn = 0 → 0 ≤ sgn 64 y → sgn 64 y < 16 → exec (.pshlD b w) s = .next (put (x * 16 ^ y % 2 ^ 64) 0))
    ∧ (fn = 0 → sgn 64 y < 0 → -16 < sgn 64 y → exec (.pshlD b w) s = .next (put (x / 16 ^ (sgn 64 y).natAbs) 0))
    ∧ (fn ≤ 1 → fU w.toNat = 0 → exec (.dadj b w) s = .next (put (dadjVal (rgF s (R.NCY n) R.NCY_NCY) x (decide (fn = 1))) 0)))
  ∧ (∀ (x y a c : Nat), bcdVal 16 x = some a → bcdVal 16 y = some c →
    let x6 := (x + 0x6666666666666666) % 2 ^ 64
    let ncy := nibbleCarries x6 y
    bcdVal 16 (dadjVal ncy ((x6 + y) % 2 ^ 64) false) = some ((a + c) % 10 ^ 16)
      ∧ dadjVal ncy ((x6 + y) % 2 ^ 64) true = (a + c) / 10 ^ 16)

/-- The scalar decimal floating-point instructions (R206, R263, R264): D takes the rounded result in the format of
FN[0] and SFLAG its flags; DCMP gives 1 or 0, DCVT the converted value, if there is one.
A sum that raises no inexact flag is exact (R187, R189): the finite result has the value of the operands' sum. What
the rules leave open here follows log entry 65. -/
def Obligations.ScalarFloatResults : Prop :=
  (∀ (s : State) (b : Blk) (w : BitVec 24), s.plain b.toNat = true →
    let n := b.toNat
    let wd := w.getLsbD 0
    let d := fD w.toNat
    let f := decFmt wd
    let m := rgF s (R.DCTL n) R.DCTL_RM
    let x := decReg s n wd (fS w.toNat)
    let y := decReg s n wd (fU w.toNat)
    let put (r : DNum × Nat) : State := (putDecReg (setSflag s n r.2) n wd d (decWrite wd r.1)).stepped n
    (fFN w.toNat ≤ 1 → decRegOk wd d = true → decRegOk wd (fS w.toNat) = true → decRegOk wd (fU w.toNat) = true →
      exec (.dadd b w) s = .next (put (dAdd f m x y))
      ∧ exec (.dsub b w) s = .next (put (dAdd f m x y.neg))
      ∧ exec (.dmul b w) s = .next (put (dMul f m x y))
      ∧ exec (.ddiv b w) s = .next (put (dDiv f m x y))
      ∧ exec (.dfma b w) s = .next (put (dFma f m x y (decReg s n wd d)))
      ∧ exec (.dqua b w) s = .next (put (dQuantize f m x y)))
    ∧ (bits w.toNat 3 1 ≠ 7 → w.getLsbD 5 = false → decRegOk wd (fS w.toNat) = true → decRegOk wd (fU w.toNat) = true →
      exec (.dcmp b w) s = .next ((setSflag s n (dCompare (bits w.toNat 3 1) (w.getLsbD 4) x y).2).withResult n d
        (if (dCompare (bits w.toNat 3 1) (w.getLsbD 4) x y).1 then 1 else 0)))
    ∧ (∀ v fl, cvtOk w.toNat = true → cvtVal s n w.toNat = (some v, fl) →
      exec (.dcvt b w) s
        = .next ((putDecReg (setSflag s n fl) n ((cvtRegs w.toNat).1.getD false) d v).stepped n))
    ∧ (∀ fl, cvtOk w.toNat = true → cvtVal s n w.toNat = (none, fl) →
      exec (.dcvt b w) s = .next ((setSflag s n fl).stepped n)))
  ∧ (∀ (wide : Bool) (m : Nat) (n1 n2 n : Bool) (c1 c2 c : Nat) (q1 q2 q : Int) (fl : Nat),
    dAdd (decFmt wide) m (.fin n1 c1 q1) (.fin n2 c2 q2) = (.fin n c q, fl) → fl.testBit 4 = false →
    let q0 := min q (min q1 q2)
    smInt (n, c * 10 ^ (q - q0).toNat)
      = smInt (n1, c1 * 10 ^ (q1 - q0).toNat) + smInt (n2, c2 * 10 ^ (q2 - q0).toNat))

/-- Reading a decimal64 or decimal128 encoding after writing it gives the number back, for every sign, coefficient and
exponent that the format has (R164, R185, R186).
A packed result reads back as the number it stands for, with no flag, when it has no more digits than its field and
the preferred sign codes read as what they stand for (R163, R175, R177). -/
def Obligations.DecimalEncodingsAgree : Prop :=
  (∀ (wide neg : Bool) (c : Nat) (q : Int), c < 10 ^ (decFmt wide).p → (decFmt wide).etiny ≤ q → q ≤ (decFmt wide).qmax →
    decRead wide (decWrite wide (.fin neg c q)) = .fin neg c q
      ∧ decRead wide (decWrite wide (.inf neg)) = .inf neg ∧ decRead wide (decWrite wide .qnan) = .qnan)
  ∧ (∀ (dctl d : Nat) (neg : Bool) (x : Nat), x < 10 ^ d → signMinus dctl (bits dctl 63 60) = some false →
    signMinus dctl (bits dctl 59 56) = some true →
    packedVal dctl (packedOf dctl d false neg x).1 d = some (neg && x != 0, x) ∧ (packedOf dctl d false neg x).2 = 0
      ∧ packedVal dctl (packedOf dctl d true neg x).1 d = some (neg && x != 0, x))

/-! ### Array instructions (chapters 4, 5, 6) -/

/-- The binary array instructions (R127-R134, R140-R143): each active cell of the program's blocks takes the result in D
and nothing else outside the progress planes, inactive cells keep their planes; T takes the overflow under TOV; ACMP and
ATAG change T or A alone. What the rules leave open here follows log entry 10. -/
def Obligations.ArrayBinaryResults : Prop :=
  ∀ (s : State) (b : Blk) (w : BitVec 24), s.arrPlain b.toNat = true →
    let n := b.toNat
    let x (op : Nat) : ACtx := freshCtx s n (wordOf op w)
    let arith (c : Instr) (op : Nat) (f : Int → Int → Int) : Prop :=
      ∃ t, exec c s = .next t ∧ s.arrDone t n ∧ s.everyCell t n (fun _ _ y z =>
        (y.a = true → y.wrote z (descOf (x op).d) (f (y.int (descOf (x op).s)) (y.int (descOf (x op).u))))
        ∧ (y.a = false → y.kept z)
        ∧ z.t = (if w.getLsbD 0 then
            y.a && outside (descOf (x op).d) (f (y.int (descOf (x op).s)) (y.int (descOf (x op).u))) else y.t))
    (addOk (x 0x88) true = true → arith (.aadd b w) 0x88 (fun p q => p + q))
    ∧ (addOk (x 0x89) true = true → arith (.asub b w) 0x89 (fun p q => p - q))
    ∧ (addOk (x 0x8A) false = true → arith (.aneg b w) 0x8A (fun p _ => -p))
    ∧ (mulOk (x 0x8B) 1 = true → arith (.amul b w) 0x8B (fun p q => p * q))
    ∧ (addOk (x 0x88) true = false → exec (.aadd b w) s = .next (endStep (trapAt s n 0x0B (wordOf 0x88 w)) n))
    ∧ (mulOk (x 0x8C) 3 = true → ∃ t, exec (.adiv b w) s = .next t ∧ s.arrDone t n ∧ s.everyCell t n (fun _ _ y z =>
        let u := y.int (descOf (x 0x8C).u)
        (y.a = true → u ≠ 0 → y.wrote z (descOf (x 0x8C).d)
          (if w.getLsbD 1 then Int.tmod (y.int (descOf (x 0x8C).s)) u else Int.tdiv (y.int (descOf (x 0x8C).s)) u))
        ∧ (y.a = true → u = 0 → z.plane 2041 = true ∧ z.t = true) ∧ (y.a = false → y.kept z)))
    ∧ (binOk (x 0x8D).s = true → binOk (x 0x8D).u = true → aD w.toNat = 0 → optIn (wordOf 0x8D w) 15 = true →
        w.toNat % 8 < 6 → srcOk (descOf (x 0x8D).s) = true → srcOk (descOf (x 0x8D).u) = true →
        ∃ t, exec (.acmp b w) s = .next t ∧ s.arrDone t n ∧ s.everyCell t n (fun _ _ y z =>
          let r := relInt (w.toNat % 8) (y.int (descOf (x 0x8D).s)) (y.int (descOf (x 0x8D).u))
          y.sameBut z 0 0 ∧ (if w.getLsbD 3 then z.a = (y.a && r) ∧ z.t = y.t else z.a = y.a ∧ z.t = (r && y.a))))
    ∧ (atagOk (x 0x84) = true → ∃ t, exec (.atag b w) s = .next t ∧ s.arrDone t n ∧ s.everyCell t n (fun _ _ y z =>
        let p := y.plane (bits (x 0x84).s 10 0)
        y.kept z ∧ z.t = (match w.toNat % 4 with | 0 => false | 1 => y.a | 2 => p && y.a | _ => !p && y.a)))

/-- ALOG, AMOV, ASPL and AACT (R132-R135). What the rules leave open here follows log entry 10. -/
def Obligations.ArrayLogicResults : Prop :=
  ∀ (s : State) (b : Blk) (w : BitVec 24), s.arrPlain b.toNat = true →
    let n := b.toNat
    let x (op : Nat) : ACtx := freshCtx s n (wordOf op w)
    (alogOk (x 0x80) = true → ∃ t, exec (.alog b w) s = .next t ∧ s.arrDone t n ∧ s.everyCell t n (fun _ _ y z =>
        let d := descOf (x 0x80).d
        (y.a = true → y.sameBut z d.base d.len ∧ z.a = true ∧ z.t = y.t ∧ ∀ j, j < d.len →
          z.plane (d.base + j) = w.getLsbD (4 * b2n (y.plane (d.base + j)) + 2 * b2n (y.bitExt (descOf (x 0x80).s) j)
            + b2n (!w.getLsbD 8 && y.bitExt (descOf (x 0x80).u) j)))
        ∧ (y.a = false → y.kept z ∧ z.t = y.t)))
    ∧ (binOk (x 0x81).d = true → binOk (x 0x81).s = true → aU w.toNat = 0 → optIn (wordOf 0x81 w) 0 = true →
        dstOk (descOf (x 0x81).d) = true → srcOk (descOf (x 0x81).s) = true →
        overlapOk (descOf (x 0x81).d) (descOf (x 0x81).s) false = true →
        ∃ t, exec (.amov b w) s = .next t ∧ s.arrDone t n ∧ s.everyCell t n (fun _ _ y z =>
          (y.a = true → y.wrote z (descOf (x 0x81).d) (y.int (descOf (x 0x81).s)) ∧ z.t = y.t)
          ∧ (y.a = false → y.kept z ∧ z.t = y.t)))
    ∧ (binOk (x 0x82).d = true → dstOk (descOf (x 0x82).d) = true → aU w.toNat = 0 → optIn (wordOf 0x82 w) 0 = true →
        ∃ t, exec (.aspl b w) s = .next t ∧ s.arrDone t n ∧ s.everyCell t n (fun _ _ y z =>
          (y.a = true → y.wrote z (descOf (x 0x82).d)
            (if (descOf (x 0x82).d).sgn then sgn 64 (x 0x82).s else (x 0x82).s) ∧ z.t = y.t)
          ∧ (y.a = false → y.kept z ∧ z.t = y.t)))
    ∧ (aactOk (x 0x83) = true → ∃ t, exec (.aact b w) s = .next t ∧ s.arrDone t n ∧ s.everyCell t n (fun _ _ y z =>
        let p := y.plane (bits (x 0x83).s 10 0)
        (w.toNat % 8 ≠ 6 → y.sameBut z 0 0 ∧ z.t = y.t ∧ z.a = (match w.toNat % 8 with
          | 0 => true | 1 => y.t | 2 => y.a && y.t | 3 => y.a && !y.t | 4 => p | 5 => y.a && p | _ => !y.a))
        ∧ (w.toNat % 8 = 6 → y.sameBut z (bits (x 0x83).s 10 0) 1 ∧ z.a = y.a ∧ z.t = y.a
            ∧ z.plane (bits (x 0x83).s 10 0) = y.a)))

/-- The ganged instructions on groups of cells (R106-R109, R144): each active cell takes its bit of every word of the
group's result; in a serial block, the sum bit of its own two bits of that word (R145). -/
def Obligations.GangedResults : Prop :=
  ∀ (s : State) (b : Blk) (w : BitVec 24), s.arrPlain b.toNat = true →
    let n := b.toNat
    let x (op : Nat) : ACtx := freshCtx s n (wordOf op w)
    let arith (c : Instr) (op : Nat) (f : Int → Int → Int) : Prop :=
      ∃ t, exec c s = .next t ∧ s.arrDone t n ∧ s.everyCell t n (fun c i y z =>
        let d := descOf (x op).d
        let g := gangWidth s c
        let v := f (groupInt s c i g (descOf (x op).s)) (groupInt s c i g (descOf (x op).u))
        (y.a = true → y.sameBut z d.base d.len ∧ z.a = true ∧ ∀ j, j < d.len →
          z.plane (d.base + j) = if g = 1 then
              y.plane ((descOf (x op).s).base + j) ^^ y.plane ((descOf (x op).u).base + j)
            else (wrap (g * d.len) v).testBit (g * j + (g - 1 - i % 128 % g)))
        ∧ (y.a = false → y.kept z)
        ∧ z.t = (if w.getLsbD 0 then y.a && i % 128 % g == 0 && outside { d with len := g * d.len } v else y.t))
    (gangOk (x 0x8E) false = true → arith (.aaddg b w) 0x8E (fun p q => p + q))
    ∧ (gangOk (x 0x8F) false = true → arith (.asubg b w) 0x8F (fun p q => p - q))
    ∧ (gangOk (x 0x90) true = true → ∃ t, exec (.acmpg b w) s = .next t ∧ s.arrDone t n ∧ s.everyCell t n (fun c i y z =>
        let g := gangWidth s c
        y.kept z ∧ z.t = (y.a && i % 128 % g == 0 &&
          relInt (w.toNat % 8) (groupInt s c i g (descOf (x 0x90).s)) (groupInt s c i g (descOf (x 0x90).u)))))

/-- Broadcast and movement (R137-R139): ABRD loads the broadcast registers of every block of the program; ABCP copies
the net's X into D; ASHF takes S of the cell COUNT steps away, or what its edge gives. Each acts once what it takes from other
devices of a LOCKSTEP cascade partition is there, and waits for it otherwise (R103, R435). What the rules leave open here follows log entries 10 and 88. -/
def Obligations.ArrayMovement : Prop :=
  ∀ (s : State) (b : Blk) (w : BitVec 24), s.arrPlain b.toNat = true →
    let n := b.toNat
    let x (op : Nat) : ACtx := freshCtx s n (wordOf op w)
    (aD w.toNat = 0 → optIn (wordOf 0x85 w) 1 = true →
      ∃ t, exec (.abrd b w) s = .next t ∧ pcOf t n = pcOf s n + 8 ∧ t.cells = s.cells ∧ t.mem = s.mem
        ∧ ∀ c ∈ gang s n, seqOf t c = (let v := BitVec.ofNat 128 ((x 0x85).s * 2 ^ 64 + (x 0x85).u)
            if w.getLsbD 0 then { seqOf s c with cbr := v } else { seqOf s c with rbr := v }))
    ∧ (binOk (x 0x86).d = true → binOk (x 0x86).s = true → aU w.toNat = 0 → optIn (wordOf 0x86 w) 1 = true →
        (descOf (x 0x86).d).len = 1 → (descOf (x 0x86).s).len = 1 → dstOk (descOf (x 0x86).d) = true →
        srcOk (descOf (x 0x86).s) = true → overlapOk (descOf (x 0x86).d) (descOf (x 0x86).s) false = true →
        let s1 := forEach (gang s n) (fun s c => mapActive s c fun _ y => { y with x := y.plane (bits (x 0x86).s 10 0) }) s
        let p := (partOf s n).getD 0
        let here := (if w.getLsbD 0 then [0, 2] else [1, 3]).all (netsHere s p)
        ((cascadePart s p = true → lockstep s p = true → here = true) →
          ∃ t, exec (.abcp b w) s = .next t ∧ s.arrDone t n ∧ s.everyCell t n (fun c i y z =>
            let src := netSrc s1 c (if w.getLsbD 0 then i % 128 else i / 128) (w.getLsbD 0)
            (y.a = true → y.sameBut z (descOf (x 0x86).d).base 1 ∧ z.a = true
              ∧ (∀ c2 i2, src = .cell c2 i2 → z.plane (descOf (x 0x86).d).base = (cellAt s1 c2 i2).x)
              ∧ (∀ v, src = .bit v → z.plane (descOf (x 0x86).d).base = v))
            ∧ (y.a = false → y.kept z)))
        ∧ (cascadePart s p = true → lockstep s p = true → here = false →
          ∃ t, exec (.abcp b w) s = .next t ∧ pcOf t n = pcOf s n ∧ (seqOf t n).resume.isSome = true ∧ t.cells = s.cells
            ∧ t.mem = s.mem))
    ∧ (ashfOk (x 0x87) = true →
        let d := descOf (x 0x87).d
        let e := descOf (x 0x87).s
        let dir := (aOpt w.toNat / 128 + 2) % 4
        let eo := aOpt w.toNat / 32 % 4
        let k := bits (x 0x87).u 11 0
        (edgeHere s n dir eo (k * e.len) = k * e.len →
          ∃ t, exec (.ashf b w) s = .next t ∧ s.arrDone t n ∧ s.everyCell t n (fun c i y z =>
            let src := shiftSrc s (gang s n) dir eo k c i
            z.t = y.a ∧ z.a = y.a
            ∧ (y.a = true → y.sameBut z d.base d.len
              ∧ (∀ c2 i2, src.1 = .cell c2 i2 → z.field d.base d.len = (cellAt s c2 i2).field e.base e.len)
              ∧ (∀ v, src.1 = .bit v → z.field d.base d.len = if v then 2 ^ d.len - 1 else 0)
              ∧ (∀ key l, src.1 = .edge key l → lockstep s ((partOf s n).getD 0) = true → ∀ j, j < d.len →
                  z.plane (d.base + j) = edgeBit s key l (src.2.1 * e.len + j)))
            ∧ (y.a = false → y.sameBut z 0 0)))
        ∧ (edgeHere s n dir eo (k * e.len) < k * e.len →
          ∃ t, exec (.ashf b w) s = .next t ∧ pcOf t n = pcOf s n ∧ (seqOf t n).resume.isSome = true ∧ t.cells = s.cells
            ∧ t.mem = s.mem))

/-- Responders, counts and sums (R111-R114, R146-R152). Within the program's own scope AFFS and AENUM write the lowest place
with T = 1, or NONE, to wD; SELA sets A in it alone, and AENUM clears its T; ABAR goes on with the OR of T in its slot, and ASUM
stores the sum of the active cells. AOR and ACNT leave their request in the slot of every block, a combine delivers the scope's
word, ARDS reads a complete slot. Where a block of the scope belongs to another program, AFFS, AENUM, ABAR and ASUM issue
their request and wait until that block has issued it too (R113). What the rules leave open here follows log entries 9 and 100. -/
def Obligations.RespondersAndSums : Prop :=
  (∀ (s : State) (b : Blk) (w : BitVec 24), s.arrPlain b.toNat = true → partOf s b.toNat ≠ none →
    let n := b.toNat
    let scope := aOpt w.toNat / 128
    let k := aOpt w.toNat / 32 % 4
    let own : Prop := ownScope s n scope = true ∧ scopeCascade s n scope = false
    let apart : Prop := scopeCascade s n scope = false ∧ ∃ c ∈ scopeBlocks s n scope, c ∉ gang s n
      ∧ ∀ j, j < 4 → (slotOf s c j).busy = false
    let waits (t : State) (j : Nat) : Prop := pcOf t n = pcOf s n ∧ (seqOf t n).resume.isSome = true ∧ slotBusy t n j = true
      ∧ t.mem = s.mem
    let dev := if cascadePart s ((partOf s n).getD 0) then myIdx s * 2 ^ 21 else 0
    let tagged (e c i : Nat) : Prop := c ∈ scopeBlocks s e scope ∧ i < 16384 ∧ (cellAt s c i).t = true
    let lowest (e c i : Nat) : Prop := tagged e c i ∧ ∀ c' i', tagged e c' i' → 16384 * c + i ≤ 16384 * c' + i'
    (aS w.toNat = 0 → aU w.toNat = 0 → optIn (wordOf 0x91 w) 0x1C0 = true → scope < 3 → slotBusy s n 3 = false →
      ∀ e ∈ [(Instr.affs b w, false), (Instr.aenum b w, true)],
        (own → ∃ t, exec e.1 s = .next t ∧ pcOf t n = pcOf s n + 8 ∧ t.mem = s.mem
          ∧ (∀ c i, lowest n c i → t.regBits n (aD w.toNat) = BitVec.ofNat 64 (dev + c * 2 ^ 14 + i))
          ∧ ((∀ c i, ¬ tagged n c i) → t.regBits n (aD w.toNat) = BitVec.twoPow 64 63)
          ∧ (∀ r, regId s n r ≠ regId s n (aD w.toNat) → rd t n r = rd s n r)
          ∧ s.everyCell t n (fun c i y z => y.sameBut z 0 0
              ∧ (e.2 = true ∧ lowest c c i → z.t = false) ∧ (¬ (e.2 = true ∧ lowest c c i) → z.t = y.t)
              ∧ (w.getLsbD 6 = false → z.a = y.a) ∧ (w.getLsbD 6 = true → (z.a = true ↔ lowest c c i))))
        ∧ (apart → ∃ t, exec e.1 s = .next t ∧ waits t 3 ∧ t.cells = s.cells))
    ∧ (∀ e ∈ [(Instr.aor b w, 0x93, false), (Instr.acnt b w, 0x94, true)],
        let x := freshCtx s n (wordOf e.2.1 w)
        aorOk x = true → slotBusy s n k = false →
        ∃ t, exec e.1 s = .next t ∧ pcOf t n = pcOf s n + 8 ∧ t.mem = s.mem ∧ (∀ r, rd t n r = rd s n r)
          ∧ s.everyCell t n (fun _ _ y z => y.kept z ∧ z.t = if w.getLsbD 4 then y.plane (bits x.s 10 0) && y.a else y.t)
          ∧ ∀ c ∈ gang s n, (slotOf t c k).busy = true ∧ (slotOf t c k).next = sampleOf t c scope 0 true e.2.2)
    ∧ (aS w.toNat = 0 → aU w.toNat = 0 → optIn (wordOf 0x96 w) 3 = true → (slotOf s n (w.toNat % 4)).busy = false →
        ∃ t, exec (.ards b w) s = .next t ∧ t.mem = s.mem ∧ t.cells = s.cells
          ∧ t.regs = (s.withResult n (aD w.toNat) (slotOf s n (w.toNat % 4)).word).regs)
    ∧ (aD w.toNat = 0 → aS w.toNat = 0 → aU w.toNat = 0 → optIn (wordOf 0x97 w) 0x1E0 = true → scope < 3 →
        slotBusy s n k = false →
        (own → ∃ t, exec (.abar b w) s = .next t ∧ pcOf t n = pcOf s n + 8 ∧ t.mem = s.mem ∧ (∀ r, rd t n r = rd s n r)
          ∧ s.everyCell t n (fun _ _ y z => y.kept z ∧ z.t = y.t)
          ∧ ∀ c ∈ gang s n, (slotOf t c k).busy = false
            ∧ (slotOf t c k).word.getLsbD 63 = (scopeBlocks s c scope).any fun d => decide (0 < tagCount s d))
        ∧ (apart → ∃ t, exec (.abar b w) s = .next t ∧ waits t k ∧ t.cells = s.cells))
    ∧ (let x := freshCtx s n (wordOf 0x95 w)
        let words := sumWords (descOf x.s).len
        asumOk x = true → ([0, 1, 2, 3].any fun j => slotBusy s n j) = false →
        (own → ∃ t, exec (.asum b w) s = .next t ∧ pcOf t n = pcOf s n + 8 ∧ (∀ r, rd t n r = rd s n r)
          ∧ (∀ c ∈ gang s n, readVal t (bwin c + x.d) (16 * words)
              = wrap (64 * words) (sumOf s (scopeBlocks s c scope) (descOf x.s)))
          ∧ (∀ a, (∀ c ∈ gang s n, a < bwin c + x.d ∨ bwin c + x.d + 16 * words ≤ a) → memDigit t.mem a = memDigit s.mem a)
          ∧ s.everyCell t n (fun _ _ y z => y.kept z ∧ z.t = y.a))
        ∧ (apart → ∃ t, exec (.asum b w) s = .next t ∧ waits t 0)))
  ∧ ∀ (s : State) (b : Blk) (j f : BitVec 2), partOf s b.toNat ≠ none → f.toNat ≤ 1 →
    let n := b.toNat
    let of (c : Nat) : Nat := (slotOf s c j.toNat).next.toNat
    (slotOf s n j.toNat).busy = true → scopeReady s n j.toNat = true →
    (∀ c ∈ gang s n ++ scopeBlocks s n (bits (of n) 57 56), (slotOf s c j.toNat).busy = true → bits (of c) 62 48 = bits (of n) 62 48) →
    ∃ t, exec (.orcCombineResult b j f) s = .next t ∧ (slotOf t n j.toNat).busy = false
      ∧ (slotOf t n j.toNat).word = BitVec.ofNat 64 (scopeWord s n j.toNat)
      ∧ t.mem = s.mem ∧ t.cells = s.cells

/-- Transfers with the turn memory (R153-R156): ATLD and ALUT write in each active cell what stands for it in the turn
memory, ATST writes nothing but its area there. -/
def Obligations.TurnTransfers : Prop :=
  ∀ (s : State) (b : Blk) (w : BitVec 24), s.arrPlain b.toNat = true →
    let n := b.toNat
    let x (op : Nat) : ACtx := freshCtx s n (wordOf op w)
    (turnOk (x 0x98) false = true → ∃ t, exec (.atld b w) s = .next t ∧ s.arrDone t n ∧ s.everyCell t n (fun c i y z =>
        (y.a = true → y.wrote z (descOf (x 0x98).d) (turnVal s c i (x 0x98)) ∧ z.t = y.t) ∧ (y.a = false → y.kept z)))
    ∧ (alutOk (x 0x9A) = true → ∃ t, exec (.alut b w) s = .next t ∧ s.arrDone t n ∧ s.everyCell t n (fun c _ y z =>
        (y.a = true → y.wrote z (descOf (x 0x9A).d)
          (readVal s (0x100000 + bwin c + (x 0x9A).u + 16 * y.field (descOf (x 0x9A).s).base (descOf (x 0x9A).s).len) 16))
        ∧ (y.a = false → y.kept z)))
    ∧ (turnOk (x 0x99) true = true → ∃ t, exec (.atst b w) s = .next t ∧ pcOf t n = pcOf s n + 8
        ∧ s.everyCell t n (fun _ _ y z => y.kept z ∧ z.t = y.t)
        ∧ (∀ a, (∀ c ∈ gang s n, a < 0x100000 + bwin c + (x 0x99).s ∨ 0x100000 + bwin c + (x 0x99).s + aspectArea (x 0x99) ≤ a) →
            memDigit t.mem a = memDigit s.mem a)
        ∧ (gang s n = [n] → aspectBytes (wordOf 0x99 w) = 1 → w.getLsbD 5 = false → ∀ i, i < 16384 →
            (cellAt s n i).a = true → memByte t.mem (turnByte n (x 0x99).s i)
              = BitVec.ofNat 8 ((cellAt s n i).field (descOf (x 0x99).d).base (descOf (x 0x99).d).len)))

/-- The packed and zoned decimal instructions on cells (R174-R184).
APSRP (R182) shifts by the signed count in wU, rounding what falls off to the right. What the rules leave open here
follows log entries 10 and 65. -/
def Obligations.PackedArrayResults : Prop :=
  (∀ (s : State) (b : Blk) (w : BitVec 24), s.arrPlain b.toNat = true →
    let n := b.toNat
    let x (op : Nat) : ACtx := freshCtx s n (wordOf op w)
    let done (c : Instr) (op : Nat) (f : ACtx → Cell → Option Nat × Nat) : Prop :=
      ∃ t, exec c s = .next t ∧ s.decimalDone t n (x op) (f (x op))
    let two (f : Int → Int → Int) (x : ACtx) : Cell → Option Nat × Nat := pkTwo x fun p q => pkResult x (f (smInt p) (smInt q))
    (decOpsOk (x 0xA0) 1 1 (some 1) 8 = true → optIn (wordOf 0xA0 w) 0 = true → done (.apadd b w) 0xA0 (two fun p q => p + q))
    ∧ (decOpsOk (x 0xA1) 1 1 (some 1) 8 = true → optIn (wordOf 0xA1 w) 0 = true → done (.apsub b w) 0xA1 (two fun p q => p - q))
    ∧ (decOpsOk (x 0xA2) 1 1 (some 1) (pkWork (x 0xA2)) = true → optIn (wordOf 0xA2 w) 0 = true → (descOf (x 0xA2).s).nd ≤ 31 →
        done (.apmul b w) 0xA2 (two fun p q => p * q))
    ∧ (decOpsOk (x 0xA3) 1 1 (some 1) (pkWork (x 0xA3)) = true → optIn (wordOf 0xA3 w) 2 = true →
        done (.apdiv b w) 0xA3 fun x => pkTwo x (pkDiv x))
    ∧ (decOpsOk (x 0xA4) 0 1 (some 1) 8 = true → optIn (wordOf 0xA4 w) 7 = true → w.toNat % 8 < 6 →
        (descOf (x 0xA4).d).len = 1 →
        done (.apcmp b w) 0xA4 fun x => pkTwo x fun p q => (some (b2n (relInt (w.toNat % 8) (smInt p) (smInt q))), 0))
    ∧ (decOpsOk (x 0xA6) 1 1 none 8 = true → optIn (wordOf 0xA6 w) 0 = true →
        done (.apset b w) 0xA6 fun x => pkOne x fun p => pkResult x (smInt p))
    ∧ (decOpsOk (x 0xA7) 0 1 none 16 = true → optIn (wordOf 0xA7 w) 0 = true → done (.apcvb b w) 0xA7 fun x => pkOne x (pkToBin x))
    ∧ (decOpsOk (x 0xA8) 1 0 none 16 = true → optIn (wordOf 0xA8 w) 0 = true →
        done (.apcvd b w) 0xA8 fun x c => pkResult x (c.int (descOf x.s)))
    ∧ (decOpsOk (x 0xA9) 1 2 none 16 = true → optIn (wordOf 0xA9 w) 0 = true → done (.appack b w) 0xA9 fun x => pkPack x)
    ∧ (decOpsOk (x 0xAA) 2 1 none 16 = true → optIn (wordOf 0xAA w) 0 = true → done (.apunpk b w) 0xAA fun x => pkOne x (pkUnpack x)))
  ∧ (∀ (s : State) (b : Blk) (w : BitVec 24), s.arrPlain b.toNat = true →
    let n := b.toNat
    let x := freshCtx s n (wordOf 0xA5 w)
    let k := sgn 64 x.u
    decDescOk x.d = true → decDescOk x.s = true → (descOf x.d).kind = 1 → (descOf x.s).kind = 1 →
    dstOk (descOf x.d) = true → srcOk (descOf x.s) = true → overlapOk (descOf x.d) (descOf x.s) false = true →
    workOk x 8 [descOf x.d, descOf x.s] = true → optIn x.w 15 = true → -255 ≤ k → k ≤ 255 →
    ∃ t, exec (.apsrp b w) s = .next t ∧ s.decimalDone t n x (pkOne x (pkShift x))
      ∧ (∀ p, 0 ≤ k → pkShift x p = pkResult x (smInt (p.1, p.2 * 10 ^ k.toNat)))
      ∧ (∀ p, k < 0 → p.2 % 10 ^ (-k).toNat = 0 → pkShift x p = pkResult x (smInt (p.1, p.2 / 10 ^ (-k).toNat))))

/-- The decimal floating-point instructions on cells (R185-R197). What the rules leave open here follows log entry 65.
-/
def Obligations.FloatArrayResults : Prop :=
  ∀ (s : State) (b : Blk) (w : BitVec 24), s.arrPlain b.toNat = true →
    let n := b.toNat
    let x (op : Nat) : ACtx := freshCtx s n (wordOf op w)
    let done (c : Instr) (op : Nat) (f : Fmt → Nat → DNum → DNum → DNum → DNum × Nat) : Prop :=
      ∃ t, exec c s = .next t ∧ s.decimalDone t n (x op) fun y =>
        let d := descOf (x op).d
        let r := f (decFmt d.wide) (bits (x op).dctl 2 0) (y.dec (descOf (x op).s)) (y.dec (descOf (x op).u)) (y.dec d)
        (some (decWrite d.wide r.1), r.2)
    (dfOk (x 0xAB) 160 320 = true → done (.adfadd b w) 0xAB fun f m p q _ => dAdd f m p q)
    ∧ (dfOk (x 0xAC) 160 320 = true → done (.adfsub b w) 0xAC fun f m p q _ => dAdd f m p q.neg)
    ∧ (dfOk (x 0xAD) 160 320 = true → done (.adfmul b w) 0xAD fun f m p q _ => dMul f m p q)
    ∧ (dfOk (x 0xAE) 160 320 = true → done (.adfdiv b w) 0xAE fun f m p q _ => dDiv f m p q)
    ∧ (dfOk (x 0xAF) 256 480 = true → done (.adffma b w) 0xAF fun f m p q r => dFma f m p q r)
    ∧ (dfOk (x 0xB0) 160 320 = true → done (.adfqua b w) 0xB0 fun f m p q _ => dQuantize f m p q)
    ∧ (dfCmpOk (x 0xB1) = true → ∃ t, exec (.adfcmp b w) s = .next t ∧ s.decimalDone t n (x 0xB1) fun y =>
        let r := dCompare (w.toNat % 8) (w.getLsbD 3) (y.dec (descOf (x 0xB1).s)) (y.dec (descOf (x 0xB1).u))
        (some (b2n r.1), r.2))
    ∧ (dfCvtOk (x 0xB2) = true → ∃ t, exec (.adfcvt b w) s = .next t ∧ s.decimalDone t n (x 0xB2) (dfCvtCell (x 0xB2)))

/-- The long-decimal instructions (R165, R166, R201-R205): the segments of D in the cells of a group take the result of the
group, the head cell its flags; ALDSPL writes the limbs of each good segment to the turn memory. What the rules leave
open here follows log entry 67. -/
def Obligations.LongDecimalResults : Prop :=
  ∀ (s : State) (b : Blk) (w : BitVec 24), s.arrPlain b.toNat = true →
    let n := b.toNat
    let x (op : Nat) : ACtx := freshCtx s n (wordOf op w)
    let done (c : Instr) (op : Nat) (f : ACtx → Nat → Nat → Option (DNum × Nat)) : Prop :=
      ∃ t, exec c s = .next t ∧ pcOf t n = pcOf s n + 8 ∧ t.mem = s.mem ∧ s.everyCell t n (fun c i _ z =>
        let d := descOf (x op).d
        ∀ h v, (groupCells s c i d.k).head? = some h → (cellAt s h.1 h.2).a = true → f (x op) h.1 h.2 = some v →
          z.field d.base d.len = ldecSeg (ldecP d.nd) d.k (d.k - 1 - groupPos s c i d.k) v.1 % 2 ^ d.len
          ∧ (groupPos s c i d.k = 0 → ∀ k, k < 6 → v.2.testBit k = true → z.plane (2040 + k) = true))
    let two (g : Fmt → Nat → DNum → DNum → DNum × Nat) (x : ACtx) (c i : Nat) : Option (DNum × Nat) :=
      match groupDec s c i (descOf x.s), groupDec s c i (descOf x.u) with
      | some p, some q => some (g (ldecFmt ((descOf x.d).k * ldecP (descOf x.d).nd)) (bits x.dctl 2 0) p q)
      | _, _ => none
    (ldOk (x 0xB3) true = true → done (.aldadd b w) 0xB3 (two fun f m p q => dAdd f m p q))
    ∧ (ldOk (x 0xB4) true = true → done (.aldsub b w) 0xB4 (two fun f m p q => dAdd f m p q.neg))
    ∧ (ldOk (x 0xB5) false = true → done (.aldmul b w) 0xB5 (two fun f m p q => dMul f m p q))
    ∧ (ldOk (x 0xB6) false = true → done (.alddiv b w) 0xB6 (two fun f m p q => dDiv f m p q))
    ∧ (ldNormOk (x 0xB9) = true → done (.aldnrm b w) 0xB9 fun x c i =>
        let d := descOf x.d
        some (roundDec (ldecFmt (d.k * ldecP d.nd)) (bits x.dctl 2 0) false
          ((groupCells s c i d.k).foldl (fun a e => a * 10 ^ ldecP d.nd + limbSum s e.1 e.2 x (ldecP d.nd)) 0) 0))
    ∧ (ldCvtOk (x 0xB7) = true → w.toNat % 8 < 2 → ∃ t, exec (.aldcvt b w) s = .next t ∧ s.decimalDone t n (x 0xB7) fun y =>
        let r := dConvert (ldecFmt (ldecP (descOf (x 0xB7).d).nd)) (bits (x 0xB7).dctl 2 0) (y.dec (descOf (x 0xB7).s))
        (some (ldecSeg (ldecP (descOf (x 0xB7).d).nd) 1 0 r.1), r.2))
    ∧ (ldSplitOk (x 0xB8) = true → ∃ t, exec (.aldspl b w) s = .next t ∧ pcOf t n = pcOf s n + 8
        ∧ (gang s n = [n] → (descOf (x 0xB8).s).chk = 0 → ∀ i, i < 16384 → limbIn (x 0xB8) i = true → (cellAt s n i).a = true →
          let e := descOf (x 0xB8).s
          let p := ldecP e.nd
          (groupDec s n i e).isSome = true → (bcdVal p ((cellAt s n i).val e)).isSome = true →
          readDigits t (turnAt n ((x 0xB8).d + p * limbIdx (x 0xB8) i)) p = limbDigits p ((cellAt s n i).val e)))

/-- The record instructions (R207-R220). What the rules leave open here follows log entry 67. -/
def Obligations.RecordResults : Prop :=
  ∀ (s : State) (b : Blk) (w : BitVec 24), s.arrPlain b.toNat = true →
    let n := b.toNat
    let x (op : Nat) : ACtx := freshCtx s n (wordOf op w)
    (amvsOk (x 0xC0) = true → ∃ t, exec (.amvs b w) s = .next t ∧ s.arrDone t n ∧ s.everyCell t n (fun _ _ y z =>
        let d := descOf (x 0xC0).d
        let e := descOf (x 0xC0).s
        let len := if w.getLsbD 0 then min e.bytes (y.val (descOf (x 0xC0).u)) else e.bytes
        (y.a = true → y.sameBut z d.base d.len ∧ (meets d e = false →
          ∀ k, k < d.bytes → z.strByte d k = if k < len then y.strByte e k else bits (x 0xC0).rctl 7 0))
        ∧ (y.a = false → y.kept z)))
    ∧ (atrnOk (x 0xC1) = true → ∃ t, exec (.atrn b w) s = .next t ∧ s.arrDone t n ∧ s.everyCell t n (fun c _ y z =>
        let d := descOf (x 0xC1).d
        let e := descOf (x 0xC1).s
        (y.a = true → y.sameBut z d.base d.len ∧ ((e.hi < 2032 ∨ 2040 ≤ e.base) → ∀ k, k < d.bytes →
          z.strByte d k = readVal s (turnAt c ((x 0xC1).u + 2 * y.strByte e k)) 2))
        ∧ (y.a = false → y.kept z)))
    ∧ (acmpsOk (x 0xC2) = true → w.getLsbD 3 = false → w.getLsbD 4 = false →
        ∃ t, exec (.acmps b w) s = .next t ∧ s.arrDone t n ∧ s.everyCell t n (fun _ _ y z =>
          let o := acmpsScan (x 0xC2) 0 (acmpsLen (x 0xC2)) y
          y.kept z ∧ z.t = (relOrder (w.toNat % 8) (if o = 1 then -1 else if o = 2 then 1 else 0) && y.a)))
    ∧ (aeditOk (x 0xC3) = true → ∃ t, exec (.aedit b w) s = .next t ∧ s.arrDone t n ∧ s.everyCell t n (fun _ _ y z =>
        let e := descOf (x 0xC3).s
        let v := y.val e
        (y.a = false → y.kept z ∧ z.t = false)
        ∧ (y.a = true → (packedVal (x 0xC3).dctl v e.nd = none → z.t = true ∧ z.plane 2045 = true
            ∧ z.field (descOf (x 0xC3).d).base (descOf (x 0xC3).d).len = y.field (descOf (x 0xC3).d).base (descOf (x 0xC3).d).len)
          ∧ ∀ p, packedVal (x 0xC3).dctl v e.nd = some p → z.t = (match w.toNat % 4 with
              | 0 => p.2 == 0 | 1 => p.1 && p.2 != 0 | 2 => !p.1 && p.2 != 0 | _ => p.2 != 0))))

/-! ### Suspension, microcode, the control store (chapters 6, 9) -/

/-- A yield at a safe point and an abandon (R222, R223, R232): the yield leaves in every block of the program VALID with
the opcode, the progress and the cause, the record, and A, T and C in planes 2039 to 2037; the abandon ends it with DISC
and the opcode in DOP, and OP, STEP and CAUSE read 0.
Repair, the roving twin (R115, R116, R119): a corrected error is counted and logged, and its group waits for its repair
unless one waits already; the pending plane repair ends in a cycle of a vendor routine; at a multiple of 100,000 ticks the
twin moves to the next column. What the rules leave open here follows log entries 9, 17, 90 and 94. -/
def Obligations.YieldsAndAbandons : Prop :=
  (∀ (s : State) (b : Blk) (w : BitVec 32) (step : BitVec 16), s.cellsWf = true →
    let n := b.toNat
    let x := freshCtx s n w.toNat
    (executing s n = true → (seqOf s n).micro = none → (seqOf s n).resume = none → (seqOf s n).waiting = false →
      (seqOf s n).ldx = [] → pcOk (pcOf s n) = true → rgB s (R.ARR_SUSP n) R.ARR_SUSP_VALID = false →
      (∀ c ∈ gang s n, ∀ k, k < 4 → slotBusy s c k = false) → resumable (w.toNat / 2 ^ 24) = true →
      resumableOk x = true → yieldCause s n ≠ 0 → 0 < step.toNat → step.toNat ≤ yieldNow s n x →
      ∃ t, exec (.safePointYield b w step) s = .next t ∧ (∀ c ∈ gang s n,
        rgB t (R.ARR_SUSP c) R.ARR_SUSP_VALID = true ∧ rgF t (R.ARR_SUSP c) R.ARR_SUSP_OP = w.toNat / 2 ^ 24
        ∧ rgF t (R.ARR_SUSP c) R.ARR_SUSP_STEP = step.toNat ∧ rgF t (R.ARR_SUSP c) R.ARR_SUSP_CAUSE = yieldCause s n
        ∧ (∃ r, (seqOf t c).susp = some r ∧ r.w = w ∧ r.step = step.toNat ∧ r.pc.toNat = pcOf s n % 2 ^ 20)
        ∧ ∀ i, i < 16384 → (cellAt t c i).plane 2039 = (cellAt t c i).a ∧ (cellAt t c i).plane 2038 = (cellAt t c i).t
            ∧ (cellAt t c i).plane 2037 = (cellAt t c i).c))
    ∧ (rgB s (R.ARR_SUSP n) R.ARR_SUSP_VALID = true → (∀ c ∈ gang s n, rgB s (R.ARR_SUSP c) R.ARR_SUSP_VALID = true) →
      ∃ t, exec (.abandon b) s = .next t ∧ ∀ c ∈ gang s n,
        rgB t (R.ARR_SUSP c) R.ARR_SUSP_VALID = false ∧ rgB t (R.ARR_SUSP c) R.ARR_SUSP_DISC = true
        ∧ rgF t (R.ARR_SUSP c) R.ARR_SUSP_DOP = rgF s (R.ARR_SUSP c) R.ARR_SUSP_OP
        ∧ rgF t (R.ARR_SUSP c) R.ARR_SUSP_DSTEP = rgF s (R.ARR_SUSP c) R.ARR_SUSP_STEP ∧ (seqOf t c).susp = none
        ∧ rgF t (R.ARR_SUSP c) R.ARR_SUSP_OP = 0 ∧ rgF t (R.ARR_SUSP c) R.ARR_SUSP_STEP = 0
        ∧ rgF t (R.ARR_SUSP c) R.ARR_SUSP_CAUSE = 0)
    ∧ (rgB s (R.ARR_SUSP n) R.ARR_SUSP_VALID = false → exec (.abandon b) s = .next s))
  ∧ (∀ (s : State) (b : Blk), 
    let n := b.toNat
    ((seqOf s (programOf s n)).micro = none →
      exec (.planeRepair b) s = .next (updSeq s n fun q => { q with repair := none }))
    ∧ ((seqOf s (programOf s n)).micro.isSome = true → exec (.planeRepair b) s = .next s)
    ∧ (∀ pos k, executing s (programOf s n) = true → (seqOf s (programOf s n)).micro = none →
        let r := (BitVec.ofNat 11 (posPlane pos.toNat), BitVec.ofNat 7 (bits pos.toNat 7 1), pos.toNat.testBit 0)
        ∃ t, exec (.microwordCycle b (.corrected pos k)) s = .next t
          ∧ rgF t (R.ARR_ECC n) R.ARR_ECC_CE = min (rgF s (R.ARR_ECC n) R.ARR_ECC_CE + 1) R.ARR_ECC_CE.top
          ∧ rgF t (R.ARR_ECC n) R.ARR_ECC_PLANE = posPlane pos.toNat % 2048
          ∧ rgF t (R.ARR_ECC n) R.ARR_ECC_ROW = bits pos.toNat 7 1 ∧ rgF t (R.ARR_ECC n) R.ARR_ECC_GROUP = bits pos.toNat 0 0
          ∧ rgB t (R.ARR_ECC n) R.ARR_ECC_CEV = true ∧ t.cells = s.cells
          ∧ ((seqOf s n).repair = none → (seqOf t n).repair = some r
              ∧ rgF t (R.ARR_ECC n) R.ARR_ECC_WBLOST = rgF s (R.ARR_ECC n) R.ARR_ECC_WBLOST)
          ∧ (∀ o, (seqOf s n).repair = some o → (seqOf t n).repair = some o
              ∧ rgF t (R.ARR_ECC n) R.ARR_ECC_WBLOST = min (rgF s (R.ARR_ECC n) R.ARR_ECC_WBLOST + 1) R.ARR_ECC_WBLOST.top))
    ∧ (∀ k, now s % 100000 = 0 → executing s (programOf s n) = true →
        (List.range 4).find? (fun j => spState (pickTwin s n) n j == 2) = some k →
        ∃ t, exec (.twinAdvance b .clean) s = .next t
          ∧ (seqOf t n).twinCol = (seqOf (pickTwin s n) n).twinCol + 1
          ∧ rgF t (R.ARR_COLMAP n) (spFld k) = 2 * 1024 + ((seqOf (pickTwin s n) n).twinCol + 1).toNat)
    ∧ (now s % 100000 ≠ 0 → exec (.twinAdvance b .clean) s = .next s))

/-- The control store (R18, R20, R276-R282): a staged quarter waits, a commit puts the staged quarters into the customer word
and leaves the others, commits and reads wait while the sequencer fetches, one that waits takes a granted cycle, a read
returns the quarter and marks bad parity, and words below 12,288 ignore writes. What the rules leave open here follows log
entries 32 and 82. -/
def Obligations.ControlStoreAccess : Prop :=
  ∀ (s : State) (b : Blk) (n : BitVec 14) (q : BitVec 2) (v : Word) (e : BitVec 8),
    let k := b.toNat
    let st := (seqOf s k).stage
    (12288 ≤ n.toNat → q.toNat < 3 → st = none → ∃ t, exec (.csQuarterStage b n q v) s = .next t
        ∧ (seqOf t k).stage = some (n, if q = 0 then some v else none, if q = 1 then some v else none, if q = 2 then some v else none)
        ∧ t.cs = s.cs)
    ∧ (12288 ≤ n.toNat → fetching s k = false → (seqOf s k).csWait = [] → ∀ q0 q1 q2, st = some (n, q0, q1, q2) →
        ∃ t, exec (.csCommit b n) s = .next t ∧ (seqOf t k).stage = none
          ∧ bits (csWord t k n.toNat) 191 128 = (match q0 with | some x => x.toNat | none => bits (csWord s k n.toNat) 191 128)
          ∧ bits (csWord t k n.toNat) 127 64 = (match q1 with | some x => x.toNat | none => bits (csWord s k n.toNat) 127 64)
          ∧ bits (csWord t k n.toNat) 63 0 = (match q2 with | some x => x.toNat | none => bits (csWord s k n.toNat) 63 0)
          ∧ csBad t k n.toNat = false
          ∧ ∀ m, m ≠ n.toNat → m < 16384 → csWord t k m = csWord s k m)
    ∧ (12288 ≤ n.toNat → fetching s k = true → ∀ q0 q1 q2, st = some (n, q0, q1, q2) →
        ∃ t, exec (.csCommit b n) s = .next t ∧ t.cs = s.cs ∧ (seqOf t k).stage = none
          ∧ (seqOf t k).csWait = (seqOf s k).csWait ++ [{ n := n, q0 := q0, q1 := q1, q2 := q2 }])
    ∧ (∀ p r, (seqOf s k).csWait = p :: r → p.rd = none → p.entry = false → 12288 ≤ p.n.toNat →
        ∃ t, exec (.csHoldGrant b) s = .next t ∧ (seqOf t k).csWait = r
          ∧ (∀ x, p.q0 = some x → bits (csWord t k p.n.toNat) 191 128 = x.toNat))
    ∧ (∀ p r j, (seqOf s k).csWait = p :: r → p.rd = some j →
        ∃ t, exec (.csHoldGrant b) s = .next t ∧ (seqOf t k).csWait = r ∧ t.cs = s.cs
          ∧ t.out = s.out ++ [.regRead (0x400000 + bwin k + 64 * p.n.toNat + 16 * j.toNat)
              (BitVec.ofNat 64 (csQuarter s k p.n.toNat j.toNat p.sec))])
    ∧ (∀ sec, fetching s k = false → (seqOf s k).csWait = [] → ∃ t, exec (.csRead b n ⟨q, none, sec⟩) s = .next t
        ∧ t.out = s.out ++ [.regRead (0x400000 + bwin k + 64 * n.toNat + 16 * q.toNat)
            (BitVec.ofNat 64 (csQuarter s k n.toNat q.toNat sec))]
        ∧ t.cs = s.cs ∧ (rgB t (R.MC_STATUS k) R.MC_STATUS_RDPE
            = ((csBad s k n.toNat && (decide (12288 ≤ n.toNat) || sec)) || rgB s (R.MC_STATUS k) R.MC_STATUS_RDPE)))
    ∧ (n.toNat < 12288 → csQuarter s k n.toNat q.toNat false = 0)
    ∧ (∀ sec, fetching s k = true → ∃ t, exec (.csRead b n ⟨q, none, sec⟩) s = .next t ∧ t.out = s.out
        ∧ (seqOf t k).csWait = (seqOf s k).csWait ++ [{ n := n, rd := some q, sec := sec }])
    ∧ (∀ i sec, (12288 ≤ n.toNat ∨ sec = true) → fetching s k = false → (seqOf s k).csWait = [] → csBad s k n.toNat = false →
        ∃ t, exec (.csRead b n ⟨q, some (.bit i), sec⟩) s = .next t ∧ rgB t (R.MC_STATUS k) R.MC_STATUS_RDPE = true)
    ∧ (e.toNat / 16 = 14 → 0x3000 ≤ bits v.toNat 13 0 → v.getLsbD 62 = false → bits v.toNat 56 14 = 0 →
        ∃ t, exec (.dtEntryWrite b e true v) s = .next t ∧ dtEntry t k e.toNat = v.toNat)
    ∧ (n.toNat < 12288 → exec (.csQuarterStage b n q v) s = .next s ∧ exec (.csCommit b n) s = .next s)
    ∧ (e.toNat / 16 ≠ 14 → exec (.dtEntryWrite b e true v) s = .next s)

/-- A customer instruction (R239, R293): with a valid entry, operands that fit it and equal fingerprints the micro-engine
starts at the entry's address with the descriptors in its pointers; without a valid entry it traps with EMULATE, with
fingerprints that differ with ILLEGAL and FPMIS in the blocks that differ, and an entry with bad parity is a fault of its
block. So does an unassigned array opcode to which a patch has given an entry (R281, R304).
One microword without movement, gangs, turn traffic or requests (R87-R94): every active cell puts FS of its ALU
inputs where DEST says and FC of them in C, inactive cells write nothing, and the micro-PC steps; bad parity of the word in a
block of the program is a fault of that block (R298). What the rules leave open here follows log entries 15 to 17, 82 and
92. -/
def Obligations.CustomerMicrocode : Prop :=
  (∀ (s : State) (b : Blk) (e : BitVec 4) (w : BitVec 24), s.arrPlain b.toNat = true →
    let n := b.toNat
    let op := 0xE0 + e.toNat
    let x := freshCtx s n (wordOf op w)
    let ent := dtEntry s n op
    (ent.testBit 63 = true → fpDiffer s n = [] → entryOk ent x = true →
      ∃ t m, exec (.customerInstruction b e w) s = .next t ∧ (seqOf t n).micro = some m
        ∧ m.upc.toNat = ent % 2 ^ 14 ∧ m.pp0.toNat = x.d % 2 ^ 11 ∧ m.pp1.toNat = x.s % 2 ^ 11 ∧ m.pp2.toNat = x.u % 2 ^ 11
        ∧ m.d.toNat = x.d ∧ m.s.toNat = x.s ∧ m.u.toNat = x.u ∧ m.stack = [] ∧ m.mark = false
        ∧ pcOf t n = pcOf s n ∧ t.cells = s.cells ∧ t.mem = s.mem)
    ∧ (ent.testBit 63 = false → exec (.customerInstruction b e w) s = .next (endStep (trapAt s n 2 (wordOf op w)) n))
    ∧ (ent.testBit 63 = true → fpDiffer s n = [] → entryOk ent x = false →
        exec (.customerInstruction b e w) s = .next (endStep (trapAt s n 0x0B (wordOf op w)) n))
    ∧ (ent.testBit 63 = true → fpDiffer s n ≠ [] → exec (.customerInstruction b e w) s = .next (endStep (trapAt
        (forEach (fpDiffer s n) (fun s c => setB s (R.MC_STATUS c) R.MC_STATUS_FPMIS true) s) n 3 (wordOf op w)) n)))
  ∧ (∀ (s : State) (b : Blk) (w : BitVec 24), s.plain b.toNat = true → (seqOf s b.toNat).susp = none →
    let n := b.toNat
    (∀ (e : BitVec 4) c, badEntry s n (0xE0 + e.toNat) = some c →
      exec (.customerInstruction b e w) s = .next (storeFault s c 2 (0xE0 + e.toNat)))
    ∧ (∀ op : BitVec 8, assignedOp op.toNat = false → patched s op.toNat = true → s.dtBad = [] →
      let x := freshCtx s n (wordOf op.toNat w)
      (dispatchTrap s n x true = none → ∃ t m, exec (.reservedOpcode b op w) s = .next t ∧ (seqOf t n).micro = some m
        ∧ m.upc.toNat = dtEntry s n op.toNat % 2 ^ 14 ∧ m.d.toNat = x.d ∧ m.s.toNat = x.s ∧ m.u.toNat = x.u
        ∧ pcOf t n = pcOf s n ∧ t.cells = s.cells ∧ t.mem = s.mem)
      ∧ (∀ k v, dispatchTrap s n x true = some (.trap k v) →
        exec (.reservedOpcode b op w) s = .next (endStep (trapAt s n k v) n))))
  ∧ (∀ (s : State) (b : Blk) (m : Micro) (c : Nat), executing s b.toNat = true → (seqOf s b.toNat).micro = some m → m.sp = false →
    ((gang s b.toNat).find? fun c => csBad s c m.upc.toNat) = some c →
    exec (.microwordCycle b .clean) s = .next (storeFault s c 1 m.upc.toNat))
  ∧ (∀ (s : State) (b : Blk) (m : Micro), s.cellsWf = true → s.flaws = [] → executing s b.toNat = true →
    (seqOf s b.toNat).micro = some m → m.sp = false → m.far = false →
    let n := b.toNat
    let u := csWord s n m.upc.toNat
    (∀ c ∈ gang s n, csBad s c m.upc.toNat = false) → effP m u ≠ 2047 → effQ m u ≠ 2047 → slotWait s n u = false → illegalUw s n m u = false → custBreach s n m u = false → m.run < 8192 →
    u.testBit 6 = false → u.testBit 5 = false → u.testBit 7 = false → u.testBit 25 = false → u.testBit 135 = false →
    uNAM u = 0 → uTOP u = 0 → uKIND u = 0 → uXSRC u = 0 → uACT u = 2 →
    ∃ t m2, exec (.microwordCycle b .clean) s = .next t ∧ (seqOf t n).micro = some m2 ∧ m2.upc.toNat = m.upc.toNat + 1
      ∧ t.mem = s.mem ∧ s.everyCell t n (fun _ _ y z =>
        let p := y.plane (effP m u)
        let q := y.plane (effQ m u)
        let v1 := match uYSRC u with | 0 => p | 1 => p | 4 => q | 6 => q | _ => y.y
        let cin := match uCINIT u with | 0 => y.c | 1 => false | 2 => true | 3 => y.t | _ => y.a
        let idx := 4 * b2n v1 + 2 * b2n y.x + b2n cin
        let r := (uFS u).testBit idx
        (y.a = false → z = y)
        ∧ (y.a = true → (uDEST u = 0 → z.plane (effQ m u) = r ∧ y.sameBut z (effQ m u) 1)
          ∧ (uDEST u ≠ 0 → z.planes = y.planes)
          ∧ z.c = (if uDEST u = 3 then r else (uFC u).testBit idx)
          ∧ z.a = (if uDEST u = 4 then r else y.a) ∧ z.t = (if uDEST u = 5 then r else y.t)
          ∧ (uDEST u = 1 → z.x = r) ∧ (uDEST u = 2 → z.y = r))))

/-! ### Memories (chapter 8) -/

/-- A request at the port of its region (R308, R309, R312, R313, R330, R332, R334, R379): reads deliver the digits, allowed
stores write them, both mark the key bytes; a refused one changes no memory and is logged in KU_VIOL, and one above the
reserve's start is UNMAPPED; a store that needs shadow copies waits for them or parks; a corrected error is logged and waits
for its write-back, an error that cannot be corrected and a bad key byte are answered UNCORR. The port grants by arrival,
then by requester, and no requester twice while another's request that was pending at its grant still waits (R23). A finished
copy lets its store be performed; one that finds a word beyond correction answers the store with UNCORR. What the rules leave open here follows log entries 28, 68, 69 and 82. -/
def Obligations.DramRequests : Prop :=
  (∀ (s : State) (id : Nat) (q : MeshReq) (g : Rgn), reqOf s id = some q → s.dramTurn q g = true →
    let n := g.toNat
    let frames := framesOf q.addr q.len
    let low := dramOff q.addr + q.len - 1 < 0x700000000 ∨ keyless q.src = true
    let allowed := frames.all fun fr => keyAllows s fr q.key.toNat q.wr
    let word := dramOff q.addr / 128
    let max := rgF s (R.EP_CTRL ((partOfRegion s n).getD 0)) R.EP_CTRL_SHMAX
    let room := shadowsUsed s n + (s.dram.copies.filter fun c => c.1 / 262144 == n).length + (needShadow s q).length ≤ max
    (¬ low → ∀ ks u, ∃ t, exec (.dramAccess id ⟨ks, u⟩) s = .next t ∧ t.mem = s.mem ∧ t.keys = s.keys
      ∧ t.mesh = (respond s q 1 []).mesh)
    ∧ (low → ∀ ks u, ∃ t, exec (.dramAccess id ⟨true :: ks, u⟩) s = .next t ∧ t.mem = s.mem ∧ t.keys = s.keys
      ∧ t.mesh = (respond s q 3 []).mesh ∧ rgB t (R.KEY_ERR (frames.headD 0 / 262144)) R.KEY_ERR_PEV = true)
    ∧ (q.wr = false → low → allowed = true → ∃ t, exec (.dramAccess id ⟨[], []⟩) s = .next t ∧ t.mem = s.mem
      ∧ t.mesh = (respond s q 0 (readDigits s q.addr q.len)).mesh
      ∧ (keyless q.src = false → ∀ fr ∈ frames, (keyByte t fr).testBit 5 = true)
      ∧ ∀ fr, keyByte t fr % 32 = keyByte s fr % 32 ∧ (fr ∉ frames → keyByte t fr = keyByte s fr))
    ∧ (low → allowed = false → ∀ u, ∃ t, exec (.dramAccess id ⟨[], u⟩) s = .next t ∧ t.mem = s.mem ∧ t.keys = s.keys
      ∧ t.mesh = (respond s q 2 []).mesh ∧ rgF t R.KU_VIOL R.KU_VIOL_KEY = q.key.toNat
      ∧ rgF t R.KU_VIOL R.KU_VIOL_STORE = b2n q.wr ∧ rgF t R.KU_VIOL R.KU_VIOL_ADDR = q.addr % 2 ^ 48
      ∧ rgF t R.KU_VIOL R.KU_VIOL_COUNT = min (rgF s R.KU_VIOL R.KU_VIOL_COUNT + 1) R.KU_VIOL_COUNT.top)
    ∧ (q.wr = true → low → allowed = true → needShadow s q = [] →
      ∃ t, exec (.dramAccess id ⟨[], []⟩) s = .next t ∧ t.mesh = (respond s q 0 []).mesh
        ∧ readDigits t q.addr q.len = q.data.map BitVec.toNat
        ∧ (∀ a, (a < q.addr ∨ q.addr + q.len ≤ a) → memDigit t.mem a = memDigit s.mem a)
        ∧ (keyless q.src = false → ∀ fr ∈ frames, (keyByte t fr).testBit 5 = true ∧ (keyByte t fr).testBit 6 = true))
    ∧ (q.wr = true → low → allowed = true → needShadow s q ≠ [] → room →
      ∃ t, exec (.dramAccess id ⟨[], []⟩) s = .next t ∧ t.mem = s.mem ∧ t.mesh = s.mesh
        ∧ t.dram.copies = s.dram.copies ++ (needShadow s q).map fun fr => (fr, id))
    ∧ (q.wr = true → low → allowed = true → needShadow s q ≠ [] → ¬ room →
      ∃ t, exec (.dramAccess id ⟨[], []⟩) s = .next t ∧ t.mem = s.mem
        ∧ t.mesh.flight = s.mesh.flight.map fun r => if r.id = id then { r with parked := true } else r)
    ∧ (q.wr = false → low → allowed = true → ∀ l, wrongSyms s n l ≠ [] → (wrongSyms s n l).length ≤ correctable s n →
      ∃ t, exec (.dramAccess id ⟨[], [.errors l]⟩) s = .next t
        ∧ t.mesh = (respond s q 0 (readDigits s q.addr q.len)).mesh ∧ t.mem = s.mem
        ∧ rgB t (R.DRAM_ECC n) R.DRAM_ECC_CEV = true ∧ rg t (R.DRAM_ELOG n) = (wrongSyms s n l).length * 2 ^ 60 + word
        ∧ word ∈ mapGet [] n t.dram.wb)
    ∧ (q.wr = false → low → allowed = true → ∀ l, correctable s n < (wrongSyms s n l).length →
      ∃ t, exec (.dramAccess id ⟨[], [.errors l]⟩) s = .next t
        ∧ t.mesh = (respond s q 3 []).mesh ∧ t.mem = s.mem ∧ rgB t (R.DRAM_ECC n) R.DRAM_ECC_UE = true
        ∧ rg t (R.DRAM_ELOG n) = 15 * 2 ^ 60 + word))
  ∧ (∀ (s : State) (id : Nat) (q : MeshReq) (ks : List Bool) (u : List DramFind), reqOf s id = some q →
      let g := q.addr / 0x800000000
      ((dramGrant s g).map MeshReq.id ≠ some id → exec (.dramAccess id ⟨ks, u⟩) s = .next s)
      ∧ (∀ t r p, (dramGrant s g).map MeshReq.id = some id → exec (.dramAccess id ⟨ks, u⟩) s = .next t →
          r ∈ s.mesh.flight → dramWaits s g r = true → dramRequester g r ≠ dramRequester g q →
          r ∈ t.mesh.flight → dramWaits t g r = true → dramGrant t g = some p → dramRequester g p ≠ dramRequester g q))
  ∧ (∀ (s : State) (g : Nat) (q : MeshReq), dramGrant s g = some q → q ∈ s.mesh.flight ∧ dramWaits s g q = true
      ∧ ∀ r ∈ s.mesh.flight, dramWaits s g r = true → barred s g (s.mesh.flight.filter (dramWaits s g)) r = false →
          q.cyc < r.cyc ∨ (q.cyc = r.cyc ∧ (dramRequester g q < dramRequester g r
            ∨ (dramRequester g q = dramRequester g r ∧ q.seq ≤ r.seq))))
  ∧ ∀ (s : State) (g : Rgn) (c : Nat × Nat) (q : MeshReq),
      (s.dram.copies.find? fun c => c.1 / 262144 == g.toNat) = some c → reqOf s c.2 = some q → q.dead = false →
      q.data.length = q.len → keyless q.src = false →
      (s.dram.copies.filter fun x => x != c).all (fun x => x.2 != c.2) = true →
      (∃ t, exec (.shadowCopyDone ⟨g, []⟩) s = .next t ∧ t.dram.copies = s.dram.copies.filter (fun x => x != c)
        ∧ c.1 ∈ (epochOf t ((partOfRegion s g.toNat).getD 0)).shadowed
        ∧ readDigits t q.addr q.len = q.data.map BitVec.toNat
        ∧ (∀ a, (a < q.addr ∨ q.addr + q.len ≤ a) → memDigit t.mem a = memDigit s.mem a)
        ∧ ∀ fr ∈ framesOf q.addr q.len, (keyByte t fr).testBit 6 = true)
      ∧ ∀ (w : BitVec 10) l, correctable s g.toNat < (wrongSyms s g.toNat l).length →
          ∃ t, exec (.shadowCopyDone ⟨g, [(w, .errors l)]⟩) s = .next t ∧ t.mem = s.mem
            ∧ t.mesh = (respond s q 3 []).mesh ∧ (∀ x ∈ t.dram.copies, x.2 ≠ c.2)
            ∧ rgB t (R.DRAM_ECC g.toNat) R.DRAM_ECC_UE = true

/-- The upkeep of the memories (R18, R310, R312, R314, R315, R319-R323, R325): a corrected word leaves its write-back list, the
scrub goes on by one word while no request waits and counts its passes, a copied row joins the spared rows, a zeroed
controller's regions read 0; port B and the scratchpad's idle cycles serve the request that came first, which reads or writes
its digits and is answered, port A's words prevailing in a line that both write; a single wrong bit is corrected, counted and
waits for its write-back, two are answered UNCORR. What the rules leave open here follows log entries 68, 69 and 82. -/
def Obligations.MemoryUpkeep : Prop :=
  ∀ (s : State) (g : Rgn) (b : Blk),
    let r := g.toNat
    let n := b.toNat
    let z := seqOf s n
    let mend (w : Nat) (t : State) : Prop := t.mem = s.mem ∧ (mapGet true w s.flaws = false → mapHas w t.flaws = false)
      ∧ ∀ k, k ≠ w → mapHas k t.flaws = mapHas k s.flaws
    (∃ t, exec (.dramWriteback g) s = .next t ∧ mapGet [] r t.dram.wb = (mapGet [] r s.dram.wb).tail
      ∧ t = { s with dram := { s.dram with wb := t.dram.wb } })
    ∧ (z.tmWb = [] → exec (.turnWriteback b) s = .next s)
    ∧ (∀ w l, z.tmWb = w :: l → ∃ t, exec (.turnWriteback b) s = .next t ∧ mend w t ∧ (seqOf t n).tmWb = l)
    ∧ (z.spWb = [] → exec (.scratchpadWriteback b) s = .next s)
    ∧ (∀ w l, z.spWb = w :: l → ∃ t, exec (.scratchpadWriteback b) s = .next t ∧ mend w t ∧ (seqOf t n).spWb = l)
    ∧ (rgB s (R.DRAM_SCRUB r) R.DRAM_SCRUB_EN = true → s.dram.zeroing.getLsbD (r / 2) = false → portTaken s r = false →
      mapGet 0 r s.dram.scrub < 2 ^ 28 →
      let w := mapGet 0 r s.dram.scrub
      let p := rgF s (R.DRAM_SCRUB r) R.DRAM_SCRUB_PASSES
      (∃ t, exec (.patrolScrubRead g (.errors [])) s = .next t ∧ t.mem = s.mem ∧ mapGet 0 r t.dram.scrub = (w + 1) % 2 ^ 28
        ∧ rgF t (R.DRAM_SCRUB r) R.DRAM_SCRUB_PASSES = (if w + 1 = 2 ^ 28 then (p + 1) % 2 ^ 32 else p)
        ∧ ∀ a, a ≠ R.DRAM_SCRUB r → rg t a = rg s a)
      ∧ ∀ l, wrongSyms s r l ≠ [] → (wrongSyms s r l).length ≤ correctable s r →
        ∃ t, exec (.patrolScrubRead g (.errors l)) s = .next t ∧ t.mem = s.mem
          ∧ mapGet 0 r t.dram.scrub = (w + 1) % 2 ^ 28 ∧ rg t (R.DRAM_ELOG r) = (wrongSyms s r l).length * 2 ^ 60 + w
          ∧ mapGet [] r t.dram.wb = mapGet [] r s.dram.wb)
    ∧ (portTaken s r = true → ∀ u, exec (.patrolScrubRead g u) s = .next s)
    ∧ (∀ row rest, mapGet [] r s.dram.copying = row :: rest → (mapGet [] r s.dram.rows).length < 511 →
      let moved (t : State) : Prop := t.mem = s.mem ∧ mapGet [] r t.dram.copying = rest
        ∧ mapGet [] r t.dram.rows = mapGet [] r s.dram.rows ++ [row]
        ∧ rgF t (R.DRAM_ECC r) R.DRAM_ECC_SPROWS = (mapGet [] r s.dram.rows).length + 1
      (∃ t, exec (.rowSpareCopyDone ⟨g, []⟩) s = .next t ∧ moved t)
      ∧ ∀ (w : BitVec 10) l, w.toNat < 32 → row / 0x800000000 = r → row % 4096 = 0 → wrongSyms s r l ≠ [] →
        (wrongSyms s r l).length ≤ correctable s r →
        ∃ t, exec (.rowSpareCopyDone ⟨g, [(w, .errors l)]⟩) s = .next t ∧ moved t ∧ rgB t (R.DRAM_ECC r) R.DRAM_ECC_CEV = true
          ∧ rg t (R.DRAM_ELOG r) = (wrongSyms s r l).length * 2 ^ 60 + (row % 0x800000000) / 128 + w.toNat)
    ∧ (∀ k : BitVec 3, s.dram.zeroing.getLsbD k.toNat = true → ∃ t, exec (.dramZeroingDone k) s = .next t
        ∧ t.dram.zeroing.getLsbD k.toNat = false ∧ t.dram.fresh.getLsbD k.toNat = false
        ∧ ∀ a, memDigit t.mem a = if a / 0x1000000000 = k.toNat then 0 else memDigit s.mem a)
    ∧ (blockCur s n = 0 → s.flaws = [] → dmaWants s n true = false → tmRequest s n = none → ∀ a : PortA,
      ∃ t, exec (.turnPortBAccess b (some a) []) s = .next t
        ∧ lineVal t n a.line.toNat = maskIn (lineVal s n a.line.toNat) a.mask.toNat a.data.toNat
        ∧ ∀ x, (x < lineAddr n a.line.toNat ∨ lineAddr n a.line.toNat + 256 ≤ x) → memDigit t.mem x = memDigit s.mem x)
    ∧ (∀ q o, blockCur s n = 0 → s.flaws = [] → dmaWants s n true = false → tmRequest s n = some q →
      targetBlk s (targetOf s q.addr) = some (n, 0x100000 + o) → o < 0x100000 → q.off = 0 → q.got = [] → 1 ≤ q.len →
      q.len ≤ 256 - o % 256 → q.data.length = q.len →
      let at_ := 0x100000 + bwin n + o
      (q.wr = true → ∃ t, exec (.turnPortBAccess b none []) s = .next t ∧ t.mesh = (respond s q 0 []).mesh
        ∧ readDigits t at_ q.len = q.data.map BitVec.toNat ∧ (seqOf t n).tmPtr = 0
        ∧ ∀ x, (x < at_ ∨ at_ + q.len ≤ x) → memDigit t.mem x = memDigit s.mem x)
      ∧ (q.wr = true → ∀ (a : PortA) (w : Nat), a.line.toNat = o / 256 → w < 16 → w ∈ wordsOf a.mask.toNat →
        w ∈ wordsOf (lineBits (o % 256) (q.data.map BitVec.toNat)).1 →
        ∃ t, exec (.turnPortBAccess b (some a) []) s = .next t ∧ rgB t (R.MEM_ECC n) R.MEM_ECC_COLLV = true
          ∧ Nat.land (lineVal t n a.line.toNat) (wordMask w)
            = Nat.land (maskIn (lineVal s n a.line.toNat) a.mask.toNat a.data.toNat) (wordMask w))
      ∧ (q.wr = false → ∃ t, exec (.turnPortBAccess b none []) s = .next t ∧ t.mem = s.mem
        ∧ t.mesh = (respond s q 0 (readDigits s at_ q.len)).mesh ∧ (seqOf t n).tmPtr = 0)
      ∧ (q.wr = false → ∀ w : BitVec 16, o / 16 ≤ w.toNat → w.toNat ≤ (o + q.len - 1) / 16 →
        (∃ t, exec (.turnPortBAccess b none [⟨w, false⟩]) s = .next t ∧ t.mem = s.mem
          ∧ t.mesh = (respond s q 0 (readDigits s at_ q.len)).mesh
          ∧ rgF t (R.MEM_ECC n) R.MEM_ECC_TMCE = min (rgF s (R.MEM_ECC n) R.MEM_ECC_TMCE + 1) R.MEM_ECC_TMCE.top
          ∧ (0x100000 + bwin n) / 16 + w.toNat ∈ (seqOf t n).tmWb)
        ∧ ∃ t, exec (.turnPortBAccess b none [⟨w, true⟩]) s = .next t ∧ t.mesh = (respond s q 3 []).mesh
          ∧ rgB t (R.MEM_ECC n) R.MEM_ECC_TMUE = true))
    ∧ (∀ q o, blockCur s n = 0 → s.flaws = [] → spNext s n = some 0 → spRequest s n = some q → targetOf s q.addr = .block n o →
      o + q.len ≤ 0x80000 → 1 ≤ q.len → q.data.length = q.len →
      (q.wr = false → ∃ t, exec (.scratchpadIdleGrant b []) s = .next t ∧ t.mem = s.mem
        ∧ t.mesh = (respond s q 0 (readDigits s q.addr q.len)).mesh)
      ∧ (q.wr = false → ∀ w : BitVec 16, w.toNat < 32768 → o / 16 ≤ w.toNat → w.toNat ≤ (o + q.len - 1) / 16 →
        ∃ t, exec (.scratchpadIdleGrant b [⟨w, false⟩]) s = .next t ∧ t.mem = s.mem
          ∧ t.mesh = (respond s q 0 (readDigits s q.addr q.len)).mesh
          ∧ rgF t (R.MEM_ECC n) R.MEM_ECC_SPCE = min (rgF s (R.MEM_ECC n) R.MEM_ECC_SPCE + 1) R.MEM_ECC_SPCE.top
          ∧ bwin n / 16 + w.toNat ∈ (seqOf t n).spWb)
      ∧ (q.wr = true → ∃ t, exec (.scratchpadIdleGrant b []) s = .next t ∧ t.mesh = (respond s q 0 []).mesh
        ∧ readDigits t q.addr q.len = q.data.map BitVec.toNat
        ∧ ∀ a, (a < q.addr ∨ q.addr + q.len ≤ a) → memDigit t.mem a = memDigit s.mem a))

/-- Storage keys (R333, R335, R336): a key-byte access of the stated form with access key 0 sets LOCK, RDO and TCH and
leaves WR, another one is a violation; KU_RANGE sets the frames of its range and is busy until it is done; a reload ends, and a mirror byte that it
cannot correct ends the concealment of the partition (R390). -/
def Obligations.StorageKeys : Prop :=
  (∀ (s : State) (g : Rgn) (off : BitVec 20) (data : List Byte), keyRule off.toNat (2 * data.length) = true →
    ∃ t, exec (.keyByteWrite g off data 0) s = .next t ∧ t = { s with keys := t.keys }
      ∧ (∀ i, i < data.length → let fr := 262144 * g.toNat + off.toNat / 2 + i
          keyByte t fr % 64 = (data.getD i 0).toNat % 64 ∧ (keyByte t fr).testBit 6 = (keyByte s fr).testBit 6)
      ∧ ∀ fr, (fr < 262144 * g.toNat + off.toNat / 2 ∨ 262144 * g.toNat + off.toNat / 2 + data.length ≤ fr) →
          keyByte t fr = keyByte s fr)
  ∧ (∀ (s : State) (g : Rgn) (off : BitVec 20) (data : List Byte) (key : BitVec 4),
    (keyRule off.toNat (2 * data.length) = false ∨ key ≠ 0) →
    ∃ t, exec (.keyByteWrite g off data key) s = .next t ∧ t.keys = s.keys ∧ s.regsOnly t [R.KU_VIOL]
      ∧ rgF t R.KU_VIOL R.KU_VIOL_KEY = key.toNat ∧ rgF t R.KU_VIOL R.KU_VIOL_STORE = 1)
  ∧ (∀ (s : State) (v : Word), rgB s R.KU_RANGE R.KU_RANGE_GO = false → v.getLsbD 63 = true →
    bits v.toNat 21 0 ≤ bits v.toNat 43 22 →
    ∃ t, exec (.kuRangeGo 0 v) s = .next t ∧ rgB t R.KU_RANGE R.KU_RANGE_GO = true ∧ t.mem = s.mem
      ∧ ∀ fr, (bits v.toNat 21 0 ≤ fr → fr ≤ bits v.toNat 43 22 →
            keyByte t fr % 32 = bits v.toNat 51 51 * 16 + bits v.toNat 55 52
            ∧ (keyByte t fr).testBit 6 = (keyByte s fr).testBit 6
            ∧ (keyByte t fr).testBit 5 = ((keyByte s fr).testBit 5 && !v.getLsbD 62))
          ∧ ((fr < bits v.toNat 21 0 ∨ bits v.toNat 43 22 < fr) → keyByte t fr = keyByte s fr))
  ∧ (∀ (s : State) (key : BitVec 4) (v : Word), rgB s R.KU_RANGE R.KU_RANGE_GO = false → key ≠ 0 →
    ∃ t, exec (.kuRangeGo key v) s = .next t ∧ s.regsOnly t [R.KU_VIOL] ∧ rgF t R.KU_VIOL R.KU_VIOL_KEY = key.toNat)
  ∧ (∀ s : State, ∃ t, exec .kuRangeDone s = .next t ∧ rgB t R.KU_RANGE R.KU_RANGE_GO = false ∧ t.keys = s.keys
      ∧ ∀ a, a ≠ R.KU_RANGE → rg t a = rg s a)
  ∧ ∀ (s : State) (g : Rgn), s.dram.reload.getLsbD g.toNat = true →
    (∃ t, exec (.keyReloadDone ⟨g, false⟩) s = .next t ∧ t = { s with dram := { s.dram with reload := t.dram.reload } }
      ∧ t.dram.reload.getLsbD g.toNat = false ∧ ∀ h, h < 16 → h ≠ g.toNat → t.dram.reload.getLsbD h = s.dram.reload.getLsbD h)
    ∧ ∀ n, partOfRegion s g.toNat = some n → epState s n ≠ 6 →
      ∃ t, exec (.keyReloadDone ⟨g, true⟩) s = .next t ∧ t.dram.reload.getLsbD g.toNat = false ∧ epState t n = 6
        ∧ rgB t (R.EP_STAT n) R.EP_STAT_LOST = true

/-! ### DMA (chapter 8) -/

/-- The DMA channels and the scratchpad's idle cycles (R323, R324, R337-R343): the descriptor at HEAD is taken in the cycle
that serves it and checked; a row from the mesh is asked for at once, what the local memory gives or takes moves in the
channel's own cycles; a completion is written in its cycle, and the pointer of the three contenders goes on. What the rules
leave open here follows log entries 42, 68 and 72. -/
def Obligations.DmaChannels : Prop :=
  ∀ (s : State) (b : Blk) (ch : Bool),
    let n := b.toNat
    let c := R.DMA_CTRL n (b2n ch)
    let ring := R.DMA_RING n (b2n ch)
    let size := rgF s c R.DMA_CTRL_SIZE
    let h := rgF s ring R.DMA_RING_HEAD
    let at_ := bwin n + rgF s ring R.DMA_RING_BASE + 64 * h
    let w (i : Nat) : Word := BitVec.ofNat 64 (readVal s (at_ + 16 * i) 16)
    let r : DmaRun := { entry := h, w0 := w 0, w1 := w 1, w2 := w 2, w3 := w 3 }
    let turn := spNext s n = some 2 ∧ descNext s n = ch
    let taken := turn ∧ dmaRun s n ch = none ∧ s.flaws = []
    let cycle : Prop := s.flaws = [] ∧ blockCur s n = 0 ∧ (if ch then dmaWants s n true = true ∧ (seqOf s n).tmPtr = 0 else spNext s n = some 1)
    let served : Host.Outcome State Fault Refusal :=
      if ch then exec (.turnPortBAccess b none []) s else exec (.scratchpadIdleGrant b []) s
    (rgB s c R.DMA_CTRL_EN = false → 1 ≤ size → size ≤ 12 → rgF s ring R.DMA_RING_BASE + 64 * 2 ^ size ≤ 0x80000 →
      ∃ t, exec (.dmaEnable b ch) s = .next t ∧ s.regsOnly t [c] ∧ rgB t c R.DMA_CTRL_EN = true)
    ∧ (rgB s c R.DMA_CTRL_EN = false → (size = 0 ∨ 12 < size ∨ 0x80000 < rgF s ring R.DMA_RING_BASE + 64 * 2 ^ size) →
      ∃ t, exec (.dmaEnable b ch) s = .next t ∧ s.regsOnly t [c] ∧ rgB t c R.DMA_CTRL_CFG = true ∧ rgB t c R.DMA_CTRL_EN = false)
    ∧ (∀ tail, ∃ t, exec (.dmaTailWrite b ch tail) s = .next t ∧ s.regsOnly t [ring]
        ∧ rgF t ring R.DMA_RING_TAIL = tail.toNat ∧ rgF t ring R.DMA_RING_HEAD = h)
    ∧ (taken → r.bad ch = true → ∃ t d, exec (.dmaDescriptor b ch) s = .next t ∧ dmaRun t n ch = some d ∧ d.status = 1
        ∧ d.eaddr.toNat = r.loc ∧ t.mesh = s.mesh ∧ t.mem = s.mem)
    ∧ (taken → r.bad ch = false → r.op = 0 → ∃ t d, exec (.dmaDescriptor b ch) s = .next t ∧ dmaRun t n ch = some d
        ∧ d.issuedAll = true ∧ d.status = 0 ∧ d.out = [] ∧ t.mesh = s.mesh ∧ t.mem = s.mem)
    ∧ (taken → r.bad ch = false → r.op = 1 → r.host = false → r.toLocal = true → r.rows = 1 → r.chunk ch = r.len →
      ownDevice s r.w2.toNat = false →
      ∃ t d q, exec (.dmaDescriptor b ch) s = .next t ∧ t.mesh.flight = s.mesh.flight ++ [q] ∧ t.mem = s.mem
        ∧ q.src = .dma b ch ∧ q.addr = r.w2.toNat ∧ q.len = r.len ∧ q.key.toNat = r.key ∧ q.wr = false
        ∧ dmaRun t n ch = some d ∧ d.issuedAll = true ∧ d.out = [(q.id, r.loc, r.w2.toNat)] ∧ rgB t c R.DMA_CTRL_BUSY = true)
    ∧ (taken → r.bad ch = false → r.local = true → ∃ t, exec (.dmaDescriptor b ch) s = .next t ∧ dmaRun t n ch = some r
        ∧ t.mesh = s.mesh ∧ t.mem = s.mem ∧ rgB t c R.DMA_CTRL_BUSY = true)
    ∧ (∀ d, cycle → dmaRun s n ch = some d → d.inbox = [] → d.local = true → d.op = 1 → d.host = false → d.row = 0 → d.off = 0 →
      d.rows = 1 → d.chunk ch = d.len → d.status = 0 → d.out = [] → ownDevice s d.w2.toNat = false →
      ∃ t e q, served = .next t ∧ t.mesh.flight = s.mesh.flight ++ [q] ∧ t.mem = s.mem ∧ q.src = .dma b ch ∧ q.wr = true
        ∧ q.addr = d.w2.toNat ∧ q.len = d.len ∧ q.key.toNat = d.key
        ∧ q.data.map BitVec.toNat = readDigits s (bwin n + d.loc) d.len
        ∧ dmaRun t n ch = some e ∧ e.issuedAll = true ∧ e.out = [(q.id, d.loc, d.w2.toNat)])
    ∧ (∀ d, cycle → dmaRun s n ch = some d → d.inbox = [] → d.fillLocal = true → d.issues = true →
      (ch = true → 0x100000 ≤ d.nextLocal) →
      ∃ t, served = .next t ∧ t.mesh = s.mesh ∧ dmaRun t n ch = some (d.advance (d.chunk ch))
        ∧ (∀ i, i < d.chunk ch → memDigit t.mem (bwin n + d.nextLocal + i) = d.w2.toNat / 16 ^ (15 - (d.off + i) % 16) % 16)
        ∧ ∀ a, (a < bwin n + d.nextLocal ∨ bwin n + d.nextLocal + d.chunk ch ≤ a) → memDigit t.mem a = memDigit s.mem a)
    ∧ (∀ d o ds rest, cycle → dmaRun s n ch = some d → d.inbox = (o, ds) :: rest →
      (ch = true → 0x100000 ≤ o ∧ o % 256 + ds.length ≤ 256) → ∃ t, served = .next t ∧ dmaRun t n ch = some { d with inbox := rest }
        ∧ readDigits t (bwin n + o) ds.length = ds.map BitVec.toNat
        ∧ ∀ a, (a < bwin n + o ∨ bwin n + o + ds.length ≤ a) → memDigit t.mem a = memDigit s.mem a)
    ∧ (∀ d, turn → dmaRun s n ch = some d → d.status = 0 →
      let e := bwin n + rgF s ring R.DMA_RING_BASE + 64 * d.entry
      ∃ t, exec (.dmaCompletion b ch) s = .next t ∧ dmaRun t n ch = none ∧ rgB t c R.DMA_CTRL_BUSY = false
        ∧ rgF t ring R.DMA_RING_HEAD = (d.entry + 1) % 2 ^ size % 2 ^ 12
        ∧ readVal t e 16 = putBits (putBits d.w0.toNat 15 8 0) 0 0 1
        ∧ (∀ a, (a < e ∨ e + 16 ≤ a) → memDigit t.mem a = memDigit s.mem a)
        ∧ (d.w0.getLsbD 55 = true → (rg t (R.BIC_PEND n)).testBit (5 + 2 * b2n ch) = true))
    ∧ (∀ d, turn → dmaRun s n ch = some d → d.status ≠ 0 →
      ∃ t, exec (.dmaCompletion b ch) s = .next t ∧ dmaRun t n ch = none ∧ rgB t c R.DMA_CTRL_EN = false
        ∧ rgB t c R.DMA_CTRL_ERR = true ∧ rg t (R.DMA_EADDR n (b2n ch)) = d.eaddr.toNat
        ∧ rgF t ring R.DMA_RING_HEAD = h
        ∧ readVal t (bwin n + rgF s ring R.DMA_RING_BASE + 64 * d.entry) 16 = putBits (putBits d.w0.toNat 15 8 d.status.toNat) 0 0 1)
    ∧ (dmaRun s n ch = none → ∃ t, exec (.dmaDisable b ch) s = .next t ∧ s.regsOnly t [c] ∧ rgB t c R.DMA_CTRL_EN = false)
    ∧ (∀ d, dmaRun s n ch = some d → d.ended = false → d.status = 0 →
      ∃ t, exec (.dmaDisable b ch) s = .next t ∧ rgB t c R.DMA_CTRL_EN = false ∧ t.mem = s.mem ∧ t.mesh = s.mesh
        ∧ ∃ e, dmaRun t n ch = some e ∧ e.status = 8)
    ∧ (rgF s (R.DMA_CTRL n 0) R.DMA_CTRL_STALL ≠ 0 →
      (∀ id q, reqOf s id = some q → atScratchpad s n q = true →
        exec (.scratchpadStallBound b (.mesh id)) s = .next (respond s q 4 []))
      ∧ ∀ d, rgB s c R.DMA_CTRL_EN = true → dmaRun s n ch = some d → d.status = 0 →
        ∃ t e, exec (.scratchpadStallBound b (.desc ch)) s = .next t ∧ dmaRun t n ch = some e ∧ e.status = 7
          ∧ e.eaddr.toNat = (match d.inbox with | (o, _) :: _ => o | [] => d.nextLocal) % 2 ^ 64 ∧ t.mem = s.mem
          ∧ (d.inbox ≠ [] → e.inbox = []))
    ∧ (turn → (dmaRun s n ch = none → exec (.scratchpadIdleGrant b []) s = exec (.dmaDescriptor b ch) s)
      ∧ (dmaRun s n ch ≠ none → exec (.scratchpadIdleGrant b []) s = exec (.dmaCompletion b ch) s))
    ∧ (∀ k t, spNext s n = some k → exec (.scratchpadIdleGrant b []) s = .next t → (seqOf t n).spPtr = (k + 1) % 3)
    ∧ (spNext s n = none → exec (.scratchpadIdleGrant b []) s = .next s)

/-! ### The mesh (chapter 10) -/

/-- Requests and responses (R267, R268, R346, R348, R353, R358-R360, R364, R366-R368, R75, R380): a request comes to the
memory whose port serves it, or is performed, or waits for its turn, or is answered with the status of what stops it; an
upset in the control store of its target strikes before it; a write that leaves its partition is logged; a response reaches
its sequencer after those that its source port sent before it, and one to an isolated source is lost; a freed tag goes to the
oldest that waits; an overdue request is answered and raises an alarm; a fence is placed, drains and holds packets. What the rules leave open here follows log entries 28, 31, 37, 82 and 84 to 86. -/
def Obligations.MeshRequests : Prop :=
  (∀ (s : State) (id : Nat) (q : MeshReq), reqOf s id = some q →
    let arrived (f : MeshReq → MeshReq) : MeshReq :=
      f { q with seq := if q.seq = 0 then s.mesh.nextSeq else q.seq, cyc := if q.seq = 0 then s.nclk else q.cyc }
    let waits (f : MeshReq → MeshReq) : Prop := ∃ t, exec (.meshRequest id none) s = .next t ∧ t.mem = s.mem ∧ t.regs = s.regs
      ∧ t.mesh.resps = s.mesh.resps ∧ reqOf t id = some (arrived f)
    let a := targetOf s q.addr
    (∀ b o, s.reaches q (.block b o) = true → (o + q.len ≤ 0x80000 ∨ (0x100000 ≤ o ∧ o + q.len ≤ 0x200000)) →
      waits fun x => { x with atPort := true, freed := false, passed := true })
    ∧ (∀ g, s.reaches q (.dram g) = true → waits fun x => { x with atPort := true, freed := false, passed := true })
    ∧ (s.reaches q a = true → portedTarget s q a = false → storeWaits s q a = false → before s q = none →
      exec (.meshRequest id none) s = .next (performAt s q a))
    ∧ (s.reaches q a = true → portedTarget s q a = false → (storeWaits s q a = true ∨ (before s q).isSome = true) →
      waits fun x => { x with passed := true })
    ∧ (∀ b o u, targetBlk s a = some (b, o) →
      exec (.meshRequest id (some u)) s = exec (.meshRequest id none) (csUpset s b u.word.toNat u.upset))
    ∧ (s.sends q = true → leavesPart s q a = true →
      logFill s (logRegion q.src) + (q.len + 1) / 2 ≤ 2 ^ 28 →
      ∃ t, exec (.meshRequest id none) s = .next t ∧ t.mesh = (respondAt s q.home q 0 []).mesh ∧ t.mem = s.mem
        ∧ (epochOf t (q.part.getD 0)).held = (epochOf s (q.part.getD 0)).held ++ [.meshWrite q])
    ∧ (s.sends q = true → leavesPart s q a = false → (∀ j x, a ≠ .device j x) → q.seq = 0 → nextSent s q = false →
      exec (.meshRequest id none) s = .next s)
    ∧ (s.sends q = true → leavesPart s q a = false → (∀ j x, a ≠ .device j x) → (q.seq ≠ 0 ∨ nextSent s q = true) →
      let r := routerFor a
      (∀ g, isolated s q a = some g → ∃ t, exec (.meshRequest id none) s = .next t ∧ t.mesh = (respond s q 5 []).mesh
        ∧ t.mem = s.mem
        ∧ rgF t (R.RT_ISO g) R.RT_ISO_ABSORB = min (rgF s (R.RT_ISO g) R.RT_ISO_ABSORB + 1) R.RT_ISO_ABSORB.top)
      ∧ (∀ z, isolated s q a = none → routeStop s 9 q.home r = some z → exec (.meshRequest id none) s = .next (respondAt s z q 5 []))
      ∧ (isolated s q a = none → routeDown s 9 q.home r = false →
        (refusedHeld s q a = true → exec (.meshRequest id none) s = .next (respond s q 6 []))
        ∧ (refusedHeld s q a = false →
          ((unplaced s a = true ∨ (q.passed = false ∧ fenceFor s a = none ∧ freedBefore s q a = true)) → waits fun x => x)
          ∧ (unplaced s a = false → q.passed = false → ∀ g j, fenceFor s a = some (g, j) → holdsWake s q g j = false →
            exec (.meshRequest id none) s = .next (respond s q 7 []))))))
  ∧ (∀ (s : State) (id : Nat) (r : MeshResp), s.mesh.resps.find? (fun r => r.id == id) = some r →
    firstResp s r = some r → portCut s r.req.home r.req.sport = true →
    let a := R.RT_ISO r.req.home
    ∃ t, exec (.meshResponse id) s = .next t ∧ t.mem = s.mem ∧ t.seqs = s.seqs ∧ t.mesh = (loseResp s r).mesh
      ∧ s.regsOnly { s with regs := t.regs } [a] ∧ rgF t a R.RT_ISO_ABSORB = min (rgF s a R.RT_ISO_ABSORB + 1) R.RT_ISO_ABSORB.top)
  ∧ (∀ (s : State) (id : Nat) (r : MeshResp) (b : Blk), s.mesh.resps.find? (fun r => r.id == id) = some r →
    firstResp s r = some r → portCut s r.req.home r.req.sport = false →
    r.req.id = id → r.req.src = .seq b → r.req.logOf = none → r.req.timedOut = false → r.req.dead = false →
    (∀ l, (seqOf s b.toNat).ldx.find? (fun l => l.id == id) = some l → r.status = 0 → l.reg < 0xD0 → l.reg ≠ 0xC0 →
      ∃ t, exec (.meshResponse id) s = .next t ∧ t.mem = s.mem ∧ t.mesh.resps = s.mesh.resps.filter (fun x => x.id != id)
        ∧ (seqOf t b.toNat).ldx = (seqOf s b.toNat).ldx.filter (fun l => l.id != id)
        ∧ let v := digitsVal (r.data.map BitVec.toNat)
          readId t b.toNat l.reg = (if l.sext then wrap 64 (sgn (4 * l.n) v) else v) % 2 ^ 64)
    ∧ (r.status ≠ 0 → ∃ t, exec (.meshResponse id) s = .next t ∧ t.mem = s.mem
        ∧ (seqOf t b.toNat).meshTraps
          = (seqOf s b.toNat).meshTraps ++ [(r.status, BitVec.ofNat 48 (askedAddr s r.req))]))
  ∧ (∀ (s : State) (id : Nat) (r : MeshResp), s.mesh.resps.find? (fun r => r.id == id) = some r →
    firstResp s r = some r → portCut s r.req.home r.req.sport = false → r.req.timedOut = true →
    let a := R.RT_TAGS r.req.home
    ∃ t, exec (.meshResponse id) s = .next t ∧ t.mem = s.mem ∧ t.seqs = s.seqs
      ∧ rgF t a R.RT_TAGS_LATE = min (rgF s a R.RT_TAGS_LATE + 1) R.RT_TAGS_LATE.top)
  ∧ (∀ (s : State) (id : Nat) (r x : MeshResp), s.mesh.resps.find? (fun r => r.id == id) = some r →
    firstResp s r = some x → x ≠ r → exec (.meshResponse id) s = .next s)
  ∧ (∀ (s : State) (x : Tracker), let r := trackerRouter x
    let wants (q : MeshReq) : Bool := q.untagged && trackerHome q.home == r && decide (tagsUsed s q.home < tagCap q.home)
    (s.mesh.flight.find? wants = none → exec (.tagAllocate x) s = .next s)
    ∧ ∀ q, s.mesh.flight.find? wants = some q →
      ∃ t tag, exec (.tagAllocate x) s = .next t ∧ t.mem = s.mem ∧ tag ∉ tagsIn s q.home ∧ tagBase q.home ≤ tag
        ∧ tag < tagBase q.home + tagCap q.home
        ∧ t.mesh.flight = s.mesh.flight.filter (fun y => y.id != q.id)
            ++ [{ q with untagged := false, tag := tag, sent := s.nclk, taken := s.nclk }])
  ∧ (∀ (s : State) (id : Nat) (q : MeshReq) (b : Blk), reqOf s id = some q →
    (q.sent + 1200 * rgF s R.MS_CTRL R.MS_CTRL_RTO > s.nclk → exec (.responseTimeout id) s = .next s)
    ∧ (q.sent + 1200 * rgF s R.MS_CTRL R.MS_CTRL_RTO ≤ s.nclk → q.timedOut = false → q.untagged = false → q.fenced = false →
      q.dead = false → q.logOf = none → q.src = .seq b →
      ∃ t, exec (.responseTimeout id) s = .next t ∧ t.mem = s.mem
        ∧ t.mesh.flight = s.mesh.flight.map (fun r => if r.id = id then { r with timedOut := true } else r)
        ∧ (seqOf t b.toNat).meshTraps = (seqOf s b.toNat).meshTraps ++ [(5, BitVec.ofNat 48 (askedAddr s q))]
        ∧ t.dbg.chk = s.dbg.chk ++ [(8, targetUnit s (targetOf s q.addr), q.addr)]))
  ∧ ∀ (s : State) (g : Rgn) (j : Fin 10),
    let r := g.toNat
    (sluiceSt s r j = 1 → ∃ t, exec (.sluiceFenceReq g j) s = .next t ∧ s.regsOnly t [R.GW_SLUICE r] ∧ sluiceSt t r j = 2)
    ∧ (sluiceSt s r j = 2 → drained s r j = true →
      ∃ t, exec (.sluiceDrained g j) s = .next t ∧ s.regsOnly t [R.GW_SLUICE r] ∧ sluiceSt t r j = 3)
    ∧ ∀ id q, reqOf s id = some q → q.held = none → q.untagged = false → q.fenced = false → q.done = false →
        q.passed = false → fenceFor s (targetOf s q.addr) = some (r, j.val) → holdsWake s q r j = true → sluiceSt s r j = 4 → heldCount s r < 64 →
        domCur s (domainNo r j) ≠ 0 → mapHas (domainNo r j) s.pwr.goal = false →
        ∃ t x, exec (.sluiceHeldArrival g j id) s = .next t ∧ t.mem = s.mem ∧ sluiceSt t r j = 5
          ∧ reqOf t id = some x ∧ x.held = some (10 * r + j) ∧ x = { q with held := x.held, seq := x.seq, cyc := x.cyc }
          ∧ mapHas (domainNo r j) t.pwr.goal = true ∧ mapGet 7 (domainNo r j) t.pwr.goal = 0

/-- Flits, outputs and windows (R24, R347, R350, R354-R356, R361-R365, R372): a head flit with good header parity joins its
input's queue, corrected, or is discarded, or answered where its link is down; a bad one is sent again, and after eight
resends the link is taken down on both sides; data flits follow their head; a router under reconfiguration takes no flit at
its local inputs; a free channel of an output goes to the next
input that waits, and an output grants VC3 first and VC0 last but after three NCLK; a stuck flit sets its LTO bit and is
kept; a window ends with the counters copied. What the rules leave open here follows log entries 29, 85 and 86. -/
def Obligations.MeshFlits : Prop :=
  (∀ (s : State) (r : Fin 24) (p : RPort) (v : BitVec 2) (f : Flit) (u : List FlitUpset),
    let n := portNum p
    let k := flitKey r.val n v.toNat
    let l := flitsAt s k
    let f1 := (mended f u).1
    let w := flitWord f1 0
    let out := outOf r.val w
    let mine := 4 ≤ n ∧ headSource f1 = r.val ∧ portCut s r.val (bits w 49 46) = true
    let lost := (mended f u).2.getLsbD 0 = true ∨ typeVC (headType f1) ≠ some (bits w 45 44)
    let went (t : State) : Prop := exec (.flitReceive r p ⟨v, f⟩ u) s = .next t
    let busy : Prop := 4 ≤ n ∧ mapHas r.val s.mesh.recfg = true
    (busy → went s)
    ∧ (¬ busy →
    (f.head = true → hparOk (flitWord f 0) = true → ¬ mine → (out < 4 → linkDown s r.val out = false) → (4 ≤ out → ¬ lost) →
      takesFlit v.toNat (l.map QFlit.mc) (mcAlarm f1) = true →
      ∃ t, went t ∧ t.out = s.out ∧ t.regs = s.regs
        ∧ flitsAt t k = l ++ [{ f := f1, bad := (mended f u).2, out := out, last := dataFlits f1 == 0, mc := mcAlarm f1, since := s.nclk }]
        ∧ mapGet {} k t.mesh.packets = { out := out, left := dataFlits f1, mc := mcAlarm f1, drop := false })
    ∧ (f.head = true → hparOk (flitWord f 0) = true → 4 ≤ out → lost →
      ∃ t, went t ∧ t.dbg.chk = s.dbg.chk ++ [(8, 0x200 + routerUnit r.val, 0)] ∧ t.mesh.queues = s.mesh.queues
        ∧ t.mesh.flight = (discardPacket s f1).mesh.flight ∧ t.mesh.resps = (discardPacket s f1).mesh.resps
        ∧ (∀ q, headReq s f1 = some q → t.mesh.resps = s.mesh.resps ∧ t.mesh.flight
            = s.mesh.flight.map fun x => if x.id = q.id then { x with done := true } else x)
        ∧ (mapGet {} k t.mesh.packets).drop = true)
    ∧ (f.head = true → hparOk (flitWord f 0) = true → out < 4 → mine →
      ∃ t, went t ∧ t.mesh.queues = s.mesh.queues ∧ (mapGet {} k t.mesh.packets).drop = true
        ∧ rgF t (R.RT_ISO r) R.RT_ISO_ABSORB = min (rgF s (R.RT_ISO r) R.RT_ISO_ABSORB + 1) R.RT_ISO_ABSORB.top)
    ∧ (f.head = true → hparOk (flitWord f 0) = true → out < 4 → ¬ mine → linkDown s r.val out = true →
      ∃ t, went t ∧ t.mesh.queues = s.mesh.queues ∧ (mapGet {} k t.mesh.packets).drop = true
        ∧ ∀ q, headReq s f1 = some q → routeDown s 9 r.val q.home = false →
          t.mesh.resps = s.mesh.resps ++ [{ id := q.id, req := q, status := 5, data := [], via := (r.val, answerPort s r.val q) }])
    ∧ (f.head = true → hparOk (flitWord f 0) = false → mapGet 0 k s.mesh.retry < 8 →
      ∃ t more, went t ∧ t.out = s.out ++ .resend r.val (portNamed n) :: more
        ∧ t.mesh.queues = s.mesh.queues ∧ mapGet 0 k t.mesh.retry = mapGet 0 k s.mesh.retry + 1
        ∧ (∀ c x, feeder r.val n v.toNat = some c → keptFlit s c l.length = some x →
            more = [.flit (c / 32) (portNamed (facing n)) v.toNat x])
        ∧ rgF t (R.RT_LINK r) R.RT_LINK_RETRY = min (rgF s (R.RT_LINK r) R.RT_LINK_RETRY + 1) R.RT_LINK_RETRY.top)
    ∧ (f.head = true → hparOk (flitWord f 0) = false → 8 ≤ mapGet 0 k s.mesh.retry → ∀ o, n < 4 → routerBeside r.val n = some o →
      ∃ t, went t ∧ t.out.length = s.out.length + 2 ∧ linkDown t r.val n = true ∧ linkDown t o (facing n) = true
        ∧ t.dbg.chk = s.dbg.chk ++ [(8, 0x200 + routerUnit r.val, 1 + n), (8, 0x200 + routerUnit o, 1 + facing n)]
        ∧ rgF t (R.RT_LINK r) R.RT_LINK_RETRY = rgF s (R.RT_LINK r) R.RT_LINK_RETRY)
    ∧ (f.head = false → (mapGet {} k s.mesh.packets).left = 0 → went s)
    ∧ (f.head = false → ∀ i, mapGet {} k s.mesh.packets = i → 0 < i.left → ∃ t, went t ∧ t.out = s.out ∧ t.regs = s.regs
        ∧ mapGet {} k t.mesh.packets = { i with left := i.left - 1 }
        ∧ (i.drop = true → t.mesh.queues = s.mesh.queues)
        ∧ (i.drop = false → takesFlit v.toNat (l.map QFlit.mc) i.mc = true →
          flitsAt t k = l ++ [{ f := f1, bad := (mended f u).2, out := i.out, last := i.left == 1, mc := i.mc, since := s.nclk }])))
    ∧ (∀ x, frontFlit s r.val n v.toNat = some x →
      ((x.warned = true ∨ s.nclk < x.since + 76800) → exec (.linkTimeout r p v) s = .next s)
      ∧ (x.warned = false → x.since + 76800 ≤ s.nclk → ∃ t, exec (.linkTimeout r p v) s = .next t
        ∧ frontFlit t r.val n v.toNat = some { x with warned := true } ∧ (flitsAt t k).length = l.length
        ∧ (n < 4 → (rg t (R.RT_LINK r)).testBit (43 - n) = true)
        ∧ (4 ≤ n → rgB t (R.RT_LINK r) R.RT_LINK_LTOL = true)
        ∧ (mapHas (1024 + 0x200 + routerUnit r.val) (rollSpill s).dbg.spill = false →
          .alarm 2 1 (0x200 + routerUnit r.val) 0 0 (now s) (now s) (4 * n + v.toNat) ∈ t.out)))
    ∧ (frontFlit s r.val n v.toNat = none → exec (.linkTimeout r p v) s = .next s))
  ∧ (∀ (s : State) (r o vc i : Nat), let k := flitKey r o vc
    let p := mapGet 0 k s.mesh.ptr % 6
    let waits (j : Nat) : Prop := ∃ x, frontFlit s r j vc = some x ∧ x.out = o ∧ x.f.head = true ∧ x.drop = false
    mapHas k s.mesh.alloc = false → i < 6 → waits i → (∀ j, j < 6 → waits j → (i + 6 - p) % 6 ≤ (j + 6 - p) % 6) →
    mapGet 6 k (allocate s r o vc).mesh.alloc = i ∧ mapHas k (allocate s r o vc).mesh.alloc = true
      ∧ mapGet 0 k (allocate s r o vc).mesh.ptr = (i + 1) % 6)
  ∧ (∀ (s : State) (r : Nat) (o : Fin 4),
    let z := (List.range 4).foldl (fun s vc => allocate s r o vc) s
    let k := 8 * r + o.val
    let hungry := mapGet 0 k s.mesh.starve
    let t := outputCycle s r o
    ((∀ vc, vc < 4 → sendable z r o vc = none) → t.out = s.out ∧ mapGet 0 k t.mesh.starve = 0)
    ∧ (∀ vc i x, vc < 4 → sendable z r o vc = some (i, x) →
      (mapGet [] (flitKey r o vc) z.mesh.creds).length < 8
      ∧ ((vc = 0 → 3 ≤ hungry ∨ ∀ c, 0 < c → c < 4 → sendable z r o c = none) → (0 < vc → ∀ c, vc < c → c < 4 → sendable z r o c = none) →
        (0 < vc → sendable z r o 0 = none ∨ hungry < 3) →
        t.out = s.out ++ [.flit r (portNamed o) vc x.f]
        ∧ mapGet [] (flitKey r o vc) t.mesh.creds = mapGet [] (flitKey r o vc) z.mesh.creds ++ [(i, x.mc)]
        ∧ mapGet 0 k t.mesh.starve = if vc ≠ 0 ∧ (sendable z r o 0).isSome then hungry + 1 else 0)))
  ∧ ∀ s : State, rgB s R.MS_STAT R.MS_STAT_EN = true → ∀ e, s.mesh.statNext = some e →
    let p := rgF s R.MS_STAT R.MS_STAT_PERIOD
    (now s < e → exec .statsWindowEnd s = .next s)
    ∧ (e ≤ now s → ∃ t, exec .statsWindowEnd s = .next t ∧ t.mesh.live = [] ∧ t.mem = s.mem
      ∧ t.mesh.statNext = some ((now s / p + 1) * p)
      ∧ rgF t R.MS_STAT R.MS_STAT_WINDOWS
        = (rgF s R.MS_STAT R.MS_STAT_WINDOWS + 1 + (now s - e) / p) % (R.MS_STAT_WINDOWS.top + 1)
      ∧ (now s < e + p → (s.mesh.live.map fun e => e.1).Nodup → (∀ x ∈ s.mesh.live, x.1 ≠ R.MS_STAT ∧ x.2 < 2 ^ 64) →
          ∀ x ∈ s.mesh.live, rg t x.1 = x.2))

/-! ### Epochs and concealment (chapter 11) -/

/-- An epoch boundary step by step (R376-R380): the schedule, the request, the stop, the copy of the partition's state,
the commit with the epoch counted, the time shown and the held writes sent. What the rules leave open here follows log
entries 35, 36, 37 and 91. -/
def Obligations.EpochBoundaries : Prop :=
  ∀ (s : State) (p : Part),
    let n := p.toNat
    let e := epochOf s n
    let ready := defined s n = true ∧ epState s n ≠ 0 ∧ epState s n ≠ 6 ∧ e.step = 0 ∧ boundaryWaits s n = false ∧ cascadePart s n = false
    let requested (t : State) : Prop := (epochOf t n).step = 1 ∧ epState t n = 2 ∧ t.mem = s.mem
      ∧ ∀ b ∈ blocksOf s n, (seqOf t b).epochReq = true
    (ready → e.next ≤ now s → ∃ t, exec (.epochBoundaryTick p) s = .next t ∧ requested t
      ∧ (epochOf t n).next = e.next + (partCfg s n).epochMs * 100000)
    ∧ (ready → ∃ t, exec (.epochBreq p) s = .next t ∧ requested t ∧ (epochOf t n).next = now s + (partCfg s n).epochMs * 100000)
    ∧ (defined s n = true → epState s n ≠ 0 → epState s n ≠ 6 → e.step = 0 → cascadePart s n = false → boundaryWaits s n = true →
      ∃ t, exec (.epochBreq p) s = .next t ∧ (epochOf t n).defer = true ∧ (epochOf t n).step = 0)
    ∧ (e.step = 1 → (blocksOf s n).all (standsStill s) = true → ∃ t, exec (.epochStop p) s = .next t
      ∧ (epochOf t n).step = 2 ∧ t.mem = s.mem
      ∧ s.regsOnly { s with regs := t.regs } ((List.range 128).map R.ARR_SUSP) ∧ ∀ b ∈ blocksOf s n, (seqOf t b).epochStop = true)
    ∧ (e.step = 1 → (blocksOf s n).all (standsStill s) = false → exec (.epochStop p) s = .next s)
    ∧ (e.step = 2 → meshOut s n = false → hostRowOut s n = false → cascadePart s n = false →
      ∃ t, exec (.epochQuiesceDone p) s = .next t ∧ (epochOf t n).alt = some (takeSnap s n) ∧ (epochOf t n).step = 4
        ∧ s.regsOnly { t with epochs := s.epochs } [R.EP_STAT n] ∧ epState t n = 4)
    ∧ (∀ c, e.step = (if cascadePart s n then 5 else 4) → e.alt = some c → e.waiters = [] → e.off = [] → parkedFor s n = [] →
      s.host.fences = [] → (∀ b ∈ blocksOf s n, (seqOf s b).susp = none) →
      (∀ h ∈ e.held, ∃ i f a d, h = .hostWrite i f a d ∧ busMaster s f = true) →
      ∃ t, exec (.epochCommit p) s = .next t ∧ (epochOf t n).com = some { c with pwr := pwrOf s n } ∧ (epochOf t n).alt = none ∧ (epochOf t n).held = []
        ∧ (epochOf t n).step = 0 ∧ (epochOf t n).strikes = [] ∧ epState t n = 1
        ∧ rgF t (R.EP_STAT n) R.EP_STAT_EPOCH = (rgF s (R.EP_STAT n) R.EP_STAT_EPOCH + 1) % 2 ^ 32
        ∧ rg t (R.EP_TLAST n) = now s ∧ t.mem = s.mem
        ∧ t.out = s.out ++ e.held.filterMap (fun h => match h with | .hostWrite _ f a d => some (.hostWrite f a d) | _ => none)
        ∧ (∀ fr ∈ e.shadowed, (keyByte t fr).testBit 6 = false)
        ∧ ∀ b ∈ blocksOf s n, (seqOf t b).epochReq = false ∧ (seqOf t b).epochStop = false)

/-- Strikes, rollback, loss and migration (R375, R384, R388, R390, R511): a first strike rolls the partition back to its
committed copy, counted and journaled; a strike on DRAM outside the epoch's shadows loses the partition; after the
restore it runs on, or stays halted; a migration stops the partition, moves the state to the new holder, or to a free spare
where all corrections lay in one column, and lets it go on. What the rules leave open here follows log entries 38, 41, 95 and 97. -/
def Obligations.StrikesAndMigration : Prop :=
  (∀ (s : State) (m : MCheck) (b n : Nat) (c : Snap), (m.src = 1 ∨ m.src = 2 ∨ m.src = 5) →
    blockOfPhys s m.unit.toNat = some b → partOf s b = some n → epState s n ≠ 6 → cascadePart s n = false →
    (heldRegion s (m.unit.toNat / 9) = true → ∃ c, storeOfPhys s m.unit.toNat = some c ∧ heldRegion s (c / 8) = false) →
    (1, m.unit, 0) ∉ (epochOf s n).strikes → (epochOf s n).com = some c → c.memWf = true →
    ∃ t, exec (.machineCheckAlarm m) s = .next t ∧ epState t n = 5 ∧ (epochOf t n).rolling = true
      ∧ (1, m.unit, 0) ∈ (epochOf t n).strikes ∧ (epochOf t n).held = [] ∧ (epochOf t n).com = some c
      ∧ rgF t (R.EP_STAT n) R.EP_STAT_ROLLBK = min (rgF s (R.EP_STAT n) R.EP_STAT_ROLLBK + 1) R.EP_STAT_ROLLBK.top
      ∧ rgF t R.CN_COUNT R.CN_COUNT_ROLLBACKS = min (rgF s R.CN_COUNT R.CN_COUNT_ROLLBACKS + 1) R.CN_COUNT_ROLLBACKS.top
      ∧ ∀ a, memDigit t.mem a = if ownedBy s n (2 * (a / 2)) then memDigit c.mem a else memDigit s.mem a)
  ∧ (∀ (s : State) (m : MCheck) (b n : Nat), (m.src = 1 ∨ m.src = 2 ∨ m.src = 5) →
    blockOfPhys s m.unit.toNat = some b → partOf s b = some n → epState s n ≠ 6 → cascadePart s n = false →
    (heldRegion s (m.unit.toNat / 9) = true → ∃ c, storeOfPhys s m.unit.toNat = some c ∧ heldRegion s (c / 8) = false) →
    (1, m.unit, 0) ∈ (epochOf s n).strikes → m.badCol = none → underLoad s (b / 8) = false → underLoad s (m.unit.toNat / 9) = false →
    rgF s (R.BSW_MAP (b / 8)) R.BSW_MAP_SPARE_ST = 0 → (rgF s (R.BSW_MAP (b / 8)) R.BSW_MAP_DEAD).testBit 8 = false →
    ∃ t, exec (.machineCheckAlarm m) s = .next t ∧ holderCode t b = 8
      ∧ (rgF t (R.BSW_MAP (m.unit.toNat / 9)) R.BSW_MAP_DEAD).testBit (m.unit.toNat % 9) = true
      ∧ (mapGet 0 (m.unit.toNat / 9) t.jdead).getLsbD (m.unit.toNat % 9) = true
      ∧ rgF t R.CN_COUNT R.CN_COUNT_BLKSPARES = min (rgF s R.CN_COUNT R.CN_COUNT_BLKSPARES + 1) R.CN_COUNT_BLKSPARES.top
      ∧ epState t n = 5 ∧ (epochOf t n).rolling = true)
  ∧ (∀ (s : State) (m : MCheck), (m.src = 1 ∨ m.src = 2 ∨ m.src = 5) → m.unit.toNat < 144 →
    heldRegion s (m.unit.toNat / 9) = true → (∀ b, storeOfPhys s m.unit.toNat = some b → heldRegion s (b / 8) = true) →
    ∃ t, exec (.machineCheckAlarm m) s = .next t ∧ t.epochs = s.epochs ∧ t.mem = s.mem
      ∧ (mapGet 0 (m.unit.toNat / 9) t.jdead).getLsbD (m.unit.toNat % 9) = true)
  ∧ (∀ (s : State) (m : MCheck) (n : Nat), m.src = 6 → partOfRegion s (dramRegion m.loc.toNat) = some n → epState s n ≠ 6 →
    (epochOf s n).shadowed.contains (m.loc.toNat / 0x20000) = false → keepsHeld s n = false →
    ∃ t, exec (.machineCheckAlarm m) s = .next t ∧ epState t n = 6 ∧ rgB t (R.EP_STAT n) R.EP_STAT_LOST = true
      ∧ rgF t R.CN_COUNT R.CN_COUNT_OUTSIDE = min (rgF s R.CN_COUNT R.CN_COUNT_OUTSIDE + 1) R.CN_COUNT_OUTSIDE.top
      ∧ (epochOf t n).held = [] ∧ (epochOf t n).waiters = [] ∧ t.mem = s.mem)
  ∧ (∀ (s : State) (p : Part),
    let n := p.toNat
    let e := epochOf s n
    (e.wait ≠ [] → exec (.rollbackResume p) s = .next s)
    ∧ (e.rolling = true → e.wait = [] → e.defer = false → e.preq = [] →
      (∀ c, e.com = some c → ∀ x ∈ c.pwr, ∀ d, pwrDom s x.1 = some d → ∀ g j, sluiceOf d = some (g, j) →
        sluiceSt s g j = 0 ∧ x.2.toNat < 4) → ∃ t, exec (.rollbackResume p) s = .next t ∧ (epochOf t n).rolling = false
      ∧ epState t n = 1 ∧ t.mem = s.mem
      ∧ ∀ b ∈ blocksOf s n, rgB t (R.DBG_STATUS b) R.DBG_STATUS_HALTED = (e.wasHalted || !(seqOf s b).inProg)
          ∧ (e.wasHalted = true → rgB t (R.DBG_STATUS b) R.DBG_STATUS_RBK = true ∧ rgF t (R.DBG_STATUS b) R.DBG_STATUS_CAUSE = 1)))
  ∧ ∀ (s : State) (b : Blk) (n : Nat), partOf s b.toNat = some n →
    (∀ col, (seqOf s b.toNat).mig = 1 → (seqOf s b.toNat).migCol = col → epState s n = 1 →
      (match col with | some _ => (freeSpare s b.toNat).isSome | none => (newHolder s (b.toNat / 8) (b.toNat % 8) true true).isSome) = true →
      ∃ t, exec (.migration b col) s = .next t ∧ (seqOf t b.toNat).mig = 2 ∧ t.mem = s.mem
        ∧ ∀ c ∈ blocksOf s n, rgB t (R.DBG_STATUS c) R.DBG_STATUS_STOPPED = true)
    ∧ (∀ (c : Fin 144) (k : Nat), (seqOf s b.toNat).mig = 2 → (seqOf s b.toNat).migCol = some c → freeSpare s b.toNat = some k →
      ∃ t, exec (.migrationDone b (some c)) s = .next t ∧ (seqOf t b.toNat).mig = 0 ∧ t.mem = s.mem
        ∧ rgF t (R.ARR_COLMAP b.toNat) (spFld k) = 1024 + c.val
        ∧ rgF t R.CN_COUNT R.CN_COUNT_COLSPARES = min (rgF s R.CN_COUNT R.CN_COUNT_COLSPARES + 1) R.CN_COUNT_COLSPARES.top
        ∧ rgF t R.CN_COUNT R.CN_COUNT_MIGRATES = min (rgF s R.CN_COUNT R.CN_COUNT_MIGRATES + 1) R.CN_COUNT_MIGRATES.top)
    ∧ ∀ code x, (seqOf s b.toNat).mig = 2 → (seqOf s b.toNat).migCol = none → newHolder s (b.toNat / 8) (b.toNat % 8) true true = some (code, x) →
      ∃ t, exec (.migrationDone b none) s = .next t ∧ (seqOf t b.toNat).mig = 0 ∧ holderCode t b.toNat = code
        ∧ ∀ p, holder t b.toNat = some p → ∀ a, (a < bwin (idleBlk p) ∨ bwin (idleBlk p) + 0x1000000 ≤ a) →
            memDigit t.mem a = memDigit s.mem a

/-- The messages of a cascade's boundary (R389): PREPARE opens a member's boundary and goes on, READY from every device
lets the lead send COMMIT, COMMIT makes a prepared member commit, FAIL and a READY missing CTO after PREPARE make the lead
abort and roll back, ABORT makes a member roll back, a lost path takes the partition out of concealment and a prepared member
keeps its held effects, and the message that is not acknowledged is sent again; they pass usable ports only. What the rules
leave open here follows log entries 39 and 99. -/
def Obligations.CascadeBoundaries : Prop :=
  ∀ (s : State) (e : BitVec 32) (dev : BitVec 4), inCascade s = true →
    let n := casPart s
    let ep := epochOf s n
    let lead := leadsCascade s
    let on (kind : Nat) (v : Word) : List Out := ((awayPorts s).filter (portUsable s)).map fun p => .rein p kind v
    (lead = false → forEpoch s e = true → s.rein.prepared ≠ some e → ep.step = 0 → boundaryWaits s n = false →
      ∃ t, exec (.prepare e) s = .next t ∧ (epochOf t n).step = 1 ∧ epState t n = 2 ∧ t.mem = s.mem
        ∧ t.out = s.out ++ on 4 (e.setWidth 64))
    ∧ (lead = true → forEpoch s e = true → ep.step = 4 →
      (otherDevices s).all (fun d => (setAdd dev s.rein.ready).contains (BitVec.ofNat 4 d)) = true →
      ∃ t, exec (.ready dev e) s = .next t ∧ (epochOf t n).step = 5 ∧ epState t n = 4 ∧ t.mem = s.mem
        ∧ t.rein.unacked = some (7, e.setWidth 64) ∧ t.out = s.out ++ on 7 (e.setWidth 64))
    ∧ (lead = true → forEpoch s e = true → ep.step ≠ 0 →
      (otherDevices s).all (fun d => (setAdd dev s.rein.ready).contains (BitVec.ofNat 4 d)) = false →
      exec (.ready dev e) s = .next { s with rein := { s.rein with ready := setAdd dev s.rein.ready } })
    ∧ (lead = false → exec (.ready dev e) s = .next (toLead s 5 (BitVec.ofNat 64 (dev.toNat * 2 ^ 32 + e.toNat))))
    ∧ (lead = true → forEpoch s e = true → ep.step ≠ 5 → ep.rolling = false →
      ∃ t, exec (.fail dev (.epoch e)) s = .next t ∧ epState t n = 5 ∧ (epochOf t n).rolling = true
        ∧ t.rein.unacked = some (8, e.setWidth 64) ∧ t.out = s.out ++ on 8 (e.setWidth 64))
    ∧ (lead = true → ∃ t, exec (.fail dev .lost) s = .next t ∧ epState t n = 6 ∧ rgB t (R.EP_STAT n) R.EP_STAT_LOST = true
        ∧ t.mem = s.mem)
    ∧ (lead = false → ∀ m, exec (.fail dev m) s = .next (toLead s 6 (BitVec.ofNat 64 (dev.toNat * 2 ^ 32) + cascArg m)))
    ∧ (lead = false → s.rein.prepared = some e → ep.step = 4 → ep.held = [] → ep.waiters = [] → ep.off = [] →
      parkedFor s n = [] → s.host.fences = [] → (∀ b ∈ blocksOf s n, (seqOf s b).susp = none) →
      ∃ t, exec (.commit e) s = .next t ∧ t.rein.prepared = none
        ∧ (epochOf t n).com = ep.alt.map (fun c => { c with pwr := pwrOf s n })
        ∧ (epochOf t n).step = 0 ∧ rgF t (R.EP_STAT n) R.EP_STAT_EPOCH = (rgF s (R.EP_STAT n) R.EP_STAT_EPOCH + 1) % 2 ^ 32
        ∧ t.out = s.out ++ on 7 (e.setWidth 64))
    ∧ (lead = false → forEpoch s e = true → ep.rolling = false →
      ∃ t, exec (.abort (.epoch e)) s = .next t ∧ t.rein.prepared = none ∧ t.rein.unacked = none ∧ epState t n = 5
        ∧ (epochOf t n).alt = none ∧ t.out = s.out ++ on 8 (e.setWidth 64))
    ∧ (lead = false → ∃ t, exec (.abort .lost) s = .next t ∧ epState t n = 6 ∧ rgB t (R.EP_STAT n) R.EP_STAT_LOST = true
        ∧ t.mem = s.mem ∧ (epochOf t n).held = if keepsHeld s n then ep.held else [])
    ∧ (lead = true → ep.step ≠ 0 → ep.step ≠ 5 → ep.rolling = false →
      (otherDevices s).all (fun d => s.rein.ready.contains (BitVec.ofNat 4 d)) = false →
      ep.prep + 100 * rgF s R.CN_CTRL R.CN_CTRL_CTO ≤ now s →
      ∃ t, exec .cascadeReadyTimeout s = .next t ∧ epState t n = 5 ∧ (epochOf t n).rolling = true
        ∧ t.rein.unacked = some (8, BitVec.ofNat 64 (nextEpoch s n)))
    ∧ (∀ m, s.rein.unacked = some m → lead = true → ∃ t, exec .cascadeMsgRepeat s = .next t
        ∧ t = { s with out := t.out } ∧ t.out = s.out ++ on m.1 m.2)

/-! ### Structural images (chapter 4) -/

/-- The image engine's phases (R68-R77, R370): a start is refused while busy; CHECK rejects, leaving everything else, or
opens the load with the boundaries of the partitions it replaces; the drained hold puts the affected regions into reset;
a good frame is staged and a bad one fails the load; APPLY writes the staged settings and clears the planes; a router
takes its settings, and a spare that it has lent to a running partition keeps its policy; RELEASE starts the partitions. What the rules leave open here follows log entries 22, 25 to 27,
95 and 96. -/
def Obligations.ImageLoads : Prop :=
  (∀ (s : State) (i : Initiator),
    (rgB s R.IMG_STATUS R.IMG_STATUS_BUSY = true → ∃ t, exec (.imgGo i) s = .next t ∧ s.regsOnly t [R.IMG_STATUS]
      ∧ rgB t R.IMG_STATUS R.IMG_STATUS_REFUSED = true)
    ∧ (rgB s R.IMG_STATUS R.IMG_STATUS_BUSY = false → (∀ n, n < 16 → (epochOf s n).wait = []) → ∀ r, checkRej s = some r → ∃ t, exec (.imgGo i) s = .next t
      ∧ rgB t R.IMG_STATUS R.IMG_STATUS_ERR = true ∧ rgF t R.IMG_ERR R.IMG_ERR_CODE = r.1 % 256
      ∧ rgF t R.IMG_STATUS R.IMG_STATUS_PHASE = 0 ∧ rgB t R.IMG_STATUS R.IMG_STATUS_BUSY = false ∧ t.img = none
      ∧ t.cfg = s.cfg ∧ t.mem = s.mem ∧ t.cells = s.cells ∧ t.seqs = s.seqs ∧ t.epochs = s.epochs)
    ∧ (rgB s R.IMG_STATUS R.IMG_STATUS_BUSY = false → checkRej s = none → ∃ t, exec (.imgGo i) s = .next t
      ∧ t.img = some (openLoad s none) ∧ rgF t R.IMG_STATUS R.IMG_STATUS_PHASE = 2
      ∧ rgB t R.IMG_STATUS R.IMG_STATUS_BUSY = true ∧ t.cfg = s.cfg ∧ t.mem = s.mem
      ∧ ∀ n ∈ (openLoad s none).replaced, epState s n ≠ 6 → epState s n ≠ 0 → (epochOf s n).step = 0 →
          (epochOf s n).rolling = false → cascadePart s n = false → (epochOf t n).step = 1 ∧ epState t n = 2))
  ∧ ∀ (s : State) (L : ImgLoad), s.img = some L →
    let gs := (List.range 16).filter L.affected.getLsbD
    let ns := (L.owner.map fun e => e.2).eraseDups
    let f := imgFrame s L.frames.length
    let bad := frameRej L.v1 (!L.v1 && !L.partial_) L.partMask.toNat L.frames.length f
    let calm := ∀ n, n < 16 → (epochOf s n).wait = []
    (phase s = 2 → s.cellsWf = true → committedAll s L = true →
      ((loadDoms s L).all fun d => decide (1 ≤ sluiceSt s d.1 d.2) && drained s d.1 d.2) = true →
      (∀ n ∈ L.replaced, n < 16) →
      ∃ t, exec .imageHoldDrained s = .next t ∧ phase t = 3 ∧ t.mem = s.mem ∧ (∀ n ∈ L.replaced, epState t n = 0)
        ∧ (∀ g ∈ gs, heldRegion t g = true) ∧ (∀ d ∈ loadDoms s L, 3 ≤ sluiceSt t d.1 d.2)
        ∧ ∀ b i, b < 128 → i < 16384 → (cellAt t b i).planes = (cellAt s b i).planes
            ∧ (L.affected.getLsbD (b / 8) = true → cellAt t b i = { planes := (cellAt t b i).planes }))
    ∧ (phase s = 3 → bad = none → L.frames.length + 1 < L.count →
        exec .imageFrame s = .next { s with img := some { L with frames := L.frames ++ [f] } })
    ∧ (phase s = 3 → calm → ∀ r, bad = some r → ∃ t, exec .imageFrame s = .next t ∧ phase t = 7 ∧ t.img = none
        ∧ rgB t R.IMG_STATUS R.IMG_STATUS_ERR = true ∧ rgF t R.IMG_ERR R.IMG_ERR_CODE = r.1 % 256
        ∧ rgB t R.IMG_STATUS R.IMG_STATUS_BUSY = false ∧ (∀ g ∈ gs, assigned t g = false) ∧ t.mem = s.mem)
    ∧ (phase s = 3 → bad = none → L.count ≤ L.frames.length + 1 →
      digestBytes (sha3_384 (L.frames ++ [f]).flatten) ≠ ((imgTrailer s L.count 3365).drop 8).take 48 →
      ∃ t, exec .imageFrame s = .next t ∧ phase t = 7 ∧ t.img = none ∧ rgF t R.IMG_ERR R.IMG_ERR_CODE = 0x16)
    ∧ (∀ c r, phase s = 5 → calm → L.staged = some c → sparing s L c = .error r →
      ∃ t, exec .imageApply s = .next t ∧ phase t = 7 ∧ t.img = none ∧ rgF t R.IMG_ERR R.IMG_ERR_CODE = r.1 % 256 ∧ t.mem = s.mem)
    ∧ (∀ c maps, phase s = 5 → L.staged = some c → sparing s L c = .ok maps → (∀ e ∈ L.owner, e.2 < 16) → (∀ n ∈ L.replaced, n < 16) →
      s.cellsWf = true →
      ∃ t, exec .imageApply s = .next t ∧ phase t = 6 ∧ t.cfg = c
        ∧ (∀ e ∈ maps, rg t (R.BSW_MAP e.1) = e.2.toNat)
        ∧ (∀ a, a < 0x8000000000 → memDigit t.mem a = memDigit s.mem a)
        ∧ (∀ n ∈ ns, rg t (R.IMG_PVER n) = L.version.toNat)
        ∧ (∀ g ∈ gs, partOfRegion t g = (if mapHas g L.owner then some (mapGet 0 g L.owner) else none)
            ∧ rgB t (R.RT_LINK g) R.RT_LINK_RECFG = true)
        ∧ ∀ b, b < 128 →
            (L.affected.getLsbD (b / 8) = true → blockCur t b ≠ 5 → ∀ i, i < 16384 → cellAt t b i = {})
            ∧ (ownPhys t b = ownPhys s b →
              ((L.affected.getLsbD (b / 8) = false ∨ blockCur t b = 5) → ∀ i, i < 16384 → cellAt t b i = cellAt s b i)
              ∧ ∀ o, o < 0x1000000 → memDigit t.mem (bwin b + o) = memDigit s.mem (bwin b + o)))
    ∧ (∀ (x : Fin 6) (y : Fin 4),
      let r := routerAt x y
      let since := mapGet s.nclk r s.mesh.recfg
      let empty := (s.mesh.queues.all fun e => e.1 / 32 != r || e.2.isEmpty) = true
      rgB s (R.RT_LINK r) R.RT_LINK_RECFG = true →
      (¬ empty → s.nclk < since + 2400 → exec (.routerReconfig x y) s = .next s)
      ∧ ((empty ∨ since + 2400 ≤ s.nclk) →
      ∃ t, exec (.routerReconfig x y) s = .next t ∧ rgB t (R.RT_LINK r) R.RT_LINK_RECFG = false ∧ mapHas r t.mesh.recfg = false
        ∧ rgF t (R.RT_LINK r) R.RT_LINK_HOLDMAX = max (min 65535 (s.nclk - since)) (rgF s (R.RT_LINK r) R.RT_LINK_HOLDMAX)
        ∧ (r < 16 → bits (rg t (R.RT_ISO r)) 9 1 = rgF s (R.BSW_MAP r) R.BSW_MAP_DEAD
            ∧ (∀ n, partOfRegion s r = some n → ∀ j, j < 10 → (j = 8 → ∀ b, blockOfPhys s (9 * r + 8) = some b → b / 8 = r) →
                (rgF t (R.GW_SLUICE r) R.GW_SLUICE_POL).testBit j = (partCfg s n).sluice.getLsbD (if j = 9 then 1 else 0))
            ∧ ∀ b, blockOfPhys s (9 * r + 8) = some b → b / 8 ≠ r → underLoad s (b / 8) = false →
                (rgF t (R.GW_SLUICE r) R.GW_SLUICE_POL).testBit 8 = (rgF s (R.GW_SLUICE r) R.GW_SLUICE_POL).testBit 8)))
    ∧ (phase s = 6 → (match L.relTick with | some x => x ≤ now s | none => True) →
      (gs.any fun g => rgB s (R.RT_LINK g) R.RT_LINK_RECFG) = false → (∀ e ∈ L.owner, e.2 < 16) →
      ∃ t, exec .imageRelease s = .next t ∧ phase t = 0 ∧ t.img = none ∧ rgB t R.IMG_STATUS R.IMG_STATUS_BUSY = false
        ∧ rgB t R.IMG_STATUS R.IMG_STATUS_DONE = true ∧ rgB t R.IMG_STATUS R.IMG_STATUS_SIGNED = L.signed
        ∧ (∀ g ∈ gs, assigned s g = true → heldRegion t g = false)
        ∧ (∀ i, i < 6 → rg t (R.IMG_DIGEST i) = L.digest.toNat / 2 ^ (64 * (5 - i)) % 2 ^ 64)
        ∧ ∀ n ∈ ns, epState t n = 1 ∧ rgF t (R.EP_STAT n) R.EP_STAT_EPOCH = 0 ∧ (epochOf t n).held = []
            ∧ (epochOf t n).next = L.relTick.getD (now s) + (partCfg s n).epochMs * 100000)

/-! ### Registers (chapter 1) -/

/-- Register accesses (R4-R7): a write changes each bit of a gateway register's fields as the access code of its field
says, but for the bits that the rules leave, and no other register; a consuming read returns the value and clears the
RC fields. What the rules leave open here follows log entries 19 and 93. -/
def Obligations.RegisterAccess : Prop :=
  ∀ (s : State) (i : Initiator) (a : Addr) (c : Card), cardAt a.toNat = some c →
    (∀ m v : Word, 0x030000000000 ≤ a.toNat → a.toNat < 0x030010000000 →
      ∃ t, exec (.registerWrite i a m v) s = .next t ∧ s.regsOnly t [a.toNat]
        ∧ ∀ f ∈ c.fields, ∀ k, f.2.1 ≤ k → k ≤ f.1 →
          let old := (rg s a.toNat).testBit k
          let w := m.getLsbD k && !(keepBits s a.toNat (Nat.lor (Nat.land (rg s a.toNat) (2 ^ 64 - 1 - m.toNat)) (Nat.land v.toNat m.toNat))).testBit k
          (rg t a.toNat).testBit k = match f.2.2 with
            | .rw => if w then v.getLsbD k else old
            | .w1c => old && !(w && v.getLsbD k)
            | .w1s => old || (w && v.getLsbD k)
            | _ => old)
    ∧ (regThere s a.toNat = true → a.toNat % 0x1000000 ≠ 0x780200 → ¬ (R.SPW_WARN 0 ≤ a.toNat ∧ a.toNat < R.SPW_WARN 16) →
      ∃ t, exec (.consumeRead i a) s = .next t ∧ t.out = s.out ++ [.regRead a.toNat (BitVec.ofNat 64 (readReg s a.toNat))]
        ∧ (∀ x, x ≠ a.toNat → rg t x = rg s x) ∧ t.mem = s.mem
        ∧ ∀ k, k < 64 → (rg t a.toNat).testBit k
            = ((rg s a.toNat).testBit k && !c.fields.any fun f => f.2.2 == .rc && decide (f.2.1 ≤ k) && decide (k ≤ f.1)))

/-! ### Power, reset and boot (chapters 1, 8, 15, 16) -/

/-- Power and resets (R327, R397, R425, R462, R463, R476, R478, R487, R548): after power comes every register reads its reset
value and the memories read 0; PERST#, the loss of REFCLK and THERMTRIP reset the device and keep its memories; the
release of PERST# starts TIMEBASE at 0 and the boot, and so does the return of REFCLK once PERST# has been released since the
loss. What PERST# keeps is the model's reading (log entry 60). What the
rules leave open here follows log entry 8. -/
def Obligations.PowerAndResets : Prop :=
  ∀ (s : State),
    let down (t : State) : Prop := t.perst = true ∧ t.mem = s.mem ∧ t.keys = s.keys ∧ t.pending = s.pending
      ∧ (s.cellsWf = true → ∀ b i, cellAt t b i = { planes := (cellAt s b i).planes })
      ∧ (∀ k, k < 8 → t.dram.fresh.getLsbD k = (s.dram.fresh.getLsbD k || domCur s (160 + k) == 5))
      ∧ t.cfg = {} ∧ t.epochs = [] ∧ t.img = none ∧ t.mesh.flight = [] ∧ t.timebase = 0 ∧ t.tbRun = false
      ∧ rg t R.PC_EVENT = Nat.land (rg s R.PC_EVENT) 0xF0000000
      ∧ ∀ a, a ≠ R.SB_JRNL → a ≠ R.PC_EVENT → rg t a = if keptReg a then rg s a else (regReset a).toNat
    let up (t : State) : Prop := t.perst = false ∧ t.timebase = 0 ∧ t.tbRun = true ∧ bootPhase t = 1 ∧ t.mem = s.mem
      ∧ t.dram.zeroing = s.dram.fresh
    (∃ t, exec .powerOn s = .next t ∧ t.powered = true ∧ t.perst = true ∧ t.mem = [] ∧ t.cells = [] ∧ t.keys = []
      ∧ (∀ a, rg t a = (regReset a).toNat) ∧ t.sec.fuses = s.sec.fuses ∧ t.sec.flash = s.sec.flash ∧ t.sb.cart = s.sb.cart)
    ∧ (s.powered = true → ∃ t, exec .powerDown s = .next t ∧ t.powered = false ∧ t.mem = [] ∧ t.cells = []
        ∧ (∀ a, rg t a = (regReset a).toNat) ∧ t.sb.cart = s.sb.cart)
    ∧ (s.powered = true → s.perst = false → ∃ t, exec .perstAssert s = .next t ∧ t.perstLow = true ∧ down t)
    ∧ (s.powered = true → s.perst = false → ∃ t, exec .refclkLoss s = .next t ∧ t.refLost = true ∧ t.refPerst = true ∧ down t)
    ∧ (s.powered = true → s.perst = false → s.thermLatch = false → 120 ≤ rgF s R.TH_STATUS R.TH_STATUS_TMAX →
        ∃ t, exec .thermtrip s = .next t ∧ t.thermLatch = true ∧ down t ∧ t.out.getLast? = some (.thermtrip true))
    ∧ (∀ (st : BitVec 5) (te : Bool), s.powered = true → s.perstLow = true → s.refLost = false → s.thermLatch = false → s.perst = true →
        ∃ t, exec (.perstRelease st te) s = .next t ∧ up t ∧ t.perstLow = false ∧ t.testEn = te
          ∧ rgB t R.REIN_ID R.REIN_ID_LEADS = st.getLsbD 4 ∧ rgF t R.REIN_ID R.REIN_ID_POSX = st.toNat / 4 % 4
          ∧ rgF t R.REIN_ID R.REIN_ID_POSY = st.toNat % 4)
    ∧ (s.refLost = true → s.refPerst = true → exec .refclkRestart s = .next { s with refLost := false })
    ∧ (s.refLost = true → s.refPerst = false → s.powered = true → s.perst = true → s.perstLow = false → s.thermLatch = false →
        ∃ t, exec .refclkRestart s = .next t ∧ t.refLost = false ∧ up t)

/-- The boot phases (R276, R305, R430, R485-R490, R497, R500): each phase ends in the next one; what a fetch delivers is what
the flash holds; a firmware copy that fails gives the second copy, and without one the recovery firmware runs; without a
bundle the stores are filled and nothing is patched; a cartridge in the bay is challenged, and a TRUSTED one's spare map is
replayed; readiness sets READY and BOOT_STATUS.MS, and a start-up image is loaded. What the rules leave open here follows log entry 57. -/
def Obligations.BootPhases : Prop :=
  ∀ (s : State), s.perst = false → s.powered = true →
    let fail (t : State) : Nat := rgF t R.BOOT_STATUS R.BOOT_STATUS_FAILCODE
    (bootPhase s = 1 → s.testEn = false →
      (∃ t, exec (.bootRomDone true) s = .next t ∧ bootPhase t = 2 ∧ rgB t R.PC_CLK R.PC_CLK_LOCK = true)
      ∧ ∃ t, exec (.bootRomDone false) s = .next t ∧ bootPhase t = 4 ∧ fail t = 3 ∧ t.sec.bfwKey = none)
    ∧ (∀ item, item ≠ bootItem s 1 (b2n s.sec.copyB) → exec (.bootFetchDone item) s = .next s)
    ∧ (bootPhase s = 2 → ∃ t, exec (.bootFetchDone (bootItem s 1 (b2n s.sec.copyB))) s = .next t ∧ bootPhase t = 3
        ∧ s.regsOnly t [R.BOOT_STATUS])
    ∧ (bootPhase s = 3 →
      let item := bootItem s 1 (b2n s.sec.copyB)
      (∀ v d k, firmware s item = some (v, d, k) → ∃ t, exec (.bootFetchDone item) s = .next t ∧ bootPhase t = 4
        ∧ rgF t R.BOOT_STATUS R.BOOT_STATUS_BFWVER = v % 2 ^ 32 ∧ rgB t R.BOOT_STATUS R.BOOT_STATUS_COPYB = s.sec.copyB
        ∧ t.sec.bfwDigest = d)
      ∧ (firmware s item = none → s.sec.copyB = false → ∃ t, exec (.bootFetchDone item) s = .next t ∧ bootPhase t = 2
        ∧ t.sec.copyB = true ∧ fail t = 1)
      ∧ (firmware s item = none → s.sec.copyB = true → ∃ t, exec (.bootFetchDone item) s = .next t ∧ bootPhase t = 4
        ∧ fail t = 2 ∧ t.sec.bfwDigest = Config.recoveryDigest))
    ∧ (∀ bundle, bundle ≠ bootItem s 2 0 → exec (.bootMcode bundle) s = .next s)
    ∧ (bootPhase s = 4 → (bootItem s 2 0 = [] → ∃ t, exec (.bootMcode []) s = .next t ∧ bootPhase t = 5 ∧ t.cs = [] ∧ t.dt = []
          ∧ t.csSh = [] ∧ t.dtSh = [] ∧ t.dtBad = [] ∧ rg t R.MCODE_VERSION = rg s R.MCODE_VERSION)
      ∧ ∀ bundle p, s.sec.bfwKey.isSome = true → bundle = bootItem s 2 0 → bundle ≠ [] →
          bundleCheck { s with cs := [], dt := [], csSh := [], dtSh := [], dtBad := [] } bundle false = some p →
          ∃ t, exec (.bootMcode bundle) s = .next t ∧ bootPhase t = 5
            ∧ rgF t R.MCODE_VERSION R.MCODE_VERSION_SRC = 1 ∧ t.sec.patchDigest = p.digest)
    ∧ (bootPhase s = 5 → s.sb.cart = none → ∃ t, exec .bootSbag s = .next t ∧ bootPhase t = 6 ∧ s.regsOnly t [R.BOOT_STATUS])
    ∧ (bootPhase s = 5 → ∀ c, s.sb.cart = some c → ∃ t k, exec .bootSbag s = .next t ∧ bootPhase t = 6
        ∧ sbState t = challengeState s c.id ∧ rgB t R.SB_STATUS R.SB_STATUS_PRES = true
        ∧ rgF t R.SB_STATUS R.SB_STATUS_GEN = c.id.gen.toNat ∧ t.sb.cart = some k ∧ k.id.serial = c.id.serial
        ∧ (challengeState s c.id = sbTrusted → rgB t R.SB_STATUS R.SB_STATUS_MAPV = true ∧ ∀ r, c.spare = [r] →
          (r.kind = 4 → r.unit.toNat < 144 →
            (rgF t (R.BSW_MAP (r.unit.toNat / 9)) R.BSW_MAP_DEAD).testBit (r.unit.toNat % 9) = true)
          ∧ (r.kind = 8 → rgB s (R.DRAM_LANE (r.unit.toNat % 16)) R.DRAM_LANE_L0V = false →
            rgB t (R.DRAM_LANE (r.unit.toNat % 16)) R.DRAM_LANE_L0V = true
            ∧ rgF t (R.DRAM_LANE (r.unit.toNat % 16)) R.DRAM_LANE_LANE0 = r.arg.toNat % (R.DRAM_LANE_LANE0.top + 1))))
    ∧ (∀ image key, image ≠ bootItem s 3 0 ∨ key ≠ bootItem s 4 0 → exec (.bootReady image key) s = .next s)
    ∧ (bootPhase s = 6 → s.dram.zeroing = 0 → ∃ t, exec (.bootReady (bootItem s 3 0) (bootItem s 4 0)) s = .next t
      ∧ bootPhase t = 7 ∧ rgB t R.HI_STATUS R.HI_STATUS_READY = true
      ∧ rgF t R.BOOT_STATUS R.BOOT_STATUS_MS = now s / 100000 % 2 ^ 16
      ∧ (∀ k, ownerSlot s.sec.fuses = some k → sha3_384 (bootItem s 4 0) = slotHash s.sec.fuses k →
          t.sec.ownerKey = some (bootItem s 4 0))
      ∧ (∀ p, p < 4 → domCur s (169 + p) = 0 → portState s p = 0 → portState t p = 1)
      ∧ (rgF s R.MCODE_VERSION R.MCODE_VERSION_SRC ≠ 0 → bootItem s 3 0 ≠ [] →
          rgB t R.BOOT_STATUS R.BOOT_STATUS_IMGSTART = true ∧ rg t R.IMG_SRC = staging))

/-! ### Security and the Saddlebag (chapter 16) -/

/-- The mailbox (R481, R491-R493): GO of the PF or of Awl takes the command up with what its checks decide; at its end the
effect is there, STATUS, DONE and the nonce follow, and another writer's GO is ignored. What the rules leave open here
follows log entry 56. -/
def Obligations.SecurityMailbox : Prop :=
  (∀ (s : State) (i : Initiator) (e : Instr × Nat),
    e ∈ [(Instr.ownerLock i, 1), (.ownerTransfer i, 2), (.raiseFloor i, 3), (.revokeVkey i, 4), (.flashErase i, 5),
      (.flashProgram i, 6), (.flashRead i, 7)] →
    let bs := readBytes s mbxBuf (min mbxBytes (rgF s R.SEC_MBX R.SEC_MBX_LEN))
    (mbxMay i = true → rgB s R.SEC_MBX R.SEC_MBX_BUSY = false → ∃ t, exec e.1 s = .next t
      ∧ t.sec.mbx = some { cmd := BitVec.ofNat 8 e.2, status := BitVec.ofNat 8 (mbxStatus s e.2 bs), args := bs }
      ∧ rgB t R.SEC_MBX R.SEC_MBX_BUSY = true ∧ rgF t R.SEC_MBX R.SEC_MBX_CMD = e.2 ∧ t.sec.fuses = s.sec.fuses
      ∧ t.sec.flash = s.sec.flash ∧ t.mem = s.mem)
    ∧ (mbxMay i = false → exec e.1 s = .next s))
  ∧ ∀ (s : State) (m : MbxRun), s.sec.mbx = some m →
    let f := s.sec.fuses
    let done (t : State) : Prop := exec .mailboxCommandDone s = .next t ∧ t.sec.mbx = none
      ∧ rgB t R.SEC_MBX R.SEC_MBX_DONE = true ∧ rgB t R.SEC_MBX R.SEC_MBX_BUSY = false
    (m.status ≠ 0 → ∃ t, done t ∧ t.sec.fuses = f ∧ t.sec.flash = s.sec.flash ∧ t.mem = s.mem
      ∧ rgF t R.SEC_MBX R.SEC_MBX_STATUS = m.status.toNat % (R.SEC_MBX_STATUS.top + 1))
    ∧ (m.status = 0 → m.cut = false →
      (m.cmd = 1 ∨ m.cmd = 2 → ∀ k, nextSlot f = some k → ∃ t, done t ∧ t.sec.fuses.valid.getLsbD k = true
        ∧ t.sec.fuses.burned.getLsbD k = true ∧ slotHash t.sec.fuses k = sha3_384 (signedPart m.cmd.toNat m.args)
        ∧ (∀ o, ownerSlot f = some o → t.sec.fuses.retired.getLsbD o = true)
        ∧ rgB t R.IMG_CTRL R.IMG_CTRL_UNCHECKED = false)
      ∧ (m.cmd = 3 → ∃ t, done t ∧ t.sec.fuses = (if arg0 m.args = 0 then { f with bfloor := BitVec.ofNat 8 (arg1 m.args) }
          else { f with pfloor := BitVec.ofNat 8 (arg1 m.args) }))
      ∧ (m.cmd = 4 → ∃ t, done t ∧ t.sec.fuses = { f with vkrev := f.vkrev ||| BitVec.twoPow 4 (arg0 m.args) })
      ∧ (m.cmd = 5 → ∃ t, done t ∧ ∀ a, flashByte t a
          = if arg0 m.args ≤ a ∧ a < arg0 m.args + arg1 m.args then 0xFF else flashByte s a)
      ∧ (m.cmd = 6 → ∃ t, done t ∧ ∀ a, flashByte t a = if arg0 m.args ≤ a ∧ a < arg0 m.args + (payload m.args).length
          then flashByte s a &&& (payload m.args).getD (a - arg0 m.args) 0 else flashByte s a)
      ∧ (m.cmd = 7 → ∃ t, done t ∧ t.sec.flash = s.sec.flash
          ∧ readBytes t (mbxBuf + 32) (arg1 m.args) = flashRead s (arg0 m.args) (arg1 m.args)))

/-- The Saddlebag (R393, R478, R497-R505): insertion shows what probe and challenge found and binds an accepted blank cartridge
unless the supplies inhibit it, removal empties the bay, adoption
binds a FOREIGN cartridge, the oldest record reaches the cartridge, and checkpoints start by their checks and end with
their status. What the rules leave open here follows log entry 58. -/
def Obligations.SaddlebagCommands : Prop :=
  ∀ (s : State),
    (∀ c, s.sb.cart = none → ∃ t k, exec (.cartridgeInsert c) s = .next t ∧ sbState t = challengeState s c
      ∧ rgB t R.SB_STATUS R.SB_STATUS_PRES = true ∧ rgF t R.SB_STATUS R.SB_STATUS_GEN = c.gen.toNat
      ∧ rgB t R.SB_STATUS R.SB_STATUS_INSEV = true ∧ t.sb.cart = some k ∧ k.id.serial = c.serial
      ∧ k.id.bind = (if c.blank && c.chainOk && c.sigOk && !cartInhibit s then idevidHash s else c.bind)
      ∧ rg t R.SB_LIFE = c.written.toNat * 2 ^ 32 + c.rated.toNat)
    ∧ (∀ c, s.sb.cart = some c → ∃ t, exec .cartridgeRemove s = .next t ∧ t.sb.cart = none ∧ sbState t = 0
      ∧ rgB t R.SB_STATUS R.SB_STATUS_PRES = false ∧ rgB t R.SB_STATUS R.SB_STATUS_REMEV = true ∧ t.sb.queue = s.sb.queue
      ∧ ∀ o, s.sb.op = some o → t.sb.op = some { o with status := 8 })
    ∧ (∀ c, s.sb.cart = some c → sbState s = 5 → cartInhibit s = false → ∃ t k, exec .adopt s = .next t ∧ t.sb.cart = some k
      ∧ k.id.bind = idevidHash s ∧ k.journal = [] ∧ k.spare = [] ∧ sbState t = lifeState c.id.written.toNat c.id.rated.toNat)
    ∧ (∀ c r q, s.sb.cart = some c → s.sb.queue = r :: q → domCur s 173 = 0 → (sbState s = 3 ∨ sbState s = 6) →
      cartInhibit s = false → c.journal.length < 2 ^ 25 →
      ∃ t k, exec .journalWrite s = .next t ∧ t.sb.queue = q ∧ t.sb.cart = some k ∧ k.journal = c.journal ++ [r]
        ∧ k.spare = (if persists r then c.spare ++ [r] else c.spare) ∧ c.id.written.toNat ≤ k.id.written.toNat)
    ∧ (s.sb.op = none →
      let n := rgF s R.SB_CKPT R.SB_CKPT_PID
      let slot := rgF s R.SB_CKPT R.SB_CKPT_SLOT
      let st := ckptStatus s false n slot (rgF s R.SB_CKPT R.SB_CKPT_INTV)
      let sr := ckptStatus s true n slot 0
      let go (t : State) (o : CkptOp) : Prop := t.sb.op = some o ∧ rgB t R.SB_CKPT R.SB_CKPT_GO = true ∧ t.mem = s.mem
      let mems := rgB s R.SB_CKPT R.SB_CKPT_MEMS
      (st = 0 → ∃ t, exec .ckptSave s = .next t ∧ go t { restore := false, part := n, slot := slot, mems := mems })
      ∧ (sr = 0 → ∃ t, exec .ckptRestore s = .next t ∧ go t { restore := true, part := n, slot := slot, mems := mems })
      ∧ (st ≠ 0 → ∃ t, exec .ckptSave s = .next t ∧ t.sb.op = none ∧ rgF t R.SB_CKPT R.SB_CKPT_STATUS = st
          ∧ rgB t R.SB_CKPT R.SB_CKPT_DONEV = true ∧ rgB t R.SB_CKPT R.SB_CKPT_ERRV = true)
      ∧ ∀ x, s.sb.nextSave = some x → x ≤ now s → rgF s R.SB_CKPT R.SB_CKPT_INTV ≠ 0 → st = 0 →
          ∃ t, exec .ckptPeriodicStart s = .next t
            ∧ go t { restore := false, part := n, slot := slot + b2n s.sb.alt, mems := mems }
            ∧ t.sb.alt = !s.sb.alt ∧ t.sb.nextSave = some (x + rgF s R.SB_CKPT R.SB_CKPT_INTV * 100000000))
    ∧ (∀ o c p, s.sb.op = some o → o.restore = false → o.status = 0 → s.sb.cart = some c → (epochOf s o.part).com = some p →
      (epochOf s o.part).defer = false →
      (∃ t k, exec (.ckptDone false) s = .next t ∧ t.sb.op = none ∧ t.sb.cart = some k
        ∧ (mapGet {} o.slot k.slots).snap.cells = p.cells ∧ (mapGet {} o.slot k.slots).snap.regs = p.regs
        ∧ rgF t R.SB_CKPT R.SB_CKPT_STATUS = 0 ∧ rgB t R.SB_CKPT R.SB_CKPT_DONEV = true ∧ t.mem = s.mem)
      ∧ ∃ t k, exec (.ckptDone true) s = .next t ∧ t.sb.op = none ∧ t.sb.cart = some k ∧ mapHas o.slot k.slots = false
        ∧ sbState t = 8 ∧ rgF t R.SB_CKPT R.SB_CKPT_STATUS = 7 ∧ rgB t R.SB_CKPT R.SB_CKPT_ERRV = true)

/-! ### The host (chapter 12) -/

/-- Requests of the host and resets of functions (R396-R398, R400-R402, R404, R405): configuration requests are answered
with Request Retry Status before readiness, with UR where no function is, with IDs, and a Command write sets Bus Master
Enable; a request through a window becomes a mesh request, one that no window takes is answered with UR; an FLR ends the
function's commands, disables its queues and halts its partition, and a Hot Reset is the PF's; unmasking sends a pending
message; training shows rate and width; the DOE mailbox lists its two objects. What the rules leave open here follows
log entries 20, 48 and 49. -/
def Obligations.HostRequests : Prop :=
  (∀ (s : State) (f : Func), s.perst = false → s.powered = true →
    let n := f.val
    let ready := rgB s R.HI_STATUS R.HI_STATUS_READY
    (∀ wr d v, ready = false → exec (.configRequest f wr d v) s = .next (emit s (.cfgCpl n 2 0)))
    ∧ (∀ wr d v, ready = true → funcThere s n = false → exec (.configRequest f wr d v) s = .next (emit s (.cfgCpl n 1 0)))
    ∧ (ready = true → funcThere s n = true →
      (cfgReg s n 0 = 0 → exec (.configRequest f false 0 0) s
        = .next (emit s (.cfgCpl n 0 (if n = 0 then 0x2F12CE7A else 0x2F13CE7A))))
      ∧ ∀ v, ∃ t, exec (.configRequest f true 1 v) s = .next t ∧ busMaster t n = v.getLsbD 2 ∧ t.mem = s.mem
          ∧ t.regs = s.regs)
    ∧ (∀ (bar : Bar) (off : BitVec 48) (len : BitVec 13), memReady s n = false →
      ∃ t, exec (.hostMemoryRead f bar off len) s = .next t ∧ t.out = s.out ++ [.readCpl n 1 [], .aer n 1]
        ∧ t.mesh = s.mesh ∧ t.mem = s.mem)
    ∧ (∀ (bar : Bar) (off : BitVec 48) (len : BitVec 13) (a : Nat), memReady s n = true → ownDevice s a = false →
      spans s n bar (len.toNat + 1) 0 off.toNat len.toNat = [(0, .mesh a, len.toNat)] →
      ∃ t q g, exec (.hostMemoryRead f bar off len) s = .next t ∧ t.mesh.flight = s.mesh.flight ++ [q] ∧ q.src = .host f
        ∧ q.wr = false ∧ q.addr = a ∧ q.len = 2 * len.toNat ∧ (q.id, .read g 0) ∈ t.host.reqs ∧ t.mem = s.mem
        ∧ s.sentOnly t)
    ∧ (∀ (bar : Bar) (off : BitVec 48) (len : BitVec 13) (o : Nat), memReady s n = true →
      spans s n bar (len.toNat + 1) 0 off.toNat len.toNat = [(0, .table o, len.toNat)] →
      ∃ t, exec (.hostMemoryRead f bar off len) s = .next t ∧ t.mesh.flight = s.mesh.flight
        ∧ t.out = s.out ++ [.readCpl n 0 ((List.range len.toNat).map fun i => tableByte s n (o + i))])
    ∧ (∀ (bar : Bar) (off : BitVec 48) (data : List Byte), memReady s n = false →
      ∃ t, exec (.hostMemoryWrite f bar off data) s = .next t ∧ t.out = s.out ++ [.aer n 1] ∧ t.mesh = s.mesh ∧ t.mem = s.mem)
    ∧ ∀ (bar : Bar) (off : BitVec 48) (data : List Byte) (a : Nat), memReady s n = true → ownDevice s a = false →
      spans s n bar (data.length + 1) 0 off.toNat data.length = [(0, .mesh a, data.length)] →
      ∃ t q, exec (.hostMemoryWrite f bar off data) s = .next t ∧ t.mesh.flight = s.mesh.flight ++ [q] ∧ q.src = .host f
        ∧ q.wr = true ∧ q.addr = a ∧ q.data.map BitVec.toNat = digitsOfBytes data ∧ t.mem = s.mem ∧ s.sentOnly t)
  ∧ (∀ (s : State) (f : Func), ∃ t, exec (.flr f) s = .next t ∧ t.mem = s.mem ∧ (∀ h ∈ t.host.cmds, h.f ≠ f.val)
      ∧ (∀ c ∈ t.host.compls, c.f ≠ f.val) ∧ busMaster t f.val = false
      ∧ (∀ q, q < 64 → queueOf t f.val q = {} ∧ rgB t (R.QCFG f.val q) R.QCFG_EN = false)
      ∧ ∀ n, n < 16 → defined s n = true → (f.val = 0 ∨ f.val = n + 1) →
          (epochOf t n).held = [] ∧ ∀ b ∈ blocksOf s n, (seqOf t b).inProg = false ∧ halted t b = true)
  ∧ (∀ s : State, exec .hotReset s = exec (.flr 0) s)
  ∧ (∀ (s : State) (f : Func) (v : BitVec 11), v.toNat < vectors f.val → 2048 * f.val + v.toNat ∈ s.host.pba →
    busMaster s (requesterOf s f.val) = true → msixOn s f.val = true →
    ∃ t, exec (.msixUnmask f v) s = .next t ∧ t.mem = s.mem ∧ t.regs = s.regs ∧ unmasked t f.val v.toNat = true
      ∧ 2048 * f.val + v.toNat ∉ t.host.pba
      ∧ .msix (requesterOf s f.val) f.val v.toNat ((msixDword s f.val v.toNat 1).toNat * 2 ^ 32 + (msixDword s f.val v.toNat 0).toNat)
          (msixDword s f.val v.toNat 2) ∈ t.out)
  ∧ (∀ (s : State) (speed : BitVec 4) (width : BitVec 5) (flit : Bool), s.perst = false → s.powered = true →
    1 ≤ speed.toNat → speed.toNat ≤ 6 → width.toNat ∈ [1, 2, 4, 8, 16] →
    ∃ t, exec (.pcieLinkTrained speed width flit) s = .next t ∧ s.regsOnly t [R.HI_STATUS]
      ∧ rgF t R.HI_STATUS R.HI_STATUS_SPEED = speed.toNat ∧ rgF t R.HI_STATUS R.HI_STATUS_WIDTH = width.toNat
      ∧ rgB t R.HI_STATUS R.HI_STATUS_FLIT = (flit || decide (speed.toNat = 6)))
  ∧ ∀ (s : State), doeReady s = true → exec (.doeDiscovery 0) s = .next (emit s (.doe [1, 0, 0, 1]))
      ∧ exec (.doeDiscovery 1) s = .next (emit s (.doe [1, 0, 1, 0]))

/-- The host's queues (R396, R399, R406-R409, R415): QCFG.EN empties a queue pair, and its fall discards the completions while
the commands go on; a doorbell within SIZE announces commands, one above it stops the queue, and the Wellhead sees it; the served queue's next
command is read; a completion is written at the CQ's tail with its phase; a read longer than Max_Read_Request_Size goes on
with its next request; a fetched command of a listed opcode waits for its start. What the rules leave open here follows log
entries 42 and 44. -/
def Obligations.HostQueues : Prop :=
  (∀ (s : State) (f : Func) (q : BitVec 6),
    let n := f.val
    let k := q.toNat
    let a := R.QCFG n k
    let z := queueOf s n k
    let watches (i : Nat) : Prop := i < 32 ∧ rgB s (R.WH_SLOT i) R.WH_SLOT_EN = true
      ∧ (rgF s (R.WH_SLOT i) R.WH_SLOT_KIND, rgF s (R.WH_SLOT i) R.WH_SLOT_INDEX) = (0, n)
    (∀ v : Word, rgB s a R.QCFG_EN = false → v.getLsbD 63 = true →
      ∃ t, exec (.queueEnable f q v) s = .next t ∧ rgB t a R.QCFG_EN = true ∧ rgF t a R.QCFG_SQSIZE = v.toNat % 2 ^ 16
        ∧ rgF t a R.QCFG_CQSIZE = v.toNat / 2 ^ 16 % 2 ^ 16 ∧ rgF t a R.QCFG_VEC = v.toNat / 2 ^ 48 % 2 ^ 11
        ∧ rg t (R.SQ_TAIL n k) = 0 ∧ rg t (R.CQ_HEAD n k) = 0 ∧ queueOf t n k = { cfg := BitVec.ofNat 64 (rg t a) }
        ∧ t.host.cmds = s.host.cmds ∧ t.out = s.out ∧ t.mem = s.mem)
    ∧ (∀ v : Word, rgB s a R.QCFG_EN = true → v.getLsbD 63 = false →
      ∃ t, exec (.queueEnable f q v) s = .next t ∧ rgB t a R.QCFG_EN = false ∧ t.out = s.out ∧ t.mem = s.mem
        ∧ (∀ c ∈ t.host.compls, ¬ (c.f = n ∧ c.q = k)) ∧ (∀ h ∈ t.host.cmds, ¬ (h.f = n ∧ h.q = k))
        ∧ (s.host.compls = [] → s.host.fences = [] →
            t.host.cmds = s.host.cmds.map fun h => if h.f = n ∧ h.q = k then { h with q := 64 + k } else h))
    ∧ (∀ v : BitVec 16, rgB s a R.QCFG_EN = true → v.toNat ≤ sqSize z →
      ∃ t, exec (.sqTailDoorbell f q v) s = .next t ∧ rgF t (R.SQ_TAIL n k) R.SQ_TAIL_INDEX = v.toNat
        ∧ queueOf t n k = { z with sqTail := v
                                   stamps := z.stamps ++ List.replicate ((v.toNat + (sqSize z + 1) - z.sqTail.toNat) % (sqSize z + 1))
                                     (s.host.bells + 1) }
        ∧ rgB t a R.QCFG_EN = true ∧ t.mem = s.mem ∧ (∀ i, watches i → (rg t R.WH_EVENT).testBit i = true)
        ∧ ((∀ i, ¬ watches i) → s.regsOnly { s with regs := t.regs } [R.SQ_TAIL n k] ∧ t.out = s.out))
    ∧ (∀ v : BitVec 16, rgB s a R.QCFG_EN = true → sqSize z < v.toNat →
      ∃ t, exec (.sqTailDoorbell f q v) s = .next t ∧ rgB t a R.QCFG_ERR = true ∧ rgB t a R.QCFG_EN = false)
    ∧ (∀ v : BitVec 16, rgB s a R.QCFG_EN = true → v.toNat ≤ cqSize z →
      ∃ t, exec (.cqHeadWrite f q v) s = .next t ∧ rgF t (R.CQ_HEAD n k) R.CQ_HEAD_INDEX = v.toNat
        ∧ queueOf t n k = { z with cqHead := v } ∧ t.out = s.out ∧ rgB t a R.QCFG_EN = true)
    ∧ (∀ v : BitVec 16, rgB s a R.QCFG_EN = true → cqSize z < v.toNat →
      ∃ t, exec (.cqHeadWrite f q v) s = .next t ∧ rgB t a R.QCFG_ERR = true ∧ rgB t a R.QCFG_EN = false)
    ∧ (rgB s R.HI_STATUS R.HI_STATUS_READY = true → nextServed s = some (64 * n + k) → s.mayRead (requesterOf s n) →
      let at_ := rgF s (R.SQ_BASE n k) R.SQ_BASE_ADDR * 4096 + 64 * z.sqHead.toNat
      ∃ t id, exec (.commandFetch f q) s = .next t ∧ t.out = s.out ++ [.hostRead (requesterOf s n) id at_ 64]
        ∧ t.host.rds = s.host.rds ++ [{ id := id, purpose := .sqFetch n k, addr := at_, len := 64, f := requesterOf s n, ask := 64 }]
        ∧ (queueOf t n k).sqHead.toNat = (z.sqHead.toNat + 1) % (sqSize z + 1) % 2 ^ 16 ∧ t.regs = s.regs)
    ∧ ∀ c, (s.host.compls.find? fun c => c.f == n && c.q == k) = some c → rgB s a R.QCFG_EN = true →
      (z.cqTail.toNat + 1) % (cqSize z + 1) ≠ z.cqHead.toNat → busMaster s (requesterOf s n) = true →
      ∃ t, exec (.completionPost f q) s = .next t
        ∧ t.out.take (s.out.length + 1) = s.out ++ [.hostWrite (requesterOf s n)
            (rgF s (R.CQ_BASE n k) R.CQ_BASE_ADDR * 4096 + 16 * z.cqTail.toNat) (complBytes c z.phase)]
        ∧ (queueOf t n k).cqTail.toNat = (z.cqTail.toNat + 1) % (cqSize z + 1) % 2 ^ 16
        ∧ (queueOf t n k).phase = (z.phase != decide (z.cqTail.toNat = cqSize z))
        ∧ (s.host.fences = [] → t.host.compls = s.host.compls.erase c))
  ∧ ∀ (s : State) (id : Nat) (r : HostRd), (s.host.rds.find? fun r => r.id == id && r.ask != 0) = some r →
    let rest := s.host.rds.filter fun x => x.id != id
    let last := r.got.length + r.ask = r.len ∧ ∀ x ∈ rest, x.f = r.f → x.ask ≠ 0
    (∀ bs, bs.length = r.ask → r.got.length + r.ask < r.len →
      (s.host.rds.filter fun x => x.f == r.f && x.ask != 0 && x.id != id).length < readCap s r.f →
      ∃ t, exec (.hostReadCompletion id (some bs)) s = .next t ∧ t.out = s.out
        ++ [.hostRead r.f id (r.addr + r.got.length + r.ask) (min (r.len - (r.got.length + r.ask)) (readMax s))]
        ∧ t.host.compls = s.host.compls ∧ t.host.cmds = s.host.cmds ∧ t.mem = s.mem)
    ∧ (∀ n k bs, last → r.purpose = .sqFetch n k → bs.length = r.ask →
      let c := BitVec.ofNat 512 (bytesVal (r.got ++ bs))
      opcListed (cmdByte c 0) = true → ∃ t, exec (.hostReadCompletion id (some bs)) s = .next t ∧ t.host.rds = rest
        ∧ t.host.cmds = s.host.cmds ++ [{ f := n, q := k, body := c, sqhd := (queueOf s n k).sqHead
                                          stamp := (queueOf s n k).stamps.headD 0 }]
        ∧ t.host.compls = s.host.compls)
    ∧ (∀ n k, last → r.purpose = .sqFetch n k →
        exec (.hostReadCompletion id none) s = .next { s with host := { s.host with rds := rest } })
    ∧ ∀ n k c off bs, last → r.purpose = .copy n k c off → bs.length = r.ask → r.len = copyChunk c off →
        ownDevice s (copyDev c + 2 * off) = false →
        ∃ t q, exec (.hostReadCompletion id (some bs)) s = .next t ∧ t.mesh.flight = s.mesh.flight ++ [q] ∧ q.wr = true
          ∧ q.addr = copyDev c + 2 * off ∧ q.data.map BitVec.toNat = digitsOfBytes (r.got ++ bs) ∧ t.mem = s.mem

/-- SPDM over the mailbox (R405, R494, R495): the exchange is answered in its order, a request out of order with ERROR;
certificates, digests, the challenge and the measurements carry what R495 lists. The bytes of the messages are the
model's reading of the DMTF's layouts (log entry 21). -/
def Obligations.SpdmMessages : Prop :=
  ∀ (s : State), doeReady s = true →
    let said (t : State) (r : List Byte) : Prop := t.out = s.out ++ [.doe r] ∧ t.mem = s.mem ∧ t.regs = s.regs
    (∃ t, exec .getVersion s = .next t ∧ said t [0x10, 0x04, 0, 0, 0, 1, 0, 0x13] ∧ t.host.spdm = 1)
    ∧ (1 ≤ s.host.spdm → ∃ t r, exec .getCapabilities s = .next t ∧ said t r ∧ r.length = 20 ∧ r.take 2 = [0x13, 0x61]
        ∧ t.host.spdm = 2)
    ∧ (2 ≤ s.host.spdm → ∃ t r, exec .negotiateAlgorithms s = .next t ∧ said t r ∧ r.length = 18 ∧ r.take 2 = [0x13, 0x63]
        ∧ t.host.spdm = 3)
    ∧ (s.host.spdm < 3 → exec .getDigests s = .next (emit s (.doe [0x13, 0x7F, 4, 0])))
    ∧ (3 ≤ s.host.spdm →
      (∃ t r, exec .getDigests s = .next t ∧ said t r ∧ r.take 4 = [0x13, 0x01, 0, BitVec.ofNat 8 (slotMask s)]
        ∧ (r.drop 4).take 48 = digestBytes (sha3_384 (chainOf s 0)) ∧ r.length = if (chainOf s 1).isEmpty then 52 else 100)
      ∧ (∀ (slot : BitVec 1) (off len : BitVec 16), (slotMask s).testBit slot.toNat = true →
        ∃ t r, exec (.getCertificate slot off len) s = .next t ∧ said t r ∧ r.take 2 = [0x13, 0x02]
          ∧ r.drop 8 = ((chainOf s slot.toNat).drop off.toNat).take len.toNat)
      ∧ (∀ (slot : BitVec 1) (nonce : BitVec 256), (slotMask s).testBit slot.toNat = true →
        ∃ t r, exec (.challenge slot nonce) s = .next t ∧ said t r ∧ r.take 2 = [0x13, 0x03]
          ∧ (r.drop 4).take 48 = digestBytes (sha3_384 (chainOf s slot.toNat)))
      ∧ (∀ i : BitVec 8, 1 ≤ i.toNat → i.toNat ≤ 6 → ∃ t r, exec (.getMeasurements i) s = .next t ∧ said t r
          ∧ r.take 2 = [0x13, 0x60] ∧ (r.drop 4).take 49 = i :: digestBytes (measurement s i.toNat))
      ∧ ∃ t, exec (.getMeasurements 0) s = .next t ∧ said t [0x13, 0x60, 6, 0])

/-- RUN, its ends, and COPY (R407, R409, R412-R415): an opcode that the function may not issue and a reserved FLAGS bit are
refused, and so is a wrong BLKMASK; RUN starts the sequencers at PC with both arguments, or names the one that is busy or that a
capture holds; HI_EXIT ends a program and,
at the last one, the run; TIMEOUT halts what has not exited; COPY reads its source. What the rules leave open here
follows log entries 34, 42, 43 and 45. -/
def Obligations.RunsAndCopies : Prop :=
  (∀ (s : State) (f : Func) (q : BitVec 6) (c : BitVec 512) (e : Instr × Nat),
    e ∈ [(Instr.run f q c, 1), (.copy f q c, 2), (.loadImage f q c, 3), (.loadMicrocode f q c, 4), (.capture f q c, 5),
      (.epoch f q c, 6), (.fenceCommand f q c, 7), (.query f q c, 8)] → s.starts f.val q.toNat c e.2 →
    (f.val ≠ 0 → (e.2 = 3 ∨ e.2 = 4) → ∃ t, exec e.1 s = .next t ∧ s.answers t f.val q.toNat c 3 0 0 ∧ t.mem = s.mem)
    ∧ ((f.val = 0 ∨ (e.2 ≠ 3 ∧ e.2 ≠ 4)) → 4 ≤ cmdByte c 1 →
      ∃ t, exec e.1 s = .next t ∧ s.answers t f.val q.toNat c 1 1 0 ∧ t.mem = s.mem ∧ t.regs = s.regs))
  ∧ (∀ (s : State) (f : Func) (q : BitVec 6) (c : BitVec 512), s.takes f.val q.toNat c 1 → cmdByte c 5 = 0 →
    cmdByte c 6 = 0 → zeros c 12 4 → zeros c 52 12 →
    let n := cmdPid c
    let bs := if lockstep s n then [leadOf s n] else maskBlocks c
    let all := if lockstep s n then blocksOf s n else bs
    let own := if lockstep s n then zeros c 16 16 else ∀ b ∈ bs, partOf s b = some n
    (pcOk (cmdVal c 8 4) = false → ∃ t, exec (.run f q c) s = .next t ∧ s.answers t f.val q.toNat c 1 8 0)
    ∧ (pcOk (cmdVal c 8 4) = true →
      ((16 ≤ n ∨ defined s n = false) → ∃ t, exec (.run f q c) s = .next t ∧ s.answers t f.val q.toNat c 4 0 0)
      ∧ (n < 16 → defined s n = true → leadOnly s n = false → ¬ own →
        ∃ t, exec (.run f q c) s = .next t ∧ s.answers t f.val q.toNat c 1 16 0)
      ∧ (n < 16 → defined s n = true → leadOnly s n = false → own →
        (∀ b, (bs.find? fun b => (seqOf s b).inProg || captured s n) = some b →
          ∃ t, exec (.run f q c) s = .next t ∧ s.answers t f.val q.toNat c 5 b 0 ∧ t.seqs = s.seqs)
        ∧ ((bs.find? fun b => (seqOf s b).inProg || captured s n) = none → bs ≠ [] → (∀ b ∈ all, blockCur s b < 2) →
          ∃ t r, exec (.run f q c) s = .next t ∧ t.host.runs = s.host.runs ++ [r] ∧ r.part = n ∧ r.blocks = bs
            ∧ r.cmd = some (f.val, q.toNat, c) ∧ t.mem = s.mem ∧ t.host.compls = s.host.compls
            ∧ ∀ b ∈ bs, pcOf t b = cmdVal c 8 4 ∧ rg t (R.GREG b 1) = cmdVal c 32 8 ∧ rg t (R.GREG b 2) = cmdVal c 40 8
                ∧ rgB t (R.PSR b) R.PSR_IE = false ∧ rgB t (R.DBG_STATUS b) R.DBG_STATUS_HALTED = false
                ∧ (seqOf t b).inProg = true))))
  ∧ (∀ (s : State) (b : Blk) (code : BitVec 32) (n : Nat) (r : Run) (f q : Nat) (c : BitVec 512),
    partOf s b.toNat = some n → s.host.runs = [r] → r.part = n → r.blocks = [b.toNat] → r.exits = [] → r.cmd = some (f, q, c) →
    (cmdByte c 1).testBit 1 = false → (seqOf s b.toNat).inRun = true → (seqOf s b.toNat).exit = none →
    (seqOf s b.toNat).waiting = false → (seqOf s b.toNat).micro = none → (seqOf s b.toNat).resume = none →
    (seqOf s b.toNat).inProg = true →
    ∃ t k, exec (.hiExit b code) s = .next t ∧ t.mem = s.mem ∧ t.host.runs = []
      ∧ (epochOf t n).held = (epochOf s n).held ++ [.compl k] ∧ k.f = f ∧ k.q = q ∧ k.status = 0
      ∧ k.result.toNat = code.toNat ∧ ∀ a ∈ gang s b.toNat, (seqOf t a).inProg = false ∧ halted t a = true)
  ∧ (∀ (s : State) (p : Part) (r : Run) (f q d : Nat) (c : BitVec 512), s.host.runs = [r] → r.part = p.toNat →
    r.deadline = some d → r.cmd = some (f, q, c) → (∀ b ∈ r.blocks, b < 128) →
    (d ≤ now s → ∃ t k, exec (.runTimeout p) s = .next t ∧ t.host.runs = []
      ∧ ((∀ b, b < 128 → rgB s (R.ARR_SUSP b) R.ARR_SUSP_VALID = false) → t.mem = s.mem)
      ∧ (epochOf t p.toNat).held = (epochOf s p.toNat).held ++ [.compl k] ∧ k.f = f ∧ k.q = q ∧ k.status = 8
      ∧ ∀ b ∈ (if lockstep s p.toNat then blocksOf s p.toNat else r.blocks.filter fun b => !(r.exits.any fun e => e.1 == b)),
          (seqOf t b).inProg = false ∧ halted t b = true)
    ∧ (now s < d → exec (.runTimeout p) s = .next s))
  ∧ ∀ (s : State) (f : Func) (q : BitVec 6) (c : BitVec 512), s.takes f.val q.toNat c 2 → cmdByte c 5 < 2 → cmdByte c 6 = 0 →
    copyDev c % 2 = 0 → copyDev c < 2 ^ 48 → copyLen c ≠ 0 → zeros c 28 4 → zeros c 32 32 →
    let n := cmdPid c
    let may := f.val = 0 ∨ (n < 16 ∧ defined s n = true ∧ vfMay s n (copyDev c) (copyDev c + 2 * copyLen c - 1) = true)
    let x := requesterOf s f.val
    (f.val ≠ 0 → n < 16 → defined s n = true → vfMay s n (copyDev c) (copyDev c + 2 * copyLen c - 1) = false →
      ∃ t, exec (.copy f q c) s = .next t ∧ s.answers t f.val q.toNat c 1 16 0)
    ∧ (may → busMaster s x = false → ∃ t, exec (.copy f q c) s = .next t ∧ s.answers t f.val q.toNat c 6 0 (copyDev c))
    ∧ (may → busMaster s x = true → cmdByte c 5 = 1 → ownDevice s (copyDev c) = false →
      ∃ t r, exec (.copy f q c) s = .next t ∧ t.mesh.flight = s.mesh.flight ++ [r] ∧ r.src = .host f ∧ r.wr = false
        ∧ r.addr = copyDev c ∧ r.len = 2 * copyChunk c 0 ∧ s.sentOnly t ∧ t.host.compls = s.host.compls)
    ∧ (may → busMaster s x = true → cmdByte c 5 = 0 → s.mayRead x →
      ∃ t id, exec (.copy f q c) s = .next t ∧ t.out = s.out ++ [.hostRead x id (copyHost c) (min (copyChunk c 0) (readMax s))]
        ∧ t.mesh.flight = s.mesh.flight ∧ t.host.compls = s.host.compls)

/-- LOAD_IMAGE, LOAD_MICROCODE, CAPTURE, EPOCH, FENCE and QUERY (R69, R305, R376, R416-R421, R530, R531): each takes up its
work with what it reads, stops, waits for or writes, and completes as its rule says. What the rules leave open here
follows log entries 33, 43, 46 and 47. -/
def Obligations.HostServices : Prop :=
  (∀ (s : State) (q : BitVec 6) (c : BitVec 512), cmdByte c 6 = 0 → zeros c 20 12 → zeros c 32 32 →
    let host := (cmdByte c 5).testBit 0
    let n := cmdVal c 16 4
    let ask := min n (readMax s)
    (s.takes 0 q.toNat c 3 → cmdByte c 5 < 8 →
      let v := setB (setB (setRg (setRg s R.IMG_SRC (cmdVal c 8 8)) R.IMG_LEN n) R.IMG_CTRL R.IMG_CTRL_FORCE
        ((cmdByte c 5).testBit 1)) R.IMG_CTRL R.IMG_CTRL_UNCHECKED ((cmdByte c 5).testBit 2)
      (host = false → cmdVal c 8 8 % 2 = 0 → cmdVal c 8 8 < 2 ^ 48 → rgB s R.IMG_STATUS R.IMG_STATUS_BUSY = true →
        ∃ t x, exec (.loadImage 0 q c) s = .next t ∧ s.answers t 0 q.toNat c 0x0C 1 x ∧ t.regs = s.regs)
      ∧ (host = false → cmdVal c 8 8 % 2 = 0 → cmdVal c 8 8 < 2 ^ 48 → rgB s R.IMG_STATUS R.IMG_STATUS_BUSY = false →
        checkRej v = none → ∃ t, exec (.loadImage 0 q c) s = .next t ∧ t.img = some (openLoad v (some (0, q.toNat, c)))
          ∧ rgF t R.IMG_STATUS R.IMG_STATUS_PHASE = 2 ∧ rg t R.IMG_SRC = cmdVal c 8 8 ∧ rg t R.IMG_LEN = n ∧ t.mem = s.mem)
      ∧ (host = true → n ≠ 0 → n ≤ 2 ^ 24 → rgB s R.IMG_STATUS R.IMG_STATUS_BUSY = false → busMaster s 0 = true → s.mayRead 0 →
        ∃ t id, exec (.loadImage 0 q c) s = .next t ∧ t.out = s.out ++ [.hostRead 0 id (cmdVal c 8 8) ask] ∧ t.regs = s.regs
          ∧ t.host.rds = s.host.rds ++ [{ id := id, purpose := .image 0 q.toNat c, addr := cmdVal c 8 8, len := n, ask := ask }]))
    ∧ (s.takes 0 q.toNat c 4 → cmdByte c 5 = 0 → 3421 ≤ n → (n - 3421) % 32 = 0 →
      (mcodeClosed s = true → ∃ t, exec (.loadMicrocode 0 q c) s = .next t ∧ s.answers t 0 q.toNat c 0x0E 0 0 ∧ t.regs = s.regs)
      ∧ (mcodeClosed s = false → busMaster s 0 = true → s.mayRead 0 →
        ∃ t id, exec (.loadMicrocode 0 q c) s = .next t ∧ t.out = s.out ++ [.hostRead 0 id (cmdVal c 8 8) ask]
          ∧ t.host.rds = s.host.rds ++ [{ id := id, purpose := .microcode 0 q.toNat c, addr := cmdVal c 8 8, len := n
                                          ask := ask }])))
  ∧ (∀ (s : State) (f : Func) (q : BitVec 6) (c : BitVec 512), zeros c 32 32 →
    let n := cmdPid c
    n < 16 → defined s n = true → leadOnly s n = false →
    (s.takes f.val q.toNat c 5 → cmdByte c 5 = 0 → cmdByte c 6 % 128 = 0 → zeros c 20 12 →
      (captureLen s n ≤ cmdVal c 16 4 → ∃ t k, exec (.capture f q c) s = .next t ∧ t.mem = s.mem ∧ k ∈ t.host.caps
        ∧ k.part = n ∧ k.body = c ∧ k.edge = some s.timebase ∧ t.host.compls = s.host.compls
        ∧ ∀ b ∈ blocksOf s n, halted t b = true)
      ∧ (cmdVal c 16 4 ≠ 0 → cmdVal c 16 4 < captureLen s n →
        ∃ t, exec (.capture f q c) s = .next t ∧ s.answers t f.val q.toNat c 1 16 0 ∧ t.regs = s.regs)
      ∧ (cmdVal c 16 4 = 0 → captured s n = false →
        ∃ t, exec (.capture f q c) s = .next t ∧ s.answers t f.val q.toNat c 1 16 0 ∧ t.regs = s.regs)
      ∧ (cmdVal c 16 4 = 0 → captured s n = true → s.dbg.chipStop = false → epState s n ≠ 6 → forced s n = false →
        ∃ t x, exec (.capture f q c) s = .next t ∧ s.answers t f.val q.toNat c 0 0 x
          ∧ ∀ b ∈ blocksOf s n, rgB t (R.DBG_STATUS b) R.DBG_STATUS_STOPPED = false))
    ∧ (s.takes f.val q.toNat c 6 → cmdByte c 5 = 0 → cmdByte c 6 = 0 → zeros c 8 24 →
      (epState s n = 6 → ∃ t, exec (.epoch f q c) s = .next t
        ∧ s.answers t f.val q.toNat c 0x0B 0 (rgF s (R.EP_STAT n) R.EP_STAT_EPOCH * 2 ^ 32))
      ∧ (epState s n ≠ 6 → epState s n ≠ 0 → (epochOf s n).step = 0 → boundaryWaits s n = false → cascadePart s n = false →
        ∃ t, exec (.epoch f q c) s = .next t ∧ (epochOf t n).waiters = (epochOf s n).waiters ++ [(f.val, q.toNat, c)]
          ∧ (epochOf t n).step = 1 ∧ epState t n = 2 ∧ t.host.compls = s.host.compls ∧ t.mem = s.mem)))
  ∧ (∀ (s : State) (f : Func) (q : BitVec 6) (c : BitVec 512), s.takes f.val q.toNat c 7 → zeros c 8 8 → zeros c 32 32 →
    let n := cmdPid c
    let v := cmdByte c 6
    let mine := s.host.cmds.filter fun h => h.f == f.val && cmdByte h.body 4 == cmdByte c 4
    n < 16 → defined s n = true →
    (cmdByte c 5 = 0 → v = 0 → zeros c 16 16 → s.host.fences = [] →
      ((∀ h ∈ mine, h.q = q.toNat ∧ h.body = c) →
        (∀ e ∈ s.host.queues, e.1 / 64 = f.val → e.1 % 64 ≠ q.toNat → e.2.stamps = []) →
        ∃ t, exec (.fenceCommand f q c) s = .next t ∧ s.answers t f.val q.toNat c 0 0 0)
      ∧ ∀ h ∈ mine, (if h.q = q.toNat then mine.head? = some h ∧ h.body ≠ c
          else h.stamp ≤ s.host.bells ∧ ∀ x ∈ mine, x.body = c → h.stamp < x.stamp) →
          ∃ t, exec (.fenceCommand f q c) s = .next t
            ∧ t.host.fences = [(f.val, q.toNat, c)] ∧ t.host.compls = s.host.compls)
    ∧ ∀ (b : Blk) (p : Nat), cmdByte c 5 = 1 → v < 6 → maskBlocks c = [b.toNat] → partOf s b.toNat = some n →
        holder s b.toNat = some p →
        (powerRefusal s p v [p] ≠ 0 → ∃ t, exec (.fenceCommand f q c) s = .next t ∧ s.answers t f.val q.toNat c 0x0F b.toNat 0)
        ∧ (powerRefusal s p v [p] = 0 → rgB s (R.PC_DOM p) R.PC_DOM_BUSY = false → domCur s p < v → s.host.powers = [] →
          ∃ t, exec (.fenceCommand f q c) s = .next t ∧ t.host.powers = [(f.val, q.toNat, c)]
            ∧ t.host.compls = s.host.compls ∧ mapHas p t.pwr.goal = true ∧ (mapGet 0 p t.pwr.goal).toNat = v))
  ∧ (∀ (s : State) (q : BitVec 6) (c : BitVec 512), s.takes 0 q.toNat c 8 → cmdByte c 5 = 0 → cmdByte c 6 = 0 → zeros c 16 16 →
    zeros c 32 32 → busMaster s 0 = true →
    ∃ t d, exec (.query 0 q c) s = .next t ∧ t.out = s.out ++ [.hostWrite 0 (cmdVal c 8 8) d] ∧ d.length = 4096
      ∧ d.take 8 = bytesOf 8 (readReg s R.CHIP_ID) ∧ s.answers t 0 q.toNat c 0 0 7 ∧ t.regs = s.regs)
  ∧ ∀ (s : State) (p : Part) (k : Capture), k.part = p.toNat →
    (k ∈ s.host.caps → k.edge = none → edgeDue s k = true → ∃ t x, exec (.captureEdge p) s = .next t ∧ t.mem = s.mem
      ∧ x ∈ t.host.caps ∧ x.part = p.toNat ∧ x.edge = some s.timebase ∧ ∀ b ∈ blocksOf s p.toNat, halted t b = true)
    ∧ ∀ e : Word, (s.host.caps.find? fun k => k.part == p.toNat && k.edge.isSome) = some k → k.edge = some e →
      busMaster s (requesterOf s k.f) = true → k.q < 64 →
      ∃ t, exec (.captureReadoutDone p) s = .next t ∧ t.host.caps = s.host.caps.erase k
        ∧ t.out.take (s.out.length + 1)
          = s.out ++ [.hostWrite (requesterOf s k.f) (cmdVal k.body 8 8) (captureBytes s p.toNat e.toNat)]
        ∧ s.answers t k.f k.q k.body 0 0 e.toNat
        ∧ ((cmdByte k.body 6).testBit 7 = true → s.dbg.chipStop = false → epState s p.toNat ≠ 6 → forced s p.toNat = false →
          ∀ b ∈ blocksOf s p.toNat, rgB t (R.DBG_STATUS b) R.DBG_STATUS_STOPPED = false)

/-! ### The cascade (chapter 13) -/

/-- Rein ports and the cascade (R381, R428, R430, R432-R435, R438, R440, R441, R443, R444): a port trains and, once identified,
is UP or DEGRADED, or ends DOWN or MISMATCH with its cause; a lane fails over to lane 16 or takes the port down, and frames
sent again count; a cascade-wide load is released after the last report, and aborted at a failure or after 1 s; a dispatched
instruction goes on and executes, and so does the lead's stop; requests, edge data, partials and tunnelled packets arrive, and
a partial goes on with this device's own; TIMEBASE is set, compared and passed on. What the rules leave open here follows log
entries 50, 51, 70, 88, 98 and 100. -/
def Obligations.CascadePorts : Prop :=
  (∀ (s : State) (p : BitVec 2),
    let k := p.toNat
    let a := R.REIN_STATUS k
    let st (t : State) (x cause : Nat) : Prop := portState t k = x ∧ rgF t a R.REIN_STATUS_CAUSE = cause
    (∀ (lat : BitVec 8) (lanes : BitVec 17), rgB s R.HI_STATUS R.HI_STATUS_READY = true → portState s k ≤ 2 → domCur s (169 + k) = 0 →
      (s.rein.released = false ∨ portState s k = 2) →
      (∃ t, exec (.reinPartnerDetected p lat false lanes) s = .next t ∧ st t 5 2 ∧ rgB t a R.REIN_STATUS_DOWNEV = true
        ∧ rgF t a R.REIN_STATUS_LLAT = lat.toNat)
      ∧ (lanes = BitVec.allOnes 17 → ∃ t v, exec (.reinPartnerDetected p lat true lanes) s = .next t ∧ st t 2 0
        ∧ rgF t a R.REIN_STATUS_LLAT = lat.toNat ∧ rg t (R.REIN_LANE k) = 2 ^ 32 ∧ t.out = s.out ++ [.rein k 9 v]))
    ∧ (∀ m : IdentMsg, 2 ≤ portState s k → portState s k ≠ 5 →
      let at_ := ((m.posX.toNat : Int), (m.posY.toNat : Int)) = partnerPos s k
      let agree := recordsAgree s (identRec s) m
      let far := if m.lead then some m.dev else m.record.map (·.2)
      let two := (m.lead = true ∧ s.rein.leads = true) ∨ ∃ d e, far = some d ∧ s.rein.leadSeen = some e ∧ d ≠ e
      let peer (t : State) : Prop := rgF t a R.REIN_STATUS_PEER = m.dev.toNat ∧ rgB t a R.REIN_STATUS_PEERV = true
        ∧ s.regsOnly { t with rein := s.rein, out := s.out } [a] ∧ t.rein.idents = mapPut k m s.rein.idents
      (¬ at_ → ∃ t, exec (.ident p m) s = .next t ∧ st t 6 3 ∧ peer t)
      ∧ (at_ → agree = false → ∃ t, exec (.ident p m) s = .next t ∧ st t 6 4 ∧ peer t)
      ∧ (at_ → agree = true → two → ∃ t, exec (.ident p m) s = .next t ∧ st t 6 5 ∧ peer t)
      ∧ (at_ → agree = true → ¬ two → portState s k ≠ 4 → ∃ t, exec (.ident p m) s = .next t ∧ peer t
        ∧ t.rein.leadSeen = far.or s.rein.leadSeen
        ∧ (portState s k = 3 ∨ rgF s (R.REIN_LANE k) R.REIN_LANE_GROUP = 0 → portState t k = 3)
        ∧ (portState s k ≠ 3 → rgF s (R.REIN_LANE k) R.REIN_LANE_GROUP ≠ 0 → st t 4 0 ∧ rgB t a R.REIN_STATUS_DEGEV = true)))
    ∧ (∀ f : LaneFault, portState s k = 3 → laneState s k f.lane.val ≠ 2 →
      let fails := f.retries = 0 ∨ 64 < f.retries
      let again (t : State) : Prop := rgF t a R.REIN_STATUS_RETRY = min (rgF s a R.REIN_STATUS_RETRY + f.retries) R.REIN_STATUS_RETRY.top
      (¬ fails → ∃ t, exec (.reinLaneFailure p f) s = .next t ∧ s.regsOnly t [a] ∧ again t ∧ portState t k = 3)
      ∧ (fails → f.lane.val < 16 → failedLanes s k = [] → laneState s k 16 = 1 → rgF s (R.REIN_LANE k) R.REIN_LANE_GROUP = 0 →
        ∃ t, exec (.reinLaneFailure p f) s = .next t ∧ portState t k = 3 ∧ laneState t k f.lane.val = 2 ∧ again t
          ∧ laneState t k 16 = 0 ∧ rgF t (R.REIN_LANE k) R.REIN_LANE_SUBST = f.lane.val ∧ rgB t a R.REIN_STATUS_SPEV = true
          ∧ rgF t a R.REIN_STATUS_LANESW = min (rgF s a R.REIN_STATUS_LANESW + 1) R.REIN_STATUS_LANESW.top)
      ∧ (fails → laneGroup (failedLanes s k ++ [f.lane.val]) = none →
        ∃ t, exec (.reinLaneFailure p f) s = .next t ∧ st t 5 1 ∧ rgB t a R.REIN_STATUS_DOWNEV = true))
    ∧ (portUsable s k = true →
      (∀ m : EdgeMsg, (∀ r, m.ret = some r → r.1.toNat = myIdx s) →
        let key := 64 * (match m.ret with | some r => r.2.toNat | none => k) + 32 * b2n m.net + m.index.toNat
        let queued := lockstep s s.cfg.cascade.cpid.toNat = true
        exec (.edgeFrame p m) s = .next { s with rein := { s.rein with
          edge := mapSet [] key ((if queued then mapGet [] key s.rein.edge else []) ++ [m.data]) s.rein.edge } })
      ∧ (∀ (m : EdgeMsg) r o, m.ret = some r → r.1.toNat ≠ myIdx s → portFor s r.1.toNat = some o →
        exec (.edgeFrame p m) s = .next (if portUsable s o then emit s (.edge o m) else s))
      ∧ (∀ rid dev wr addr len key data inner, dev.toNat = myIdx s → addr.toNat < 0x8000000000 →
        ∃ t q, exec (.tunnelledRequest p (.request rid dev wr addr len key data inner)) s = .next t
          ∧ t.mesh.flight = s.mesh.flight ++ [q] ∧ q.addr = addr.toNat ∧ q.wr = wr ∧ q.len = len.toNat ∧ q.data = data
          ∧ q.part = innerPart s inner addr.toNat ∧ t.mesh.tun = s.mesh.tun ++ [(q.id, k, rid)] ∧ s.sentOnly t)
      ∧ (∀ rid dev wr addr len key data inner o, dev.toNat ≠ myIdx s → pathTo s dev.toNat = some o →
        let open_ := portUsable s o = true ∧ routeDown s 9 (routerAt 5 k) (routerAt 5 o) = false
        (open_ → ∃ t id l, exec (.tunnelledRequest p (.request rid dev wr addr len key data inner)) s = .next t
          ∧ t.out = s.out ++ l ++ [.tun o (.request id dev wr addr len key data inner)]
          ∧ (∀ x ∈ l, ∃ r p v f, x = .present r p v f) ∧ t.mesh.tun = s.mesh.tun ++ [(id, k, rid)]
          ∧ t.mesh.flight = s.mesh.flight ∧ t.mem = s.mem)
        ∧ (¬ open_ → exec (.tunnelledRequest p (.request rid dev wr addr len key data inner)) s
          = .next (emit s (.tun k (.response rid 5 [])))))
      ∧ ∀ rid status data o far, (s.mesh.tun.find? fun t => t.1 == rid) = some (rid, o, far) →
        ∃ t, exec (.tunnelledRequest p (.response rid status data)) s = .next t
          ∧ t.out = s.out ++ [.tun o (.response far status data)] ∧ ∀ e ∈ t.mesh.tun, e.1 ≠ rid))
  ∧ (∀ (s : State) (L : ImgLoad) (dev : BitVec 4), s.img = some L → L.partial_ = false → L.relTick = none →
    let fails (e : Instr) : Prop := ∃ t, exec e s = .next t ∧ t.img = none ∧ phase t = 7 ∧ rgF t R.IMG_ERR R.IMG_ERR_CODE = 0x14
      ∧ rgB t R.IMG_STATUS R.IMG_STATUS_BUSY = false ∧ t.mem = s.mem
    let v := setAdd dev L.verified
    let calm := ∀ n, n < 16 → (epochOf s n).wait = []
    (L.staged = none → exec (.verified dev) s = .next { s with img := some { L with verified := v } })
    ∧ (L.leads = false → L.staged.isSome = true → ∃ t, exec (.verified dev) s = .next t ∧ t = { s with out := t.out })
    ∧ (L.leads = true → phase s = 4 → L.staged.isSome = true → (wideMembers s L).all (fun d => v.contains (BitVec.ofNat 4 d)) = true →
      ∃ t, exec (.verified dev) s = .next t ∧ phase t = 5
        ∧ t.img = some { L with verified := v, relTick := some (now s + 20000) } ∧ t.mem = s.mem)
    ∧ (L.leads = true → (wideMembers s L).all (fun d => v.contains (BitVec.ofNat 4 d)) = false →
        exec (.verified dev) s = .next { s with img := some { L with verified := v } })
    ∧ (∀ x : Word, L.wide = true → L.leads = false → phase s = 4 → ∃ t, exec (.release x) s = .next t ∧ phase t = 5
        ∧ t.img = some { L with relTick := some x.toNat } ∧ t.mem = s.mem)
    ∧ (2 ≤ phase s → calm → fails (.cascadeLoadAbort dev))
    ∧ (L.wide = true → calm → L.staged.isSome = true → L.verTick + 100000000 ≤ now s →
      (L.leads = true → (wideMembers s L).contains dev.toNat = true → L.verified.contains dev = false → fails (.cascadeLoadTimeout dev))
      ∧ (L.leads = false → fails (.cascadeLoadTimeout dev))))
  ∧ (∀ (s : State), cascadePart s (casPart s) = true →
    let n := casPart s
    let b := leadOf s n
    let away := (awayPorts s).filter (portUsable s)
    (∀ m : DispFrame, leadsCascade s = true → exec (.dispatchFrame m) s = .next s)
    ∧ (∀ m : DispFrame, leadsCascade s = false → lockstep s n = true →
      (m.act = .start → farRun s b = false → m.w.toNat / 2 ^ 28 = 14 →
        ∃ t x, exec (.dispatchFrame m) s = .next t ∧ t.out = s.out ++ away.map (fun p => .disp p m)
          ∧ (seqOf t b).micro = some x ∧ x.far = true ∧ x.w = m.w ∧ x.d = m.d ∧ x.s = m.s ∧ t.mem = s.mem)
      ∧ ∀ c : BitVec 8, m.act = .stop c → 4 ≤ c.toNat → c.toNat ≤ 6 → ∃ t, exec (.dispatchFrame m) s = .next t
          ∧ t.out = s.out ++ away.map (fun p => .disp p m) ∧ t.mem = s.mem
          ∧ ∀ x ∈ blocksOf s n, rgB t (R.DBG_STATUS x) R.DBG_STATUS_STOPPED = true)
    ∧ (∀ dev r, leadsCascade s = false → ∃ t, exec (.forwardedRequest dev r) s = .next t ∧ t = { s with out := t.out })
    ∧ (leadsCascade s = true → ∀ dev,
      (∀ c k, exec (.forwardedRequest dev (.interrupt c k)) s
        = .next { s with rein := { s.rein with fwd := s.rein.fwd ++ [(dev, c, k)] } })
      ∧ (∀ c, ∃ t, exec (.forwardedRequest dev (.girth c)) s = .next t ∧ t.mem = s.mem
        ∧ ∀ x ∈ blocksOf s n, rgB t (R.DBG_STATUS x) R.DBG_STATUS_STOPPED = true)
      ∧ ∃ t, exec (.forwardedRequest dev .halt) s = .next t ∧ s.regsOnly t [R.DBG_CTRL b]
          ∧ rgB t (R.DBG_CTRL b) R.DBG_CTRL_HALTREQ = true)
    ∧ ∀ (slot : BitVec 2) (m : OrcFrame),
      let v := b2n m.or * 2 ^ 63 + b2n m.cv * 2 ^ 62 + m.count.toNat
      let k := slot.toNat
      let w : State := { s with rein := { s.rein with orc := mapPut (16 * k + m.dev.toNat) (BitVec.ofNat 64 v) s.rein.orc } }
      (m.result = false → (leadsCascade s = true ∨ treeReady w b k = false) → exec (.orcPartial slot m) s = .next w)
      ∧ (leadsCascade s = false → m.result = false → bits (slotOf s b k).next.toNat 57 56 = 2 → scopeCascade s b 2 = true →
        treeReady w b k = true → ∀ o, towardPort s = some o → portUsable s o = true →
        ∃ t, exec (.orcPartial slot m) s = .next t ∧ t.out = s.out ++ [.orc o k (orcFrame w (treeWord w b k) false)]
          ∧ (∀ d : BitVec 4, mapHas (16 * k + d.toNat) t.rein.orc = false) ∧ t.mem = s.mem)
      ∧ (leadsCascade s = false → m.result = true → ∃ t, exec (.orcPartial slot m) s = .next t
        ∧ (mapGet 0 (64 + slot.toNat) t.rein.orc).toNat = v ∧ t.mem = s.mem))
  ∧ ∀ (s : State) (lead : Word),
    (∀ lat : BitVec 8, rgB s R.REIN_TB R.REIN_TB_ALIGNED = false → s.rein.leads = false →
      ∃ t, exec (.timebaseFirstSetting lead lat) s = .next t ∧ t.timebase = lead + BitVec.ofNat 64 (lat.toNat / 16)
        ∧ rgB t R.REIN_TB R.REIN_TB_ALIGNED = true ∧ t.mem = s.mem ∧ t.out = s.out
          ++ ((List.range 4).filter (portUsable s)).map fun p => .rein p 11 t.timebase)
    ∧ (rgB s R.REIN_TB R.REIN_TB_ALIGNED = true →
      let d : Int := (s.timebase.toNat : Int) - lead.toNat
      (-2 < d → d < 2 → ∃ t, exec (.timebaseComparison lead) s = .next t ∧ s.regsOnly { t with out := s.out } [R.REIN_TB]
        ∧ t.out = s.out ++ ((awayPorts s).filter (portUsable s)).map (fun p => .rein p 11 lead) ∧ rgF t R.REIN_TB R.REIN_TB_OFFSET = wrap 8 d)
      ∧ (d ≤ -2 → ∃ t, exec (.timebaseComparison lead) s = .next t ∧ t.timebase = s.timebase + 1
        ∧ rgB t R.REIN_TB R.REIN_TB_ALERR = true)
      ∧ (2 ≤ d → ∃ t, exec (.timebaseComparison lead) s = .next t ∧ t.timebase = s.timebase ∧ t.rein.holdTick = true
        ∧ rgB t R.REIN_TB R.REIN_TB_ALERR = true))

/-! ### Interrupts (chapter 14) -/

/-- The block and the chip interrupt controller and the Wellhead (R447-R450, R454-R457, R459): SET and CLR change PEND and
MASK of the sources that exist and that the writer owns, EOI ends a service and a level still high pends again, the
lowest eligible source is delivered, the oldest IRQ message to a block enters its BIC_CICQ, is refused or is held before a
fence under HOLD_WAKE, a watched event fires its slots, and a timer of the Wellhead that has run down is such an event. What
the rules leave open here follows log entries 27, 52, 53, 106 and 108. -/
def Obligations.Interrupts : Prop :=
  (∀ (s : State) (b : Blk) (v : Word),
    let n := b.toNat
    let p := R.BIC_PEND n
    let m := R.BIC_MASK n
    (∃ t, exec (.bicPendSet b v) s = .next t ∧ rg t p = Nat.lor (rg s p) (Nat.land v.toNat bicAll)
        ∧ (follows s s.cfg.cascade.cpid.toNat = false → s.regsOnly t [p])
        ∧ s.regsOnly { t with rein := s.rein, out := s.out } [p])
    ∧ (∃ t, exec (.bicPendClr b v) s = .next t ∧ s.regsOnly t [p]
        ∧ ∀ k, k < 64 → (rg t p).testBit k = ((rg s p).testBit k && !v.getLsbD k))
    ∧ (∃ t, exec (.bicMaskSet b v) s = .next t ∧ s.regsOnly t [m] ∧ rg t m = Nat.lor (rg s m) (Nat.land v.toNat bicAll))
    ∧ (∃ t, exec (.bicMaskClr b v) s = .next t ∧ s.regsOnly t [m]
        ∧ ∀ k, k < 64 → (rg t m).testBit k = ((rg s m).testBit k && !(v.getLsbD k && bicExists k)))
    ∧ (∀ k : BitVec 6, (rg s (R.BIC_ACT n)).testBit k.toNat = true → ∃ t, exec (.bicEoi b k) s = .next t
        ∧ s.regsOnly t [R.BIC_ACT n, p] ∧ (rg t (R.BIC_ACT n)).testBit k.toNat = false
        ∧ (rg t p).testBit k.toNat = ((rg s p).testBit k.toNat || bicInput s n k.toNat))
    ∧ (∀ k : BitVec 6, (rg s (R.BIC_ACT n)).testBit k.toNat = false → exec (.bicEoi b k) s = .next s)
    ∧ ∀ i : Initiator, ∃ t, exec (.bicCicqPop i b) s = .next t
        ∧ t.out = s.out ++ [.regRead (R.BIC_CICQ n) (BitVec.ofNat 64 (readReg s (R.BIC_CICQ n)))]
        ∧ mapGet [] n t.irq.cicq = (mapGet [] n s.irq.cicq).tail ∧ t.regs = s.regs)
  ∧ (∀ (s : State) (i : Initiator) (w : BitVec 4) (v : Word),
    let hit (n : Nat) : Bool := decide (n / 64 = w.toNat) && v.getLsbD (n % 64) && cicExists n && cicMay s i n
    let bit (t : State) (r : Nat → Nat) (n : Nat) : Bool := (rg t (r (n / 64))).testBit (n % 64)
    (∃ t, exec (.cicPendSet i w v) s = .next t ∧ t.mem = s.mem
        ∧ ∀ n, n < 1024 → bit t R.CIC_PEND n = (bit s R.CIC_PEND n || hit n))
    ∧ (∃ t, exec (.cicPendClr i w v) s = .next t ∧ t = { s with regs := t.regs }
        ∧ ∀ n, n < 1024 → bit t R.CIC_PEND n = (bit s R.CIC_PEND n && !hit n))
    ∧ (∃ t, exec (.cicMaskSet i w v) s = .next t ∧ t = { s with regs := t.regs }
        ∧ ∀ n, n < 1024 → bit t R.CIC_MASK n = (bit s R.CIC_MASK n || hit n))
    ∧ (∃ t, exec (.cicMaskClr i w v) s = .next t ∧ t = { s with regs := t.regs }
        ∧ ∀ n, n < 1024 → bit t R.CIC_MASK n = (bit s R.CIC_MASK n && !hit n))
    ∧ ∀ src : BitVec 10,
      let n := src.toNat
      (cicMay s i n = true → bit s R.CIC_ACT n = true → ∃ t, exec (.cicEoi i src) s = .next t ∧ bit t R.CIC_ACT n = false
        ∧ bit t R.CIC_PEND n = (bit s R.CIC_PEND n || cicInput s n) ∧ s.regsOnly t [R.CIC_ACT (n / 64), R.CIC_PEND (n / 64)])
      ∧ (cicMay s i n = false → exec (.cicEoi i src) s = .next s)
      ∧ (pfOrAwl i = true → cicOwner s n = none → cicExists n = true → ∀ x : BitVec 32,
        ∃ t, exec (.cicRouteWrite i src x) s = .next t ∧ s.regsOnly t [R.CIC_ROUTE n]
          ∧ routeTgt t n = bits x.toNat 19 9 ∧ routeHog t n = bits x.toNat 8 4
          ∧ routeKind t n = if bits x.toNat 21 20 % 2 = 1 then routeKind s n else bits x.toNat 21 20)
      ∧ ((cicOwner s n).isSome = true → ∀ x : BitVec 32, exec (.cicRouteWrite i src x) s = .next s))
  ∧ (∀ (s : State) (n : Nat), (List.range 1024).find? (cicEligible s) = some n →
    let bit (t : State) (r : Nat → Nat) : Bool := (rg t (r (n / 64))).testBit (n % 64)
    let window (t : State) : Prop := rgF s (R.CIC_HOG (routeHog s n)) R.CIC_HOG_PERIOD ≠ 0 →
      mapGet 0 (routeHog s n) t.irq.cicHog = now s + rgF s (R.CIC_HOG (routeHog s n)) R.CIC_HOG_PERIOD
    (routeKind s n = 1 → ∃ t, exec .cicDelivery s = .next t ∧ t.irq.msgs = s.irq.msgs ++ [(routeTgt s n, n)]
      ∧ bit t R.CIC_ACT = true ∧ bit t R.CIC_PEND = false ∧ window t ∧ t.mem = s.mem)
    ∧ (routeKind s n = 2 → n < 512 → ∃ t, exec .cicDelivery s = .next t ∧ t.out = (sendMsix s 0 (routeTgt s n)).out
      ∧ t.host.pba = (sendMsix s 0 (routeTgt s n)).host.pba ∧ bit t R.CIC_PEND = cicInput s n ∧ window t ∧ t.mem = s.mem))
  ∧ (∀ (s : State) (b : Blk) (src : BitVec 10), s.irq.msgs.find? (fun m => m.1 == b.toNat) = some (b.toNat, src.toNat) →
    (msgWaits s b.toNat src.toNat = true → exec (.cicIrqMessage b src) s = .next s) ∧ (msgWaits s b.toNat src.toNat = false →
    let q := mapGet [] b.toNat s.irq.cicq
    let acked (t : State) (x : Nat) : Prop := exec (.cicIrqMessage b src) s = .next t
      ∧ t.irq.acks = s.irq.acks ++ [(src.toNat, x)] ∧ t.irq.msgs = s.irq.msgs.erase (b.toNat, src.toNat) ∧ t.mem = s.mem
    let at_ := fenceFor s (.block b.toNat 0x780200)
    (at_ = none → heldRegion s (b.toNat / 8) = false →
      (q.length < 16 → ∃ t, acked t 0 ∧ mapGet [] b.toNat t.irq.cicq = q ++ [src]
        ∧ (q = [] → (rg t (R.BIC_PEND b.toNat)).testBit 63 = true))
      ∧ (16 ≤ q.length → ∃ t, acked t 1 ∧ t.regs = s.regs ∧ t.irq.cicq = s.irq.cicq))
    ∧ (at_ = none → heldRegion s (b.toNat / 8) = true →
        ∃ t, acked t 2 ∧ t.regs = s.regs ∧ t.irq.cicq = s.irq.cicq)
    ∧ ∀ g j, at_ = some (g, j) →
        let wakes := (rgF s (R.GW_SLUICE g) R.GW_SLUICE_POL).testBit j && !heldRegion s (b.toNat / 8)
        (wakes = false → ∃ t, acked t 2 ∧ t.regs = s.regs ∧ t.irq.cicq = s.irq.cicq)
        ∧ (wakes = true → bufferFull s g j = true → exec (.cicIrqMessage b src) s = .next s)
        ∧ (wakes = true → bufferFull s g j = false → ∃ t, exec (.cicIrqMessage b src) s = .next t ∧ t.mem = s.mem
          ∧ t.irq.acks = s.irq.acks ∧ (mapHas (domainNo g j) s.pwr.goal = false →
            t.irq.held = s.irq.held ++ [(10 * g + j, b.toNat, src.toNat, s.mesh.nextSeq)]
            ∧ t.irq.msgs = s.irq.msgs.erase (b.toNat, src.toNat)
            ∧ (domCur s (domainNo g j) ≠ 0 → mapGet 7 (domainNo g j) t.pwr.goal = 0)))))
  ∧ (∀ (s : State) (src : BitVec 10) (st : BitVec 2), (src.toNat, st.toNat) ∈ s.irq.acks →
    let n := src.toNat
    let rest := s.irq.acks.erase (n, st.toNat)
    (st = 0 → exec (.irqack src st) s = .next { s with irq := { s.irq with acks := rest } })
    ∧ (st ≠ 0 → ∃ t, exec (.irqack src st) s = .next t ∧ t.irq.acks = rest ∧ t.mem = s.mem
      ∧ (rg t (R.CIC_ACT (n / 64))).testBit (n % 64) = false ∧ (rg t (R.CIC_PEND (n / 64))).testBit (n % 64) = true
      ∧ (rgF s (R.CIC_HOG (routeHog s n)) R.CIC_HOG_PERIOD = 0 → mapGet 0 n t.irq.resend = now s + 1000)))
  ∧ (∀ (s : State) (src : BitVec 10), mapHas src.toNat s.irq.resend = true → mapGet 0 src.toNat s.irq.resend ≤ now s →
    ∃ t, exec (.cicResendTimer src) s = .next t ∧ mapHas src.toNat t.irq.resend = false
      ∧ t = { s with irq := { s.irq with resend := t.irq.resend } })
  ∧ ∀ (s : State) (e : WakeEvent) (k : Nat), k < 32 →
    let a := R.WH_SLOT k
    (rgB s a R.WH_SLOT_EN = true → (rgF s a R.WH_SLOT_KIND, rgF s a R.WH_SLOT_INDEX) = wakeKey e →
      ∃ t, exec (.wellheadEvent e) s = .next t ∧ (rg t R.WH_EVENT).testBit k = true ∧ t.mem = s.mem
        ∧ ∀ d ∈ slotDomains s k, domCur s d ≠ 0 → mapHas d s.pwr.goal = false →
            mapHas d t.pwr.goal = true ∧ mapGet 7 d t.pwr.goal = 0)
    ∧ ∀ x : BitVec 1,
      let c := R.WH_TMR x.toNat
      let expired := rgB s c R.WH_TMR_EN = true ∧ mapHas x.toNat s.irq.wh = true ∧ mapGet 0 x.toNat s.irq.wh = 0
      (expired → rgB s c R.WH_TMR_PER = false → exec (.whTimerExpiry x) s
        = exec (.wellheadEvent (.timer x)) { s with irq := { s.irq with wh := mapErase x.toNat s.irq.wh } })
      ∧ (expired → rgB s c R.WH_TMR_PER = true → exec (.whTimerExpiry x) s = exec (.wellheadEvent (.timer x))
          { s with irq := { s.irq with wh := mapPut x.toNat (100 * rgF s c R.WH_TMR_PERIOD) s.irq.wh } })
      ∧ (¬ expired → exec (.whTimerExpiry x) s = .next s)

/-! ### Clocks, power and supply (chapter 15) -/

/-- Dividers, margins, voltage, the power and thermal limits, the power ladder and supply sag (R328, R464-R468, R470-R475,
R477, R478, R547). What the rules leave open here follows log entries 54 and 55. -/
def Obligations.PowerAndClocks : Prop :=
  (∀ (s : State) (g : Rgn),
    let r := g.toNat
    let a := R.PC_RGN r
    let p := rgF s a R.PC_RGN_POINT
    (∀ (i : Initiator) (d : BitVec 2), tdivMay s i r = true →
      (tdivRefused s r d.toNat = true → ∃ t, exec (.tdivWrite i g d) s = .next t ∧ s.regsOnly t [a] ∧ rgB t a R.PC_RGN_REFUSED = true
        ∧ rgF t a R.PC_RGN_TDIV = rgF s a R.PC_RGN_TDIV)
      ∧ (tdivRefused s r d.toNat = false → ∃ t, exec (.tdivWrite i g d) s = .next t ∧ rgF t a R.PC_RGN_TDIV = d.toNat
        ∧ rgF t a R.PC_RGN_ADIV = rgF s a R.PC_RGN_ADIV ∧ t.mem = s.mem))
    ∧ (mapHas r s.pwr.switch = true → mapHas r s.pwr.fall = false → ∃ t, exec (.dividerSwitch g) s = .next t
        ∧ rgF t a R.PC_RGN_ADIV = (mapGet 0 r s.pwr.switch).toNat
        ∧ rgF t a R.PC_RGN_POINT = 4 * (3 - (mapGet 0 r s.pwr.switch).toNat) ∧ t.mem = s.mem)
    ∧ (assigned s r = true → p % 4 < 3 → p < rgF s a R.PC_RGN_PMAX → ∃ t, exec (.marginLowReport g) s = .next t
        ∧ rgF t a R.PC_RGN_POINT = p + 1 ∧ rgB t a R.PC_RGN_MLOW = true)
    ∧ (assigned s r = true → (p % 4 = 3 ∨ rgF s a R.PC_RGN_PMAX ≤ p) → p / 4 ≠ 0 → ∃ t, exec (.marginLowReport g) s = .next t
        ∧ rgF t a R.PC_RGN_FALLBACK = min (rgF s a R.PC_RGN_FALLBACK + 1) R.PC_RGN_FALLBACK.top
        ∧ rgB t R.PC_EVENT R.PC_EVENT_FALLEV = true ∧ mapGet 3 r t.pwr.fall = BitVec.ofNat 2 (p / 4 - 1))
    ∧ (assigned s r = true → p % 4 ≠ 0 → ∃ t, exec (.marginQuiet g) s = .next t ∧ rgF t a R.PC_RGN_POINT = p - 1
        ∧ rgB t a R.PC_RGN_MLOW = false)
    ∧ (assigned s r = true → divMates s r = [r] → grp s r + 1 ≤ 3 - rgF s a R.PC_RGN_TDIV →
      4 * (grp s r + 1) ≤ rgF s a R.PC_RGN_PMAX → rgB s a R.PC_RGN_MLOW = false →
      ∃ t, exec (.dividerReturn g) s = .next t ∧ t.mem = s.mem
        ∧ ((mapHas r t.pwr.wait = true ∧ (mapGet 0 r t.pwr.wait).toNat = 2 - grp s r)
          ∨ (mapHas r t.pwr.switch = true ∧ (mapGet 0 r t.pwr.switch).toNat = 2 - grp s r))))
  ∧ (∀ s : State, rgB s R.PC_VF R.PC_VF_SETTLE = true →
    (wantMV s = rgF s R.PC_VF R.PC_VF_MV → ∃ t, exec .voltageSettled s = .next t ∧ rgB t R.PC_VF R.PC_VF_SETTLE = false
      ∧ t.out = s.out ∧ t.pwr.wait = [])
    ∧ (wantMV s ≠ rgF s R.PC_VF R.PC_VF_MV → ∃ t, exec .voltageSettled s = .next t ∧ rgB t R.PC_VF R.PC_VF_SETTLE = true
      ∧ rgF t R.PC_VF R.PC_VF_MV = wantMV s ∧ t.out = s.out ++ [.vout (wantMV s)]))
  ∧ (∀ s : State,
    let capped (t : State) : Prop := ∀ g, g < 16 → assigned s g = true → rgF t (R.PC_RGN g) R.PC_RGN_PMAX
      = max (min (topOf s g) 3) (topOf s g - max (mapGet 0 g t.pwr.capCut) (mapGet 0 g t.pwr.thCut))
    let more (m m' : List (Nat × Nat)) : Prop := ∀ g, g < 16 → assigned s g = true →
      mapGet 0 g m' = min (topOf s g - 3) (mapGet 0 g m + 4)
    let less (m m' : List (Nat × Nat)) : Prop := (m.map (·.1)).Nodup → ∀ g, mapGet 0 g m' = mapGet 0 g m - 4
    (∀ x : BitVec 16, rgF s R.PC_PWR R.PC_PWR_LIMIT < x.toNat → ∃ t, exec (.powerSample x) s = .next t
      ∧ rgF t R.PC_PWR R.PC_PWR_AVG = x.toNat ∧ rgB t R.PC_EVENT R.PC_EVENT_CAPEV = true
      ∧ more s.pwr.capCut t.pwr.capCut ∧ t.pwr.thCut = s.pwr.thCut ∧ capped t)
    ∧ (∀ x : BitVec 16, ∀ since, 100 * x.toNat < 95 * rgF s R.PC_PWR R.PC_PWR_LIMIT → s.pwr.capOk = some since →
      since + 10000000 ≤ now s → ∃ t, exec (.powerSample x) s = .next t ∧ less s.pwr.capCut t.pwr.capCut
        ∧ t.pwr.thCut = s.pwr.thCut ∧ capped t)
    ∧ (∀ x : BitVec 8, 100 ≤ x.toNat → ∃ t, exec (.thermalSample x) s = .next t ∧ rgF t R.TH_STATUS R.TH_STATUS_TMAX = x.toNat
      ∧ rgB t R.TH_STATUS R.TH_STATUS_HOT = true ∧ (rgB s R.TH_STATUS R.TH_STATUS_HOT = false → rgB t R.TH_STATUS R.TH_STATUS_HOTEV = true)
      ∧ rgF t R.TH_STATUS R.TH_STATUS_PEAK = max x.toNat (rgF s R.TH_STATUS R.TH_STATUS_PEAK)
      ∧ more s.pwr.thCut t.pwr.thCut ∧ t.pwr.capCut = s.pwr.capCut ∧ capped t)
    ∧ (∀ x : BitVec 8, 95 ≤ x.toNat → x.toNat < 100 → ∃ t, exec (.thermalSample x) s = .next t
      ∧ s.regsOnly { t with pwr := s.pwr } [R.TH_STATUS] ∧ rgF t R.TH_STATUS R.TH_STATUS_TMAX = x.toNat ∧ t.pwr.thOk = none))
  ∧ (∀ (s : State) (d : Fin 176), d.val ≠ 168 → d.val < 174 →
    let n := d.val
    let a := R.PC_DOM n
    let to_ (t : State) (v : Nat) : Prop := mapHas n t.pwr.goal = true ∧ (mapGet 7 n t.pwr.goal).toNat = v ∧ rgB t a R.PC_DOM_BUSY = true
    let cur (t : State) : Nat := domCur t n
    (∀ v : BitVec 3, powerRefusal s n v.toNat [n] ≠ 0 → powerRefusal s n v.toNat [n] ≠ 2 →
      ∃ t, exec (.powerRequest d v) s = .next t ∧ rgF t a R.PC_DOM_RCODE = powerRefusal s n v.toNat [n]
        ∧ rgB t R.PC_EVENT R.PC_EVENT_REFEV = true ∧ cur t = cur s ∧ t.pwr = s.pwr)
    ∧ (∀ v : BitVec 3, powerRefusal s n v.toNat [n] = 0 → rgB s a R.PC_DOM_BUSY = false → cur s ≠ v.toNat →
      ∃ t, exec (.powerRequest d v) s = .next t ∧ to_ t v.toNat ∧ rgF t a R.PC_DOM_REQ = v.toNat ∧ cur t = cur s)
    ∧ (∀ v : BitVec 3, powerRefusal s n v.toNat [n] = 2 → rgB s a R.PC_DOM_BUSY = false → cur s < 4 →
      ∃ t, exec (.powerRequest d v) s = .next t ∧ to_ t 4 ∧ rgF t a R.PC_DOM_RCODE = 2 ∧ rgF t a R.PC_DOM_REQ = 4 ∧ cur t = cur s)
    ∧ (mapHas n s.pwr.goal = false → cur s ≠ 0 → ∃ t, exec (.domainWake d) s = .next t ∧ to_ t 0 ∧ rgF t a R.PC_DOM_REQ = 0
        ∧ cur t = cur s ∧ t.mem = s.mem)
    ∧ (mapHas n s.pwr.goal = true → mapHas n s.pwr.waiting = false →
      let v := (mapGet 0 n s.pwr.goal).toNat
      (waitsBoundary s n = true ∨ gatewayMay s n v = false → exec (.domainEntryComplete d) s = .next s)
      ∧ (waitsBoundary s n = false → gatewayMay s n v = true → cur s < v → v < 4 → ∃ t, exec (.domainEntryComplete d) s = .next t ∧ cur t = v ∧ rgB t a R.PC_DOM_BUSY = false
        ∧ mapHas n t.pwr.goal = false ∧ t.mem = s.mem)
      ∧ (∀ g j, waitsBoundary s n = false → gatewayMay s n v = true → cur s < v → 4 ≤ v → v < 6 → sluiceOf n = some (g, j) →
        sluiceSt s g j = 3 → ((domBlocks s n).any fun b => rgB s (R.ARR_SUSP b) R.ARR_SUSP_VALID) = false →
        ∃ t, exec (.domainEntryComplete d) s = .next t ∧ cur t = v ∧ sluiceSt t g j = 4 ∧ mapHas n t.pwr.goal = false
          ∧ t.mem = s.mem)
      ∧ (v = 0 → cur s ≠ 0 → cur s < 5 → ∃ t, exec (.domainWakeComplete d) s = .next t ∧ cur t = 0
        ∧ rgB t a R.PC_DOM_BUSY = false ∧ mapHas n t.pwr.goal = false ∧ t.mem = s.mem)
      ∧ ∀ b, v = 0 → cur s = 5 → n < 144 → heldBy s n = [b] → memsOf s n = [b] → ∃ t, exec (.domainWakeComplete d) s = .next t ∧ cur t = 0
        ∧ (∀ x, memDigit t.mem x = if bwin b ≤ x ∧ x < 0x200000 + bwin b then 0 else memDigit s.mem x)
        ∧ ∀ c i, i < 16384 → cellAt t c i = if c = b then {} else cellAt s c i))
  ∧ (∀ (s : State) (p : Fin 144), hushes s p.val = true →
    ∃ t, exec (.autoHush p) s = .next t ∧ s.regsOnly t [R.PC_DOM p.val] ∧ domCur t p.val = 1)
  ∧ ∀ (s : State) (c : SagCond),
    (∃ t, exec (.supplySag c) s = .next t ∧ rgB t R.PC_EVENT (sagBit c).1 = true ∧ rgB t R.PC_EVENT (sagBit c).2 = true
      ∧ (∀ m, s.sec.mbx = some m → m.status = 0 → mbxInhibited t m.cmd.toNat = true → t.sec.mbx = some { m with cut := true })
      ∧ t.mem = s.mem ∧ t.sec.fuses = s.sec.fuses ∧ t.sec.flash = s.sec.flash)
    ∧ ∃ t, exec (.inhibitRelease c) s = .next t ∧ s.regsOnly t [R.PC_EVENT] ∧ rgB t R.PC_EVENT (sagBit c).1 = false

/-! ### Debug, trace, pins (chapters 17, 18) -/

/-- Halts, single steps, Girth, of whose channels the lowest fires first and a member asks its lead, watchdog and timers (R18, R434, R507, R508, R510,
R514-R516, R518). What the rules leave open
here follows log entry 59. -/
def Obligations.DebugAndTimers : Prop :=
  (∀ (s : State) (b : Blk),
    let n := b.toNat
    (∃ t, exec (.haltreq b) s = .next t ∧ s.regsOnly { t with out := s.out } [R.DBG_CTRL n]
        ∧ rgB t (R.DBG_CTRL n) R.DBG_CTRL_HALTREQ = true)
    ∧ ((gang s n).any (releasable s) = true → ∃ t, exec (.dbgRelease b) s = .next t ∧ t.mem = s.mem
        ∧ ∀ c ∈ gang s n, releasable s c = true → rgB t (R.DBG_STATUS c) R.DBG_STATUS_HALTED = false
            ∧ rgF t (R.DBG_STATUS c) R.DBG_STATUS_CAUSE = if rgB s (R.DBG_STATUS c) R.DBG_STATUS_STOPPED then 4 else 0)
    ∧ ((gang s n).any (releasable s) = false → exec (.dbgRelease b) s = .next s)
    ∧ (∀ w : BitVec 24, releasable s n = true → rgB s (R.DBG_STATUS n) R.DBG_STATUS_STOPPED = false → programOf s n = n →
      (updSeq (releaseHalt s n) n fun q => { q with stepping := false }).plain n = true →
      readVal s (bwin n + pcOf s n) 8 = 0x01000000 + w.toNat → fFN w.toNat = 0 →
      ∃ t, exec (.dbgStep b) s = .next t ∧ pcOf t n = pcOf s n + 8 ∧ (seqOf t n).stepping = false ∧ t.mem = s.mem
        ∧ ∀ c ∈ gang s n, rgB t (R.DBG_STATUS c) R.DBG_STATUS_HALTED = true ∧ rgF t (R.DBG_STATUS c) R.DBG_STATUS_CAUSE = 3)
    ∧ (releasable s n = false → exec (.dbgStep b) s = .next s))
  ∧ (∀ (s : State) (n src : BitVec 3), girthLower s n.toNat = true → exec (.girthFire n src) s = .next s)
  ∧ (∀ (s : State) (n m : Nat), m < n → rgB s (R.GIRTH_CH m) R.GIRTH_CH_EN = true →
    (rgF s (R.GIRTH_CH m) R.GIRTH_CH_SRC).testBit 3 = true → now s = rg s R.GIRTH_TBM → s.dbg.girthAt = [] →
    girthLower s n = true)
  ∧ (∀ (s : State) (n src : BitVec 3), girthLower s n.toNat = false →
    ((n.toNat, src.toNat) ∈ s.dbg.girth ∨ src = 3 ∧ girthTimeDue s n.toNat = true) →
    let c := R.GIRTH_CH n.toNat
    ∃ t, exec (.girthFire n src) s = .next t ∧ (rgF t R.GIRTH_STAT R.GIRTH_STAT_FIRED).testBit n.toNat = true
      ∧ rgF t R.GIRTH_STAT R.GIRTH_STAT_TIME = now s % 2 ^ 48 ∧ t.dbg.girth = s.dbg.girth.erase (n.toNat, src.toNat)
      ∧ t.mem = s.mem ∧ (src = 3 → girthTimeDue t n.toNat = false)
      ∧ ((rgF s c R.GIRTH_CH_ACT).testBit 0 = true → ∀ p q, p < 16 → defined s p = true → follows s p = true →
          (rgB s c R.GIRTH_CH_CHIP = true ∨ (rgF s c R.GIRTH_CH_PMASK).testBit p = true) → towardPort s = some q →
          portUsable s q = true → Out.rein q ctlForward (BitVec.ofNat 64 (fwdCode (.girth n))) ∈ t.out)
      ∧ ((rgF s c R.GIRTH_CH_ACT).testBit 0 = true → rgB s c R.GIRTH_CH_CHIP = false → ∀ p, p < 16 → defined s p = true →
          follows s p = false → (rgF s c R.GIRTH_CH_PMASK).testBit p = true → t.dbg.pstop.getLsbD p = true ∧ ∀ b ∈ blocksOf s p, halted t b = true)
      ∧ ((rgF s c R.GIRTH_CH_ACT).testBit 0 = true → rgB s c R.GIRTH_CH_CHIP = true → t.dbg.chipStop = true
          ∧ ∀ p, p < 16 → defined s p = true → follows s p = false → ∀ b ∈ blocksOf s p, halted t b = true)
      ∧ ((rgF s c R.GIRTH_CH_ACT).testBit 1 = true → (rgF t R.GIRTH_STAT R.GIRTH_STAT_IRQF).testBit n.toNat = true))
  ∧ (∀ (s : State) (v : BitVec 8), ∃ t, exec (.girthTrig v) s = .next t ∧ t = { s with dbg := { s.dbg with girth := t.dbg.girth } }
      ∧ ∀ n, n < 8 → v.getLsbD n = true → rgB s (R.GIRTH_CH n) R.GIRTH_CH_EN = true →
          (rgF s (R.GIRTH_CH n) R.GIRTH_CH_SRC).testBit 0 = true → (n, 0) ∈ t.dbg.girth)
  ∧ (∀ (s : State) (v : BitVec 16), ∃ t, exec (.girthRelease v) s = .next t ∧ t.mem = s.mem
      ∧ ∀ p, p < 16 → v.getLsbD p = true → defined s p = true → s.dbg.chipStop = false → epState s p ≠ 6 →
          forced s p = false → ∀ b ∈ blocksOf s p, rgB t (R.DBG_STATUS b) R.DBG_STATUS_STOPPED = false)
  ∧ (∀ (s : State), s.dbg.chipStop = true → ∃ t, exec .girthRelchip s = .next t ∧ t.dbg.chipStop = false ∧ t.mem = s.mem
      ∧ ∀ p, p < 16 → defined s p = true → epState s p ≠ 6 → forced s p = false →
          ∀ b ∈ blocksOf s p, rgB t (R.DBG_STATUS b) R.DBG_STATUS_STOPPED = (s.dbg.pstop.getLsbD p && rgB s (R.DBG_STATUS b) R.DBG_STATUS_STOPPED))
  ∧ (∀ (s : State) (b : Blk),
    let n := b.toNat
    let cfg := R.WD_CFG n
    let cnt := R.WD_CNT n
    let period := rgF s cfg R.WD_CFG_PERIOD
    let wdog (t : State) : Prop := (rg t (R.BIC_PEND n)).testBit 0 = true ∧ rgF t cnt R.WD_CNT_REMAIN = period
      ∧ rgF t cnt R.WD_CNT_EXP = min 2 (rgF s cnt R.WD_CNT_EXP + 1) ∧ t.mem = s.mem
    (∀ v : Word, rgB s cfg R.WD_CFG_EN = false → v.getLsbD 63 = true → ∃ t, exec (.wdEnable b v) s = .next t
      ∧ s.regsOnly t [cfg, cnt] ∧ rgB t cfg R.WD_CFG_EN = true ∧ rgF t cfg R.WD_CFG_PERIOD = v.toNat % 2 ^ 32
      ∧ rgF t cnt R.WD_CNT_REMAIN = v.toNat % 2 ^ 32)
    ∧ (rgB s cfg R.WD_CFG_EN = true → rgF s cnt R.WD_CNT_REMAIN ≠ 0 → rgB s cfg R.WD_CFG_WIN = false →
      ∃ t, exec (.wdKick b) s = .next t ∧ s.regsOnly t [cnt] ∧ rgF t cnt R.WD_CNT_REMAIN = period ∧ rgF t cnt R.WD_CNT_EXP = 0)
    ∧ (rgB s cfg R.WD_CFG_EN = true → rgB s cfg R.WD_CFG_WIN = true → period - period / 2 < rgF s cnt R.WD_CNT_REMAIN →
      ∃ t, exec (.wdKick b) s = .next t ∧ wdog t)
    ∧ (rgB s cfg R.WD_CFG_EN = true → rgF s cnt R.WD_CNT_REMAIN = 0 → frozen s n R.DBG_CTRL_FZWD = false →
      ∃ t, exec (.wdExpiry b) s = .next t ∧ wdog t
        ∧ (rgF s cnt R.WD_CNT_EXP = 1 → rgB s cfg R.WD_CFG_GIRTH = true → t.dbg.girth = (girthRaise s 5 (partOf s n)).dbg.girth))
    ∧ (frozen s n R.DBG_CTRL_FZWD = true → exec (.wdExpiry b) s = .next s))
  ∧ ∀ (s : State) (b : Blk) (i : BitVec 2),
    let n := b.toNat
    let a := R.TMR n i.toNat
    (∀ v : Word, v.getLsbD 63 = true → ∃ t, exec (.timerStart b i v) s = .next t ∧ s.regsOnly t [a] ∧ rgB t a R.TMR_EN = true
      ∧ rgF t a R.TMR_PERIOD = v.toNat % 2 ^ 28 ∧ rgF t a R.TMR_REMAIN = v.toNat % 2 ^ 28)
    ∧ (rgB s a R.TMR_EN = true → rgF s a R.TMR_REMAIN = 0 → frozen s n R.DBG_CTRL_FZTMR = false →
      ∃ t, exec (.timerExpiry b i) s = .next t ∧ (rg t (R.BIC_PEND n)).testBit (1 + i.toNat) = true
        ∧ s.regsOnly { t with out := s.out, rein := s.rein } [a, R.BIC_PEND n]
        ∧ (rgB s a R.TMR_PER = true → rgF t a R.TMR_REMAIN = rgF s a R.TMR_PERIOD ∧ rgB t a R.TMR_EN = true)
        ∧ (rgB s a R.TMR_PER = false → rgB t a R.TMR_EN = false))

/-- The Awl port, Stitch, the trace sink, warnings and the pins (R383, R459, R519, R521-R523, R525, R527, R544, R545): a frame with
bad parity and a frame of a locked device are refused, and every frame is a Wellhead event (R459); a read waits and is answered with what arrived, a Stitch write
makes a packet, the sink sends it to DRAM or the host or counts it lost, warnings count and are summed up at a window's end, and an edge
raises the pin's source, in the committed copy too. What the rules leave open here follows log entries 52, 61 and 62. -/
def Obligations.TraceAndPins : Prop :=
  (∀ (s : State) (e : Instr) (key : BitVec 4) (a : BitVec 40) (v : Word),
    (e ∈ [Instr.qread key a false, .cread key a false, .awlWrite key a v false, .pread a false, .pwrite a v false] →
      exec e s = .next (emit (wellhead s .awl) (.awl 3 none)))
    ∧ (awlShut s = true → e ∈ [Instr.qread key a true, .cread key a true, .awlWrite key a v true, .pwrite a v true] →
      exec e s = .next (emit (wellhead s .awl) (.awl 4 none))))
  ∧ (∀ (s : State) (key : BitVec 4) (a : BitVec 40) (v : Word), awlShut s = false → s.dbg.awlStatus.getLsbD 0 = false →
    let asks (t : State) (wr : Bool) : Prop := ∃ q, t.mesh.flight = s.mesh.flight ++ [q] ∧ q.src = .awl ∧ q.wr = wr
      ∧ askedAddr s q = 16 * a.toNat ∧ q.len = 16 ∧ q.key = key ∧ (wr = true → q.data.map BitVec.toNat = digitsOf 16 v.toNat)
    let answered (u : State) (ack : BitVec 3) (x : Option Word) : State := emit (wellhead u .awl) (.awl ack x)
    (s.dbg.awlReq = none →
      (∃ u, exec (.qread key a true) s = .next (answered u 2 none) ∧ s.sentOnly u ∧ asks u false ∧ u.dbg.awlReq.isSome = true)
      ∧ (∃ u, exec (.cread key a true) s = .next (answered u 2 none) ∧ s.sentOnly u ∧ asks u false ∧ u.dbg.awlReq.isSome = true)
      ∧ ∃ u, exec (.awlWrite key a v true) s = .next (answered u 1 none) ∧ s.sentOnly u ∧ asks u true)
    ∧ (∀ id x, s.dbg.awlReq = some (id, true, false, key, a) → s.dbg.awlResp = some x →
      exec (.qread key a true) s = .next (answered { s with dbg := { s.dbg with awlReq := none, awlResp := none } } 1 (some x)))
    ∧ (∀ id x, s.dbg.awlReq = some (id, true, true, key, a) → s.dbg.awlResp = some x →
      exec (.cread key a true) s = .next (answered { s with dbg := { s.dbg with awlReq := none, awlResp := none } } 1 (some x)))
    ∧ exec (.pread 1 true) s = .next (answered s 1 (some s.dbg.awlStatus))
    ∧ (∃ u, exec (.pwrite 1 v true) s = .next (answered u 1 none) ∧ u = { s with dbg := u.dbg }
        ∧ u.dbg.awlStatus = s.dbg.awlStatus &&& ~~~(v &&& 3) ∧ (v.getLsbD 2 = true → u.dbg.awlReq = none))
    ∧ exec .awlAbort s = .next { s with dbg := { s.dbg with awlReq := none, awlResp := none } })
  ∧ (∀ (s : State) (b : Blk) (k : BitVec 5) (v : Word),
    let on := (rg s (R.STITCH_CTRL b.toNat)).testBit k.toNat = true ∧ rgB s R.TR_CTRL R.TR_CTRL_EN = true
    (on → (seqOf s b.toNat).lost = 0 → exec (.stitchPortWrite b k v true) s
        = .next (emit s (.trace (BitVec.ofNat 128 (tracePkt (now s) 0 b.toNat k.toNat v.toNat)))))
    ∧ (on → ∃ t, exec (.stitchPortWrite b k v false) s = .next t ∧ t.out = s.out
        ∧ (seqOf t b.toNat).lost = (seqOf s b.toNat).lost + 1)
    ∧ (¬ on → ∀ c, exec (.stitchPortWrite b k v c) s = .next s))
  ∧ (∀ (s : State) (p : BitVec 128), rgB s R.TR_CTRL R.TR_CTRL_EN = true →
    let w := rgF s R.TR_STATUS R.TR_STATUS_WPTR
    let a := rg s R.TR_BASE + 32 * w
    (rgB s R.TR_STATUS R.TR_STATUS_FULL = false → rgB s R.TR_CTRL R.TR_CTRL_DEST = false →
      ∃ t q, exec (.tracePacket p) s = .next t ∧ t.mesh.flight = s.mesh.flight ++ [q] ∧ q.src = .awl ∧ q.wr = true ∧ q.key = 0
        ∧ askedAddr s q = a % 2 ^ 48 ∧ q.len = 32 ∧ q.data.map BitVec.toNat = digitsOf 32 p.toNat ∧ t.mem = s.mem
        ∧ rgF t R.TR_STATUS R.TR_STATUS_WPTR = (w + 1) % 2 ^ 22)
    ∧ (rgB s R.TR_STATUS R.TR_STATUS_FULL = false → rgB s R.TR_CTRL R.TR_CTRL_DEST = true → busMaster s 0 = true →
      ∃ t, exec (.tracePacket p) s = .next t ∧ t.out = s.out ++ [.hostWrite 0 (rg s R.TR_BASE + 16 * w) (bytesOf 16 p.toNat)]
        ∧ t.mem = s.mem ∧ rgF t R.TR_STATUS R.TR_STATUS_WPTR = (w + 1) % 2 ^ 22)
    ∧ (rgB s R.TR_STATUS R.TR_STATUS_FULL = true → ∃ t, exec (.tracePacket p) s = .next t ∧ t.mem = s.mem
        ∧ rgF t R.TR_STATUS R.TR_STATUS_LOST = min (rgF s R.TR_STATUS R.TR_STATUS_LOST + 1) R.TR_STATUS_LOST.top
        ∧ rgB t R.TR_STATUS R.TR_STATUS_LOSTV = true))
  ∧ (∀ (s : State) (code : Fin 10) (u : BitVec 10) (credit : Bool), code.val ≠ 0 →
    let c := code.val
    let k := 1024 * c + u.toNat
    let part := (unitPart s u.toNat).getD 0
    let r := rollSpill s
    let p := rgF s R.SPW_CTRL R.SPW_CTRL_PERIOD
    ∃ t, exec (.warning code u credit) s = .next t ∧ t.mem = s.mem
      ∧ rgF t (R.SPW_WARN c) R.SPW_WARN_COUNT = min (rgF s (R.SPW_WARN c) R.SPW_WARN_COUNT + 1) R.SPW_WARN_COUNT.top
      ∧ rgF t (R.SPW_WLAST c) R.SPW_WLAST_LAST = now s % 2 ^ 48 ∧ mapHas k t.dbg.spill = true
      ∧ (r.dbg.spill = [] → t.dbg.spillEnd = (now s / p + 1) * p)
      ∧ t.out = r.out ++ (if credit && !mapHas k r.dbg.spill then [.alarm 2 c u.toNat part 0 (now s) (now s) 0] else []))
  ∧ (∀ (s : State), now s < s.dbg.spillEnd → exec .spillwayWindowEnd s = .next s)
  ∧ (∀ (s : State), s.dbg.spillEnd ≤ now s → exec .spillwayWindowEnd s = .next (rollSpill s) ∧
    ∃ t, exec .spillwayWindowEnd s = .next t ∧ t.dbg.spill = [] ∧ t.regs = s.regs
      ∧ t.out = s.out ++ (s.dbg.spill.filter fun e => e.2.1 != 0).map fun e =>
          .alarm 3 (e.1 / 1024) (e.1 % 1024) e.2.2.2.2 e.2.1 e.2.2.1 e.2.2.2.1 0)
  ∧ ∀ (s : State) (n : BitVec 4),
    let i := n.toNat
    (∀ level, s.powered = true → s.perst = false → pinHeld s i = false → (rg s R.GPIO_IN).testBit i = !level →
      ∃ t, exec (.gpioEdge n level) s = .next t ∧ (rg t R.GPIO_IN).testBit i = level ∧ t.mem = s.mem
        ∧ (edgeTaken s i level = true → (rg t (R.CIC_PEND 4)).testBit i = true)
        ∧ (∀ p c, edgeTaken s i level = true → cicOwner s (256 + i) = some p → (epochOf s p).com = some c →
            ∃ c', (epochOf t p).com = some c' ∧ mapGet 0 (256 + i) c'.cicPend = 1)
        ∧ (let watches (k : Nat) : Prop := rgB s (R.WH_SLOT k) R.WH_SLOT_EN = true
              ∧ (rgF s (R.WH_SLOT k) R.WH_SLOT_KIND, rgF s (R.WH_SLOT k) R.WH_SLOT_INDEX) = wakeKey (.gpio n level)
          (∀ k, k < 32 → watches k → (rg t R.WH_EVENT).testBit k = true)
          ∧ ((∀ k, k < 32 → ¬ watches k) → edgeTaken s i level = false → s.regsOnly t [R.GPIO_IN])))
    ∧ (∀ x v, pinMay s x i = true → pinHeld s i = false → bits v.toNat 5 4 ≠ 3 → bits v.toNat 3 2 ≠ 3 →
      ∃ t, exec (.gpioConfigWrite x n v) s = .next t ∧ s.regsOnly t [R.GPIO_CFG i]
        ∧ rg t (R.GPIO_CFG i) % 256 = v.toNat % 256)
    ∧ ∀ x v, (pinMay s x i = false ∨ pinHeld s i = true) → exec (.gpioConfigWrite x n v) s = .next s

/-! ### The machine as a whole -/

/-- A step takes the command at the front of the queue and is its effect on the state with the queue's rest; with an
empty queue one NCLK passes, in which the routers move flits and with every twelfth of which the Wellhead timers count and
TIMEBASE counts while it runs (the model's choice, log entries 2, 83 and 108). -/
def Obligations.StepRunsTheFrontCommand : Prop :=
  (∀ (s : State) (c : Instr) (rest : List Instr), step { s with pending := c :: rest } = exec c { s with pending := rest })
  ∧ ∀ s : State, s.pending = [] → ∃ t, step s = .next t ∧ t.pending = [] ∧ t.nclk = s.nclk + 1
      ∧ (s.mesh.queues = [] → s.mesh.back = [] → t.mem = s.mem ∧ t.mesh = s.mesh
        ∧ ((s.nclk + 1) % 12 ≠ 0 → t = { s with nclk := s.nclk + 1 })
        ∧ ((s.nclk + 1) % 12 = 0 → t.irq.wh = s.irq.wh.map fun e => (e.1, e.2 - 1))
        ∧ ((s.nclk + 1) % 12 = 0 → s.tbRun = false → t = { s with nclk := s.nclk + 1, irq := t.irq })
        ∧ ((s.nclk + 1) % 12 = 0 → s.tbRun = true → s.rein.holdTick = false → t.timebase = s.timebase + 1)
        ∧ ((s.nclk + 1) % 12 = 0 → s.tbRun = true → s.rein.holdTick = true → t.timebase = s.timebase ∧ t.rein.holdTick = false))

/-- Every command completes in every state and leaves the queue to the step: no command of the spec stops the machine.
What the rules leave open here follows log entries 3 and 4. -/
def Obligations.EveryCommandCompletes : Prop :=
  ∀ (c : Instr) (s : State), ∃ t, exec c s = .next t ∧ t.pending = s.pending

/-- The machine right after power-on (R35, R37, R83, R175, R211, R274, R306, R317, R327, R344, R373, R395, R446, R454, R460,
R461, R480, R532, R545): PERST# asserted, memories and cells cleared, TIMEBASE 0 and stopped, the registers of the cards
at their reset values. What the rules leave open here follows log entries 6, 7 and 76. -/
def Obligations.ResetValues : Prop :=
  let s := State.reset
  s.pending = [] ∧ s.powered = true ∧ s.perst = true ∧ s.timebase = 0 ∧ s.tbRun = false ∧ s.memWf = true ∧ s.cellsWf = true
  ∧ (∀ a, memDigit s.mem a = 0) ∧ (∀ b i, cellAt s b i = {}) ∧ (∀ f, keyByte s f = 0x10) ∧ s.nclk = 0
  ∧ (∀ b : Blk, let n := b.toNat
      rg s (R.PSR n) = 0 ∧ rg s (R.STKP n) = 0x0007C00000080000 ∧ rg s (R.WSTK n) = 0x0007000000078000
      ∧ rg s (R.MKEY n) = 0 ∧ rg s (R.DCTL n) = 0xAB0000000A000000 ∧ rg s (R.RCTL n) = 0x32020
      ∧ rg s (R.ARR_SUSP n) = 0 ∧ rg s (R.BIC_MASK n) = 0xFFFFFFFFFFFFFFFF ∧ rg s (R.DBG_CTRL n) = 0xF0)
  ∧ rg s R.CHIP_ID = 0x2F12D700 ∧ rg s R.IMG_STATUS = 0x0000FFFF00000000 ∧ rg s R.MS_CTRL = 6553600000
  ∧ rg s R.CN_CTRL = 0x0064004000000000 ∧ rg s R.PC_PWR = 0x44C00000000 ∧ rg s R.SPW_CTRL = 100000
  ∧ (∀ i : BitVec 4, rg s (R.CIC_MASK i.toNat) = 0xFFFFFFFFFFFFFFFF ∧ rg s (R.GPIO_CFG i.toNat) = 0x10
      ∧ rg s (R.EP_CTRL i.toNat) = 0x2000000 ∧ rg s (R.BSW_MAP i.toNat) = 31204079050816)
  ∧ rg s (R.CIC_ROUTE 4) = 4 * 2 ^ 22 + 2 * 2 ^ 20 + 4 * 2 ^ 9 ∧ rg s (R.CIC_ROUTE 200) = 200 * 2 ^ 22

/-- Every step keeps the memory canonical, with its committed, alternate and checkpointed copies: addresses strictly
rising and no byte listed that is 0. -/
def Obligations.EveryStepKeepsMemoryCanonical : Prop :=
  ∀ s t : State, s.memWf = true → step s = .next t → t.memWf = true
end

