-- ==== Sys2Proof/Laws/Map.lean ====
section
/-! SUPPORT. The laws of the finite maps: what a key reads as after each operation, and that each keeps the canonical
form. -/

namespace Sys2Proof.Machine

variable {α : Type}

@[simp] theorem mapGet_nil (d : α) (k : Nat) : mapGet d k [] = d := rfl

theorem mapGet_cons (d : α) (k : Nat) (e : Nat × α) (m : List (Nat × α)) :
    mapGet d k (e :: m) = if e.1 = k then e.2 else mapGet d k m := rfl

/-- A key just put reads as its value. -/
@[simp] theorem mapGet_put_same (d : α) (k : Nat) (v : α) (m : List (Nat × α)) : mapGet d k (mapPut k v m) = v := by
  induction m with
  | nil => simp [mapPut, mapGet]
  | cons e m ih =>
    unfold mapPut
    split_ifs with h1 h2
    · rw [mapGet_cons, if_neg (by omega), ih]
    · simp [mapGet]
    · simp [mapGet]

/-- Putting a key leaves the others. -/
theorem mapGet_put_other (d : α) {k j : Nat} (h : j ≠ k) (v : α) (m : List (Nat × α)) :
    mapGet d j (mapPut k v m) = mapGet d j m := by
  induction m with
  | nil => simp [mapPut, mapGet, h.symm]
  | cons e m ih =>
    unfold mapPut
    split_ifs with h1 h2
    · simp [mapGet_cons, ih]
    · simp [mapGet_cons, h2, h.symm]
    · simp [mapGet_cons, h.symm]

@[simp] theorem mapGet_erase_same (d : α) (k : Nat) (m : List (Nat × α)) : mapGet d k (mapErase k m) = d := by
  induction m with
  | nil => rfl
  | cons e m ih =>
    unfold mapErase
    split_ifs with h
    · exact ih
    · rw [mapGet_cons, if_neg h, ih]

theorem mapGet_erase_other (d : α) {k j : Nat} (h : j ≠ k) (m : List (Nat × α)) :
    mapGet d j (mapErase k m) = mapGet d j m := by
  induction m with
  | nil => rfl
  | cons e m ih =>
    unfold mapErase
    split_ifs with h1
    · rw [ih, mapGet_cons, if_neg (by omega)]
    · simp [mapGet_cons, ih]

/-- A key set reads as its value. -/
@[simp] theorem mapGet_set_same [DecidableEq α] (d : α) (k : Nat) (v : α) (m : List (Nat × α)) :
    mapGet d k (mapSet d k v m) = v := by
  unfold mapSet
  split_ifs with h
  · simp [h]
  · simp

/-- Setting a key leaves the others, whatever they read as when unlisted. -/
theorem mapGet_set_other [DecidableEq α] (d d' : α) {k j : Nat} (h : j ≠ k) (v : α) (m : List (Nat × α)) :
    mapGet d j (mapSet d' k v m) = mapGet d j m := by
  unfold mapSet
  split_ifs
  · exact mapGet_erase_other d h m
  · exact mapGet_put_other d h v m

theorem mapGet_set [DecidableEq α] (d : α) (k j : Nat) (v : α) (m : List (Nat × α)) :
    mapGet d j (mapSet d k v m) = if j = k then v else mapGet d j m := by
  split_ifs with h
  · rw [h, mapGet_set_same]
  · exact mapGet_set_other d d h v m

/-- Dropping the keys that satisfy p leaves the others. -/
theorem mapGet_drop (d : α) (p : Nat → Bool) (k : Nat) (m : List (Nat × α)) :
    mapGet d k (mapDrop p m) = if p k then d else mapGet d k m := by
  induction m with
  | nil => simp [mapDrop]
  | cons e m ih =>
    by_cases h : p e.1
    · have : mapDrop p (e :: m) = mapDrop p m := by simp [mapDrop, h]
      rw [this, ih, mapGet_cons]
      split_ifs with h1 h2
      · rfl
      · rw [h2] at h; contradiction
      · rfl
    · have : mapDrop p (e :: m) = e :: mapDrop p m := by simp [mapDrop, h]
      rw [this, mapGet_cons, mapGet_cons, ih]
      split_ifs with h1 h2
      · rw [h1] at h; contradiction
      · rfl
      · rfl
      · rfl

/-! ### The canonical form -/

theorem mapSorted_iff (m : List (Nat × α)) : mapSorted m = true ↔ (m.map Prod.fst).Pairwise (· < ·) := by
  induction m with
  | nil => simp [mapSorted]
  | cons e m ih =>
    cases m with
    | nil => simp [mapSorted]
    | cons f m =>
      have key : mapSorted (e :: f :: m) = (decide (e.1 < f.1) && mapSorted (f :: m)) := rfl
      have shape : ((e :: f :: m).map Prod.fst).Pairwise (· < ·) ↔
          (∀ a ∈ (f :: m).map Prod.fst, e.1 < a) ∧ ((f :: m).map Prod.fst).Pairwise (· < ·) := List.pairwise_cons
      rw [key, Bool.and_eq_true, decide_eq_true_iff, ih, shape]
      constructor
      · rintro ⟨h, hp⟩
        refine ⟨?_, hp⟩
        intro a ha
        rw [List.map_cons, List.mem_cons] at ha
        rcases ha with rfl | ha
        · exact h
        · rw [List.map_cons, List.pairwise_cons] at hp
          exact lt_trans h (hp.1 a ha)
      · rintro ⟨h, hp⟩
        exact ⟨h f.1 (by simp), hp⟩

theorem mapWf_iff [DecidableEq α] (d : Nat → α) (m : List (Nat × α)) :
    mapWf d m = true ↔ (m.map Prod.fst).Pairwise (· < ·) ∧ ∀ e ∈ m, e.2 ≠ d e.1 := by
  simp [mapWf, mapSorted_iff]

@[simp] theorem mapWf_nil [DecidableEq α] (d : Nat → α) : mapWf d ([] : List (Nat × α)) = true := rfl

theorem mem_mapPut {k : Nat} {v : α} {m : List (Nat × α)} {e : Nat × α} (h : e ∈ mapPut k v m) : e = (k, v) ∨ e ∈ m := by
  induction m with
  | nil => simpa [mapPut] using h
  | cons f m ih =>
    unfold mapPut at h
    split_ifs at h
    · rcases List.mem_cons.mp h with h | h
      · exact .inr (by simp [h])
      · rcases ih h with h | h
        · exact .inl h
        · exact .inr (List.mem_cons_of_mem _ h)
    · rcases List.mem_cons.mp h with h | h
      · exact .inl h
      · exact .inr (List.mem_cons_of_mem _ h)
    · rcases List.mem_cons.mp h with h | h
      · exact .inl h
      · exact .inr h

theorem mem_mapErase {k : Nat} {m : List (Nat × α)} {e : Nat × α} (h : e ∈ mapErase k m) : e ∈ m := by
  induction m with
  | nil => simp [mapErase] at h
  | cons f m ih =>
    unfold mapErase at h
    split_ifs at h
    · exact List.mem_cons_of_mem _ (ih h)
    · rcases List.mem_cons.mp h with h | h
      · simp [h]
      · exact List.mem_cons_of_mem _ (ih h)

theorem sorted_mapPut {k : Nat} {v : α} {m : List (Nat × α)} (h : (m.map Prod.fst).Pairwise (· < ·)) :
    ((mapPut k v m).map Prod.fst).Pairwise (· < ·) := by
  induction m with
  | nil => simp [mapPut]
  | cons f m ih =>
    rw [List.map_cons, List.pairwise_cons] at h
    unfold mapPut
    split_ifs with h1 h2
    · rw [List.map_cons, List.pairwise_cons]
      refine ⟨?_, ih h.2⟩
      intro a ha
      obtain ⟨e, he, rfl⟩ := List.mem_map.mp ha
      rcases mem_mapPut he with rfl | he
      · exact h1
      · exact h.1 _ (List.mem_map_of_mem he)
    · rw [List.map_cons, List.pairwise_cons]
      exact ⟨fun a ha => h2 ▸ h.1 a ha, h.2⟩
    · rw [List.map_cons, List.map_cons, List.pairwise_cons, List.pairwise_cons]
      refine ⟨?_, h⟩
      intro a ha
      rcases List.mem_cons.mp ha with rfl | ha
      · simp only; omega
      · have := h.1 a ha; simp only; omega

theorem sorted_mapErase {k : Nat} {m : List (Nat × α)} (h : (m.map Prod.fst).Pairwise (· < ·)) :
    ((mapErase k m).map Prod.fst).Pairwise (· < ·) := by
  induction m with
  | nil => simp [mapErase]
  | cons f m ih =>
    rw [List.map_cons, List.pairwise_cons] at h
    unfold mapErase
    split_ifs with h1
    · exact ih h.2
    · rw [List.map_cons, List.pairwise_cons]
      refine ⟨?_, ih h.2⟩
      intro a ha
      obtain ⟨e, he, rfl⟩ := List.mem_map.mp ha
      exact h.1 _ (List.mem_map_of_mem (mem_mapErase he))

/-- Setting a key keeps the canonical form. -/
theorem mapWf_set [DecidableEq α] (d : Nat → α) (k : Nat) (v : α) {m : List (Nat × α)} (h : mapWf d m = true) :
    mapWf d (mapSet (d k) k v m) = true := by
  rw [mapWf_iff] at h ⊢
  unfold mapSet
  split_ifs with hv
  · exact ⟨sorted_mapErase h.1, fun e he => h.2 e (mem_mapErase he)⟩
  · refine ⟨sorted_mapPut h.1, fun e he => ?_⟩
    rcases mem_mapPut he with rfl | he
    · exact hv
    · exact h.2 e he

theorem mapWf_filter [DecidableEq α] (d : Nat → α) (p : Nat × α → Bool) {m : List (Nat × α)} (h : mapWf d m = true) :
    mapWf d (m.filter p) = true := by
  rw [mapWf_iff] at h ⊢
  exact ⟨h.1.sublist (List.Sublist.map _ List.filter_sublist), fun e he => h.2 e (List.mem_of_mem_filter he)⟩

/-- Dropping keys keeps it. -/
theorem mapWf_drop [DecidableEq α] (d : Nat → α) (p : Nat → Bool) {m : List (Nat × α)} (h : mapWf d m = true) :
    mapWf d (mapDrop p m) = true := mapWf_filter d _ h

theorem mapWf_only [DecidableEq α] (d : Nat → α) (p : Nat → Bool) {m : List (Nat × α)} (h : mapWf d m = true) :
    mapWf d (mapOnly p m) = true := mapWf_filter d _ h

/-- Putting a part of one map over another keeps it. -/
theorem mapWf_over [DecidableEq α] (d : Nat → α) (p : Nat → Bool) {m m' : List (Nat × α)} (h : mapWf d m = true)
    (h' : mapWf d m' = true) : mapWf d (mapOver p m m') = true := by
  have key : ∀ (l acc : List (Nat × α)), (∀ e ∈ l, e.2 ≠ d e.1) → mapWf d acc = true →
      mapWf d (l.foldl (fun acc e => mapPut e.1 e.2 acc) acc) = true := by
    intro l
    induction l with
    | nil => intro acc _ ha; exact ha
    | cons e l ih =>
      intro acc hl ha
      refine ih _ (fun e' he' => hl e' (List.mem_cons_of_mem _ he')) ?_
      rw [mapWf_iff] at ha ⊢
      refine ⟨sorted_mapPut ha.1, fun e' he' => ?_⟩
      rcases mem_mapPut he' with rfl | he'
      · exact hl e (by simp)
      · exact ha.2 e' he'
  exact key _ _ (fun e he => ((mapWf_iff d m).mp h).2 e (List.mem_of_mem_filter he)) (mapWf_drop d _ h')

end Sys2Proof.Machine
end

