-- ==== Sys2Proof/Laws/State.lean ====
section
/-! SUPPORT. What each update of the state leaves alone: one lemma for each field it does not write. -/

namespace Sys2Proof.Machine

@[simp] theorem setRg_pending (s : State) (a v : Nat) : (setRg s a v).pending = s.pending := rfl
@[simp] theorem setRg_mem (s : State) (a v : Nat) : (setRg s a v).mem = s.mem := rfl
@[simp] theorem setRg_cells (s : State) (a v : Nat) : (setRg s a v).cells = s.cells := rfl
@[simp] theorem setRg_seqs (s : State) (a v : Nat) : (setRg s a v).seqs = s.seqs := rfl
@[simp] theorem setRg_cs (s : State) (a v : Nat) : (setRg s a v).cs = s.cs := rfl
@[simp] theorem setRg_dt (s : State) (a v : Nat) : (setRg s a v).dt = s.dt := rfl
@[simp] theorem setRg_keys (s : State) (a v : Nat) : (setRg s a v).keys = s.keys := rfl
@[simp] theorem setRg_csSh (s : State) (a v : Nat) : (setRg s a v).csSh = s.csSh := rfl
@[simp] theorem setRg_dtSh (s : State) (a v : Nat) : (setRg s a v).dtSh = s.dtSh := rfl
@[simp] theorem setRg_dtBad (s : State) (a v : Nat) : (setRg s a v).dtBad = s.dtBad := rfl
@[simp] theorem setRg_flaws (s : State) (a v : Nat) : (setRg s a v).flaws = s.flaws := rfl
@[simp] theorem setRg_jdead (s : State) (a v : Nat) : (setRg s a v).jdead = s.jdead := rfl
@[simp] theorem setRg_csFlip (s : State) (a v : Nat) : (setRg s a v).csFlip = s.csFlip := rfl
@[simp] theorem setRg_pages (s : State) (a v : Nat) : (setRg s a v).pages = s.pages := rfl
@[simp] theorem setRg_foldHome (s : State) (a v : Nat) : (setRg s a v).foldHome = s.foldHome := rfl
@[simp] theorem setRg_nclk (s : State) (a v : Nat) : (setRg s a v).nclk = s.nclk := rfl
@[simp] theorem setRg_cfg (s : State) (a v : Nat) : (setRg s a v).cfg = s.cfg := rfl
@[simp] theorem setRg_img (s : State) (a v : Nat) : (setRg s a v).img = s.img := rfl
@[simp] theorem setRg_epochs (s : State) (a v : Nat) : (setRg s a v).epochs = s.epochs := rfl
@[simp] theorem setRg_host (s : State) (a v : Nat) : (setRg s a v).host = s.host := rfl
@[simp] theorem setRg_mesh (s : State) (a v : Nat) : (setRg s a v).mesh = s.mesh := rfl
@[simp] theorem setRg_dram (s : State) (a v : Nat) : (setRg s a v).dram = s.dram := rfl
@[simp] theorem setRg_dma (s : State) (a v : Nat) : (setRg s a v).dma = s.dma := rfl
@[simp] theorem setRg_irq (s : State) (a v : Nat) : (setRg s a v).irq = s.irq := rfl
@[simp] theorem setRg_pwr (s : State) (a v : Nat) : (setRg s a v).pwr = s.pwr := rfl
@[simp] theorem setRg_sec (s : State) (a v : Nat) : (setRg s a v).sec = s.sec := rfl
@[simp] theorem setRg_sb (s : State) (a v : Nat) : (setRg s a v).sb = s.sb := rfl
@[simp] theorem setRg_rein (s : State) (a v : Nat) : (setRg s a v).rein = s.rein := rfl
@[simp] theorem setRg_dbg (s : State) (a v : Nat) : (setRg s a v).dbg = s.dbg := rfl
@[simp] theorem setRg_timebase (s : State) (a v : Nat) : (setRg s a v).timebase = s.timebase := rfl
@[simp] theorem setRg_tbRun (s : State) (a v : Nat) : (setRg s a v).tbRun = s.tbRun := rfl
@[simp] theorem setRg_powered (s : State) (a v : Nat) : (setRg s a v).powered = s.powered := rfl
@[simp] theorem setRg_perst (s : State) (a v : Nat) : (setRg s a v).perst = s.perst := rfl
@[simp] theorem setRg_perstLow (s : State) (a v : Nat) : (setRg s a v).perstLow = s.perstLow := rfl
@[simp] theorem setRg_testEn (s : State) (a v : Nat) : (setRg s a v).testEn = s.testEn := rfl
@[simp] theorem setRg_refLost (s : State) (a v : Nat) : (setRg s a v).refLost = s.refLost := rfl
@[simp] theorem setRg_refPerst (s : State) (a v : Nat) : (setRg s a v).refPerst = s.refPerst := rfl
@[simp] theorem setRg_thermLatch (s : State) (a v : Nat) : (setRg s a v).thermLatch = s.thermLatch := rfl
@[simp] theorem setRg_out (s : State) (a v : Nat) : (setRg s a v).out = s.out := rfl
@[simp] theorem setRg_free (s : State) (a v : Nat) : (setRg s a v).free = s.free := rfl

@[simp] theorem setF_pending (s : State) (a : Nat) (f : Fld) (v : Nat) : (setF s a f v).pending = s.pending := rfl
@[simp] theorem setF_mem (s : State) (a : Nat) (f : Fld) (v : Nat) : (setF s a f v).mem = s.mem := rfl
@[simp] theorem setF_cells (s : State) (a : Nat) (f : Fld) (v : Nat) : (setF s a f v).cells = s.cells := rfl
@[simp] theorem setF_seqs (s : State) (a : Nat) (f : Fld) (v : Nat) : (setF s a f v).seqs = s.seqs := rfl
@[simp] theorem setF_cs (s : State) (a : Nat) (f : Fld) (v : Nat) : (setF s a f v).cs = s.cs := rfl
@[simp] theorem setF_dt (s : State) (a : Nat) (f : Fld) (v : Nat) : (setF s a f v).dt = s.dt := rfl
@[simp] theorem setF_keys (s : State) (a : Nat) (f : Fld) (v : Nat) : (setF s a f v).keys = s.keys := rfl
@[simp] theorem setF_csSh (s : State) (a : Nat) (f : Fld) (v : Nat) : (setF s a f v).csSh = s.csSh := rfl
@[simp] theorem setF_dtSh (s : State) (a : Nat) (f : Fld) (v : Nat) : (setF s a f v).dtSh = s.dtSh := rfl
@[simp] theorem setF_dtBad (s : State) (a : Nat) (f : Fld) (v : Nat) : (setF s a f v).dtBad = s.dtBad := rfl
@[simp] theorem setF_flaws (s : State) (a : Nat) (f : Fld) (v : Nat) : (setF s a f v).flaws = s.flaws := rfl
@[simp] theorem setF_jdead (s : State) (a : Nat) (f : Fld) (v : Nat) : (setF s a f v).jdead = s.jdead := rfl
@[simp] theorem setF_csFlip (s : State) (a : Nat) (f : Fld) (v : Nat) : (setF s a f v).csFlip = s.csFlip := rfl
@[simp] theorem setF_pages (s : State) (a : Nat) (f : Fld) (v : Nat) : (setF s a f v).pages = s.pages := rfl
@[simp] theorem setF_foldHome (s : State) (a : Nat) (f : Fld) (v : Nat) : (setF s a f v).foldHome = s.foldHome := rfl
@[simp] theorem setF_nclk (s : State) (a : Nat) (f : Fld) (v : Nat) : (setF s a f v).nclk = s.nclk := rfl
@[simp] theorem setF_cfg (s : State) (a : Nat) (f : Fld) (v : Nat) : (setF s a f v).cfg = s.cfg := rfl
@[simp] theorem setF_img (s : State) (a : Nat) (f : Fld) (v : Nat) : (setF s a f v).img = s.img := rfl
@[simp] theorem setF_epochs (s : State) (a : Nat) (f : Fld) (v : Nat) : (setF s a f v).epochs = s.epochs := rfl
@[simp] theorem setF_host (s : State) (a : Nat) (f : Fld) (v : Nat) : (setF s a f v).host = s.host := rfl
@[simp] theorem setF_mesh (s : State) (a : Nat) (f : Fld) (v : Nat) : (setF s a f v).mesh = s.mesh := rfl
@[simp] theorem setF_dram (s : State) (a : Nat) (f : Fld) (v : Nat) : (setF s a f v).dram = s.dram := rfl
@[simp] theorem setF_dma (s : State) (a : Nat) (f : Fld) (v : Nat) : (setF s a f v).dma = s.dma := rfl
@[simp] theorem setF_irq (s : State) (a : Nat) (f : Fld) (v : Nat) : (setF s a f v).irq = s.irq := rfl
@[simp] theorem setF_pwr (s : State) (a : Nat) (f : Fld) (v : Nat) : (setF s a f v).pwr = s.pwr := rfl
@[simp] theorem setF_sec (s : State) (a : Nat) (f : Fld) (v : Nat) : (setF s a f v).sec = s.sec := rfl
@[simp] theorem setF_sb (s : State) (a : Nat) (f : Fld) (v : Nat) : (setF s a f v).sb = s.sb := rfl
@[simp] theorem setF_rein (s : State) (a : Nat) (f : Fld) (v : Nat) : (setF s a f v).rein = s.rein := rfl
@[simp] theorem setF_dbg (s : State) (a : Nat) (f : Fld) (v : Nat) : (setF s a f v).dbg = s.dbg := rfl
@[simp] theorem setF_timebase (s : State) (a : Nat) (f : Fld) (v : Nat) : (setF s a f v).timebase = s.timebase := rfl
@[simp] theorem setF_tbRun (s : State) (a : Nat) (f : Fld) (v : Nat) : (setF s a f v).tbRun = s.tbRun := rfl
@[simp] theorem setF_powered (s : State) (a : Nat) (f : Fld) (v : Nat) : (setF s a f v).powered = s.powered := rfl
@[simp] theorem setF_perst (s : State) (a : Nat) (f : Fld) (v : Nat) : (setF s a f v).perst = s.perst := rfl
@[simp] theorem setF_perstLow (s : State) (a : Nat) (f : Fld) (v : Nat) : (setF s a f v).perstLow = s.perstLow := rfl
@[simp] theorem setF_testEn (s : State) (a : Nat) (f : Fld) (v : Nat) : (setF s a f v).testEn = s.testEn := rfl
@[simp] theorem setF_refLost (s : State) (a : Nat) (f : Fld) (v : Nat) : (setF s a f v).refLost = s.refLost := rfl
@[simp] theorem setF_refPerst (s : State) (a : Nat) (f : Fld) (v : Nat) : (setF s a f v).refPerst = s.refPerst := rfl
@[simp] theorem setF_thermLatch (s : State) (a : Nat) (f : Fld) (v : Nat) : (setF s a f v).thermLatch = s.thermLatch := rfl
@[simp] theorem setF_out (s : State) (a : Nat) (f : Fld) (v : Nat) : (setF s a f v).out = s.out := rfl
@[simp] theorem setF_free (s : State) (a : Nat) (f : Fld) (v : Nat) : (setF s a f v).free = s.free := rfl

@[simp] theorem setB_pending (s : State) (a : Nat) (f : Fld) (v : Bool) : (setB s a f v).pending = s.pending := rfl
@[simp] theorem setB_mem (s : State) (a : Nat) (f : Fld) (v : Bool) : (setB s a f v).mem = s.mem := rfl
@[simp] theorem setB_cells (s : State) (a : Nat) (f : Fld) (v : Bool) : (setB s a f v).cells = s.cells := rfl
@[simp] theorem setB_seqs (s : State) (a : Nat) (f : Fld) (v : Bool) : (setB s a f v).seqs = s.seqs := rfl
@[simp] theorem setB_cs (s : State) (a : Nat) (f : Fld) (v : Bool) : (setB s a f v).cs = s.cs := rfl
@[simp] theorem setB_dt (s : State) (a : Nat) (f : Fld) (v : Bool) : (setB s a f v).dt = s.dt := rfl
@[simp] theorem setB_keys (s : State) (a : Nat) (f : Fld) (v : Bool) : (setB s a f v).keys = s.keys := rfl
@[simp] theorem setB_csSh (s : State) (a : Nat) (f : Fld) (v : Bool) : (setB s a f v).csSh = s.csSh := rfl
@[simp] theorem setB_dtSh (s : State) (a : Nat) (f : Fld) (v : Bool) : (setB s a f v).dtSh = s.dtSh := rfl
@[simp] theorem setB_dtBad (s : State) (a : Nat) (f : Fld) (v : Bool) : (setB s a f v).dtBad = s.dtBad := rfl
@[simp] theorem setB_flaws (s : State) (a : Nat) (f : Fld) (v : Bool) : (setB s a f v).flaws = s.flaws := rfl
@[simp] theorem setB_jdead (s : State) (a : Nat) (f : Fld) (v : Bool) : (setB s a f v).jdead = s.jdead := rfl
@[simp] theorem setB_csFlip (s : State) (a : Nat) (f : Fld) (v : Bool) : (setB s a f v).csFlip = s.csFlip := rfl
@[simp] theorem setB_pages (s : State) (a : Nat) (f : Fld) (v : Bool) : (setB s a f v).pages = s.pages := rfl
@[simp] theorem setB_foldHome (s : State) (a : Nat) (f : Fld) (v : Bool) : (setB s a f v).foldHome = s.foldHome := rfl
@[simp] theorem setB_nclk (s : State) (a : Nat) (f : Fld) (v : Bool) : (setB s a f v).nclk = s.nclk := rfl
@[simp] theorem setB_cfg (s : State) (a : Nat) (f : Fld) (v : Bool) : (setB s a f v).cfg = s.cfg := rfl
@[simp] theorem setB_img (s : State) (a : Nat) (f : Fld) (v : Bool) : (setB s a f v).img = s.img := rfl
@[simp] theorem setB_epochs (s : State) (a : Nat) (f : Fld) (v : Bool) : (setB s a f v).epochs = s.epochs := rfl
@[simp] theorem setB_host (s : State) (a : Nat) (f : Fld) (v : Bool) : (setB s a f v).host = s.host := rfl
@[simp] theorem setB_mesh (s : State) (a : Nat) (f : Fld) (v : Bool) : (setB s a f v).mesh = s.mesh := rfl
@[simp] theorem setB_dram (s : State) (a : Nat) (f : Fld) (v : Bool) : (setB s a f v).dram = s.dram := rfl
@[simp] theorem setB_dma (s : State) (a : Nat) (f : Fld) (v : Bool) : (setB s a f v).dma = s.dma := rfl
@[simp] theorem setB_irq (s : State) (a : Nat) (f : Fld) (v : Bool) : (setB s a f v).irq = s.irq := rfl
@[simp] theorem setB_pwr (s : State) (a : Nat) (f : Fld) (v : Bool) : (setB s a f v).pwr = s.pwr := rfl
@[simp] theorem setB_sec (s : State) (a : Nat) (f : Fld) (v : Bool) : (setB s a f v).sec = s.sec := rfl
@[simp] theorem setB_sb (s : State) (a : Nat) (f : Fld) (v : Bool) : (setB s a f v).sb = s.sb := rfl
@[simp] theorem setB_rein (s : State) (a : Nat) (f : Fld) (v : Bool) : (setB s a f v).rein = s.rein := rfl
@[simp] theorem setB_dbg (s : State) (a : Nat) (f : Fld) (v : Bool) : (setB s a f v).dbg = s.dbg := rfl
@[simp] theorem setB_timebase (s : State) (a : Nat) (f : Fld) (v : Bool) : (setB s a f v).timebase = s.timebase := rfl
@[simp] theorem setB_tbRun (s : State) (a : Nat) (f : Fld) (v : Bool) : (setB s a f v).tbRun = s.tbRun := rfl
@[simp] theorem setB_powered (s : State) (a : Nat) (f : Fld) (v : Bool) : (setB s a f v).powered = s.powered := rfl
@[simp] theorem setB_perst (s : State) (a : Nat) (f : Fld) (v : Bool) : (setB s a f v).perst = s.perst := rfl
@[simp] theorem setB_perstLow (s : State) (a : Nat) (f : Fld) (v : Bool) : (setB s a f v).perstLow = s.perstLow := rfl
@[simp] theorem setB_testEn (s : State) (a : Nat) (f : Fld) (v : Bool) : (setB s a f v).testEn = s.testEn := rfl
@[simp] theorem setB_refLost (s : State) (a : Nat) (f : Fld) (v : Bool) : (setB s a f v).refLost = s.refLost := rfl
@[simp] theorem setB_refPerst (s : State) (a : Nat) (f : Fld) (v : Bool) : (setB s a f v).refPerst = s.refPerst := rfl
@[simp] theorem setB_thermLatch (s : State) (a : Nat) (f : Fld) (v : Bool) : (setB s a f v).thermLatch = s.thermLatch := rfl
@[simp] theorem setB_out (s : State) (a : Nat) (f : Fld) (v : Bool) : (setB s a f v).out = s.out := rfl
@[simp] theorem setB_free (s : State) (a : Nat) (f : Fld) (v : Bool) : (setB s a f v).free = s.free := rfl

@[simp] theorem addSat_pending (s : State) (a : Nat) (f : Fld) (n : Nat) : (addSat s a f n).pending = s.pending := rfl
@[simp] theorem addSat_mem (s : State) (a : Nat) (f : Fld) (n : Nat) : (addSat s a f n).mem = s.mem := rfl
@[simp] theorem addSat_cells (s : State) (a : Nat) (f : Fld) (n : Nat) : (addSat s a f n).cells = s.cells := rfl
@[simp] theorem addSat_seqs (s : State) (a : Nat) (f : Fld) (n : Nat) : (addSat s a f n).seqs = s.seqs := rfl
@[simp] theorem addSat_cs (s : State) (a : Nat) (f : Fld) (n : Nat) : (addSat s a f n).cs = s.cs := rfl
@[simp] theorem addSat_dt (s : State) (a : Nat) (f : Fld) (n : Nat) : (addSat s a f n).dt = s.dt := rfl
@[simp] theorem addSat_keys (s : State) (a : Nat) (f : Fld) (n : Nat) : (addSat s a f n).keys = s.keys := rfl
@[simp] theorem addSat_csSh (s : State) (a : Nat) (f : Fld) (n : Nat) : (addSat s a f n).csSh = s.csSh := rfl
@[simp] theorem addSat_dtSh (s : State) (a : Nat) (f : Fld) (n : Nat) : (addSat s a f n).dtSh = s.dtSh := rfl
@[simp] theorem addSat_dtBad (s : State) (a : Nat) (f : Fld) (n : Nat) : (addSat s a f n).dtBad = s.dtBad := rfl
@[simp] theorem addSat_flaws (s : State) (a : Nat) (f : Fld) (n : Nat) : (addSat s a f n).flaws = s.flaws := rfl
@[simp] theorem addSat_jdead (s : State) (a : Nat) (f : Fld) (n : Nat) : (addSat s a f n).jdead = s.jdead := rfl
@[simp] theorem addSat_csFlip (s : State) (a : Nat) (f : Fld) (n : Nat) : (addSat s a f n).csFlip = s.csFlip := rfl
@[simp] theorem addSat_pages (s : State) (a : Nat) (f : Fld) (n : Nat) : (addSat s a f n).pages = s.pages := rfl
@[simp] theorem addSat_foldHome (s : State) (a : Nat) (f : Fld) (n : Nat) : (addSat s a f n).foldHome = s.foldHome := rfl
@[simp] theorem addSat_nclk (s : State) (a : Nat) (f : Fld) (n : Nat) : (addSat s a f n).nclk = s.nclk := rfl
@[simp] theorem addSat_cfg (s : State) (a : Nat) (f : Fld) (n : Nat) : (addSat s a f n).cfg = s.cfg := rfl
@[simp] theorem addSat_img (s : State) (a : Nat) (f : Fld) (n : Nat) : (addSat s a f n).img = s.img := rfl
@[simp] theorem addSat_epochs (s : State) (a : Nat) (f : Fld) (n : Nat) : (addSat s a f n).epochs = s.epochs := rfl
@[simp] theorem addSat_host (s : State) (a : Nat) (f : Fld) (n : Nat) : (addSat s a f n).host = s.host := rfl
@[simp] theorem addSat_mesh (s : State) (a : Nat) (f : Fld) (n : Nat) : (addSat s a f n).mesh = s.mesh := rfl
@[simp] theorem addSat_dram (s : State) (a : Nat) (f : Fld) (n : Nat) : (addSat s a f n).dram = s.dram := rfl
@[simp] theorem addSat_dma (s : State) (a : Nat) (f : Fld) (n : Nat) : (addSat s a f n).dma = s.dma := rfl
@[simp] theorem addSat_irq (s : State) (a : Nat) (f : Fld) (n : Nat) : (addSat s a f n).irq = s.irq := rfl
@[simp] theorem addSat_pwr (s : State) (a : Nat) (f : Fld) (n : Nat) : (addSat s a f n).pwr = s.pwr := rfl
@[simp] theorem addSat_sec (s : State) (a : Nat) (f : Fld) (n : Nat) : (addSat s a f n).sec = s.sec := rfl
@[simp] theorem addSat_sb (s : State) (a : Nat) (f : Fld) (n : Nat) : (addSat s a f n).sb = s.sb := rfl
@[simp] theorem addSat_rein (s : State) (a : Nat) (f : Fld) (n : Nat) : (addSat s a f n).rein = s.rein := rfl
@[simp] theorem addSat_dbg (s : State) (a : Nat) (f : Fld) (n : Nat) : (addSat s a f n).dbg = s.dbg := rfl
@[simp] theorem addSat_timebase (s : State) (a : Nat) (f : Fld) (n : Nat) : (addSat s a f n).timebase = s.timebase := rfl
@[simp] theorem addSat_tbRun (s : State) (a : Nat) (f : Fld) (n : Nat) : (addSat s a f n).tbRun = s.tbRun := rfl
@[simp] theorem addSat_powered (s : State) (a : Nat) (f : Fld) (n : Nat) : (addSat s a f n).powered = s.powered := rfl
@[simp] theorem addSat_perst (s : State) (a : Nat) (f : Fld) (n : Nat) : (addSat s a f n).perst = s.perst := rfl
@[simp] theorem addSat_perstLow (s : State) (a : Nat) (f : Fld) (n : Nat) : (addSat s a f n).perstLow = s.perstLow := rfl
@[simp] theorem addSat_testEn (s : State) (a : Nat) (f : Fld) (n : Nat) : (addSat s a f n).testEn = s.testEn := rfl
@[simp] theorem addSat_refLost (s : State) (a : Nat) (f : Fld) (n : Nat) : (addSat s a f n).refLost = s.refLost := rfl
@[simp] theorem addSat_refPerst (s : State) (a : Nat) (f : Fld) (n : Nat) : (addSat s a f n).refPerst = s.refPerst := rfl
@[simp] theorem addSat_thermLatch (s : State) (a : Nat) (f : Fld) (n : Nat) : (addSat s a f n).thermLatch = s.thermLatch := rfl
@[simp] theorem addSat_out (s : State) (a : Nat) (f : Fld) (n : Nat) : (addSat s a f n).out = s.out := rfl
@[simp] theorem addSat_free (s : State) (a : Nat) (f : Fld) (n : Nat) : (addSat s a f n).free = s.free := rfl

@[simp] theorem resetRegs_pending (p : Nat → Bool) (s : State) : (resetRegs p s).pending = s.pending := rfl
@[simp] theorem resetRegs_mem (p : Nat → Bool) (s : State) : (resetRegs p s).mem = s.mem := rfl
@[simp] theorem resetRegs_cells (p : Nat → Bool) (s : State) : (resetRegs p s).cells = s.cells := rfl
@[simp] theorem resetRegs_seqs (p : Nat → Bool) (s : State) : (resetRegs p s).seqs = s.seqs := rfl
@[simp] theorem resetRegs_cs (p : Nat → Bool) (s : State) : (resetRegs p s).cs = s.cs := rfl
@[simp] theorem resetRegs_dt (p : Nat → Bool) (s : State) : (resetRegs p s).dt = s.dt := rfl
@[simp] theorem resetRegs_keys (p : Nat → Bool) (s : State) : (resetRegs p s).keys = s.keys := rfl
@[simp] theorem resetRegs_csSh (p : Nat → Bool) (s : State) : (resetRegs p s).csSh = s.csSh := rfl
@[simp] theorem resetRegs_dtSh (p : Nat → Bool) (s : State) : (resetRegs p s).dtSh = s.dtSh := rfl
@[simp] theorem resetRegs_dtBad (p : Nat → Bool) (s : State) : (resetRegs p s).dtBad = s.dtBad := rfl
@[simp] theorem resetRegs_flaws (p : Nat → Bool) (s : State) : (resetRegs p s).flaws = s.flaws := rfl
@[simp] theorem resetRegs_jdead (p : Nat → Bool) (s : State) : (resetRegs p s).jdead = s.jdead := rfl
@[simp] theorem resetRegs_csFlip (p : Nat → Bool) (s : State) : (resetRegs p s).csFlip = s.csFlip := rfl
@[simp] theorem resetRegs_pages (p : Nat → Bool) (s : State) : (resetRegs p s).pages = s.pages := rfl
@[simp] theorem resetRegs_foldHome (p : Nat → Bool) (s : State) : (resetRegs p s).foldHome = s.foldHome := rfl
@[simp] theorem resetRegs_nclk (p : Nat → Bool) (s : State) : (resetRegs p s).nclk = s.nclk := rfl
@[simp] theorem resetRegs_cfg (p : Nat → Bool) (s : State) : (resetRegs p s).cfg = s.cfg := rfl
@[simp] theorem resetRegs_img (p : Nat → Bool) (s : State) : (resetRegs p s).img = s.img := rfl
@[simp] theorem resetRegs_epochs (p : Nat → Bool) (s : State) : (resetRegs p s).epochs = s.epochs := rfl
@[simp] theorem resetRegs_host (p : Nat → Bool) (s : State) : (resetRegs p s).host = s.host := rfl
@[simp] theorem resetRegs_mesh (p : Nat → Bool) (s : State) : (resetRegs p s).mesh = s.mesh := rfl
@[simp] theorem resetRegs_dram (p : Nat → Bool) (s : State) : (resetRegs p s).dram = s.dram := rfl
@[simp] theorem resetRegs_dma (p : Nat → Bool) (s : State) : (resetRegs p s).dma = s.dma := rfl
@[simp] theorem resetRegs_irq (p : Nat → Bool) (s : State) : (resetRegs p s).irq = s.irq := rfl
@[simp] theorem resetRegs_pwr (p : Nat → Bool) (s : State) : (resetRegs p s).pwr = s.pwr := rfl
@[simp] theorem resetRegs_sec (p : Nat → Bool) (s : State) : (resetRegs p s).sec = s.sec := rfl
@[simp] theorem resetRegs_sb (p : Nat → Bool) (s : State) : (resetRegs p s).sb = s.sb := rfl
@[simp] theorem resetRegs_rein (p : Nat → Bool) (s : State) : (resetRegs p s).rein = s.rein := rfl
@[simp] theorem resetRegs_dbg (p : Nat → Bool) (s : State) : (resetRegs p s).dbg = s.dbg := rfl
@[simp] theorem resetRegs_timebase (p : Nat → Bool) (s : State) : (resetRegs p s).timebase = s.timebase := rfl
@[simp] theorem resetRegs_tbRun (p : Nat → Bool) (s : State) : (resetRegs p s).tbRun = s.tbRun := rfl
@[simp] theorem resetRegs_powered (p : Nat → Bool) (s : State) : (resetRegs p s).powered = s.powered := rfl
@[simp] theorem resetRegs_perst (p : Nat → Bool) (s : State) : (resetRegs p s).perst = s.perst := rfl
@[simp] theorem resetRegs_perstLow (p : Nat → Bool) (s : State) : (resetRegs p s).perstLow = s.perstLow := rfl
@[simp] theorem resetRegs_testEn (p : Nat → Bool) (s : State) : (resetRegs p s).testEn = s.testEn := rfl
@[simp] theorem resetRegs_refLost (p : Nat → Bool) (s : State) : (resetRegs p s).refLost = s.refLost := rfl
@[simp] theorem resetRegs_refPerst (p : Nat → Bool) (s : State) : (resetRegs p s).refPerst = s.refPerst := rfl
@[simp] theorem resetRegs_thermLatch (p : Nat → Bool) (s : State) : (resetRegs p s).thermLatch = s.thermLatch := rfl
@[simp] theorem resetRegs_out (p : Nat → Bool) (s : State) : (resetRegs p s).out = s.out := rfl
@[simp] theorem resetRegs_free (p : Nat → Bool) (s : State) : (resetRegs p s).free = s.free := rfl

@[simp] theorem emit_pending (s : State) (o : Out) : (emit s o).pending = s.pending := rfl
@[simp] theorem emit_regs (s : State) (o : Out) : (emit s o).regs = s.regs := rfl
@[simp] theorem emit_mem (s : State) (o : Out) : (emit s o).mem = s.mem := rfl
@[simp] theorem emit_cells (s : State) (o : Out) : (emit s o).cells = s.cells := rfl
@[simp] theorem emit_seqs (s : State) (o : Out) : (emit s o).seqs = s.seqs := rfl
@[simp] theorem emit_cs (s : State) (o : Out) : (emit s o).cs = s.cs := rfl
@[simp] theorem emit_dt (s : State) (o : Out) : (emit s o).dt = s.dt := rfl
@[simp] theorem emit_keys (s : State) (o : Out) : (emit s o).keys = s.keys := rfl
@[simp] theorem emit_csSh (s : State) (o : Out) : (emit s o).csSh = s.csSh := rfl
@[simp] theorem emit_dtSh (s : State) (o : Out) : (emit s o).dtSh = s.dtSh := rfl
@[simp] theorem emit_dtBad (s : State) (o : Out) : (emit s o).dtBad = s.dtBad := rfl
@[simp] theorem emit_flaws (s : State) (o : Out) : (emit s o).flaws = s.flaws := rfl
@[simp] theorem emit_jdead (s : State) (o : Out) : (emit s o).jdead = s.jdead := rfl
@[simp] theorem emit_csFlip (s : State) (o : Out) : (emit s o).csFlip = s.csFlip := rfl
@[simp] theorem emit_pages (s : State) (o : Out) : (emit s o).pages = s.pages := rfl
@[simp] theorem emit_foldHome (s : State) (o : Out) : (emit s o).foldHome = s.foldHome := rfl
@[simp] theorem emit_nclk (s : State) (o : Out) : (emit s o).nclk = s.nclk := rfl
@[simp] theorem emit_cfg (s : State) (o : Out) : (emit s o).cfg = s.cfg := rfl
@[simp] theorem emit_img (s : State) (o : Out) : (emit s o).img = s.img := rfl
@[simp] theorem emit_epochs (s : State) (o : Out) : (emit s o).epochs = s.epochs := rfl
@[simp] theorem emit_host (s : State) (o : Out) : (emit s o).host = s.host := rfl
@[simp] theorem emit_mesh (s : State) (o : Out) : (emit s o).mesh = s.mesh := rfl
@[simp] theorem emit_dram (s : State) (o : Out) : (emit s o).dram = s.dram := rfl
@[simp] theorem emit_dma (s : State) (o : Out) : (emit s o).dma = s.dma := rfl
@[simp] theorem emit_irq (s : State) (o : Out) : (emit s o).irq = s.irq := rfl
@[simp] theorem emit_pwr (s : State) (o : Out) : (emit s o).pwr = s.pwr := rfl
@[simp] theorem emit_sec (s : State) (o : Out) : (emit s o).sec = s.sec := rfl
@[simp] theorem emit_sb (s : State) (o : Out) : (emit s o).sb = s.sb := rfl
@[simp] theorem emit_rein (s : State) (o : Out) : (emit s o).rein = s.rein := rfl
@[simp] theorem emit_dbg (s : State) (o : Out) : (emit s o).dbg = s.dbg := rfl
@[simp] theorem emit_timebase (s : State) (o : Out) : (emit s o).timebase = s.timebase := rfl
@[simp] theorem emit_tbRun (s : State) (o : Out) : (emit s o).tbRun = s.tbRun := rfl
@[simp] theorem emit_powered (s : State) (o : Out) : (emit s o).powered = s.powered := rfl
@[simp] theorem emit_perst (s : State) (o : Out) : (emit s o).perst = s.perst := rfl
@[simp] theorem emit_perstLow (s : State) (o : Out) : (emit s o).perstLow = s.perstLow := rfl
@[simp] theorem emit_testEn (s : State) (o : Out) : (emit s o).testEn = s.testEn := rfl
@[simp] theorem emit_refLost (s : State) (o : Out) : (emit s o).refLost = s.refLost := rfl
@[simp] theorem emit_refPerst (s : State) (o : Out) : (emit s o).refPerst = s.refPerst := rfl
@[simp] theorem emit_thermLatch (s : State) (o : Out) : (emit s o).thermLatch = s.thermLatch := rfl
@[simp] theorem emit_free (s : State) (o : Out) : (emit s o).free = s.free := rfl

@[simp] theorem cleanWords_pending (s : State) (a n : Nat) : (cleanWords s a n).pending = s.pending := rfl
@[simp] theorem cleanWords_regs (s : State) (a n : Nat) : (cleanWords s a n).regs = s.regs := rfl
@[simp] theorem cleanWords_mem (s : State) (a n : Nat) : (cleanWords s a n).mem = s.mem := rfl
@[simp] theorem cleanWords_cells (s : State) (a n : Nat) : (cleanWords s a n).cells = s.cells := rfl
@[simp] theorem cleanWords_seqs (s : State) (a n : Nat) : (cleanWords s a n).seqs = s.seqs := rfl
@[simp] theorem cleanWords_cs (s : State) (a n : Nat) : (cleanWords s a n).cs = s.cs := rfl
@[simp] theorem cleanWords_dt (s : State) (a n : Nat) : (cleanWords s a n).dt = s.dt := rfl
@[simp] theorem cleanWords_keys (s : State) (a n : Nat) : (cleanWords s a n).keys = s.keys := rfl
@[simp] theorem cleanWords_csSh (s : State) (a n : Nat) : (cleanWords s a n).csSh = s.csSh := rfl
@[simp] theorem cleanWords_dtSh (s : State) (a n : Nat) : (cleanWords s a n).dtSh = s.dtSh := rfl
@[simp] theorem cleanWords_dtBad (s : State) (a n : Nat) : (cleanWords s a n).dtBad = s.dtBad := rfl
@[simp] theorem cleanWords_jdead (s : State) (a n : Nat) : (cleanWords s a n).jdead = s.jdead := rfl
@[simp] theorem cleanWords_csFlip (s : State) (a n : Nat) : (cleanWords s a n).csFlip = s.csFlip := rfl
@[simp] theorem cleanWords_pages (s : State) (a n : Nat) : (cleanWords s a n).pages = s.pages := rfl
@[simp] theorem cleanWords_foldHome (s : State) (a n : Nat) : (cleanWords s a n).foldHome = s.foldHome := rfl
@[simp] theorem cleanWords_nclk (s : State) (a n : Nat) : (cleanWords s a n).nclk = s.nclk := rfl
@[simp] theorem cleanWords_cfg (s : State) (a n : Nat) : (cleanWords s a n).cfg = s.cfg := rfl
@[simp] theorem cleanWords_img (s : State) (a n : Nat) : (cleanWords s a n).img = s.img := rfl
@[simp] theorem cleanWords_epochs (s : State) (a n : Nat) : (cleanWords s a n).epochs = s.epochs := rfl
@[simp] theorem cleanWords_host (s : State) (a n : Nat) : (cleanWords s a n).host = s.host := rfl
@[simp] theorem cleanWords_mesh (s : State) (a n : Nat) : (cleanWords s a n).mesh = s.mesh := rfl
@[simp] theorem cleanWords_dram (s : State) (a n : Nat) : (cleanWords s a n).dram = s.dram := rfl
@[simp] theorem cleanWords_dma (s : State) (a n : Nat) : (cleanWords s a n).dma = s.dma := rfl
@[simp] theorem cleanWords_irq (s : State) (a n : Nat) : (cleanWords s a n).irq = s.irq := rfl
@[simp] theorem cleanWords_pwr (s : State) (a n : Nat) : (cleanWords s a n).pwr = s.pwr := rfl
@[simp] theorem cleanWords_sec (s : State) (a n : Nat) : (cleanWords s a n).sec = s.sec := rfl
@[simp] theorem cleanWords_sb (s : State) (a n : Nat) : (cleanWords s a n).sb = s.sb := rfl
@[simp] theorem cleanWords_rein (s : State) (a n : Nat) : (cleanWords s a n).rein = s.rein := rfl
@[simp] theorem cleanWords_dbg (s : State) (a n : Nat) : (cleanWords s a n).dbg = s.dbg := rfl
@[simp] theorem cleanWords_timebase (s : State) (a n : Nat) : (cleanWords s a n).timebase = s.timebase := rfl
@[simp] theorem cleanWords_tbRun (s : State) (a n : Nat) : (cleanWords s a n).tbRun = s.tbRun := rfl
@[simp] theorem cleanWords_powered (s : State) (a n : Nat) : (cleanWords s a n).powered = s.powered := rfl
@[simp] theorem cleanWords_perst (s : State) (a n : Nat) : (cleanWords s a n).perst = s.perst := rfl
@[simp] theorem cleanWords_perstLow (s : State) (a n : Nat) : (cleanWords s a n).perstLow = s.perstLow := rfl
@[simp] theorem cleanWords_testEn (s : State) (a n : Nat) : (cleanWords s a n).testEn = s.testEn := rfl
@[simp] theorem cleanWords_refLost (s : State) (a n : Nat) : (cleanWords s a n).refLost = s.refLost := rfl
@[simp] theorem cleanWords_refPerst (s : State) (a n : Nat) : (cleanWords s a n).refPerst = s.refPerst := rfl
@[simp] theorem cleanWords_thermLatch (s : State) (a n : Nat) : (cleanWords s a n).thermLatch = s.thermLatch := rfl
@[simp] theorem cleanWords_free (s : State) (a n : Nat) : (cleanWords s a n).free = s.free := rfl
@[simp] theorem cleanWords_out (s : State) (a n : Nat) : (cleanWords s a n).out = s.out := rfl

@[simp] theorem takeFree_pending (s : State) : (takeFree s).pending = s.pending := rfl
@[simp] theorem takeFree_regs (s : State) : (takeFree s).regs = s.regs := rfl
@[simp] theorem takeFree_mem (s : State) : (takeFree s).mem = s.mem := rfl
@[simp] theorem takeFree_cells (s : State) : (takeFree s).cells = s.cells := rfl
@[simp] theorem takeFree_seqs (s : State) : (takeFree s).seqs = s.seqs := rfl
@[simp] theorem takeFree_cs (s : State) : (takeFree s).cs = s.cs := rfl
@[simp] theorem takeFree_dt (s : State) : (takeFree s).dt = s.dt := rfl
@[simp] theorem takeFree_keys (s : State) : (takeFree s).keys = s.keys := rfl
@[simp] theorem takeFree_csSh (s : State) : (takeFree s).csSh = s.csSh := rfl
@[simp] theorem takeFree_dtSh (s : State) : (takeFree s).dtSh = s.dtSh := rfl
@[simp] theorem takeFree_dtBad (s : State) : (takeFree s).dtBad = s.dtBad := rfl
@[simp] theorem takeFree_flaws (s : State) : (takeFree s).flaws = s.flaws := rfl
@[simp] theorem takeFree_jdead (s : State) : (takeFree s).jdead = s.jdead := rfl
@[simp] theorem takeFree_csFlip (s : State) : (takeFree s).csFlip = s.csFlip := rfl
@[simp] theorem takeFree_pages (s : State) : (takeFree s).pages = s.pages := rfl
@[simp] theorem takeFree_foldHome (s : State) : (takeFree s).foldHome = s.foldHome := rfl
@[simp] theorem takeFree_nclk (s : State) : (takeFree s).nclk = s.nclk := rfl
@[simp] theorem takeFree_cfg (s : State) : (takeFree s).cfg = s.cfg := rfl
@[simp] theorem takeFree_img (s : State) : (takeFree s).img = s.img := rfl
@[simp] theorem takeFree_epochs (s : State) : (takeFree s).epochs = s.epochs := rfl
@[simp] theorem takeFree_host (s : State) : (takeFree s).host = s.host := rfl
@[simp] theorem takeFree_mesh (s : State) : (takeFree s).mesh = s.mesh := rfl
@[simp] theorem takeFree_dram (s : State) : (takeFree s).dram = s.dram := rfl
@[simp] theorem takeFree_dma (s : State) : (takeFree s).dma = s.dma := rfl
@[simp] theorem takeFree_irq (s : State) : (takeFree s).irq = s.irq := rfl
@[simp] theorem takeFree_pwr (s : State) : (takeFree s).pwr = s.pwr := rfl
@[simp] theorem takeFree_sec (s : State) : (takeFree s).sec = s.sec := rfl
@[simp] theorem takeFree_sb (s : State) : (takeFree s).sb = s.sb := rfl
@[simp] theorem takeFree_rein (s : State) : (takeFree s).rein = s.rein := rfl
@[simp] theorem takeFree_dbg (s : State) : (takeFree s).dbg = s.dbg := rfl
@[simp] theorem takeFree_timebase (s : State) : (takeFree s).timebase = s.timebase := rfl
@[simp] theorem takeFree_tbRun (s : State) : (takeFree s).tbRun = s.tbRun := rfl
@[simp] theorem takeFree_powered (s : State) : (takeFree s).powered = s.powered := rfl
@[simp] theorem takeFree_perst (s : State) : (takeFree s).perst = s.perst := rfl
@[simp] theorem takeFree_perstLow (s : State) : (takeFree s).perstLow = s.perstLow := rfl
@[simp] theorem takeFree_testEn (s : State) : (takeFree s).testEn = s.testEn := rfl
@[simp] theorem takeFree_refLost (s : State) : (takeFree s).refLost = s.refLost := rfl
@[simp] theorem takeFree_refPerst (s : State) : (takeFree s).refPerst = s.refPerst := rfl
@[simp] theorem takeFree_thermLatch (s : State) : (takeFree s).thermLatch = s.thermLatch := rfl
@[simp] theorem takeFree_out (s : State) : (takeFree s).out = s.out := rfl

@[simp] theorem setSeq_pending (s : State) (b : Nat) (q : Seq) : (setSeq s b q).pending = s.pending := rfl
@[simp] theorem setSeq_regs (s : State) (b : Nat) (q : Seq) : (setSeq s b q).regs = s.regs := rfl
@[simp] theorem setSeq_mem (s : State) (b : Nat) (q : Seq) : (setSeq s b q).mem = s.mem := rfl
@[simp] theorem setSeq_cells (s : State) (b : Nat) (q : Seq) : (setSeq s b q).cells = s.cells := rfl
@[simp] theorem setSeq_cs (s : State) (b : Nat) (q : Seq) : (setSeq s b q).cs = s.cs := rfl
@[simp] theorem setSeq_dt (s : State) (b : Nat) (q : Seq) : (setSeq s b q).dt = s.dt := rfl
@[simp] theorem setSeq_keys (s : State) (b : Nat) (q : Seq) : (setSeq s b q).keys = s.keys := rfl
@[simp] theorem setSeq_csSh (s : State) (b : Nat) (q : Seq) : (setSeq s b q).csSh = s.csSh := rfl
@[simp] theorem setSeq_dtSh (s : State) (b : Nat) (q : Seq) : (setSeq s b q).dtSh = s.dtSh := rfl
@[simp] theorem setSeq_dtBad (s : State) (b : Nat) (q : Seq) : (setSeq s b q).dtBad = s.dtBad := rfl
@[simp] theorem setSeq_flaws (s : State) (b : Nat) (q : Seq) : (setSeq s b q).flaws = s.flaws := rfl
@[simp] theorem setSeq_jdead (s : State) (b : Nat) (q : Seq) : (setSeq s b q).jdead = s.jdead := rfl
@[simp] theorem setSeq_csFlip (s : State) (b : Nat) (q : Seq) : (setSeq s b q).csFlip = s.csFlip := rfl
@[simp] theorem setSeq_pages (s : State) (b : Nat) (q : Seq) : (setSeq s b q).pages = s.pages := rfl
@[simp] theorem setSeq_foldHome (s : State) (b : Nat) (q : Seq) : (setSeq s b q).foldHome = s.foldHome := rfl
@[simp] theorem setSeq_nclk (s : State) (b : Nat) (q : Seq) : (setSeq s b q).nclk = s.nclk := rfl
@[simp] theorem setSeq_cfg (s : State) (b : Nat) (q : Seq) : (setSeq s b q).cfg = s.cfg := rfl
@[simp] theorem setSeq_img (s : State) (b : Nat) (q : Seq) : (setSeq s b q).img = s.img := rfl
@[simp] theorem setSeq_epochs (s : State) (b : Nat) (q : Seq) : (setSeq s b q).epochs = s.epochs := rfl
@[simp] theorem setSeq_host (s : State) (b : Nat) (q : Seq) : (setSeq s b q).host = s.host := rfl
@[simp] theorem setSeq_mesh (s : State) (b : Nat) (q : Seq) : (setSeq s b q).mesh = s.mesh := rfl
@[simp] theorem setSeq_dram (s : State) (b : Nat) (q : Seq) : (setSeq s b q).dram = s.dram := rfl
@[simp] theorem setSeq_dma (s : State) (b : Nat) (q : Seq) : (setSeq s b q).dma = s.dma := rfl
@[simp] theorem setSeq_irq (s : State) (b : Nat) (q : Seq) : (setSeq s b q).irq = s.irq := rfl
@[simp] theorem setSeq_pwr (s : State) (b : Nat) (q : Seq) : (setSeq s b q).pwr = s.pwr := rfl
@[simp] theorem setSeq_sec (s : State) (b : Nat) (q : Seq) : (setSeq s b q).sec = s.sec := rfl
@[simp] theorem setSeq_sb (s : State) (b : Nat) (q : Seq) : (setSeq s b q).sb = s.sb := rfl
@[simp] theorem setSeq_rein (s : State) (b : Nat) (q : Seq) : (setSeq s b q).rein = s.rein := rfl
@[simp] theorem setSeq_dbg (s : State) (b : Nat) (q : Seq) : (setSeq s b q).dbg = s.dbg := rfl
@[simp] theorem setSeq_timebase (s : State) (b : Nat) (q : Seq) : (setSeq s b q).timebase = s.timebase := rfl
@[simp] theorem setSeq_tbRun (s : State) (b : Nat) (q : Seq) : (setSeq s b q).tbRun = s.tbRun := rfl
@[simp] theorem setSeq_powered (s : State) (b : Nat) (q : Seq) : (setSeq s b q).powered = s.powered := rfl
@[simp] theorem setSeq_perst (s : State) (b : Nat) (q : Seq) : (setSeq s b q).perst = s.perst := rfl
@[simp] theorem setSeq_perstLow (s : State) (b : Nat) (q : Seq) : (setSeq s b q).perstLow = s.perstLow := rfl
@[simp] theorem setSeq_testEn (s : State) (b : Nat) (q : Seq) : (setSeq s b q).testEn = s.testEn := rfl
@[simp] theorem setSeq_refLost (s : State) (b : Nat) (q : Seq) : (setSeq s b q).refLost = s.refLost := rfl
@[simp] theorem setSeq_refPerst (s : State) (b : Nat) (q : Seq) : (setSeq s b q).refPerst = s.refPerst := rfl
@[simp] theorem setSeq_thermLatch (s : State) (b : Nat) (q : Seq) : (setSeq s b q).thermLatch = s.thermLatch := rfl
@[simp] theorem setSeq_out (s : State) (b : Nat) (q : Seq) : (setSeq s b q).out = s.out := rfl
@[simp] theorem setSeq_free (s : State) (b : Nat) (q : Seq) : (setSeq s b q).free = s.free := rfl

@[simp] theorem updSeq_pending (s : State) (b : Nat) (f : Seq → Seq) : (updSeq s b f).pending = s.pending := rfl
@[simp] theorem updSeq_regs (s : State) (b : Nat) (f : Seq → Seq) : (updSeq s b f).regs = s.regs := rfl
@[simp] theorem updSeq_mem (s : State) (b : Nat) (f : Seq → Seq) : (updSeq s b f).mem = s.mem := rfl
@[simp] theorem updSeq_cells (s : State) (b : Nat) (f : Seq → Seq) : (updSeq s b f).cells = s.cells := rfl
@[simp] theorem updSeq_cs (s : State) (b : Nat) (f : Seq → Seq) : (updSeq s b f).cs = s.cs := rfl
@[simp] theorem updSeq_dt (s : State) (b : Nat) (f : Seq → Seq) : (updSeq s b f).dt = s.dt := rfl
@[simp] theorem updSeq_keys (s : State) (b : Nat) (f : Seq → Seq) : (updSeq s b f).keys = s.keys := rfl
@[simp] theorem updSeq_csSh (s : State) (b : Nat) (f : Seq → Seq) : (updSeq s b f).csSh = s.csSh := rfl
@[simp] theorem updSeq_dtSh (s : State) (b : Nat) (f : Seq → Seq) : (updSeq s b f).dtSh = s.dtSh := rfl
@[simp] theorem updSeq_dtBad (s : State) (b : Nat) (f : Seq → Seq) : (updSeq s b f).dtBad = s.dtBad := rfl
@[simp] theorem updSeq_flaws (s : State) (b : Nat) (f : Seq → Seq) : (updSeq s b f).flaws = s.flaws := rfl
@[simp] theorem updSeq_jdead (s : State) (b : Nat) (f : Seq → Seq) : (updSeq s b f).jdead = s.jdead := rfl
@[simp] theorem updSeq_csFlip (s : State) (b : Nat) (f : Seq → Seq) : (updSeq s b f).csFlip = s.csFlip := rfl
@[simp] theorem updSeq_pages (s : State) (b : Nat) (f : Seq → Seq) : (updSeq s b f).pages = s.pages := rfl
@[simp] theorem updSeq_foldHome (s : State) (b : Nat) (f : Seq → Seq) : (updSeq s b f).foldHome = s.foldHome := rfl
@[simp] theorem updSeq_nclk (s : State) (b : Nat) (f : Seq → Seq) : (updSeq s b f).nclk = s.nclk := rfl
@[simp] theorem updSeq_cfg (s : State) (b : Nat) (f : Seq → Seq) : (updSeq s b f).cfg = s.cfg := rfl
@[simp] theorem updSeq_img (s : State) (b : Nat) (f : Seq → Seq) : (updSeq s b f).img = s.img := rfl
@[simp] theorem updSeq_epochs (s : State) (b : Nat) (f : Seq → Seq) : (updSeq s b f).epochs = s.epochs := rfl
@[simp] theorem updSeq_host (s : State) (b : Nat) (f : Seq → Seq) : (updSeq s b f).host = s.host := rfl
@[simp] theorem updSeq_mesh (s : State) (b : Nat) (f : Seq → Seq) : (updSeq s b f).mesh = s.mesh := rfl
@[simp] theorem updSeq_dram (s : State) (b : Nat) (f : Seq → Seq) : (updSeq s b f).dram = s.dram := rfl
@[simp] theorem updSeq_dma (s : State) (b : Nat) (f : Seq → Seq) : (updSeq s b f).dma = s.dma := rfl
@[simp] theorem updSeq_irq (s : State) (b : Nat) (f : Seq → Seq) : (updSeq s b f).irq = s.irq := rfl
@[simp] theorem updSeq_pwr (s : State) (b : Nat) (f : Seq → Seq) : (updSeq s b f).pwr = s.pwr := rfl
@[simp] theorem updSeq_sec (s : State) (b : Nat) (f : Seq → Seq) : (updSeq s b f).sec = s.sec := rfl
@[simp] theorem updSeq_sb (s : State) (b : Nat) (f : Seq → Seq) : (updSeq s b f).sb = s.sb := rfl
@[simp] theorem updSeq_rein (s : State) (b : Nat) (f : Seq → Seq) : (updSeq s b f).rein = s.rein := rfl
@[simp] theorem updSeq_dbg (s : State) (b : Nat) (f : Seq → Seq) : (updSeq s b f).dbg = s.dbg := rfl
@[simp] theorem updSeq_timebase (s : State) (b : Nat) (f : Seq → Seq) : (updSeq s b f).timebase = s.timebase := rfl
@[simp] theorem updSeq_tbRun (s : State) (b : Nat) (f : Seq → Seq) : (updSeq s b f).tbRun = s.tbRun := rfl
@[simp] theorem updSeq_powered (s : State) (b : Nat) (f : Seq → Seq) : (updSeq s b f).powered = s.powered := rfl
@[simp] theorem updSeq_perst (s : State) (b : Nat) (f : Seq → Seq) : (updSeq s b f).perst = s.perst := rfl
@[simp] theorem updSeq_perstLow (s : State) (b : Nat) (f : Seq → Seq) : (updSeq s b f).perstLow = s.perstLow := rfl
@[simp] theorem updSeq_testEn (s : State) (b : Nat) (f : Seq → Seq) : (updSeq s b f).testEn = s.testEn := rfl
@[simp] theorem updSeq_refLost (s : State) (b : Nat) (f : Seq → Seq) : (updSeq s b f).refLost = s.refLost := rfl
@[simp] theorem updSeq_refPerst (s : State) (b : Nat) (f : Seq → Seq) : (updSeq s b f).refPerst = s.refPerst := rfl
@[simp] theorem updSeq_thermLatch (s : State) (b : Nat) (f : Seq → Seq) : (updSeq s b f).thermLatch = s.thermLatch := rfl
@[simp] theorem updSeq_out (s : State) (b : Nat) (f : Seq → Seq) : (updSeq s b f).out = s.out := rfl
@[simp] theorem updSeq_free (s : State) (b : Nat) (f : Seq → Seq) : (updSeq s b f).free = s.free := rfl

@[simp] theorem updEpoch_pending (s : State) (n : Nat) (f : Epoch → Epoch) : (updEpoch s n f).pending = s.pending := rfl
@[simp] theorem updEpoch_regs (s : State) (n : Nat) (f : Epoch → Epoch) : (updEpoch s n f).regs = s.regs := rfl
@[simp] theorem updEpoch_mem (s : State) (n : Nat) (f : Epoch → Epoch) : (updEpoch s n f).mem = s.mem := rfl
@[simp] theorem updEpoch_cells (s : State) (n : Nat) (f : Epoch → Epoch) : (updEpoch s n f).cells = s.cells := rfl
@[simp] theorem updEpoch_seqs (s : State) (n : Nat) (f : Epoch → Epoch) : (updEpoch s n f).seqs = s.seqs := rfl
@[simp] theorem updEpoch_cs (s : State) (n : Nat) (f : Epoch → Epoch) : (updEpoch s n f).cs = s.cs := rfl
@[simp] theorem updEpoch_dt (s : State) (n : Nat) (f : Epoch → Epoch) : (updEpoch s n f).dt = s.dt := rfl
@[simp] theorem updEpoch_keys (s : State) (n : Nat) (f : Epoch → Epoch) : (updEpoch s n f).keys = s.keys := rfl
@[simp] theorem updEpoch_csSh (s : State) (n : Nat) (f : Epoch → Epoch) : (updEpoch s n f).csSh = s.csSh := rfl
@[simp] theorem updEpoch_dtSh (s : State) (n : Nat) (f : Epoch → Epoch) : (updEpoch s n f).dtSh = s.dtSh := rfl
@[simp] theorem updEpoch_dtBad (s : State) (n : Nat) (f : Epoch → Epoch) : (updEpoch s n f).dtBad = s.dtBad := rfl
@[simp] theorem updEpoch_flaws (s : State) (n : Nat) (f : Epoch → Epoch) : (updEpoch s n f).flaws = s.flaws := rfl
@[simp] theorem updEpoch_jdead (s : State) (n : Nat) (f : Epoch → Epoch) : (updEpoch s n f).jdead = s.jdead := rfl
@[simp] theorem updEpoch_csFlip (s : State) (n : Nat) (f : Epoch → Epoch) : (updEpoch s n f).csFlip = s.csFlip := rfl
@[simp] theorem updEpoch_pages (s : State) (n : Nat) (f : Epoch → Epoch) : (updEpoch s n f).pages = s.pages := rfl
@[simp] theorem updEpoch_foldHome (s : State) (n : Nat) (f : Epoch → Epoch) : (updEpoch s n f).foldHome = s.foldHome := rfl
@[simp] theorem updEpoch_nclk (s : State) (n : Nat) (f : Epoch → Epoch) : (updEpoch s n f).nclk = s.nclk := rfl
@[simp] theorem updEpoch_cfg (s : State) (n : Nat) (f : Epoch → Epoch) : (updEpoch s n f).cfg = s.cfg := rfl
@[simp] theorem updEpoch_img (s : State) (n : Nat) (f : Epoch → Epoch) : (updEpoch s n f).img = s.img := rfl
@[simp] theorem updEpoch_host (s : State) (n : Nat) (f : Epoch → Epoch) : (updEpoch s n f).host = s.host := rfl
@[simp] theorem updEpoch_mesh (s : State) (n : Nat) (f : Epoch → Epoch) : (updEpoch s n f).mesh = s.mesh := rfl
@[simp] theorem updEpoch_dram (s : State) (n : Nat) (f : Epoch → Epoch) : (updEpoch s n f).dram = s.dram := rfl
@[simp] theorem updEpoch_dma (s : State) (n : Nat) (f : Epoch → Epoch) : (updEpoch s n f).dma = s.dma := rfl
@[simp] theorem updEpoch_irq (s : State) (n : Nat) (f : Epoch → Epoch) : (updEpoch s n f).irq = s.irq := rfl
@[simp] theorem updEpoch_pwr (s : State) (n : Nat) (f : Epoch → Epoch) : (updEpoch s n f).pwr = s.pwr := rfl
@[simp] theorem updEpoch_sec (s : State) (n : Nat) (f : Epoch → Epoch) : (updEpoch s n f).sec = s.sec := rfl
@[simp] theorem updEpoch_sb (s : State) (n : Nat) (f : Epoch → Epoch) : (updEpoch s n f).sb = s.sb := rfl
@[simp] theorem updEpoch_rein (s : State) (n : Nat) (f : Epoch → Epoch) : (updEpoch s n f).rein = s.rein := rfl
@[simp] theorem updEpoch_dbg (s : State) (n : Nat) (f : Epoch → Epoch) : (updEpoch s n f).dbg = s.dbg := rfl
@[simp] theorem updEpoch_timebase (s : State) (n : Nat) (f : Epoch → Epoch) : (updEpoch s n f).timebase = s.timebase := rfl
@[simp] theorem updEpoch_tbRun (s : State) (n : Nat) (f : Epoch → Epoch) : (updEpoch s n f).tbRun = s.tbRun := rfl
@[simp] theorem updEpoch_powered (s : State) (n : Nat) (f : Epoch → Epoch) : (updEpoch s n f).powered = s.powered := rfl
@[simp] theorem updEpoch_perst (s : State) (n : Nat) (f : Epoch → Epoch) : (updEpoch s n f).perst = s.perst := rfl
@[simp] theorem updEpoch_perstLow (s : State) (n : Nat) (f : Epoch → Epoch) : (updEpoch s n f).perstLow = s.perstLow := rfl
@[simp] theorem updEpoch_testEn (s : State) (n : Nat) (f : Epoch → Epoch) : (updEpoch s n f).testEn = s.testEn := rfl
@[simp] theorem updEpoch_refLost (s : State) (n : Nat) (f : Epoch → Epoch) : (updEpoch s n f).refLost = s.refLost := rfl
@[simp] theorem updEpoch_refPerst (s : State) (n : Nat) (f : Epoch → Epoch) : (updEpoch s n f).refPerst = s.refPerst := rfl
@[simp] theorem updEpoch_thermLatch (s : State) (n : Nat) (f : Epoch → Epoch) : (updEpoch s n f).thermLatch = s.thermLatch := rfl
@[simp] theorem updEpoch_out (s : State) (n : Nat) (f : Epoch → Epoch) : (updEpoch s n f).out = s.out := rfl
@[simp] theorem updEpoch_free (s : State) (n : Nat) (f : Epoch → Epoch) : (updEpoch s n f).free = s.free := rfl

@[simp] theorem setQueue_pending (s : State) (f q : Nat) (v : QState) : (setQueue s f q v).pending = s.pending := rfl
@[simp] theorem setQueue_regs (s : State) (f q : Nat) (v : QState) : (setQueue s f q v).regs = s.regs := rfl
@[simp] theorem setQueue_mem (s : State) (f q : Nat) (v : QState) : (setQueue s f q v).mem = s.mem := rfl
@[simp] theorem setQueue_cells (s : State) (f q : Nat) (v : QState) : (setQueue s f q v).cells = s.cells := rfl
@[simp] theorem setQueue_seqs (s : State) (f q : Nat) (v : QState) : (setQueue s f q v).seqs = s.seqs := rfl
@[simp] theorem setQueue_cs (s : State) (f q : Nat) (v : QState) : (setQueue s f q v).cs = s.cs := rfl
@[simp] theorem setQueue_dt (s : State) (f q : Nat) (v : QState) : (setQueue s f q v).dt = s.dt := rfl
@[simp] theorem setQueue_keys (s : State) (f q : Nat) (v : QState) : (setQueue s f q v).keys = s.keys := rfl
@[simp] theorem setQueue_csSh (s : State) (f q : Nat) (v : QState) : (setQueue s f q v).csSh = s.csSh := rfl
@[simp] theorem setQueue_dtSh (s : State) (f q : Nat) (v : QState) : (setQueue s f q v).dtSh = s.dtSh := rfl
@[simp] theorem setQueue_dtBad (s : State) (f q : Nat) (v : QState) : (setQueue s f q v).dtBad = s.dtBad := rfl
@[simp] theorem setQueue_flaws (s : State) (f q : Nat) (v : QState) : (setQueue s f q v).flaws = s.flaws := rfl
@[simp] theorem setQueue_jdead (s : State) (f q : Nat) (v : QState) : (setQueue s f q v).jdead = s.jdead := rfl
@[simp] theorem setQueue_csFlip (s : State) (f q : Nat) (v : QState) : (setQueue s f q v).csFlip = s.csFlip := rfl
@[simp] theorem setQueue_pages (s : State) (f q : Nat) (v : QState) : (setQueue s f q v).pages = s.pages := rfl
@[simp] theorem setQueue_foldHome (s : State) (f q : Nat) (v : QState) : (setQueue s f q v).foldHome = s.foldHome := rfl
@[simp] theorem setQueue_nclk (s : State) (f q : Nat) (v : QState) : (setQueue s f q v).nclk = s.nclk := rfl
@[simp] theorem setQueue_cfg (s : State) (f q : Nat) (v : QState) : (setQueue s f q v).cfg = s.cfg := rfl
@[simp] theorem setQueue_img (s : State) (f q : Nat) (v : QState) : (setQueue s f q v).img = s.img := rfl
@[simp] theorem setQueue_epochs (s : State) (f q : Nat) (v : QState) : (setQueue s f q v).epochs = s.epochs := rfl
@[simp] theorem setQueue_mesh (s : State) (f q : Nat) (v : QState) : (setQueue s f q v).mesh = s.mesh := rfl
@[simp] theorem setQueue_dram (s : State) (f q : Nat) (v : QState) : (setQueue s f q v).dram = s.dram := rfl
@[simp] theorem setQueue_dma (s : State) (f q : Nat) (v : QState) : (setQueue s f q v).dma = s.dma := rfl
@[simp] theorem setQueue_irq (s : State) (f q : Nat) (v : QState) : (setQueue s f q v).irq = s.irq := rfl
@[simp] theorem setQueue_pwr (s : State) (f q : Nat) (v : QState) : (setQueue s f q v).pwr = s.pwr := rfl
@[simp] theorem setQueue_sec (s : State) (f q : Nat) (v : QState) : (setQueue s f q v).sec = s.sec := rfl
@[simp] theorem setQueue_sb (s : State) (f q : Nat) (v : QState) : (setQueue s f q v).sb = s.sb := rfl
@[simp] theorem setQueue_rein (s : State) (f q : Nat) (v : QState) : (setQueue s f q v).rein = s.rein := rfl
@[simp] theorem setQueue_dbg (s : State) (f q : Nat) (v : QState) : (setQueue s f q v).dbg = s.dbg := rfl
@[simp] theorem setQueue_timebase (s : State) (f q : Nat) (v : QState) : (setQueue s f q v).timebase = s.timebase := rfl
@[simp] theorem setQueue_tbRun (s : State) (f q : Nat) (v : QState) : (setQueue s f q v).tbRun = s.tbRun := rfl
@[simp] theorem setQueue_powered (s : State) (f q : Nat) (v : QState) : (setQueue s f q v).powered = s.powered := rfl
@[simp] theorem setQueue_perst (s : State) (f q : Nat) (v : QState) : (setQueue s f q v).perst = s.perst := rfl
@[simp] theorem setQueue_perstLow (s : State) (f q : Nat) (v : QState) : (setQueue s f q v).perstLow = s.perstLow := rfl
@[simp] theorem setQueue_testEn (s : State) (f q : Nat) (v : QState) : (setQueue s f q v).testEn = s.testEn := rfl
@[simp] theorem setQueue_refLost (s : State) (f q : Nat) (v : QState) : (setQueue s f q v).refLost = s.refLost := rfl
@[simp] theorem setQueue_refPerst (s : State) (f q : Nat) (v : QState) : (setQueue s f q v).refPerst = s.refPerst := rfl
@[simp] theorem setQueue_thermLatch (s : State) (f q : Nat) (v : QState) : (setQueue s f q v).thermLatch = s.thermLatch := rfl
@[simp] theorem setQueue_out (s : State) (f q : Nat) (v : QState) : (setQueue s f q v).out = s.out := rfl
@[simp] theorem setQueue_free (s : State) (f q : Nat) (v : QState) : (setQueue s f q v).free = s.free := rfl

@[simp] theorem setPc_pending (s : State) (b v : Nat) : (setPc s b v).pending = s.pending := rfl
@[simp] theorem setPc_mem (s : State) (b v : Nat) : (setPc s b v).mem = s.mem := rfl
@[simp] theorem setPc_cells (s : State) (b v : Nat) : (setPc s b v).cells = s.cells := rfl
@[simp] theorem setPc_seqs (s : State) (b v : Nat) : (setPc s b v).seqs = s.seqs := rfl
@[simp] theorem setPc_cs (s : State) (b v : Nat) : (setPc s b v).cs = s.cs := rfl
@[simp] theorem setPc_dt (s : State) (b v : Nat) : (setPc s b v).dt = s.dt := rfl
@[simp] theorem setPc_keys (s : State) (b v : Nat) : (setPc s b v).keys = s.keys := rfl
@[simp] theorem setPc_csSh (s : State) (b v : Nat) : (setPc s b v).csSh = s.csSh := rfl
@[simp] theorem setPc_dtSh (s : State) (b v : Nat) : (setPc s b v).dtSh = s.dtSh := rfl
@[simp] theorem setPc_dtBad (s : State) (b v : Nat) : (setPc s b v).dtBad = s.dtBad := rfl
@[simp] theorem setPc_flaws (s : State) (b v : Nat) : (setPc s b v).flaws = s.flaws := rfl
@[simp] theorem setPc_jdead (s : State) (b v : Nat) : (setPc s b v).jdead = s.jdead := rfl
@[simp] theorem setPc_csFlip (s : State) (b v : Nat) : (setPc s b v).csFlip = s.csFlip := rfl
@[simp] theorem setPc_pages (s : State) (b v : Nat) : (setPc s b v).pages = s.pages := rfl
@[simp] theorem setPc_foldHome (s : State) (b v : Nat) : (setPc s b v).foldHome = s.foldHome := rfl
@[simp] theorem setPc_nclk (s : State) (b v : Nat) : (setPc s b v).nclk = s.nclk := rfl
@[simp] theorem setPc_cfg (s : State) (b v : Nat) : (setPc s b v).cfg = s.cfg := rfl
@[simp] theorem setPc_img (s : State) (b v : Nat) : (setPc s b v).img = s.img := rfl
@[simp] theorem setPc_epochs (s : State) (b v : Nat) : (setPc s b v).epochs = s.epochs := rfl
@[simp] theorem setPc_host (s : State) (b v : Nat) : (setPc s b v).host = s.host := rfl
@[simp] theorem setPc_mesh (s : State) (b v : Nat) : (setPc s b v).mesh = s.mesh := rfl
@[simp] theorem setPc_dram (s : State) (b v : Nat) : (setPc s b v).dram = s.dram := rfl
@[simp] theorem setPc_dma (s : State) (b v : Nat) : (setPc s b v).dma = s.dma := rfl
@[simp] theorem setPc_irq (s : State) (b v : Nat) : (setPc s b v).irq = s.irq := rfl
@[simp] theorem setPc_pwr (s : State) (b v : Nat) : (setPc s b v).pwr = s.pwr := rfl
@[simp] theorem setPc_sec (s : State) (b v : Nat) : (setPc s b v).sec = s.sec := rfl
@[simp] theorem setPc_sb (s : State) (b v : Nat) : (setPc s b v).sb = s.sb := rfl
@[simp] theorem setPc_rein (s : State) (b v : Nat) : (setPc s b v).rein = s.rein := rfl
@[simp] theorem setPc_dbg (s : State) (b v : Nat) : (setPc s b v).dbg = s.dbg := rfl
@[simp] theorem setPc_timebase (s : State) (b v : Nat) : (setPc s b v).timebase = s.timebase := rfl
@[simp] theorem setPc_tbRun (s : State) (b v : Nat) : (setPc s b v).tbRun = s.tbRun := rfl
@[simp] theorem setPc_powered (s : State) (b v : Nat) : (setPc s b v).powered = s.powered := rfl
@[simp] theorem setPc_perst (s : State) (b v : Nat) : (setPc s b v).perst = s.perst := rfl
@[simp] theorem setPc_perstLow (s : State) (b v : Nat) : (setPc s b v).perstLow = s.perstLow := rfl
@[simp] theorem setPc_testEn (s : State) (b v : Nat) : (setPc s b v).testEn = s.testEn := rfl
@[simp] theorem setPc_refLost (s : State) (b v : Nat) : (setPc s b v).refLost = s.refLost := rfl
@[simp] theorem setPc_refPerst (s : State) (b v : Nat) : (setPc s b v).refPerst = s.refPerst := rfl
@[simp] theorem setPc_thermLatch (s : State) (b v : Nat) : (setPc s b v).thermLatch = s.thermLatch := rfl
@[simp] theorem setPc_out (s : State) (b v : Nat) : (setPc s b v).out = s.out := rfl
@[simp] theorem setPc_free (s : State) (b v : Nat) : (setPc s b v).free = s.free := rfl

@[simp] theorem mapListed_pending (s : State) (b : Nat) (f : Nat → Cell → Cell) : (mapListed s b f).pending = s.pending := rfl
@[simp] theorem mapListed_regs (s : State) (b : Nat) (f : Nat → Cell → Cell) : (mapListed s b f).regs = s.regs := rfl
@[simp] theorem mapListed_mem (s : State) (b : Nat) (f : Nat → Cell → Cell) : (mapListed s b f).mem = s.mem := rfl
@[simp] theorem mapListed_seqs (s : State) (b : Nat) (f : Nat → Cell → Cell) : (mapListed s b f).seqs = s.seqs := rfl
@[simp] theorem mapListed_cs (s : State) (b : Nat) (f : Nat → Cell → Cell) : (mapListed s b f).cs = s.cs := rfl
@[simp] theorem mapListed_dt (s : State) (b : Nat) (f : Nat → Cell → Cell) : (mapListed s b f).dt = s.dt := rfl
@[simp] theorem mapListed_keys (s : State) (b : Nat) (f : Nat → Cell → Cell) : (mapListed s b f).keys = s.keys := rfl
@[simp] theorem mapListed_csSh (s : State) (b : Nat) (f : Nat → Cell → Cell) : (mapListed s b f).csSh = s.csSh := rfl
@[simp] theorem mapListed_dtSh (s : State) (b : Nat) (f : Nat → Cell → Cell) : (mapListed s b f).dtSh = s.dtSh := rfl
@[simp] theorem mapListed_dtBad (s : State) (b : Nat) (f : Nat → Cell → Cell) : (mapListed s b f).dtBad = s.dtBad := rfl
@[simp] theorem mapListed_flaws (s : State) (b : Nat) (f : Nat → Cell → Cell) : (mapListed s b f).flaws = s.flaws := rfl
@[simp] theorem mapListed_jdead (s : State) (b : Nat) (f : Nat → Cell → Cell) : (mapListed s b f).jdead = s.jdead := rfl
@[simp] theorem mapListed_csFlip (s : State) (b : Nat) (f : Nat → Cell → Cell) : (mapListed s b f).csFlip = s.csFlip := rfl
@[simp] theorem mapListed_pages (s : State) (b : Nat) (f : Nat → Cell → Cell) : (mapListed s b f).pages = s.pages := rfl
@[simp] theorem mapListed_foldHome (s : State) (b : Nat) (f : Nat → Cell → Cell) : (mapListed s b f).foldHome = s.foldHome := rfl
@[simp] theorem mapListed_nclk (s : State) (b : Nat) (f : Nat → Cell → Cell) : (mapListed s b f).nclk = s.nclk := rfl
@[simp] theorem mapListed_cfg (s : State) (b : Nat) (f : Nat → Cell → Cell) : (mapListed s b f).cfg = s.cfg := rfl
@[simp] theorem mapListed_img (s : State) (b : Nat) (f : Nat → Cell → Cell) : (mapListed s b f).img = s.img := rfl
@[simp] theorem mapListed_epochs (s : State) (b : Nat) (f : Nat → Cell → Cell) : (mapListed s b f).epochs = s.epochs := rfl
@[simp] theorem mapListed_host (s : State) (b : Nat) (f : Nat → Cell → Cell) : (mapListed s b f).host = s.host := rfl
@[simp] theorem mapListed_mesh (s : State) (b : Nat) (f : Nat → Cell → Cell) : (mapListed s b f).mesh = s.mesh := rfl
@[simp] theorem mapListed_dram (s : State) (b : Nat) (f : Nat → Cell → Cell) : (mapListed s b f).dram = s.dram := rfl
@[simp] theorem mapListed_dma (s : State) (b : Nat) (f : Nat → Cell → Cell) : (mapListed s b f).dma = s.dma := rfl
@[simp] theorem mapListed_irq (s : State) (b : Nat) (f : Nat → Cell → Cell) : (mapListed s b f).irq = s.irq := rfl
@[simp] theorem mapListed_pwr (s : State) (b : Nat) (f : Nat → Cell → Cell) : (mapListed s b f).pwr = s.pwr := rfl
@[simp] theorem mapListed_sec (s : State) (b : Nat) (f : Nat → Cell → Cell) : (mapListed s b f).sec = s.sec := rfl
@[simp] theorem mapListed_sb (s : State) (b : Nat) (f : Nat → Cell → Cell) : (mapListed s b f).sb = s.sb := rfl
@[simp] theorem mapListed_rein (s : State) (b : Nat) (f : Nat → Cell → Cell) : (mapListed s b f).rein = s.rein := rfl
@[simp] theorem mapListed_dbg (s : State) (b : Nat) (f : Nat → Cell → Cell) : (mapListed s b f).dbg = s.dbg := rfl
@[simp] theorem mapListed_timebase (s : State) (b : Nat) (f : Nat → Cell → Cell) : (mapListed s b f).timebase = s.timebase := rfl
@[simp] theorem mapListed_tbRun (s : State) (b : Nat) (f : Nat → Cell → Cell) : (mapListed s b f).tbRun = s.tbRun := rfl
@[simp] theorem mapListed_powered (s : State) (b : Nat) (f : Nat → Cell → Cell) : (mapListed s b f).powered = s.powered := rfl
@[simp] theorem mapListed_perst (s : State) (b : Nat) (f : Nat → Cell → Cell) : (mapListed s b f).perst = s.perst := rfl
@[simp] theorem mapListed_perstLow (s : State) (b : Nat) (f : Nat → Cell → Cell) : (mapListed s b f).perstLow = s.perstLow := rfl
@[simp] theorem mapListed_testEn (s : State) (b : Nat) (f : Nat → Cell → Cell) : (mapListed s b f).testEn = s.testEn := rfl
@[simp] theorem mapListed_refLost (s : State) (b : Nat) (f : Nat → Cell → Cell) : (mapListed s b f).refLost = s.refLost := rfl
@[simp] theorem mapListed_refPerst (s : State) (b : Nat) (f : Nat → Cell → Cell) : (mapListed s b f).refPerst = s.refPerst := rfl
@[simp] theorem mapListed_thermLatch (s : State) (b : Nat) (f : Nat → Cell → Cell) : (mapListed s b f).thermLatch = s.thermLatch := rfl
@[simp] theorem mapListed_out (s : State) (b : Nat) (f : Nat → Cell → Cell) : (mapListed s b f).out = s.out := rfl
@[simp] theorem mapListed_free (s : State) (b : Nat) (f : Nat → Cell → Cell) : (mapListed s b f).free = s.free := rfl

@[simp] theorem mapCells_pending (s : State) (b : Nat) (f : Nat → Cell → Cell) : (mapCells s b f).pending = s.pending := rfl
@[simp] theorem mapCells_regs (s : State) (b : Nat) (f : Nat → Cell → Cell) : (mapCells s b f).regs = s.regs := rfl
@[simp] theorem mapCells_mem (s : State) (b : Nat) (f : Nat → Cell → Cell) : (mapCells s b f).mem = s.mem := rfl
@[simp] theorem mapCells_seqs (s : State) (b : Nat) (f : Nat → Cell → Cell) : (mapCells s b f).seqs = s.seqs := rfl
@[simp] theorem mapCells_cs (s : State) (b : Nat) (f : Nat → Cell → Cell) : (mapCells s b f).cs = s.cs := rfl
@[simp] theorem mapCells_dt (s : State) (b : Nat) (f : Nat → Cell → Cell) : (mapCells s b f).dt = s.dt := rfl
@[simp] theorem mapCells_keys (s : State) (b : Nat) (f : Nat → Cell → Cell) : (mapCells s b f).keys = s.keys := rfl
@[simp] theorem mapCells_csSh (s : State) (b : Nat) (f : Nat → Cell → Cell) : (mapCells s b f).csSh = s.csSh := rfl
@[simp] theorem mapCells_dtSh (s : State) (b : Nat) (f : Nat → Cell → Cell) : (mapCells s b f).dtSh = s.dtSh := rfl
@[simp] theorem mapCells_dtBad (s : State) (b : Nat) (f : Nat → Cell → Cell) : (mapCells s b f).dtBad = s.dtBad := rfl
@[simp] theorem mapCells_flaws (s : State) (b : Nat) (f : Nat → Cell → Cell) : (mapCells s b f).flaws = s.flaws := rfl
@[simp] theorem mapCells_jdead (s : State) (b : Nat) (f : Nat → Cell → Cell) : (mapCells s b f).jdead = s.jdead := rfl
@[simp] theorem mapCells_csFlip (s : State) (b : Nat) (f : Nat → Cell → Cell) : (mapCells s b f).csFlip = s.csFlip := rfl
@[simp] theorem mapCells_pages (s : State) (b : Nat) (f : Nat → Cell → Cell) : (mapCells s b f).pages = s.pages := rfl
@[simp] theorem mapCells_foldHome (s : State) (b : Nat) (f : Nat → Cell → Cell) : (mapCells s b f).foldHome = s.foldHome := rfl
@[simp] theorem mapCells_nclk (s : State) (b : Nat) (f : Nat → Cell → Cell) : (mapCells s b f).nclk = s.nclk := rfl
@[simp] theorem mapCells_cfg (s : State) (b : Nat) (f : Nat → Cell → Cell) : (mapCells s b f).cfg = s.cfg := rfl
@[simp] theorem mapCells_img (s : State) (b : Nat) (f : Nat → Cell → Cell) : (mapCells s b f).img = s.img := rfl
@[simp] theorem mapCells_epochs (s : State) (b : Nat) (f : Nat → Cell → Cell) : (mapCells s b f).epochs = s.epochs := rfl
@[simp] theorem mapCells_host (s : State) (b : Nat) (f : Nat → Cell → Cell) : (mapCells s b f).host = s.host := rfl
@[simp] theorem mapCells_mesh (s : State) (b : Nat) (f : Nat → Cell → Cell) : (mapCells s b f).mesh = s.mesh := rfl
@[simp] theorem mapCells_dram (s : State) (b : Nat) (f : Nat → Cell → Cell) : (mapCells s b f).dram = s.dram := rfl
@[simp] theorem mapCells_dma (s : State) (b : Nat) (f : Nat → Cell → Cell) : (mapCells s b f).dma = s.dma := rfl
@[simp] theorem mapCells_irq (s : State) (b : Nat) (f : Nat → Cell → Cell) : (mapCells s b f).irq = s.irq := rfl
@[simp] theorem mapCells_pwr (s : State) (b : Nat) (f : Nat → Cell → Cell) : (mapCells s b f).pwr = s.pwr := rfl
@[simp] theorem mapCells_sec (s : State) (b : Nat) (f : Nat → Cell → Cell) : (mapCells s b f).sec = s.sec := rfl
@[simp] theorem mapCells_sb (s : State) (b : Nat) (f : Nat → Cell → Cell) : (mapCells s b f).sb = s.sb := rfl
@[simp] theorem mapCells_rein (s : State) (b : Nat) (f : Nat → Cell → Cell) : (mapCells s b f).rein = s.rein := rfl
@[simp] theorem mapCells_dbg (s : State) (b : Nat) (f : Nat → Cell → Cell) : (mapCells s b f).dbg = s.dbg := rfl
@[simp] theorem mapCells_timebase (s : State) (b : Nat) (f : Nat → Cell → Cell) : (mapCells s b f).timebase = s.timebase := rfl
@[simp] theorem mapCells_tbRun (s : State) (b : Nat) (f : Nat → Cell → Cell) : (mapCells s b f).tbRun = s.tbRun := rfl
@[simp] theorem mapCells_powered (s : State) (b : Nat) (f : Nat → Cell → Cell) : (mapCells s b f).powered = s.powered := rfl
@[simp] theorem mapCells_perst (s : State) (b : Nat) (f : Nat → Cell → Cell) : (mapCells s b f).perst = s.perst := rfl
@[simp] theorem mapCells_perstLow (s : State) (b : Nat) (f : Nat → Cell → Cell) : (mapCells s b f).perstLow = s.perstLow := rfl
@[simp] theorem mapCells_testEn (s : State) (b : Nat) (f : Nat → Cell → Cell) : (mapCells s b f).testEn = s.testEn := rfl
@[simp] theorem mapCells_refLost (s : State) (b : Nat) (f : Nat → Cell → Cell) : (mapCells s b f).refLost = s.refLost := rfl
@[simp] theorem mapCells_refPerst (s : State) (b : Nat) (f : Nat → Cell → Cell) : (mapCells s b f).refPerst = s.refPerst := rfl
@[simp] theorem mapCells_thermLatch (s : State) (b : Nat) (f : Nat → Cell → Cell) : (mapCells s b f).thermLatch = s.thermLatch := rfl
@[simp] theorem mapCells_out (s : State) (b : Nat) (f : Nat → Cell → Cell) : (mapCells s b f).out = s.out := rfl
@[simp] theorem mapCells_free (s : State) (b : Nat) (f : Nat → Cell → Cell) : (mapCells s b f).free = s.free := rfl

@[simp] theorem throughSnap_pending (s : State) (a : Nat) (ds : List Nat) : (throughSnap s a ds).pending = s.pending := rfl
@[simp] theorem throughSnap_regs (s : State) (a : Nat) (ds : List Nat) : (throughSnap s a ds).regs = s.regs := rfl
@[simp] theorem throughSnap_mem (s : State) (a : Nat) (ds : List Nat) : (throughSnap s a ds).mem = s.mem := rfl
@[simp] theorem throughSnap_cells (s : State) (a : Nat) (ds : List Nat) : (throughSnap s a ds).cells = s.cells := rfl
@[simp] theorem throughSnap_seqs (s : State) (a : Nat) (ds : List Nat) : (throughSnap s a ds).seqs = s.seqs := rfl
@[simp] theorem throughSnap_cs (s : State) (a : Nat) (ds : List Nat) : (throughSnap s a ds).cs = s.cs := rfl
@[simp] theorem throughSnap_dt (s : State) (a : Nat) (ds : List Nat) : (throughSnap s a ds).dt = s.dt := rfl
@[simp] theorem throughSnap_keys (s : State) (a : Nat) (ds : List Nat) : (throughSnap s a ds).keys = s.keys := rfl
@[simp] theorem throughSnap_csSh (s : State) (a : Nat) (ds : List Nat) : (throughSnap s a ds).csSh = s.csSh := rfl
@[simp] theorem throughSnap_dtSh (s : State) (a : Nat) (ds : List Nat) : (throughSnap s a ds).dtSh = s.dtSh := rfl
@[simp] theorem throughSnap_dtBad (s : State) (a : Nat) (ds : List Nat) : (throughSnap s a ds).dtBad = s.dtBad := rfl
@[simp] theorem throughSnap_flaws (s : State) (a : Nat) (ds : List Nat) : (throughSnap s a ds).flaws = s.flaws := rfl
@[simp] theorem throughSnap_jdead (s : State) (a : Nat) (ds : List Nat) : (throughSnap s a ds).jdead = s.jdead := rfl
@[simp] theorem throughSnap_csFlip (s : State) (a : Nat) (ds : List Nat) : (throughSnap s a ds).csFlip = s.csFlip := rfl
@[simp] theorem throughSnap_pages (s : State) (a : Nat) (ds : List Nat) : (throughSnap s a ds).pages = s.pages := rfl
@[simp] theorem throughSnap_foldHome (s : State) (a : Nat) (ds : List Nat) : (throughSnap s a ds).foldHome = s.foldHome := rfl
@[simp] theorem throughSnap_nclk (s : State) (a : Nat) (ds : List Nat) : (throughSnap s a ds).nclk = s.nclk := rfl
@[simp] theorem throughSnap_cfg (s : State) (a : Nat) (ds : List Nat) : (throughSnap s a ds).cfg = s.cfg := rfl
@[simp] theorem throughSnap_img (s : State) (a : Nat) (ds : List Nat) : (throughSnap s a ds).img = s.img := rfl
@[simp] theorem throughSnap_host (s : State) (a : Nat) (ds : List Nat) : (throughSnap s a ds).host = s.host := rfl
@[simp] theorem throughSnap_mesh (s : State) (a : Nat) (ds : List Nat) : (throughSnap s a ds).mesh = s.mesh := rfl
@[simp] theorem throughSnap_dram (s : State) (a : Nat) (ds : List Nat) : (throughSnap s a ds).dram = s.dram := rfl
@[simp] theorem throughSnap_dma (s : State) (a : Nat) (ds : List Nat) : (throughSnap s a ds).dma = s.dma := rfl
@[simp] theorem throughSnap_irq (s : State) (a : Nat) (ds : List Nat) : (throughSnap s a ds).irq = s.irq := rfl
@[simp] theorem throughSnap_pwr (s : State) (a : Nat) (ds : List Nat) : (throughSnap s a ds).pwr = s.pwr := rfl
@[simp] theorem throughSnap_sec (s : State) (a : Nat) (ds : List Nat) : (throughSnap s a ds).sec = s.sec := rfl
@[simp] theorem throughSnap_sb (s : State) (a : Nat) (ds : List Nat) : (throughSnap s a ds).sb = s.sb := rfl
@[simp] theorem throughSnap_rein (s : State) (a : Nat) (ds : List Nat) : (throughSnap s a ds).rein = s.rein := rfl
@[simp] theorem throughSnap_dbg (s : State) (a : Nat) (ds : List Nat) : (throughSnap s a ds).dbg = s.dbg := rfl
@[simp] theorem throughSnap_timebase (s : State) (a : Nat) (ds : List Nat) : (throughSnap s a ds).timebase = s.timebase := rfl
@[simp] theorem throughSnap_tbRun (s : State) (a : Nat) (ds : List Nat) : (throughSnap s a ds).tbRun = s.tbRun := rfl
@[simp] theorem throughSnap_powered (s : State) (a : Nat) (ds : List Nat) : (throughSnap s a ds).powered = s.powered := rfl
@[simp] theorem throughSnap_perst (s : State) (a : Nat) (ds : List Nat) : (throughSnap s a ds).perst = s.perst := rfl
@[simp] theorem throughSnap_perstLow (s : State) (a : Nat) (ds : List Nat) : (throughSnap s a ds).perstLow = s.perstLow := rfl
@[simp] theorem throughSnap_testEn (s : State) (a : Nat) (ds : List Nat) : (throughSnap s a ds).testEn = s.testEn := rfl
@[simp] theorem throughSnap_refLost (s : State) (a : Nat) (ds : List Nat) : (throughSnap s a ds).refLost = s.refLost := rfl
@[simp] theorem throughSnap_refPerst (s : State) (a : Nat) (ds : List Nat) : (throughSnap s a ds).refPerst = s.refPerst := rfl
@[simp] theorem throughSnap_thermLatch (s : State) (a : Nat) (ds : List Nat) : (throughSnap s a ds).thermLatch = s.thermLatch := rfl
@[simp] theorem throughSnap_out (s : State) (a : Nat) (ds : List Nat) : (throughSnap s a ds).out = s.out := rfl
@[simp] theorem throughSnap_free (s : State) (a : Nat) (ds : List Nat) : (throughSnap s a ds).free = s.free := rfl

end Sys2Proof.Machine
end

