-- ==== Sys2Proof/Laws/Regs.lean ====
section
/-! SUPPORT. Bit fields, registers, hidden sequencer state and memory digits: what each reads as after it is written. -/

namespace Sys2Proof.Machine

/-! ### Bit fields -/

/-- A field just put reads as what was put, cut to its width. -/
theorem bits_putBits_same (v hi lo x : Nat) : bits (putBits v hi lo x) hi lo = x % 2 ^ (hi + 1 - lo) := by
  unfold putBits bits
  set m := 2 ^ (hi + 1 - lo) with hm
  have hl : 0 < 2 ^ lo := Nat.two_pow_pos lo
  have hmp : 0 < m := Nat.two_pow_pos _
  have h1 : v - v / 2 ^ lo % m * 2 ^ lo = v % 2 ^ lo + (v / 2 ^ lo / m * m) * 2 ^ lo := by
    have e1 := Nat.mod_add_div v (2 ^ lo)
    have e2 := Nat.mod_add_div (v / 2 ^ lo) m
    have e3 : v = v % 2 ^ lo + (v / 2 ^ lo % m + m * (v / 2 ^ lo / m)) * 2 ^ lo := by rw [e2]; nlinarith
    have e4 : v % 2 ^ lo + (v / 2 ^ lo % m + m * (v / 2 ^ lo / m)) * 2 ^ lo =
      v % 2 ^ lo + (v / 2 ^ lo / m * m) * 2 ^ lo + v / 2 ^ lo % m * 2 ^ lo := by ring
    omega
  rw [h1, add_assoc, ← add_mul, Nat.add_mul_div_right _ _ hl, Nat.div_eq_of_lt (Nat.mod_lt _ hl), zero_add,
    Nat.add_comm, Nat.add_mul_mod_self_right, Nat.mod_mod]

/-! ### Registers -/

/-- A register just set reads as its low 64 bits. -/
@[simp] theorem rg_setRg_same (s : State) (a v : Nat) : rg (setRg s a v) a = v % 2 ^ 64 := by
  simp [rg, setRg]

/-- Setting a register leaves the others. -/
theorem rg_setRg_other (s : State) {a a' : Nat} (h : a' ≠ a) (v : Nat) : rg (setRg s a v) a' = rg s a' := by
  simp [rg, setRg, mapGet_set_other _ _ h]

theorem rg_setF_other (s : State) {a a' : Nat} (h : a' ≠ a) (f : Fld) (v : Nat) : rg (setF s a f v) a' = rg s a' :=
  rg_setRg_other s h _

theorem rg_setB_other (s : State) {a a' : Nat} (h : a' ≠ a) (f : Fld) (v : Bool) : rg (setB s a f v) a' = rg s a' :=
  rg_setRg_other s h _

/-- A register word has 64 bits. -/
theorem rg_lt (s : State) (a : Nat) : rg s a < 2 ^ 64 := (mapGet (regReset a) a s.regs).isLt

/-- What a register reads depends on the registers alone. -/
theorem rg_congr {s t : State} (h : t.regs = s.regs) (a : Nat) : rg t a = rg s a := by simp [rg, h]

/-! ### Hidden sequencer state -/

@[simp] theorem seqOf_setSeq_same (s : State) (b : Nat) (q : Seq) : seqOf (setSeq s b q) b = q := by
  simp [seqOf, setSeq]

theorem seqOf_setSeq_other (s : State) {b c : Nat} (h : c ≠ b) (q : Seq) : seqOf (setSeq s b q) c = seqOf s c := by
  simp [seqOf, setSeq, mapGet_set_other _ _ h]

@[simp] theorem seqOf_updSeq_same (s : State) (b : Nat) (f : Seq → Seq) : seqOf (updSeq s b f) b = f (seqOf s b) :=
  seqOf_setSeq_same s b _

@[simp] theorem seqOf_setRg (s : State) (a v b : Nat) : seqOf (setRg s a v) b = seqOf s b := rfl
@[simp] theorem seqOf_setF (s : State) (a : Nat) (f : Fld) (v b : Nat) : seqOf (setF s a f v) b = seqOf s b := rfl
@[simp] theorem seqOf_setB (s : State) (a : Nat) (f : Fld) (v : Bool) (b : Nat) : seqOf (setB s a f v) b = seqOf s b := rfl
@[simp] theorem rg_setSeq (s : State) (b : Nat) (q : Seq) (a : Nat) : rg (setSeq s b q) a = rg s a := rfl
@[simp] theorem rg_updSeq (s : State) (b : Nat) (f : Seq → Seq) (a : Nat) : rg (updSeq s b f) a = rg s a := rfl
@[simp] theorem rg_emit (s : State) (o : Out) (a : Nat) : rg (emit s o) a = rg s a := rfl
@[simp] theorem rg_takeFree (s : State) (a : Nat) : rg (takeFree s) a = rg s a := rfl

/-! ### Epoch state -/

@[simp] theorem epochOf_updEpoch_same (s : State) (n : Nat) (f : Epoch → Epoch) :
    epochOf (updEpoch s n f) n = f (epochOf s n) := by simp [epochOf, updEpoch]

theorem epochOf_updEpoch_other (s : State) {n m : Nat} (h : m ≠ n) (f : Epoch → Epoch) :
    epochOf (updEpoch s n f) m = epochOf s m := by simp [epochOf, updEpoch, mapGet_set_other _ _ h]

end Sys2Proof.Machine
end

