-- ==== Sys2Proof/Laws/Issue.lean ====
section
/-! SUPPORT. What issuing and completing an instruction does on a sequencer with nothing else under way. -/

namespace Sys2Proof.Machine

/-- The fields of an instruction word below its opcode are those of the operand. -/
theorem wordOf_field (op : Nat) (w : BitVec 24) (hi lo : Nat) (h : hi < 24) : bits (wordOf op w) hi lo = bits w.toNat hi lo := by
  unfold bits wordOf
  have hw := w.isLt
  have h1 : 2 ^ 24 = 2 ^ (24 - lo) * 2 ^ lo ∨ 24 < lo := by
    by_cases hl : lo ≤ 24
    · left; rw [← pow_add]; congr 1; omega
    · right; omega
  rcases h1 with h1 | h1
  · by_cases hl : lo ≤ hi
    · rw [h1, ← mul_assoc, Nat.mul_comm (op * _), Nat.mul_add_div (Nat.two_pow_pos lo)]
      have : 2 ^ (24 - lo) = 2 ^ (23 - hi) * 2 ^ (hi + 1 - lo) := by rw [← pow_add]; congr 1; omega
      rw [this, ← mul_assoc, Nat.add_mod, Nat.mul_mod_left, Nat.zero_add, Nat.mod_mod]
    · have : hi + 1 - lo = 0 := by omega
      simp [this, Nat.mod_one]
  · have : hi + 1 - lo = 0 := by omega
    simp [this, Nat.mod_one]

/-- A register of R271's numbers stands in the register file of its block. -/
theorem idAddr_range (b id : Nat) (h : id < 0xE0) : 0x710000 + bwin b ≤ idAddr b id ∧ idAddr b id < 0x710E00 + bwin b := by
  unfold idAddr
  split_ifs <;> simp only [R.WREG, R.GREG, R.AREG, R.MREG] <;> omega

theorem regId_lt (s : State) (b r : Nat) : regId s b r < 0xE0 := by
  unfold regId winReg
  split_ifs <;> omega

/-- Writing a register field leaves every register outside the register file. -/
theorem rg_wr_other (s : State) (b r v a : Nat) (h : a < 0x710000 + bwin b ∨ 0x710E00 + bwin b ≤ a) :
    rg (wr s b r v) a = rg s a := by
  have hr := idAddr_range b (regId s b r) (regId_lt s b r)
  unfold wr writeId
  split_ifs
  · rfl
  · exact rg_setRg_other _ (by omega) _
  · exact rg_setRg_other _ (by omega) _

theorem seqOf_wr (s : State) (b r v c : Nat) : seqOf (wr s b r v) c = seqOf s c := by
  unfold wr writeId
  split_ifs <;> rfl

theorem examined_congr (s t : State) (b : Nat) (h1 : rg t (R.LSTAT b) = rg s (R.LSTAT b)) (h2 : rg t (R.PSR b) = rg s (R.PSR b)) :
    examined t b = examined s b := by
  unfold examined loopAct rgF
  rw [h1, h2]

/-- Completing an instruction that left the sequencer's own state alone only steps the program counter. -/
theorem finish_plain (s s' : State) (b : Nat) (hp : s.plain b = true) (hq : seqOf s' b = seqOf s b)
    (h1 : rg s' (R.LSTAT b) = rg s (R.LSTAT b)) (h2 : rg s' (R.PSR b) = rg s (R.PSR b))
    (h3 : rg s' (R.DBG_PC b) = rg s (R.DBG_PC b)) : endStep (finish s s' b .next) b = setPc s' b (pcOf s b + 8) := by
  simp only [State.plain, Bool.and_eq_true, Bool.not_eq_true', List.isEmpty_iff] at hp
  obtain ⟨⟨⟨⟨⟨⟨⟨⟨⟨_, _⟩, _⟩, _⟩, hl⟩, he⟩, hr⟩, hst⟩, _⟩, _⟩ := hp
  have hl' : ageLoads s' b = s' := by simp [ageLoads, hq, hl]
  have hr' : rgB s' (R.PSR b) R.PSR_REPF = false := by simp only [rgB, rgF, h2] at hr ⊢; exact hr
  have hx : examined s' b = [] := by rw [examined_congr s s' b h1 h2, he]
  have hpc : pcOf s' b = pcOf s b := by simp [pcOf, rgF, h3]
  have hret : finish s s' b .next = setPc s' b (pcOf s b + 8) := by
    simp [finish, retire, hl', hr', stepPc, hx, loopEnd, hpc]
  rw [hret]
  have : seqOf (setPc s' b (pcOf s b + 8)) b = seqOf s b := by rw [← hq]; rfl
  simp [endStep, this, hst]

/-- While no upset has struck a memory, what an instruction reads reaches it and the check changes nothing. -/
theorem reading_clean (s : State) (b a n : Nat) (f : State → State × Flow) (h : s.flaws = []) : reading s b a n f = f s := by
  simp [reading, memCheck, h]

/-- The same for its fetch. -/
theorem fetched_clean (s : State) (b pc : Nat) (f : State → State × Flow) (h : s.flaws = []) : fetched s b pc f = f s := by
  simp [fetched, fetchLine, h]

/-- Such a sequencer carries the instruction's body out and completes it. -/
theorem issue_plain (s : State) (b w : Nat) (regs : List Nat) (noRep : Bool) (body : State → State × Flow)
    (hp : s.plain b = true) (s' : State) (hb : body s = (s', .next)) :
    issue s b w regs noRep body = endStep (finish s s' b .next) b := by
  have hp' := hp
  simp only [State.plain, Bool.and_eq_true, Bool.not_eq_true', List.isEmpty_iff] at hp'
  obtain ⟨⟨⟨⟨⟨⟨⟨⟨⟨hc, hn⟩, hok⟩, hx⟩, hl⟩, he⟩, hr⟩, hst⟩, hf⟩, _⟩ := hp'
  have hok2 : pcOf s b ≤ 0x7FFF8 ∧ pcOf s b % 8 = 0 := by
    simp [pcOk] at hok; omega
  unfold issue
  rw [if_neg (by simp [hc, hn])]
  simp only
  rw [if_neg (by omega), if_neg (by omega), if_neg (by simp [hx]), fetched_clean s b _ body hf, hb]
  simp [hr]

/-- Completing an instruction that only wrote a register field. -/
theorem wr_plain (s : State) (b r v : Nat) (hp : s.plain b = true) :
    endStep (finish s (wr s b r v) b .next) b = setPc (wr s b r v) b (pcOf s b + 8) := by
  apply finish_plain s _ b hp (seqOf_wr ..)
  all_goals
    apply rg_wr_other
    simp only [R.LSTAT, R.PSR, R.DBG_PC]; omega

/-- What a REG instruction with a legal FN does on a sequencer that issues with nothing else under way. -/
theorem reg_plain (s : State) (b : Nat) (op : Nat) (w : BitVec 24) (uz : Bool) (ok : Nat → Bool) (f : Nat → Nat → Nat → Nat → Nat)
    (hp : s.plain b = true) (hok : ok (fFN w.toNat) = true) (hu : uz = true → fU w.toNat = 0) (v : BitVec 64)
    (hv : f (rd s b (fS w.toNat)) (rd s b (fU w.toNat)) (fFN w.toNat) (rd s b (fD w.toNat)) = v.toNat) :
    issueReg s b (wordOf op w) uz ok f = s.withResult b (fD w.toNat) v := by
  have e1 : fFN (wordOf op w) = fFN w.toNat := wordOf_field op w 5 0 (by omega)
  have e2 : fU (wordOf op w) = fU w.toNat := wordOf_field op w 11 6 (by omega)
  have e3 : fS (wordOf op w) = fS w.toNat := wordOf_field op w 17 12 (by omega)
  have e4 : fD (wordOf op w) = fD w.toNat := wordOf_field op w 23 18 (by omega)
  unfold issueReg
  rw [issue_plain s b _ _ _ _ hp (wr s b (fD w.toNat) v.toNat) ?_]
  · exact wr_plain s b _ _ hp
  · unfold regOp
    rw [e1, e2, e3, e4, hv, if_neg]
    cases uz <;> simp_all

theorem readId_lt (s : State) (b i : Nat) : readId s b i < 2 ^ 64 := by
  unfold readId; split_ifs
  · simp
  · exact rg_lt s _

theorem rd_lt (s : State) (b r : Nat) : rd s b r < 2 ^ 64 := readId_lt s b _

theorem regBits_toNat (s : State) (b r : Nat) : (s.regBits b r).toNat = rd s b r := by
  rw [State.regBits, BitVec.toNat_ofNat, Nat.mod_eq_of_lt (rd_lt s b r)]


end Sys2Proof.Machine
end

