-- ==== Sys2Proof/WellFormed.lean ====
section
/-! DEFINITION. The limits the spec gives the commands' operands beyond what their types say. -/

namespace Sys2Proof

/-- A register's digit address: registers stand at multiples of 16 (R4). -/
def regAligned (a : Addr) : Bool := a.toNat % 16 == 0

/-- Whether a command's operands are within the limits of the rule that names it. -/
def Instr.wellFormed (c : Instr) : Bool :=
  match c with
  | .registerWrite _ a _ _ => regAligned a
  | .consumeRead _ a => regAligned a
  | .hostMemoryRead _ _ _ len => decide (1 ≤ len.toNat) && decide (len.toNat ≤ 4096)
  | .hostMemoryWrite _ _ _ data => decide (1 ≤ data.length) && decide (data.length ≤ 512)
  | .keyByteWrite _ _ data _ => decide (1 ≤ data.length) && decide (data.length ≤ 8)
  | .warning code _ _ => decide (1 ≤ code.val)
  | .powerRequest _ target => decide (target.toNat ≤ 5)
  | .dispatchFrame m => decide (m.pattern.length ≤ 253)
  | _ => true

end Sys2Proof
end

