-- ==== Sys2Proof/Tests/Slice0.lean ====
section
/-! SUPPORT. Tests: for each statement with hypotheses a theorem named after it whose states and operands meet them, each
clause at a boundary value where the clause has one, and an ill-formed term that each check of WellFormed refuses. -/

namespace Sys2Proof.Tests

-- One theorem after the other: the evaluations side by side need too much memory.
set_option Elab.async false

open Sys2Proof Sys2Proof.Machine

/-! ### Small states -/

/-- s with the registers of a list at the values given. -/
def withRegs (s : State) (l : List (Nat × Nat)) : State := l.foldl (fun s e => setRg s e.1 e.2) s

/-- Region 0 is released to partition 0, an INDEPENDENT one, and block 0's sequencer runs a program from PC 0; its
registers take the values of a list. -/
def runs (l : List (Nat × Nat)) : State :=
  withRegs { perst := false, perstLow := false, tbRun := true, cfg := { parts := [(0, { indep := true })] },
             seqs := [(0, { inProg := true })] }
    ([(R.IMG_STATUS, 0x0001FFFE00000000), (R.PC_DOM 0, 0x00080000)] ++ l)

/-- The same with another hidden state of block 0's sequencer. -/
def runsSeq (l : List (Nat × Nat)) (q : Seq) : State := setSeq (runs l) 0 { q with inProg := true }

/-- The operand word of a REG instruction (R236). -/
def reg (d s u fn : Nat) : BitVec 24 := BitVec.ofNat 24 (d * 2 ^ 18 + s * 2 ^ 12 + u * 2 ^ 6 + fn)

/-- That of a MEM instruction. -/
def mem (r a am n off : Nat) : BitVec 24 := BitVec.ofNat 24 (r * 2 ^ 18 + a * 2 ^ 15 + am * 2 ^ 13 + (n - 1) * 2 ^ 9 + off)

/-- That of an IMM instruction. -/
def imm (d s i : Nat) : BitVec 24 := BitVec.ofNat 24 (d * 2 ^ 18 + s * 2 ^ 12 + i)

/-- That of an array, decimal or record instruction (R123): D, S, U and OPT. -/
def arr (d s u opt : Nat) : BitVec 24 := BitVec.ofNat 24 (d * 2 ^ 19 + s * 2 ^ 14 + u * 2 ^ 9 + opt)

/-- A field descriptor (R124, R161): BASE, LEN, KIND and ND. -/
def field (base len kind nd : Nat) : Nat := base + len * 2 ^ 11 + kind * 2 ^ 24 + nd * 2 ^ 32

/-- Block 0 with w1, w2, w3 at the values given and a work area of planes 1500 to 1999. -/
def runsArr (d s u : Nat) : State :=
  runs [(R.WREG 0 1, d), (R.WREG 0 2, s), (R.WREG 0 3, u), (R.DCTL 0, 0xAB00000000000000 + 500 * 2 ^ 43 + 1500 * 2 ^ 32)]

/-- The context of such an instruction of block 0. -/
def ctx (s : State) (op : Nat) (w : BitVec 24) : ACtx := freshCtx s 0 (wordOf op w)

/-- s with one mesh request in flight. -/
def asks (s : State) (q : MeshReq) : State := { s with mesh := { s.mesh with flight := [q], nextId := q.id + 1 } }

/-- A register value with one field. -/
def fld (f : Fld) (v : Nat) : Nat := putBits 0 f.hi f.lo v

/-- Region 0 is released to partition 0, a LOCKSTEP one, whose lead runs a program. -/
def runsAll (l : List (Nat × Nat)) : State :=
  { runs ((List.range 8).map (fun b => (R.PC_DOM b, 0x00080000)) ++ l) with cfg := { parts := [(0, {})] } }

/-- Device me of a cascade of two in a row whose lead is device lead, with partition 0 as its cascade partition. -/
def member (me lead : Nat) (l : List (Nat × Nat)) (r : ReinSt) : State :=
  { withRegs { perst := false, perstLow := false, tbRun := true,
               cfg := { parts := [(0, {})], cascade := { role := 1, w := 1 } } }
      ([(R.IMG_STATUS, 0x0001FFFE00000000), (R.EP_STAT 0, fld R.EP_STAT_STATE 1),
        (R.REIN_ID, fld R.REIN_ID_DEVIDX me + fld R.REIN_ID_LEADIDX lead)] ++ l) with rein := r }

/-! ### Hypotheses that can be met: the scalar instructions -/

theorem meets_ScalarLogicAndShiftResults : (runs []).plain 0 = true ∧ fFN (reg 63 31 47 0).toNat = 0 := by decide

theorem meets_ScalarArithmeticResults : (runs []).plain 0 = true ∧ fFN (reg 1 2 3 0).toNat = 0 ∧ fFN (reg 1 2 3 1).toNat = 1
    ∧ fFN (reg 1 2 3 9).toNat ≤ 9 ∧ (fFN (reg 1 2 0 0).toNat = 0 ∧ fU (reg 1 2 0 0).toNat = 0) := by decide

theorem meets_ScalarImmediateResults : (runs []).plain 0 = true ∧ fFN (reg 1 2 3 0).toNat = 0 ∧ (imm 1 2 63).toNat % 4096 < 64
    ∧ (imm 1 2 0x9FF).toNat % 4096 / 256 ≤ 9 := by decide

theorem meets_NibbleCarriesAndAdjust : (runs []).plain 0 = true
    ∧ (fFN (reg 1 2 0 0).toNat = 0 ∧ fU (reg 1 2 0 0).toNat = 0) ∧ (fFN (reg 1 2 0 1).toNat = 1 ∧ fU (reg 1 2 0 1).toNat = 0)
    ∧ 15 < 16 := by decide

theorem meets_ScalarIntegerFrame : (runs []).plain 0 = true
    ∧ integerForm (.rem 0 (reg 1 2 3 1)) = some (0x0E, 0, reg 1 2 3 1, true)
    ∧ (∃ t, exec (.rem 0 (reg 1 2 3 1)) (runs []) = .next t)
    ∧ integerForm (.sub 0 (reg 1 2 3 1)) = some (0x02, 0, reg 1 2 3 1, false) :=
  ⟨by decide, by decide, ⟨_, rfl⟩, by decide⟩

theorem meets_IntegerCorners :
    let s := runs [(R.GREG 0 1, 2 ^ 63), (R.GREG 0 2, 2 ^ 64 - 1)]
    s.plain 0 = true ∧ integerForm (.add 0 (reg 1 2 3 0)) = some (0x01, 0, reg 1 2 3 0, true)
    ∧ (fFN (reg 1 33 32 1).toNat ≤ 1 ∧ s.regBits 0 (fU (reg 1 33 32 1).toNat) = 0)
    ∧ (fFN (reg 1 33 34 0).toNat = 0 ∧ s.regBits 0 (fS (reg 1 33 34 0).toNat) = BitVec.intMin 64
      ∧ s.regBits 0 (fU (reg 1 33 34 0).toNat) = BitVec.allOnes 64) := by decide

theorem meets_LocalLoads :
    let s := runs [(R.AREG 0 0, 0x7FFF0), (R.AREG 0 1, 0x100000)]
    let w := mem 49 0 0 16 0
    let v := mem 33 1 1 1 0
    s.plain 0 = true ∧ ((memOp s 0 w.toNat).ok = true ∧ localOk (memOp s 0 w.toNat).ea (memOp s 0 w.toNat).n = true
      ∧ (memOp s 0 w.toNat).after.isSome = false)
    ∧ ((memOp s 0 v.toNat).ok = true ∧ localOk (memOp s 0 v.toNat).ea (memOp s 0 v.toNat).n = true
      ∧ (memOp s 0 v.toNat).after.isSome = true ∧ fD v.toNat ≠ 48 + (memOp s 0 v.toNat).areg)
    ∧ (48 ≤ fU (reg 33 0 48 15).toNat ∧ fU (reg 33 0 48 15).toNat < 56 ∧ fS (reg 33 0 48 15).toNat = 0
      ∧ fFN (reg 33 0 48 15).toNat < 16 ∧ localOk (s.regBits 0 (fU (reg 33 0 48 15).toNat)).toNat 16 = true)
    ∧ (let l : PendLoad := ⟨0xC1, 5, 1⟩
       s.plain 0 = true ∧ fFN (reg 33 34 35 0).toNat = 0 ∧ l.reg < 0xD0 ∧ l.reg ≠ 0xC0 ∧ l.slots = 1) := by decide

theorem meets_LocalStores :
    let l := [(R.AREG 0 0, 0x7FFF0), (R.AREG 0 1, 0x80000), (R.PSR 0, 0)]
    let s := runs l
    let r := runsSeq l { resv := some (bwin 0 + 0x7FFE0, 32) }
    let w := mem 49 0 0 16 0
    let v := mem 49 1 0 1 0
    let u := reg 33 34 48 15
    s.plain 0 = true ∧ r.plain 0 = true
    ∧ ((memOp s 0 w.toNat).ok = true ∧ localOk (memOp s 0 w.toNat).ea (memOp s 0 w.toNat).n = true)
    ∧ ((memOp s 0 v.toNat).ok = true ∧ localOk (memOp s 0 v.toNat).ea (memOp s 0 v.toNat).n = false)
    ∧ (48 ≤ fU u.toNat ∧ fU u.toNat < 56 ∧ fFN u.toNat < 16 ∧ localOk (s.regBits 0 (fU u.toNat)).toNat 16 = true
      ∧ resvCovers s 0 (s.regBits 0 (fU u.toNat)).toNat 16 = false
      ∧ resvCovers r 0 (r.regBits 0 (fU u.toNat)).toNat 16 = true) := by decide

theorem meets_MeshAccess :
    let s (n : Nat) : State := runs [(R.GREG 0 1, 2 ^ 48 - 16), (R.MKEY 0, putBits 0 R.MKEY_OUTST.hi R.MKEY_OUTST.lo n)]
    (s 7).plain 0 = true ∧ (s 8).plain 0 = true ∧ outst (s 7) 0 < 8 ∧ 8 ≤ outst (s 8) 0 ∧ outst (s 0) 0 = 0 ∧ (s 0).plain 0 = true
    ∧ (fU (reg 34 33 0 15).toNat = 0 ∧ fFN (reg 34 33 0 15).toNat < 32 ∧ rd (s 7) 0 (fS (reg 34 33 0 15).toNat) < 2 ^ 48
      ∧ meshAligned (rd (s 7) 0 (fS (reg 34 33 0 15).toNat)) 16 = true)
    ∧ (fD (reg 0 33 34 15).toNat = 0 ∧ fFN (reg 0 33 34 15).toNat < 16) ∧ ownDevice (s 7) (2 ^ 48 - 16) = false := by decide

theorem meets_BranchesAndJumps :
    let s := runs [(R.DBG_PC 0, 0x7FFF8), (R.GREG 0 1, 1)]
    s.plain 0 = true ∧ pcOk ((0x7FFF8 : Int) + 8 * ((BitVec.ofNat 24 0x3FFFF).setWidth 18).toInt) = true
    ∧ pcOf s 0 = 0x7FFF8 ∧ s.regBits 0 32 = 0 ∧ s.regBits 0 33 ≠ 0
    ∧ pcOk ((0x7FFF8 : Int) + 8 * (BitVec.ofNat 24 0xFFFFFF).toInt) = true
    ∧ pcOk ((0x7FFF8 : Int) + 8 * (BitVec.ofNat 24 1).toInt) = false
    ∧ (fD (reg 0 32 0 0).toNat = 0 ∧ fU (reg 0 32 0 0).toNat = 0 ∧ fFN (reg 0 32 0 0).toNat = 0
      ∧ pcOk ((s.regBits 0 32).toNat : Int) = true) := by decide

theorem meets_CallsAndReturns :
    let psr (depth resf curf : Nat) : Nat := fld R.PSR_DEPTH depth + fld R.PSR_RESF resf + fld R.PSR_CURF curf
    let stk (csp isp : Nat) : Nat := fld R.STKP_CSP (csp / 16) + fld R.STKP_ISP (isp / 16)
    let w : BitVec 24 := BitVec.ofNat 24 (0xFFFE * 256 + 32 * 4)
    let s := runs [(R.PSR 0, psr 4094 9 11), (R.STKP 0, stk 0x100 0)]
    let r := runs [(R.PSR 0, psr 1 2 11), (R.STKP 0, stk 0x7FFF0 0x7FF80)]
    let bad := { r with mem := memWrite [] (bwin 0 + 0x7FFFF) [1] }
    let cold := { runs [(R.PSR 0, psr 1 0 11), (R.STKP 0, stk 0x7FFF0 0x7FF80)] with mem := bad.mem }
    let out := runs [(R.PSR 0, psr 0 2 11), (R.STKP 0, stk 0x7FFF0 0)]
    (s.plain 0 = true ∧ bits w.toNat 1 0 = 0 ∧ (bits w.toNat 23 8).testBit 0 = false ∧ bits w.toNat 7 2 < 48
      ∧ pcOk (rd s 0 (bits w.toNat 7 2)) = true ∧ 16 * (1 + popMask (bits w.toNat 23 8)) ≤ 16 * rgF s (R.STKP 0) R.STKP_CSP
      ∧ 16 * rgF s (R.STKP 0) R.STKP_CSP ≤ 0x80000 ∧ rgF s (R.PSR 0) R.PSR_RESF ≤ 9 ∧ rgF s (R.PSR 0) R.PSR_CURF < 12
      ∧ rgF s (R.PSR 0) R.PSR_DEPTH < 4095)
    ∧ (r.plain 0 = true ∧ 0 < rgF r (R.PSR 0) R.PSR_DEPTH ∧ 16 * rgF r (R.STKP 0) R.STKP_CSP + 16 ≤ 0x80000
      ∧ spWord r 0 0x7FFF0 = 0 ∧ 1 ≤ rgF r (R.PSR 0) R.PSR_RESF ∧ rgF r (R.PSR 0) R.PSR_CURF < 12 ∧ pcOk (bits 0 19 0 : Nat) = true)
    ∧ (bad.plain 0 = true ∧ cold.plain 0 = true ∧ spWord bad 0 0x7FFF0 = 1 ∧ spWord cold 0 0x7FFF0 = 1 ∧ pcOk (bits 1 19 0 : Nat) = false
      ∧ 1 ≤ rgF bad (R.PSR 0) R.PSR_RESF ∧ rgF cold (R.PSR 0) R.PSR_RESF = 0 ∧ 0 < rgF cold (R.PSR 0) R.PSR_DEPTH
      ∧ rgF cold (R.WSTK 0) R.WSTK_WSP < 0x800)
    ∧ ((runs []).plain 0 = true ∧ 0x80000 < 16 * rgF (runs []) (R.STKP 0) R.STKP_CSP + 16)
    ∧ (out.plain 0 = true ∧ rgF out (R.PSR 0) R.PSR_DEPTH = 0 ∧ spWord out 0 0x7FFF0 = 0
      ∧ 16 * rgF out (R.STKP 0) R.STKP_CSP + 16 * (1 + popMask 0) = 0x80000 ∧ 1 ≤ rgF out (R.PSR 0) R.PSR_RESF)
    ∧ (16 * rgF r (R.STKP 0) R.STKP_ISP = 0x7FF80 ∧ 0x7FF80 + 16 * 8 ≤ 0x80000 ∧ spWord r 0 0x7FF80 = 0
      ∧ 2 ≤ rgF r (R.PSR 0) R.PSR_RESF ∧ (seqOf r 0).susp = none ∧ (spWord r 0 (0x7FF80 + 64)).testBit 63 = false
      ∧ (spWord r 0 (0x7FF80 + 96)).testBit 63 = false) := by decide

theorem meets_LoopsAndRepetition :
    let s (pc : Nat) : State := runs [(R.DBG_PC 0, pc), (R.LSTAT 0, 7 + 2 ^ 16 + 2 ^ 28 + 2 ^ 40), (R.GREG 0 1, 2 ^ 32 - 1), (R.GREG 0 2, 4095)]
    (s 0x7FFF0).plain 0 = true ∧ (List.range 4).find? (fun k => !loopAct (s 0x7FFF0) 0 k) = some 3
    ∧ (bits (imm 33 0 1).toNat 17 16 = 0 ∧ imm16 (imm 33 0 1).toNat ≠ 0 ∧ pcOf (s 0x7FFF0) 0 + 8 * imm16 (imm 33 0 1).toNat ≤ 0x7FFF8
      ∧ rd (s 0x7FFF0) 0 (fD (imm 33 0 1).toNat) % 2 ^ 32 ≠ 0)
    ∧ (rd (s 0) 0 (fD (imm 32 0 1).toNat) % 2 ^ 32 = 0 ∧ (s 0x7FFE8).plain 0 = true
      ∧ pcOf (s 0x7FFE8) 0 + 8 * imm16 (imm 32 0 1).toNat < 0x7FFF8)
    ∧ (bits (BitVec.ofNat 24 0xFFF001).toNat 11 0 ≠ 0 ∧ pcOf (s 0x7FFF0) 0 + 8 * bits (BitVec.ofNat 24 0xFFF001).toNat 11 0 ≤ 0x7FFF8
      ∧ bits (BitVec.ofNat 24 0xFFF001).toNat 23 12 ≠ 0)
    ∧ (bits (BitVec.ofNat 24 0xFFF000).toNat 11 0 = 0)
    ∧ (fD (reg 0 34 0 0).toNat = 0 ∧ fU (reg 0 34 0 0).toNat = 0 ∧ fFN (reg 0 34 0 0).toNat = 0
      ∧ rd (s 0) 0 (fS (reg 0 34 0 0).toNat) % 4096 ≠ 0 ∧ rd (s 0) 0 (fS (reg 0 32 0 0).toNat) % 4096 = 0)
    ∧ (fFN (reg 33 34 35 0).toNat = 0 ∧ 2 ≤ 4095 ∧ 4095 < 4096) := by decide

theorem meets_Entries :
    let s := runs []
    let i := runs [(R.PSR 0, fld R.PSR_IE 1), (R.BIC_PEND 0, 2 ^ 63), (R.BIC_MASK 0, 0)]
    let m := runsSeq [] { meshTraps := [(5, 0)] }
    let f := { runs [(R.PSR 0, fld R.PSR_IE 1)] with
      cfg := { parts := [(0, { indep := true })], cascade := { role := 1, w := 1 } }, rein := { fwd := [(1, 127, 63), (2, 0, 0)] } }
    (s.plain 0 = true ∧ s.entryReady 0 = true ∧ bits (imm 0 0 0xFFF).toNat 23 16 = 0
      ∧ rgB s (R.DBG_CTRL 0) R.DBG_CTRL_BKPTEN = false ∧ assignedOp 0x15 = false ∧ patched s 0x15 = false ∧ patched s 0xCF = false
      ∧ assignedOp 0xCF = false ∧ assignedOp 0x14 = true)
    ∧ (atBoundary i 0 = true ∧ i.entryReady 0 = true ∧ (seqOf i 0).stepping = false ∧ (seqOf i 0).waiting = false
      ∧ haltPending i 0 = false ∧ (seqOf i 0).susp = none ∧ rgB i (R.PSR 0) R.PSR_IE = true ∧ (seqOf i 0).meshTraps = []
      ∧ irqFor i 0 = some (0, 63))
    ∧ (atBoundary m 0 = true ∧ m.entryReady 0 = true ∧ (seqOf m 0).stepping = false ∧ (seqOf m 0).waiting = false
      ∧ haltPending m 0 = false ∧ (seqOf m 0).susp = none ∧ (seqOf m 0).meshTraps = [(5, 0)] ∧ rgB m (R.PSR 0) R.PSR_IE = false)
    ∧ (atBoundary f 0 = true ∧ f.entryReady 0 = true ∧ (seqOf f 0).stepping = false ∧ (seqOf f 0).waiting = false
      ∧ haltPending f 0 = false ∧ (seqOf f 0).susp = none ∧ rgB f (R.PSR 0) R.PSR_IE = true ∧ (seqOf f 0).meshTraps = []
      ∧ irqFor f 0 = none ∧ fwdFor f 0 = [(1, 127, 63), (2, 0, 0)]) := by
  decide

theorem meets_HaltsAndWaits :
    let s := runs [(R.DBG_CTRL 0, putBits 0xF0 R.DBG_CTRL_BKPTEN.hi R.DBG_CTRL_BKPTEN.lo 1)]
    let h := runs [(R.DBG_CTRL 0, putBits 0xF0 R.DBG_CTRL_HALTREQ.hi R.DBG_CTRL_HALTREQ.lo 1)]
    let p := runs [(R.BIC_PEND 0, 1), (R.BIC_MASK 0, 2 ^ 64 - 2)]
    let q := runsSeq [(R.BIC_PEND 0, 1), (R.BIC_MASK 0, 2 ^ 64 - 2)] { waiting := true }
    let fwd (s : State) : State := { s with cfg := { parts := [(0, { indep := true })], cascade := { role := 1, w := 1 } }, rein := { fwd := [(1, 127, 63)] } }
    let f := fwd (runsSeq [] { waiting := true })
    (s.plain 0 = true ∧ bits (imm 0 0 1).toNat 23 16 = 0 ∧ rgB s (R.DBG_CTRL 0) R.DBG_CTRL_BKPTEN = true)
    ∧ (atBoundary h 0 = true ∧ haltPending h 0 = true)
    ∧ (p.plain 0 = true ∧ irqPending p 0 = true) ∧ (irqPending s 0 = false ∧ fwdFor s 0 = [])
    ∧ ((fwd (runs [])).plain 0 = true ∧ fwdFor (fwd (runs [])) 0 ≠ [] ∧ irqPending (fwd (runs [])) 0 = false)
    ∧ (executing f 0 = true ∧ (seqOf f 0).waiting = true ∧ (seqOf f 0).epochReq = false ∧ (seqOf f 0).epochStop = false ∧ fwdFor f 0 ≠ []
      ∧ (seqOf f 0).loads = [] ∧ (seqOf f 0).exit = none ∧ (seqOf f 0).stepping = false ∧ examined f 0 = []
      ∧ rgB f (R.PSR 0) R.PSR_REPF = false)
    ∧ (executing q 0 = true ∧ (seqOf q 0).waiting = true ∧ (seqOf q 0).epochReq = false ∧ (seqOf q 0).epochStop = false
      ∧ irqPending q 0 = true ∧ (seqOf q 0).loads = [] ∧ (seqOf q 0).exit = none ∧ (seqOf q 0).stepping = false
      ∧ examined q 0 = [] ∧ rgB q (R.PSR 0) R.PSR_REPF = false) := by decide

theorem meets_ControlRegisters :
    let s := runs [(R.GREG 0 1, 2 ^ 64 - 17)]
    s.plain 0 = true ∧ (fS (reg 33 0 0 9).toNat = 0 ∧ fU (reg 33 0 0 9).toNat = 0 ∧ ctlAddr 0 9 = some (R.REPC 0))
    ∧ (fD (reg 0 33 0 0x23).toNat = 0 ∧ ctlAddr 0 0x23 = some (R.ARR_SUSP 0)
      ∧ (rd s 0 (fS (reg 0 33 0 0x23).toNat)).testBit 4 = false ∧ examined (mtcWrite s 0 0x23 (2 ^ 64 - 17)) 0 = []
      ∧ rgB (mtcWrite s 0 0x23 (2 ^ 64 - 17)) (R.PSR 0) R.PSR_REPF = false)
    ∧ (ctlAddr 0 0x1C = some (R.LSTAT 0) ∧ 0x1C ≠ 0x30) ∧ fFN (reg 0 33 0 0x30).toNat = 0x30
    ∧ (ctlAddr 0 0x31 = none ∧ fS (reg 33 0 0 0x31).toNat = 0) := by decide

theorem meets_ScalarPackedResults :
    let s := runs [(R.GREG 0 1, 0x999999999999999C), (R.GREG 0 2, 0x1D), (R.GREG 0 3, 0xA), (R.GREG 0 4, 0x9999999999999999),
      (R.GREG 0 5, 15), (R.GREG 0 6, 2 ^ 64 - 15), (R.GREG 0 7, 0x99)]
    let dctl := rg s (R.DCTL 0)
    s.plain 0 = true
    ∧ (packedVal dctl (rd s 0 33) 15 = some (false, 999999999999999) ∧ packedVal dctl (rd s 0 34) 15 = some (true, 1)
      ∧ fFN (reg 35 33 34 0).toNat = 0 ∧ fFN (reg 35 33 34 5).toNat < 6)
    ∧ (packedVal dctl (rd s 0 36) 15 = none ∧ fU (reg 35 33 0 1).toNat = 0 ∧ fFN (reg 35 33 0 1).toNat = 1)
    ∧ (bcdVal 16 (rd s 0 36) = some 9999999999999999 ∧ bcdVal 1 (rd s 0 39) = some 9 ∧ bcdVal 1 (rd s 0 39 / 16) = some 9)
    ∧ (0 ≤ sgn 64 (rd s 0 37) ∧ sgn 64 (rd s 0 37) < 16) ∧ (sgn 64 (rd s 0 38) < 0 ∧ -16 < sgn 64 (rd s 0 38))
    ∧ (bcdVal 16 0x9999999999999999 = some 9999999999999999 ∧ bcdVal 16 1 = some 1) := by decide

theorem meets_ScalarFloatResults :
    let s := runs [(R.GREG 0 2, 0x1A)]
    s.plain 0 = true ∧ fFN (reg 46 44 42 1).toNat ≤ 1 ∧ decRegOk true 46 = true ∧ decRegOk true 30 = true ∧ decRegOk false 47 = true
    ∧ (bits (reg 46 44 42 0x1D).toNat 3 1 ≠ 7 ∧ (reg 46 44 42 0x1D).getLsbD 5 = false)
    ∧ (cvtOk (reg 36 34 0 0).toNat = true ∧ (cvtVal s 0 (reg 36 34 0 0).toNat).1.isSome = true)
    ∧ (cvtOk (reg 36 34 0 4).toNat = true ∧ (rd s 0 34).testBit 3 = true ∧ (cvtVal (runs [(R.GREG 0 2, 0xAC)]) 0 (reg 36 34 0 4).toNat).1 = none)
    ∧ dAdd (decFmt false) 0 (.fin false 1 0) (.fin true 3 (-1)) = (.fin false 7 (-1), 0) := by decide

theorem meets_DecimalEncodingsAgree : 9999999999999999 < 10 ^ (decFmt false).p ∧ (decFmt false).etiny ≤ (decFmt false).qmax
    ∧ (decFmt true).etiny ≤ (decFmt true).qmax
    ∧ (99 < 10 ^ 2 ∧ signMinus 0xAB0000000A000000 (bits 0xAB0000000A000000 63 60) = some false
      ∧ signMinus 0xAB0000000A000000 (bits 0xAB0000000A000000 59 56) = some true) := by decide

/-! ### Array instructions -/

theorem meets_ArrayBinaryResults :
    let s := runsArr (field 0 2031 0 0) (field 2040 7 0 0) (field 2032 8 0 0)
    let t := runsArr (field 0 16 0 0) (field 16 8 0 0) (field 24 8 0 0)
    s.arrPlain 0 = true ∧ t.arrPlain 0 = true ∧ addOk (ctx s 0x88 (arr 1 2 3 1)) true = true
    ∧ addOk (ctx s 0x8A (arr 1 2 0 1)) false = true ∧ mulOk (ctx t 0x8B (arr 1 2 3 1)) 1 = true
    ∧ mulOk (ctx t 0x8C (arr 1 2 3 3)) 3 = true ∧ addOk (ctx s 0x88 (arr 0 2 3 0)) true = false
    ∧ (binOk (ctx s 0x8D (arr 0 2 3 13)).s = true ∧ binOk (ctx s 0x8D (arr 0 2 3 13)).u = true ∧ aD (arr 0 2 3 13).toNat = 0
      ∧ optIn (wordOf 0x8D (arr 0 2 3 13)) 15 = true ∧ (arr 0 2 3 13).toNat % 8 < 6
      ∧ srcOk (descOf (ctx s 0x8D (arr 0 2 3 13)).s) = true ∧ srcOk (descOf (ctx s 0x8D (arr 0 2 3 13)).u) = true)
    ∧ atagOk (ctx s 0x84 (arr 0 2 0 3)) = true := by decide

theorem meets_ArrayLogicResults :
    let s := runsArr (field 0 2031 0 0) (field 2040 7 0 0) (field 2032 8 0 0)
    let m := arr 1 2 0 0
    s.arrPlain 0 = true ∧ alogOk (ctx s 0x80 (arr 1 2 3 0xFF)) = true
    ∧ (binOk (ctx s 0x81 m).d = true ∧ binOk (ctx s 0x81 m).s = true ∧ aU m.toNat = 0 ∧ optIn (wordOf 0x81 m) 0 = true
      ∧ dstOk (descOf (ctx s 0x81 m).d) = true ∧ srcOk (descOf (ctx s 0x81 m).s) = true
      ∧ overlapOk (descOf (ctx s 0x81 m).d) (descOf (ctx s 0x81 m).s) false = true)
    ∧ (binOk (ctx s 0x82 m).d = true ∧ dstOk (descOf (ctx s 0x82 m).d) = true ∧ optIn (wordOf 0x82 m) 0 = true)
    ∧ (aactOk (ctx s 0x83 (arr 0 2 0 5)) = true ∧ (arr 0 2 0 5).toNat % 8 ≠ 6 ∧ aactOk (ctx s 0x83 (arr 0 2 0 6)) = true) := by decide

theorem meets_GangedResults :
    let s := runsArr (field 0 1015 0 0) (field 1015 1015 0 0) (field 1015 1015 0 0)
    let g := { s with cfg := { s.cfg with gang := [(0, 5)] } }
    s.arrPlain 0 = true ∧ gangOk (ctx s 0x8E (arr 1 2 3 1)) false = true ∧ gangOk (ctx s 0x90 (arr 0 2 3 5)) true = true
    ∧ gangWidth s 0 = 1 ∧ g.arrPlain 0 = true ∧ gangWidth g 0 = 64 ∧ gangOk (ctx g 0x8E (arr 1 2 3 1)) false = true
    ∧ gangOk (ctx g 0x90 (arr 0 2 3 5)) true = true := by decide

theorem meets_ArrayMovement :
    let s := runsArr (field 2046 1 0 0) (field 0 1 0 0) 4095
    let m := arr 1 2 0 1
    let far (n : Nat) : State := { withRegs (runsAll [])
        [(R.WREG 0 1, field 8 8 0 0), (R.WREG 0 2, field 0 8 0 0), (R.WREG 0 3, 2), (R.DCTL 0, 0xAB00000000000000)] with
      cfg := { parts := [(0, {})], cascade := { role := 1, w := 1, posX := 1 } }
      rein := { edge := (List.range 8).map fun k => (64 * 3 + k, List.replicate n 5) } }
    s.arrPlain 0 = true ∧ (aD (arr 0 2 3 1).toNat = 0 ∧ optIn (wordOf 0x85 (arr 0 2 3 1)) 1 = true)
    ∧ (binOk (ctx s 0x86 m).d = true ∧ binOk (ctx s 0x86 m).s = true ∧ aU m.toNat = 0 ∧ optIn (wordOf 0x86 m) 1 = true
      ∧ (descOf (ctx s 0x86 m).d).len = 1 ∧ (descOf (ctx s 0x86 m).s).len = 1 ∧ dstOk (descOf (ctx s 0x86 m).d) = true
      ∧ srcOk (descOf (ctx s 0x86 m).s) = true ∧ overlapOk (descOf (ctx s 0x86 m).d) (descOf (ctx s 0x86 m).s) false = true)
    ∧ (ashfOk (ctx s 0x87 (arr 1 2 3 0x1E0)) = true ∧ edgeHere s 0 1 3 4095 = 4095)
    ∧ ((far 16).arrPlain 0 = true ∧ ashfOk (ctx (far 16) 0x87 (arr 1 2 3 0x80)) = true ∧ (far 15).arrPlain 0 = true
      ∧ lockstep (far 16) ((partOf (far 16) 0).getD 0) = true ∧ edgeHere (far 16) 0 3 0 16 = 16 ∧ edgeHere (far 15) 0 3 0 16 < 16
      ∧ shiftSrc (far 16) (gang (far 16) 0) 3 0 2 0 0 = (.edge 192 0, 1, 0))
    ∧ (let net (l : List (BitVec 128)) : State := { withRegs (runsAll [])
         [(R.WREG 0 1, field 8 1 0 0), (R.WREG 0 2, field 0 1 0 0), (R.DCTL 0, 0xAB00000000000000)] with
         cfg := { parts := [(0, {})], cascade := { role := 1, w := 1, posX := 1 } }
         rein := { edge := (List.range 8).map fun k => (64 * 3 + 32 + k, l) } }
       let n := arr 1 2 0 0
       (net [5]).arrPlain 0 = true ∧ cascadePart (net [5]) 0 = true ∧ lockstep (net [5]) 0 = true ∧ [1, 3].all (netsHere (net [5]) 0) = true
        ∧ (net []).arrPlain 0 = true ∧ cascadePart (net []) 0 = true ∧ lockstep (net []) 0 = true ∧ [1, 3].all (netsHere (net []) 0) = false
        ∧ binOk (ctx (net []) 0x86 n).d = true ∧ optIn (wordOf 0x86 n) 1 = true ∧ (descOf (ctx (net []) 0x86 n).d).len = 1
        ∧ overlapOk (descOf (ctx (net []) 0x86 n).d) (descOf (ctx (net []) 0x86 n).s) false = true) := by decide +kernel

theorem meets_RespondersAndSums :
    let s : State := { runsArr 0x7FFE0 (field 0 64 0 0) 0 with cells := [(16383, { t := true })] }
    let q := runsSeq [] { slot3 := { busy := true } }
    let w := arr 1 0 0 0xC0
    (s.arrPlain 0 = true ∧ q.arrPlain 0 = true ∧ partOf s 0 ≠ none ∧ ownScope s 0 0 = true ∧ scopeCascade s 0 0 = false)
    ∧ (aS (arr 1 0 0 0x40).toNat = 0 ∧ aU (arr 1 0 0 0x40).toNat = 0 ∧ optIn (wordOf 0x91 (arr 1 0 0 0x40)) 0x1C0 = true
      ∧ slotBusy s 0 3 = false ∧ aOpt (arr 1 0 0 0x40).toNat / 128 = 0)
    ∧ (scopeBlocks s 0 0 = [0] ∧ (cellAt s 0 16383).t = true)
    ∧ (aorOk (ctx s 0x93 (arr 0 0 0 0x60)) = true ∧ (arr 0 0 0 0x60).getLsbD 4 = false
      ∧ aOpt (arr 0 0 0 0x60).toNat / 128 = 0 ∧ aOpt (arr 0 0 0 0x60).toNat / 32 % 4 = 3
      ∧ aorOk (ctx (runsArr 0 2046 0) 0x94 (arr 0 2 0 0x170)) = true ∧ (arr 0 2 0 0x170).getLsbD 4 = true)
    ∧ ((slotOf q 0 3).busy = true ∧ partOf q 0 ≠ none ∧ (0 : BitVec 2).toNat ≤ 1 ∧ (1 : BitVec 2).toNat ≤ 1 ∧ scopeReady q 0 3 = true
      ∧ gang q 0 ++ scopeBlocks q 0 (bits (slotOf q 0 3).next.toNat 57 56) = [0, 0])
    ∧ (optIn (wordOf 0x96 (arr 1 0 0 3)) 3 = true ∧ (slotOf s 0 3).busy = false)
    ∧ (optIn (wordOf 0x97 (arr 0 0 0 0x60)) 0x1E0 = true ∧ gang s 0 = [0] ∧ optIn (wordOf 0x97 (arr 0 0 0 0xE0)) 0x1E0 = true
      ∧ aOpt (arr 0 0 0 0xE0).toNat / 128 = 1)
    ∧ (asumOk (ctx s 0x95 (arr 1 2 0 0)) = true ∧ ([0, 1, 2, 3].any fun j => slotBusy s 0 j) = false)
    ∧ (aOpt w.toNat / 128 = 1 ∧ 7 ∈ scopeBlocks s 0 1 ∧ 7 ∉ gang s 0 ∧ (∀ j, j < 4 → (slotOf s 7 j).busy = false)
      ∧ scopeCascade s 0 1 = false ∧ asumOk (ctx s 0x95 (arr 1 2 0 0x80)) = true ∧ aS w.toNat = 0 ∧ aU w.toNat = 0
      ∧ optIn (wordOf 0x91 w) 0x1C0 = true) := by decide

/-- Its clauses on a whole partition and on the lead of a cascade. -/
theorem meets_RespondersAndSums_scopes :
    let all : State := { runsAll [(R.WREG 0 1, 0x7FFE0), (R.WREG 0 2, field 0 64 0 0)] with cells := [(16384 * 7 + 3, { t := true })] }
    let w := arr 1 0 0 0x100
    let lead : State := { runsAll [] with
      cfg := { parts := [(0, {})], cascade := { role := 1, w := 1 } }, rein := { leads := true, orc := [(49, 2 ^ 63)] }
      seqs := (List.range 128).map fun b => (b, { inProg := b == 0, slot3 := { busy := b < 8, next := 2 * 2 ^ 56 + 2 ^ 58 } }) }
    (all.arrPlain 0 = true ∧ partOf all 0 ≠ none ∧ ownScope all 0 2 = true ∧ scopeCascade all 0 2 = false
      ∧ 7 ∈ scopeBlocks all 0 2 ∧ (cellAt all 7 3).t = true ∧ slotBusy all 0 3 = false ∧ aOpt w.toNat / 128 = 2
      ∧ optIn (wordOf 0x91 w) 0x1C0 = true ∧ asumOk (ctx all 0x95 (arr 1 2 0 0x100)) = true)
    ∧ ((slotOf lead 0 3).busy = true ∧ scopeCascade lead 0 (bits (slotOf lead 0 3).next.toNat 57 56) = true
      ∧ leadsCascade lead = true ∧ outerDevs lead = [1] ∧ scopeReady lead 0 3 = true) := by decide +kernel

theorem meets_TurnTransfers :
    let s := runsArr (field 0 8 0 0) (0x100000 - 0x8000) (field 0 8 0 0)
    let a := runsArr (field 0 64 0 0) (field 64 12 0 0) (0x100000 - 0x10000)
    s.arrPlain 0 = true ∧ a.arrPlain 0 = true ∧ turnOk (ctx s 0x98 (arr 1 2 0 0x40)) false = true
    ∧ alutOk (ctx a 0x9A (arr 1 2 3 0)) = true
    ∧ (turnOk (ctx s 0x99 (arr 1 2 0 0x40)) true = true ∧ gang s 0 = [0] ∧ aspectBytes (wordOf 0x99 (arr 1 2 0 0x40)) = 1
      ∧ (arr 1 2 0 0x40).getLsbD 5 = false ∧ (cellAt { s with cells := [(16383, { a := true })] } 0 16383).a = true) := by decide

theorem meets_PackedArrayResults :
    let p := field 0 128 1 31
    let q := field 128 128 1 31
    let b := field 256 16 0 0
    let z := field 512 248 2 31
    let pp := runsArr p q q
    let bp := runsArr (field 256 1 0 0) q q
    let k := runsArr p q 255
    let m := runsArr p q (2 ^ 64 - 255)
    let w := arr 1 2 3 0
    let v := arr 1 2 0 0
    let x := ctx k 0xA5 (arr 1 2 3 15)
    (pp.arrPlain 0 = true ∧ bp.arrPlain 0 = true ∧ k.arrPlain 0 = true)
    ∧ (decOpsOk (ctx pp 0xA0 w) 1 1 (some 1) 8 = true ∧ optIn (wordOf 0xA0 w) 0 = true)
    ∧ (decOpsOk (ctx pp 0xA2 w) 1 1 (some 1) (pkWork (ctx pp 0xA2 w)) = true ∧ (descOf (ctx pp 0xA2 w).s).nd ≤ 31)
    ∧ (decOpsOk (ctx pp 0xA3 (arr 1 2 3 2)) 1 1 (some 1) (pkWork (ctx pp 0xA3 (arr 1 2 3 2))) = true
      ∧ optIn (wordOf 0xA3 (arr 1 2 3 2)) 2 = true)
    ∧ (decOpsOk (ctx bp 0xA4 (arr 1 2 3 5)) 0 1 (some 1) 8 = true ∧ optIn (wordOf 0xA4 (arr 1 2 3 5)) 7 = true
      ∧ (arr 1 2 3 5).toNat % 8 < 6 ∧ (descOf (ctx bp 0xA4 (arr 1 2 3 5)).d).len = 1)
    ∧ decOpsOk (ctx pp 0xA6 v) 1 1 none 8 = true ∧ decOpsOk (ctx (runsArr b q 0) 0xA7 v) 0 1 none 16 = true
    ∧ decOpsOk (ctx (runsArr p b 0) 0xA8 v) 1 0 none 16 = true ∧ decOpsOk (ctx (runsArr p z 0) 0xA9 v) 1 2 none 16 = true
    ∧ decOpsOk (ctx (runsArr z p 0) 0xAA v) 2 1 none 16 = true
    ∧ (decDescOk x.d = true ∧ decDescOk x.s = true ∧ (descOf x.d).kind = 1 ∧ (descOf x.s).kind = 1 ∧ dstOk (descOf x.d) = true
      ∧ srcOk (descOf x.s) = true ∧ overlapOk (descOf x.d) (descOf x.s) false = true
      ∧ workOk x 8 [descOf x.d, descOf x.s] = true ∧ optIn x.w 15 = true ∧ sgn 64 x.u = 255
      ∧ sgn 64 (ctx m 0xA5 (arr 1 2 3 15)).u = -255 ∧ 7 * 10 ^ 255 % 10 ^ 255 = 0) := by decide

theorem meets_FloatArrayResults :
    let s := runsArr (field 0 128 4 0) (field 128 128 4 0) (field 256 128 4 0)
    let c := runsArr (field 0 1 0 0) (field 128 64 3 0) (field 256 64 3 0)
    let v := runsArr (field 0 128 4 0) (field 128 64 3 0) 0
    let w := arr 1 2 3 0
    s.arrPlain 0 = true ∧ c.arrPlain 0 = true ∧ v.arrPlain 0 = true ∧ dfOk (ctx s 0xAB w) 160 320 = true
    ∧ dfOk (ctx s 0xAF w) 256 480 = true ∧ dfCmpOk (ctx c 0xB1 (arr 1 2 3 14)) = true ∧ dfCvtOk (ctx v 0xB2 (arr 1 2 0 0)) = true := by
  decide

theorem meets_LongDecimalResults :
    let l (b nd : Nat) : Nat := field b (4 * ldecP nd + 32) 5 nd
    let chain (v : Nat) : Nat := v + 255 * 2 ^ 48
    let s := runsArr (chain (l 0 0)) (chain (l 300 0)) (chain (l 600 0))
    let c := runsArr (l 0 0) (field 300 128 4 0) 0
    let n := runsArr (l 0 0) 0 (putBits 0 13 0 0)
    let p := { runsArr 0 (l 0 0) 0 with cells := [(0, { a := true })] }
    let one := runsArr (l 0 0) (l 300 0) (l 600 0)
    (s.arrPlain 0 = true ∧ c.arrPlain 0 = true ∧ n.arrPlain 0 = true ∧ p.arrPlain 0 = true ∧ one.arrPlain 0 = true)
    ∧ ldOk (ctx s 0xB3 (arr 1 2 3 0)) true = true ∧ ldOk (ctx one 0xB5 (arr 1 2 3 0)) false = true
    ∧ (ldCvtOk (ctx c 0xB7 (arr 1 2 0 0)) = true ∧ (arr 1 2 0 0).toNat % 8 < 2)
    ∧ ldNormOk (ctx n 0xB9 (arr 1 2 3 0)) = true
    ∧ (ldSplitOk (ctx p 0xB8 (arr 0 2 3 0)) = true ∧ gang p 0 = [0] ∧ (descOf (ctx p 0xB8 (arr 0 2 3 0)).s).chk = 0
      ∧ limbIn (ctx p 0xB8 (arr 0 2 3 0)) 0 = true ∧ (cellAt p 0 0).a = true
      ∧ (groupDec p 0 0 (descOf (ctx p 0xB8 (arr 0 2 3 0)).s)).isSome = true
      ∧ (bcdVal 64 ((cellAt p 0 0).val (descOf (ctx p 0xB8 (arr 0 2 3 0)).s))).isSome = true) := by decide +kernel

theorem meets_RecordResults :
    let s := runsArr (field 0 256 0 0) (field 256 256 0 0) (field 512 16 0 0)
    let t := runsArr (field 0 256 0 0) (field 256 256 0 0) (0x100000 - 512)
    let e := { runsArr (field 0 16 0 0) (field 256 8 1 1) 0 with mem := memWrite [] (bwin 0) [2, 0, 1, 0xD] }
    (s.arrPlain 0 = true ∧ t.arrPlain 0 = true ∧ e.arrPlain 0 = true) ∧ amvsOk (ctx s 0xC0 (arr 1 2 3 1)) = true
    ∧ atrnOk (ctx t 0xC1 (arr 1 2 3 0)) = true
    ∧ (acmpsOk (ctx s 0xC2 (arr 0 2 2 5)) = true ∧ (arr 0 2 2 5).getLsbD 3 = false ∧ (arr 0 2 2 5).getLsbD 4 = false)
    ∧ aeditOk (ctx e 0xC3 (arr 1 2 0 3)) = true := by decide

/-! ### Suspension, microcode, the control store -/

theorem meets_YieldsAndAbandons :
    let h := withRegs (runsArr (field 0 256 0 0) (field 256 256 0 0) (field 512 16 0 0))
      [(R.DBG_CTRL 0, putBits 0xF0 R.DBG_CTRL_HALTREQ.hi R.DBG_CTRL_HALTREQ.lo 1)]
    let w := BitVec.ofNat 32 (wordOf 0xC0 (arr 1 2 3 1))
    let x := freshCtx h 0 w.toNat
    let v := runs [(R.ARR_SUSP 0, putBits 0 R.ARR_SUSP_VALID.hi R.ARR_SUSP_VALID.lo 1)]
    (h.cellsWf = true ∧ executing h 0 = true ∧ (seqOf h 0).micro = none ∧ (seqOf h 0).resume = none ∧ (seqOf h 0).waiting = false
      ∧ (seqOf h 0).ldx = [] ∧ pcOk (pcOf h 0) = true ∧ rgB h (R.ARR_SUSP 0) R.ARR_SUSP_VALID = false
      ∧ (∀ c ∈ gang h 0, ∀ k, k < 4 → slotBusy h c k = false) ∧ resumable (w.toNat / 2 ^ 24) = true ∧ resumableOk x = true
      ∧ yieldCause h 0 ≠ 0 ∧ yieldNow h 0 x = 32)
    ∧ (rgB v (R.ARR_SUSP 0) R.ARR_SUSP_VALID = true ∧ gang v 0 = [0])
    ∧ ((seqOf h (programOf h 0)).micro = none ∧ (seqOf (runsSeq [] { micro := some {} }) 0).micro.isSome = true
      ∧ (seqOf h 0).repair = none ∧ (seqOf (runsSeq [] { repair := some (2046, 127, true) }) 0).repair = some (2046, 127, true))
    ∧ (now h % 100000 = 0 ∧ executing h (programOf h 0) = true
      ∧ (List.range 4).find? (fun j => spState (pickTwin h 0) 0 j == 2) = some 3)
    ∧ now { h with timebase := 99999 } % 100000 ≠ 0 := by decide

theorem meets_ControlStoreAccess :
    let w : CsPend := { n := 12288, q0 := some 1 }
    let s := runsSeq [] { stage := some (16383, some 1, none, some 3) }
    let f := runsSeq [] { stage := some (16383, some 1, none, some 3), micro := some {} }
    let g := runsSeq [] { csWait := [w] }
    let r := runsSeq [] { csWait := [{ n := 16383, rd := some 3 }] }
    (seqOf (runs []) 0).stage = none ∧ fetching s 0 = false ∧ (seqOf s 0).stage = some (16383, some 1, none, some 3)
    ∧ (seqOf s 0).csWait = [] ∧ csBad s 0 16383 = false
    ∧ (fetching f 0 = true ∧ (seqOf f 0).stage = some (16383, some 1, none, some 3))
    ∧ ((seqOf g 0).csWait = [w] ∧ w.rd = none ∧ w.entry = false ∧ 12288 ≤ w.n.toNat)
    ∧ (seqOf r 0).csWait = [{ n := 16383, rd := some 3 }]
    ∧ (0xE0 / 16 = 14 ∧ 0x3000 ≤ bits 0x8000000000003000 13 0 ∧ (0x8000000000003000 : Word).getLsbD 62 = false
      ∧ bits 0x8000000000003000 56 14 = 0) ∧ 0xDF / 16 ≠ 14 := by decide

theorem meets_CustomerMicrocode :
    let s (v : Nat) : State := { runs [] with dt := [(0xE0, BitVec.ofNat 64 v)] }
    let good := 0x8000000000003000
    let bad := 0x9000000000003000
    let m : Micro := { upc := 12288 }
    let t (l : List (Nat × BitVec 196)) : State := { runsSeq [] { micro := some m } with cs := l }
    let run := t [(12288, BitVec.ofNat 196 (2 ^ 195 + 2 ^ 144))]
    let u := csWord run 0 m.upc.toNat
    let two : State := { runsAll [(R.CS_FP 7, 1)] with dt := (List.range 8).map fun b => (256 * b + 0xE0, 0x8000000000003000) }
    let patch (v : Word) : State := { runs [] with dt := [(256 * 128 + 0xCF, v)] }
    ((s good).arrPlain 0 = true ∧ (dtEntry (s good) 0 0xE0).testBit 63 = true ∧ fpDiffer (s good) 0 = []
      ∧ entryOk good (ctx (s good) 0xE0 0) = true)
    ∧ (dtEntry (s 0) 0 0xE0).testBit 63 = false
    ∧ (dtEntry (s bad) 0 0xE0 = bad ∧ bad.testBit 63 = true ∧ entryOk bad (ctx (s bad) 0xE0 0) = false)
    ∧ (two.arrPlain 0 = true ∧ (dtEntry two 0 0xE0).testBit 63 = true ∧ fpDiffer two 0 = [7])
    ∧ ((runs []).plain 0 = true ∧ badEntry { runs [] with dtBad := [0xEF] } 0 0xEF = some 0 ∧ (seqOf (runs []) 0).susp = none)
    ∧ (let p := patch 0x8000000000001000
       p.plain 0 = true ∧ assignedOp 0xCF = false ∧ patched p 0xCF = true ∧ dispatchTrap p 0 (ctx p 0xCF 0) true = none)
    ∧ (let p := patch 0x0000000000001000
       p.plain 0 = true ∧ patched p 0xCF = true ∧ dispatchTrap p 0 (ctx p 0xCF 0) true = some (.trap 2 (wordOf 0xCF 0)))
    ∧ (executing (t [(12288, 1)]) 0 = true ∧ (seqOf (t [(12288, 1)]) 0).micro = some m
      ∧ ((gang (t [(12288, 1)]) 0).find? fun c => csBad (t [(12288, 1)]) c m.upc.toNat) = some 0)
    ∧ (run.cellsWf = true ∧ run.flaws = [] ∧ executing run 0 = true ∧ (seqOf run 0).micro = some m ∧ m.sp = false ∧ m.far = false
      ∧ effP m u ≠ 2047 ∧ effQ m u ≠ 2047
      ∧ slotWait run 0 u = false ∧ illegalUw run 0 m u = false ∧ custBreach run 0 m u = false ∧ m.run < 8192
      ∧ [6, 5, 7, 25, 135].all (fun i => !u.testBit i) = true
      ∧ uNAM u = 0 ∧ uTOP u = 0 ∧ uKIND u = 0 ∧ uXSRC u = 0 ∧ uACT u = 2 ∧ gang run 0 = [0] ∧ csBad run 0 12288 = false) := by decide +kernel

/-! ### Memories, DMA, the mesh -/

theorem meets_DramRequests :
    let rd : MeshReq := { id := 1, src := .seq 0, part := some 0, addr := 0x6FFFFFFF0, len := 16, sport := 1, seq := 1, atPort := true }
    let wr : MeshReq := { rd with wr := true, data := List.replicate 16 7 }
    let no : MeshReq := { wr with key := 5 }
    let up : MeshReq := { rd with addr := 0x6FFFFFFF1 }
    let img : MeshReq := { up with src := .image, home := 16, sport := 0 }
    let ep (n : Nat) : State := runs [(R.EP_STAT 0, fld R.EP_STAT_STATE 1), (R.EP_CTRL 0, fld R.EP_CTRL_SHMAX n)]
    let room (s : State) (max : Nat) : Bool := decide (shadowsUsed s 0 + (s.dram.copies.filter fun c => c.1 / 262144 == 0).length
      + (needShadow s wr).length ≤ max)
    let lame : State := asks (runs [(R.DRAM_LANE 0, fld R.DRAM_LANE_L0V 1 + fld R.DRAM_LANE_LANE0 73)]) rd
    let low (q : MeshReq) : Prop := dramOff q.addr + q.len - 1 < 0x700000000 ∨ keyless q.src = true
    (reqOf (asks (runs []) rd) 1 = some rd ∧ (asks (runs []) rd).dramTurn rd 0 = true ∧ low rd
      ∧ keyAllows (runs []) (rd.addr / 0x20000) 0 false = true ∧ framesOf rd.addr 16 = [rd.addr / 0x20000] ∧ keyless rd.src = false)
    ∧ ((asks (runs []) up).dramTurn up 0 = true ∧ ¬ low up ∧ (asks (runs []) img).dramTurn img 0 = true ∧ low img)
    ∧ (reqOf (asks (runs []) no) 1 = some no ∧ (asks (runs []) no).dramTurn no 0 = true ∧ keyAllows (runs []) (no.addr / 0x20000) 5 true = false)
    ∧ (reqOf (asks (runs []) wr) 1 = some wr ∧ (asks (runs []) wr).dramTurn wr 0 = true ∧ needShadow (asks (runs []) wr) wr = [])
    ∧ ((asks (ep 1) wr).dramTurn wr 0 = true ∧ needShadow (asks (ep 1) wr) wr ≠ []
      ∧ room (asks (ep 1) wr) 1 = true ∧ rgF (asks (ep 1) wr) (R.EP_CTRL 0) R.EP_CTRL_SHMAX = 1)
    ∧ ((asks (ep 0) wr).dramTurn wr 0 = true ∧ room (asks (ep 0) wr) 0 = false)
    ∧ ((wrongSyms (runs []) 0 [0, 1, 2, 3, 73]).length = 5 ∧ correctable (runs []) 0 = 5 ∧ (wrongSyms (runs []) 0 [0, 1, 2, 3, 4, 73]).length = 6
      ∧ lame.dramTurn rd 0 = true ∧ correctable lame 0 = 4 ∧ (wrongSyms lame 0 [0, 1, 2, 3, 73]).length = 4
      ∧ wrongSyms lame 0 [73] = [] ∧ (wrongSyms lame 0 [0, 1, 2, 3, 4]).length = 5) := by decide +kernel

/-- Its clauses on the port's order and on shadow copies. -/
theorem meets_DramRequests_port :
    let a : MeshReq := { id := 1, src := .seq 0, part := some 0, len := 16, sport := 1, seq := 1, cyc := 5, atPort := true }
    let b : MeshReq := { a with id := 2, src := .seq 1, sport := 2, seq := 2, addr := 128 }
    let far : MeshReq := { a with id := 3, src := .seq 9, home := 1, sport := 2, seq := 3, addr := 256, cyc := 4 }
    let s (l : List MeshReq) (bar : List (Nat × List Nat)) : State := { runs [] with mesh := { flight := l }, dram := { bar := bar } }
    let two := s [a, b] []
    let wr : MeshReq := { a with wr := true, data := List.replicate 16 7 }
    let c : State := { asks (runs []) wr with dram := { copies := [(wr.addr / 0x20000, 1)] } }
    ((dramGrant two 0).map MeshReq.id = some 1 ∧ dramWaits two 0 b = true ∧ dramRequester 0 b = 1 ∧ dramRequester 0 a = 0
      ∧ dramGrant (s [a, b, far] []) 0 = some far ∧ dramRequester 0 far = 9)
    ∧ (dramGrant (s [a, b] [(0, [2])]) 0 = some b ∧ barred (s [a, b] [(0, [2])]) 0 [a, b] a = true)
    ∧ (match exec (.dramAccess 1 ⟨[], []⟩) two with
       | .next t => decide (b ∈ t.mesh.flight) && dramWaits t 0 b && (dramGrant t 0).isSome
       | _ => false) = true
    ∧ ((c.dram.copies.find? fun c => c.1 / 262144 == 0) = some (wr.addr / 0x20000, 1) ∧ reqOf c 1 = some wr ∧ wr.dead = false
      ∧ wr.data.length = wr.len ∧ keyless wr.src = false
      ∧ (c.dram.copies.filter fun x => x != (wr.addr / 0x20000, 1)).all (fun x => x.2 != 1) = true) := by decide +kernel

theorem meets_MemoryUpkeep :
    let s : State := { runs [] with dram := { copying := [(0, [4096])], zeroing := 0x80, scrub := [(0, 2 ^ 28 - 1)] } }
    let q : MeshReq := { id := 1, src := .seq 1, addr := bwin 0 + 0x1FFFF0, len := 16, data := List.replicate 16 7, seq := 1, atPort := true }
    let wr : MeshReq := { q with wr := true }
    let pq : MeshReq := { q with addr := 0x020000000000 + 0x100000 }
    let sp : MeshReq := { q with addr := bwin 0 + 0x7FFF0 }
    let d : MeshReq := { q with addr := 0x7FFFFFFF0 }
    let a : PortA := ⟨4095, BitVec.allOnes 1024, 1⟩
    let back := runsSeq [] { tmWb := [0x100010000000], spWb := [0x100000000000] }
    ((seqOf back 0).tmWb = [0x100010000000] ∧ (seqOf back 0).spWb = [0x100000000000] ∧ (seqOf s 0).tmWb = [] ∧ (seqOf s 0).spWb = [])
    ∧ (rgB s (R.DRAM_SCRUB 0) R.DRAM_SCRUB_EN = true ∧ s.dram.zeroing.getLsbD 0 = false ∧ portTaken s 0 = false
      ∧ mapGet 0 0 s.dram.scrub < 2 ^ 28 ∧ wrongSyms s 0 [73] ≠ [] ∧ (wrongSyms s 0 [73]).length ≤ correctable s 0
      ∧ portTaken (asks s d) 0 = true)
    ∧ (mapGet [] 0 s.dram.copying = [4096] ∧ (mapGet [] 0 s.dram.rows).length < 511 ∧ 4096 / 0x800000000 = 0 ∧ 4096 % 4096 = 0
      ∧ (31 : BitVec 10).toNat < 32) ∧ s.dram.zeroing.getLsbD 7 = true
    ∧ (blockCur s 0 = 0 ∧ s.flaws = [] ∧ dmaWants s 0 true = false ∧ tmRequest s 0 = none)
    ∧ (let s := asks (runs []) q
       tmRequest s 0 = some q ∧ targetBlk s (targetOf s q.addr) = some (0, 0x100000 + 0xFFFF0) ∧ q.off = 0 ∧ q.got = [] ∧ 1 ≤ q.len
        ∧ q.len ≤ 256 - 0xFFFF0 % 256 ∧ q.data.length = q.len ∧ q.wr = false ∧ (BitVec.ofNat 16 65535).toNat = (0xFFFF0 + q.len - 1) / 16)
    ∧ (let s := asks (runs []) wr
       tmRequest s 0 = some wr ∧ wr.wr = true ∧ a.line.toNat = 0xFFFF0 / 256 ∧ 15 ∈ wordsOf a.mask.toNat
        ∧ 15 ∈ wordsOf (lineBits (0xFFFF0 % 256) (wr.data.map BitVec.toNat)).1)
    ∧ (let s := asks (runs []) pq
       tmRequest s 0 = some pq ∧ targetBlk s (targetOf s pq.addr) = some (0, 0x100000))
    ∧ (let s := asks (runs []) sp
       blockCur s 0 = 0 ∧ spNext s 0 = some 0 ∧ spRequest s 0 = some sp ∧ targetOf s sp.addr = .block 0 0x7FFF0 ∧ 0x7FFF0 + sp.len ≤ 0x80000
        ∧ (BitVec.ofNat 16 32767).toNat < 32768 ∧ 0x7FFF0 / 16 ≤ (BitVec.ofNat 16 32767).toNat
        ∧ (BitVec.ofNat 16 32767).toNat ≤ (0x7FFF0 + sp.len - 1) / 16) := by decide +kernel

theorem meets_StorageKeys :
    let v : Word := BitVec.ofNat 64 (2 ^ 63 + (2 ^ 22 - 1) * 2 ^ 22 + 2 ^ 22 - 1)
    let s : State := { runs [] with dram := { reload := 0x8000 } }
    let lost : State := { runs [(R.EP_STAT 0, fld R.EP_STAT_STATE 1)] with dram := { reload := 1 } }
    (lost.dram.reload.getLsbD 0 = true ∧ partOfRegion lost 0 = some 0 ∧ epState lost 0 ≠ 6)
    ∧ keyRule 0x7FFF0 (2 * 8) = true ∧ keyRule 0x7FFF2 (2 * 8) = false
    ∧ (rgB s R.KU_RANGE R.KU_RANGE_GO = false ∧ v.getLsbD 63 = true ∧ bits v.toNat 21 0 ≤ bits v.toNat 43 22)
    ∧ (15 : BitVec 4) ≠ 0 ∧ s.dram.reload.getLsbD 15 = true := by decide +kernel

theorem meets_DmaChannels :
    let ctrl (ch : Nat) : Nat × Nat := (R.DMA_CTRL 0 ch, fld R.DMA_CTRL_SIZE 1 + fld R.DMA_CTRL_EN 1)
    let size (n : Nat) : State := runs [(R.DMA_CTRL 0 0, fld R.DMA_CTRL_SIZE n)]
    let desc (ws : List Nat) : State :=
      { runs [ctrl 0, (R.DMA_RING 0 0, fld R.DMA_RING_TAIL 1)] with mem := memWrite [] (bwin 0) (ws.flatMap (digitsOf 16)) }
    let run (ws : List Nat) : DmaRun :=
      { w0 := BitVec.ofNat 64 (ws.getD 0 0), w1 := BitVec.ofNat 64 (ws.getD 1 0), w2 := BitVec.ofNat 64 (ws.getD 2 0),
        w3 := BitVec.ofNat 64 (ws.getD 3 0) }
    let copy := [1 * 2 ^ 60 + 2 ^ 53, 0x7FFF0, 0x400, 16 * 2 ^ 40]
    let store := [1 * 2 ^ 60, 0x7FFF0, 0x400, 16 * 2 ^ 40]
    let fill := [2 * 2 ^ 60 + 2 ^ 53, 0x7FFF0, 7, 16 * 2 ^ 40]
    let sync := [0, 0x7FFF0, 0, 16 * 2 ^ 40]
    let bad := [3 * 2 ^ 60, 0, 0, 0]
    let taken (ws : List Nat) : Prop := spNext (desc ws) 0 = some 2 ∧ descNext (desc ws) 0 = false ∧ dmaRun (desc ws) 0 false = none
      ∧ (desc ws).flaws = [] ∧ readVal (desc ws) (bwin 0) 16 = ws.getD 0 0 ∧ readVal (desc ws) (bwin 0 + 48) 16 = ws.getD 3 0
    (rgB (size 12) (R.DMA_CTRL 0 0) R.DMA_CTRL_EN = false ∧ rgF (size 12) (R.DMA_CTRL 0 0) R.DMA_CTRL_SIZE = 12
      ∧ rgF (size 12) (R.DMA_RING 0 0) R.DMA_RING_BASE + 64 * 2 ^ 12 ≤ 0x80000 ∧ 12 < rgF (size 13) (R.DMA_CTRL 0 0) R.DMA_CTRL_SIZE
      ∧ rgF (size 0) (R.DMA_CTRL 0 0) R.DMA_CTRL_SIZE = 0)
    ∧ (taken bad ∧ (run bad).bad false = true) ∧ (taken sync ∧ (run sync).bad false = false ∧ (run sync).op = 0)
    ∧ (taken copy ∧ (run copy).bad false = false ∧ (run copy).op = 1 ∧ (run copy).host = false ∧ (run copy).toLocal = true
      ∧ (run copy).rows = 1 ∧ (run copy).chunk false = (run copy).len ∧ ownDevice (desc copy) (run copy).w2.toNat = false)
    ∧ (taken store ∧ (run store).bad false = false ∧ (run store).local = true ∧ taken fill ∧ (run fill).bad false = false
      ∧ (run fill).local = true) := by decide +kernel

/-- Its clauses on descriptors in progress. -/
theorem meets_DmaChannels_runs :
    let on : List (Nat × Nat) := [(R.DMA_CTRL 0 0, fld R.DMA_CTRL_SIZE 1 + fld R.DMA_CTRL_EN 1), (R.DMA_CTRL 0 1, fld R.DMA_CTRL_EN 1)]
    let has (ch : Bool) (r : DmaRun) : State := { runs on with dma := [(b2n ch, r)] }
    let run (op loc : Nat) : DmaRun := { w0 := BitVec.ofNat 64 op, w1 := BitVec.ofNat 64 loc, w2 := 0x400, w3 := BitVec.ofNat 64 (16 * 2 ^ 40) }
    let store (ch : Bool) : DmaRun := run (2 ^ 60) (if ch then 0x1FFFF0 else 0x7FFF0)
    let fill (ch : Bool) : DmaRun := run (2 * 2 ^ 60 + 2 ^ 53) (if ch then 0x1FFFF0 else 0x7FFF0)
    let got (ch : Bool) : DmaRun := { run (2 ^ 60 + 2 ^ 53) 0 with row := 1, inbox := [(if ch then 0x1FFF00 else 0, List.replicate 256 7)] }
    let cycle (ch : Bool) (r : DmaRun) : Prop := (has ch r).flaws = [] ∧ blockCur (has ch r) 0 = 0
      ∧ (if ch then dmaWants (has ch r) 0 true = true ∧ (seqOf (has ch r) 0).tmPtr = 0 else spNext (has ch r) 0 = some 1)
      ∧ dmaRun (has ch r) 0 ch = some r
    let past (st : BitVec 8) : DmaRun := { run (2 ^ 60 + 2 ^ 53 + 2 ^ 55) 0 with row := 1, status := st }
    (∀ ch, cycle ch (store ch) ∧ (store ch).inbox = [] ∧ (store ch).local = true ∧ (store ch).op = 1 ∧ (store ch).host = false
      ∧ (store ch).row = 0 ∧ (store ch).off = 0 ∧ (store ch).rows = 1 ∧ (store ch).chunk ch = (store ch).len ∧ (store ch).status = 0
      ∧ (store ch).out = [] ∧ ownDevice (has ch (store ch)) 0x400 = false)
    ∧ (∀ ch, cycle ch (fill ch) ∧ (fill ch).fillLocal = true ∧ (fill ch).issues = true ∧ (ch = true → 0x100000 ≤ (fill ch).nextLocal))
    ∧ (∀ ch, cycle ch (got ch) ∧ (ch = true → 0x100000 ≤ 0x1FFF00 ∧ 0x1FFF00 % 256 + 256 ≤ 256))
    ∧ (∀ ch, spNext (has ch (past 0)) 0 = some 2 ∧ descNext (has ch (past 0)) 0 = ch ∧ dmaRun (has ch (past 0)) 0 ch = some (past 0)
      ∧ (past 0).w0.getLsbD 55 = true ∧ spNext (has ch (past 7)) 0 = some 2 ∧ descNext (has ch (past 7)) 0 = ch
      ∧ dmaRun (has ch (past 7)) 0 ch = some (past 7) ∧ (past 7).status ≠ 0) := by decide +kernel

/-- Its clauses on disabling, the stall bound and an idle scratchpad. -/
theorem meets_DmaChannels_stops :
    let on : List (Nat × Nat) := [(R.DMA_CTRL 0 0, fld R.DMA_CTRL_SIZE 1 + fld R.DMA_CTRL_EN 1 + fld R.DMA_CTRL_STALL 1)]
    let r : DmaRun := { w0 := BitVec.ofNat 64 (2 * 2 ^ 60 + 2 ^ 53), w1 := 0x7FFF0, w2 := 0x400, w3 := BitVec.ofNat 64 (16 * 2 ^ 40) }
    let has : State := { runs on with dma := [(0, r)] }
    let q : MeshReq := { id := 1, addr := bwin 0 + 0x7FFFF, seq := 1, atPort := true }
    let s := asks (runs on) q
    (dmaRun (runs []) 0 false = none ∧ dmaRun has 0 false = some r ∧ r.ended = false ∧ r.status = 0)
    ∧ (let full : State := { has with dma := [(0, { r with inbox := [(0x7FFF0, [1])] })] }
       rgF full (R.DMA_CTRL 0 0) R.DMA_CTRL_STALL ≠ 0 ∧ rgB full (R.DMA_CTRL 0 0) R.DMA_CTRL_EN = true
        ∧ (dmaRun full 0 false).map DmaRun.inbox = some [(0x7FFF0, [1])] ∧ (dmaRun full 0 false).map DmaRun.status = some 0)
    ∧ (rgF has (R.DMA_CTRL 0 0) R.DMA_CTRL_STALL ≠ 0 ∧ rgB has (R.DMA_CTRL 0 0) R.DMA_CTRL_EN = true)
    ∧ (rgF s (R.DMA_CTRL 0 0) R.DMA_CTRL_STALL ≠ 0 ∧ reqOf s 1 = some q ∧ atScratchpad s 0 q = true ∧ spNext s 0 = some 0)
    ∧ spNext (runs []) 0 = none := by decide +kernel

theorem meets_MeshRequests :
    let rd : MeshReq := { id := 1, src := .seq 0, part := some 0, addr := bwin 0 + 0x7FFF0, len := 16, sport := 1 }
    let tm : MeshReq := { rd with addr := bwin 0 + 0x1FFFF0, wr := true }
    let dr : MeshReq := { rd with addr := 0x7FFFFFFF0 }
    let rg_ : MeshReq := { rd with addr := R.AREG 0 7 }
    let cs : MeshReq := { rd with addr := bwin 0 + 0x40C000 }
    let s := asks (runs [])
    let pair (p q : MeshReq) : State := { runs [] with mesh := { flight := [p, q], nextId := 3, nextSeq := 3 } }
    let far : MeshReq := { rd with addr := 0x800000000, wr := true }
    let near : MeshReq := { rd with addr := 0x800000000 }
    let x1 : MeshReq := { rd with src := .host 0, part := none, home := 18, sport := 0 }
    (reqOf (s rd) 1 = some rd ∧ (s rd).reaches rd (.block 0 0x7FFF0) = true ∧ 0x7FFF0 + rd.len ≤ 0x80000
      ∧ (s tm).reaches tm (.block 0 0x1FFFF0) = true ∧ 0x1FFFF0 + tm.len ≤ 0x200000 ∧ (s dr).reaches dr (.dram 0) = true)
    ∧ (let t := s rg_
       t.reaches rg_ (targetOf t rg_.addr) = true ∧ portedTarget t rg_ (targetOf t rg_.addr) = false
        ∧ storeWaits t rg_ (targetOf t rg_.addr) = false ∧ before t rg_ = none
        ∧ (targetBlk t (targetOf t rg_.addr)).map Prod.fst = some 0)
    ∧ (let t := asks (runsSeq [] { micro := some {} }) cs
       t.reaches cs (targetOf t cs.addr) = true ∧ portedTarget t cs (targetOf t cs.addr) = false
        ∧ storeWaits t cs (targetOf t cs.addr) = true)
    ∧ (let p := { rg_ with id := 2, seq := 1 }
       let q := { rg_ with seq := 2 }
       (pair p q).reaches q (targetOf (pair p q) q.addr) = true ∧ (before (pair p q) q).isSome = true)
    ∧ ((s far).sends far = true ∧ leavesPart (s far) far (targetOf (s far) far.addr) = true
      ∧ logFill (s far) (logRegion far.src) + (far.len + 1) / 2 ≤ 2 ^ 28)
    ∧ (leavesPart (s near) near (targetOf (s near) near.addr) = false ∧ targetOf (s near) near.addr = .dram 1
      ∧ near.seq = 0 ∧ nextSent (s near) near = true ∧ nextSent (pair { near with id := 2 } near) near = false)
    ∧ (let t := asks (runs [(R.RT_ISO 1, 1)]) near
       t.sends near = true ∧ isolated t near (targetOf t near.addr) = some 1)
    ∧ (let t := asks (runs [(R.RT_LINK 0, fld R.RT_LINK_LDOWN 15)]) near
       t.sends near = true ∧ isolated t near (targetOf t near.addr) = none ∧ routeStop t 9 0 (routerFor (targetOf t near.addr)) = some 0)
    ∧ ((s near).sends near = true ∧ isolated (s near) near (.dram 1) = none
      ∧ routeDown (s near) 9 0 1 = false ∧ refusedHeld (s near) near (.dram 1) = true)
    ∧ (let t := asks (runs [(R.GW_SLUICE 0, 3)]) x1
       t.sends x1 = true ∧ leavesPart t x1 (targetOf t x1.addr) = false ∧ isolated t x1 (targetOf t x1.addr) = none
        ∧ routeDown t 9 18 (routerFor (targetOf t x1.addr)) = false
        ∧ refusedHeld t x1 (targetOf t x1.addr) = false ∧ unplaced t (targetOf t x1.addr) = false
        ∧ x1.passed = false ∧ fenceFor t (targetOf t x1.addr) = some (0, 0) ∧ holdsWake t x1 0 0 = false)
    ∧ (targetBlk (s rg_) (targetOf (s rg_) rg_.addr)).isSome = true
    ∧ (let t := asks (runs [(R.BSW_MAP 0, 31204079050816 + 0x30)]) x1
       t.sends x1 = true ∧ refusedHeld t x1 (targetOf t x1.addr) = false ∧ unplaced t (targetOf t x1.addr) = true)
    ∧ (let t := pair { rd with id := 2, seq := 1, freed := true } x1
       t.sends x1 = true ∧ fenceFor t (targetOf t x1.addr) = none ∧ freedBefore t x1 (targetOf t x1.addr) = true) := by decide +kernel

/-- Its clauses on responses, tags, timeouts and fences. -/
theorem meets_MeshRequests_answers :
    let rd : MeshReq := { id := 1, src := .seq 0, part := some 0, addr := bwin 0 + 0x7FFF0, len := 16, sport := 1 }
    let resp (r : MeshResp) (l : List LdxPend) (i : Nat) : State :=
      { runsSeq [(R.RT_ISO 0, i)] { ldx := l } with mesh := { resps := [r], nextId := 2 } }
    let r : MeshResp := { id := 1, req := rd }
    let l : LdxPend := ⟨1, 0xCF, 16, true⟩
    let firstOf (s : State) : Option MeshResp := (s.mesh.resps.find? (fun r => r.id == 1)).bind (firstResp s)
    let two : State := { runs [] with mesh := { resps := [{ r with id := 2 }, r], nextId := 3 } }
    let free : MeshReq := { rd with id := 65, src := .security, home := 16, untagged := true }
    let used (n : Nat) : State := { runs [] with mesh := { flight := List.replicate n { rd with src := .security, home := 16 } ++ [free] } }
    let late : State := { asks (runs []) rd with nclk := 1200 * rgF (runs []) R.MS_CTRL R.MS_CTRL_RTO }
    let pol := putBits (fld ⟨2, 0⟩ 4) R.GW_SLUICE_POL.hi R.GW_SLUICE_POL.lo 1
    let x1 : MeshReq := { rd with src := .host 0, part := none, home := 18, sport := 0 }
    (firstOf (resp r [l] 2) = some r ∧ firstOf (resp r [l] 0) = some r ∧ firstOf two = some { r with id := 2 })
    ∧ ((resp r [l] 2).mesh.resps.find? (fun r => r.id == 1) = some r ∧ portCut (resp r [l] 2) 0 1 = true)
    ∧ ((resp r [l] 0).mesh.resps.find? (fun r => r.id == 1) = some r ∧ portCut (resp r [l] 0) 0 1 = false
        ∧ (seqOf (resp r [l] 0) 0).ldx.find? (fun l => l.id == 1) = some l ∧ l.reg < 0xD0 ∧ l.reg ≠ 0xC0
        ∧ rd.timedOut = false ∧ rd.dead = false ∧ rd.logOf = none)
    ∧ (let r : MeshResp := { id := 1, req := rd, status := 5 }
       (resp r [] 0).mesh.resps.find? (fun r => r.id == 1) = some r ∧ firstOf (resp r [] 0) = some r ∧ r.status ≠ 0)
    ∧ (let r : MeshResp := { id := 1, req := { rd with timedOut := true }, status := 5 }
       (resp r [] 0).mesh.resps.find? (fun r => r.id == 1) = some r ∧ firstOf (resp r [] 0) = some r ∧ r.req.timedOut = true)
    ∧ (tagCap (trackerRouter .security) = 64 ∧ tagsUsed (used 64) 16 = 64 ∧ tagsUsed (used 63) 16 = 63
      ∧ (let wants (s : State) (q : MeshReq) : Bool := q.untagged && trackerHome q.home == 16 && decide (tagsUsed s q.home < tagCap q.home)
         (used 63).mesh.flight.find? (wants (used 63)) = some free ∧ (used 64).mesh.flight.find? (wants (used 64)) = none))
    ∧ (reqOf late 1 = some rd ∧ rd.sent + 1200 * rgF late R.MS_CTRL R.MS_CTRL_RTO ≤ late.nclk ∧ rd.untagged = false ∧ rd.fenced = false
      ∧ rd.dead = false ∧ rd.logOf = none ∧ rd.sent + 1200 * rgF (runs []) R.MS_CTRL R.MS_CTRL_RTO > (runs []).nclk)
    ∧ (sluiceSt (runs [(R.GW_SLUICE 0, 1)]) 0 0 = 1
      ∧ sluiceSt (runs [(R.GW_SLUICE 0, 2)]) 0 0 = 2 ∧ drained (runs [(R.GW_SLUICE 0, 2)]) 0 0 = true)
    ∧ (let t := asks (runs [(R.GW_SLUICE 0, pol), (R.PC_DOM 0, 0x00080005)]) x1
       reqOf t 1 = some x1 ∧ x1.held = none ∧ x1.untagged = false ∧ x1.fenced = false ∧ x1.done = false ∧ x1.passed = false ∧ fenceFor t (targetOf t x1.addr) = some (0, 0) ∧ holdsWake t x1 0 0 = true
        ∧ sluiceSt t 0 0 = 4 ∧ heldCount t 0 < 64 ∧ domCur t (domainNo 0 0) ≠ 0 ∧ mapHas (domainNo 0 0) t.pwr.goal = false) := by
  decide +kernel

theorem meets_MeshFlits :
    let f (w : Nat) (h : Bool) : Flit := ⟨BitVec.ofNat 512 (withHpar w * 2 ^ 448), 0, h⟩
    let east := f (2 ^ 62 + 2 ^ 54) true
    let here := f (2 ^ 61 + 2 ^ 53) true
    let wrong := f (2 ^ 61 + 2 ^ 53 + 7 * 2 ^ 40) true
    let odd : Flit := ⟨BitVec.ofNat 512 ((withHpar (2 ^ 62) + 2 ^ 62 + 2 ^ 61) * 2 ^ 448 + 2 ^ 448), 0, true⟩
    let one : QFlit := { f := east }
    let k := flitKey 0 3 0
    let ms (n : Nat) (q : QFlit) (r : Nat) : MeshSt := { packets := [(k, { out := 1, left := 1 })], queues := [(k, List.replicate n q)], retry := [(k, r)] }
    let s (m : MeshSt) (l : List (Nat × Nat)) : State := { runs l with mesh := m }
    let from0 := f (2 ^ 62 + 2 ^ 52) true
    (hparOk (flitWord east 0) = true ∧ outOf 0 (flitWord east 0) = 1 ∧ linkDown (s (ms 7 one 0) []) 0 1 = false
      ∧ takesFlit 0 ((flitsAt (s (ms 7 one 0) []) k).map QFlit.mc) (mcAlarm east) = true ∧ ¬ 4 ≤ portNum RPort.w)
    ∧ (hparOk (flitWord here 0) = true ∧ 4 ≤ outOf 0 (flitWord here 0) ∧ (mended here [.double 0]).2.getLsbD 0 = true
      ∧ (mended here [.single 0 71]).2.getLsbD 0 = false ∧ typeVC (headType here) = some (bits (flitWord here 0) 45 44)
      ∧ hparOk (flitWord wrong 0) = true ∧ typeVC (headType wrong) ≠ some (bits (flitWord wrong 0) 45 44))
    ∧ (headSource from0 = 0 ∧ hparOk (flitWord from0 0) = true ∧ outOf 0 (flitWord from0 0) < 4 ∧ 4 ≤ portNum RPort.l0
      ∧ portCut (s {} [(R.RT_ISO 0, 1)]) 0 0 = true)
    ∧ (4 ≤ portNum RPort.l0 ∧ mapHas 0 (s { recfg := [(0, 1)] } []).mesh.recfg = true)
    ∧ (let t := { asks (runs [(R.RT_LINK 0, fld R.RT_LINK_LDOWN 4)]) { id := 1, addr := 0x800000000, home := 4 } with tbRun := true }
       let g := f (2 ^ 62 + 2 ^ 52 + 2 ^ 50) true
       outOf 0 (flitWord g 0) = 1 ∧ linkDown t 0 1 = true ∧ (headReq t g).map MeshReq.home = some 4 ∧ routeDown t 9 0 4 = false
        ∧ hparOk (flitWord g 0) = true)
    ∧ (hparOk (flitWord odd 0) = false ∧ mapGet 0 k (s (ms 0 one 7) []).mesh.retry < 8 ∧ 8 ≤ mapGet 0 k (s (ms 0 one 8) []).mesh.retry
      ∧ routerBeside 0 3 = some 16 ∧ feeder 0 3 0 = some (flitKey 16 1 0))
    ∧ ((mapGet {} k (s (ms 0 one 0) []).mesh.packets).left = 1 ∧ (mapGet {} k (s {} []).mesh.packets).left = 0)
    ∧ (frontFlit (s (ms 1 one 0) []) 0 3 0 = some one ∧ (s (ms 1 one 0) []).nclk < one.since + 76800
      ∧ one.since + 76800 ≤ { s (ms 1 one 0) [] with nclk := 76800 }.nclk ∧ one.warned = false ∧ frontFlit (s {} []) 0 3 0 = none
      ∧ mapHas (1024 + 0x200 + routerUnit 0) (rollSpill (s (ms 1 one 0) [])).dbg.spill = false) := by decide +kernel

/-- Its clauses on outputs and windows. -/
theorem meets_MeshFlits_outputs :
    let head : Flit := ⟨BitVec.ofNat 512 ((2 ^ 62 + 2 ^ 54) * 2 ^ 448), 0, true⟩
    let x : QFlit := { f := head, out := 1 }
    let q (l : List (Nat × Nat)) (a c : List (Nat × Nat)) (st : List (Nat × Nat)) : State :=
      { runs [] with mesh := { queues := l.map fun e => (e.1, List.replicate e.2 x), alloc := a, ptr := [(flitKey 0 1 0, 5)], starve := st,
                               creds := c.map fun e => (e.1, List.replicate e.2 (3, false)) } }
    let two := q [(flitKey 0 3 0, 1), (flitKey 0 4 0, 1)] [] [] []
    let both (st c : Nat) : State := q [(flitKey 0 3 0, 1), (flitKey 0 4 3, 1)] [] [(flitKey 0 1 0, c)] [(1, st)]
    let z (s : State) : State := (List.range 4).foldl (fun s vc => allocate s 0 1 vc) s
    let m (now : Nat) : State := { runs [(R.MS_STAT, fld R.MS_STAT_EN 1 + fld R.MS_STAT_PERIOD 100)] with
      mesh := { live := [(R.ST_RDB 0 0, 2 ^ 64 - 1)], statNext := some 100 }, timebase := BitVec.ofNat 64 now }
    (mapHas (flitKey 0 1 0) two.mesh.alloc = false ∧ mapGet 0 (flitKey 0 1 0) two.mesh.ptr % 6 = 5
      ∧ frontFlit two 0 3 0 = some x ∧ frontFlit two 0 4 0 = some x ∧ x.out = 1 ∧ x.f.head = true ∧ x.drop = false
      ∧ (List.range 6).all (fun j => (frontFlit two 0 j 0).isNone || decide ((3 + 6 - 5) % 6 ≤ (j + 6 - 5) % 6)) = true)
    ∧ (sendable (z (both 2 7)) 0 1 0 = some (3, x) ∧ sendable (z (both 2 7)) 0 1 3 = some (4, x)
      ∧ sendable (z (both 3 8)) 0 1 0 = none ∧ mapGet 0 1 (both 3 7).mesh.starve = 3
      ∧ (List.range 4).all (fun vc => (sendable (z (runs [])) 0 1 vc).isNone) = true)
    ∧ (rgB (m 200) R.MS_STAT R.MS_STAT_EN = true ∧ (m 200).mesh.statNext = some 100 ∧ now (m 99) < 100 ∧ 100 ≤ now (m 199)
      ∧ now (m 199) < 100 + rgF (m 199) R.MS_STAT R.MS_STAT_PERIOD ∧ ((m 199).mesh.live.map fun e => e.1).Nodup
      ∧ (∀ e ∈ (m 199).mesh.live, e.1 ≠ R.MS_STAT ∧ e.2 < 2 ^ 64)) := by decide +kernel

theorem meets_EpochBoundaries :
    let s (st : Nat) (e : Epoch) : State := { runs [(R.EP_STAT 0, fld R.EP_STAT_STATE st)] with epochs := [(0, e)], timebase := 5 }
    let ready (s : State) : Prop := defined s 0 = true ∧ epState s 0 ≠ 0 ∧ epState s 0 ≠ 6 ∧ (epochOf s 0).step = 0
      ∧ boundaryWaits s 0 = false ∧ cascadePart s 0 = false
    let h : Held := .hostWrite (.seq 0) 0 0 [1]
    let c : State := { s 4 { step := 4, alt := some {}, held := [h], shadowed := [1] } with host := { cfg := [(1, 4)] } }
    let m : Micro := { w := 0, d := 0, s := 0, u := 0 }
    let runs1 : State := updSeq (s 2 { step := 1 }) 0 fun q => { q with micro := some m }
    (ready (s 1 { next := 5 }) ∧ (epochOf (s 1 { next := 5 }) 0).next ≤ now (s 1 { next := 5 }))
    ∧ (let t := s 5 { rolling := true }
       defined t 0 = true ∧ epState t 0 ≠ 0 ∧ epState t 0 ≠ 6 ∧ (epochOf t 0).step = 0 ∧ cascadePart t 0 = false
        ∧ boundaryWaits t 0 = true)
    ∧ ((epochOf (s 2 { step := 1 }) 0).step = 1 ∧ (blocksOf (s 2 { step := 1 }) 0).all (standsStill (s 2 { step := 1 })) = true)
    ∧ ((epochOf runs1 0).step = 1 ∧ (blocksOf runs1 0).all (standsStill runs1) = false)
    ∧ ((epochOf (s 3 { step := 2 }) 0).step = 2 ∧ meshOut (s 3 { step := 2 }) 0 = false ∧ hostRowOut (s 3 { step := 2 }) 0 = false
      ∧ cascadePart (s 3 { step := 2 }) 0 = false)
    ∧ ((epochOf c 0).step = 4 ∧ cascadePart c 0 = false ∧ (epochOf c 0).alt = some {} ∧ (epochOf c 0).waiters = []
      ∧ (epochOf c 0).off = [] ∧ parkedFor c 0 = [] ∧ (epochOf c 0).held = [h] ∧ busMaster c 0 = true
      ∧ c.host.fences = [] ∧ (blocksOf c 0).all (fun b => (seqOf c b).susp.isNone) = true) := by decide +kernel

theorem meets_StrikesAndMigration :
    let at_ (st : Nat) (e : Epoch) : State :=
      { runs [(R.EP_STAT 0, fld R.EP_STAT_STATE st)] with epochs := [(0, e)] }
    let m (src unit loc : Nat) : MCheck :=
      { src := BitVec.ofNat 8 src, unit := BitVec.ofNat 10 unit, loc := BitVec.ofNat 64 loc, badCol := none, badTwin := false, answers := true }
    let c : Snap := {}
    let s := at_ 1 { com := some c }
    let again := at_ 1 { com := some c, strikes := [(1, 0, 0)] }
    (((m 1 0 0).src = 1 ∧ (m 2 0 0).src = 2 ∧ (m 5 0 0).src = 5) ∧ blockOfPhys s 0 = some 0 ∧ partOf s 0 = some 0 ∧ epState s 0 ≠ 6
      ∧ cascadePart s 0 = false ∧ heldRegion s (0 / 9) = false
      ∧ (1, (m 1 0 0).unit, 0) ∉ (epochOf s 0).strikes ∧ (epochOf s 0).com = some c ∧ c.memWf = true)
    ∧ ((1, (m 1 0 0).unit, 0) ∈ (epochOf again 0).strikes ∧ (m 1 0 0).badCol = none ∧ underLoad again 0 = false
      ∧ blockOfPhys again 0 = some 0 ∧ partOf again 0 = some 0 ∧ epState again 0 ≠ 6 ∧ cascadePart again 0 = false
      ∧ heldRegion again (0 / 9) = false
      ∧ rgF again (R.BSW_MAP 0) R.BSW_MAP_SPARE_ST = 0 ∧ (rgF again (R.BSW_MAP 0) R.BSW_MAP_DEAD).testBit 8 = false)
    ∧ ((m 1 142 0).unit.toNat < 144 ∧ storeOfPhys s (m 1 142 0).unit.toNat = some 127 ∧ heldRegion s (142 / 9) = true
      ∧ heldRegion s (127 / 8) = true)
    ∧ (partOfRegion s (dramRegion 0x7FFFFFFFF) = some 0 ∧ epState s 0 ≠ 6
      ∧ (epochOf s 0).shadowed.contains (0x7FFFFFFFF / 0x20000) = false ∧ keepsHeld s 0 = false) := by decide +kernel

/-- Its clauses on resumption and migration. -/
theorem meets_StrikesAndMigration_moves :
    let at_ (st : Nat) (e : Epoch) : State :=
      { runs [(R.EP_STAT 0, fld R.EP_STAT_STATE st)] with epochs := [(0, e)] }
    let mig (n : Nat) : State := updSeq (at_ 1 {}) 7 fun q => { q with mig := n }
    let col (n : Nat) : State := updSeq (at_ 1 {}) 7 fun q => { q with mig := n, migCol := some 143 }
    let old : Epoch := { com := some { pwr := [(7, 3)] } }
    let back (e : Epoch) : State := at_ 5 { e with rolling := true }
    ((epochOf (back { wait := [(0, 1, true)] }) 0).wait ≠ [] ∧ (epochOf (back old) 0).rolling = true
      ∧ (epochOf (back old) 0).wait = [] ∧ (epochOf (back old) 0).defer = false ∧ (epochOf (back old) 0).preq = []
      ∧ ((epochOf (back old) 0).com.map Snap.pwr) = some [(7, 3)] ∧ pwrDom (back old) 7 = some 7 ∧ sluiceOf 7 = some (0, 7)
      ∧ sluiceSt (back old) 0 7 = 0 ∧ (3 : BitVec 3).toNat < 4)
    ∧ (partOf (mig 1) 7 = some 0 ∧ (seqOf (mig 1) 7).mig = 1 ∧ (seqOf (mig 1) 7).migCol = none ∧ epState (mig 1) 0 = 1
      ∧ (newHolder (mig 1) (7 / 8) (7 % 8) true true).isSome = true)
    ∧ (partOf (col 1) 7 = some 0 ∧ (seqOf (col 1) 7).mig = 1 ∧ (seqOf (col 1) 7).migCol = some 143 ∧ epState (col 1) 0 = 1
      ∧ (freeSpare (col 1) 7).isSome = true ∧ (seqOf (col 2) 7).mig = 2 ∧ (seqOf (col 2) 7).migCol = some 143 ∧ freeSpare (col 2) 7 = some 0)
    ∧ ((seqOf (mig 2) 7).mig = 2 ∧ (seqOf (mig 2) 7).migCol = none
      ∧ (newHolder (mig 2) (7 / 8) (7 % 8) true true).map (fun x => x.1) = some 8) := by decide +kernel

theorem meets_CascadeBoundaries :
    let casc (w me lead : Nat) (e : Epoch) (r : ReinSt) : State :=
      { withRegs { perst := false, perstLow := false, tbRun := true,
                   cfg := { parts := [(0, {})], cascade := { role := 1, w := BitVec.ofNat 2 w } } }
          [(R.IMG_STATUS, 0x0001FFFE00000000), (R.EP_STAT 0, 2 ^ 63 + fld R.EP_STAT_STATE 1),
           (R.REIN_ID, fld R.REIN_ID_DEVIDX me + fld R.REIN_ID_LEADIDX lead)]
        with epochs := [(0, e)], rein := r }
    let e : BitVec 32 := 0x80000001
    let mem := casc 1 1 0
    let led := casc 1 0 0
    let wide := casc 2 0 0
    let rest (s : State) : Prop := (epochOf s 0).held = [] ∧ (epochOf s 0).waiters = [] ∧ (epochOf s 0).off = [] ∧ parkedFor s 0 = []
      ∧ s.host.fences = [] ∧ (blocksOf s 0).all (fun b => (seqOf s b).susp.isNone) = true
    (inCascade (mem {} {}) = true ∧ casPart (mem {} {}) = 0 ∧ leadsCascade (mem {} {}) = false ∧ forEpoch (mem {} {}) e = true
      ∧ (mem {} {}).rein.prepared ≠ some e ∧ (epochOf (mem {} {}) 0).step = 0 ∧ boundaryWaits (mem {} {}) 0 = false)
    ∧ (let s := led { step := 4 } {}
       inCascade s = true ∧ leadsCascade s = true ∧ forEpoch s e = true ∧ (epochOf s 0).step = 4 ∧ otherDevices s = [1]
        ∧ (otherDevices s).all (fun d => (setAdd 1 s.rein.ready).contains (BitVec.ofNat 4 d)) = true)
    ∧ (let s := wide { step := 1 } {}
       inCascade s = true ∧ leadsCascade s = true ∧ forEpoch s e = true ∧ (epochOf s 0).step ≠ 0
        ∧ (otherDevices s).all (fun d => (setAdd 1 s.rein.ready).contains (BitVec.ofNat 4 d)) = false)
    ∧ (let s := led { step := 4 } {}
       leadsCascade s = true ∧ forEpoch s e = true ∧ (epochOf s 0).step ≠ 5 ∧ (epochOf s 0).rolling = false)
    ∧ (let s := mem { step := 4 } { prepared := some e }
       inCascade s = true ∧ leadsCascade s = false ∧ s.rein.prepared = some e ∧ (epochOf s 0).step = 4 ∧ rest s)
    ∧ (let s := mem { step := 4, alt := some {} } { prepared := some e }
       leadsCascade s = false ∧ forEpoch s e = true ∧ (epochOf s 0).rolling = false)
    ∧ (let s : State := { led { step := 1, prep := 7 } {} with timebase := BitVec.ofNat 64 (7 + 100 * rgF (led {} {}) R.CN_CTRL R.CN_CTRL_CTO) }
       (otherDevices s).all (fun d => s.rein.ready.contains (BitVec.ofNat 4 d)) = false
        ∧ (epochOf s 0).prep + 100 * rgF s R.CN_CTRL R.CN_CTRL_CTO ≤ now s ∧ leadsCascade s = true ∧ (epochOf s 0).step ≠ 0 ∧ (epochOf s 0).step ≠ 5 ∧ (epochOf s 0).rolling = false)
    ∧ (let s := led { step := 5 } { unacked := some (7, 1) }
       inCascade s = true ∧ s.rein.unacked = some (7, 1) ∧ leadsCascade s = true) := by decide +kernel

/-- Bytes in memory from a byte address. -/
def place (a : Nat) (bs : List Byte) : List Host.Cell :=
  ((List.range bs.length).zip bs).filterMap fun e => if e.2 = 0 then none else some (a + e.1, e.2)

/-- The header of an unsigned image of two frames, Vosel 2 (R45), with its CRC (R41). -/
def header : List Byte :=
  (List.range 124).map (fun i => BitVec.ofNat 8 (mapGet 0 i [(2, 1), (4, 0x56), (5, 0x53), (6, 0x4C), (7, 0x32), (8, 2),
    (10, 0x2F), (11, 0x12), (14, 1), (23, 2), (25, 1)])) ++ bytesOf 4 2991631431

theorem header_crc : crcOk header = true := by
  have e : header.take 124 = header.take 31 ++ ((header.drop 31).take 31 ++ ((header.drop 62).take 31 ++ (header.drop 93).take 31)) := by
    decide +kernel
  have c1 : (header.take 31).foldl crcByte 0xFFFFFFFF = 253866655 := by decide +kernel
  have c2 : ((header.drop 31).take 31).foldl crcByte 253866655 = 3421606011 := by decide +kernel
  have c3 : ((header.drop 62).take 31).foldl crcByte 3421606011 = 3550358468 := by decide +kernel
  have c4 : ((header.drop 93).take 31).foldl crcByte 3550358468 = 1303335864 := by decide +kernel
  unfold crcOk crc32
  rw [e, List.foldl_append, List.foldl_append, List.foldl_append, c1, c2, c3, c4]
  decide +kernel

theorem header_taken : frameRej false true 0 0 header = none := by
  unfold frameRej
  rw [header_crc]
  decide +kernel

/-- A frame whose index is not its number is refused, whatever its CRC. -/
theorem frame_refused : (frameRej false true 0 0 (List.replicate 128 0)).isSome = true := by
  unfold frameRej
  generalize crcOk (List.replicate 128 0) = c
  cases c <;> decide +kernel

/-- Two trailers that differ cannot both hold the digest: one of them makes the image fail its digest check. -/
theorem digest_differs (x : List Byte) (t : Bool → List Byte) (h : t true ≠ t false) : ∃ b, x ≠ t b := by
  by_cases e : x = t true
  · exact ⟨false, fun f => h (e.symm.trans f)⟩
  · exact ⟨true, e⟩

/-- A device in phase ph of a load, with the header at its source and a byte of the trailer that follows it. -/
def loads (ph : Nat) (L : ImgLoad) (l : List (Nat × Nat)) (mem : List Host.Cell) : State :=
  { runs ((R.IMG_STATUS, 0x0001FFFE00000000 + fld R.IMG_STATUS_PHASE ph + 1) :: (R.IMG_SRC, 0x2000) :: l) with
    img := some L, mem := mem }

/-- The load of those states. -/
def aLoad : ImgLoad := { affected := 1, replaced := [0], count := 1, owner := [(0, 0)] }

theorem meets_ImageLoads :
    let good : State := { runs [(R.IMG_SRC, 0x2000), (R.IMG_LEN, 312), (R.EP_STAT 0, fld R.EP_STAT_STATE 1)] with
      seqs := [], mem := place 0x1000 header ++ place 0x1100 (bytesOf 4 0x56534C54) }
    let L := aLoad
    let load (ph : Nat) (L : ImgLoad) : State := loads ph L [] []
    let drain : State := (loadDoms (load 2 L) L).foldl (fun s d => setSluice s d.1 d.2 1) (load 2 L)
    let hd (n : Nat) : State := loads 3 { L with count := n } [] (place 0x1000 header)
    let calm (s : State) : Prop := ∀ n, n < 16 → (epochOf s n).wait = []
    rgB (load 3 L) R.IMG_STATUS R.IMG_STATUS_BUSY = true
    ∧ (rgB (runs []) R.IMG_STATUS R.IMG_STATUS_BUSY = false ∧ (checkRej (runs [])).isSome = true ∧ calm (runs []))
    ∧ (rgB good R.IMG_STATUS R.IMG_STATUS_BUSY = false ∧ checkRej good = none ∧ (openLoad good none).replaced = [0]
      ∧ epState good 0 = 1 ∧ (epochOf good 0).step = 0 ∧ (epochOf good 0).rolling = false ∧ cascadePart good 0 = false)
    ∧ (phase drain = 2 ∧ drain.cellsWf = true ∧ committedAll drain L = true
      ∧ ((loadDoms drain L).all fun d => decide (1 ≤ sluiceSt drain d.1 d.2) && drained drain d.1 d.2) = true ∧ ∀ n ∈ L.replaced, n < 16)
    ∧ (phase (hd 2) = 3 ∧ imgFrame (hd 2) 0 = header ∧ L.frames.length + 1 < 2)
    ∧ (phase (load 3 L) = 3 ∧ imgFrame (load 3 L) 0 = List.replicate 128 0 ∧ calm (load 3 L)) := by decide +kernel

/-- Its clauses on APPLY, the routers and RELEASE. -/
theorem meets_ImageLoads_applies :
    let L : ImgLoad := { aLoad with staged := some {} }
    let M : ImgLoad := { aLoad with staged := some { regions := [(0, { pol := 2 })] } }
    let dead : State := { loads 5 M [] [] with jdead := [(0, 3)] }
    let strict : Settings := { regions := [(0, { pol := 2 })] }
    let calm (s : State) : Prop := ∀ n, n < 16 → (epochOf s n).wait = []
    let link (at_ : Nat) (q : List QFlit) : State :=
      { loads 6 L [(R.RT_LINK 15, fld R.RT_LINK_RECFG 1)] [] with nclk := at_, mesh := { recfg := [(15, 100)], queues := [(32 * 15, q)] } }
    let empty (s : State) : Prop := (s.mesh.queues.all fun e => e.1 / 32 != 15 || e.2.isEmpty) = true
    let since (s : State) : Nat := mapGet s.nclk 15 s.mesh.recfg
    (let s := loads 5 L [] []
     phase s = 5 ∧ s.cellsWf = true ∧ L.staged = some {} ∧ (sparing s L {}).isOk = true
      ∧ (∀ e ∈ L.owner, e.2 < 16) ∧ (∀ n ∈ L.replaced, n < 16))
    ∧ (phase dead = 5 ∧ calm dead ∧ M.staged = some strict ∧ (sparing dead M strict).isOk = false)
    ∧ ((link 0 []).img = some L ∧ rgB (link 0 []) (R.RT_LINK 15) R.RT_LINK_RECFG = true
      ∧ ¬ empty (link 2499 [default]) ∧ (link 2499 [default]).nclk < since (link 2499 [default]) + 2400
      ∧ since (link 2500 [default]) + 2400 ≤ (link 2500 [default]).nclk ∧ empty (link 2499 [])
      ∧ partOfRegion (runs []) 0 = some 0)
    ∧ (let f := posFld 0
       let s : State := { loads 6 L [(R.RT_LINK 0, fld R.RT_LINK_RECFG 1), (R.BSW_MAP 1, putBits 31204079050816 f.hi f.lo 19)] [] with
         cfg := { parts := [(0, { indep := true })] } }
       rgB s (R.RT_LINK 0) R.RT_LINK_RECFG = true ∧ blockOfPhys s 8 = some 8 ∧ underLoad s 1 = false)
    ∧ (let s := { loads 6 { L with relTick := some 7 } [] [] with timebase := 7 }
       phase s = 6 ∧ 7 ≤ now s ∧ rgB s (R.RT_LINK 0) R.RT_LINK_RECFG = false) := by decide +kernel

/-- Its clauses on frames: header_taken, frame_refused, and a last frame whose digest is not the trailer's. -/
theorem meets_ImageLoads_digest :
    let s (b : Bool) : State := loads 3 aLoad [] (place 0x1000 header ++ if b then [(0x1080 + 8, 1)] else [])
    (∀ b, phase (s b) = 3 ∧ imgFrame (s b) 0 = header) ∧ aLoad.count ≤ aLoad.frames.length + 1
    ∧ ∃ b, digestBytes (sha3_384 (aLoad.frames ++ [header]).flatten) ≠ ((imgTrailer (s b) 1 3365).drop 8).take 48 := by
  refine ⟨by decide +kernel, by decide, ?_⟩
  exact digest_differs _ _ (by decide +kernel)

theorem meets_RegisterAccess :
    (cardAt (R.DRAM_SCRUB 15)).isSome = true ∧ 0x030000000000 ≤ R.DRAM_SCRUB 15 ∧ R.DRAM_SCRUB 15 < 0x030010000000
    ∧ (cardAt (R.BSW_MAP 0)).isSome = true ∧ 0x030000000000 ≤ R.BSW_MAP 0
    ∧ regThere (runs []) (R.KEY_ERR 0) = true ∧ R.KEY_ERR 0 % 0x1000000 ≠ 0x780200
    ∧ ¬ (R.SPW_WARN 0 ≤ R.KEY_ERR 0 ∧ R.KEY_ERR 0 < R.SPW_WARN 16) := by decide +kernel

theorem meets_PowerAndResets :
    let hot : State := runs [(R.TH_STATUS, fld R.TH_STATUS_TMAX 120)]
    let lost : State := { runs [] with perst := true, refLost := true }
    let held : State := { lost with refPerst := true }
    (hot.powered = true ∧ hot.perst = false ∧ hot.thermLatch = false ∧ 120 ≤ rgF hot R.TH_STATUS R.TH_STATUS_TMAX)
    ∧ (State.reset.powered = true ∧ State.reset.perstLow = true ∧ State.reset.refLost = false ∧ State.reset.thermLatch = false
      ∧ State.reset.perst = true)
    ∧ (held.refLost = true ∧ held.refPerst = true)
    ∧ (lost.refLost = true ∧ lost.refPerst = false ∧ lost.powered = true ∧ lost.perst = true ∧ lost.perstLow = false ∧ lost.thermLatch = false) := by
  decide +kernel

/-- The clauses on a bundle and a firmware copy that verify rest on Config.mldsaVerify, which has no value here. -/
theorem meets_BootPhases :
    let at_ (ph : Nat) : State := runs [(R.BOOT_STATUS, fld R.BOOT_STATUS_PHASE ph)]
    let b : State := { at_ 3 with sec := { copyB := true } }
    ((at_ 1).perst = false ∧ (at_ 1).powered = true ∧ bootPhase (at_ 1) = 1 ∧ (at_ 1).testEn = false)
    ∧ (bootPhase (at_ 2) = 2 ∧ bootItem (at_ 2) 1 0 = [] ∧ [0] ≠ bootItem (at_ 2) 1 0)
    ∧ (bootPhase (at_ 3) = 3 ∧ firmware (at_ 3) (bootItem (at_ 3) 1 0) = none ∧ (at_ 3).sec.copyB = false)
    ∧ (bootPhase b = 3 ∧ firmware b (bootItem b 1 1) = none ∧ b.sec.copyB = true)
    ∧ (bootPhase (at_ 4) = 4 ∧ bootItem (at_ 4) 2 0 = [] ∧ [0] ≠ bootItem (at_ 4) 2 0)
    ∧ (bootPhase (at_ 5) = 5 ∧ (at_ 5).sb.cart = none)
    ∧ (let c (k u : Nat) : Cart := { id := ⟨0, 0, true, true, true, 0, 0, 100⟩, spare := [{ kind := BitVec.ofNat 8 k, unit := BitVec.ofNat 16 u }] }
       let s (k u : Nat) : State := { at_ 5 with sb := { cart := some (c k u) } }
       bootPhase (s 4 143) = 5 ∧ (s 4 143).sb.cart = some (c 4 143) ∧ challengeState (s 4 143) (c 4 143).id = sbTrusted
        ∧ challengeState (s 8 15) (c 8 15).id = sbTrusted ∧ rgB (s 8 15) (R.DRAM_LANE 15) R.DRAM_LANE_L0V = false)
    ∧ (bootPhase (at_ 6) = 6 ∧ (at_ 6).dram.zeroing = 0 ∧ bootItem (at_ 6) 3 0 = [] ∧ [0] ≠ bootItem (at_ 6) 4 0)
    ∧ ownerSlot { valid := 4, retired := 3 } = some 2 := by decide +kernel

theorem meets_SecurityMailbox :
    let s : State := runs []
    let m (cmd status : Nat) (cut : Bool) : MbxRun := { cmd := BitVec.ofNat 8 cmd, status := BitVec.ofNat 8 status, cut := cut }
    (mbxMay (.host 0) = true ∧ mbxMay .awl = true ∧ rgB s R.SEC_MBX R.SEC_MBX_BUSY = false) ∧ mbxMay (.seq 0) = false
    ∧ (m 7 4 true).status ≠ 0
    ∧ ((m 2 0 false).status = 0 ∧ (m 2 0 false).cut = false ∧ ((m 1 0 false).cmd = 1 ∧ (m 2 0 false).cmd = 2)
      ∧ nextSlot {} = some 0 ∧ nextSlot { burned := 3 } = some 2 ∧ ownerSlot { valid := 2, burned := 3 } = some 1)
    ∧ ((m 3 0 false).cmd = 3 ∧ (m 7 0 false).cmd = 7) := by decide +kernel

theorem meets_SaddlebagCommands :
    let withCart (st : Nat) (c : Cart) (l : List (Nat × Nat)) : State :=
      { runsSeq ((R.SB_STATUS, fld R.SB_STATUS_STATE st) :: l) {} with seqs := [], sb := { cart := some c } }
    let ckpt := (R.SB_CKPT, fld R.SB_CKPT_SLOT 1 + fld R.SB_CKPT_INTV 1)
    let r : JRec := { kind := 3 }
    let c : Cart := {}
    let full : Cart := { slots := [(1, {})] }
    let q : State := { withCart 6 c [] with sb := { cart := some c, queue := [r] } }
    let op : CkptOp := { slot := 63 }
    let e : Epoch := { com := some {} }
    let busy : State := { withCart 3 c [] with epochs := [(0, e)], sb := { cart := some c, op := some op } }
    let per : State := { withCart 3 c [ckpt, (R.EP_STAT 0, fld R.EP_STAT_STATE 1)] with
      sb := { cart := some c, nextSave := some 5 }, timebase := 5 }
    State.reset.sb.cart = none
    ∧ ((withCart 5 c []).sb.cart = some c ∧ sbState (withCart 5 c []) = 5 ∧ cartInhibit (withCart 5 c []) = false)
    ∧ (busy.sb.cart = some c ∧ busy.sb.op = some op)
    ∧ (q.sb.cart = some c ∧ q.sb.queue = [r] ∧ domCur q 173 = 0 ∧ sbState q = 6 ∧ sbState busy = 3 ∧ cartInhibit q = false
      ∧ c.journal.length < 2 ^ 25)
    ∧ (per.sb.op = none ∧ ckptStatus per false 0 1 1 = 0 ∧ rgF per R.SB_CKPT R.SB_CKPT_SLOT = 1
      ∧ rgF per R.SB_CKPT R.SB_CKPT_INTV = 1 ∧ per.sb.nextSave = some 5 ∧ 5 ≤ now per)
    ∧ ckptStatus (withCart 3 full [ckpt]) true 0 1 0 = 0 ∧ ckptStatus (withCart 5 c [ckpt]) false 0 1 1 ≠ 0
    ∧ (op.restore = false ∧ op.status = 0 ∧ (epochOf busy op.part).com = some {} ∧ (epochOf busy op.part).defer = false) := by
  decide +kernel

/-! ### The host -/

/-- The device after boot, region 0 with partition 0, Memory Space and Bus Master Enable of the PF set. -/
def up (l : List (Nat × Nat)) (h : HostSt) : State :=
  { runs ((R.HI_STATUS, 2 ^ 31) :: l) with
    seqs := [], host := { h with cfg := [(1, 6), (20, 0x80000000), (90, 9), (92, 16), (1024 + 1, 4), (1024 + 20, 0x80000000)] } }

/-- A command with bytes at the values given. -/
def cmd (l : List (Nat × Nat)) : BitVec 512 := BitVec.ofNat 512 (l.foldl (fun a e => a + e.2 * 256 ^ (63 - e.1)) 0)

/-- A command that starts with nothing before it, its common fields right. -/
def ripe (s : State) (f q : Nat) (c : BitVec 512) (opc : Nat) : Bool :=
  (cmdStart s f q c opc).isSome && s.host.cmds.isEmpty && decide (cmdByte c 1 < 4) && decide (f = 0 ∨ cmdPid c = f - 1)
    && cmdByte c 7 == 0

theorem takes_ripe (s : State) (f q : Nat) (c : BitVec 512) (opc : Nat) (h : ripe s f q c opc = true) : s.takes f q c opc := by
  simp only [ripe, Bool.and_eq_true, decide_eq_true_eq, beq_iff_eq, List.isEmpty_iff] at h
  obtain ⟨⟨⟨⟨h1, h2⟩, h3⟩, h4⟩, h5⟩ := h
  exact ⟨⟨h1, by simp [startQ, h2]⟩, h3, h4, h5⟩

theorem meets_HostRequests :
    let s := up [] {}
    let p : State := up [] { msixTab := [(4 * 2047 + 3, 0)], pba := [2047] }
    (s.perst = false ∧ s.powered = true ∧ (runs []).perst = false)
    ∧ rgB (runs []) R.HI_STATUS R.HI_STATUS_READY = false
    ∧ (rgB s R.HI_STATUS R.HI_STATUS_READY = true ∧ funcThere { s with host := {} } 1 = false)
    ∧ (funcThere s 16 = true ∧ cfgReg s 0 0 = 0 ∧ cfgReg s 16 0 = 0)
    ∧ (memReady (runs []) 0 = false ∧ memReady s 2 = false)
    ∧ (memReady s 0 = true ∧ ownDevice s 0 = false ∧ spans s 0 .bar2 (512 + 1) 0 0 512 = [(0, .mesh 0, 512)]
      ∧ memReady s 1 = true ∧ spans s 1 .bar2 (1 + 1) 0 (2 ^ 34 - 1) 1 = [(0, .mesh 0x7FFFFFFFE, 1)])
    ∧ (spans s 0 .bar0 (16 + 1) 0 0x607FF0 16 = [(0, .table 0x7FF0, 16)] ∧ spans s 1 .bar0 (16 + 1) 0 0x407F0 16 = [(0, .table 0x7F0, 16)])
    ∧ (defined s 0 = true ∧ ((1 : Func).val = 0 ∨ (1 : Func).val = 0 + 1))
    ∧ (2047 < vectors 0 ∧ 2048 * 0 + 2047 ∈ p.host.pba ∧ busMaster p (requesterOf p 0) = true ∧ msixOn p 0 = true)
    ∧ (1 ≤ 6 ∧ 16 ∈ [1, 2, 4, 8, 16]) ∧ doeReady s = true := by decide +kernel

theorem meets_HostQueues :
    let on (f q : Nat) : List (Nat × Nat) := [(R.QCFG f q, 2 ^ 63 + 2 ^ 16 + 3)]
    let z : QState := { cfg := BitVec.ofNat 64 (2 ^ 63 + 2 ^ 16 + 3) }
    let q (z : QState) (h : HostSt) : State := up (on 16 63) { h with queues := [(64 * 16 + 63, z)] }
    let v : Word := BitVec.ofNat 64 (2 ^ 63 + 0x07FF0000FFFF0001)
    let c : Compl := { f := 16, q := 63, status := 0 }
    let rd (p : HostPurpose) (n : Nat) : HostRd := { id := 9, purpose := p, len := n, f := 16, ask := n }
    let reads (r : HostRd) : State := up [] { rds := [r] }
    let asked (r : HostRd) : Prop := ((reads r).host.rds.find? fun x => x.id == 9 && x.ask != 0) = some r
    let last (r : HostRd) : Prop := r.got.length + r.ask = r.len ∧ ((reads r).host.rds.filter fun x => x.id != 9) = []
    let part : HostRd := { rd (.image 0 0 0) 10000 with ask := 512, got := List.replicate 16 0 }
    let c2 := cmd [(0, 2), (22, 3), (23, 254), (27, 16)]
    let b1 : List Byte := 8 :: List.replicate 63 0
    (rgB (up [] {}) (R.QCFG 16 63) R.QCFG_EN = false ∧ v.getLsbD 63 = true)
    ∧ (rgB (q z {}) (R.QCFG 16 63) R.QCFG_EN = true ∧ (0 : Word).getLsbD 63 = false)
    ∧ (queueOf (q z {}) 16 63 = z ∧ (3 : BitVec 16).toNat ≤ sqSize z ∧ sqSize z < (4 : BitVec 16).toNat
      ∧ (1 : BitVec 16).toNat ≤ cqSize z ∧ cqSize z < (2 : BitVec 16).toNat)
    ∧ (let s := q { z with sqTail := 1 } { rr := 1087 }
       rgB s R.HI_STATUS R.HI_STATUS_READY = true ∧ nextServed s = some (64 * 16 + 63) ∧ s.host.rds = [] ∧ 0 < readCap s (requesterOf s 16))
    ∧ (let s := up ((R.WH_SLOT 31, fld R.WH_SLOT_EN 1 + fld R.WH_SLOT_INDEX 16) :: on 16 63) { queues := [(64 * 16 + 63, z)] }
       rgB s (R.WH_SLOT 31) R.WH_SLOT_EN = true ∧ (rgF s (R.WH_SLOT 31) R.WH_SLOT_KIND, rgF s (R.WH_SLOT 31) R.WH_SLOT_INDEX) = (0, 16)
        ∧ rgB s (R.QCFG 16 63) R.QCFG_EN = true ∧ (3 : BitVec 16).toNat ≤ sqSize (queueOf s 16 63))
    ∧ (let s := q { z with cqTail := 1, cqHead := 1 } { compls := [c] }
       (s.host.compls.find? fun c => c.f == 16 && c.q == 63) = some c ∧ rgB s (R.QCFG 16 63) R.QCFG_EN = true
        ∧ (1 + 1) % (cqSize z + 1) ≠ 1 ∧ busMaster s (requesterOf s 16) = true ∧ s.host.fences = [])
    ∧ (asked part ∧ (List.replicate 512 (0 : Byte)).length = part.ask ∧ part.got.length + part.ask < part.len
      ∧ ((reads part).host.rds.filter fun x => x.f == part.f && x.ask != 0 && x.id != 9).length < readCap (reads part) part.f)
    ∧ (asked (rd (.sqFetch 16 63) 64) ∧ last (rd (.sqFetch 16 63) 64) ∧ b1.length = 64 ∧ opcListed (cmdByte (BitVec.ofNat 512 (bytesVal b1)) 0) = true)
    ∧ (asked (rd (.copy 16 63 c2 0) 1) ∧ last (rd (.copy 16 63 c2 0) 1)
      ∧ (List.replicate 1 (0 : Byte)).length = copyChunk c2 0 ∧ copyDev c2 = 0x3FE ∧ copyChunk c2 1 = 15
      ∧ ownDevice (up [] {}) (copyDev c2 + 2 * 1) = false) := by decide +kernel

theorem meets_SpdmMessages :
    doeReady (up [] {}) = true ∧ (HostSt.spdm { spdm := 3 }) = 3 ∧ (HostSt.spdm {}) < 3
    ∧ (slotMask (up [] {})).testBit 0 = true ∧ 1 ≤ (6 : BitVec 8).toNat ∧ (6 : BitVec 8).toNat ≤ 6 := by
  refine ⟨by decide +kernel, rfl, by decide, ?_, by decide, by decide⟩
  unfold slotMask
  split <;> decide

theorem meets_RunsAndCopies :
    let s := up [] {}
    let busy := up [] {}
    let run (l : List (Nat × Nat)) : BitVec 512 := cmd ((0, 1) :: (4, 0) :: l)
    let mask0 := (31, 1)
    let started := { busy with seqs := [(0, { inProg := true })] }
    let c := run [(9, 7), (10, 255), (11, 248), mask0]
    let lock : State := { up ((List.range 8).map fun b => (R.PC_DOM b, 0x00080000)) {} with cfg := { parts := [(0, {})] } }
    let r : Run := { part := 0, cmd := some (0, 5, c), blocks := [0], deadline := some 100 }
    let inRun : State := { up [] { runs := [r] } with seqs := [(0, { inProg := true, inRun := true })] }
    (startQ s 1 63 (cmd [(0, 3)]) = 63 ∧ startQ s 0 0 (cmd [(0, 8), (1, 4)]) = 0 ∧ (cmdStart s 1 63 (cmd [(0, 3)]) 3).isSome = true
      ∧ (cmdStart s 0 0 (cmd [(0, 8), (1, 4)]) 8).isSome = true
      ∧ 4 ≤ cmdByte (cmd [(0, 8), (1, 4)]) 1)
    ∧ (ripe s 0 5 c 1 = true ∧ ripe s 1 5 c 1 = true ∧ cmdByte c 5 = 0 ∧ cmdByte c 6 = 0 ∧ cmdVal c 12 4 = 0 ∧ cmdVal c 52 12 = 0)
    ∧ (pcOk (cmdVal (run [(11, 4)]) 8 4) = false ∧ pcOk (cmdVal c 8 4) = true ∧ cmdVal c 8 4 = 0x7FFF8)
    ∧ (defined s 15 = false ∧ cmdPid (cmd [(4, 15)]) = 15 ∧ 16 ≤ cmdPid (cmd [(4, 16)]))
    ∧ (defined s 0 = true ∧ leadOnly s 0 = false ∧ lockstep s 0 = false ∧ maskBlocks c = [0] ∧ partOf s 0 = some 0
      ∧ (maskBlocks c).find? (fun b => (seqOf started b).inProg) = some 0
      ∧ (maskBlocks c).find? (fun b => (seqOf s b).inProg) = none ∧ blockCur s 0 < 2)
    ∧ (captured s 0 = false ∧ captured lock 0 = false ∧ lockstep lock 0 = true ∧ ripe lock 0 5 (run []) 1 = true ∧ cmdVal (run []) 16 16 = 0 ∧ leadOf lock 0 = 0
      ∧ (seqOf lock 0).inProg = false ∧ ∀ b ∈ blocksOf lock 0, blockCur lock b < 2)
    ∧ (inRun.host.runs = [r] ∧ r.exits = [] ∧ (cmdByte c 1).testBit 1 = false ∧ (seqOf inRun 0).inRun = true
      ∧ (seqOf inRun 0).exit = none ∧ (seqOf inRun 0).waiting = false ∧ (seqOf inRun 0).micro = none
      ∧ (seqOf inRun 0).resume = none ∧ (seqOf inRun 0).inProg = true)
    ∧ ((blocksOf inRun 0).all (fun b => !rgB inRun (R.ARR_SUSP b) R.ARR_SUSP_VALID) = true ∧ r.blocks.all (· < 128) = true)
    ∧ (r.deadline = some 100 ∧ 100 ≤ now { inRun with timebase := 100 } ∧ now { inRun with timebase := 99 } < 100) := by decide +kernel

/-- Its clauses on COPY. -/
theorem meets_RunsAndCopies_copies :
    let s := up [] {}
    let copy (dir n : Nat) : BitVec 512 := cmd [(0, 2), (4, 0), (5, dir), (22, 3), (23, 254), (27, n)]
    let away : BitVec 512 := cmd [(0, 2), (19, 8), (27, 1)]
    let still : State := { s with host := { s.host with cfg := [(90, 9), (92, 16)] } }
    (s.host.rds = [] ∧ 0 < readCap s (requesterOf s 1))
    ∧ (ripe s 0 0 (copy 1 16) 2 = true ∧ ripe s 1 0 (copy 0 16) 2 = true ∧ copyDev (copy 0 16) % 2 = 0
      ∧ copyDev (copy 0 16) < 2 ^ 48 ∧ copyLen (copy 0 16) = 16 ∧ cmdVal (copy 0 16) 28 4 = 0 ∧ cmdVal (copy 0 16) 32 32 = 0
      ∧ vfMay s 0 (copyDev (copy 0 16)) (copyDev (copy 0 16) + 2 * 16 - 1) = true ∧ busMaster s (requesterOf s 1) = true
      ∧ ownDevice s (copyDev (copy 1 16)) = false)
    ∧ (ripe s 1 0 away 2 = true ∧ vfMay s 0 (copyDev away) (copyDev away + 1) = false)
    ∧ (ripe still 0 0 (copy 0 16) 2 = true ∧ busMaster still (requesterOf still 0) = false) := by decide +kernel

/-- Its clauses on a wrong BLKMASK and a captured partition. -/
theorem meets_RunsAndCopies_masks :
    let s := up [] {}
    let run (l : List (Nat × Nat)) : BitVec 512 := cmd ((0, 1) :: (4, 0) :: l)
    let c := run [(9, 7), (10, 255), (11, 248), (31, 1)]
    let lock : State := { s with cfg := { parts := [(0, {})] } }
    let held : State := { s with dbg := { capStop := 1, pstop := 1 } }
    let other := run [(11, 248), (30, 1)]
    (ripe s 0 5 other 1 = true ∧ pcOk (cmdVal other 8 4) = true ∧ cmdVal other 12 4 = 0 ∧ cmdVal other 52 12 = 0 ∧ leadOnly s 0 = false
      ∧ 8 ∈ maskBlocks other ∧ partOf s 8 ≠ some 0 ∧ ripe lock 0 5 c 1 = true ∧ cmdVal c 16 16 ≠ 0 ∧ leadOnly lock 0 = false
      ∧ lockstep lock 0 = true)
    ∧ (ripe held 0 5 c 1 = true ∧ captured held 0 = true ∧ leadOnly held 0 = false ∧ (seqOf held 0).inProg = false) := by decide +kernel

theorem meets_HostServices :
    let s := up [] {}
    let image (m n : Nat) : BitVec 512 := cmd [(0, 3), (5, m), (14, 0x20), (18, n / 256), (19, n % 256)]
    let v (m : Nat) (s : State) : State :=
      setB (setB (setRg (setRg s R.IMG_SRC 0x2000) R.IMG_LEN 312) R.IMG_CTRL R.IMG_CTRL_FORCE (m / 2 == 1)) R.IMG_CTRL R.IMG_CTRL_UNCHECKED (m / 4 == 1)
    let good : State := { s with mem := place 0x1000 header ++ place 0x1100 (bytesOf 4 0x56534C54) }
    let busy := up [(R.IMG_STATUS, 0x0001FFFE00000001)] {}
    let mc := cmd [(0, 4), (18, 13), (19, 93)]
    let pid (o : Nat) (l : List (Nat × Nat)) : BitVec 512 := cmd ((0, o) :: l)
    let room := pid 5 [(16, 3)]
    let stopped : State := { up [(R.DBG_STATUS 0, 2 + fld R.DBG_STATUS_CAUSE 6), (R.EP_STAT 0, fld R.EP_STAT_STATE 1)] {} with
      seqs := [], dbg := { pstop := 1, capStop := 1 } }
    (ripe s 0 63 (image 0 312) 3 = true ∧ cmdByte (image 7 1) 5 = 7 ∧ cmdByte (image 0 312) 6 = 0 ∧ cmdVal (image 0 312) 20 12 = 0
      ∧ cmdVal (image 0 312) 32 32 = 0 ∧ cmdVal (image 0 312) 8 8 = 0x2000 ∧ cmdVal (image 0 312) 16 4 = 312)
    ∧ (rgB busy R.IMG_STATUS R.IMG_STATUS_BUSY = true ∧ ripe busy 0 0 (image 0 312) 3 = true)
    ∧ (rgB good R.IMG_STATUS R.IMG_STATUS_BUSY = false ∧ ripe good 0 0 (image 0 312) 3 = true ∧ checkRej (v 0 good) = none)
    ∧ ((cmdByte (image 1 1) 5).testBit 0 = true ∧ ripe s 0 0 (image 1 1) 3 = true ∧ cmdVal (image 1 1) 16 4 = 1 ∧ busMaster s 0 = true
      ∧ rgB s R.IMG_STATUS R.IMG_STATUS_BUSY = false ∧ s.host.rds = [] ∧ 0 < readCap s 0)
    ∧ (ripe s 0 0 mc 4 = true ∧ cmdByte mc 5 = 0 ∧ cmdVal mc 16 4 = 3421 ∧ mcodeClosed s = false
      ∧ mcodeClosed (up [] { imgStarted := true }) = true)
    ∧ (cmdPid room = 0 ∧ defined s 0 = true ∧ leadOnly s 0 = false ∧ ripe s 1 0 room 5 = true ∧ captureLen s 0 ≤ cmdVal room 16 4
      ∧ cmdByte room 6 % 128 = 0)
    ∧ (ripe s 0 0 (pid 5 [(19, 1)]) 5 = true ∧ cmdVal (pid 5 [(19, 1)]) 16 4 < captureLen s 0)
    ∧ (ripe s 0 0 (pid 5 []) 5 = true ∧ cmdVal (pid 5 []) 16 4 = 0 ∧ captured s 0 = false)
    ∧ (ripe stopped 0 0 (pid 5 []) 5 = true ∧ captured stopped 0 = true ∧ stopped.dbg.chipStop = false ∧ epState stopped 0 ≠ 6
      ∧ forced stopped 0 = false) := by decide +kernel

/-- Its clauses on EPOCH, FENCE, QUERY and the edge and readout of a capture. -/
theorem meets_HostServices_waits :
    let s := up [] {}
    let pid (o : Nat) (l : List (Nat × Nat)) : BitVec 512 := cmd ((0, o) :: l)
    let lost := up [(R.EP_STAT 0, fld R.EP_STAT_STATE 6)] {}
    let go := up [(R.EP_STAT 0, fld R.EP_STAT_STATE 1)] {}
    let fence := pid 7 []
    let other : HostCmd := { f := 0, q := 1, body := pid 1 [] }
    let mine (s : State) : List HostCmd := s.host.cmds.filter fun h => h.f == 0 && cmdByte h.body 4 == 0
    let waits := up [] { cmds := [other] }
    let first := up [] { cmds := [{ other with q := 0, started := true }] }
    let power (n : Nat) : BitVec 512 := pid 7 [(5, 1), (6, n), (31, 1)]
    let query := pid 8 [(14, 0x20)]
    let k (e : Option Word) : Capture := { part := 0, body := pid 5 [(5, 1), (6, 128), (24, 0), (31, 7)], edge := e }
    let caps (e : Option Word) : State := { up [] { caps := [k e] } with timebase := 7 }
    (ripe lost 0 0 (pid 6 []) 6 = true ∧ epState lost 0 = 6)
    ∧ (ripe go 1 0 (pid 6 []) 6 = true ∧ epState go 0 = 1 ∧ (epochOf go 0).step = 0 ∧ boundaryWaits go 0 = false ∧ cascadePart go 0 = false)
    ∧ (ripe s 0 0 fence 7 = true ∧ s.host.fences = [] ∧ mine s = [] ∧ s.host.queues = [])
    ∧ ((cmdStart waits 0 0 fence 7).isSome = true ∧ startQ waits 0 0 fence = 0 ∧ waits.host.fences = [] ∧ mine waits = [other]
      ∧ other.q ≠ 0 ∧ other.body ≠ fence ∧ other.stamp ≤ waits.host.bells)
    ∧ ((cmdStart first 0 0 fence 7).isSome = true ∧ startQ first 0 0 fence = 0 ∧ first.host.fences = []
      ∧ (mine first).head?.map HostCmd.q = some 0 ∧ (mine first).head?.map HostCmd.body ≠ some fence)
    ∧ (ripe s 0 0 (power 5) 7 = true ∧ maskBlocks (power 5) = [0] ∧ partOf s 0 = some 0 ∧ holder s 0 = some 0
      ∧ powerRefusal s 0 2 [0] = 0 ∧ rgB s (R.PC_DOM 0) R.PC_DOM_BUSY = false ∧ domCur s 0 < 2 ∧ ripe s 0 0 (power 2) 7 = true
      ∧ powerRefusal { s with seqs := [(0, { inProg := true })] } 0 5 [0] ≠ 0)
    ∧ (ripe s 0 0 query 8 = true ∧ cmdVal query 16 16 = 0 ∧ cmdVal query 32 32 = 0)
    ∧ (k none ∈ (caps none).host.caps ∧ edgeDue (caps none) (k none) = true ∧ cmdVal (k none).body 24 8 = 7)
    ∧ ((caps (some 7)).host.caps.find? (fun k => k.part == 0 && k.edge.isSome) = some (k (some 7))
      ∧ busMaster (caps (some 7)) (requesterOf (caps (some 7)) 0) = true ∧ (caps (some 7)).host.cmds = [] ∧ (k (some 7)).q < 64
      ∧ (cmdByte (k (some 7)).body 6).testBit 7 = true ∧ (caps (some 7)).dbg.chipStop = false ∧ epState (caps (some 7)) 0 ≠ 6
      ∧ forced (caps (some 7)) 0 = false) := by decide +kernel

/-! ### The cascade, interrupts, power, debug, pins -/

theorem meets_CascadePorts :
    let port (st : Nat) : Nat × Nat := (R.REIN_STATUS 3, fld R.REIN_STATUS_STATE st)
    let idle := runs [(R.HI_STATUS, 2 ^ 31), port 2, (R.PC_DOM 172, 0)]
    let upw (r : ReinSt) : State := member 1 0 [port 3, (R.REIN_STATUS 1, fld R.REIN_STATUS_STATE 3)] r
    let lanes (l : List Nat) : State := runs ((R.REIN_LANE 3, l.foldl (fun a j => a + fld (laneFld j) 2) (fld (laneFld 16) 1)) :: [port 3])
    let tun : State := { upw {} with mesh := { tun := [(5, 1, 9)] } }
    (rgB idle R.HI_STATUS R.HI_STATUS_READY = true ∧ portState idle 3 ≤ 2 ∧ domCur idle (169 + 3) = 0 ∧ idle.rein.released = false)
    ∧ (portState (lanes []) 3 = 3 ∧ failedLanes (lanes []) 3 = [] ∧ laneState (lanes []) 3 16 = 1
      ∧ rgF (lanes []) (R.REIN_LANE 3) R.REIN_LANE_GROUP = 0)
    ∧ (laneState (lanes [0, 1, 8]) 3 9 ≠ 2 ∧ laneGroup (failedLanes (lanes [0, 1, 8]) 3 ++ [9]) = none)
    ∧ (myIdx (upw {}) = 1 ∧ 0x7FFFFFFFFF < 0x8000000000 ∧ (0 : BitVec 4).toNat ≠ myIdx (upw {}) ∧ pathTo (upw {}) 0 = some 3
      ∧ portUsable (upw {}) 3 = true ∧ portUsable (upw {}) 1 = true ∧ routeDown (upw {}) 9 (routerAt 5 1) (routerAt 5 3) = false
      ∧ portUsable (member 1 0 [port 5] {}) 3 = false ∧ pathTo (member 1 0 [port 5] {}) 0 = some 3
      ∧ portFor (upw {}) 0 = some 3 ∧ lockstep (upw {}) (upw {}).cfg.cascade.cpid.toNat = true
      ∧ portState tun 3 = 3 ∧ (tun.mesh.tun.find? fun t => t.1 == 5) = some (5, 1, 9)) := by
  decide +kernel

/-- Its clauses on IDENT. -/
theorem meets_CascadePorts_idents :
    let port (st : Nat) : Nat × Nat := (R.REIN_STATUS 3, fld R.REIN_STATUS_STATE st)
    let upw (r : ReinSt) : State := member 1 0 [port 3, (R.REIN_STATUS 1, fld R.REIN_STATUS_STATE 3)] r
    let poor (r : ReinSt) : State := member 1 0 [port 2, (R.REIN_LANE 3, fld R.REIN_LANE_GROUP 1)] r
    let here (x : Nat) (lead : Bool) (s : State) (m : IdentMsg) : Prop := ((m.posX.toNat : Int), (m.posY.toNat : Int)) = partnerPos s 3
      ∧ recordsAgree s (identRec s) m = true ∧ m.lead = lead ∧ m.posX.toNat = x
    let msg (x : Nat) (lead : Bool) : IdentMsg := { dev := 2, posX := BitVec.ofNat 2 x, posY := 0, lead := lead, record := none }
    let off : IdentMsg := { msg 0 false with record := some (0x33, 9) }
    let r : ReinSt := { posX := 1 }
    (portState (upw r) 3 = 3 ∧ ((0 : Int), (0 : Int)) = partnerPos (upw r) 3 ∧ ¬ ((2 : Int), (0 : Int)) = partnerPos (upw r) 3
      ∧ recordsAgree (upw r) (identRec (upw r)) off = false)
    ∧ (here 0 true (upw { r with leads := true }) (msg 0 true) ∧ (upw { r with leads := true }).rein.leads = true)
    ∧ (here 0 true (upw { r with leadSeen := some 5 }) (msg 0 true) ∧ (upw { r with leadSeen := some 5 }).rein.leadSeen = some 5
      ∧ (msg 0 true).dev ≠ 5)
    ∧ (here 0 true (upw r) (msg 0 true) ∧ (upw r).rein.leads = false ∧ (upw r).rein.leadSeen = none)
    ∧ (here 0 true (poor r) (msg 0 true) ∧ portState (poor r) 3 = 2 ∧ rgF (poor r) (R.REIN_LANE 3) R.REIN_LANE_GROUP ≠ 0
      ∧ (poor r).rein.leads = false ∧ (poor r).rein.leadSeen = none) := by
  decide +kernel

theorem meets_CascadePorts_loads :
    let load (ph : Nat) (L : ImgLoad) : State :=
      { member 0 0 [(R.IMG_STATUS, 0x0001FFFE00000001 + fld R.IMG_STATUS_PHASE ph)] {} with img := some L }
    let L : ImgLoad := { wide := true, leads := true, staged := some { cascade := { role := 1, w := 1, byImage := true } } }
    let W : ImgLoad := { L with staged := some { cascade := { role := 1, w := 2, byImage := true } } }
    let M : ImgLoad := { L with leads := false }
    let late (L : ImgLoad) : State := { load 4 L with timebase := 100000000 }
    let m := member 1 0 [] {}
    let f : DispFrame := { w := 0xE0000000, d := 0, s := 0, u := 0, dctl := 0, rctl := 0, pattern := [] }
    let tb (b : Nat) : State := { runs [(R.REIN_TB, fld R.REIN_TB_ALIGNED b)] with timebase := 2 }
    let orc (r : List (Nat × Word)) : State := { withRegs { runsAll [(R.REIN_STATUS 3, fld R.REIN_STATUS_STATE 3),
        (R.REIN_ID, fld R.REIN_ID_DEVIDX 1)] with cfg := { parts := [(0, {})], cascade := { role := 1, w := 2 } } } [] with
      rein := { orc := r }
      seqs := (List.range 8).map fun b => (b, { inProg := b == 0, slot3 := { busy := true, next := 2 * 2 ^ 56 + 2 ^ 58 } }) }
    ((orc [(50, 1)]).rein.orc = [(50, 1)] ∧ treeReady (orc []) 0 3 = false ∧ treeReady (orc [(50, 1)]) 0 3 = true
      ∧ leadsCascade (orc []) = false ∧ cascadePart (orc []) (casPart (orc [])) = true ∧ leadOf (orc []) 0 = 0
      ∧ bits (slotOf (orc []) 0 3).next.toNat 57 56 = 2 ∧ scopeCascade (orc []) 0 2 = true ∧ towardPort (orc []) = some 3
      ∧ portUsable (orc []) 3 = true)
    ∧ (L.staged.isSome = true ∧ ({ L with staged := none } : ImgLoad).staged = none ∧ M.staged.isSome = true)
    ∧ (L.partial_ = false ∧ L.relTick = none ∧ phase (load 4 L) = 4
      ∧ (wideMembers (load 4 L) L).all (fun d => (setAdd 1 L.verified).contains (BitVec.ofNat 4 d)) = true)
    ∧ (wideMembers (load 4 W) W).all (fun d => (setAdd 1 W.verified).contains (BitVec.ofNat 4 d)) = false
    ∧ (M.wide = true ∧ M.leads = false ∧ phase (load 4 M) = 4) ∧ (2 ≤ phase (load 2 L) ∧ ∀ n, n < 16 → (epochOf (load 2 L) n).wait = [])
    ∧ (L.verTick + 100000000 ≤ now (late L) ∧ (wideMembers (late L) L).contains 1 = true ∧ L.verified.contains (1 : BitVec 4) = false
      ∧ M.staged.isSome = true
      ∧ ∀ n, n < 16 → (epochOf (late L) n).wait = [])
    ∧ (cascadePart m (casPart m) = true ∧ leadsCascade m = false ∧ lockstep m 0 = true ∧ leadOf m 0 = 0 ∧ farRun m 0 = false
      ∧ f.w.toNat / 2 ^ 28 = 14)
    ∧ (cascadePart (member 0 0 [] {}) 0 = true ∧ leadsCascade (member 0 0 [] {}) = true)
    ∧ (rgB (tb 0) R.REIN_TB R.REIN_TB_ALIGNED = false ∧ (tb 0).rein.leads = false ∧ rgB (tb 1) R.REIN_TB R.REIN_TB_ALIGNED = true)
    ∧ (let d (lead : Word) : Int := ((tb 1).timebase.toNat : Int) - lead.toNat
       (-2 < d 3 ∧ d 3 < 2) ∧ d 4 ≤ -2 ∧ 2 ≤ d 0) := by decide +kernel

theorem meets_Interrupts :
    let cic (n kind tgt : Nat) (l : List (Nat × Nat)) : State :=
      runs ([(R.CIC_PEND (n / 64), 2 ^ (n % 64)), (R.CIC_MASK (n / 64), 0), (R.CIC_ROUTE n, n * 2 ^ 22 + kind * 2 ^ 20 + tgt * 2 ^ 9)] ++ l)
    let act := runs [(R.BIC_ACT 0, 2 ^ 63), (R.CIC_ACT 0, 1)]
    let acks : State := { runs [] with irq := { acks := [(512, 0), (512, 3)], resend := [(512, 9)] }, timebase := 9 }
    ((rg act (R.BIC_ACT 0)).testBit 63 = true ∧ (rg act (R.BIC_ACT 0)).testBit 0 = false)
    ∧ (cicMay act (.host 0) 0 = true ∧ (rg act (R.CIC_ACT 0)).testBit 0 = true ∧ cicMay act (.host 1) 0 = false)
    ∧ (pfOrAwl .awl = true ∧ cicOwner act 4 = none ∧ cicExists 4 = true ∧ (cicOwner act 512).isSome = true)
    ∧ ((List.range 1024).find? (cicEligible (cic 1023 1 127 [])) = some 1023 ∧ routeKind (cic 1023 1 127 []) 1023 = 1)
    ∧ ((List.range 1024).find? (cicEligible (cic 271 2 0 [])) = some 271 ∧ routeKind (cic 271 2 0 []) 271 = 2)
    ∧ ((512, (0 : BitVec 2).toNat) ∈ acks.irq.acks ∧ (512, (3 : BitVec 2).toNat) ∈ acks.irq.acks
      ∧ mapHas 512 acks.irq.resend = true ∧ mapGet 0 512 acks.irq.resend ≤ now acks) := by decide +kernel

/-- Its clauses on the IRQ messages to a block. -/
theorem meets_Interrupts_messages :
    let irq (n : Nat) (m : List (Nat × Nat)) (l : List (Nat × Nat)) : State :=
      { runs l with irq := { msgs := m, cicq := [(0, List.replicate n 5)] } }
    ((irq 15 [(1, 7), (0, 512)] []).irq.msgs.find? (fun m => m.1 == 0) = some (0, 512)
      ∧ fenceFor (irq 15 [(0, 512)] []) (.block 0 0x780200) = none ∧ msgWaits (irq 15 [(0, 512)] []) 0 512 = false
      ∧ heldRegion (irq 15 [(0, 512)] []) (0 / 8) = false ∧ (mapGet [] 0 (irq 15 [(0, 512)] []).irq.cicq).length < 16
      ∧ 16 ≤ (mapGet [] 0 (irq 16 [(0, 512)] []).irq.cicq).length)
    ∧ (let s := irq 0 [(127, 512)] []
       s.irq.msgs.find? (fun m => m.1 == 127) = some (127, 512) ∧ fenceFor s (.block 127 0x780200) = none ∧ msgWaits s 127 512 = false ∧ heldRegion s (127 / 8) = true)
    ∧ (let s := irq 0 [(0, 512)] [(R.GW_SLUICE 0, 3)]
       fenceFor s (.block 0 0x780200) = some (0, 0) ∧ msgWaits s 0 512 = false
        ∧ (rgF s (R.GW_SLUICE 0) R.GW_SLUICE_POL).testBit 0 = false)
    ∧ (let s := irq 0 [(0, 512)] [(R.GW_SLUICE 0, 4 + fld R.GW_SLUICE_POL 1)]
       let full : State := { s with irq := { s.irq with held := List.replicate 64 (0, 0, 5, 1) } }
       let behind : State := { s with
         irq := { s.irq with freed := [(0, 0, 512, 9)] }
         mesh := { flight := [{ id := 1, addr := bwin 0 + 0x7FFF0, freed := true, seq := 8 }] } }
       msgWaits behind 0 512 = true ∧ msgWaits s 0 512 = false ∧ fenceFor s (.block 0 0x780200) = some (0, 0) ∧ (rgF s (R.GW_SLUICE 0) R.GW_SLUICE_POL).testBit 0 = true ∧ heldRegion s 0 = false
        ∧ bufferFull s 0 0 = false ∧ mapHas (domainNo 0 0) s.pwr.goal = false ∧ fenceFor full (.block 0 0x780200) = some (0, 0) ∧ bufferFull full 0 0 = true) := by decide +kernel

/-- Its clauses on the Wellhead. -/
theorem meets_Interrupts_wellhead :
    let slot := runs [(R.WH_SLOT 31, fld R.WH_SLOT_EN 1 + fld R.WH_SLOT_KIND 5 + fld R.WH_SLOT_INDEX 31 + fld R.WH_SLOT_REGMASK 1),
      (R.PC_DOM 144, 5), (R.WH_TMR 1, 2 ^ 63)]
    let expired (per : Nat) : State := { runs [(R.WH_TMR 1, fld R.WH_TMR_EN 1 + fld R.WH_TMR_PER per + fld R.WH_TMR_PERIOD 7)] with irq := { wh := [(1, 0)] } }
    (rgB slot (R.WH_SLOT 31) R.WH_SLOT_EN = true
      ∧ (rgF slot (R.WH_SLOT 31) R.WH_SLOT_KIND, rgF slot (R.WH_SLOT 31) R.WH_SLOT_INDEX) = wakeKey (.gpio 15 true)
      ∧ 144 ∈ slotDomains slot 31 ∧ domCur slot 144 ≠ 0 ∧ mapHas 144 slot.pwr.goal = false)
    ∧ (rgB slot (R.WH_TMR 1) R.WH_TMR_EN = true ∧ mapHas 1 slot.irq.wh = false ∧ rgB slot (R.WH_TMR 0) R.WH_TMR_EN = false)
    ∧ (rgB (expired 0) (R.WH_TMR 1) R.WH_TMR_EN = true ∧ mapHas 1 (expired 0).irq.wh = true ∧ mapGet 0 1 (expired 0).irq.wh = 0
      ∧ rgB (expired 0) (R.WH_TMR 1) R.WH_TMR_PER = false ∧ rgB (expired 1) (R.WH_TMR 1) R.WH_TMR_EN = true
      ∧ rgB (expired 1) (R.WH_TMR 1) R.WH_TMR_PER = true) := by decide +kernel

theorem meets_PowerAndClocks :
    let rgn (p max adiv : Nat) : State := runs [(R.PC_RGN 0, fld R.PC_RGN_POINT p + fld R.PC_RGN_PMAX max + fld R.PC_RGN_ADIV adiv)]
    let lent : State := runs [(R.BSW_MAP 0, 31204079050816 + fld R.BSW_MAP_SPARE_ST 2 + fld R.BSW_MAP_LEND_DIR 1)]
    let sw : State := { runs [] with pwr := { switch := [(0, 3)] } }
    let vf (mv : Nat) : State := runs [(R.PC_VF, fld R.PC_VF_SETTLE 1 + fld R.PC_VF_MV mv)]
    let pw : State := { runs [(R.PC_PWR, fld R.PC_PWR_LIMIT 100)] with pwr := { capCut := [(0, 4), (15, 8)], capOk := some 5 }, timebase := 10000005 }
    (tdivMay (runs []) (.seq 7) 0 = true ∧ tdivRefused lent 0 3 = true ∧ tdivRefused (runs []) 0 3 = false)
    ∧ (mapHas 0 sw.pwr.switch = true ∧ mapHas 0 sw.pwr.fall = false)
    ∧ (assigned (rgn 14 15 0) 0 = true ∧ rgF (rgn 14 15 0) (R.PC_RGN 0) R.PC_RGN_POINT = 14
      ∧ 14 < rgF (rgn 14 15 0) (R.PC_RGN 0) R.PC_RGN_PMAX)
    ∧ (rgF (rgn 15 15 0) (R.PC_RGN 0) R.PC_RGN_POINT = 15 ∧ rgF (rgn 4 4 2) (R.PC_RGN 0) R.PC_RGN_PMAX ≤ 4)
    ∧ (divMates (rgn 0 15 3) 0 = [0] ∧ grp (rgn 0 15 3) 0 = 0 ∧ 0 + 1 ≤ 3 - rgF (rgn 0 15 3) (R.PC_RGN 0) R.PC_RGN_TDIV
      ∧ 4 * (0 + 1) ≤ rgF (rgn 0 15 3) (R.PC_RGN 0) R.PC_RGN_PMAX ∧ rgB (rgn 0 15 3) (R.PC_RGN 0) R.PC_RGN_MLOW = false)
    ∧ (rgB (vf 0) R.PC_VF R.PC_VF_SETTLE = true ∧ wantMV (vf 0) ≠ rgF (vf 0) R.PC_VF R.PC_VF_MV
      ∧ wantMV (vf (wantMV (vf 0))) = rgF (vf (wantMV (vf 0))) R.PC_VF R.PC_VF_MV)
    ∧ (rgF pw R.PC_PWR R.PC_PWR_LIMIT < (101 : BitVec 16).toNat ∧ 100 * (94 : BitVec 16).toNat < 95 * rgF pw R.PC_PWR R.PC_PWR_LIMIT
      ∧ pw.pwr.capOk = some 5 ∧ 5 + 10000000 ≤ now pw)
    ∧ ((pw.pwr.capCut.map (·.1)).Nodup ∧ assigned pw 0 = true ∧ 100 ≤ (100 : BitVec 8).toNat ∧ (99 : BitVec 8).toNat < 100) := by decide +kernel

theorem meets_PowerAndClocks_domains :
    let dom (d c : Nat) (l : List (Nat × BitVec 3)) (r : List (Nat × Nat)) : State :=
      { runs ((R.PC_DOM d, c) :: r) with seqs := [], pwr := { goal := l } }
    let s := dom 0 0 [] []
    let quiet := runsSeq [(R.PC_DOM 0, 0x00080000), (R.DBG_STATUS 0, 1)] {}
    (powerRefusal s 173 6 [173] = 4 ∧ powerRefusal s 0 5 [0] = 0 ∧ rgB s (R.PC_DOM 0) R.PC_DOM_BUSY = false ∧ domCur s 0 < 5)
    ∧ (mapHas 0 (dom 0 5 [] []).pwr.goal = false ∧ domCur (dom 0 5 [] []) 0 ≠ 0)
    ∧ (let s := dom 143 0 [(143, 3)] []
       mapHas 143 s.pwr.goal = true ∧ mapHas 143 s.pwr.waiting = false ∧ domCur s 143 < 3 ∧ waitsBoundary s 143 = false
        ∧ gatewayMay s 143 3 = true)
    ∧ (let s := dom 0 0 [(0, 5)] [(R.GW_SLUICE 0, 3)]
       domCur s 0 < 5 ∧ sluiceOf 0 = some (0, 0) ∧ sluiceSt s 0 0 = 3
        ∧ ((domBlocks s 0).any fun b => rgB s (R.ARR_SUSP b) R.ARR_SUSP_VALID) = false
        ∧ waitsBoundary s 0 = false ∧ gatewayMay s 0 5 = true)
    ∧ (let s : State := { dom 7 0 [(7, 5)] [(R.EP_STAT 0, fld R.EP_STAT_STATE 1)] with epochs := [(0, { off := [7] })] }
       waitsBoundary s 7 = true ∧ mapHas 7 s.pwr.goal = true)
    ∧ (let s := dom 144 0 [(144, 4)] []
       mapHas 144 s.pwr.goal = true ∧ gatewayMay s 144 4 = false)
    ∧ (let s := dom 0 0 [] [(R.ARR_SUSP 0, fld R.ARR_SUSP_VALID 1)]
       powerRefusal s 0 5 [0] = 2 ∧ rgB s (R.PC_DOM 0) R.PC_DOM_BUSY = false ∧ domCur s 0 < 4)
    ∧ domCur (dom 0 4 [(0, 0)] []) 0 = 4
    ∧ (let s := dom 0 5 [(0, 0)] []
       domCur s 0 = 5 ∧ mapHas 0 s.pwr.goal = true ∧ mapHas 0 s.pwr.waiting = false ∧ heldBy s 0 = [0] ∧ memsOf s 0 = [0])
    ∧ hushes quiet 0 = true
    ∧ (let m : MbxRun := { cmd := 5 }
       m.status = 0 ∧ mbxInhibited (setB (runs []) R.PC_EVENT R.PC_EVENT_WARN true) m.cmd.toNat = true) := by decide +kernel

theorem meets_DebugAndTimers :
    let halt (more : Nat) (l : List (Nat × Nat)) : State := runs ((R.DBG_STATUS 0, 1 + fld R.DBG_STATUS_CAUSE 3 + more) :: l)
    let step : State := { halt 0 [] with mem := memWrite [] (bwin 0) (digitsOf 8 0x01000000) }
    let ch := fld R.GIRTH_CH_EN 1 + fld R.GIRTH_CH_SRC 1 + fld R.GIRTH_CH_ACT 3 + fld R.GIRTH_CH_PMASK 1
    let girth (c : Nat) : State := { runs [(R.GIRTH_CH 7, c)] with dbg := { girth := [(7, 7)] } }
    let timed : State := { runs [(R.GIRTH_CH 7, fld R.GIRTH_CH_EN 1 + fld R.GIRTH_CH_SRC 8), (R.GIRTH_TBM, 5)] with timebase := 5 }
    let stop : State := { runs [(R.EP_STAT 0, fld R.EP_STAT_STATE 1)] with dbg := { chipStop := true, pstop := 1 } }
    let wd (cfg cnt : Nat) : State := runs [(R.WD_CFG 0, 2 ^ 63 + cfg), (R.WD_CNT 0, cnt)]
    let t (v : Nat) : State := runs [(R.TMR 0 3, 2 ^ 63 + v)]
    ((gang (halt 0 []) 0).any (releasable (halt 0 [])) = true ∧ (gang (runs []) 0).any (releasable (runs [])) = false)
    ∧ (releasable step 0 = true ∧ rgB step (R.DBG_STATUS 0) R.DBG_STATUS_STOPPED = false ∧ programOf step 0 = 0
      ∧ (updSeq (releaseHalt step 0) 0 fun q => { q with stepping := false }).plain 0 = true
      ∧ readVal step (bwin 0 + pcOf step 0) 8 = 0x01000000 + (0 : BitVec 24).toNat ∧ fFN (0 : BitVec 24).toNat = 0
      ∧ releasable (runs []) 0 = false)
    ∧ ((7, 7) ∈ (girth ch).dbg.girth ∧ (rgF (girth ch) (R.GIRTH_CH 7) R.GIRTH_CH_ACT).testBit 0 = true
      ∧ rgB (girth ch) (R.GIRTH_CH 7) R.GIRTH_CH_CHIP = false ∧ defined (girth ch) 0 = true
      ∧ (rgF (girth ch) (R.GIRTH_CH 7) R.GIRTH_CH_PMASK).testBit 0 = true
      ∧ rgB (girth (ch + fld R.GIRTH_CH_CHIP 1)) (R.GIRTH_CH 7) R.GIRTH_CH_CHIP = true
      ∧ (rgF (girth ch) (R.GIRTH_CH 7) R.GIRTH_CH_ACT).testBit 1 = true ∧ rgB (girth ch) (R.GIRTH_CH 7) R.GIRTH_CH_EN = true
      ∧ (rgF (girth ch) (R.GIRTH_CH 7) R.GIRTH_CH_SRC).testBit 0 = true)
    ∧ (girthLower (girth ch) 7 = false ∧ follows (girth ch) 0 = false)
    ∧ girthLower { girth ch with dbg := { girth := [(6, 0)] } } 7 = true
    ∧ (girthLower timed 7 = false ∧ girthTimeDue timed 7 = true ∧ now timed = rg timed R.GIRTH_TBM ∧ timed.dbg.girthAt = [])
    ∧ (let m := { girth ch with cfg := { parts := [(0, {})], cascade := { role := 1, w := 1 } } }
       let f := withRegs m [(R.REIN_ID, fld R.REIN_ID_DEVIDX 1), (R.REIN_STATUS 3, fld R.REIN_STATUS_STATE 3)]
       follows f 0 = true ∧ defined f 0 = true ∧ towardPort f = some 3 ∧ portUsable f 3 = true ∧ (7, 7) ∈ f.dbg.girth)
    ∧ (stop.dbg.chipStop = true ∧ defined stop 0 = true ∧ epState stop 0 ≠ 6 ∧ (girth ch).dbg.chipStop = false ∧ forced stop 0 = false
      ∧ forced (girth ch) 0 = false)
    ∧ (rgB (runs []) (R.WD_CFG 0) R.WD_CFG_EN = false
      ∧ rgF (wd 5 1) (R.WD_CNT 0) R.WD_CNT_REMAIN ≠ 0 ∧ rgB (wd 5 1) (R.WD_CFG 0) R.WD_CFG_WIN = false
      ∧ rgB (wd (2 ^ 62 + 5) 4) (R.WD_CFG 0) R.WD_CFG_WIN = true ∧ 5 - 5 / 2 < rgF (wd (2 ^ 62 + 5) 4) (R.WD_CNT 0) R.WD_CNT_REMAIN
      ∧ rgF (wd 5 0) (R.WD_CNT 0) R.WD_CNT_REMAIN = 0 ∧ frozen (wd 5 0) 0 R.DBG_CTRL_FZWD = false
      ∧ rgF (wd (2 ^ 61) (2 ^ 32)) (R.WD_CNT 0) R.WD_CNT_EXP = 1 ∧ rgB (wd (2 ^ 61) (2 ^ 32)) (R.WD_CFG 0) R.WD_CFG_GIRTH = true
      ∧ frozen (halt 0 [(R.DBG_CTRL 0, 0x80)]) 0 R.DBG_CTRL_FZWD = true)
    ∧ (rgB (t 9) (R.TMR 0 3) R.TMR_EN = true ∧ rgF (t 9) (R.TMR 0 3) R.TMR_REMAIN = 0 ∧ frozen (t 9) 0 R.DBG_CTRL_FZTMR = false
      ∧ rgB (t (2 ^ 62 + 9)) (R.TMR 0 3) R.TMR_PER = true ∧ rgB (t 9) (R.TMR 0 3) R.TMR_PER = false) := by decide +kernel

theorem meets_TraceAndPins :
    let lock := runs [(R.SEC_STATE, fld R.SEC_STATE_LOCKED 1)]
    let s := runs []
    let got (c : Bool) : State := { s with dbg := { awlReq := some (4, true, c, 3, 1), awlResp := some 9 } }
    let on := runs [(R.STITCH_CTRL 0, 2 ^ 31), (R.TR_CTRL, 1)]
    let sink (c st base : Nat) (h : HostSt) : State := { runs [(R.TR_CTRL, 1 + c), (R.TR_STATUS, st), (R.TR_BASE, base)] with host := h }
    let dram := sink 0 (2 ^ 22 - 1) 0x78000000 {}
    let host := sink 2 0 0 { cfg := [(1, 4)] }
    (awlShut lock = true ∧ awlShut s = false ∧ s.dbg.awlStatus.getLsbD 0 = false ∧ s.dbg.awlReq = none)
    ∧ ((got false).dbg.awlReq = some (4, true, false, 3, 1) ∧ (got true).dbg.awlResp = some 9)
    ∧ ((rg on (R.STITCH_CTRL 0)).testBit 31 = true ∧ rgB on R.TR_CTRL R.TR_CTRL_EN = true ∧ (seqOf on 0).lost = 0
      ∧ rgB s R.TR_CTRL R.TR_CTRL_EN = false)
    ∧ (rgB dram R.TR_CTRL R.TR_CTRL_EN = true ∧ rgB dram R.TR_STATUS R.TR_STATUS_FULL = false
      ∧ rgB dram R.TR_CTRL R.TR_CTRL_DEST = false ∧ rgF dram R.TR_STATUS R.TR_STATUS_WPTR = 2 ^ 22 - 1)
    ∧ (rgB host R.TR_CTRL R.TR_CTRL_DEST = true ∧ busMaster host 0 = true)
    ∧ rgB (sink 0 (2 ^ 46) 0 {}) R.TR_STATUS R.TR_STATUS_FULL = true := by decide +kernel

/-- Its clauses on windows of warnings and on pins. -/
theorem meets_TraceAndPins_pins :
    let w : State := { runs [] with timebase := 200000, dbg := { spillEnd := 200000, spill := [(1024, (1, 5, 5, 0))] } }
    let pin := runs [(R.GPIO_CFG 15, 0x50), (R.GPIO_IN, 0x7FFF)]
    let owned : State := { withRegs { runs [] with cfg := { parts := [(0, { indep := true, gpio := 0x8000 })] } }
      [(R.IMG_STATUS, 0x0001FFFF00000000)] with perst := false }
    (w.dbg.spillEnd ≤ now w ∧ now { w with timebase := 199999 } < w.dbg.spillEnd ∧ w.dbg.spill ≠ [])
    ∧ (let s : State := { withRegs pin [(R.WH_SLOT 0, fld R.WH_SLOT_EN 1 + fld R.WH_SLOT_KIND 5 + fld R.WH_SLOT_INDEX 31)] with
         cfg := { parts := [(0, { indep := true, gpio := 0x8000 })] }, epochs := [(0, { com := some {} })] }
       cicOwner s 271 = some 0 ∧ (epochOf s 0).com = some {} ∧ rgB s (R.WH_SLOT 0) R.WH_SLOT_EN = true
        ∧ (rgF s (R.WH_SLOT 0) R.WH_SLOT_KIND, rgF s (R.WH_SLOT 0) R.WH_SLOT_INDEX) = wakeKey (.gpio 15 true))
    ∧ (pinHeld pin 15 = false ∧ (rg pin R.GPIO_IN).testBit 15 = !true ∧ edgeTaken pin 15 true = true ∧ edgeTaken pin 15 false = false
      ∧ (rg pin R.GPIO_IN).testBit 0 = !false)
    ∧ (pinMay pin .awl 15 = true ∧ bits 0xCB 5 4 ≠ 3 ∧ bits 0xCB 3 2 ≠ 3) ∧ pinMay pin (.seq 0) 15 = false
    ∧ pinHeld owned 15 = true := by decide +kernel

theorem meets_StepRunsTheFrontCommand :
    let s (n : Nat) (r h : Bool) : State := { runs [] with nclk := n, tbRun := r, rein := { holdTick := h } }
    ((s 11 true false).pending = [] ∧ (s 11 true false).mesh.queues = [] ∧ (s 11 true false).mesh.back = [])
    ∧ (((s 10 true false).nclk + 1) % 12 ≠ 0 ∧ (s 11 false false).tbRun = false ∧ ((s 11 false true).nclk + 1) % 12 = 0)
    ∧ ((s 11 true false).nclk + 1) % 12 = 0 := by decide

theorem meets_EveryStepKeepsMemoryCanonical :
    let s : State := { runs [] with mem := [(0, 1), (2 ^ 40, 255)] }
    s.memWf = true ∧ step s = .next { s with nclk := 1 } := ⟨by decide +kernel, rfl⟩

/-! ### Each limit of a command's operands is checked -/

theorem test_registerWrite_unaligned : Instr.wellFormed (.registerWrite .awl 0x040000000008 0 0) = false := by decide
theorem test_consumeRead_unaligned : Instr.wellFormed (.consumeRead .awl 0x04000000000F) = false := by decide
theorem test_registers_aligned :
    Instr.wellFormed (.registerWrite .awl 0x040000000010 0 0) = true ∧ Instr.wellFormed (.consumeRead .awl 0) = true := by decide
theorem test_hostMemoryRead_length : Instr.wellFormed (.hostMemoryRead 0 .bar0 0 0) = false
    ∧ Instr.wellFormed (.hostMemoryRead 0 .bar0 0 4097) = false ∧ Instr.wellFormed (.hostMemoryRead 0 .bar0 0 4096) = true := by decide
theorem test_hostMemoryWrite_length : Instr.wellFormed (.hostMemoryWrite 0 .bar0 0 []) = false
    ∧ Instr.wellFormed (.hostMemoryWrite 0 .bar0 0 (List.replicate 513 0)) = false
    ∧ Instr.wellFormed (.hostMemoryWrite 0 .bar0 0 (List.replicate 512 0)) = true := by decide +kernel
theorem test_keyByteWrite_length : Instr.wellFormed (.keyByteWrite 0 0 [] 0) = false
    ∧ Instr.wellFormed (.keyByteWrite 0 0 (List.replicate 9 0) 0) = false
    ∧ Instr.wellFormed (.keyByteWrite 0 0 (List.replicate 8 0) 0) = true := by decide
theorem test_warning_code : Instr.wellFormed (.warning 0 0 true) = false ∧ Instr.wellFormed (.warning 1 0 true) = true := by decide
theorem test_powerRequest_state : Instr.wellFormed (.powerRequest 0 6) = false ∧ Instr.wellFormed (.powerRequest 0 5) = true := by decide
theorem test_dispatchFrame_pattern :
    let m (n : Nat) : DispFrame := { w := 0, d := 0, s := 0, u := 0, dctl := 0, rctl := 0, pattern := List.replicate n 0 }
    Instr.wellFormed (.dispatchFrame (m 254)) = false ∧ Instr.wellFormed (.dispatchFrame (m 253)) = true := by decide +kernel

end Sys2Proof.Tests
end

section
/-! SUPPORT. What every command keeps: the queue, and the canonical form of the memory and of its copies. -/

namespace Sys2Proof.Machine

/-! ### Memory in its canonical form -/

theorem Memory.wf_setByte {m : List Host.Cell} (h : Memory.wf m = true) (a : Nat) (v : Byte) :
    Memory.wf (memSetByte m a v) = true :=
  mapWf_set (fun _ => 0) a v h

theorem Memory.wf_setDigit {m : List Host.Cell} (h : Memory.wf m = true) (a v : Nat) : Memory.wf (memSetDigit m a v) = true :=
  wf_setByte h _ _

/-- A fold whose steps keep the form keeps it. -/
theorem Memory.wf_foldl {α : Type} {f : List Host.Cell → α → List Host.Cell}
    (hf : ∀ m x, Memory.wf m = true → Memory.wf (f m x) = true) (l : List α) {m : List Host.Cell} (h : Memory.wf m = true) :
    Memory.wf (l.foldl f m) = true := by
  induction l generalizing m with
  | nil => exact h
  | cons x l ih => exact ih (hf m x h)

theorem Memory.wf_write {m : List Host.Cell} (h : Memory.wf m = true) (a : Nat) (ds : List Nat) :
    Memory.wf (memWrite m a ds) = true := by
  unfold memWrite
  induction ds generalizing a m with
  | nil => exact h
  | cons d ds ih => exact ih (wf_setDigit h a d) (a + 1)

theorem Memory.wf_put {m : List Host.Cell} (h : Memory.wf m = true) (a : Nat) {v : Byte} (hv : v ≠ 0) :
    Memory.wf (mapPut a v m) = true := by
  rw [Memory.wf, mapWf_iff] at h ⊢
  refine ⟨sorted_mapPut h.1, fun e he => ?_⟩
  rcases mem_mapPut he with rfl | he
  · exact hv
  · exact h.2 e he

/-- A part of the memory is carried to other addresses, over what stands there. -/
theorem Memory.wf_carried {m m' : List Host.Cell} (h : Memory.wf m = true) (h' : Memory.wf m' = true) (p : Nat → Bool)
    (f : Nat → Nat) : Memory.wf ((mapOnly p m).foldl (fun m e => mapPut (f e.1) e.2 m) m') = true := by
  have hv : ∀ e ∈ mapOnly p m, e.2 ≠ 0 := fun e he => ((mapWf_iff _ m).mp h).2 e (List.mem_of_mem_filter he)
  generalize mapOnly p m = l at hv
  induction l generalizing m' with
  | nil => exact h'
  | cons e l ih => exact ih (wf_put h' (f e.1) (hv e (by simp))) fun x hx => hv x (by simp [hx])

/-! ### The copies of the memory -/

theorem Epoch.memWf_iff (e : Epoch) : e.memWf = true ↔ (∀ c ∈ e.com, c.memWf = true) ∧ ∀ c ∈ e.alt, c.memWf = true := by
  unfold Epoch.memWf
  cases e.com <;> cases e.alt <;> simp

theorem Epoch.memWf_com {e : Epoch} (h : e.memWf = true) : ∀ c ∈ e.com, c.memWf = true := (e.memWf_iff.mp h).1

theorem Epoch.memWf_alt {e : Epoch} (h : e.memWf = true) : ∀ c ∈ e.alt, c.memWf = true := (e.memWf_iff.mp h).2

theorem Snap.memWf_some {c : Snap} (h : c.memWf = true) : ∀ x ∈ some c, x.memWf = true :=
  fun _ hx => Option.mem_some.mp hx ▸ h

theorem Snap.memWf_none : ∀ c ∈ (none : Option Snap), c.memWf = true := by simp

theorem Snap.memWf_map {o : Option Snap} {f : Snap → Snap} (h : ∀ c ∈ o, c.memWf = true)
    (hf : ∀ c, c.memWf = true → (f c).memWf = true) : ∀ c ∈ o.map f, c.memWf = true := by
  simp only [Option.mem_def, Option.map_eq_some_iff]
  exact fun _ ⟨c, e, k⟩ => k ▸ hf c (h c e)

theorem Snap.memWf_when {p : Prop} [Decidable p] {o : Option Snap} (h : ∀ c ∈ o, c.memWf = true) :
    ∀ c ∈ if p then o else none, c.memWf = true := by
  split
  exacts [h, memWf_none]

/-- An epoch state whose copies have the form if those of another have it. -/
theorem Epoch.memWf_set {e e' : Epoch} (h : e.memWf = true)
    (hc : (∀ c ∈ e.com, c.memWf = true) → ∀ c ∈ e'.com, c.memWf = true)
    (ha : (∀ c ∈ e.alt, c.memWf = true) → ∀ c ∈ e'.alt, c.memWf = true) : e'.memWf = true :=
  e'.memWf_iff.mpr ⟨hc (memWf_com h), ha (memWf_alt h)⟩

/-- An epoch state whose copies come from those of another keeps their form. -/
theorem Epoch.memWf_map {e e' : Epoch} (h : e.memWf = true) {f g : Snap → Snap} (hc : e'.com = e.com.map f)
    (ha : e'.alt = e.alt.map g) (hf : ∀ c, c.memWf = true → (f c).memWf = true)
    (hg : ∀ c, c.memWf = true → (g c).memWf = true) : e'.memWf = true :=
  e'.memWf_iff.mpr ⟨hc ▸ Snap.memWf_map (memWf_com h) hf, ha ▸ Snap.memWf_map (memWf_alt h) hg⟩

theorem Snap.memWf_write {c : Snap} (h : c.memWf = true) (a : Nat) (ds : List Nat) :
    Snap.memWf { c with mem := memWrite c.mem a ds } = true := Memory.wf_write h a ds

theorem Cart.memWf_some {c : Cart} (h : c.memWf = true) : ∀ x ∈ some c, x.memWf = true :=
  fun _ hx => Option.mem_some.mp hx ▸ h

theorem Cart.memWf_iff (c : Cart) : c.memWf = true ↔ ∀ e ∈ c.slots, e.2.snap.memWf = true := by
  simp [Cart.memWf]

/-- Marks on a cartridge leave what it holds. -/
theorem Cart.memWf_of_slots {c d : Cart} (h : c.memWf = true) (e : d.slots = c.slots) : d.memWf = true :=
  d.memWf_iff.mpr (e ▸ c.memWf_iff.mp h)

theorem State.memWf_iff (s : State) : s.memWf = true ↔
    Memory.wf s.mem = true ∧ (∀ e ∈ s.epochs, e.2.memWf = true) ∧ (∀ c ∈ s.sb.cart, c.memWf = true)
      ∧ ∀ c ∈ s.sb.shelf, c.memWf = true := by
  unfold State.memWf
  cases s.sb.cart <;> simp [and_assoc]

theorem State.memWf_mem {s : State} (h : s.memWf = true) : Memory.wf s.mem = true := (s.memWf_iff.mp h).1

/-- A reset drops the epoch states; the cartridges stay. -/
theorem State.memWf_of_noEpochs {s t : State} (h : s.memWf = true) (hm : Memory.wf t.mem = true) (he : t.epochs = [])
    (hc : t.sb.cart = s.sb.cart) (hs : t.sb.shelf = s.sb.shelf) : t.memWf = true := by
  obtain ⟨_, _, hcart, hshelf⟩ := s.memWf_iff.mp h
  exact t.memWf_iff.mpr ⟨hm, by simp [he], hc ▸ hcart, hs ▸ hshelf⟩

theorem State.memWf_epochs {s : State} (h : s.memWf = true) {e : Nat × Epoch} (he : e ∈ s.epochs) : e.2.memWf = true :=
  (s.memWf_iff.mp h).2.1 e he

theorem mapGet_mem {α : Type} (d : α) (k : Nat) (m : List (Nat × α)) : mapGet d k m = d ∨ (k, mapGet d k m) ∈ m := by
  induction m with
  | nil => exact .inl rfl
  | cons e m ih =>
    rw [mapGet_cons]
    split_ifs with h
    · exact .inr (by simp [← h])
    · exact ih.imp_right (List.mem_cons_of_mem _)

theorem State.memWf_epochOf {s : State} (h : s.memWf = true) (n : Nat) : (epochOf s n).memWf = true := by
  rcases mapGet_mem ({} : Epoch) n s.epochs with hd | hm
  · rw [epochOf, hd]; rfl
  · exact memWf_epochs h hm

theorem State.memWf_com {s : State} (h : s.memWf = true) {n : Nat} {c : Snap} (e : (epochOf s n).com = some c) :
    c.memWf = true :=
  ((epochOf s n).memWf_iff.mp (memWf_epochOf h n)).1 c e

theorem State.memWf_takeSnap {s : State} (h : s.memWf = true) (n : Nat) : (takeSnap s n).memWf = true :=
  mapWf_only (fun _ => 0) (fun k => ownedBy s n (2 * k)) (s.memWf_iff.mp h).1

theorem State.memWf_shelf {s : State} (h : s.memWf = true) : ∀ c ∈ s.sb.shelf, c.memWf = true := (s.memWf_iff.mp h).2.2.2

theorem State.memWf_cart {s : State} (h : s.memWf = true) {c : Cart} (e : s.sb.cart = some c) : c.memWf = true :=
  (s.memWf_iff.mp h).2.2.1 c e

/-! ### The relation -/

/-- State t has the queue of s and, if s keeps its memory and the copies in the canonical form, so does t. -/
structure Keeps (s t : State) : Prop where
  pending : t.pending = s.pending
  memWf : s.memWf = true → t.memWf = true

/-- A command completes: its outcome is a next state, which keeps what the relation says. -/
def Completes (s : State) (o : Host.Outcome State Fault Refusal) : Prop := ∃ t, o = .next t ∧ Keeps s t

variable {s₀ s t : State}

theorem Keeps.refl (s : State) : Keeps s s := ⟨rfl, id⟩

section
variable {regs dt dtSh : List (Nat × Word)} {cells : List (Nat × Cell)} {seqs : List (Nat × Seq)} {cs csFlip csSh : List
  (Nat × BitVec 196)} {dtBad pages : List Nat} {flaws : List (Nat × Bool)} {keys : List (Nat × Byte)} {foldHome : List
  (Nat × Nat)} {jdead : List (Nat × BitVec 9)} {cfg : Settings} {img : Option ImgLoad} {host : HostSt} {mesh : MeshSt}
  {dram : DramSt} {dma : List (Nat × DmaRun)} {irq : IrqSt} {pwr : PwrSt} {sec : SecSt} {rein : ReinSt} {dbg : DbgSt}
  {timebase : Word} {tbRun powered perst perstLow testEn refLost refPerst thermLatch : Bool} {nclk free : Nat} {out :
  List Out}
  {queue : List JRec} {op : Option CkptOp} {alt : Bool} {nextSave : Option Nat} {m : List Host.Cell}
  {epochs : List (Nat × Epoch)}
  {cart : Option Cart} {shelf : List Cart}

/-- Every other field of the state may change. -/
theorem Keeps.set (h : Keeps s₀ s) :
    Keeps s₀ { s with
      regs := regs, cells := cells, seqs := seqs, cs := cs, csFlip := csFlip, dt := dt, csSh := csSh, dtSh := dtSh,
      dtBad := dtBad, flaws := flaws, keys := keys, pages := pages, foldHome := foldHome, jdead := jdead, cfg := cfg,
      img := img, host := host, mesh := mesh, dram := dram, dma := dma, irq := irq, pwr := pwr, sec := sec, rein := rein,
      dbg := dbg, timebase := timebase, tbRun := tbRun, nclk := nclk, powered := powered, perst := perst,
      perstLow := perstLow, testEn := testEn, refLost := refLost, refPerst := refPerst, thermLatch := thermLatch,
      out := out, free := free } :=
  ⟨h.pending, h.memWf⟩

/-- So may the Saddlebag controller but for its cartridges. -/
theorem Keeps.setSb (h : Keeps s₀ s) :
    Keeps s₀ { s with
      regs := regs, cells := cells, seqs := seqs, cs := cs, csFlip := csFlip, dt := dt, csSh := csSh, dtSh := dtSh,
      dtBad := dtBad, flaws := flaws, keys := keys, pages := pages, foldHome := foldHome, jdead := jdead, cfg := cfg,
      img := img, host := host, mesh := mesh, dram := dram, dma := dma, irq := irq, pwr := pwr, sec := sec, rein := rein,
      dbg := dbg, timebase := timebase, tbRun := tbRun, nclk := nclk, powered := powered, perst := perst,
      perstLow := perstLow, testEn := testEn, refLost := refLost, refPerst := refPerst, thermLatch := thermLatch,
      out := out, free := free, sb := { s.sb with queue := queue, op := op, alt := alt, nextSave := nextSave } } :=
  ⟨h.pending, h.memWf⟩

/-- The memory may change within its form. -/
theorem Keeps.setMem (h : Keeps s₀ s) (hm : s₀.memWf = true → Memory.wf s.mem = true → Memory.wf m = true) :
    Keeps s₀ { s with
      regs := regs, cells := cells, seqs := seqs, cs := cs, csFlip := csFlip, dt := dt, csSh := csSh, dtSh := dtSh,
      dtBad := dtBad, flaws := flaws, keys := keys, pages := pages, foldHome := foldHome, jdead := jdead, cfg := cfg,
      img := img, host := host, mesh := mesh, dram := dram, dma := dma, irq := irq, pwr := pwr, sec := sec, rein := rein,
      dbg := dbg, timebase := timebase, tbRun := tbRun, nclk := nclk, powered := powered, perst := perst,
      perstLow := perstLow, testEn := testEn, refLost := refLost, refPerst := refPerst, thermLatch := thermLatch,
      out := out, free := free, mem := m } := by
  refine ⟨h.pending, fun w => ?_⟩
  have hw := h.memWf w
  rw [State.memWf_iff] at hw ⊢
  exact ⟨hm w hw.1, hw.2⟩

/-- The epoch states may change, their copies within the form. -/
theorem Keeps.setEpochs (h : Keeps s₀ s) (he : s₀.memWf = true → s.memWf = true → ∀ e ∈ epochs, e.2.memWf = true) :
    Keeps s₀ { s with
      regs := regs, cells := cells, seqs := seqs, cs := cs, csFlip := csFlip, dt := dt, csSh := csSh, dtSh := dtSh,
      dtBad := dtBad, flaws := flaws, keys := keys, pages := pages, foldHome := foldHome, jdead := jdead, cfg := cfg,
      img := img, host := host, mesh := mesh, dram := dram, dma := dma, irq := irq, pwr := pwr, sec := sec, rein := rein,
      dbg := dbg, timebase := timebase, tbRun := tbRun, nclk := nclk, powered := powered, perst := perst,
      perstLow := perstLow, testEn := testEn, refLost := refLost, refPerst := refPerst, thermLatch := thermLatch,
      out := out, free := free, epochs := epochs } := by
  refine ⟨h.pending, fun w => ?_⟩
  have hw := (State.memWf_iff s).mp (h.memWf w)
  exact (State.memWf_iff _).mpr ⟨hw.1, he w (h.memWf w), hw.2.2⟩

/-- The cartridges may change, what they hold within the form. -/
theorem Keeps.setCarts (h : Keeps s₀ s) (hc : s₀.memWf = true → s.memWf = true → ∀ c ∈ cart, c.memWf = true)
    (hs : s₀.memWf = true → s.memWf = true → ∀ c ∈ shelf, c.memWf = true) :
    Keeps s₀ { s with
      regs := regs, cells := cells, seqs := seqs, cs := cs, csFlip := csFlip, dt := dt, csSh := csSh, dtSh := dtSh,
      dtBad := dtBad, flaws := flaws, keys := keys, pages := pages, foldHome := foldHome, jdead := jdead, cfg := cfg,
      img := img, host := host, mesh := mesh, dram := dram, dma := dma, irq := irq, pwr := pwr, sec := sec, rein := rein,
      dbg := dbg, timebase := timebase, tbRun := tbRun, nclk := nclk, powered := powered, perst := perst,
      perstLow := perstLow, testEn := testEn, refLost := refLost, refPerst := refPerst, thermLatch := thermLatch,
      out := out, free := free,
      sb := { cart := cart, shelf := shelf, queue := queue, op := op, alt := alt, nextSave := nextSave } } := by
  refine ⟨h.pending, fun w => ?_⟩
  have hw := (State.memWf_iff s).mp (h.memWf w)
  exact (State.memWf_iff _).mpr ⟨hw.1, hw.2.1, hc w (h.memWf w), hs w (h.memWf w)⟩
end

/-- A state that stands in a pair. -/
theorem Keeps.pair {α : Type} {y : α} (h : Keeps s₀ t) : Keeps s₀ (t, y).1 := h

theorem Keeps.next (h : Keeps s₀ t) : Completes s₀ (.next t) := ⟨t, rfl, h⟩

section
variable {c : Prop} [Decidable c] {a b x : State} {α : Type} {p q : State × α} {o u : Host.Outcome State Fault Refusal}

theorem Keeps.ite (ha : Keeps s₀ a) (hb : Keeps s₀ b) : Keeps s₀ (if c then a else b) := by split; exacts [ha, hb]

theorem Keeps.branch (h : Keeps s₀ x) (ha : Keeps s₀ x → Keeps s₀ a) (hb : Keeps s₀ x → Keeps s₀ b) :
    Keeps s₀ (if c then a else b) := ite (ha h) (hb h)

theorem Keeps.when (h : Keeps s₀ x) (ha : Keeps s₀ x → Keeps s₀ a) : Keeps s₀ (if c then a else x) := ite (ha h) h

theorem Keeps.unless (h : Keeps s₀ x) (hb : Keeps s₀ x → Keeps s₀ b) : Keeps s₀ (if c then x else b) := ite h (hb h)

theorem Keeps.iteFst (ha : Keeps s₀ p.1) (hb : Keeps s₀ q.1) : Keeps s₀ (if c then p else q).1 := by split; exacts [ha, hb]

theorem Keeps.branchFst (h : Keeps s₀ x) (ha : Keeps s₀ x → Keeps s₀ p.1) (hb : Keeps s₀ x → Keeps s₀ q.1) :
    Keeps s₀ (if c then p else q).1 := iteFst (ha h) (hb h)

theorem Keeps.whenFst {y : α} (h : Keeps s₀ x) (ha : Keeps s₀ x → Keeps s₀ p.1) : Keeps s₀ (if c then p else (x, y)).1 :=
  iteFst (ha h) h

theorem Keeps.unlessFst {y : α} (h : Keeps s₀ x) (hb : Keeps s₀ x → Keeps s₀ q.1) : Keeps s₀ (if c then (x, y) else q).1 :=
  iteFst h (hb h)

theorem Keeps.branchOut (h : Keeps s₀ x) (ha : Keeps s₀ x → Completes s₀ o) (hb : Keeps s₀ x → Completes s₀ u) :
    Completes s₀ (if c then o else u) := by split; exacts [ha h, hb h]

/-- What follows a function that answers a state and a value. -/
theorem Keeps.prod {f : State → α → State} (h : Keeps s₀ p.1) (k : ∀ {t y}, Keeps s₀ t → Keeps s₀ (f t y)) :
    Keeps s₀ (Prod.casesOn p f) := k h

theorem Keeps.prodFst {β : Type} {f : State → α → State × β} (h : Keeps s₀ p.1) (k : ∀ {t y}, Keeps s₀ t → Keeps s₀ (f t y).1) :
    Keeps s₀ (Prod.casesOn (motive := fun _ => State × β) p f).1 := k h

theorem Keeps.foldl {l : List α} {f : State → α → State} (h : Keeps s₀ s) (k : ∀ {t} y, Keeps s₀ t → Keeps s₀ (f t y)) :
    Keeps s₀ (l.foldl f s) := by
  induction l generalizing s with
  | nil => exact h
  | cons y l ih => exact ih (k y h)

theorem Keeps.foldlFst {β : Type} {l : List β} {f : State × α → β → State × α} (h : Keeps s₀ p.1)
    (k : ∀ {q} y, Keeps s₀ q.1 → Keeps s₀ (f q y).1) : Keeps s₀ (l.foldl f p).1 := by
  induction l generalizing p with
  | nil => exact h
  | cons y l ih => exact ih (k y h)

theorem Keeps.forEach {l : List α} {f : State → α → State} (h : Keeps s₀ s) (k : ∀ {t} y, Keeps s₀ t → Keeps s₀ (f t y)) :
    Keeps s₀ (forEach l f s) := h.foldl k

theorem Keeps.iter {n : Nat} {f : Nat → State → State} (h : Keeps s₀ s) (k : ∀ {t} i, Keeps s₀ t → Keeps s₀ (f i t)) :
    Keeps s₀ (iter n f s) := h.foldl k
end

/-! ### Sys2Proof/Machine/Regs.lean -/

theorem Keeps.setRg {a v} (h : Keeps s₀ s) : Keeps s₀ (setRg s a v) := h.set

theorem Keeps.setF {a f v} (h : Keeps s₀ s) : Keeps s₀ (setF s a f v) := h.setRg

theorem Keeps.setB {a f v} (h : Keeps s₀ s) : Keeps s₀ (setB s a f v) := h.setF

theorem Keeps.addSat {a f n} (h : Keeps s₀ s) : Keeps s₀ (addSat s a f n) := h.setF

theorem Keeps.resetRegs {p} (h : Keeps s₀ s) : Keeps s₀ (resetRegs p s) := h.set

/-! ### Sys2Proof/Machine/Ops.lean -/

theorem Keeps.emit {o} (h : Keeps s₀ s) : Keeps s₀ (emit s o) := h.set

theorem Keeps.takeFree (h : Keeps s₀ s) : Keeps s₀ (takeFree s) := h.set

theorem Keeps.endHush {b} (h : Keeps s₀ s) : Keeps s₀ (endHush s b) := by
  unfold Machine.endHush
  split
  exacts [h.when (·.setF), h]

theorem Keeps.setSeq {b q} (h : Keeps s₀ s) : Keeps s₀ (setSeq s b q) := h.set

theorem Keeps.updSeq {b f} (h : Keeps s₀ s) : Keeps s₀ (updSeq s b f) := h.setSeq

/-- An epoch state may change as long as its copies keep their form. -/
theorem Keeps.updEpoch {n f} (h : Keeps s₀ s)
    (k : s₀.memWf = true → ∀ e : Epoch, e.memWf = true → (f e).memWf = true := by exact fun _ _ w => w) :
    Keeps s₀ (updEpoch s n f) := by
  refine h.setEpochs fun w₀ w e he => ?_
  unfold mapSet at he
  split_ifs at he
  · exact State.memWf_epochs w (mem_mapErase he)
  · rcases mem_mapPut he with rfl | he
    · exact k w₀ _ (State.memWf_epochOf w n)
    · exact State.memWf_epochs w he

theorem Keeps.breakResv {a n} (h : Keeps s₀ s) : Keeps s₀ (breakResv s a n) := by
  refine h.when (·.foldl fun _ h => ?_)
  split
  exacts [h.when (·.setSeq.setB), h]

theorem Keeps.cleanWords {a n} (h : Keeps s₀ s) : Keeps s₀ (cleanWords s a n) := h.set

theorem Keeps.notePages {a n} (h : Keeps s₀ s) : Keeps s₀ (notePages s a n) := h.unless (·.set)

theorem Keeps.writeDigits {a ds} (h : Keeps s₀ s) : Keeps s₀ (writeDigits s a ds) :=
  (h.breakResv.notePages.setMem fun _ w => Memory.wf_write w a ds).cleanWords

theorem Keeps.writeVal {a n v} (h : Keeps s₀ s) : Keeps s₀ (writeVal s a n v) := h.writeDigits

theorem Keeps.bicSet {b n} (h : Keeps s₀ s) : Keeps s₀ (bicSet s b n) := h.setF

theorem Keeps.bicRise {s0 b n} (h : Keeps s₀ s) : Keeps s₀ (bicRise s0 s b n) := h.when (·.bicSet)

theorem Keeps.bicDeliver {b n} (h : Keeps s₀ s) : Keeps s₀ (bicDeliver s b n) := h.setF.setF.unless (·.set)

theorem Keeps.cicSet {n} (h : Keeps s₀ s) : Keeps s₀ (cicSet s n) := h.setF

theorem Keeps.cicOutside {n} (h : Keeps s₀ s) : Keeps s₀ (cicOutside s n) := by
  unfold Machine.cicOutside
  split
  · exact h
  · refine h.setEpochs fun _ w e he => ?_
    obtain ⟨x, hx, rfl⟩ := List.mem_map.mp he
    have wx := State.memWf_epochs w hx
    split
    · exact Epoch.memWf_map wx rfl rfl (fun _ w => w) fun _ w => w
    · exact wx

theorem Keeps.cicRise {s0 n} (h : Keeps s₀ s) : Keeps s₀ (cicRise s0 s n) := h.when (·.cicSet.cicOutside)

theorem Keeps.journal {kind src pid unit arg loc} (h : Keeps s₀ s) : Keeps s₀ (journal s kind src pid unit arg loc) :=
  h.setRg.branch (·.setSb.setF) (·.addSat)

theorem Keeps.gwAlarm {g src unit} (h : Keeps s₀ s) : Keeps s₀ (gwAlarm s g src unit) := by
  unfold Machine.gwAlarm
  split
  · exact h.addSat
  · split
    exacts [h.setRg, h]

theorem Keeps.girthRaise {src p} (h : Keeps s₀ s) : Keeps s₀ (girthRaise s src p) := h.set

theorem Keeps.tracePut {p} (h : Keeps s₀ s) : Keeps s₀ (tracePut s p) := h.when (·.emit)

theorem Keeps.raiseCheck {src unit loc part} (h : Keeps s₀ s) : Keeps s₀ (raiseCheck s src unit loc part) := by
  refine .emit (.set (.girthRaise ?_))
  split
  exacts [h.gwAlarm, h]

theorem Keeps.blockCheck {b src loc} (h : Keeps s₀ s) : Keeps s₀ (blockCheck s b src loc) := h.raiseCheck

theorem Keeps.rollSpill (h : Keeps s₀ s) : Keeps s₀ (rollSpill s) :=
  h.unless fun h => (h.foldl fun _ h => h.unless (·.emit)).set

theorem Keeps.warnAt {c u part place credit} (h : Keeps s₀ s) : Keeps s₀ (warnAt s c u part place credit) :=
  ((h.rollSpill.when (·.set)).when (·.setF)).addSat.setF.branch (·.set) (·.branch (·.emit.set) (·.set))

theorem Keeps.warnOp {c u part credit} (h : Keeps s₀ s) : Keeps s₀ (warnOp s c u part credit) := h.warnAt

theorem Keeps.warnCorrected {u part} (h : Keeps s₀ s) : Keeps s₀ (warnCorrected s u part) := h.warnOp

theorem Keeps.powerEvent {f} (h : Keeps s₀ s) : Keeps s₀ (powerEvent s f) := h.setB.cicRise.warnOp

theorem Keeps.setCfg {f d v} (h : Keeps s₀ s) : Keeps s₀ (setCfg s f d v) := h.set

theorem Keeps.sendMsix {f v} (h : Keeps s₀ s) : Keeps s₀ (sendMsix s f v) := h.branch (·.set) (·.unless (·.emit))

theorem Keeps.sendRead {r} (h : Keeps s₀ s) : Keeps s₀ (sendRead s r) := h.set.unless (·.emit)

theorem Keeps.hostReadAs {f p addr len} (h : Keeps s₀ s) : Keeps s₀ (hostReadAs s f p addr len) := h.set.sendRead

theorem Keeps.nextRead {f} (h : Keeps s₀ s) : Keeps s₀ (nextRead s f) := by
  unfold Machine.nextRead
  split
  exacts [h.sendRead, h]

theorem Keeps.setQueue {f q v} (h : Keeps s₀ s) : Keeps s₀ (setQueue s f q v) := h.set

theorem Keeps.dropCmd {c} (h : Keeps s₀ s) : Keeps s₀ (dropCmd s c) := by
  unfold Machine.dropCmd
  split
  exacts [h.set, h]

theorem Keeps.putCompl {c} (h : Keeps s₀ s) : Keeps s₀ (putCompl s c) := h.branch (·.dropCmd) (·.set)

theorem Keeps.endFences (h : Keeps s₀ s) : Keeps s₀ (endFences s) := h.set.foldl fun _ h => h.putCompl

theorem Keeps.endOrderFences (h : Keeps s₀ s) : Keeps s₀ (endOrderFences s) := h.iter fun _ h => h.endFences

theorem Keeps.postCompl {c} (h : Keeps s₀ s) : Keeps s₀ (postCompl s c) := h.putCompl.when (·.endOrderFences)

theorem Keeps.complete {f q c status detail result} (h : Keeps s₀ s) : Keeps s₀ (complete s f q c status detail result) :=
  h.postCompl

theorem Keeps.hold {n h'} (h : Keeps s₀ s) : Keeps s₀ (hold s n h') := h.updEpoch

theorem Keeps.completeHeld {n f q c status detail result} (h : Keeps s₀ s) :
    Keeps s₀ (completeHeld s n f q c status detail result) :=
  h.hold

theorem Keeps.throughSnap {a ds} (h : Keeps s₀ s) : Keeps s₀ (throughSnap s a ds) := by
  refine h.setEpochs fun _ w e he => ?_
  obtain ⟨x, hx, rfl⟩ := List.mem_map.mp he
  have wx := State.memWf_epochs w hx
  split
  · exact Epoch.memWf_map wx rfl rfl (fun _ w => Snap.memWf_write w a ds) fun _ w => Snap.memWf_write w a ds
  · exact wx

theorem Keeps.csSet {b n w} (h : Keeps s₀ s) : Keeps s₀ (csSet s b n w) := h.set.setRg

theorem Keeps.dtSet {b e v} (h : Keeps s₀ s) : Keeps s₀ (dtSet s b e v) := h.set.setRg

theorem Keeps.csFill {b} (h : Keeps s₀ s) : Keeps s₀ (csFill s b) := h.set.setRg

theorem Keeps.csKeep {b} (h : Keeps s₀ s) : Keeps s₀ (csKeep s b) := h.set

theorem Keeps.csReadMark {b n sec} (h : Keeps s₀ s) : Keeps s₀ (csReadMark s b n sec) := h.when (·.setB)

theorem Keeps.csApply {b p} (h : Keeps s₀ s) : Keeps s₀ (csApply s b p) := by
  unfold Machine.csApply
  split
  exacts [h.csReadMark.emit, h.branch (·.dtSet) (·.csSet)]

theorem Keeps.csFlush {b} (h : Keeps s₀ s) : Keeps s₀ (csFlush s b) := h.unless fun h => h.updSeq.foldl fun _ h => h.csApply

theorem Keeps.haltSeq {b cause} (h : Keeps s₀ s) : Keeps s₀ (haltSeq s b cause) :=
  ((h.forEach fun _ h => h.csFlush).unless (·.setF)).branch (·.setB.when (·.setB)) (·.setB)

theorem Keeps.girthStop {n cause} (h : Keeps s₀ s) : Keeps s₀ (girthStop s n cause) := h.set.forEach fun _ h => h.haltSeq

theorem Keeps.unstop {n} (h : Keeps s₀ s) : Keeps s₀ (unstop s n) := h.set

theorem Keeps.girthFree {b} (h : Keeps s₀ s) : Keeps s₀ (girthFree s b) := h.when (·.setB.setB.unless (·.setF))

theorem Keeps.leaveProgram {b} (h : Keeps s₀ s) : Keeps s₀ (leaveProgram s b) := by
  unfold Machine.leaveProgram
  exact h.updSeq.setB.haltSeq

theorem Keeps.abandonOp {b} (h : Keeps s₀ s) : Keeps s₀ (abandonOp s b) :=
  h.when (·.setF.setF.setF.setF.setF.setB.setB.setB.setB.updSeq.bicRise)

theorem Keeps.endRuns {n status detail result held} (h : Keeps s₀ s) : Keeps s₀ (endRuns s n status detail result held) := by
  unfold Machine.endRuns
  split
  · refine h.set.foldl fun _ h => ?_
    split
    exacts [h.branch (·.completeHeld) (·.complete), h]

/-! ### Sys2Proof/Machine/Conceal.lean -/

theorem Keeps.setKeyByte {fr v} (h : Keeps s₀ s) : Keeps s₀ (setKeyByte s fr v) := h.set

theorem Keeps.setPort {p st cause} (h : Keeps s₀ s) : Keeps s₀ (setPort s p st cause) := h.setF.setF

theorem Keeps.sendCtl {p kind arg} (h : Keeps s₀ s) : Keeps s₀ (sendCtl s p kind arg) := h.when (·.emit)

theorem Keeps.toLead {kind arg} (h : Keeps s₀ s) : Keeps s₀ (toLead s kind arg) := by
  unfold Machine.toLead
  split
  exacts [h.sendCtl, h]

theorem Keeps.fromLead {kind arg} (h : Keeps s₀ s) : Keeps s₀ (fromLead s kind arg) := h.foldl fun _ h => h.sendCtl

theorem Keeps.regeom {n keep} (h : Keeps s₀ s) : Keeps s₀ (regeom s n keep) := h.forEach fun _ h => h.setRg

theorem Keeps.restoreSnap {n c} (h : Keeps s₀ s) (k : s₀.memWf = true → c.memWf = true) : Keeps s₀ (restoreSnap s n c) := by
  unfold Machine.restoreSnap
  extract_lets bs back fl rs pend host mesh s1 s2 s3 s4
  have h1 : Keeps s₀ s1 := h.setMem fun w hm => mapWf_over (fun _ => 0) _ (k w) hm
  have h2 : Keeps s₀ s2 := h1.forEach fun _ h => h.setSeq
  have h3 : Keeps s₀ s3 := h2.forEach fun _ h => h.when (·.setF)
  have h4 : Keeps s₀ s4 := h3.forEach fun _ h => h.cicSet
  exact h4.forEach fun _ h => h.setKeyByte

theorem Keeps.rollback {n arg src unit loc} (h : Keeps s₀ s) : Keeps s₀ (rollback s n arg src unit loc) := by
  refine .ite h (.journal (.addSat (.addSat (.setF (.updEpoch ?_ fun _ _ w =>
    Epoch.memWf_set w id fun _ => Snap.memWf_none)))))
  split
  next e => exact h.restoreSnap fun w => State.memWf_com (h.memWf w) e
  · exact h

theorem Keeps.wdReload {b} (h : Keeps s₀ s) : Keeps s₀ (wdReload s b) := h.when (·.setF)

theorem Keeps.forwardReq {n r} (h : Keeps s₀ s) : Keeps s₀ (forwardReq s n r) := h.when (·.toLead)

theorem Keeps.sendDisp {m} (h : Keeps s₀ s) : Keeps s₀ (sendDisp s m) := h.foldl fun _ h => h.when (·.emit)

theorem Keeps.sendAct {n a} (h : Keeps s₀ s) : Keeps s₀ (sendAct s n a) := h.when (·.sendDisp)

theorem Keeps.stopPart {n cause} (h : Keeps s₀ s) : Keeps s₀ (stopPart s n cause) := h.girthStop.sendAct

theorem Keeps.sendEpochMsg {m} (h : Keeps s₀ s) : Keeps s₀ (sendEpochMsg s m) := h.branch (·.fromLead) (·.toLead)

theorem Keeps.epochMsg {n kind} (h : Keeps s₀ s) : Keeps s₀ (epochMsg s n kind) := h.set.sendEpochMsg

theorem Keeps.startBoundary {n} (h : Keeps s₀ s) : Keeps s₀ (startBoundary s n) :=
  (h.updEpoch.setF.forEach fun _ h => h.updSeq).when (·.set.epochMsg)

theorem Keeps.requestBoundary {n} (h : Keeps s₀ s) : Keeps s₀ (requestBoundary s n) :=
  h.unless (·.unless (·.branch (·.updEpoch) (·.startBoundary)))

theorem Keeps.askBoundary {n} (h : Keeps s₀ s) : Keeps s₀ (askBoundary s n) :=
  h.unless fun h => h.branch (·.forwardReq) fun h => h.updEpoch.requestBoundary

theorem Keeps.earlyBoundary {n} (h : Keeps s₀ s) : Keeps s₀ (earlyBoundary s n) :=
  h.unless fun h => h.addSat.updEpoch.askBoundary

theorem Keeps.setSluice {g j v} (h : Keeps s₀ s) : Keeps s₀ (setSluice s g j v) := h.setF

theorem Keeps.raiseFences (h : Keeps s₀ s) : Keeps s₀ (raiseFences s) := by
  unfold Machine.raiseFences
  split
  exacts [h, h.unless fun h => h.foldl fun _ h => h.when (·.setSluice)]

theorem Keeps.resumeRollback {n} (h : Keeps s₀ s) : Keeps s₀ (resumeRollback s n) :=
  h.unless fun h => (((h.forEach fun _ h => (h.wdReload.unless (·.girthFree)).branch (·.haltSeq.setB) (·.branch (·.setB.unless
    (·.setF)) (·.haltSeq))).unless (·.unstop)).tracePut.setF.updEpoch.unless (·.branch (·.startBoundary)
    (·.requestBoundary))).raiseFences

theorem Keeps.wdRelease {s0 b} (h : Keeps s₀ s) : Keeps s₀ (wdRelease s0 s b) := h.when (·.wdReload)

theorem Keeps.freePart {n} (h : Keeps s₀ s) : Keeps s₀ (freePart s n) :=
  h.unless fun h => h.unstop.unless fun h => (h.sendAct.forEach fun _ h => h.girthFree.wdRelease).when (·.requestBoundary)

theorem Keeps.concealmentLost {n src unit loc} (h : Keeps s₀ s) : Keeps s₀ (concealmentLost s n src unit loc) := by
  refine h.unless fun h => .raiseFences (.foldl (.foldl (.endRuns (.journal (.addSat (.cicRise (.setB (.setF (.set
    (h.stopPart.updEpoch fun _ _ w => Epoch.memWf_set w id Snap.memWf_when)))))))) fun _ h => ?_)
    fun _ h => h.complete)
  split
  exacts [h.postCompl, h]

theorem Keeps.programFault {b cause word} (h : Keeps s₀ s) : Keeps s₀ (programFault s b cause word) := by
  unfold Machine.programFault
  extract_lets a s1 s2 u src s3 s4
  have h2 : Keeps s₀ s2 := h.setF.setF.setB
  have h3 : Keeps s₀ s3 := by
    unfold s3
    split
    exacts [h2.gwAlarm, h2]
  have h4 : Keeps s₀ s4 := h3.girthRaise.emit
  split
  exacts [h4, h4.stopPart.journal.endRuns]

theorem Keeps.storeFault {b cause word} (h : Keeps s₀ s) : Keeps s₀ (storeFault s b cause word) :=
  h.setF.setF.setB.blockCheck

theorem Keeps.pickTwin {b} (h : Keeps s₀ s) : Keeps s₀ (pickTwin s b) := by
  refine .ite h ?_
  split
  exacts [h.setF, h.unless (·.setB.warnOp.cicRise)]

theorem Keeps.killSpare {b c} (h : Keeps s₀ s) : Keeps s₀ (killSpare s b c) := by
  unfold Machine.killSpare
  split
  exacts [h.setF, h]

theorem Keeps.spareColumn {b c src} (h : Keeps s₀ s) (e : spareColumn s b c src = some t) : Keeps s₀ t := by
  unfold Machine.spareColumn at e
  extract_lets at e
  split at e
  · cases e
  · cases e; exact h.killSpare.setF.addSat.journal.pickTwin

theorem Keeps.showTwinStop {b} (h : Keeps s₀ s) : Keeps s₀ (showTwinStop s b) := h.setB

theorem Keeps.takeMap {b v} (h : Keeps s₀ s) : Keeps s₀ (takeMap s b v) := h.setRg.updSeq

theorem Keeps.moveHolder {b p q} (h : Keeps s₀ s) : Keeps s₀ (moveHolder s b p q) :=
  h.unless fun h => (h.setRg.setMem fun _ w => mapWf_drop (fun _ => 0) _ w).takeMap.showTwinStop.cicRise

theorem Keeps.killTwin {b} (h : Keeps s₀ s) : Keeps s₀ (killTwin s b) := by
  unfold Machine.killTwin
  split
  exacts [h.setF.pickTwin, h]

theorem Keeps.showHolder {b} (h : Keeps s₀ s) : Keeps s₀ (showHolder s b) := h.setF

theorem Keeps.showHolders {g} (h : Keeps s₀ s) : Keeps s₀ (showHolders s g) := h.forEach fun _ h => h.showHolder

theorem Keeps.showSeqId {b} (h : Keeps s₀ s) : Keeps s₀ (showSeqId s b) := h.showHolder.setF.setB.setF.setF

theorem Keeps.setDom {d v} (h : Keeps s₀ s) : Keeps s₀ (setDom s d v) := h.setF.setF

theorem Keeps.markDead {p} (h : Keeps s₀ s) : Keeps s₀ (markDead s p) := h.set

theorem Keeps.deadBlock {p src} (h : Keeps s₀ s) : Keeps s₀ (deadBlock s p src) := h.journal.markDead

/-- A position finds another holder. -/
theorem Keeps.newHolder {g k answers mig r} (h : Keeps s₀ s) (e : newHolder s g k answers mig = some r) : Keeps s₀ r.2 := by
  unfold Machine.newHolder at e
  extract_lets pol at e
  split at e
  · cases e
  split at e
  · cases e
    exact h.setF.addSat
  split at e
  · cases e
    exact h.setF.setF.addSat
  · split at e
    · obtain ⟨_, _, rfl⟩ := Option.map_eq_some_iff.mp e
      exact h.addSat
    · cases e

theorem Keeps.replaceBlock {b src answers} (h : Keeps s₀ s) (e : replaceBlock s b src answers = some t) : Keeps s₀ t := by
  unfold Machine.replaceBlock at e
  extract_lets g k n at e
  split at e
  · cases e
  extract_lets cur at e
  split at e
  · cases e
  next code s1 he =>
    have h1 : Keeps s₀ s1 := h.newHolder he
    extract_lets hg s2 s3 s4 s5 s6 s7 at e
    have h4 : Keeps s₀ s4 := (h1.unless (·.setF.when (·.setF))).setF.setF
    have h5 : Keeps s₀ s5 := by
      refine .ite h4.set ?_
      split
      exacts [h4.setDom.moveHolder, h4]
    have h7 : Keeps s₀ s7 := h5.showHolders.regeom.journal.markDead
    split at e
    · exact Option.some.inj e ▸ h7.journal
    split at e
    · exact Option.some.inj e ▸ h7.journal
    · exact Option.some.inj e ▸ h7

theorem Keeps.endWaits (h : Keeps s₀ s) : Keeps s₀ (endWaits s) := by
  refine h.forEach fun _ h => h.unless fun h => h.updEpoch.foldl fun _ h => h.unless fun h => ?_
  split
  next e => exact h.replaceBlock e
  · exact h.concealmentLost

theorem Keeps.reloadStore {b src} (h : Keeps s₀ s) : Keeps s₀ (reloadStore s b src) := h.csFill.addSat.journal

theorem Keeps.wordCheck {b key} (h : Keeps s₀ s) : Keeps s₀ (wordCheck s b key).1 :=
  h.unlessFst (·.branchFst (·.setB.blockCheck) (·.addSat.warnCorrected.updSeq.pair))

theorem Keeps.memCheck {b a n} (h : Keeps s₀ s) : Keeps s₀ (memCheck s b a n).1 :=
  h.unlessFst fun h => .foldlFst (p := (s, true)) h fun _ h => h.wordCheck

theorem Keeps.mergeCheck {b a n} (h : Keeps s₀ s) : Keeps s₀ (mergeCheck s b a n).1 :=
  (h.unlessFst (·.memCheck)).prodFst (·.unlessFst (·.memCheck.prodFst (·.pair)))

/-! ### Sys2Proof/Machine/Cells.lean -/

theorem Keeps.mapListed {b f} (h : Keeps s₀ s) : Keeps s₀ (mapListed s b f) := h.set

theorem Keeps.mapCells {b f} (h : Keeps s₀ s) : Keeps s₀ (mapCells s b f) := h.set

theorem Keeps.mapActive {b f} (h : Keeps s₀ s) : Keeps s₀ (mapActive s b f) := h.mapListed

theorem Keeps.saveATC {b} (h : Keeps s₀ s) : Keeps s₀ (saveATC s b) := h.mapListed

theorem Keeps.restoreATC {b} (h : Keeps s₀ s) : Keeps s₀ (restoreATC s b) := h.mapListed

theorem Keeps.spoilPlanes {b p n act} (h : Keeps s₀ s) : Keeps s₀ (spoilPlanes s b p n act) := h.mapListed.set

theorem Keeps.spoilAll {b p n} (h : Keeps s₀ s) : Keeps s₀ (spoilAll s b p n) := h.mapCells.set

/-! ### Sys2Proof/Machine/Operands.lean -/

theorem Keeps.setPc {b v} (h : Keeps s₀ s) : Keeps s₀ (setPc s b v) := h.setF

theorem Keeps.writeId {b id v} (h : Keeps s₀ s) : Keeps s₀ (writeId s b id v) := h.unless (·.branch (·.setRg) (·.setRg))

theorem Keeps.wr {b r v} (h : Keeps s₀ s) : Keeps s₀ (wr s b r v) := h.writeId

theorem Keeps.storeLocal {b ea n v} (h : Keeps s₀ s) : Keeps s₀ (storeLocal s b ea n v) := h.writeVal

theorem Keeps.spPut {b a v} (h : Keeps s₀ s) : Keeps s₀ (spPut s b a v) := h.writeVal

/-! ### Sys2Proof/Machine/Flags.lean -/

theorem Keeps.setSflag {b fl} (h : Keeps s₀ s) : Keeps s₀ (setSflag s b fl) := h.unless (·.setF)

theorem Keeps.setDflag {b fl} (h : Keeps s₀ s) : Keeps s₀ (setDflag s b fl) := h.unless (·.setF.bicRise)

/-! ### Sys2Proof/Machine/Sequence.lean -/

theorem Keeps.forwardIrqs (h : Keeps s₀ s) : Keeps s₀ (forwardIrqs s) :=
  h.unless fun h => h.foldl fun _ h => h.foldl fun _ h => h.unless (·.set.forwardReq)

theorem Keeps.closeLoop {b n} (h : Keeps s₀ s) : Keeps s₀ (closeLoop s b n) := h.setF

theorem Keeps.noteLoop {b ls le} (h : Keeps s₀ s) : Keeps s₀ (noteLoop s b ls le) := h.unless (·.updSeq)

theorem Keeps.loopEnd {b pc l} (h : Keeps s₀ s) : Keeps s₀ (loopEnd s b pc l).1 := by
  induction l generalizing s with
  | nil => exact h
  | cons n r ih => exact h.branchFst (fun h => .iteFst h.setRg.noteLoop (ih h.setRg.closeLoop)) id

theorem Keeps.loopJump {b t l} (h : Keeps s₀ s) : Keeps s₀ (loopJump s b t l) := by
  induction l generalizing s with
  | nil => exact h
  | cons n r ih => exact h.unless fun h => ih h.closeLoop

theorem Keeps.closeTag {b} (h : Keeps s₀ s) : Keeps s₀ (closeTag s b) := h.forEach fun _ h => h.closeLoop

theorem Keeps.ageLoads {b} (h : Keeps s₀ s) : Keeps s₀ (ageLoads s b) :=
  h.unless fun h => h.setSeq.foldl fun _ h => h.writeId

theorem Keeps.exitOp {b code} (h : Keeps s₀ s) : Keeps s₀ (exitOp s b code) := by
  unfold Machine.exitOp
  split
  · exact h
  · extract_lets
    split
    · exact h.forEach fun _ h => h.leaveProgram
    · refine .ite ?_ (h.forEach fun _ h => h.leaveProgram).set
      extract_lets
      split
      · exact (h.forEach fun _ h => h.leaveProgram).set.completeHeld.when (·.askBoundary)
      · exact (h.forEach fun _ h => h.leaveProgram).set.setF.setB.cicRise

theorem Keeps.takeExit {b} (h : Keeps s₀ s) : Keeps s₀ (takeExit s b) := by
  unfold Machine.takeExit
  extract_lets
  split
  exacts [h.when (·.exitOp), h]

theorem Keeps.spillFrame {b f} (h : Keeps s₀ s) : Keeps s₀ (spillFrame s b f) := (h.forEach fun _ h => h.spPut).setF

theorem Keeps.fillFrame {b f} (h : Keeps s₀ s) : Keeps s₀ (fillFrame s b f) := (h.forEach fun _ h => h.setRg).setF

theorem Keeps.clearResv {b} (h : Keeps s₀ s) : Keeps s₀ (clearResv s b) := h.updSeq.setB

theorem Keeps.unfetch {b} (h : Keeps s₀ s) : Keeps s₀ (unfetch s b) := h.when (·.updSeq)

theorem Keeps.enter {b cause tval ret impr susp} (h : Keeps s₀ s) : Keeps s₀ (enter s b cause tval ret impr susp) :=
  h.unless fun h => h.branch (·.programFault) fun h => (((h.forEach fun _ h => h.spillFrame).foldl fun _ h =>
    h.writeId).forEach fun _ h => h.spPut).setF.setRg.setRg.setRg.unfetch.clearResv.updSeq.setPc

theorem Keeps.trapAt {b cause tval} (h : Keeps s₀ s) : Keeps s₀ (trapAt s b cause tval) := h.enter

theorem Keeps.stepPc {b pc} (h : Keeps s₀ s) : Keeps s₀ (stepPc s b pc) := h.loopEnd.prod (·.setPc)

theorem Keeps.retire {b} (h : Keeps s₀ s) : Keeps s₀ (retire s b) :=
  h.ageLoads.branch (·.setF.when (·.setB.stepPc)) (·.stepPc)

theorem Keeps.haltGang {b cause} (h : Keeps s₀ s) : Keeps s₀ (haltGang s b cause) := by
  unfold Machine.haltGang
  extract_lets
  split
  exacts [(h.forEach fun _ h => h.haltSeq).sendAct, h.forEach fun _ h => h.haltSeq]

theorem Keeps.endStep {b} (h : Keeps s₀ s) : Keeps s₀ (endStep s b) := h.unless (·.updSeq.unless (·.haltGang))

/-- However an instruction ends; s₁ is the state in which it issued. -/
theorem Keeps.finish {s₁ b f} (h : Keeps s₀ s) (h₁ : Keeps s₀ s₁) : Keeps s₀ (finish s₁ s b f) := by
  cases f with
  | next => exact h.retire
  | goto t => exact h.unfetch.ageLoads.setPc
  | jump t => exact .ite h.unfetch.ageLoads.loopJump.setPc h₁.trapAt
  | trap c v => exact h₁.trapAt
  | trapKeep c v => exact h.trapAt
  | trapAfter c v => exact h.retire.enter
  | haltAfter c => exact h.retire.girthRaise.haltGang
  | skip => exact h.ageLoads.stepPc
  | rep => exact h.ageLoads.setB.setPc
  | stay => exact h₁
  | park => exact h

theorem Keeps.reading {b a n f} (h : Keeps s₀ s) (k : ∀ {t}, Keeps s₀ t → Keeps s₀ (f t).1) : Keeps s₀ (reading s b a n f).1 :=
  h.memCheck.prodFst fun h => h.whenFst fun h => k h

theorem Keeps.merging {b a n f} (h : Keeps s₀ s) (k : ∀ {t}, Keeps s₀ t → Keeps s₀ (f t).1) : Keeps s₀ (merging s b a n f).1 :=
  h.mergeCheck.prodFst fun h => h.whenFst fun h => k h

theorem Keeps.fetchLine {b pc} (h : Keeps s₀ s) : Keeps s₀ (fetchLine s b pc).1 :=
  h.unlessFst fun h => (h.unlessFst (·.memCheck)).prodFst fun h => (h.when (·.updSeq)).pair

theorem Keeps.fetched {b pc f} (h : Keeps s₀ s) (k : ∀ {t}, Keeps s₀ t → Keeps s₀ (f t).1) : Keeps s₀ (fetched s b pc f).1 :=
  h.fetchLine.prodFst fun h => h.whenFst fun h => k h

theorem Keeps.issue {b w regs noRep body} (h : Keeps s₀ s) (k : ∀ {t}, Keeps s₀ t → Keeps s₀ (body t).1) :
    Keeps s₀ (issue s b w regs noRep body) :=
  h.unless fun h => h.branch (·.enter.endStep) fun h => h.branch (·.trapAt.endStep) fun h => h.unless fun h =>
    (h.fetched k).prod fun h' => .ite h.trapAt.endStep ((h'.finish h).unless (·.endStep))

theorem Keeps.illegal {w} (h : Keeps s₀ s) : Keeps s₀ (illegal s w).1 := h

theorem Keeps.callOp {b w} (h : Keeps s₀ s) : Keeps s₀ (callOp s b w).1 :=
  h.branchFst (·.illegal) fun h => h.unlessFst fun h => h.unlessFst fun h => h.unlessFst fun h => h.unlessFst fun h =>
    h.unlessFst fun h => h.unlessFst fun h => h.unlessFst fun h => ((h.when (·.spillFrame)).forEach fun _ h =>
    h.spPut).setF.setRg.forEach fun _ h => h.takeFree.setRg

theorem Keeps.retOp {b w} (h : Keeps s₀ s) : Keeps s₀ (retOp s b w).1 :=
  h.branchFst (·.illegal) fun h => h.unlessFst fun h => h.unlessFst fun h => h.reading fun h => h.unlessFst fun h =>
    h.unlessFst fun h => h.unlessFst fun h => h.unlessFst fun h => h.reading fun h => h.reading fun h => ((h.closeTag.when
    (·.fillFrame)).forEach fun _ h => h.writeId).setF.setRg

theorem Keeps.resumeOp {b} (h : Keeps s₀ s) : Keeps s₀ (resumeOp s b) := by
  unfold Machine.resumeOp
  split
  · exact h
  · extract_lets s1 s2
    have h1 : Keeps s₀ s1 := h.forEach fun _ h => h.setF.setF.setF.setB.setB.updSeq.restoreATC
    have h2 : Keeps s₀ s2 := by
      unfold s2
      split
      exacts [h1.sendAct, h1]
    split <;> exact h2.updSeq

theorem Keeps.resumeIdle {b} (h : Keeps s₀ s) : Keeps s₀ (resumeIdle s b) := by
  unfold Machine.resumeIdle
  split
  exacts [h.when (·.resumeOp), h]

theorem Keeps.retiOp {b w} (h : Keeps s₀ s) : Keeps s₀ (retiOp s b w).1 := by
  refine h.branchFst (·.illegal) (·.unlessFst (·.unlessFst (·.reading (·.unlessFst (·.unlessFst (·.unlessFst (·.reading
    (·.reading fun h => ?_))))))))
  extract_lets s1 s2 gs s3 s4 s5 resf p p' s6 s7 s8 ld s9 ra s10
  have h5 : Keeps s₀ s5 := ((h.closeTag.forEach fun _ h => h.fillFrame).forEach fun _ h => h.writeId).setF.setF
  have h9 : Keeps s₀ s9 := (h5.setRg.when (·.setF)).clearResv.updSeq
  have h10 : Keeps s₀ s10 := by
    unfold s10
    split
    exacts [h9.when (·.resumeOp), h9]
  exact h10

/-! ### Sys2Proof/Machine/Access.lean -/

theorem Keeps.writePlain {a m v} (h : Keeps s₀ s) : Keeps s₀ (writePlain s a m v) := h.setRg.when (·.bicRise)

theorem Keeps.popCicq {b} (h : Keeps s₀ s) : Keeps s₀ (popCicq s b) := h.set

theorem Keeps.consumed {a msk} (h : Keeps s₀ s) : Keeps s₀ (consumed s a msk) := by
  refine .ite h.popCicq ?_
  split
  exacts [h, h.unless (·.setRg.when (·.setF.setF))]

theorem Keeps.execConsumeRead {_i a} (h : Keeps s₀ s) : Completes s₀ (execConsumeRead _i a s) :=
  (h.when (·.emit.consumed)).next

/-! ### Sys2Proof/Machine/Target.lean -/

theorem Keeps.presentAll {r p vc fs} (h : Keeps s₀ s) : Keeps s₀ (presentAll s r p vc fs) := h.foldl fun _ h => h.emit

theorem Keeps.presentIrq {b n} (h : Keeps s₀ s) : Keeps s₀ (presentIrq s b n) := h.presentAll

theorem Keeps.presentAck {b n st} (h : Keeps s₀ s) : Keeps s₀ (presentAck s b n st) := h.presentAll

/-! ### Sys2Proof/Machine/Request.lean -/

theorem Keeps.showTags {r} (h : Keeps s₀ s) : Keeps s₀ (showTags s r) := h.forEach fun _ h => h.setF.when (·.setF)

theorem Keeps.absorb {r} (h : Keeps s₀ s) : Keeps s₀ (absorb s r) := h.addSat

theorem Keeps.leave {q} (h : Keeps s₀ s) : Keeps s₀ (leave s q) := h.unless (·.presentAll)

theorem Keeps.sendFor {part i wr addr len key quiet data} (h : Keeps s₀ s) :
    Keeps s₀ (sendFor s part i wr addr len key quiet data) := by
  unfold Machine.sendFor
  extract_lets
  split
  exacts [h.set.branch (·.addSat) (·.showTags.leave)]

theorem Keeps.sendReq {i wr addr len key quiet data} (h : Keeps s₀ s) : Keeps s₀ (sendReq s i wr addr len key quiet data) :=
  h.sendFor

theorem Keeps.takeTag {q} (h : Keeps s₀ s) : Keeps s₀ (takeTag s q) := h.set.showTags.leave

theorem Keeps.showOutst {b} (h : Keeps s₀ s) : Keeps s₀ (showOutst s b) := h.setF

/-! ### Sys2Proof/Machine/Memory.lean -/

theorem Keeps.updReq {q f} (h : Keeps s₀ s) : Keeps s₀ (updReq s q f) := h.set

theorem Keeps.respondAt {r q status data} (h : Keeps s₀ s) : Keeps s₀ (respondAt s r q status data) :=
  h.branch (·.updReq) (·.set.unless (·.presentAll))

theorem Keeps.respond {q status data} (h : Keeps s₀ s) : Keeps s₀ (respond s q status data) := h.respondAt

theorem Keeps.loseResp {x} (h : Keeps s₀ s) : Keeps s₀ (loseResp s x) := h.set

theorem Keeps.freeTags {p} (h : Keeps s₀ s) : Keeps s₀ (freeTags s p) := h.unless fun h => h.set.foldl fun _ h => h.showTags

theorem Keeps.sweepIso (h : Keeps s₀ s) : Keeps s₀ (sweepIso s) := by
  refine h.freeTags.foldl fun _ h => .ite h.updReq ?_
  split
  exacts [h.absorb.respond, h]

theorem Keeps.strikeMem {b turn u} (h : Keeps s₀ s) : Keeps s₀ (strikeMem s b turn u) :=
  h.foldl fun _ h => .ite (h.takeFree.setMem fun _ w => Memory.wf_write w _ _) h.set

theorem Keeps.wordMend {key} (h : Keeps s₀ s) : Keeps s₀ (wordMend s key) := h.unless (·.set)

theorem Keeps.execTurnWriteback {b} (h : Keeps s₀ s) : Completes s₀ (execTurnWriteback b s) := by
  refine Keeps.next ?_
  split
  exacts [h, h.updSeq.wordMend]

theorem Keeps.execScratchpadWriteback {b} (h : Keeps s₀ s) : Completes s₀ (execScratchpadWriteback b s) := by
  refine Keeps.next ?_
  split
  exacts [h, h.updSeq.wordMend]

theorem Keeps.lineWrite {b line mask data} (h : Keeps s₀ s) : Keeps s₀ (lineWrite s b line mask data) :=
  h.foldl fun _ h => h.writeVal

theorem Keeps.portAWrite {b a} (h : Keeps s₀ s) : Keeps s₀ (portAWrite s b a) := by
  unfold Machine.portAWrite
  split
  exacts [h.lineWrite, h]

theorem Keeps.portBWrite {b line mask data a} (h : Keeps s₀ s) : Keeps s₀ (portBWrite s b line mask data a) := by
  unfold Machine.portBWrite
  extract_lets
  split
  exacts [h.portAWrite.lineWrite, h.portAWrite.lineWrite.addSat.setF.setB]

theorem Keeps.spareRow {row} (h : Keeps s₀ s) : Keeps s₀ (spareRow s row) := h.unless (·.set)

theorem Keeps.countLane {g p} (h : Keeps s₀ s) : Keeps s₀ (countLane s g p) :=
  h.set.unless (·.unless (·.branch (·.setF.setB.journal) (·.branch (·.setF.setB.journal) (·.setB))))

theorem Keeps.dramCorrect {a l scrub} (h : Keeps s₀ s) : Keeps s₀ (dramCorrect s a l scrub) :=
  ((h.addSat.setB.setRg.warnCorrected.forEach fun _ h => h.countLane).unless (·.set)).when (·.spareRow)

theorem Keeps.dramFail {a} (h : Keeps s₀ s) : Keeps s₀ (dramFail s a) := h.addSat.setB.setB.setRg.raiseCheck

theorem Keeps.dramDecode {a u scrub} (h : Keeps s₀ s) : Keeps s₀ (dramDecode s a u scrub).1 := by
  refine .branchFst h (·.dramFail) fun h => ?_
  cases u with
  | errors l => exact h.unless (·.dramCorrect)
  | miscorrected v l => exact (h.setMem fun _ w => Memory.wf_write w _ _).unless (·.dramCorrect)

theorem Keeps.copyDecodes {a l} (h : Keeps s₀ s) : Keeps s₀ (copyDecodes s a l).1 :=
  .foldlFst (p := (s, true)) h fun _ h => h.dramDecode

theorem Keeps.execDramZeroingDone {k} (h : Keeps s₀ s) : Completes s₀ (execDramZeroingDone k s) :=
  Keeps.next (h.unless fun h => h.setMem fun _ w => mapWf_drop (fun _ => 0) _ w)

theorem Keeps.execDramWriteback {g} (h : Keeps s₀ s) : Completes s₀ (execDramWriteback g s) := h.set.next

theorem Keeps.endPass {g} (h : Keeps s₀ s) : Keeps s₀ (endPass s g) := h.setF.set

theorem Keeps.execPatrolScrubRead {g u} (h : Keeps s₀ s) : Completes s₀ (execPatrolScrubRead g u s) :=
  (h.unless fun h => h.dramDecode.prod fun h => ((h.unless (·.set)).when (·.spareRow)).set.when (·.endPass)).next

theorem Keeps.execRowSpareCopyDone {c} (h : Keeps s₀ s) : Completes s₀ (execRowSpareCopyDone c s) := by
  refine Keeps.next ?_
  split
  exacts [h, h.copyDecodes.set.setF.journal.warnOp.when (·.setB.cicRise)]

/-! ### Sys2Proof/Machine/Keys.lean -/

theorem Keeps.markFrame {fr store} (h : Keeps s₀ s) : Keeps s₀ (markFrame s fr store) := h.unless (·.setKeyByte)

theorem Keeps.keyViolation {k store addr} (h : Keeps s₀ s) : Keeps s₀ (keyViolation s k store addr) :=
  h.addSat.setF.setF.setF

theorem Keeps.keyParityError {fr} (h : Keeps s₀ s) : Keeps s₀ (keyParityError s fr) := h.addSat.setF.setB.raiseCheck

theorem Keeps.putKeys {g o bs} (h : Keeps s₀ s) : Keeps s₀ (putKeys s g o bs) := h.forEach fun _ h => h.setKeyByte

theorem Keeps.keyStoreWrite {g o bs k} (h : Keeps s₀ s) : Keeps s₀ (keyStoreWrite s g o bs k).1 :=
  h.branchFst (·.putKeys) (·.keyViolation)

theorem Keeps.keyStoreRead {g o n k} (h : Keeps s₀ s) : Keeps s₀ (keyStoreRead s g o n k).1 := h.unlessFst (·.keyViolation)

theorem Keeps.execKeyByteWrite {g off data key} (h : Keeps s₀ s) : Completes s₀ (execKeyByteWrite g off data key s) :=
  h.keyStoreWrite.next

theorem Keeps.setRange {v} (h : Keeps s₀ s) : Keeps s₀ (setRange s v) := h.forEach fun _ h => h.setKeyByte

theorem Keeps.kuWrite {k v} (h : Keeps s₀ s) : Keeps s₀ (kuWrite s k v) :=
  h.unless (·.branch (·.keyViolation) (·.setRg.unless (·.setRange.setB.set)))

theorem Keeps.execKuRangeGo {key v} (h : Keeps s₀ s) : Completes s₀ (execKuRangeGo key v s) := h.kuWrite.next

theorem Keeps.execKuRangeDone (h : Keeps s₀ s) : Completes s₀ (execKuRangeDone s) := h.setB.set.next

theorem Keeps.execKeyReloadDone {r} (h : Keeps s₀ s) : Completes s₀ (execKeyReloadDone r s) := by
  refine Keeps.next (.ite h ?_)
  extract_lets
  split
  exacts [h.set.concealmentLost, h.set]

/-! ### Sys2Proof/Machine/Topology.lean -/

theorem Keeps.edgeTake {b d eo k} (h : Keeps s₀ s) : Keeps s₀ (edgeTake s b d eo k) := by
  unfold Machine.edgeTake
  split
  exacts [h, h.unless (·.set)]

theorem Keeps.sendFrames {l} (h : Keeps s₀ s) : Keeps s₀ (sendFrames s l) := h.foldl fun _ h => h.when (·.emit)

theorem Keeps.edgeSend {n o eo x} (h : Keeps s₀ s) : Keeps s₀ (edgeSend s n o eo x) := h.when (·.sendFrames)

theorem Keeps.netStep {n col x sent} (h : Keeps s₀ s) : Keeps s₀ (netStep s n col x sent).1 :=
  h.unlessFst fun h => .foldlFst (p := (s, sent)) h fun _ h => by split; exacts [h, h.sendFrames]

theorem Keeps.netTake {n col} (h : Keeps s₀ s) : Keeps s₀ (netTake s n col) := h.unless (·.set)

theorem Keeps.showEdges (h : Keeps s₀ s) : Keeps s₀ (showEdges s) := h.unless (·.set.sendFrames)

/-! ### Sys2Proof/Machine/ArrayBase.lean -/

theorem Keeps.cellsOfBlock {c x f} (h : Keeps s₀ s) : Keeps s₀ (cellsOfBlock s c x f) := h.mapListed

theorem Keeps.cellsOfGang {b x f} (h : Keeps s₀ s) : Keeps s₀ (cellsOfGang s b x f) := h.forEach fun _ h => h.cellsOfBlock

theorem Keeps.allOfGang {b x f} (h : Keeps s₀ s) : Keeps s₀ (allOfGang s b x f) := h.forEach fun _ h => h.mapCells

theorem Keeps.dropRepair {c lo hi} (h : Keeps s₀ s) : Keeps s₀ (dropRepair s c lo hi) := by
  unfold Machine.dropRepair
  split
  exacts [h.when (·.updSeq), h]

theorem Keeps.noteFlagsOf {c lo hi p} (h : Keeps s₀ s) : Keeps s₀ (noteFlagsOf s c lo hi p) :=
  h.dropRepair.unless (·.setDflag)

theorem Keeps.noteFlags {c lo hi} (h : Keeps s₀ s) : Keeps s₀ (noteFlags s c lo hi) := h.noteFlagsOf

theorem Keeps.noteDst {b d} (h : Keeps s₀ s) : Keeps s₀ (noteDst s b d) := h.forEach fun _ h => h.noteFlags

theorem Keeps.setRun {b v} (h : Keeps s₀ s) : Keeps s₀ (setRun s b v) := h.forEach fun _ h => h.setB

theorem Keeps.spoilProgress {b} (h : Keeps s₀ s) : Keeps s₀ (spoilProgress s b) := h.forEach fun _ h => h.spoilAll

theorem Keeps.settleArr {b op f} (h : Keeps s₀ s) : Keeps s₀ (settleArr s b op f) := h.when (·.spoilProgress)

theorem Keeps.keepFar {s' b} (h : Keeps s₀ s) : Keeps s₀ (keepFar s' s b) := h.set

theorem Keeps.dispatchAct {b x a} (h : Keeps s₀ s) : Keeps s₀ (dispatchAct s b x a) := by
  unfold Machine.dispatchAct
  split
  exacts [h.when (·.sendDisp), h]

theorem Keeps.dispatchAway {b x} (h : Keeps s₀ s) : Keeps s₀ (dispatchAway s b x) := h.dispatchAct

theorem Keeps.arrReads {b x} (h : Keeps s₀ s) : Keeps s₀ (arrReads s b x).1 :=
  h.unlessFst fun h => h.memCheck.foldlFst fun _ h => h.memCheck

theorem Keeps.setMicro {b m} (h : Keeps s₀ s) : Keeps s₀ (setMicro s b m) := by
  unfold Machine.setMicro
  extract_lets
  split
  exacts [(h.updSeq.forEach fun _ h => h.setF.setF).setRun, h.updSeq.setRun.forEach fun _ h => h.csFlush]

/-- An array instruction at its start or at its resumption. -/
theorem Keeps.issueArr {b w check body} (h : Keeps s₀ s) (k : ∀ {t} x, Keeps s₀ t → Keeps s₀ (body t x).1) :
    Keeps s₀ (issueArr s b w check body) := by
  unfold Machine.issueArr
  extract_lets op s1
  have h1 : Keeps s₀ s1 := h.resumeIdle
  clear_value s1
  split
  · refine .ite h1 ?_
    generalize e : Machine.arrReads _ _ _ = p
    have h2 : Keeps s₀ p.1 := e ▸ h1.arrReads
    obtain ⟨s2, ok⟩ := p
    refine .ite h2 ?_
    extract_lets s3 s4
    have h3 : Keeps s₀ s3 := .ite h2 h2.dispatchAct
    have h4 : Keeps s₀ s4 := h3.updSeq.setRun
    clear_value s4 s3
    generalize e : body s4 _ = q
    have h5 : Keeps s₀ q.1 := e ▸ k _ h4
    obtain ⟨s5, f⟩ := q
    dsimp only
    split
    · exact h5
    · exact h3
    · exact .ite (h5.settleArr.keepFar) (h5.settleArr.finish h4).takeExit.endStep
  · refine h1.issue fun h2 => ?_
    extract_lets x
    clear_value x
    split
    · exact h2.storeFault
    · split
      · exact h2
      · refine .iteFst h2.dispatchAway.setMicro.pair ?_
        generalize e : Machine.arrReads _ _ _ = p
        have h3 : Keeps s₀ p.1 := e ▸ h2.arrReads
        obtain ⟨s3, ok⟩ := p
        exact .iteFst h3 (Keeps.prodFst (k x h3.dispatchAway) fun h => h.settleArr.pair)

theorem Keeps.parkWith {b x} (h : Keeps s₀ s) : Keeps s₀ (parkWith s b x).1 := h.updSeq.setRun

theorem Keeps.setSlot {b k v} (h : Keeps s₀ s) : Keeps s₀ (setSlot s b k v) := h.updSeq

theorem Keeps.requestOr {b k scope op or cnt} (h : Keeps s₀ s) : Keeps s₀ (requestOr s b k scope op or cnt) := h.setSlot

theorem Keeps.sendOrc {p k m} (h : Keeps s₀ s) : Keeps s₀ (sendOrc s p k m) := h.when (·.emit)

theorem Keeps.combineSlot {b k} (h : Keeps s₀ s) : Keeps s₀ (combineSlot s b k) :=
  h.unless fun h => (h.forEach fun _ h => h.setSlot).unless fun h => (h.when fun h => h.foldl fun _ h => h.sendOrc).set

theorem Keeps.sendPartial {b k} (h : Keeps s₀ s) : Keeps s₀ (sendPartial s b k) := by
  refine .ite h ?_
  extract_lets
  split
  exacts [h.set.sendOrc, h.set]

theorem Keeps.gangRequest {b k scope op or cnt} (h : Keeps s₀ s) : Keeps s₀ (gangRequest s b k scope op or cnt) :=
  (h.forEach fun _ h => h.requestOr).sendPartial

theorem Keeps.gangCombine {b k} (h : Keeps s₀ s) : Keeps s₀ (gangCombine s b k) := h.forEach fun _ h => h.combineSlot

/-! ### Sys2Proof/Machine/Array.lean -/

theorem Keeps.writeActive {b x f} (h : Keeps s₀ s) : Keeps s₀ (writeActive s b x f).1 := h.cellsOfGang.noteDst

theorem Keeps.aactOp {b x} (h : Keeps s₀ s) : Keeps s₀ (aactOp s b x).1 :=
  h.branchFst (fun h => h.allOfGang.forEach fun _ h => h.noteFlags) fun h => h.branchFst (fun h => h.forEach fun _ h =>
    h.mapCells) (·.cellsOfGang)

theorem Keeps.abrdOp {b x} (h : Keeps s₀ s) : Keeps s₀ (abrdOp s b x).1 := h.forEach fun _ h => h.updSeq

theorem Keeps.abcpOp {b x} (h : Keeps s₀ s) : Keeps s₀ (abcpOp s b x).1 :=
  (h.forEach fun _ h => h.mapActive).netStep.branchFst (·.parkWith) (·.netTake.set.cellsOfGang.noteDst)

theorem Keeps.shiftSend {b x lo hi} (h : Keeps s₀ s) : Keeps s₀ (shiftSend s b x lo hi) :=
  h.unless fun h => h.foldl fun _ h => h.foldl fun _ h => h.edgeSend

theorem Keeps.ashfOp {b x} (h : Keeps s₀ s) : Keeps s₀ (ashfOp s b x).1 :=
  h.shiftSend.branchFst (·.parkWith) (·.edgeTake.set.allOfGang.noteDst)

theorem Keeps.arithOp {b x f} (h : Keeps s₀ s) : Keeps s₀ (arithOp s b x f).1 := h.cellsOfGang.noteDst

theorem Keeps.adivOp {b x} (h : Keeps s₀ s) : Keeps s₀ (adivOp s b x).1 :=
  (h.forEach fun _ h => h.cellsOfBlock).forEach fun _ h => h.noteFlagsOf.when (·.dropRepair.setDflag)

theorem Keeps.gangArith {b x f} (h : Keeps s₀ s) : Keeps s₀ (gangArith s b x f).1 := h.cellsOfGang.noteDst

theorem Keeps.gangCmp {b x} (h : Keeps s₀ s) : Keeps s₀ (gangCmp s b x).1 := h.cellsOfGang

theorem Keeps.searchDone {b x word found enum} (h : Keeps s₀ s) : Keeps s₀ (searchDone s b x word found enum) := by
  refine ((h.when (·.cellsOfGang)).when (·.forEach fun _ h => ?_)).wr
  split
  exacts [h.when (·.set), h]

theorem Keeps.askRange {b scope lo n} (h : Keeps s₀ s) : Keeps s₀ (askRange s b scope lo n) :=
  (h.forEach fun _ h => h.setSlot).sendPartial.gangCombine

theorem Keeps.searchEnd {b scope x enum} (h : Keeps s₀ s) : Keeps s₀ (searchEnd s b scope x enum) :=
  (h.forEach fun _ h => h.setSlot).searchDone

theorem Keeps.searchGo {b scope enum n x} (h : Keeps s₀ s) : Keeps s₀ (searchGo b scope enum n s x).1 := by
  induction n generalizing s x with
  | zero => exact h.parkWith
  | succ n ih =>
    exact h.branchFst (·.parkWith) fun h => h.branchFst (·.searchEnd) fun h => ih (h.branch (·.askRange) (·.askRange))

theorem Keeps.affsOp {b x op} (h : Keeps s₀ s) : Keeps s₀ (affsOp s b x op).1 :=
  h.unlessFst fun h => h.branchFst (fun h => (h.forEach fun _ h => h.setSlot).searchDone) (·.searchGo)

theorem Keeps.tagFrom {b x} (h : Keeps s₀ s) : Keeps s₀ (tagFrom s b x) := h.when (·.cellsOfGang)

theorem Keeps.aorOp {b x cnt} (h : Keeps s₀ s) : Keeps s₀ (aorOp s b x cnt).1 := h.unlessFst (·.tagFrom.gangRequest)

theorem Keeps.sumDone {s0 b scope x} (h : Keeps s₀ s) : Keeps s₀ (sumDone s0 b scope x s).1 :=
  (h.forEach fun _ h => h.writeVal.forEach fun _ h => h.setSlot).cellsOfGang

theorem Keeps.sumGo {b scope n x} (h : Keeps s₀ s) : Keeps s₀ (sumGo b scope n s x).1 := by
  induction n generalizing s x with
  | zero => exact h.parkWith
  | succ n ih =>
    exact h.branchFst (·.parkWith) fun h => h.branchFst (fun h => (h.forEach fun _ h => h.writeVal).cellsOfGang)
      fun h => ih h.cellsOfGang.gangRequest.gangCombine

theorem Keeps.asumOp {b x} (h : Keeps s₀ s) : Keeps s₀ (asumOp s b x).1 :=
  h.unlessFst fun h => h.branchFst (·.sumGo) (·.sumDone)

theorem Keeps.ardsOp {b x} (h : Keeps s₀ s) : Keeps s₀ (ardsOp s b x).1 := h.unlessFst (·.wr)

theorem Keeps.abarOp {b x} (h : Keeps s₀ s) : Keeps s₀ (abarOp s b x).1 :=
  h.branchFst (·.branchFst id id) (·.unlessFst (·.gangRequest.gangCombine.whenFst (·.parkWith)))

theorem Keeps.atldOp {b x} (h : Keeps s₀ s) : Keeps s₀ (atldOp s b x).1 := h.writeActive

/-- What ATST writes of one cell keeps the form of the memory. -/
theorem Memory.wf_turnPut {m : List Host.Cell} (h : Memory.wf m = true) (c i : Nat) (y : Cell) (x : ACtx) :
    Memory.wf (turnPut m c i y x) = true := by
  unfold turnPut
  extract_lets
  split <;> exact wf_foldl (fun _ _ w => wf_setByte w _ _) _ h

theorem Keeps.atstOp {b x} (h : Keeps s₀ s) : Keeps s₀ (atstOp s b x).1 :=
  .cellsOfGang (h.forEach fun _ h => h.unless fun h =>
    (h.breakResv.setMem fun _ w => Memory.wf_foldl (fun _ _ w => Memory.wf_turnPut w _ _ _ _) _ w).when (·.cleanWords))

theorem Keeps.alutFlags {b x lo hi} (h : Keeps s₀ s) : Keeps s₀ (alutFlags s b x lo hi) :=
  h.forEach fun _ h => h.noteFlagsOf

theorem Keeps.alutOp {b x} (h : Keeps s₀ s) : Keeps s₀ (alutOp s b x).1 := h.cellsOfGang.alutFlags

theorem Keeps.execAlog {b w} (h : Keeps s₀ s) : Completes s₀ (execAlog b w s) := (h.issueArr fun _ h => h.writeActive).next

theorem Keeps.execAmov {b w} (h : Keeps s₀ s) : Completes s₀ (execAmov b w s) := (h.issueArr fun _ h => h.writeActive).next

theorem Keeps.execAspl {b w} (h : Keeps s₀ s) : Completes s₀ (execAspl b w s) := (h.issueArr fun _ h => h.writeActive).next

theorem Keeps.execAact {b w} (h : Keeps s₀ s) : Completes s₀ (execAact b w s) := (h.issueArr fun _ h => h.aactOp).next

theorem Keeps.execAtag {b w} (h : Keeps s₀ s) : Completes s₀ (execAtag b w s) := (h.issueArr fun _ h => h.cellsOfGang).next

theorem Keeps.execAbrd {b w} (h : Keeps s₀ s) : Completes s₀ (execAbrd b w s) := (h.issueArr fun _ h => h.abrdOp).next

theorem Keeps.execAbcp {b w} (h : Keeps s₀ s) : Completes s₀ (execAbcp b w s) := (h.issueArr fun _ h => h.abcpOp).next

theorem Keeps.execAshf {b w} (h : Keeps s₀ s) : Completes s₀ (execAshf b w s) := (h.issueArr fun _ h => h.ashfOp).next

theorem Keeps.execAadd {b w} (h : Keeps s₀ s) : Completes s₀ (execAadd b w s) := (h.issueArr fun _ h => h.arithOp).next

theorem Keeps.execAsub {b w} (h : Keeps s₀ s) : Completes s₀ (execAsub b w s) := (h.issueArr fun _ h => h.arithOp).next

theorem Keeps.execAneg {b w} (h : Keeps s₀ s) : Completes s₀ (execAneg b w s) := (h.issueArr fun _ h => h.arithOp).next

theorem Keeps.execAmul {b w} (h : Keeps s₀ s) : Completes s₀ (execAmul b w s) := (h.issueArr fun _ h => h.arithOp).next

theorem Keeps.execAdiv {b w} (h : Keeps s₀ s) : Completes s₀ (execAdiv b w s) := (h.issueArr fun _ h => h.adivOp).next

theorem Keeps.execAcmp {b w} (h : Keeps s₀ s) : Completes s₀ (execAcmp b w s) := (h.issueArr fun _ h => h.cellsOfGang).next

theorem Keeps.execAaddg {b w} (h : Keeps s₀ s) : Completes s₀ (execAaddg b w s) := (h.issueArr fun _ h => h.gangArith).next

theorem Keeps.execAsubg {b w} (h : Keeps s₀ s) : Completes s₀ (execAsubg b w s) := (h.issueArr fun _ h => h.gangArith).next

theorem Keeps.execAcmpg {b w} (h : Keeps s₀ s) : Completes s₀ (execAcmpg b w s) := (h.issueArr fun _ h => h.gangCmp).next

theorem Keeps.execAffs {b w} (h : Keeps s₀ s) : Completes s₀ (execAffs b w s) := (h.issueArr fun _ h => h.affsOp).next

theorem Keeps.execAenum {b w} (h : Keeps s₀ s) : Completes s₀ (execAenum b w s) := (h.issueArr fun _ h => h.affsOp).next

theorem Keeps.execAor {b w} (h : Keeps s₀ s) : Completes s₀ (execAor b w s) := (h.issueArr fun _ h => h.aorOp).next

theorem Keeps.execAcnt {b w} (h : Keeps s₀ s) : Completes s₀ (execAcnt b w s) := (h.issueArr fun _ h => h.aorOp).next

theorem Keeps.execAsum {b w} (h : Keeps s₀ s) : Completes s₀ (execAsum b w s) := (h.issueArr fun _ h => h.asumOp).next

theorem Keeps.execArds {b w} (h : Keeps s₀ s) : Completes s₀ (execArds b w s) := (h.issueArr fun _ h => h.ardsOp).next

theorem Keeps.execAbar {b w} (h : Keeps s₀ s) : Completes s₀ (execAbar b w s) := (h.issueArr fun _ h => h.abarOp).next

theorem Keeps.execAtld {b w} (h : Keeps s₀ s) : Completes s₀ (execAtld b w s) := (h.issueArr fun _ h => h.atldOp).next

theorem Keeps.execAtst {b w} (h : Keeps s₀ s) : Completes s₀ (execAtst b w s) := (h.issueArr fun _ h => h.atstOp).next

theorem Keeps.execAlut {b w} (h : Keeps s₀ s) : Completes s₀ (execAlut b w s) := (h.issueArr fun _ h => h.alutOp).next

theorem Keeps.execOrcCombineResult {b slot faults} (h : Keeps s₀ s) : Completes s₀ (execOrcCombineResult b slot faults s) :=
  (h.unless (·.branch (·.gangCombine) (·.addSat.branch (·.blockCheck) (·.gangCombine)))).next

/-! ### Sys2Proof/Machine/Dec.lean -/

theorem Keeps.decEnd {s0 b x fl} (h : Keeps s₀ s) : Keeps s₀ (decEnd s0 s b x fl) :=
  h.forEach fun _ h => (h.dropRepair.foldl fun _ h => h.when (·.dropRepair)).spoilPlanes.setDflag

theorem Keeps.decAfter {s0 b x fl} (h : Keeps s₀ s) : Keeps s₀ (decAfter s0 s b x fl) :=
  (h.forEach fun _ h => h.dropRepair).decEnd

theorem Keeps.decCells {b x f} (h : Keeps s₀ s) : Keeps s₀ (decCells s b x f).1 := h.cellsOfGang.decAfter

/-! ### Sys2Proof/Machine/Packed.lean -/

theorem Keeps.execApadd {b w} (h : Keeps s₀ s) : Completes s₀ (execApadd b w s) := (h.issueArr fun _ h => h.decCells).next

theorem Keeps.execApsub {b w} (h : Keeps s₀ s) : Completes s₀ (execApsub b w s) := (h.issueArr fun _ h => h.decCells).next

theorem Keeps.execApmul {b w} (h : Keeps s₀ s) : Completes s₀ (execApmul b w s) := (h.issueArr fun _ h => h.decCells).next

theorem Keeps.execApdiv {b w} (h : Keeps s₀ s) : Completes s₀ (execApdiv b w s) := (h.issueArr fun _ h => h.decCells).next

theorem Keeps.execApcmp {b w} (h : Keeps s₀ s) : Completes s₀ (execApcmp b w s) := (h.issueArr fun _ h => h.decCells).next

theorem Keeps.execApsrp {b w} (h : Keeps s₀ s) : Completes s₀ (execApsrp b w s) := (h.issueArr fun _ h => h.decCells).next

theorem Keeps.execApset {b w} (h : Keeps s₀ s) : Completes s₀ (execApset b w s) := (h.issueArr fun _ h => h.decCells).next

theorem Keeps.execApcvb {b w} (h : Keeps s₀ s) : Completes s₀ (execApcvb b w s) := (h.issueArr fun _ h => h.decCells).next

theorem Keeps.execApcvd {b w} (h : Keeps s₀ s) : Completes s₀ (execApcvd b w s) := (h.issueArr fun _ h => h.decCells).next

theorem Keeps.execAppack {b w} (h : Keeps s₀ s) : Completes s₀ (execAppack b w s) := (h.issueArr fun _ h => h.decCells).next

theorem Keeps.execApunpk {b w} (h : Keeps s₀ s) : Completes s₀ (execApunpk b w s) := (h.issueArr fun _ h => h.decCells).next

/-! ### Sys2Proof/Machine/Float.lean -/

theorem Keeps.dfCells {b x f} (h : Keeps s₀ s) : Keeps s₀ (dfCells s b x f).1 := h.decCells

theorem Keeps.execAdfadd {b w} (h : Keeps s₀ s) : Completes s₀ (execAdfadd b w s) := (h.issueArr fun _ h => h.dfCells).next

theorem Keeps.execAdfsub {b w} (h : Keeps s₀ s) : Completes s₀ (execAdfsub b w s) := (h.issueArr fun _ h => h.dfCells).next

theorem Keeps.execAdfmul {b w} (h : Keeps s₀ s) : Completes s₀ (execAdfmul b w s) := (h.issueArr fun _ h => h.dfCells).next

theorem Keeps.execAdfdiv {b w} (h : Keeps s₀ s) : Completes s₀ (execAdfdiv b w s) := (h.issueArr fun _ h => h.dfCells).next

theorem Keeps.execAdffma {b w} (h : Keeps s₀ s) : Completes s₀ (execAdffma b w s) := (h.issueArr fun _ h => h.dfCells).next

theorem Keeps.execAdfqua {b w} (h : Keeps s₀ s) : Completes s₀ (execAdfqua b w s) := (h.issueArr fun _ h => h.dfCells).next

theorem Keeps.execAdfcmp {b w} (h : Keeps s₀ s) : Completes s₀ (execAdfcmp b w s) := (h.issueArr fun _ h => h.decCells).next

theorem Keeps.execAdfcvt {b w} (h : Keeps s₀ s) : Completes s₀ (execAdfcvt b w s) := (h.issueArr fun _ h => h.decCells).next

/-! ### Sys2Proof/Machine/Long.lean -/

theorem Keeps.longOp {b x k f} (h : Keeps s₀ s) : Keeps s₀ (longOp s b x k f).1 :=
  (h.forEach fun _ h => h.mapCells).decAfter

theorem Keeps.ldArith {b x g} (h : Keeps s₀ s) : Keeps s₀ (ldArith s b x g).1 := by
  unfold Machine.ldArith
  exact h.longOp

theorem Keeps.execAldadd {b w} (h : Keeps s₀ s) : Completes s₀ (execAldadd b w s) := (h.issueArr fun _ h => h.ldArith).next

theorem Keeps.execAldsub {b w} (h : Keeps s₀ s) : Completes s₀ (execAldsub b w s) := (h.issueArr fun _ h => h.ldArith).next

theorem Keeps.execAldmul {b w} (h : Keeps s₀ s) : Completes s₀ (execAldmul b w s) := (h.issueArr fun _ h => h.ldArith).next

theorem Keeps.execAlddiv {b w} (h : Keeps s₀ s) : Completes s₀ (execAlddiv b w s) := (h.issueArr fun _ h => h.ldArith).next

theorem Keeps.ldCvt {b x} (h : Keeps s₀ s) : Keeps s₀ (ldCvt s b x).1 := by
  unfold Machine.ldCvt
  extract_lets
  split
  exacts [h.decCells, h.decCells, h.longOp, h.decCells]

theorem Keeps.execAldcvt {b w} (h : Keeps s₀ s) : Completes s₀ (execAldcvt b w s) := (h.issueArr fun _ h => h.ldCvt).next

theorem Keeps.ldSplit {b x} (h : Keeps s₀ s) : Keeps s₀ (ldSplit s b x).1 :=
  (h.forEach fun _ h => h.foldl fun _ h => h.writeDigits).cellsOfGang.decEnd

theorem Keeps.ldNorm {b x} (h : Keeps s₀ s) : Keeps s₀ (ldNorm s b x).1 := by
  unfold Machine.ldNorm
  exact h.longOp

theorem Keeps.execAldspl {b w} (h : Keeps s₀ s) : Completes s₀ (execAldspl b w s) := (h.issueArr fun _ h => h.ldSplit).next

theorem Keeps.execAldnrm {b w} (h : Keeps s₀ s) : Completes s₀ (execAldnrm b w s) := (h.issueArr fun _ h => h.ldNorm).next

/-! ### Sys2Proof/Machine/Scalar.lean -/

theorem Keeps.regOp {b w uZero ok f} (h : Keeps s₀ s) : Keeps s₀ (regOp s b w uZero ok f).1 :=
  h.branchFst (·.illegal) (·.wr)

theorem Keeps.issueReg {b w uZero ok f} (h : Keeps s₀ s) : Keeps s₀ (issueReg s b w uZero ok f) := h.issue (·.regOp)

theorem Keeps.issueImm {b w ok f} (h : Keeps s₀ s) : Keeps s₀ (issueImm s b w ok f) :=
  h.issue (·.branchFst (·.illegal) (·.wr))

theorem Keeps.addNcy {b d x y} (h : Keeps s₀ s) : Keeps s₀ (addNcy s b d x y) := h.setF.wr

theorem Keeps.execAdd {b w} (h : Keeps s₀ s) : Completes s₀ (execAdd b w s) :=
  (h.issue (·.branchFst (·.illegal) (·.addNcy))).next

theorem Keeps.execSub {b w} (h : Keeps s₀ s) : Completes s₀ (execSub b w s) := h.issueReg.next

theorem Keeps.execAnd {b w} (h : Keeps s₀ s) : Completes s₀ (execAnd b w s) := h.issueReg.next

theorem Keeps.execOr {b w} (h : Keeps s₀ s) : Completes s₀ (execOr b w s) := h.issueReg.next

theorem Keeps.execXor {b w} (h : Keeps s₀ s) : Completes s₀ (execXor b w s) := h.issueReg.next

theorem Keeps.execAndn {b w} (h : Keeps s₀ s) : Completes s₀ (execAndn b w s) := h.issueReg.next

theorem Keeps.execShl {b w} (h : Keeps s₀ s) : Completes s₀ (execShl b w s) := h.issueReg.next

theorem Keeps.execShr {b w} (h : Keeps s₀ s) : Completes s₀ (execShr b w s) := h.issueReg.next

theorem Keeps.execSar {b w} (h : Keeps s₀ s) : Completes s₀ (execSar b w s) := h.issueReg.next

theorem Keeps.execRol {b w} (h : Keeps s₀ s) : Completes s₀ (execRol b w s) := h.issueReg.next

theorem Keeps.execMul {b w} (h : Keeps s₀ s) : Completes s₀ (execMul b w s) := h.issueReg.next

theorem Keeps.execMulh {b w} (h : Keeps s₀ s) : Completes s₀ (execMulh b w s) := h.issueReg.next

theorem Keeps.execDiv {b w} (h : Keeps s₀ s) : Completes s₀ (execDiv b w s) := h.issueReg.next

theorem Keeps.execRem {b w} (h : Keeps s₀ s) : Completes s₀ (execRem b w s) := h.issueReg.next

theorem Keeps.execCmp {b w} (h : Keeps s₀ s) : Completes s₀ (execCmp b w s) := h.issueReg.next

theorem Keeps.execMin {b w} (h : Keeps s₀ s) : Completes s₀ (execMin b w s) := h.issueReg.next

theorem Keeps.execMax {b w} (h : Keeps s₀ s) : Completes s₀ (execMax b w s) := h.issueReg.next

theorem Keeps.execClz {b w} (h : Keeps s₀ s) : Completes s₀ (execClz b w s) := h.issueReg.next

theorem Keeps.execPopc {b w} (h : Keeps s₀ s) : Completes s₀ (execPopc b w s) := h.issueReg.next

theorem Keeps.execSel {b w} (h : Keeps s₀ s) : Completes s₀ (execSel b w s) := h.issueReg.next

theorem Keeps.execAddi {b w} (h : Keeps s₀ s) : Completes s₀ (execAddi b w s) := (h.issue (·.addNcy)).next

theorem Keeps.execAndi {b w} (h : Keeps s₀ s) : Completes s₀ (execAndi b w s) := h.issueImm.next

theorem Keeps.execOri {b w} (h : Keeps s₀ s) : Completes s₀ (execOri b w s) := h.issueImm.next

theorem Keeps.execXori {b w} (h : Keeps s₀ s) : Completes s₀ (execXori b w s) := h.issueImm.next

theorem Keeps.execShli {b w} (h : Keeps s₀ s) : Completes s₀ (execShli b w s) := h.issueImm.next

theorem Keeps.execShri {b w} (h : Keeps s₀ s) : Completes s₀ (execShri b w s) := h.issueImm.next

theorem Keeps.execSari {b w} (h : Keeps s₀ s) : Completes s₀ (execSari b w s) := h.issueImm.next

theorem Keeps.execCmpi {b w} (h : Keeps s₀ s) : Completes s₀ (execCmpi b w s) := h.issueImm.next

theorem Keeps.execLiz {b w} (h : Keeps s₀ s) : Completes s₀ (execLiz b w s) := (h.issue (·.wr)).next

theorem Keeps.execLik {b w} (h : Keeps s₀ s) : Completes s₀ (execLik b w s) := (h.issue (·.wr)).next

theorem Keeps.execAdr {b w} (h : Keeps s₀ s) : Completes s₀ (execAdr b w s) := (h.issue (·.wr)).next

/-! ### Sys2Proof/Machine/ScalarDec.lean -/

theorem Keeps.putDec {b w r} (h : Keeps s₀ s) : Keeps s₀ (putDec s b w r).1 := by
  unfold Machine.putDec
  extract_lets
  split
  exacts [h.setSflag.wr, h.setSflag]

theorem Keeps.pkRegTwo {b w f} (h : Keeps s₀ s) : Keeps s₀ (pkRegTwo s b w f).1 := h.putDec

theorem Keeps.issueDec {b w ok body} (h : Keeps s₀ s) (k : ∀ {t}, Keeps s₀ t → Keeps s₀ (body t).1) :
    Keeps s₀ (issueDec s b w ok body) :=
  h.issue (·.branchFst (fun h => k h) (·.illegal))

theorem Keeps.execDadj {b w} (h : Keeps s₀ s) : Completes s₀ (execDadj b w s) := (h.issueDec (·.wr)).next

theorem Keeps.execPadd {b w} (h : Keeps s₀ s) : Completes s₀ (execPadd b w s) := (h.issueDec (·.pkRegTwo)).next

theorem Keeps.execPsub {b w} (h : Keeps s₀ s) : Completes s₀ (execPsub b w s) := (h.issueDec (·.pkRegTwo)).next

theorem Keeps.execPcmp {b w} (h : Keeps s₀ s) : Completes s₀ (execPcmp b w s) := (h.issueDec (·.pkRegTwo)).next

theorem Keeps.execPmulD {b w} (h : Keeps s₀ s) : Completes s₀ (execPmulD b w s) := (h.issueDec (·.putDec)).next

theorem Keeps.execPshlD {b w} (h : Keeps s₀ s) : Completes s₀ (execPshlD b w s) := (h.issueDec (·.wr)).next

theorem Keeps.execPcvt {b w} (h : Keeps s₀ s) : Completes s₀ (execPcvt b w s) :=
  (h.issueDec (·.branchFst (·.putDec) (·.putDec))).next

theorem Keeps.putDecReg {b wide r v} (h : Keeps s₀ s) : Keeps s₀ (putDecReg s b wide r v) := h.branch (·.wr.wr) (·.wr)

theorem Keeps.decScalar {b w f} (h : Keeps s₀ s) : Keeps s₀ (decScalar s b w f) := by
  unfold Machine.decScalar
  refine h.issue fun h => .iteFst h.illegal ?_
  split
  exacts [h.setSflag.putDecReg]

theorem Keeps.execDadd {b w} (h : Keeps s₀ s) : Completes s₀ (execDadd b w s) := h.decScalar.next

theorem Keeps.execDsub {b w} (h : Keeps s₀ s) : Completes s₀ (execDsub b w s) := h.decScalar.next

theorem Keeps.execDmul {b w} (h : Keeps s₀ s) : Completes s₀ (execDmul b w s) := h.decScalar.next

theorem Keeps.execDdiv {b w} (h : Keeps s₀ s) : Completes s₀ (execDdiv b w s) := h.decScalar.next

theorem Keeps.execDfma {b w} (h : Keeps s₀ s) : Completes s₀ (execDfma b w s) := h.decScalar.next

theorem Keeps.execDqua {b w} (h : Keeps s₀ s) : Completes s₀ (execDqua b w s) := h.decScalar.next

theorem Keeps.execDcmp {b w} (h : Keeps s₀ s) : Completes s₀ (execDcmp b w s) := by
  refine (h.issue fun h => .iteFst h.illegal ?_).next
  split
  exacts [h.setSflag.wr]

theorem Keeps.execDcvt {b w} (h : Keeps s₀ s) : Completes s₀ (execDcvt b w s) := by
  refine (h.issue fun h => .iteFst h.illegal ?_).next
  split
  · extract_lets
    split
    exacts [h.setSflag.putDecReg, h.setSflag]

/-! ### Sys2Proof/Machine/Records.lean -/

theorem Keeps.aeditOp {b x} (h : Keeps s₀ s) : Keeps s₀ (aeditOp s b x).1 := by
  unfold Machine.aeditOp
  split
  exacts [h.cellsOfGang.forEach fun _ h => (h.noteFlags.when (·.dropRepair)).when (·.dropRepair.setDflag)]

theorem Keeps.execAmvs {b w} (h : Keeps s₀ s) : Completes s₀ (execAmvs b w s) := (h.issueArr fun _ h => h.writeActive).next

theorem Keeps.execAtrn {b w} (h : Keeps s₀ s) : Completes s₀ (execAtrn b w s) := (h.issueArr fun _ h => h.writeActive).next

theorem Keeps.execAcmps {b w} (h : Keeps s₀ s) : Completes s₀ (execAcmps b w s) :=
  (h.issueArr fun _ h => h.cellsOfGang.when fun h => h.forEach fun _ h => h.dropRepair).next

theorem Keeps.execAedit {b w} (h : Keeps s₀ s) : Completes s₀ (execAedit b w s) := (h.issueArr fun _ h => h.aeditOp).next

theorem Keeps.suspend {b r op step cause} (h : Keeps s₀ s) : Keeps s₀ (suspend s b r op step cause) :=
  h.forEach fun _ h => h.saveATC.dropRepair.setF.setF.setF.setB.setB.updSeq

theorem Keeps.yieldMarks {b x step} (h : Keeps s₀ s) : Keeps s₀ (yieldMarks s b x step) := by
  unfold Machine.yieldMarks
  extract_lets
  split
  · exact h.alutFlags
  · exact h.noteDst
  · exact h.noteDst
  · exact h.noteDst
  · exact h.unless fun h => h.forEach fun _ h => h.forEach fun _ h => h.setSlot
  · exact h

theorem Keeps.yieldAs {b x step cause} (h : Keeps s₀ s) : Keeps s₀ (yieldAs s b x step cause) :=
  ((h.dispatchAct.when fun h => h.forEach fun _ h => h.spoilAll).forEach fun _ h => h.mapListed).yieldMarks.updSeq.suspend

theorem Keeps.yieldArr {b x step} (h : Keeps s₀ s) : Keeps s₀ (yieldArr s b x step) := h.unless (·.yieldAs)

theorem Keeps.yieldMicro {b m cause} (h : Keeps s₀ s) : Keeps s₀ (yieldMicro s b m cause) := by
  refine .suspend (.setMicro ?_)
  split
  exacts [h.sendAct, h]

theorem Keeps.execSafePointYield {b w step} (h : Keeps s₀ s) : Completes s₀ (execSafePointYield b w step s) := by
  refine Keeps.next (.ite h ?_)
  split
  · exact h.unless (·.branch (·.updSeq) (·.yieldMicro))
  · refine .ite h ?_
    split
    exacts [h.when (·.yieldArr), h.unless (·.yieldArr)]

theorem Keeps.freeDigits {a n} (h : Keeps s₀ s) : Keeps s₀ (freeDigits s a n) := h.set.writeDigits

theorem Keeps.spoilDest {c r} (h : Keeps s₀ s) : Keeps s₀ (spoilDest s c r) := by
  refine .ite (h.when (·.spoilPlanes)) ?_
  split
  · exact h
  · exact h
  · exact h.when (·.spoilPlanes)
  · exact h.when (·.spoilPlanes)
  · exact h.freeDigits
  · exact h.freeDigits.when (·.spoilPlanes)
  · exact h.spoilPlanes.when (·.spoilPlanes)

theorem Keeps.abandonBlock {c} (h : Keeps s₀ s) : Keeps s₀ (abandonBlock s c) := by
  unfold Machine.abandonBlock
  split
  exacts [h.spoilDest.abandonOp.spoilAll, h.abandonOp]

theorem Keeps.abandonHere {b} (h : Keeps s₀ s) : Keeps s₀ (abandonHere s b) :=
  h.unless fun h => h.forEach fun _ h => h.abandonBlock

theorem Keeps.abandonAll {b} (h : Keeps s₀ s) : Keeps s₀ (abandonAll s b) := by
  refine .ite h ?_
  split
  exacts [h.branch (·.forwardReq) (·.abandonHere.sendAct), h.abandonHere]

theorem Keeps.execAbandon {b} (h : Keeps s₀ s) : Completes s₀ (execAbandon b s) := h.abandonAll.next

/-! ### Sys2Proof/Machine/Dma.lean -/

theorem Keeps.setDma {b ch r} (h : Keeps s₀ s) : Keeps s₀ (setDma s b ch r) := by
  unfold Machine.setDma
  extract_lets
  split <;> exact h.setB.set

theorem Keeps.dmaEnableOp {b ch} (h : Keeps s₀ s) : Keeps s₀ (dmaEnableOp s b ch) := h.unless (·.branch (·.setB) (·.setB))

theorem Keeps.execDmaEnable {b ch} (h : Keeps s₀ s) : Completes s₀ (execDmaEnable b ch s) := h.dmaEnableOp.next

theorem Keeps.dmaTailOp {b ch tail} (h : Keeps s₀ s) : Keeps s₀ (dmaTailOp s b ch tail) := h.setF

theorem Keeps.execDmaTailWrite {b ch tail} (h : Keeps s₀ s) : Completes s₀ (execDmaTailWrite b ch tail s) :=
  h.dmaTailOp.next

theorem Keeps.dmaSend {b ch r data} (h : Keeps s₀ s) : Keeps s₀ (dmaSend s b ch r data) :=
  h.branch (fun h => h.branch (·.setDma) fun h => h.branch (·.hostReadAs.setDma) fun h => h.branch (·.earlyBoundary) fun h =>
    (h.hold.when (·.earlyBoundary)).setDma) fun h => (h.branch (·.sendReq) (·.sendReq)).setDma

theorem Keeps.dmaIssue {b ch} (h : Keeps s₀ s) : Keeps s₀ (dmaIssue s b ch) := by
  unfold Machine.dmaIssue
  split
  exacts [h, h.unless (·.dmaSend)]

theorem Keeps.dmaMove {b ch wr} (h : Keeps s₀ s) (k : ∀ {t} o ds, Keeps s₀ t → Keeps s₀ (wr t o ds)) :
    Keeps s₀ (dmaMove s b ch wr) := by
  unfold Machine.dmaMove
  split
  · exact h
  · split
    · exact k _ _ h.setDma
    · exact h.unless fun h => h.branch (fun h => k _ _ h.setDma) fun h => h.memCheck.prod (·.branch (·.setDma) (·.dmaSend))

theorem Keeps.dmaTake {b ch} (h : Keeps s₀ s) : Keeps s₀ (dmaTake s b ch) := by
  unfold Machine.dmaTake
  exact h.memCheck.prod (·.setDma)

theorem Keeps.dmaFinish {b ch r} (h : Keeps s₀ s) : Keeps s₀ (dmaFinish s b ch r) :=
  h.writeVal.setDma.branch (·.setF.when (·.bicSet.forwardIrqs)) (·.setB.setB.setRg.setRg.bicRise)

theorem Keeps.descServe {b ch} (h : Keeps s₀ s) : Keeps s₀ (descServe s b ch) := by
  unfold Machine.descServe
  split
  exacts [h.dmaFinish, h.dmaTake.iter fun _ h => h.dmaIssue]

theorem Keeps.spPass {b k} (h : Keeps s₀ s) : Keeps s₀ (spPass s b k) := h.updSeq

theorem Keeps.descTurn {b ch} (h : Keeps s₀ s) : Keeps s₀ (descTurn s b ch) := h.when (·.spPass.descServe)

theorem Keeps.execDmaDescriptor {b ch} (h : Keeps s₀ s) : Completes s₀ (execDmaDescriptor b ch s) :=
  (h.unless fun h => h.branch (fun h => h.iter fun _ h => h.dmaIssue) (·.descTurn)).next

theorem Keeps.execDmaCompletion {b ch} (h : Keeps s₀ s) : Completes s₀ (execDmaCompletion b ch s) :=
  (h.when (·.descTurn)).next

theorem Keeps.dmaDisableOp {b ch} (h : Keeps s₀ s) : Keeps s₀ (dmaDisableOp s b ch) := by
  unfold Machine.dmaDisableOp
  extract_lets
  split
  exacts [h.setB.unless (·.setDma), h.setB]

theorem Keeps.execDmaDisable {b ch} (h : Keeps s₀ s) : Completes s₀ (execDmaDisable b ch s) := h.dmaDisableOp.next

theorem Keeps.dmaResp {b ch id st addr data} (h : Keeps s₀ s) : Keeps s₀ (dmaResp s b ch id st addr data) := by
  unfold Machine.dmaResp
  split
  · exact h
  · split
    · exact h
    · exact h.branch (·.setDma) fun h => h.branch (·.setDma) fun h => h.branch (fun h => (h.unless (·.takeFree)).setDma)
        (·.takeFree.setDma)

theorem Keeps.dmaStopBlock {b} (h : Keeps s₀ s) : Keeps s₀ (dmaStopBlock s b) := h.setDma.setB.setDma.setB

theorem Keeps.stallOut {b ch} (h : Keeps s₀ s) : Keeps s₀ (stallOut s b ch) := by
  refine .ite h ?_
  extract_lets
  split
  exacts [(h.when (·.dmaTake)).setDma, h.when (·.dmaTake)]

theorem Keeps.execScratchpadStallBound {b c} (h : Keeps s₀ s) : Completes s₀ (execScratchpadStallBound b c s) := by
  refine Keeps.next (.ite h ?_)
  split
  · split
    exacts [h.when (·.respond), h]
  · exact h.stallOut
  · exact h.stallOut

/-! ### Sys2Proof/Machine/Dram.lean -/

theorem Keeps.parkReq {q} (h : Keeps s₀ s) : Keeps s₀ (parkReq s q) := h.set

theorem Keeps.dramStore {q} (h : Keeps s₀ s) : Keeps s₀ (dramStore s q) :=
  ((h.unless fun h => h.forEach fun _ h => h.markFrame).writeDigits.unless (·.throughSnap)).respond

theorem Keeps.dramWrite {q} (h : Keeps s₀ s) : Keeps s₀ (dramWrite s q) :=
  h.branch (·.dramStore) (·.branch (·.set) (·.parkReq.earlyBoundary))

theorem Keeps.dramDecodes {q u} (h : Keeps s₀ s) : Keeps s₀ (dramDecodes s q u).1 :=
  .foldlFst (p := (s, true)) h fun _ h => h.dramDecode

theorem Keeps.dramAccess {q keys u} (h : Keeps s₀ s) : Keeps s₀ (dramAccess s q keys u) :=
  h.branch (·.respond) fun h => h.branch (fun h => (h.forEach fun _ h => h.keyParityError).respond) fun h => h.branch
    (·.keyViolation.respond) fun h => (h.unless fun h => h.forEach fun _ h => h.markFrame).dramDecodes.prod (·.branch
    (·.respond) (·.branch (·.dramWrite) (·.respond)))

theorem Keeps.copyFails {id} (h : Keeps s₀ s) : Keeps s₀ (copyFails s id) := by
  unfold Machine.copyFails
  extract_lets
  split
  exacts [h.set.respond, h.set]

theorem Keeps.execShadowCopyDone {d} (h : Keeps s₀ s) : Completes s₀ (execShadowCopyDone d s) := by
  refine Keeps.next ?_
  split
  · exact h
  · extract_lets _ s1
    have h1 : Keeps s₀ s1 := h.set
    clear_value s1
    generalize e : Machine.copyDecodes s1 _ _ = p
    have hp : Keeps s₀ p.1 := e ▸ h1.copyDecodes
    obtain ⟨s2, ok⟩ := p
    refine .ite hp.copyFails ?_
    extract_lets n s3 s4
    have h4 : Keeps s₀ s4 := hp.updEpoch.when (·.earlyBoundary)
    clear_value s4
    refine .ite h4.markFrame ?_
    split
    exacts [h4.branch (·.respond) (·.dramStore), h4]

/-! ### Sys2Proof/Machine/Check.lean -/

theorem Keeps.cascAbort {n why} (h : Keeps s₀ s) : Keeps s₀ (cascAbort s n why) := h.journal.epochMsg

theorem Keeps.rollbackHere {n arg src unit loc} (h : Keeps s₀ s) : Keeps s₀ (rollbackHere s n arg src unit loc) :=
  h.unless (·.rollback.unless (·.branch (·.cascAbort) (·.set.epochMsg)))

/-- A strike of partition n: the replacement is a parameter. -/
theorem Keeps.strike {n key m failed blk replace} (h : Keeps s₀ s) (k : ∀ {t}, Keeps s₀ t → Keeps s₀ (replace t).1) :
    Keeps s₀ (strike s n key m failed blk replace) := by
  unfold Machine.strike
  extract_lets again s1
  have h1 : Keeps s₀ s1 := h.updEpoch
  have h2 := k h1
  refine .ite h1.rollbackHere ?_
  split
  next e =>
    rw [e] at h2
    exact h2.rollbackHere
  next t e =>
    rw [e] at h2
    have ht : Keeps s₀ t := h2
    split
    · exact ht.concealmentLost
    · exact .ite ht.updEpoch.rollbackHere ht.deadBlock.concealmentLost

theorem Keeps.orReplace {b src answers} (h : Keeps s₀ s) : Keeps s₀ (orReplace s b src answers).1 := by
  unfold Machine.orReplace
  split
  next e => exact h.replaceBlock e
  · exact h

theorem Keeps.columnFails {b src c answers} (h : Keeps s₀ s) : Keeps s₀ (columnFails s b src c answers).1 := by
  unfold Machine.columnFails
  split
  · split
    next e => exact h.spareColumn e
    · exact h.killSpare.orReplace
  · exact h.orReplace

theorem Keeps.strayFault {m} (h : Keeps s₀ s) : Keeps s₀ (strayFault s m) := h.journal

theorem Keeps.blockStrike {m} (h : Keeps s₀ s) : Keeps s₀ (blockStrike s m) := by
  unfold Machine.blockStrike
  refine .ite h.deadBlock ?_
  split
  · split
    · exact h.strayFault
    · split
      exacts [h.strayFault, h.strike id]
  · split
    exacts [h.deadBlock, h.strike (·.columnFails)]

theorem Keeps.twinStrike {m} (h : Keeps s₀ s) : Keeps s₀ (twinStrike s m) := by
  unfold Machine.twinStrike
  split
  · exact h.strayFault
  · extract_lets test
    split
    next s1 _ _ =>
      have h1 : Keeps s₀ s1 := (h.when (·.killTwin)).strayFault
      split
      next c _ =>
        cases e : Machine.spareColumn s1 _ c.val 4 with
        | none => exact h1.killSpare.deadBlock
        | some t => exact h1.spareColumn e
      · exact h1
    · exact h.strike fun h => (h.when (·.killTwin)).whenFst (·.columnFails)

theorem Keeps.storeStrike {m} (h : Keeps s₀ s) : Keeps s₀ (storeStrike s m) := by
  unfold Machine.storeStrike
  extract_lets
  split
  · exact h.strayFault
  · extract_lets
    split
    exacts [h.reloadStore.strayFault, h.reloadStore.branch (·.strike (·.columnFails)) (·.strike (·.orReplace))]

theorem Keeps.dramStrike {m} (h : Keeps s₀ s) : Keeps s₀ (dramStrike s m) := by
  unfold Machine.dramStrike
  extract_lets a g
  split
  · exact h.strayFault
  · exact h.branch (·.concealmentLost) (·.strike fun h => h.unlessFst fun h =>
      (h.set.setF.journal.warnOp.when (·.setB.cicRise)).pair)

theorem Keeps.keyStrike {m} (h : Keeps s₀ s) : Keeps s₀ (keyStrike s m) := by
  unfold Machine.keyStrike
  extract_lets
  split
  exacts [h.setKeyByte.strayFault, h.setKeyByte.rollbackHere]

theorem Keeps.targetStrike {m} (h : Keeps s₀ s) : Keeps s₀ (targetStrike s m) := by
  unfold Machine.targetStrike
  extract_lets u cut a s1
  have hc : Keeps s₀ (cut s) := h.unless (·.setF)
  have h1 : Keeps s₀ s1 := h.unless (·.setF)
  generalize cut s = t at hc ⊢
  generalize s1 = r at h1 ⊢
  generalize (unitRegion u).bind (partOfRegion r) = o
  clear_value u
  split
  · split
    · split
      exacts [hc.strayFault, hc.strike id]
    · split
      exacts [h.branch (·.strayFault) fun _ => hc.deadBlock, h.strike (·.orReplace)]
  · cases o
    exacts [h1.strayFault, h1.strike id]

theorem Keeps.linkStrike {m} (h : Keeps s₀ s) : Keeps s₀ (linkStrike s m) := by
  unfold Machine.linkStrike
  split
  exacts [h.rollbackHere, h.strayFault]

theorem Keeps.linkLost {m d} (h : Keeps s₀ s) : Keeps s₀ (linkLost s m d) := by
  unfold Machine.linkLost
  exact h.branch (·.strayFault) (·.foldl fun _ h => h.concealmentLost)

theorem Keeps.controllerStrike {m} (h : Keeps s₀ s) : Keeps s₀ (controllerStrike s m) :=
  h.forEach fun _ h => h.concealmentLost

theorem Keeps.checkOp {m} (h : Keeps s₀ s) : Keeps s₀ (checkOp s m) := by
  unfold Machine.checkOp
  split
  · exact h.blockStrike
  · exact h.blockStrike
  · exact h.blockStrike
  · exact h.storeStrike
  · exact h.twinStrike
  · exact h.dramStrike
  · exact h.keyStrike
  · exact h.branch (·.targetStrike) (·.branch (·.linkStrike) (·.branch (·.linkLost) (·.targetStrike)))
  · exact h.controllerStrike
  · exact h

theorem Keeps.execMachineCheckAlarm {m} (h : Keeps s₀ s) : Completes s₀ (execMachineCheckAlarm m s) :=
  h.set.checkOp.sweepIso.next

theorem Keeps.execMigration {b col} (h : Keeps s₀ s) : Completes s₀ (execMigration b col s) := by
  refine Keeps.next ?_
  split
  exacts [h, h.unless (·.branch (·.updSeq) (·.updSeq.girthStop))]

theorem Keeps.execMigrationDone {b col} (h : Keeps s₀ s) : Completes s₀ (execMigrationDone b col s) := by
  refine Keeps.next ?_
  split
  · exact h
  · refine .ite h ?_
    extract_lets s1 moved old _ s2
    have h1 : Keeps s₀ s1 := h.updSeq
    have h2 : Keeps s₀ s2 := by
      unfold s2
      split
      · split
        · exact h1
        · exact h1.addSat.addSat.killSpare.setF.journal.journal.pickTwin
      · split
        · exact h1
        next he =>
          have h3 := h1.newHolder he
          refine .regeom (.journal (.showHolders ?_))
          split
          exacts [h3.addSat.setF.setDom.moveHolder, h3.addSat.setF]
    exact h2.freePart

/-! ### Sys2Proof/Machine/Route.lean -/

theorem Keeps.showHeld {g} (h : Keeps s₀ s) : Keeps s₀ (showHeld s g) := h.setF

theorem Keeps.liftFence {g j} (h : Keeps s₀ s) : Keeps s₀ (liftFence s g j) :=
  h.set.setSluice.showHeld.foldl fun _ h => h.leave

theorem Keeps.execSluiceFenceReq {g j} (h : Keeps s₀ s) : Completes s₀ (execSluiceFenceReq g j s) :=
  (h.when (·.setSluice)).next

theorem Keeps.execSluiceDrained {g j} (h : Keeps s₀ s) : Completes s₀ (execSluiceDrained g j s) :=
  (h.when (·.setSluice)).next

/-! ### Sys2Proof/Machine/Power.lean -/

theorem Keeps.startSeq {b pc a0 a1} (h : Keeps s₀ s) : Keeps s₀ (startSeq s b pc a0 a1) := by
  unfold Machine.startSeq
  extract_lets s1 s2 s3 s4
  have h4 : Keeps s₀ s4 := (h.endHush.foldl fun _ h => h.setRg).setB.setF.updSeq.forEach fun _ h => h.pickTwin
  split
  · exact h4.updEpoch fun _ _ w => Epoch.memWf_set w (Snap.memWf_map · fun _ w => w) id
  · exact h4

theorem Keeps.startWoken {b} (h : Keeps s₀ s) : Keeps s₀ (startWoken s b) := by
  refine h.foldl fun _ h => .ite ?_ h
  extract_lets
  split
  exacts [h.set.when fun h => h.foldl fun _ h => h.startSeq, h.set]

theorem Keeps.commandVolt (h : Keeps s₀ s) : Keeps s₀ (commandVolt s) :=
  h.unless fun h => (h.when (·.set)).unless (·.setF.setB.emit)

theorem Keeps.execVoltageSettled (h : Keeps s₀ s) : Completes s₀ (execVoltageSettled s) :=
  (h.when (·.setB.commandVolt)).next

theorem Keeps.moveGroup {l k} (h : Keeps s₀ s) : Keeps s₀ (moveGroup s l k) :=
  (h.foldl fun _ h => h.branch (·.set) (·.branch (·.set) (·.set))).commandVolt

theorem Keeps.retarget {g f} (h : Keeps s₀ s) : Keeps s₀ (retarget s g f) := h.moveGroup

theorem Keeps.execDividerSwitch {g} (h : Keeps s₀ s) : Completes s₀ (execDividerSwitch g s) :=
  (h.unless fun h => (h.foldl fun _ h => h.when (·.setF.setF.set)).commandVolt).next

theorem Keeps.tdivOp {g d} (h : Keeps s₀ s) : Keeps s₀ (tdivOp s g d) :=
  h.branch (·.setB) fun h => (h.foldl fun _ h => h.setF).retarget

theorem Keeps.execTdivWrite {i g d} (h : Keeps s₀ s) : Completes s₀ (execTdivWrite i g d s) := (h.when (·.tdivOp)).next

theorem Keeps.execMarginLowReport {g} (h : Keeps s₀ s) : Completes s₀ (execMarginLowReport g s) :=
  (h.setB.unless (·.branch (·.setF.commandVolt) (·.unless (·.addSat.powerEvent.set.retarget)))).next

theorem Keeps.execMarginQuiet {g} (h : Keeps s₀ s) : Completes s₀ (execMarginQuiet g s) :=
  (h.setB.when (·.setF.commandVolt)).next

theorem Keeps.execDividerReturn {g} (h : Keeps s₀ s) : Completes s₀ (execDividerReturn g s) :=
  (h.unless fun h => (h.when (·.set)).retarget).next

theorem Keeps.applyPmax (h : Keeps s₀ s) : Keeps s₀ (applyPmax s) :=
  (h.foldl fun _ h => h.unless (·.setF.setF.when (·.retarget))).commandVolt

theorem Keeps.execPowerSample {avg} (h : Keeps s₀ s) : Completes s₀ (execPowerSample avg s) := by
  refine Keeps.next (.ite h.setF.set.powerEvent.applyPmax (.ite ?_ h.setF.set))
  split
  exacts [h.setF.set, h.setF.unless (·.set.applyPmax)]

theorem Keeps.execThermalSample {t'} (h : Keeps s₀ s) : Completes s₀ (execThermalSample t' s) := by
  refine Keeps.next (.ite (h.setF.setF.unless (·.setB)).setB.addSat.set.applyPmax (.ite ?_ h.setF.setF.set))
  split
  exacts [h.setF.setF.set, h.setF.setF.unless (·.set.setB.applyPmax)]

theorem Keeps.refusePower {d code} (h : Keeps s₀ s) : Keeps s₀ (refusePower s d code) := h.setF.powerEvent

theorem Keeps.beginState {d v} (h : Keeps s₀ s) : Keeps s₀ (beginState s d v) := by
  unfold Machine.beginState
  extract_lets _ s1
  -- the state as a variable: the kernel would otherwise evaluate what is read of it
  obtain ⟨t, ht, e⟩ : ∃ t, Keeps s₀ t ∧ s1 = t := ⟨_, h.set.setB, rfl⟩
  rw [e]
  split
  · exact ht
  · split
    · exact ht
    · split
      exacts [ht.branch (·.updEpoch) (·.when (·.setSluice)), ht.when (·.setSluice)]

theorem Keeps.endPowerFences {refused} (h : Keeps s₀ s) : Keeps s₀ (endPowerFences s refused) := by
  unfold Machine.endPowerFences
  split
  exacts [h.set.foldl fun _ h => h.branch (·.complete) (·.complete)]

theorem Keeps.waitDom {d v named} (h : Keeps s₀ s) : Keeps s₀ (waitDom s d v named) := h.set

theorem Keeps.stopDom {d} (h : Keeps s₀ s) : Keeps s₀ (stopDom s d) := h.set.setB

theorem Keeps.riseDom {d} (h : Keeps s₀ s) : Keeps s₀ (riseDom s d) := by
  refine .ite h ?_
  extract_lets
  split
  exacts [h.set.setB.setF.when (·.setSluice), h.set.setB.setF]

theorem Keeps.wakeDom {d} (h : Keeps s₀ s) : Keeps s₀ (wakeDom s d) := by
  refine .ite h.riseDom (.ite h (.ite h.waitDom (.riseDom ?_)))
  split
  · refine .when ?_ (·.liftFence.raiseFences)
    split
    exacts [h.stopDom.refusePower.endPowerFences.setF.updEpoch, h.stopDom.refusePower.endPowerFences.setF]
  · exact h.stopDom.refusePower.endPowerFences.setF

theorem Keeps.notePower {d v named} (h : Keeps s₀ s) : Keeps s₀ (notePower s d v named) := h.foldl fun _ h => h.updEpoch

theorem Keeps.powerOp {d v named} (h : Keeps s₀ s) : Keeps s₀ (powerOp s d v named) := by
  refine .ite h (.ite (h.refusePower.notePower.branch (·.setF.waitDom) (·.when (·.setF.beginState))) (.ite h.refusePower (.ite
    h.setF.notePower.waitDom (.ite h.setF.notePower (.ite ?_ h.setF.notePower.beginState)))))
  split
  exacts [h.setF.notePower.beginState.when (·.setSluice), h.setF.notePower.beginState]

theorem Keeps.execPowerRequest {d target} (h : Keeps s₀ s) : Completes s₀ (execPowerRequest d target s) := h.powerOp.next

theorem Keeps.settleDom {d} (h : Keeps s₀ s) : Keeps s₀ (settleDom s d) := h.stopDom.when (·.branch (·.riseDom) (·.powerOp))

theorem Keeps.noteOff {g d v} (h : Keeps s₀ s) : Keeps s₀ (noteOff s g d v) := by
  unfold Machine.noteOff
  split
  · exact h.updEpoch fun _ _ w => Epoch.memWf_set w (Snap.memWf_map · fun _ w => w) id
  · exact h

theorem Keeps.execDomainEntryComplete {d} (h : Keeps s₀ s) : Completes s₀ (execDomainEntryComplete d s) := by
  refine Keeps.next (.ite h (.ite h ?_))
  split
  · exact h.unless fun h => ((h.setSluice.setF.when (·.setF.refusePower)).when (·.noteOff)).settleDom.endPowerFences
  · exact h.setF.settleDom.endPowerFences

theorem Keeps.clearBlock {b} (h : Keeps s₀ s) : Keeps s₀ (clearBlock s b) :=
  h.breakResv.setMem fun _ w => mapWf_drop (fun _ => 0) _ w

theorem Keeps.wakeCleared {b} (h : Keeps s₀ s) : Keeps s₀ (wakeCleared s b) := h.csFill.setSeq.resetRegs

theorem Keeps.blockWoken {p} (h : Keeps s₀ s) : Keeps s₀ (blockWoken s p) :=
  h.branch (·.clearBlock.wakeCleared) fun h => (h.foldl fun _ h => h.clearBlock).foldl fun _ h => h.wakeCleared

theorem Keeps.gatewayWoken {g} (h : Keeps s₀ s) : Keeps s₀ (gatewayWoken s g) :=
  h.branch (fun h => (h.foldl fun _ h => h.setKeyByte).set) (·.set)

theorem Keeps.controllerWoken {k} (h : Keeps s₀ s) : Keeps s₀ (controllerWoken s k) :=
  h.setMem fun _ w => mapWf_drop (fun _ => 0) _ w

theorem Keeps.execDomainWakeComplete {d} (h : Keeps s₀ s) : Completes s₀ (execDomainWakeComplete d s) := by
  refine Keeps.next (.ite h (.ite h (.endPowerFences (.settleDom (.when ?_ fun h => h.foldl fun _ h => h.startWoken)))))
  split
  · exact (h.setF.when (·.branch (·.blockWoken) (·.branch (·.gatewayWoken) (·.when (·.controllerWoken))))).when
      (·.liftFence.raiseFences)
  · exact h.setF.when (·.branch (·.blockWoken) (·.branch (·.gatewayWoken) (·.when (·.controllerWoken))))

theorem Keeps.execDomainWake {d} (h : Keeps s₀ s) : Completes s₀ (execDomainWake d s) := (h.unless (·.wakeDom)).next

theorem Keeps.execAutoHush {p} (h : Keeps s₀ s) : Completes s₀ (execAutoHush p s) := (h.when (·.setF)).next

theorem Keeps.deliverWake {b} (h : Keeps s₀ s) : Keeps s₀ (deliverWake s b) := by
  refine h.foldl fun _ h => ?_
  split
  exacts [h.branch (·.endHush) (·.when (·.wakeDom)), h]

theorem Keeps.wellhead {e} (h : Keeps s₀ s) : Keeps s₀ (wellhead s e) :=
  h.foldl fun _ h => h.when fun h => h.setF.foldl fun _ h => h.wakeDom

theorem Keeps.returnDom {d v} (h : Keeps s₀ s) : Keeps s₀ (returnDom s d v) := by
  refine .ite h ?_
  extract_lets
  split
  exacts [h.stopDom.setDom.branch (·.setSluice) (·.when (·.liftFence)), h.stopDom.setDom]

theorem Keeps.resumePart {n} (h : Keeps s₀ s) : Keeps s₀ (resumePart s n) := by
  refine .ite h (.foldl (.resumeRollback (.updEpoch ?_)) fun _ h => h.powerOp)
  split
  · refine h.foldl fun _ h => ?_
    split
    exacts [h.returnDom, h]
  · exact h

theorem Keeps.execRollbackResume {n} (h : Keeps s₀ s) : Completes s₀ (execRollbackResume n s) := h.resumePart.next

theorem Keeps.cutWrites (h : Keeps s₀ s) : Keeps s₀ (cutWrites s) := h.setSb

theorem Keeps.execSupplySag {c} (h : Keeps s₀ s) : Completes s₀ (execSupplySag c s) :=
  (h.setB.powerEvent.cutWrites.when (·.wellhead)).next

theorem Keeps.setCart {c} (h : Keeps s₀ s) (k : s₀.memWf = true → ∀ x ∈ c, x.memWf = true) : Keeps s₀ (setCart s c) :=
  h.setCarts (fun w _ => k w) fun _ w => State.memWf_shelf w

theorem Keeps.bindCart (h : Keeps s₀ s) : Keeps s₀ (bindCart s) := by
  unfold Machine.bindCart
  split
  next e => exact h.when (·.setCart fun w => Cart.memWf_some (Cart.memWf_of_slots (State.memWf_cart (h.memWf w) e) rfl))
  · exact h

theorem Keeps.execInhibitRelease {c} (h : Keeps s₀ s) : Completes s₀ (execInhibitRelease c s) := h.setB.bindCart.next

/-! ### Sys2Proof/Machine/Control.lean -/

theorem Keeps.putAfter {b m} (h : Keeps s₀ s) : Keeps s₀ (putAfter s b m) := by
  unfold Machine.putAfter
  split
  exacts [h.wr, h]

theorem Keeps.pushLoad {b r v} (h : Keeps s₀ s) : Keeps s₀ (pushLoad s b r v) := h.updSeq

theorem Keeps.loadOp {b w signed} (h : Keeps s₀ s) : Keeps s₀ (loadOp s b w signed).1 :=
  h.branchFst (·.illegal) (·.unlessFst (·.reading (·.putAfter.pushLoad)))

theorem Keeps.storeOp {b w} (h : Keeps s₀ s) : Keeps s₀ (storeOp s b w).1 :=
  h.branchFst (·.illegal) (·.unlessFst (·.merging (·.storeLocal.putAfter)))

theorem Keeps.execLd {b w} (h : Keeps s₀ s) : Completes s₀ (execLd b w s) := (h.issue (·.loadOp)).next

theorem Keeps.execLds {b w} (h : Keeps s₀ s) : Completes s₀ (execLds b w s) := (h.issue (·.loadOp)).next

theorem Keeps.execSt {b w} (h : Keeps s₀ s) : Completes s₀ (execSt b w s) := (h.issue (·.storeOp)).next

theorem Keeps.ldrOp {b w} (h : Keeps s₀ s) : Keeps s₀ (ldrOp s b w).1 :=
  h.branchFst (·.illegal) (·.unlessFst (·.reading (·.pushLoad.updSeq.setB)))

theorem Keeps.stcOp {b w} (h : Keeps s₀ s) : Keeps s₀ (stcOp s b w).1 :=
  h.branchFst (·.illegal) fun h => h.unlessFst fun h => h.merging fun h => (h.when (·.storeLocal)).clearResv.wr

theorem Keeps.execLdr {b w} (h : Keeps s₀ s) : Completes s₀ (execLdr b w s) := (h.issue (·.ldrOp)).next

theorem Keeps.execStc {b w} (h : Keeps s₀ s) : Completes s₀ (execStc b w s) := (h.issue (·.stcOp)).next

theorem Keeps.seqReq {b wr a n data} (h : Keeps s₀ s) : Keeps s₀ (seqReq s b wr a n data) := h.sendReq.showOutst

theorem Keeps.ldxOp {b w} (h : Keeps s₀ s) : Keeps s₀ (ldxOp s b w).1 :=
  h.branchFst (·.illegal) (·.unlessFst (·.unlessFst (·.seqReq.updSeq.pair)))

theorem Keeps.stxOp {b w} (h : Keeps s₀ s) : Keeps s₀ (stxOp s b w).1 :=
  h.branchFst (·.illegal) (·.unlessFst (·.unlessFst (·.seqReq)))

theorem Keeps.execLdx {b w} (h : Keeps s₀ s) : Completes s₀ (execLdx b w s) := (h.issue (·.ldxOp)).next

theorem Keeps.execStx {b w} (h : Keeps s₀ s) : Completes s₀ (execStx b w s) := (h.issue (·.stxOp)).next

theorem Keeps.execFence {b w} (h : Keeps s₀ s) : Completes s₀ (execFence b w s) := (h.issue (·.whenFst (·.illegal))).next

theorem Keeps.execBz {b w} (h : Keeps s₀ s) : Completes s₀ (execBz b w s) := (h.issue id).next

theorem Keeps.execBnz {b w} (h : Keeps s₀ s) : Completes s₀ (execBnz b w s) := (h.issue id).next

theorem Keeps.execJ {b w} (h : Keeps s₀ s) : Completes s₀ (execJ b w s) := (h.issue id).next

theorem Keeps.execJr {b w} (h : Keeps s₀ s) : Completes s₀ (execJr b w s) := (h.issue (·.whenFst (·.illegal))).next

theorem Keeps.execCall {b w} (h : Keeps s₀ s) : Completes s₀ (execCall b w s) := (h.issue (·.callOp)).next

theorem Keeps.execRet {b w} (h : Keeps s₀ s) : Completes s₀ (execRet b w s) := (h.issue (·.retOp)).next

theorem Keeps.execReti {b w} (h : Keeps s₀ s) : Completes s₀ (execReti b w s) := (h.issue (·.retiOp)).next

theorem Keeps.openLoop {b w count len} (h : Keeps s₀ s) : Keeps s₀ (openLoop s b w count len).1 := by
  unfold Machine.openLoop
  extract_lets
  split
  exacts [h, h.unlessFst (·.branchFst (·.branchFst id id) (·.setRg.setRg.setRg.setF.setF))]

theorem Keeps.execLoop {b w} (h : Keeps s₀ s) : Completes s₀ (execLoop b w s) :=
  (h.issue (·.branchFst (·.illegal) (·.openLoop))).next

theorem Keeps.execLoopi {b w} (h : Keeps s₀ s) : Completes s₀ (execLoopi b w s) :=
  (h.issue (·.branchFst (·.illegal) (·.openLoop))).next

theorem Keeps.openRep {b w count} (h : Keeps s₀ s) : Keeps s₀ (openRep s b w count).1 :=
  h.unlessFst (·.branchFst (·.setF) (·.setF))

theorem Keeps.execRep {b w} (h : Keeps s₀ s) : Completes s₀ (execRep b w s) := (h.issue (·.unlessFst (·.openRep))).next

theorem Keeps.execRepr {b w} (h : Keeps s₀ s) : Completes s₀ (execRepr b w s) :=
  (h.issue (·.branchFst (·.illegal) (·.openRep))).next

theorem Keeps.execTrap {b w} (h : Keeps s₀ s) : Completes s₀ (execTrap b w s) :=
  (h.issue (·.branchFst (·.illegal) (·.branchFst id id))).next

theorem Keeps.execBkpt {b w} (h : Keeps s₀ s) : Completes s₀ (execBkpt b w s) :=
  (h.issue (·.branchFst (·.illegal) (·.branchFst id id))).next

theorem Keeps.execWait {b w} (h : Keeps s₀ s) : Completes s₀ (execWait b w s) :=
  (h.issue (·.branchFst (·.illegal) (·.unlessFst (·.updSeq.pair)))).next

theorem Keeps.wokenFor {b due} (h : Keeps s₀ s) : Keeps s₀ (wokenFor s b due) := h.when (·.deliverWake)

theorem Keeps.waitOp {b} (h : Keeps s₀ s) : Keeps s₀ (waitOp s b) := h.when (·.updSeq.retire.takeExit.endStep)

theorem Keeps.execWaitComplete {b} (h : Keeps s₀ s) : Completes s₀ (execWaitComplete b s) := h.wokenFor.waitOp.next

theorem Keeps.execReservedOpcode {b op w} (h : Keeps s₀ s) : Completes s₀ (execReservedOpcode b op w s) :=
  (h.unless fun h => h.branch (fun h => h.issueArr fun _ h => h) (·.issue id)).next

theorem Keeps.mtcWrite {b n v} (h : Keeps s₀ s) : Keeps s₀ (mtcWrite s b n v) := by
  unfold Machine.mtcWrite
  split
  exacts [h, (h.unless (·.writePlain)).when (·.abandonAll)]

theorem Keeps.execMfc {b w} (h : Keeps s₀ s) : Completes s₀ (execMfc b w s) := by
  refine (h.issue fun h => .iteFst h.illegal ?_).next
  split
  exacts [h.illegal, h.wr]

theorem Keeps.execMtc {b w} (h : Keeps s₀ s) : Completes s₀ (execMtc b w s) :=
  (h.issue (·.branchFst (·.illegal) (·.unlessFst (·.mtcWrite)))).next

theorem Keeps.suspCause {b cause} (h : Keeps s₀ s) : Keeps s₀ (suspCause s b cause) :=
  h.when fun h => h.forEach fun _ h => h.updSeq.setF

theorem Keeps.suspEntered {b} (h : Keeps s₀ s) : Keeps s₀ (suspEntered s b) := h.when fun h => h.forEach fun _ h => h.updSeq

theorem Keeps.entryOp {b} (h : Keeps s₀ s) : Keeps s₀ (entryOp s b) := by
  refine .ite h ?_
  split
  · split
    · refine .ite h.programFault ?_
      extract_lets
      split
      exacts [h.set.suspCause.enter.sendAct, h.set.suspCause.enter]
    · exact h
  · exact h.branch (·.programFault) (·.suspCause.enter.bicDeliver)

theorem Keeps.execInterruptEntry {b} (h : Keeps s₀ s) : Completes s₀ (execInterruptEntry b s) := h.wokenFor.entryOp.next

theorem Keeps.execMeshTrap {b} (h : Keeps s₀ s) : Completes s₀ (execMeshTrap b s) := by
  refine Keeps.next (.ite h ?_)
  split
  exacts [h, h.branch (·.programFault) (·.updSeq.suspEntered.enter)]

theorem Keeps.clearHaltReq {b} (h : Keeps s₀ s) : Keeps s₀ (clearHaltReq s b) := h.forEach fun _ h => h.setB

theorem Keeps.hushEnds {b} (h : Keeps s₀ s) : Keeps s₀ (hushEnds s b) := h.when fun h => h.foldl fun _ h => h.endHush

theorem Keeps.haltOp {b} (h : Keeps s₀ s) : Keeps s₀ (haltOp s b) := h.when (·.clearHaltReq.suspCause.haltGang)

theorem Keeps.execHaltTaken {b} (h : Keeps s₀ s) : Completes s₀ (execHaltTaken b s) := h.hushEnds.haltOp.next

/-! ### Sys2Proof/Machine/Vosel.lean -/

theorem Keeps.withMap {affected owner} (h : Keeps s₀ s) : Keeps s₀ (withMap s affected owner) :=
  h.foldl fun _ h => h.unless (·.setF.setF)

/-! ### Sys2Proof/Machine/Image.lean -/

theorem Keeps.setErr {r} (h : Keeps s₀ s) : Keeps s₀ (setErr s r) := h.setRg

theorem Keeps.setPhase {p} (h : Keeps s₀ s) : Keeps s₀ (setPhase s p) := h.setF

theorem Keeps.endLoad {ph status detail result} (h : Keeps s₀ s) : Keeps s₀ (endLoad s ph status detail result) := by
  unfold Machine.endLoad
  extract_lets cmd s1
  have h1 : Keeps s₀ s1 := h.set.setPhase.setB.setB
  clear_value cmd s1
  cases cmd with
  | none => exact h1.endWaits.sweepIso
  | some c => exact h1.endWaits.sweepIso.complete

theorem Keeps.reportRej {r ph} (h : Keeps s₀ s) : Keeps s₀ (reportRej s r ph) := h.setErr.setB.cicRise.endLoad

theorem Keeps.dropParts {L} (h : Keeps s₀ s) : Keeps s₀ (dropParts s L) :=
  ((h.set.foldl fun _ h => h.setRg).foldl fun _ h => h.when (·.setRg)).withMap.commandVolt

theorem Keeps.applyCascade (h : Keeps s₀ s) : Keeps s₀ (applyCascade s) :=
  h.setF.setF.setF.setF.setF.branch (·.setF.setF) (·.setF.setF)

theorem Keeps.inLoadCascade {L} (h : Keeps s₀ s) : Keeps s₀ (inLoadCascade s L) := h.set.applyCascade

theorem Keeps.viaStaged {L f} (h : Keeps s₀ s) : Keeps s₀ (viaStaged s L f) := h.set

theorem Keeps.tellFail {L dev} (h : Keeps s₀ s) : Keeps s₀ (tellFail s L dev) := h.unless (·.viaStaged)

theorem Keeps.failLoad {L r} (h : Keeps s₀ s) : Keeps s₀ (failLoad s L r) := h.dropParts.reportRej.tellFail

theorem Keeps.holdBoundary {n} (h : Keeps s₀ s) : Keeps s₀ (holdBoundary s n) :=
  h.unless fun h => h.branch (·.updEpoch) fun h => h.branch (fun h => h.updEpoch.forwardReq) (·.startBoundary)

theorem Keeps.imgStart {cmd} (h : Keeps s₀ s) : Keeps s₀ (imgStart s cmd) := by
  -- the kernel must see a variable for the check of the header, which it would otherwise evaluate
  obtain ⟨ck, hk⟩ : ∃ ck, checkRej = ck := ⟨_, rfl⟩
  have e : @Machine.imgStart = @Machine.imgStart := rfl
  conv at e => rhs; delta Machine.imgStart
  rw [e, hk]
  beta_reduce
  extract_lets s1 s2 s3 s4 _ s5 L _ s6
  have h4 : Keeps s₀ s4 := (h.when (·.setB)).setB.setB.setB.setRg.setF.setPhase
  have h6 : Keeps s₀ s6 := h4.set.set
  clear_value s6 L
  split
  · exact h6.reportRej.tellFail
  · exact (h6.setPhase.foldl fun _ h => (h.when (·.girthStop)).holdBoundary).raiseFences

theorem Keeps.imgGoOp (h : Keeps s₀ s) : Keeps s₀ (imgGoOp s) := h.branch (·.setB) (·.imgStart)

theorem Keeps.execImgGo {_i} (h : Keeps s₀ s) : Completes s₀ (execImgGo _i s) := h.imgGoOp.next

theorem Keeps.discardOp {b} (h : Keeps s₀ s) : Keeps s₀ (discardOp s b).1 := by
  refine .iteFst h.abandonOp ?_
  split
  exacts [h.setF.setF.setB.setB.setB.bicRise, h]

theorem Keeps.dropOp {b} (h : Keeps s₀ s) : Keeps s₀ (dropOp s b) := h.branch (·.abandonBlock) (·.discardOp)

theorem Keeps.holdBlock {b} (h : Keeps s₀ s) : Keeps s₀ (holdBlock s b) :=
  (h.breakResv.dmaStopBlock.setSeq.resetRegs.setRg.setB.foldl fun _ h => h.setB).set

theorem Keeps.maskPart {n} (h : Keeps s₀ s) : Keeps s₀ (maskPart s n) := h.foldl fun _ h => h.when (·.setF)

theorem Keeps.idlePins {n} (h : Keeps s₀ s) : Keeps s₀ (idlePins s n) :=
  (h.foldl fun _ h => h.when (·.setF)).foldl fun _ h => h.when (·.setF)

theorem Keeps.refuseHeld {ds} (h : Keeps s₀ s) : Keeps s₀ (refuseHeld s ds) :=
  (h.set.foldl fun _ h => h.respond).foldl fun _ h => h.showHeld

theorem Keeps.execImageHoldDrained (h : Keeps s₀ s) : Completes s₀ (execImageHoldDrained s) := by
  refine Keeps.next ?_
  split
  · exact h
  · refine .ite h ?_
    extract_lets bs force
    generalize e : (if force then _ else (s, 0) : State × Nat) = p
    have hp : Keeps s₀ p.1 := by
      rw [← e]
      exact .iteFst (.foldlFst (p := (s, 0)) h fun _ h => h.discardOp.prodFst (·.pair)) h.pair
    obtain ⟨s1, k⟩ := p
    refine .setPhase (.refuseHeld (.setF (.foldl (.foldl (.set (.foldl hp.setF fun _ h => ?_)) fun _ h => h.holdBlock)
      fun _ h => h.when (·.setSluice))))
    exact ((h.endRuns.idlePins.maskPart.forEach fun _ h => h.setKeyByte).setEpochs fun _ w _ he =>
      State.memWf_epochs w (mem_mapErase he)).setF

theorem Keeps.leadReleases {L} (h : Keeps s₀ s) : Keeps s₀ (leadReleases s L) := h.branch (·.viaStaged.set.setPhase) (·.set)

theorem Keeps.sendIdent {c p} (h : Keeps s₀ s) : Keeps s₀ (sendIdent s c p) := h.emit

theorem Keeps.sendTime {p} (h : Keeps s₀ s) : Keeps s₀ (sendTime s p) := h.when (·.sendCtl)

theorem Keeps.judgeIdent {c p m} (h : Keeps s₀ s) : Keeps s₀ (judgeIdent s c p m) := by
  refine .ite h (.ite h.setPort (.ite h.setPort (.ite h.setPort (.unless ?_ (·.branch (·.setPort.sendTime)
    (·.setPort.setB.sendTime))))))
  split
  exacts [h.set, h]

theorem Keeps.showRecord {L} (h : Keeps s₀ s) : Keeps s₀ (showRecord s L) :=
  h.unless fun h => (h.foldl fun _ h => h.when (·.sendIdent)).foldl fun _ h => h.judgeIdent

theorem Keeps.verifyLoad {L fs} (h : Keeps s₀ s) : Keeps s₀ (verifyLoad s L fs) := by
  unfold Machine.verifyLoad
  extract_lets s1 c t unchecked s2 L1 L2 s3
  have h1 : Keeps s₀ s1 := h.setPhase
  have h2 : Keeps s₀ s2 := by
    unfold s2
    split
    exacts [h1.setErr.setB, h1]
  have h3 : Keeps s₀ s3 := h2.set.showRecord
  clear_value s3 L2 s2 s1
  split
  · exact h1.failLoad
  split
  · exact h1.failLoad
  · exact h3.branch (·.setPhase) (·.branch (·.leadReleases) (·.viaStaged))

theorem Keeps.execImageFrame (h : Keeps s₀ s) : Completes s₀ (execImageFrame s) := by
  refine Keeps.next ?_
  -- a variable for the check of the frame: the kernel would otherwise evaluate it
  obtain ⟨fr, hf⟩ : ∃ fr, frameRej = fr := ⟨_, rfl⟩
  rw [hf]
  split
  · exact h
  · refine .ite h ?_
    extract_lets
    split
    · exact h.failLoad
    · exact h.branch (·.set) (·.verifyLoad)

theorem Keeps.applyRoutes {c mine full} (h : Keeps s₀ s) : Keeps s₀ (applyRoutes s c mine full) :=
  h.foldl fun _ h => h.unless fun h => (h.when (·.setF.setF.setF)).when (·.setRg)

theorem Keeps.applyClock {c g} (h : Keeps s₀ s) : Keeps s₀ (applyClock s c g) := h.setF.setF.setF.setB.set

theorem Keeps.applyDiv {g} (h : Keeps s₀ s) : Keeps s₀ (applyDiv s g) := h.set.setF.setF

theorem Keeps.moveStore {b d} (h : Keeps s₀ s) : Keeps s₀ (moveStore s b d) := by
  unfold Machine.moveStore
  extract_lets carried v t1 t2
  have hw (p q : Nat → Bool) (f : Nat → Nat) (w : Memory.wf s.mem = true) : Memory.wf (carried p q f s.mem) = true := by
    unfold carried
    exact Memory.wf_carried w (mapWf_drop (fun _ => 0) _ w) _ _
  have h1 : Keeps s₀ t1 := h.branch (·.takeMap) (·.setRg)
  have h2 : Keeps s₀ t2 := h1.set
  clear_value carried
  exact h2.setRg.setMem fun w _ => hw _ _ _ (s.memWf_iff.mp (h.memWf w)).1

theorem Keeps.rehome {s0} (h : Keeps s₀ s) : Keeps s₀ (rehome s0 s) :=
  (h.foldl fun _ h => h.moveStore).foldl fun _ h => h.moveStore.showTwinStop.cicRise

theorem Keeps.execImageApply (h : Keeps s₀ s) : Completes s₀ (execImageApply s) := by
  refine Keeps.next ?_
  split
  · exact h
  · split
    · exact h
    · refine .ite h ?_
      split
      · exact h.failLoad
      · exact (((((((((((h.foldl fun _ h => h.setRg).set.withMap.foldl fun _ h => h.setRg).applyRoutes.foldl fun _ h =>
          h.setRg).rehome.set.foldl fun _ h => h.showSeqId).foldl fun _ h => h.when (·.applyClock)).foldl fun _ h => h.when
          (·.applyDiv)).commandVolt.unless (·.applyCascade)).foldl fun _ h => h.unless (·.setRg)).foldl fun _ h =>
          h.regeom).set.foldl fun _ h => h.csKeep).freeTags.foldl fun _ h => h.set.setB).setPhase

theorem Keeps.keepOld {r} (h : Keeps s₀ s) : Keeps s₀ (keepOld s r) := h.set

theorem Keeps.execRouterReconfig {x y} (h : Keeps s₀ s) : Completes s₀ (execRouterReconfig x y s) :=
  (h.unless (·.keepOld.setB.setF.set.unless (·.setF.setF.sweepIso))).next

theorem Keeps.releaseDom {d v} (h : Keeps s₀ s) : Keeps s₀ (releaseDom s d v) := by
  refine .when ?_ (·.branch (·.blockWoken) (·.branch (·.gatewayWoken) (·.when (·.controllerWoken))))
  split
  exacts [h.stopDom.setDom.branch (·.liftFence) (·.setSluice), h.stopDom.setDom]

theorem Keeps.releaseRegion {g} (h : Keeps s₀ s) : Keeps s₀ (releaseRegion s g) := by
  refine h.branch (fun h => ((h.foldl fun _ h => h.when (·.liftFence)).releaseDom.foldl fun _ h => ?_).when (·.releaseDom))
    fun h => (h.foldl fun _ h => h.releaseDom).releaseDom
  split
  exacts [h.releaseDom, h]

theorem Keeps.releaseChip (h : Keeps s₀ s) : Keeps s₀ (releaseChip s) :=
  (h.foldl fun _ h => h.releaseDom).releaseDom.foldl fun _ h => h.releaseDom

theorem Keeps.freeSpares {L} (h : Keeps s₀ s) : Keeps s₀ (freeSpares s L) := h.foldl fun _ h => h.when (·.liftFence)

theorem Keeps.wakeControllers (h : Keeps s₀ s) : Keeps s₀ (wakeControllers s) := h.foldl fun _ h => h.when (·.releaseDom)

theorem Keeps.releasePart {n t} (h : Keeps s₀ s) : Keeps s₀ (releasePart s n t) := by
  unfold Machine.releasePart
  extract_lets p s1 s2 s3 s4 s5 _ s6
  have h6 : Keeps s₀ s6 := ((((h.unstop.foldl fun _ h => h.haltSeq).foldl fun _ h => h.when (·.setRg)).foldl
    fun _ h => h.when (·.setF)).setF.setF).when (·.set)
  refine h6.setEpochs fun _ w e he => ?_
  rcases mem_mapPut he with rfl | he
  · exact (Epoch.memWf_iff _).mpr ⟨Snap.memWf_some (State.memWf_takeSnap w n), Snap.memWf_none⟩
  · exact State.memWf_epochs w he

theorem Keeps.execImageRelease (h : Keeps s₀ s) : Completes s₀ (execImageRelease s) := by
  refine Keeps.next ?_
  split
  · exact h
  · exact h.unless fun h => (((((h.foldl fun _ h => h.releaseRegion).freeSpares.branch (·.wakeControllers)
      (·.releaseChip)).foldl fun _ h => h.setF).foldl fun _ h => h.releasePart).foldl fun _ h =>
      h.setRg).set.setB.setB.cicRise.setPhase.setB.endLoad

/-! ### Sys2Proof/Machine/Irq.lean -/

theorem Keeps.bicPendSetOp {b v outside} (h : Keeps s₀ s) : Keeps s₀ (bicPendSetOp s b v outside) := by
  refine .forwardIrqs ?_
  split
  · exact h.setRg.when (·.updEpoch fun _ _ w => Epoch.memWf_map w rfl rfl (fun _ w => w) fun _ w => w)
  · exact h.setRg

theorem Keeps.execBicPendSet {b v} (h : Keeps s₀ s) : Completes s₀ (execBicPendSet b v s) := h.bicPendSetOp.next

theorem Keeps.bicPendClrOp {b v} (h : Keeps s₀ s) : Keeps s₀ (bicPendClrOp s b v) := h.setRg

theorem Keeps.bicMaskSetOp {b v} (h : Keeps s₀ s) : Keeps s₀ (bicMaskSetOp s b v) := h.setRg

theorem Keeps.bicMaskClrOp {b v} (h : Keeps s₀ s) : Keeps s₀ (bicMaskClrOp s b v) := h.setRg

theorem Keeps.execBicPendClr {b v} (h : Keeps s₀ s) : Completes s₀ (execBicPendClr b v s) := h.bicPendClrOp.next

theorem Keeps.execBicMaskSet {b v} (h : Keeps s₀ s) : Completes s₀ (execBicMaskSet b v s) := h.bicMaskSetOp.next

theorem Keeps.execBicMaskClr {b v} (h : Keeps s₀ s) : Completes s₀ (execBicMaskClr b v s) := h.bicMaskClrOp.next

theorem Keeps.bicEoiOp {b n} (h : Keeps s₀ s) : Keeps s₀ (bicEoiOp s b n) := h.unless (·.setF.when (·.bicSet))

theorem Keeps.execBicEoi {b src} (h : Keeps s₀ s) : Completes s₀ (execBicEoi b src s) := h.bicEoiOp.next

theorem Keeps.execBicCicqPop {_i b} (h : Keeps s₀ s) : Completes s₀ (execBicCicqPop _i b s) := h.emit.popCicq.next

theorem Keeps.cicPut {a n v} (h : Keeps s₀ s) : Keeps s₀ (cicPut s a n v) := h.setF

theorem Keeps.cicRaised {i n} (h : Keeps s₀ s) : Keeps s₀ (cicRaised s i n) := h.unless (·.cicOutside)

theorem Keeps.cicPendSetOp {i w v} (h : Keeps s₀ s) : Keeps s₀ (cicPendSetOp s i w v) :=
  h.foldl fun _ h => h.cicPut.cicRaised

theorem Keeps.cicPendClrOp {i w v} (h : Keeps s₀ s) : Keeps s₀ (cicPendClrOp s i w v) := h.foldl fun _ h => h.cicPut

theorem Keeps.cicMaskSetOp {i w v} (h : Keeps s₀ s) : Keeps s₀ (cicMaskSetOp s i w v) := h.foldl fun _ h => h.cicPut

theorem Keeps.cicMaskClrOp {i w v} (h : Keeps s₀ s) : Keeps s₀ (cicMaskClrOp s i w v) := h.foldl fun _ h => h.cicPut

theorem Keeps.execCicPendSet {i w v} (h : Keeps s₀ s) : Completes s₀ (execCicPendSet i w v s) := h.cicPendSetOp.next

theorem Keeps.execCicPendClr {i w v} (h : Keeps s₀ s) : Completes s₀ (execCicPendClr i w v s) := h.cicPendClrOp.next

theorem Keeps.execCicMaskSet {i w v} (h : Keeps s₀ s) : Completes s₀ (execCicMaskSet i w v s) := h.cicMaskSetOp.next

theorem Keeps.execCicMaskClr {i w v} (h : Keeps s₀ s) : Completes s₀ (execCicMaskClr i w v s) := h.cicMaskClrOp.next

theorem Keeps.cicEnd {n} (h : Keeps s₀ s) : Keeps s₀ (cicEnd s n) := h.unless (·.cicPut.when (·.cicSet))

theorem Keeps.cicEoiOp {i n} (h : Keeps s₀ s) : Keeps s₀ (cicEoiOp s i n) := h.when (·.cicEnd)

theorem Keeps.execCicEoi {i src} (h : Keeps s₀ s) : Completes s₀ (execCicEoi i src s) := h.cicEoiOp.next

theorem Keeps.cicRouteOp {i n v} (h : Keeps s₀ s) : Keeps s₀ (cicRouteOp s i n v) := h.unless (·.setRg)

theorem Keeps.execCicRouteWrite {i src v} (h : Keeps s₀ s) : Completes s₀ (execCicRouteWrite i src v s) := h.cicRouteOp.next

theorem Keeps.cicDeliver {n} (h : Keeps s₀ s) : Keeps s₀ (cicDeliver s n) := by
  refine .ite h.cicPut.set.cicPut.set.presentIrq (.when ?_ (·.cicSet))
  split
  · exact h.cicPut.set
  · split
    exacts [h.cicPut.set.hold, h.cicPut.set.sendMsix]

theorem Keeps.execCicDelivery (h : Keeps s₀ s) : Completes s₀ (execCicDelivery s) := by
  refine Keeps.next ?_
  split
  exacts [h.cicDeliver, h]

theorem Keeps.ackIrq {b n st} (h : Keeps s₀ s) : Keeps s₀ (ackIrq s b n st) := h.set.presentAck

theorem Keeps.cicqRise {s0 b} (h : Keeps s₀ s) : Keeps s₀ (cicqRise s0 s b) := h.bicRise.unless (·.bicPendSetOp)

theorem Keeps.irqArrives {b n} (h : Keeps s₀ s) : Keeps s₀ (irqArrives s b n) := by
  refine .ite h ?_
  extract_lets
  split
  · exact h.branch (·.unless (·.set.set.showHeld.wakeDom)) (·.set.ackIrq)
  · exact h.set.branch (·.ackIrq) fun h => h.branch (·.ackIrq) fun h => h.set.endHush.cicqRise.forwardIrqs.ackIrq

theorem Keeps.execCicIrqMessage {b src} (h : Keeps s₀ s) : Completes s₀ (execCicIrqMessage b src s) := h.irqArrives.next

theorem Keeps.ackArrives {n st} (h : Keeps s₀ s) : Keeps s₀ (ackArrives s n st) :=
  h.unless (·.set.unless (·.cicPut.cicSet.when (·.set)))

theorem Keeps.execIrqack {src st} (h : Keeps s₀ s) : Completes s₀ (execIrqack src st s) := h.ackArrives.next

theorem Keeps.execCicResendTimer {src} (h : Keeps s₀ s) : Completes s₀ (execCicResendTimer src s) := (h.when (·.set)).next

theorem Keeps.execWellheadEvent {e} (h : Keeps s₀ s) : Completes s₀ (execWellheadEvent e s) := h.wellhead.next

theorem Keeps.whStart {t'} (h : Keeps s₀ s) : Keeps s₀ (whStart s t') := h.set

theorem Keeps.whStop {t'} (h : Keeps s₀ s) : Keeps s₀ (whStop s t') := h.set

theorem Keeps.whTmrWrite {t' m v} (h : Keeps s₀ s) : Keeps s₀ (whTmrWrite s t' m v) :=
  h.writePlain.branch (·.whStart) (·.when (·.whStop))

theorem Keeps.whTick (h : Keeps s₀ s) : Keeps s₀ (whTick s) := h.unless (·.set)

theorem Keeps.execWhTimerExpiry {t'} (h : Keeps s₀ s) : Completes s₀ (execWhTimerExpiry t' s) :=
  (h.when fun h => (h.branch (·.whStart) (·.whStop)).wellhead).next

/-! ### Sys2Proof/Machine/Micro.lean -/

theorem Keeps.stitchOp {b k v credit} (h : Keeps s₀ s) : Keeps s₀ (stitchOp s b k v credit) :=
  h.unless fun h => h.branch (·.updSeq) fun h => (h.unless (·.updSeq.tracePut)).tracePut

theorem Keeps.csStage {b n q v} (h : Keeps s₀ s) : Keeps s₀ (csStage s b n q v) :=
  h.unless fun h => (h.when (·.setB)).updSeq

theorem Keeps.execCsQuarterStage {b n q v} (h : Keeps s₀ s) : Completes s₀ (execCsQuarterStage b n q v s) := h.csStage.next

theorem Keeps.csTake {b n} (h : Keeps s₀ s) : Keeps s₀ (csTake s b n).1 := h.when (·.updSeq)

theorem Keeps.csAccess {b p} (h : Keeps s₀ s) : Keeps s₀ (csAccess s b p) := h.branch (·.updSeq) fun h => h.csFlush.csApply

theorem Keeps.execCsCommit {b n} (h : Keeps s₀ s) : Completes s₀ (execCsCommit b n s) :=
  (h.unless (·.csTake.prod (·.csAccess))).next

theorem Keeps.csUpset {b n u} (h : Keeps s₀ s) : Keeps s₀ (csUpset s b n u) := by
  unfold Machine.csUpset
  split
  exacts [h.branch (·.set) (·.set), h.set]

theorem Keeps.execCsRead {b n q} (h : Keeps s₀ s) : Completes s₀ (execCsRead b n q s) := by
  refine Keeps.next (.csAccess ?_)
  split
  exacts [h.csUpset, h]

theorem Keeps.dtWrite {b e whole v} (h : Keeps s₀ s) : Keeps s₀ (dtWrite s b e whole v) :=
  h.unless (·.branch (·.setB) (·.branch (·.setB) (·.dtSet)))

theorem Keeps.execDtEntryWrite {b e whole v} (h : Keeps s₀ s) : Completes s₀ (execDtEntryWrite b e whole v s) :=
  h.dtWrite.next

theorem Keeps.execCustomerInstruction {b e w} (h : Keeps s₀ s) : Completes s₀ (execCustomerInstruction b e w s) := by
  refine (h.resumeIdle.issue fun h => ?_).next
  extract_lets
  split
  · exact h.storeFault
  · exact h.unlessFst fun h => .iteFst (h.forEach fun _ h => h.setB).pair
      (h.unlessFst (·.unlessFst (·.dispatchAway.setMicro.pair)))

theorem Keeps.turnStore {z c} (h : Keeps s₀ s) : Keeps s₀ (turnStore z s c) :=
  h.unless fun h =>
    (h.breakResv.setMem fun _ w => Memory.wf_foldl (fun _ _ w => Memory.wf_setByte w _ _) _ w).when (·.cleanWords)

theorem Keeps.cycleCells {z b} (h : Keeps s₀ s) : Keeps s₀ (cycleCells z s b) :=
  h.forEach fun _ h => ((h.branch (·.mapListed) (·.mapCells)).when (·.noteFlags)).when (·.turnStore)

theorem Keeps.cycleUpset {b word u} (h : Keeps s₀ s) : Keeps s₀ (cycleUpset s b word u).1 := by
  cases u with
  | clean => exact h
  | corrected pos _ => exact (h.addSat.warnCorrected.setF.setF.setF.setB.when (·.addSat)).updSeq.pair
  | uncorrectable pos => exact h.setB.blockCheck
  | pair => exact h.blockCheck
  | twin => exact .iteFst h.addSat.blockCheck h
  | csParity => exact h.storeFault
  | dtParity => exact h.storeFault

theorem Keeps.microEnd {b m u} (h : Keeps s₀ s) : Keeps s₀ (microEnd s b m u) :=
  h.branch (·.setMicro) fun h => (h.when (·.wr)).setMicro.retire.takeExit.endStep

theorem Keeps.microRun {b m u old} (h : Keeps s₀ s) : Keeps s₀ (microRun s b m u old) := by
  unfold Machine.microRun
  extract_lets fs z s1 s2 s3 s4 s5
  have h1 : Keeps s₀ s1 := by
    unfold s1
    split
    exacts [h.edgeTake, h.unless (·.netTake)]
  have h2 : Keeps s₀ s2 := h1.set.cycleCells
  have h5 : Keeps s₀ s5 := ((h2.unless (·.forEach fun _ h => h.updSeq)).when (·.stitchOp)).unless (·.gangRequest)
  split
  · exact h5.microEnd
  · exact h5.setMicro

theorem Keeps.edgeWait {b m u} (h : Keeps s₀ s) : Keeps s₀ (edgeWait s b m u).1 := by
  unfold Machine.edgeWait
  split
  exacts [h.unlessFst (·.netStep.unless (·.setMicro)), h.unless (·.edgeSend.setMicro)]

theorem Keeps.lineReads {b m u} (h : Keeps s₀ s) : Keeps s₀ (lineReads s b m u).1 :=
  h.unlessFst fun h => .foldlFst (p := (s, true)) h fun _ h => h.memCheck

theorem Keeps.microCycle {b m old} (h : Keeps s₀ s) : Keeps s₀ (microCycle s b m old) := by
  refine .ite h ?_
  split
  · exact h.storeFault
  · refine .ite h (.ite (h.branch (·.storeFault) (·.programFault)) (.ite h.programFault (.ite h.programFault (.ite (.haltGang
      (.girthRaise (.setMicro ?_))) (h.branch (·.setMicro.unless (·.trapAt.endStep)) (·.edgeWait.prod (·.unless
      (·.lineReads.prod (·.when (·.microRun))))))))))
    split
    exacts [h.set, h]

theorem Keeps.execMicrowordCycle {b u} (h : Keeps s₀ s) : Completes s₀ (execMicrowordCycle b u s) := by
  refine Keeps.next (.ite h ?_)
  split
  exacts [h.cycleUpset.prod (·.when (·.microCycle)), h.takeFree.cycleUpset]

theorem Keeps.execPlaneRepair {b} (h : Keeps s₀ s) : Completes s₀ (execPlaneRepair b s) := (h.unless (·.updSeq)).next

theorem Keeps.execTwinAdvance {b u} (h : Keeps s₀ s) : Completes s₀ (execTwinAdvance b u s) := by
  refine Keeps.next (.ite h ?_)
  extract_lets
  split
  exacts [h.pickTwin, h.pickTwin.updSeq.setF.cycleUpset]

/-! ### Sys2Proof/Machine/Debug.lean -/

theorem Keeps.execHaltreq {b} (h : Keeps s₀ s) : Completes s₀ (execHaltreq b s) := by
  refine Keeps.next ?_
  split
  exacts [h.setB.forwardReq, h.setB]

theorem Keeps.releaseBlock {c} (h : Keeps s₀ s) : Keeps s₀ (releaseBlock s c) :=
  h.unless fun h => h.endHush.clearResv.setB.setF.wdRelease

theorem Keeps.keepSuspended {b} (h : Keeps s₀ s) : Keeps s₀ (keepSuspended s b) := by
  unfold Machine.keepSuspended
  split
  exacts [h.unless fun h => h.forEach fun _ h => h.updSeq, h]

theorem Keeps.releaseHalt {b} (h : Keeps s₀ s) : Keeps s₀ (releaseHalt s b) := by
  refine .ite h (.resumeIdle ?_)
  split
  · exact (h.keepSuspended.forEach fun _ h => h.releaseBlock).sendAct
  · exact h.keepSuspended.forEach fun _ h => h.releaseBlock

theorem Keeps.execDbgRelease {b} (h : Keeps s₀ s) : Completes s₀ (execDbgRelease b s) := h.releaseHalt.next

theorem Keeps.execOpcode {op b w} (h : Keeps s₀ s) : Completes s₀ (execOpcode op b w s) := by
  unfold Machine.execOpcode
  split
  · exact h.execAdd
  · exact h.execSub
  · exact h.execAnd
  · exact h.execOr
  · exact h.execXor
  · exact h.execAndn
  · exact h.execShl
  · exact h.execShr
  · exact h.execSar
  · exact h.execRol
  · exact h.execMul
  · exact h.execMulh
  · exact h.execDiv
  · exact h.execRem
  · exact h.execCmp
  · exact h.execMin
  · exact h.execMax
  · exact h.execClz
  · exact h.execPopc
  · exact h.execSel
  · exact h.execAddi
  · exact h.execAndi
  · exact h.execOri
  · exact h.execXori
  · exact h.execShli
  · exact h.execShri
  · exact h.execSari
  · exact h.execCmpi
  · exact h.execLiz
  · exact h.execLik
  · exact h.execAdr
  · exact h.execLd
  · exact h.execLds
  · exact h.execSt
  · exact h.execLdr
  · exact h.execStc
  · exact h.execLdx
  · exact h.execStx
  · exact h.execBz
  · exact h.execBnz
  · exact h.execJ
  · exact h.execJr
  · exact h.execCall
  · exact h.execRet
  · exact h.execReti
  · exact h.execLoop
  · exact h.execLoopi
  · exact h.execRep
  · exact h.execRepr
  · exact h.execTrap
  · exact h.execBkpt
  · exact h.execWait
  · exact h.execFence
  · exact h.execMfc
  · exact h.execMtc
  · exact h.execDadj
  · exact h.execPadd
  · exact h.execPsub
  · exact h.execPcmp
  · exact h.execPmulD
  · exact h.execPshlD
  · exact h.execPcvt
  · exact h.execDadd
  · exact h.execDsub
  · exact h.execDmul
  · exact h.execDdiv
  · exact h.execDfma
  · exact h.execDqua
  · exact h.execDcmp
  · exact h.execDcvt
  · exact h.execAlog
  · exact h.execAmov
  · exact h.execAspl
  · exact h.execAact
  · exact h.execAtag
  · exact h.execAbrd
  · exact h.execAbcp
  · exact h.execAshf
  · exact h.execAadd
  · exact h.execAsub
  · exact h.execAneg
  · exact h.execAmul
  · exact h.execAdiv
  · exact h.execAcmp
  · exact h.execAaddg
  · exact h.execAsubg
  · exact h.execAcmpg
  · exact h.execAffs
  · exact h.execAenum
  · exact h.execAor
  · exact h.execAcnt
  · exact h.execAsum
  · exact h.execArds
  · exact h.execAbar
  · exact h.execAtld
  · exact h.execAtst
  · exact h.execAlut
  · exact h.execApadd
  · exact h.execApsub
  · exact h.execApmul
  · exact h.execApdiv
  · exact h.execApcmp
  · exact h.execApsrp
  · exact h.execApset
  · exact h.execApcvb
  · exact h.execApcvd
  · exact h.execAppack
  · exact h.execApunpk
  · exact h.execAdfadd
  · exact h.execAdfsub
  · exact h.execAdfmul
  · exact h.execAdfdiv
  · exact h.execAdffma
  · exact h.execAdfqua
  · exact h.execAdfcmp
  · exact h.execAdfcvt
  · exact h.execAldadd
  · exact h.execAldsub
  · exact h.execAldmul
  · exact h.execAlddiv
  · exact h.execAldcvt
  · exact h.execAldspl
  · exact h.execAldnrm
  · exact h.execAmvs
  · exact h.execAtrn
  · exact h.execAcmps
  · exact h.execAedit
  · exact h.branchOut (·.execCustomerInstruction) (·.execReservedOpcode)

theorem Completes.stateOf {o} (k : Completes s₀ o) : Keeps s₀ (stateOf s o) := by
  obtain ⟨t, rfl, ht⟩ := k
  exact ht

theorem Keeps.stepYield {b w} (h : Keeps s₀ s) : Keeps s₀ (stepYield s b w).1 := by
  unfold Machine.stepYield
  exact h.resumeIdle.execSafePointYield.stateOf.pair

theorem Keeps.stepOp {b} (h : Keeps s₀ s) : Keeps s₀ (stepOp s b) := by
  unfold Machine.stepOp
  exact (h.releaseHalt.updSeq.whenFst (·.stepYield)).prod (·.branch (·.endStep) (·.execOpcode.stateOf))

theorem Keeps.execDbgStep {b} (h : Keeps s₀ s) : Completes s₀ (execDbgStep b s) := (h.when (·.stepOp)).next

theorem Keeps.girthStopOne {n p} (h : Keeps s₀ s) : Keeps s₀ (girthStopOne s n p) := h.branch (·.forwardReq) (·.stopPart)

theorem Keeps.chipStopOne {n p} (h : Keeps s₀ s) : Keeps s₀ (chipStopOne s n p) :=
  h.branch (·.forwardReq) fun h => (h.forEach fun _ h => h.haltSeq).sendAct

theorem Keeps.girthStopScope {n} (h : Keeps s₀ s) : Keeps s₀ (girthStopScope s n) :=
  h.branch (fun h => h.set.forEach fun _ h => h.chipStopOne) fun h => h.forEach fun _ h => h.girthStopOne

theorem Keeps.girthFireOp {n} (h : Keeps s₀ s) : Keeps s₀ (girthFireOp s n) :=
  ((h.setF.setF.when (·.girthStopScope)).when (·.setF.cicRise)).when (·.tracePut)

theorem Keeps.girthTaken {n src} (h : Keeps s₀ s) : Keeps s₀ (girthTaken s n src) := h.set

theorem Keeps.execGirthFire {n src} (h : Keeps s₀ s) : Completes s₀ (execGirthFire n src s) :=
  (h.when (·.girthTaken.girthFireOp)).next

theorem Keeps.girthTrigOp {v} (h : Keeps s₀ s) : Keeps s₀ (girthTrigOp s v) := h.set

theorem Keeps.execGirthTrig {v} (h : Keeps s₀ s) : Completes s₀ (execGirthTrig v s) := h.girthTrigOp.next

theorem Keeps.girthReleaseOp {v} (h : Keeps s₀ s) : Keeps s₀ (girthReleaseOp s v) := h.forEach fun _ h => h.freePart

theorem Keeps.execGirthRelease {v} (h : Keeps s₀ s) : Completes s₀ (execGirthRelease v s) := h.girthReleaseOp.next

theorem Keeps.girthRelchipOp (h : Keeps s₀ s) : Keeps s₀ (girthRelchipOp s) :=
  h.unless fun h => h.set.forEach fun _ h => h.freePart.forEach fun _ h => h.when (·.wdReload)

theorem Keeps.execGirthRelchip (h : Keeps s₀ s) : Completes s₀ (execGirthRelchip s) := h.girthRelchipOp.next

theorem Keeps.wdStart {b} (h : Keeps s₀ s) : Keeps s₀ (wdStart s b) := h.setF

theorem Keeps.wdExpire {b} (h : Keeps s₀ s) : Keeps s₀ (wdExpire s b) :=
  h.bicSet.forwardIrqs.wdStart.setF.when (·.girthRaise)

theorem Keeps.wdCfgWrite {b m v} (h : Keeps s₀ s) : Keeps s₀ (wdCfgWrite s b m v) := h.writePlain.when (·.wdStart)

theorem Keeps.execWdEnable {b v} (h : Keeps s₀ s) : Completes s₀ (execWdEnable b v s) := h.wdCfgWrite.next

theorem Keeps.wdKickOp {b} (h : Keeps s₀ s) : Keeps s₀ (wdKickOp s b) :=
  h.unless fun h => (h.when (·.wdExpire)).branch (·.wdExpire) (·.wdStart.setF)

theorem Keeps.execWdKick {b} (h : Keeps s₀ s) : Completes s₀ (execWdKick b s) := h.wdKickOp.next

theorem Keeps.execWdExpiry {b} (h : Keeps s₀ s) : Completes s₀ (execWdExpiry b s) := (h.when (·.wdExpire)).next

theorem Keeps.timerWrite {b n m v} (h : Keeps s₀ s) : Keeps s₀ (timerWrite s b n m v) := h.writePlain.when (·.setF)

theorem Keeps.execTimerStart {b n v} (h : Keeps s₀ s) : Completes s₀ (execTimerStart b n v s) := h.timerWrite.next

theorem Keeps.execTimerExpiry {b n} (h : Keeps s₀ s) : Completes s₀ (execTimerExpiry b n s) :=
  (h.when (·.bicSet.forwardIrqs.branch (·.setF) (·.setB))).next

theorem Keeps.tickDown {a en rem fz b cnt} (h : Keeps s₀ s) : Keeps s₀ (tickDown s a en rem fz b cnt) := h.when (·.setF)

theorem Keeps.sendTimes (h : Keeps s₀ s) : Keeps s₀ (sendTimes s) := h.when fun h => h.foldl fun _ h => h.sendTime

theorem Keeps.tick (h : Keeps s₀ s) : Keeps s₀ (tick s) :=
  h.whTick.unless fun h => h.branch (·.set) fun h => (h.foldl fun _ h => h.unless (·.branch (·.tickDown) (·.when
    (·.tickDown)))).set.sendTimes.forwardIrqs.showEdges

theorem Keeps.awlAnswer {ack data} (h : Keeps s₀ s) : Keeps s₀ (awlAnswer s ack data) := h.wellhead.emit

theorem Keeps.awlSend {rd consume key a v} (h : Keeps s₀ s) : Keeps s₀ (awlSend s rd consume key a v) := h.sendReq.set

theorem Keeps.awlRead {consume key a par} (h : Keeps s₀ s) : Keeps s₀ (awlRead s consume key a par) := by
  refine .ite h.awlAnswer (.ite h.awlAnswer ?_)
  split
  · exact h.awlSend.awlAnswer
  · refine .ite ?_ h.awlAnswer
    split
    exacts [h.set.awlAnswer, h.awlAnswer]

theorem Keeps.execQread {key a par} (h : Keeps s₀ s) : Completes s₀ (execQread key a par s) := h.awlRead.next

theorem Keeps.execCread {key a par} (h : Keeps s₀ s) : Completes s₀ (execCread key a par s) := h.awlRead.next

theorem Keeps.execAwlWrite {key a v par} (h : Keeps s₀ s) : Completes s₀ (execAwlWrite key a v par s) :=
  (h.branch (·.awlAnswer) (·.branch (·.awlAnswer) (·.branch (·.awlAnswer) (·.awlSend.awlAnswer)))).next

theorem Keeps.awlAbortOp (h : Keeps s₀ s) : Keeps s₀ (awlAbortOp s) := h.set

theorem Keeps.execAwlAbort (h : Keeps s₀ s) : Completes s₀ (execAwlAbort s) := h.awlAbortOp.next

theorem Keeps.execPread {a par} (h : Keeps s₀ s) : Completes s₀ (execPread a par s) :=
  (h.branch (·.awlAnswer) (·.branch (·.awlAnswer) (·.branch (·.awlAnswer) (·.takeFree.awlAnswer)))).next

theorem Keeps.execPwrite {a v par} (h : Keeps s₀ s) : Completes s₀ (execPwrite a v par s) :=
  (h.branch (·.awlAnswer) fun h => h.branch (·.awlAnswer) fun h => h.branch (·.awlAnswer) fun h => (h.set.when
    (·.awlAbortOp)).awlAnswer).next

theorem Keeps.awlResponse {id status data} (h : Keeps s₀ s) : Keeps s₀ (awlResponse s id status data) := by
  unfold Machine.awlResponse
  split
  exacts [h.unless (·.branch (·.set) (·.branch (·.set) (·.set))), h]

theorem Keeps.execStitchPortWrite {b k v credit} (h : Keeps s₀ s) : Completes s₀ (execStitchPortWrite b k v credit s) :=
  h.stitchOp.next

theorem Keeps.traceLost (h : Keeps s₀ s) : Keeps s₀ (traceLost s) := h.addSat.setB.cicRise.warnOp

theorem Keeps.traceStore {w p} (h : Keeps s₀ s) : Keeps s₀ (traceStore s w p) := h.branch (·.when (·.emit)) (·.sendReq)

theorem Keeps.execTracePacket {p} (h : Keeps s₀ s) : Completes s₀ (execTracePacket p s) :=
  (h.unless (·.branch (·.traceLost) (·.traceStore.setF.unless (·.branch (·.setB) (·.setB))))).next

theorem Keeps.execWarning {code u credit} (h : Keeps s₀ s) : Completes s₀ (execWarning code u credit s) :=
  (h.unless (·.warnOp)).next

theorem Keeps.execSpillwayWindowEnd (h : Keeps s₀ s) : Completes s₀ (execSpillwayWindowEnd s) := h.rollSpill.next

/-! ### Sys2Proof/Machine/Security.lean -/

theorem Keeps.flashPut {a v} (h : Keeps s₀ s) : Keeps s₀ (flashPut s a v) := h.set

theorem Keeps.flashProgram {a bs} (h : Keeps s₀ s) : Keeps s₀ (flashProgram s a bs) := by
  unfold Machine.flashProgram
  induction bs generalizing a s with
  | nil => exact h
  | cons v bs ih => exact ih h.flashPut

theorem Keeps.flashReplace {a bs} (h : Keeps s₀ s) : Keeps s₀ (flashReplace s a bs) := by
  unfold Machine.flashReplace
  induction bs generalizing a s with
  | nil => exact h
  | cons v bs ih => exact ih h.flashPut

theorem Keeps.flashErase {a n} (h : Keeps s₀ s) : Keeps s₀ (flashErase s a n) := h.set

theorem Keeps.bundleApply {p src} (h : Keeps s₀ s) : Keeps s₀ (bundleApply s p src) :=
  h.set.setF.setF.forEach fun _ h => h.setF

theorem Keeps.showFuses (h : Keeps s₀ s) : Keeps s₀ (showFuses s) := h.setB.setF.setF.setF.setF.setF.setF

theorem Keeps.setFuses {f} (h : Keeps s₀ s) : Keeps s₀ (setFuses s f) := h.set.showFuses

theorem Keeps.freshNonce (h : Keeps s₀ s) : Keeps s₀ (freshNonce s) := h.takeFree.forEach fun _ h => h.setRg

theorem Keeps.mbxGo {cmd} (h : Keeps s₀ s) : Keeps s₀ (mbxGo s cmd) := h.unless (·.setF.setB.setB.set)

theorem Keeps.mbxRow {i cmd} (h : Keeps s₀ s) : Keeps s₀ (mbxRow i cmd s) := h.when (·.mbxGo)

theorem Keeps.execOwnerLock {i} (h : Keeps s₀ s) : Completes s₀ (execOwnerLock i s) := h.mbxRow.next

theorem Keeps.execOwnerTransfer {i} (h : Keeps s₀ s) : Completes s₀ (execOwnerTransfer i s) := h.mbxRow.next

theorem Keeps.execRaiseFloor {i} (h : Keeps s₀ s) : Completes s₀ (execRaiseFloor i s) := h.mbxRow.next

theorem Keeps.execRevokeVkey {i} (h : Keeps s₀ s) : Completes s₀ (execRevokeVkey i s) := h.mbxRow.next

theorem Keeps.execFlashErase {i} (h : Keeps s₀ s) : Completes s₀ (execFlashErase i s) := h.mbxRow.next

theorem Keeps.execFlashProgram {i} (h : Keeps s₀ s) : Completes s₀ (execFlashProgram i s) := h.mbxRow.next

theorem Keeps.execFlashRead {i} (h : Keeps s₀ s) : Completes s₀ (execFlashRead i s) := h.mbxRow.next

theorem Keeps.burnOwner {key} (h : Keeps s₀ s) : Keeps s₀ (burnOwner s key) := by
  unfold Machine.burnOwner
  extract_lets
  split
  · exact h
  · extract_lets
    split
    exacts [h.set.setFuses.setB.when (·.flashReplace)]

theorem Keeps.mbxCut {cmd bs} (h : Keeps s₀ s) : Keeps s₀ (mbxCut s cmd bs) := by
  unfold Machine.mbxCut
  extract_lets
  split
  · exact h.takeFree.setFuses
  · exact h.takeFree.unless (·.setFuses)
  · exact h.takeFree.flashErase
  · exact h.takeFree.flashProgram
  · split
    exacts [h.takeFree, h.takeFree.setFuses]

theorem Keeps.mbxEffect {cmd bs} (h : Keeps s₀ s) : Keeps s₀ (mbxEffect s cmd bs) := by
  unfold Machine.mbxEffect
  extract_lets
  split
  exacts [h.setFuses, h.setFuses, h.flashErase, h.flashProgram, h.writeDigits, h.burnOwner]

theorem Keeps.execMailboxCommandDone (h : Keeps s₀ s) : Completes s₀ (execMailboxCommandDone s) := by
  refine Keeps.next ?_
  split
  · exact h
  · exact ((h.set.unless (·.branch (·.mbxCut) (·.mbxEffect))).when (·.freshNonce)).setF.setB.setB.setB.cicRise

/-! ### Sys2Proof/Machine/Saddlebag.lean -/

theorem Keeps.setSbState {v} (h : Keeps s₀ s) : Keeps s₀ (setSbState s v) := h.setF

theorem Keeps.showLife {c} (h : Keeps s₀ s) : Keeps s₀ (showLife s c) := h.setRg.setF.setF

theorem Keeps.sbEvent {f} (h : Keeps s₀ s) : Keeps s₀ (sbEvent s f) := h.setB.cicRise

theorem Keeps.wear {c n} (h : Keeps s₀ s) (k : s₀.memWf = true → c.memWf = true) : Keeps s₀ (wear s c n) := by
  refine .when (.when (.showLife (h.setCart fun w => Cart.memWf_some ?_)) (·.setSbState)) (·.sbEvent)
  exact Cart.memWf_of_slots (k w) rfl

theorem State.memWf_cartOf {s : State} (h : s.memWf = true) (c : CartId) : (cartOf s c).memWf = true := by
  unfold cartOf
  split
  next k e =>
    have hk : k.memWf = true := State.memWf_shelf h k (List.mem_of_find?_eq_some e)
    exact hk
  · rfl

theorem Keeps.insertOp {c} (h : Keeps s₀ s) : Keeps s₀ (insertOp s c) := by
  refine .when (.bindCart (.showLife (.setSbState (.setRg (.setRg (.setB (.setF (h.setCarts ?_ ?_)))))))) (·.sbEvent)
  · exact fun _ w => Cart.memWf_some (State.memWf_cartOf w c)
  · exact fun _ w x hx => State.memWf_shelf w x (List.mem_of_mem_filter hx)

theorem Keeps.execCartridgeInsert {c} (h : Keeps s₀ s) : Completes s₀ (execCartridgeInsert c s) :=
  (h.unless (·.insertOp.sbEvent)).next

theorem Cart.memWf_dropSlot {c : Cart} (h : c.memWf = true) (o : CkptOp) : (dropSlot c o).memWf = true :=
  (Cart.memWf_iff _).mpr fun e he => c.memWf_iff.mp h e (mem_mapErase he)

theorem Keeps.execCartridgeRemove (h : Keeps s₀ s) : Completes s₀ (execCartridgeRemove s) := by
  refine Keeps.next ?_
  split
  · exact h
  next c e =>
    extract_lets c1 op _ s1
    have hc (w : s.memWf = true) : c1.memWf = true := by
      have wc := State.memWf_cart w e
      unfold c1
      split
      · split
        exacts [wc, Cart.memWf_dropSlot wc _]
      · exact wc
    clear_value c1
    have h1 : Keeps s₀ s1 := h.setCarts (fun _ _ _ hx => absurd hx (Option.not_mem_none _)) fun _ w x hx =>
      (List.mem_append.mp hx).elim (State.memWf_shelf w x) fun hx => List.mem_singleton.mp hx ▸ hc w
    clear_value s1
    exact h1.setSbState.setF.setB.setB.setF.setRg.setRg.setRg.setF.sbEvent

theorem Keeps.adoptOp (h : Keeps s₀ s) : Keeps s₀ (adoptOp s) := by
  unfold Machine.adoptOp
  split
  next e =>
    refine .ite h (.setSbState (h.setCart fun w => Cart.memWf_some ?_))
    exact Cart.memWf_of_slots (State.memWf_cart (h.memWf w) e) rfl
  · exact h

theorem Keeps.execAdopt (h : Keeps s₀ s) : Completes s₀ (execAdopt s) := h.adoptOp.next

theorem Keeps.execJournalWrite (h : Keeps s₀ s) : Completes s₀ (execJournalWrite s) := by
  refine Keeps.next ?_
  split
  next c _ ec =>
    refine .ite h.wakeDom (.ite h ?_)
    extract_lets j c1 n _ s1
    have hc (w : s.memWf = true) : c1.memWf = true := by
      have wc := State.memWf_cart w ec
      unfold c1
      split <;> exact Cart.memWf_of_slots wc rfl
    have h1 : Keeps s₀ s1 := h.setSb
    clear_value c1 s1
    exact h1.setF.wear fun w => hc (h.memWf w)
  · exact h

theorem Keeps.ckptEnd {st} (h : Keeps s₀ s) : Keeps s₀ (ckptEnd s st) := (h.setF.setB.unless (·.setB)).setB.cicRise

theorem Keeps.ckptBegin {restore slot} (h : Keeps s₀ s) : Keeps s₀ (ckptBegin s restore slot) :=
  h.branch (·.ckptEnd) (·.setSb.setB)

theorem Keeps.ckptSaveOp (h : Keeps s₀ s) : Keeps s₀ (ckptSaveOp s) := h.unless (·.setSb.setB.ckptBegin)

theorem Keeps.execCkptSave (h : Keeps s₀ s) : Completes s₀ (execCkptSave s) := h.ckptSaveOp.next

theorem Keeps.ckptRestoreOp (h : Keeps s₀ s) : Keeps s₀ (ckptRestoreOp s) := h.unless (·.setB.ckptBegin)

theorem Keeps.execCkptRestore (h : Keeps s₀ s) : Completes s₀ (execCkptRestore s) := h.ckptRestoreOp.next

theorem Keeps.execCkptPeriodicStart (h : Keeps s₀ s) : Completes s₀ (execCkptPeriodicStart s) := by
  refine Keeps.next ?_
  split
  exacts [h, h.unless (·.setSb.unless (·.ckptBegin))]

theorem State.memWf_restoredSnap {s : State} (h : s.memWf = true) (n : Nat) {k : CartSlot} (hk : k.snap.memWf = true) :
    (restoredSnap s n k).memWf = true :=
  mapWf_over (fun _ => 0) _ hk (mapWf_drop (fun _ => 0) _ (State.memWf_takeSnap h n))

theorem Keeps.restoreSlot {n k} (h : Keeps s₀ s) (hk : s₀.memWf = true → k.snap.memWf = true) :
    Keeps s₀ (restoreSlot s n k) := by
  have hc := fun w => State.memWf_restoredSnap (h.memWf w) n (hk w)
  exact ((h.restoreSnap hc).updEpoch fun w _ _ =>
    (Epoch.memWf_iff _).mpr ⟨Snap.memWf_some (hc w), Snap.memWf_none⟩).resumePart

theorem Cart.memWf_slot {c : Cart} (h : c.memWf = true) (k : Nat) : (mapGet ({} : CartSlot) k c.slots).snap.memWf = true := by
  rcases mapGet_mem ({} : CartSlot) k c.slots with hd | hm
  · rw [hd]; rfl
  · exact c.memWf_iff.mp h _ hm

theorem Cart.memWf_putSlot {c : Cart} (h : c.memWf = true) {x : CartSlot} (hx : x.snap.memWf = true) (k : Nat) :
    Cart.memWf { c with slots := mapPut k x c.slots } = true := by
  refine (Cart.memWf_iff _).mpr fun e he => ?_
  rcases mem_mapPut he with rfl | he
  exacts [hx, c.memWf_iff.mp h e he]

theorem Snap.memWf_savedPart {c : Snap} (h : c.memWf = true) (mems : Bool) : (savedPart c mems).memWf = true :=
  mapWf_only (fun _ => 0) (fun k => mems && blockMem (2 * k)) h

theorem Keeps.execCkptDone {media} (h : Keeps s₀ s) : Completes s₀ (execCkptDone media s) := by
  refine Keeps.next ?_
  split
  · exact h
  next o _ =>
    extract_lets _ s1 st s2 s3 s4
    have h2 : Keeps s₀ s2 := h.setSb.when (·.setSbState.sbEvent)
    clear_value s2 st
    have h3 : Keeps s₀ s3 := by
      unfold s3
      split
      · exact h2
      next c e =>
        have hc := fun w => State.memWf_cart (h2.memWf w) e
        refine .ite (h2.when (·.restoreSlot fun w => Cart.memWf_slot (hc w) _)) (.ite (h2.setCart fun w => ?_) ?_)
        · exact Cart.memWf_some (Cart.memWf_dropSlot (hc w) _)
        · split
          · exact h2
          next p e =>
            exact h2.wear fun w => Cart.memWf_putSlot (hc w) (Snap.memWf_savedPart (State.memWf_com (h2.memWf w) e) _) _
    clear_value s3
    exact h3.ckptEnd.when (·.requestBoundary)

/-! ### Sys2Proof/Machine/Rein.lean -/

theorem Keeps.portFails {p cause} (h : Keeps s₀ s) : Keeps s₀ (portFails s p cause) :=
  h.setPort.setB.cicRise.when (·.concealmentLost.fromLead.unless (·.toLead))

theorem Keeps.laneSet {p f} (h : Keeps s₀ s) (e : laneSet s p f = some t) : Keeps s₀ t := by
  unfold Machine.laneSet at e
  split at e
  · cases e
  · cases e; exact h.setRg

theorem Keeps.lanesFail {p f} (h : Keeps s₀ s) : Keeps s₀ (lanesFail s p f) := by
  unfold Machine.lanesFail
  extract_lets
  split
  · exact (h.foldl fun _ h => h.setF).portFails
  next e => exact (((h.laneSet e).when (·.setB)).when (·.setPort.setB)).unless (·.addSat.warnOp)

theorem Keeps.execReinLaneFailure {p f} (h : Keeps s₀ s) : Completes s₀ (execReinLaneFailure p f s) :=
  (h.unless (·.addSat.unless (·.lanesFail))).next

theorem Keeps.execReinPartnerDetected {p lat clockOk lanes} (h : Keeps s₀ s) :
    Completes s₀ (execReinPartnerDetected p lat clockOk lanes s) := by
  refine Keeps.next (h.unless fun h => h.setF.branch (·.portFails) fun h => ?_)
  extract_lets f
  split
  · exact (h.foldl fun _ h => h.setF).portFails
  next e => exact ((h.laneSet e).when (·.setB)).setPort.sendIdent

theorem Keeps.execIdent {p m} (h : Keeps s₀ s) : Completes s₀ (execIdent p m s) :=
  (h.unless (·.setF.setB.set.judgeIdent)).next

theorem Keeps.execVerified {dev} (h : Keeps s₀ s) : Completes s₀ (execVerified dev s) := by
  refine Keeps.next ?_
  split
  exacts [h.set, h.branch (·.set) (·.unless (·.branch (·.viaStaged) (·.leadReleases)))]

theorem Keeps.execRelease {t'} (h : Keeps s₀ s) : Completes s₀ (execRelease t' s) := by
  refine Keeps.next ?_
  split
  exacts [h, h.unless (·.viaStaged.set.setPhase)]

theorem Keeps.cascadeFail {L dev} (h : Keeps s₀ s) : Keeps s₀ (cascadeFail s L dev) := by
  unfold Machine.cascadeFail
  exact h.dropParts.reportRej.viaStaged

theorem Keeps.execCascadeLoadAbort {dev} (h : Keeps s₀ s) : Completes s₀ (execCascadeLoadAbort dev s) := by
  refine Keeps.next ?_
  split
  exacts [h.set, h.unless (·.cascadeFail)]

theorem Keeps.execCascadeLoadTimeout {dev} (h : Keeps s₀ s) : Completes s₀ (execCascadeLoadTimeout dev s) := by
  refine Keeps.next ?_
  split
  exacts [h, h.unless (·.branch (·.when (·.cascadeFail)) (·.viaStaged.cascadeFail))]

theorem Keeps.runFrame {b r} (h : Keeps s₀ s) : Keeps s₀ (runFrame s b r) := by
  unfold Machine.runFrame
  exact h.updSeq.execOpcode.stateOf

theorem Keeps.startFrame {b m} (h : Keeps s₀ s) : Keeps s₀ (startFrame s b m) :=
  h.unless (·.branch (·.setMicro) (·.runFrame))

theorem Keeps.yieldFrame {b m step cause} (h : Keeps s₀ s) : Keeps s₀ (yieldFrame s b m step cause) := by
  unfold Machine.yieldFrame
  split
  exacts [h.unless (·.branch (·.yieldMicro) (·.updSeq)), h.yieldAs]

theorem Keeps.actHere {n b m} (h : Keeps s₀ s) : Keeps s₀ (actHere s n b m) := by
  unfold Machine.actHere
  split
  · exact h.startFrame
  · exact h.yieldFrame
  · exact h.resumeOp
  · split
    exacts [h.when (·.runFrame), h]
  · exact h.abandonHere
  · exact h.clearHaltReq.haltGang
  · exact h.releaseHalt
  · exact h.girthStop
  · exact h.freePart
  · exact h.when (·.set.when (·.bicDeliver))

theorem Keeps.execDispatchFrame {m} (h : Keeps s₀ s) : Completes s₀ (execDispatchFrame m s) :=
  (h.unless (·.sendDisp.actHere)).next

theorem Keeps.execForwardedRequest {dev r} (h : Keeps s₀ s) : Completes s₀ (execForwardedRequest dev r s) := by
  refine Keeps.next (.ite h (.ite h.toLead ?_))
  split
  exacts [h.abandonAll, h.set, h.setB, h.askBoundary, h.stopPart]

theorem Keeps.execEdgeFrame {p m} (h : Keeps s₀ s) : Completes s₀ (execEdgeFrame p m s) := by
  refine Keeps.next (.ite h (.ite ?_ h.set))
  split
  exacts [h.sendFrames, h]

theorem Keeps.execOrcPartial {slot m} (h : Keeps s₀ s) : Completes s₀ (execOrcPartial slot m s) :=
  (h.unless fun h => h.branch (fun h => h.unless fun h => h.set.foldl fun _ h => h.sendOrc) (·.set.sendPartial)).next

theorem Keeps.presentTransit {p o rid addr len wr key data} (h : Keeps s₀ s) :
    Keeps s₀ (presentTransit s p o rid addr len wr key data) :=
  h.presentAll

theorem Keeps.execTunnelledRequest {p m} (h : Keeps s₀ s) : Completes s₀ (execTunnelledRequest p m s) := by
  refine Keeps.next (.ite h ?_)
  extract_lets
  split
  · refine .ite (h.branch (·.emit) (·.sendFor.set)) ?_
    split
    exacts [h.branch (·.set.presentTransit.emit.set) (·.emit), h.emit]
  · split
    · exact h.set.emit
    · split
      exacts [h.respond, h]

theorem Keeps.execTimebaseFirstSetting {lead lat} (h : Keeps s₀ s) : Completes s₀ (execTimebaseFirstSetting lead lat s) :=
  (h.unless fun h => h.set.setB.foldl fun _ h => h.sendTime).next

theorem Keeps.execTimebaseComparison {lead} (h : Keeps s₀ s) : Completes s₀ (execTimebaseComparison lead s) :=
  (h.unless (·.fromLead.setF.unless (·.setB.warnOp.branch (·.set) (·.set)))).next

/-! ### Sys2Proof/Machine/Pins.lean -/

theorem Keeps.girthPin {i} (h : Keeps s₀ s) : Keeps s₀ (girthPin s i) := h.set

theorem Keeps.pinEdge {i} (h : Keeps s₀ s) : Keeps s₀ (pinEdge s i) := h.cicSet.cicOutside.girthPin

theorem Keeps.execGpioEdge {n level} (h : Keeps s₀ s) : Completes s₀ (execGpioEdge n level s) :=
  (h.unless (·.setF.wellhead.when (·.pinEdge))).next

theorem Keeps.pinWrite {i n m v} (h : Keeps s₀ s) : Keeps s₀ (pinWrite s i n m v) := h.when (·.writePlain)

theorem Keeps.execGpioConfigWrite {i n v} (h : Keeps s₀ s) : Completes s₀ (execGpioConfigWrite i n v s) := h.pinWrite.next

/-! ### Sys2Proof/Machine/Queue.lean -/

theorem Keeps.flushMsix {f} (h : Keeps s₀ s) : Keeps s₀ (flushMsix s f) := h.set.foldl fun _ h => h.sendMsix

theorem Keeps.msixWrite {f v i x} (h : Keeps s₀ s) : Keeps s₀ (msixWrite s f v i x) := h.set.flushMsix

theorem Keeps.execMsixUnmask {f v} (h : Keeps s₀ s) : Completes s₀ (execMsixUnmask f v s) := (h.when (·.msixWrite)).next

theorem Keeps.retireQueue {f q} (h : Keeps s₀ s) : Keeps s₀ (retireQueue s f q) := by
  refine h.setEpochs fun _ w e he => ?_
  obtain ⟨x, hx, rfl⟩ := List.mem_map.mp he
  exact Epoch.memWf_map (State.memWf_epochs w hx) rfl rfl (fun _ w => w) fun _ w => w

theorem Keeps.queueOff {f q} (h : Keeps s₀ s) : Keeps s₀ (queueOff s f q) :=
  (h.set.foldl fun _ h => h.dropCmd).setQueue.retireQueue.endOrderFences

theorem Keeps.qcfgWrite {f q m v} (h : Keeps s₀ s) : Keeps s₀ (qcfgWrite s f q m v) :=
  h.writePlain.branch (·.setRg.setRg.setQueue) (·.when (·.queueOff))

theorem Keeps.execQueueEnable {f q v} (h : Keeps s₀ s) : Completes s₀ (execQueueEnable f q v s) := h.qcfgWrite.next

theorem Keeps.badDoorbell {f q} (h : Keeps s₀ s) : Keeps s₀ (badDoorbell s f q) := h.setB.setB.when (·.queueOff)

theorem Keeps.sqTailOp {f q v} (h : Keeps s₀ s) : Keeps s₀ (sqTailOp s f q v) :=
  h.setRg.wellhead.branch (·.badDoorbell) (·.when (·.set.setQueue))

theorem Keeps.cqHeadOp {f q v} (h : Keeps s₀ s) : Keeps s₀ (cqHeadOp s f q v) :=
  h.setRg.branch (·.badDoorbell) (·.when (·.setQueue))

theorem Keeps.execSqTailDoorbell {f q v} (h : Keeps s₀ s) : Completes s₀ (execSqTailDoorbell f q v s) := h.sqTailOp.next

theorem Keeps.execCqHeadWrite {f q v} (h : Keeps s₀ s) : Completes s₀ (execCqHeadWrite f q v s) := h.cqHeadOp.next

theorem Keeps.hostRead {f p addr len} (h : Keeps s₀ s) : Keeps s₀ (hostRead s f p addr len) := h.hostReadAs

theorem Keeps.execCommandFetch {f q} (h : Keeps s₀ s) : Completes s₀ (execCommandFetch f q s) :=
  (h.unless (·.setQueue.set.hostRead)).next

theorem Keeps.popStamp {f q} (h : Keeps s₀ s) : Keeps s₀ (popStamp s f q) := h.setQueue

theorem Keeps.takeCommand {f q c} (h : Keeps s₀ s) : Keeps s₀ (takeCommand s f q c) :=
  (h.when (·.popStamp)).set.unless (·.complete)

theorem Keeps.cmdStart {f q c opc} (h : Keeps s₀ s) (e : cmdStart s f q c opc = some t) : Keeps s₀ t := by
  unfold Machine.cmdStart at e
  extract_lets mine ord at e
  split at e
  · cases e
  split at e
  · extract_lets earlier at e
    split at e
    · cases e
    · cases e
      exact h.set
  · split at e
    · cases e
    · cases e
      exact h.set

theorem Keeps.writeCompl {c} (h : Keeps s₀ s) : Keeps s₀ (writeCompl s c) := h.emit.setQueue.set.dropCmd

theorem Keeps.sendVector {f q} (h : Keeps s₀ s) : Keeps s₀ (sendVector s f q) := h.when (·.sendMsix)

theorem Keeps.postTo {c} (h : Keeps s₀ s) : Keeps s₀ (postTo s c) := h.writeCompl.sendVector.endOrderFences

theorem Keeps.execCompletionPost {f q} (h : Keeps s₀ s) : Completes s₀ (execCompletionPost f q s) := by
  refine Keeps.next ?_
  split
  exacts [h, h.branch (·.set.dropCmd.endOrderFences) (·.when (·.postTo))]

theorem Keeps.postAll {k n} (h : Keeps s₀ s) : Keeps s₀ (postAll k n s).1 := by
  induction n generalizing s with
  | zero => exact h
  | succ n ih =>
    unfold Machine.postAll
    split
    · exact h
    · exact h.unlessFst fun h => ih h.writeCompl

/-! ### Sys2Proof/Machine/Regwrite.lean -/

theorem Keeps.hiExitOp {b code} (h : Keeps s₀ s) : Keeps s₀ (hiExitOp s b code) := h.unless (·.updSeq.unless (·.takeExit))

theorem Keeps.execHiExit {b code} (h : Keeps s₀ s) : Completes s₀ (execHiExit b code s) := h.hiExitOp.next

theorem Keeps.dmaCtrlWrite {b ch m v} (h : Keeps s₀ s) : Keeps s₀ (dmaCtrlWrite s b ch m v) :=
  h.writePlain.unless (·.branch (·.dmaEnableOp) (·.when (·.dmaDisableOp)))

theorem Keeps.dbgCtrlWrite {b m v} (h : Keeps s₀ s) : Keeps s₀ (dbgCtrlWrite s b m v) := by
  unfold Machine.dbgCtrlWrite
  exact h.writePlain.unless fun h => ((h.when (·.releaseHalt)).when (·.execDbgStep.stateOf)).when (·.execHaltreq.stateOf)

theorem Keeps.blockWrite {i b o m v} (h : Keeps s₀ s) : Keeps s₀ (blockWrite s i b o m v) :=
  h.branch (·.when (·.writePlain)) (·.branch (·.when (·.writePlain)) (·.branch (·.dbgCtrlWrite) (·.branch (·.wdCfgWrite)
    (·.branch (·.when (·.wdKickOp)) (·.branch (·.timerWrite) (·.branch (·.stitchOp) (·.branch (·.writePlain.when
    (·.abandonAll)) (·.branch (·.dmaCtrlWrite) (·.branch (·.dmaCtrlWrite) (·.branch (·.bicPendSetOp) (·.branch
    (·.bicPendClrOp) (·.branch (·.bicMaskSetOp) (·.branch (·.bicMaskClrOp) (·.branch (·.bicEoiOp)
    (·.writePlain)))))))))))))))

theorem Keeps.breqOp {n} (h : Keeps s₀ s) : Keeps s₀ (breqOp s n) := h.branch (·.forwardReq) (·.askBoundary)

theorem Keeps.imgCtrlWrite {m v} (h : Keeps s₀ s) : Keeps s₀ (imgCtrlWrite s m v) := h.writePlain.when (·.imgGoOp)

theorem Keeps.cicWrite {i o m v} (h : Keeps s₀ s) : Keeps s₀ (cicWrite s i o m v) := by
  refine .ite h.cicPendSetOp (.ite h.cicPendClrOp (.ite h.cicMaskSetOp (.ite h.cicMaskClrOp (.ite h.cicEoiOp (.ite
    h.cicRouteOp ?_)))))
  split
  exacts [h, h, h, h.writePlain]

theorem Keeps.pcDomWrite {i d m v} (h : Keeps s₀ s) : Keeps s₀ (pcDomWrite s i d m v) :=
  h.unless (·.setRg.unless (·.when (·.powerOp)))

theorem Keeps.girthCmdWrite {x} (h : Keeps s₀ s) : Keeps s₀ (girthCmdWrite s x) :=
  ((h.when (·.girthRelchipOp)).unless (·.girthReleaseOp)).unless (·.girthTrigOp)

theorem Keeps.sbCkptWrite {m v} (h : Keeps s₀ s) : Keeps s₀ (sbCkptWrite s m v) :=
  h.writePlain.unless (·.branch (·.ckptRestoreOp) (·.ckptSaveOp))

theorem Keeps.queueWrite {o m v} (h : Keeps s₀ s) : Keeps s₀ (queueWrite s o m v) :=
  h.branch (·.qcfgWrite) (·.branch (·.sqTailOp) (·.branch (·.cqHeadOp) (·.writePlain)))

theorem Keeps.msStatWrite {m v} (h : Keeps s₀ s) : Keeps s₀ (msStatWrite s m v) :=
  h.writePlain.branch (·.set) (·.unless (·.set))

theorem Keeps.chipWrite {i k o m v} (h : Keeps s₀ s) : Keeps s₀ (chipWrite s i k o m v) := by
  refine .ite h.pinWrite (.ite h.imgCtrlWrite (.ite h.cicWrite (.ite h.whTmrWrite (.ite (h.when (·.writePlain)) (.ite
    (h.writePlain.when (·.tdivOp)) (.ite h.pcDomWrite (.ite (h.unless (·.writePlain.when (·.mbxGo))) (.ite h.msStatWrite
    (.ite (h.when (·.adoptOp)) (.ite h.sbCkptWrite (.ite h.queueWrite (.ite ?_ (.ite h.girthCmdWrite (.ite ?_ (h.branch
    (·.writePlain.when (·.breqOp)) (·.branch (·.kuWrite) (·.branch (·.when (·.writePlain)) (·.writePlain))))))))))))))))))
  · split
    exacts [h.hiExitOp, h]
  · split
    exacts [h.when (·.writePlain), h]

theorem Keeps.regWrite {i k a m v} (h : Keeps s₀ s) : Keeps s₀ (regWrite s i k a m v) :=
  h.unless (·.branch (·.blockWrite) (·.branch (·.chipWrite) (·.writePlain)))

theorem Keeps.execRegisterWrite {i a mask v} (h : Keeps s₀ s) : Completes s₀ (execRegisterWrite i a mask v s) :=
  h.regWrite.next

theorem Keeps.execEpochBreq {n} (h : Keeps s₀ s) : Completes s₀ (execEpochBreq n s) := h.breqOp.next

/-! ### Sys2Proof/Machine/HostMem.lean -/

theorem Keeps.aerReport {f kind wr addr} (h : Keeps s₀ s) : Keeps s₀ (aerReport s f kind wr addr) :=
  (h.unless fun h => h.setCfg.foldl fun _ h => h.setCfg).setCfg.emit

theorem Keeps.hostErr {f wr st addr} (h : Keeps s₀ s) : Keeps s₀ (hostErr s f wr st addr) := h.setRg.aerReport

theorem Keeps.hostReq {f wr addr len data p} (h : Keeps s₀ s) : Keeps s₀ (hostReq s f wr addr len data p) := h.sendReq.set

theorem Keeps.copyNext {f q c off} (h : Keeps s₀ s) : Keeps s₀ (copyNext s f q c off) :=
  h.branch (·.complete) (·.branch (·.complete) (·.branch (·.hostReq) (·.hostRead)))

theorem Keeps.copyData {f q c off bs} (h : Keeps s₀ s) : Keeps s₀ (copyData s f q c off bs) := h.hostReq

theorem Keeps.copyResp {f q c off n st data} (h : Keeps s₀ s) : Keeps s₀ (copyResp s f q c off n st data) :=
  h.branch (·.complete) (·.branch (·.copyNext) (·.branch (·.complete) (·.emit.copyNext)))

theorem Keeps.readDone {g r} (h : Keeps s₀ s) : Keeps s₀ (readDone s g r) := h.branch (·.set) (·.set.emit)

theorem Keeps.hostResp {q st data} (h : Keeps s₀ s) : Keeps s₀ (hostResp s q st data) := by
  unfold Machine.hostResp
  extract_lets f _ s1
  have h1 : Keeps s₀ s1 := h.set
  clear_value s1 f
  split
  · exact h
  · split
    · exact h1.copyResp
    · exact h1.unless (·.hostErr)
    · exact (h1.unless (·.hostErr)).readDone

/-! ### Sys2Proof/Machine/Perform.lean -/

theorem Keeps.regAccess {q a} (h : Keeps s₀ s) : Keeps s₀ (regAccess s q a) := by
  unfold Machine.regAccess
  extract_lets
  split
  exacts [h.respond, h.branch (·.respond) (·.branch (·.regWrite.respond) (·.respond.unless (·.consumed)))]

theorem Keeps.spadAccess {q b a} (h : Keeps s₀ s) : Keeps s₀ (spadAccess s q b a) :=
  h.branch (fun h => h.mergeCheck.prod fun h => h.branch (·.respond) fun h => (h.writeDigits.unless (·.throughSnap)).respond)
    (·.memCheck.prod (·.branch (·.respond) (·.respond)))

theorem Keeps.csWindowWrite {q b o} (h : Keeps s₀ s) : Keeps s₀ (csWindowWrite s q b o) :=
  h.foldl fun _ h => h.unless (·.branch (·.setB) (·.branch (·.csTake.prod (·.csApply)) (·.csStage)))

theorem Keeps.csWindowRead {q b o} (h : Keeps s₀ s) : Keeps s₀ (csWindowRead s q b o) :=
  (h.foldl fun _ h => h.csReadMark).respond

theorem Keeps.csWindow {q b o} (h : Keeps s₀ s) : Keeps s₀ (csWindow s q b o) :=
  h.csFlush.branch (·.csWindowWrite.respond) (·.csWindowRead)

theorem Keeps.dtWindowWrite {q b o} (h : Keeps s₀ s) : Keeps s₀ (dtWindowWrite s q b o) := h.foldl fun _ h => h.dtWrite

theorem Keeps.dtWindowRead {q b o} (h : Keeps s₀ s) : Keeps s₀ (dtWindowRead s q b o) := h.respond

theorem Keeps.blockAccess {q b o} (h : Keeps s₀ s) : Keeps s₀ (blockAccess s q b o) :=
  h.endHush.branch (·.spadAccess) (·.branch (·.csWindow) (·.branch (·.branch (·.dtWindowWrite.respond) (·.dtWindowRead))
    (·.branch (·.regAccess) (·.respond))))

theorem Keeps.gatewayAccess {q g o} (h : Keeps s₀ s) : Keeps s₀ (gatewayAccess s q g o) := by
  unfold Machine.gatewayAccess
  split
  · obtain ⟨o', ho⟩ : ∃ o', o - 0x200000 = o' := ⟨_, rfl⟩
    rw [ho]
    exact .ite (.ite h.keyViolation.respond (h.keyStoreWrite.prod (·.respond))) (h.keyStoreRead.prod (·.respond))
  · exact h.regAccess

theorem Keeps.chipAccess {q o} (h : Keeps s₀ s) : Keeps s₀ (chipAccess s q o) :=
  h.branch (fun h => h.branch (·.respond) fun h => (h.when (·.writeDigits)).respond) (·.regAccess)

theorem Keeps.performAt {q t'} (h : Keeps s₀ s) : Keeps s₀ (performAt s q t') := by
  refine .ite h.respond ?_
  split
  · exact h.gatewayAccess
  · exact h.chipAccess
  · split
    exacts [h.blockAccess, h.respond]

/-! ### Sys2Proof/Machine/Mesh.lean -/

theorem Keeps.waitHere {q f} (h : Keeps s₀ s) : Keeps s₀ (waitHere s q f) := h.branch (·.updReq) (·.set.updReq)

theorem Keeps.heldArrival {g j q} (h : Keeps s₀ s) : Keeps s₀ (heldArrival s g j q) :=
  h.unless (·.waitHere.showHeld.wakeDom)

theorem Keeps.logWrite {q} (h : Keeps s₀ s) : Keeps s₀ (logWrite s q) :=
  h.branch (·.parkReq.earlyBoundary) (·.hold.respondAt.when (·.earlyBoundary))

theorem Keeps.tunnelOut {q j a} (h : Keeps s₀ s) : Keeps s₀ (tunnelOut s q j a) := by
  unfold Machine.tunnelOut
  split
  exacts [h.branch (·.respond) (·.emit), h.respond]

theorem Keeps.reachTarget {q t'} (h : Keeps s₀ s) : Keeps s₀ (reachTarget s q t') := by
  refine .ite ?_ (h.branch (·.waitHere) (·.branch (·.waitHere) (·.performAt)))
  split
  exacts [h.waitHere.wakeDom, h]

theorem Keeps.atFence {q t'} (h : Keeps s₀ s) : Keeps s₀ (atFence s q t') := by
  refine .ite h.reachTarget ?_
  split
  exacts [h.branch (·.waitHere) (·.reachTarget), h.branch (·.heldArrival) (·.respond)]

theorem Keeps.arrive {q} (h : Keeps s₀ s) : Keeps s₀ (arrive s q) := by
  refine .ite h (.ite h.respond (.ite h.absorb.updReq (.ite h.respond (.ite h.logWrite (.ite h ?_)))))
  split
  · exact h.absorb.respond
  · split
    · exact h.respondAt
    · split
      exacts [h.tunnelOut, h.branch (·.respond) (·.branch (·.waitHere) (·.atFence))]

theorem Keeps.storeStruck {q u} (h : Keeps s₀ s) : Keeps s₀ (storeStruck s q u) := by
  unfold Machine.storeStruck
  split
  exacts [h.csUpset, h]

theorem Keeps.execMeshRequest {id u} (h : Keeps s₀ s) : Completes s₀ (execMeshRequest id u s) := by
  refine Keeps.next ?_
  split
  exacts [h.storeStruck.arrive, h]

theorem Keeps.execSluiceHeldArrival {g j id} (h : Keeps s₀ s) : Completes s₀ (execSluiceHeldArrival g j id s) := by
  refine Keeps.next ?_
  split
  exacts [h.when (·.heldArrival), h]

theorem Keeps.execCsHoldGrant {b} (h : Keeps s₀ s) : Completes s₀ (execCsHoldGrant b s) := by
  refine Keeps.next ?_
  split
  · exact h.updSeq.csApply
  · split
    exacts [h.performAt, h]

theorem Keeps.noteGrant {g k} (h : Keeps s₀ s) : Keeps s₀ (noteGrant s g k) := h.set

theorem Keeps.execDramAccess {id u} (h : Keeps s₀ s) : Completes s₀ (execDramAccess id u s) := by
  refine Keeps.next ?_
  split
  · exact h
  · refine .ite h ?_
    extract_lets
    split
    exacts [h.noteGrant.parkReq, h.noteGrant.dramAccess]

theorem Keeps.portBDigits {b a t' ds} (h : Keeps s₀ s) : Keeps s₀ (portBDigits s b a t' ds) := h.portBWrite

theorem Keeps.turnServe {b o q a} (h : Keeps s₀ s) : Keeps s₀ (turnServe s b o q a) :=
  h.branch (fun h => (h.breakResv.portBDigits.unless (·.throughSnap)).branch (·.respond) (·.updReq)) (·.memCheck.prod
    (·.portAWrite.branch (·.respond) (·.branch (·.respond) (·.updReq))))

theorem Keeps.execTurnPortBAccess {b a u} (h : Keeps s₀ s) : Completes s₀ (execTurnPortBAccess b a u s) := by
  refine Keeps.next (.ite ((h.strikeMem.endHush.updSeq.dmaMove fun _ _ h => h.breakResv.portBDigits).when (·.portAWrite)) ?_)
  split
  exacts [h.strikeMem.endHush.updSeq.turnServe, h.strikeMem.endHush.portAWrite]

theorem Keeps.execScratchpadIdleGrant {b u} (h : Keeps s₀ s) : Completes s₀ (execScratchpadIdleGrant b u s) := by
  refine Keeps.next ?_
  split
  · exact h.strikeMem
  · extract_lets
    split
    · split
      exacts [h.strikeMem.spPass.performAt, h.strikeMem.spPass]
    · exact h.strikeMem.spPass.dmaMove fun _ _ h => h.writeDigits
    · exact h.strikeMem.spPass.descServe

theorem Keeps.rollStats (h : Keeps s₀ s) : Keeps s₀ (rollStats s) := by
  unfold Machine.rollStats
  split
  exacts [h, h.unless fun h => (h.set.when fun h => h.foldl fun _ h => h.setRg).setF.set]

theorem Keeps.execStatsWindowEnd (h : Keeps s₀ s) : Completes s₀ (execStatsWindowEnd s) := h.rollStats.next

theorem Keeps.countStat {q st} (h : Keeps s₀ s) : Keeps s₀ (countStat s q st) := h.unless (·.rollStats.set)

theorem Keeps.seqResp {b q st data} (h : Keeps s₀ s) : Keeps s₀ (seqResp s b q st data) := by
  refine .ite h.setSeq.updSeq ?_
  split
  exacts [h.setSeq.writeId, h.setSeq]

theorem Keeps.heldRefused {n g st addr} (h : Keeps s₀ s) : Keeps s₀ (heldRefused s n g st addr) := h.setRg.addSat.warnOp

theorem Keeps.deliver {q st data} (h : Keeps s₀ s) : Keeps s₀ (deliver s q st data) := by
  unfold Machine.deliver
  split
  · exact h.unless (·.heldRefused)
  · split
    · exact h.seqResp.showOutst
    · exact h.dmaResp
    · exact h.hostResp
    · exact h.awlResponse
    · split
      exacts [h.set.emit, h]
    · exact h
    · exact h
    · exact h

theorem Keeps.respArrives {x st data} (h : Keeps s₀ s) : Keeps s₀ (respArrives s x st data) := by
  refine .ite h.absorb.loseResp (.ite h.set.showTags.countStat.addSat (.ite ?_ h.set.showTags.countStat.deliver))
  split
  exacts [h.set.showTags.countStat.showOutst, h.set.showTags.countStat]

theorem Keeps.execMeshResponse {id} (h : Keeps s₀ s) : Completes s₀ (execMeshResponse id s) := by
  refine Keeps.next ?_
  split
  exacts [h, h.when (·.respArrives)]

theorem Keeps.execTagAllocate {t'} (h : Keeps s₀ s) : Completes s₀ (execTagAllocate t' s) := by
  refine Keeps.next ?_
  split
  exacts [h, h.takeTag]

theorem Keeps.answerLate {q} (h : Keeps s₀ s) : Keeps s₀ (answerLate s q) := h.deliver.raiseCheck

theorem Keeps.execResponseTimeout {id} (h : Keeps s₀ s) : Completes s₀ (execResponseTimeout id s) := by
  refine Keeps.next ?_
  split
  · exact h.when (·.updReq.answerLate)
  · split
    exacts [h.unless (·.set.answerLate), h]

/-! ### Sys2Proof/Machine/Router.lean -/

theorem Keeps.setFlits {k l} (h : Keeps s₀ s) : Keeps s₀ (setFlits s k l) := h.set

theorem Keeps.meshCheck {r loc} (h : Keeps s₀ s) : Keeps s₀ (meshCheck s r loc) := h.raiseCheck

theorem Keeps.giveCredit {r p vc} (h : Keeps s₀ s) : Keeps s₀ (giveCredit s r p vc) := by
  unfold Machine.giveCredit
  split
  exacts [h.set, h]

theorem Keeps.deadEnd {r f} (h : Keeps s₀ s) : Keeps s₀ (deadEnd s r f) := by
  unfold Machine.deadEnd
  split
  · exact h.respondAt
  · split
    exacts [h.loseResp, h]

theorem Keeps.discardPacket {f} (h : Keeps s₀ s) : Keeps s₀ (discardPacket s f) := by
  unfold Machine.discardPacket
  split
  · exact h.updReq
  · split
    exacts [h.loseResp, h]

theorem Keeps.downSide {r d} (h : Keeps s₀ s) : Keeps s₀ (downSide s r d) := h.setF.set.meshCheck

theorem Keeps.resendFlit {r p vc} (h : Keeps s₀ s) : Keeps s₀ (resendFlit s r p vc) := by
  refine .ite ?_ ?_
  · extract_lets
    split
    · exact h.addSat.set.emit
    · split
      exacts [h.addSat.set.emit.emit, h.addSat.set.emit]
  · extract_lets
    split
    exacts [h.set.downSide.downSide, h.set.meshCheck]

theorem Keeps.enqueue {r p vc x} (h : Keeps s₀ s) : Keeps s₀ (enqueue s r p vc x) :=
  h.branch (·.giveCredit) (·.unless (·.setFlits))

theorem Keeps.openPacket {r p vc f bad} (h : Keeps s₀ s) : Keeps s₀ (openPacket s r p vc f bad) :=
  (h.set.branch (·.discardPacket.meshCheck) (·.branch (·.absorb.discardPacket) (·.when (·.deadEnd)))).enqueue

theorem Keeps.execFlitReceive {r port f u} (h : Keeps s₀ s) : Completes s₀ (execFlitReceive r port f u s) :=
  (h.unless (·.branch (·.branch (·.resendFlit) (·.openPacket)) (·.unless (·.set.enqueue)))).next

theorem Keeps.takeMsg {f} (h : Keeps s₀ s) : Keeps s₀ (takeMsg s f) := h.branch (·.irqArrives) (·.when (·.ackArrives))

theorem Keeps.takePacket {l} (h : Keeps s₀ s) : Keeps s₀ (takePacket s l) := by
  unfold Machine.takePacket
  split
  · exact h
  · extract_lets
    split
    · exact h.branch (·.respond) (·.updReq.arrive)
    · split
      exacts [h.branch (·.respArrives) (·.respArrives), h.when (·.takeMsg)]

theorem Keeps.takeCredits (h : Keeps s₀ s) : Keeps s₀ (takeCredits s) := by
  refine h.unless (·.set.foldl fun _ h => ?_)
  split
  · exact h
  · extract_lets r vc l gone _ s1
    have h1 : Keeps s₀ s1 := h.set
    clear_value s1 gone
    cases gone with
    | none => exact h1
    | some x => exact h1.setFlits.giveCredit

theorem Keeps.dropFront {r p vc} (h : Keeps s₀ s) : Keeps s₀ (dropFront s r p vc) := by
  unfold Machine.dropFront
  split
  exacts [h.unless (·.setFlits.giveCredit.when (·.deadEnd)), h]

theorem Keeps.allocate {r o vc} (h : Keeps s₀ s) : Keeps s₀ (allocate s r o vc) := by
  refine .ite h ?_
  extract_lets
  split
  exacts [h.set, h]

theorem Keeps.sendFlit {r o vc i x} (h : Keeps s₀ s) : Keeps s₀ (sendFlit s r o vc i x) :=
  (h.when (·.set)).emit.branch (·.setFlits.set) (·.setFlits.giveCredit.branch (·.set.takePacket) (·.set))

theorem Keeps.outputCycle {r o} (h : Keeps s₀ s) : Keeps s₀ (outputCycle s r o) := by
  unfold Machine.outputCycle
  extract_lets
  split
  exacts [(h.foldl fun _ h => h.allocate).set, (h.foldl fun _ h => h.allocate).set.sendFlit]

theorem Keeps.routerCycle {r} (h : Keeps s₀ s) : Keeps s₀ (routerCycle s r) :=
  (h.foldl fun _ h => h.dropFront).foldl fun _ h => h.outputCycle

theorem Keeps.meshCycle (h : Keeps s₀ s) : Keeps s₀ (meshCycle s) :=
  h.unless fun h => h.takeCredits.foldl fun _ h => h.routerCycle

theorem Keeps.execLinkTimeout {r port vc} (h : Keeps s₀ s) : Completes s₀ (execLinkTimeout r port vc s) := by
  refine Keeps.next ?_
  split
  exacts [h, h.unless fun h => (h.setFlits.branch (·.setF) (·.setB)).warnAt]

/-! ### Sys2Proof/Machine/Clock.lean -/

theorem Keeps.cycle (h : Keeps s₀ s) : Keeps s₀ (cycle s) := h.set.meshCycle.when (·.tick)

/-! ### Sys2Proof/Machine/Commit.lean -/

theorem Keeps.execEpochBoundaryTick {n} (h : Keeps s₀ s) : Completes s₀ (execEpochBoundaryTick n s) :=
  (h.unless fun h => h.updEpoch.requestBoundary).next

theorem Keeps.execEpochStop {n} (h : Keeps s₀ s) : Completes s₀ (execEpochStop n s) :=
  (h.unless fun h => ((h.forEach fun _ h => h.updSeq).forEach fun _ h => h.suspCause).updEpoch).next

theorem Keeps.leadCommits {n} (h : Keeps s₀ s) : Keeps s₀ (leadCommits s n) := h.when fun h => h.epochMsg.updEpoch.setF

theorem Keeps.execEpochQuiesceDone {n} (h : Keeps s₀ s) : Completes s₀ (execEpochQuiesceDone n s) := by
  refine Keeps.next (.ite h ?_)
  extract_lets c s1
  have h1 : Keeps s₀ s1 := h.updEpoch fun w _ k =>
    Epoch.memWf_set k id fun _ => Snap.memWf_some (State.memWf_takeSnap (h.memWf w) _)
  exact h1.branch (·.setF) (·.setF.branch (·.leadCommits) (·.set.epochMsg))

theorem Keeps.performHeld {n r} (h : Keeps s₀ s) : Keeps s₀ (performHeld s n r) := by
  refine .ite h.set.addSat ?_
  extract_lets
  split
  exacts [h.set.showTags.arrive.respArrives, h.set.showTags.arrive]

theorem Keeps.releaseWrite {n h'} (h : Keeps s₀ s) : Keeps s₀ (releaseWrite s n h') := by
  unfold Machine.releaseWrite
  split
  exacts [h.branch (·.emit) (·.heldRefused.takeFree), h.performHeld, h]

theorem Keeps.releaseCompl {epoch h'} (h : Keeps s₀ s) : Keeps s₀ (releaseCompl s epoch h') := by
  unfold Machine.releaseCompl
  split
  exacts [h.postCompl, h]

theorem Keeps.releaseMsix {h'} (h : Keeps s₀ s) : Keeps s₀ (releaseMsix s h') := by
  unfold Machine.releaseMsix
  split
  exacts [h.sendMsix, h]

theorem Keeps.releaseHeld {n epoch hs} (h : Keeps s₀ s) : Keeps s₀ (releaseHeld s n epoch hs) :=
  .endOrderFences (.foldl (.foldl (.foldlFst (p := (_, []))
    ((h.foldl fun _ h => h.releaseWrite).foldl fun _ h => h.releaseCompl) fun _ h => h.postAll)
    fun _ h => h.sendVector) fun _ h => h.releaseMsix)

theorem Keeps.unpark {n} (h : Keeps s₀ s) : Keeps s₀ (unpark s n) := h.foldl fun _ h => h.updReq.arrive

theorem Keeps.judgeCorr {b} (h : Keeps s₀ s) : Keeps s₀ (judgeCorr s b) := by
  unfold Machine.judgeCorr
  exact h.updSeq

theorem Keeps.commitNow {n} (h : Keeps s₀ s) : Keeps s₀ (commitNow s n) := by
  unfold Machine.commitNow
  extract_lets e s1 s2 s3 k s4 s5 s6 s7 s8 s9 s10 s11
  have h1 : Keeps s₀ s1 := h.forEach fun _ h => h.setKeyByte
  have h2 : Keeps s₀ s2 := h1.updEpoch fun _ e w => (Epoch.memWf_iff _).mpr
    ⟨Snap.memWf_map (Epoch.memWf_alt w) fun _ w => w, Snap.memWf_none⟩
  have h6 : Keeps s₀ s6 := h2.set.setF.setRg.setF
  have h10 : Keeps s₀ s10 := (h6.releaseHeld.foldl fun _ h => h.complete).unpark.forEach fun _ h => h.judgeCorr
  have h11 : Keeps s₀ s11 := h10.foldl fun _ h => by split; exacts [h.when (·.setSluice), h]
  clear_value s11
  exact ((h11.forEach fun _ h => h.updSeq.when (·.suspCause)).forEach fun _ h => h.resumeIdle).raiseFences

theorem Keeps.execEpochCommit {n} (h : Keeps s₀ s) : Completes s₀ (execEpochCommit n s) := (h.when (·.commitNow)).next

theorem Keeps.execPrepare {e} (h : Keeps s₀ s) : Completes s₀ (execPrepare e s) :=
  (h.unless (·.fromLead.branch (·.epochMsg) (·.unless (·.branch (·.epochMsg) (·.unless (·.startBoundary)))))).next

theorem Keeps.execReady {dev e} (h : Keeps s₀ s) : Completes s₀ (execReady dev e s) :=
  (h.unless (·.branch (·.toLead) (·.unless (·.set.leadCommits)))).next

theorem Keeps.leadAborts {n why} (h : Keeps s₀ s) : Keeps s₀ (leadAborts s n why) := h.unless (·.cascAbort.rollback)

theorem Keeps.execFail {dev m} (h : Keeps s₀ s) : Completes s₀ (execFail dev m s) := by
  refine Keeps.next (.ite h (.ite h.toLead ?_))
  split
  exacts [h.unless (·.leadAborts), h.concealmentLost.fromLead]

theorem Keeps.execCommit {e} (h : Keeps s₀ s) : Completes s₀ (execCommit e s) :=
  (h.unless (·.fromLead.when (·.set.commitNow))).next

theorem Keeps.execAbort {m} (h : Keeps s₀ s) : Completes s₀ (execAbort m s) := by
  refine Keeps.next (.ite h ?_)
  split
  exacts [h.fromLead.concealmentLost, h.unless (·.fromLead.set.unless (·.rollback))]

theorem Keeps.execCascadeReadyTimeout (h : Keeps s₀ s) : Completes s₀ (execCascadeReadyTimeout s) :=
  (h.unless (·.leadAborts)).next

theorem Keeps.execCascadeMsgRepeat (h : Keeps s₀ s) : Completes s₀ (execCascadeMsgRepeat s) := by
  refine Keeps.next ?_
  split
  exacts [h.when (·.sendEpochMsg), h]

/-! ### Sys2Proof/Machine/HostIf.lean -/

theorem Keeps.endSilently {w} (h : Keeps s₀ s) : Keeps s₀ (endSilently s w) := h.set

theorem Keeps.flrPart {n} (h : Keeps s₀ s) : Keeps s₀ (flrPart s n) := by
  unfold Machine.flrPart
  refine ((h.girthStop.forEach fun _ h => h.dropOp.updSeq.leaveProgram).unstop.set.foldl fun _ h => h.endSilently).updEpoch ?_
  exact fun _ _ w => Epoch.memWf_map w rfl rfl (fun _ w => w) fun _ w => w

theorem Keeps.flrFunc {f} (h : Keeps s₀ s) : Keeps s₀ (flrFunc s f) := by
  refine h.resetRegs.setEpochs fun _ w e he => ?_
  obtain ⟨x, hx, rfl⟩ := List.mem_map.mp he
  exact State.memWf_epochs (e := x) w hx

theorem Keeps.flrOp {f} (h : Keeps s₀ s) : Keeps s₀ (flrOp s f) :=
  h.branch (fun h => (h.forEach fun _ h => h.flrPart).forEach fun _ h => h.flrFunc) fun h => (h.when (·.flrPart)).flrFunc

theorem Keeps.execFlr {f} (h : Keeps s₀ s) : Completes s₀ (execFlr f s) := h.flrOp.next

theorem Keeps.execHotReset (h : Keeps s₀ s) : Completes s₀ (execHotReset s) := h.flrOp.next

theorem Keeps.cfgWrite {f d v} (h : Keeps s₀ s) : Keeps s₀ (cfgWrite s f d v) :=
  (h.unless (·.branch (·.setCfg) (·.branch (·.setCfg) (·.branch (·.when (·.setCfg)) (·.branch (·.when (·.setCfg))
    (·.setCfg)))))).branch (·.flrOp) fun h => h.when fun h => h.forEach fun _ h => h.flushMsix

theorem Keeps.execConfigRequest {f wr reg v} (h : Keeps s₀ s) : Completes s₀ (execConfigRequest f wr reg v s) :=
  (h.unless (·.branch (·.emit) (·.branch (·.emit) (·.branch (·.emit.cfgWrite) (·.emit))))).next

theorem Keeps.hostMemRead {f bar o n} (h : Keeps s₀ s) : Keeps s₀ (hostMemRead s f bar o n) :=
  h.branch (·.emit.aerReport) fun h => h.set.readDone.foldl fun _ h => h.hostReq

theorem Keeps.writePart {f data p} (h : Keeps s₀ s) : Keeps s₀ (writePart s f data p) := by
  unfold Machine.writePart
  extract_lets
  split
  exacts [h.hostReq, h.foldl fun _ h => h.msixWrite, h]

theorem Keeps.hostMemWrite {f bar o data} (h : Keeps s₀ s) : Keeps s₀ (hostMemWrite s f bar o data) :=
  h.branch (·.aerReport) fun h => h.foldl fun _ h => h.writePart

theorem Keeps.execHostMemoryRead {f bar off len} (h : Keeps s₀ s) : Completes s₀ (execHostMemoryRead f bar off len s) :=
  (h.unless (·.hostMemRead)).next

theorem Keeps.execHostMemoryWrite {f bar off data} (h : Keeps s₀ s) : Completes s₀ (execHostMemoryWrite f bar off data s) :=
  (h.unless (·.hostMemWrite)).next

theorem Keeps.execPcieLinkTrained {speed width flit} (h : Keeps s₀ s) :
    Completes s₀ (execPcieLinkTrained speed width flit s) :=
  (h.unless (·.setF.setF.setB)).next

theorem Keeps.doeAnswer {bs} (h : Keeps s₀ s) : Keeps s₀ (doeAnswer s bs) := h.emit

theorem Keeps.execDoeDiscovery {index} (h : Keeps s₀ s) : Completes s₀ (execDoeDiscovery index s) :=
  (h.unless (·.doeAnswer)).next

theorem Keeps.spdmStep {stage next req resp} (h : Keeps s₀ s) : Keeps s₀ (spdmStep s stage next req resp) :=
  h.unless (·.branch (·.doeAnswer) (·.set.doeAnswer))

theorem Keeps.execGetVersion (h : Keeps s₀ s) : Completes s₀ (execGetVersion s) := h.spdmStep.next

theorem Keeps.execGetCapabilities (h : Keeps s₀ s) : Completes s₀ (execGetCapabilities s) := h.takeFree.spdmStep.next

theorem Keeps.execNegotiateAlgorithms (h : Keeps s₀ s) : Completes s₀ (execNegotiateAlgorithms s) :=
  h.takeFree.spdmStep.next

theorem Keeps.execGetDigests (h : Keeps s₀ s) : Completes s₀ (execGetDigests s) := h.spdmStep.next

theorem Keeps.execGetCertificate {slot off len} (h : Keeps s₀ s) : Completes s₀ (execGetCertificate slot off len s) :=
  (h.branch (·.spdmStep) (·.spdmStep)).next

theorem Keeps.execChallenge {slot nonce} (h : Keeps s₀ s) : Completes s₀ (execChallenge slot nonce s) :=
  (h.branch (·.takeFree.spdmStep) (·.spdmStep)).next

theorem Keeps.execGetMeasurements {index} (h : Keeps s₀ s) : Completes s₀ (execGetMeasurements index s) :=
  (h.branch (·.spdmStep) (·.branch (·.spdmStep) (·.branch (·.spdmStep) (·.spdmStep)))).next

/-! ### Sys2Proof/Machine/HostCmd.lean -/

/-- A host command that starts keeps what its meaning keeps. -/
theorem Keeps.cmdGo {f q c opc bad go} (h : Keeps s₀ s) (k : ∀ {t} q, Keeps s₀ t → Keeps s₀ (go q t)) :
    Keeps s₀ (cmdGo s f q c opc bad go) := by
  unfold Machine.cmdGo
  extract_lets
  split
  · exact h
  next e =>
    refine (h.cmdStart e).branch (·.complete) fun h => ?_
    split
    · exact h.complete
    · exact k _ h

theorem Keeps.withPart {f q c go} (h : Keeps s₀ s) (k : ∀ n, Keeps s₀ (go n)) : Keeps s₀ (withPart s f q c go) :=
  .ite h.complete (k _)

theorem Keeps.runStart {n f q c bs} (h : Keeps s₀ s) : Keeps s₀ (runStart s n f q c bs) := by
  refine .when (.foldl (.foldl (.foldl
    (h.set.updEpoch fun _ _ w => Epoch.memWf_set w (Snap.memWf_map · fun _ w => w) id)
    fun _ h => ?_) fun _ h => ?_) fun _ h => h.endHush) (·.foldl fun _ h => h.startSeq)
  · split
    exacts [h.notePower, h]
  · split
    exacts [h.wakeDom, h]

theorem Keeps.runGo {f q c} (h : Keeps s₀ s) : Keeps s₀ (runGo f q c s) := by
  refine h.withPart fun _ => .ite h.complete ?_
  split
  exacts [h.complete, h.branch (·.completeHeld.when (·.askBoundary)) (·.runStart)]

theorem Keeps.execRun {f q c} (h : Keeps s₀ s) : Completes s₀ (execRun f q c s) := (h.cmdGo fun _ h => h.runGo).next

theorem Keeps.timeOut {n r} (h : Keeps s₀ s) : Keeps s₀ (timeOut s n r) := by
  unfold Machine.timeOut
  extract_lets
  split
  · exact (h.foldl fun _ h => h.haltSeq.dropOp.updSeq.leaveProgram).set.completeHeld
  · exact (h.foldl fun _ h => h.haltSeq.dropOp.updSeq.leaveProgram).set

theorem Keeps.execRunTimeout {n} (h : Keeps s₀ s) : Completes s₀ (execRunTimeout n s) := (h.foldl fun _ h => h.timeOut).next

theorem Keeps.copyGo {f q c} (h : Keeps s₀ s) : Keeps s₀ (copyGo f q c s) :=
  h.branch (·.copyNext) fun h => h.withPart fun _ => h.copyNext

theorem Keeps.execCopy {f q c} (h : Keeps s₀ s) : Completes s₀ (execCopy f q c s) := (h.cmdGo fun _ h => h.copyGo).next

theorem Keeps.imageBusy {f q c} (h : Keeps s₀ s) : Keeps s₀ (imageBusy s f q c) := h.takeFree.complete

theorem Keeps.imageGo {f q c src} (h : Keeps s₀ s) : Keeps s₀ (imageGo s f q c src) :=
  h.branch (·.imageBusy) (·.setRg.setRg.setB.setB.imgStart)

theorem Keeps.loadImageGo {f q c} (h : Keeps s₀ s) : Keeps s₀ (loadImageGo f q c s) :=
  h.branch (·.imageGo) (·.branch (·.imageBusy) (·.branch (·.complete) (·.branch (·.imageGo) (·.hostRead))))

theorem Keeps.execLoadImage {f q c} (h : Keeps s₀ s) : Completes s₀ (execLoadImage f q c s) :=
  (h.cmdGo fun _ h => h.loadImageGo).next

theorem Keeps.loadMicrocodeGo {f q c} (h : Keeps s₀ s) : Keeps s₀ (loadMicrocodeGo f q c s) :=
  h.branch (·.complete) (·.branch (·.complete) (·.hostRead))

theorem Keeps.execLoadMicrocode {f q c} (h : Keeps s₀ s) : Completes s₀ (execLoadMicrocode f q c s) :=
  (h.cmdGo fun _ h => h.loadMicrocodeGo).next

theorem Keeps.bundleArrived {f q c bs} (h : Keeps s₀ s) : Keeps s₀ (bundleArrived s f q c bs) := by
  refine .ite h.complete (.ite h.complete ?_)
  split
  exacts [h.bundleApply.complete, h.setB.complete]

theorem Keeps.captureEdge {k} (h : Keeps s₀ s) : Keeps s₀ (captureEdge s k) := h.girthStop.set

theorem Keeps.captureGo {f q c} (h : Keeps s₀ s) : Keeps s₀ (captureGo f q c s) :=
  h.withPart fun _ => h.branch (·.complete) (·.branch (·.freePart.takeFree.complete) (·.set.when (·.captureEdge)))

theorem Keeps.execCapture {f q c} (h : Keeps s₀ s) : Completes s₀ (execCapture f q c s) :=
  (h.cmdGo fun _ h => h.captureGo).next

theorem Keeps.execCaptureEdge {n} (h : Keeps s₀ s) : Completes s₀ (execCaptureEdge n s) := by
  refine Keeps.next ?_
  split
  exacts [h.captureEdge, h]

theorem Keeps.execCaptureReadoutDone {n} (h : Keeps s₀ s) : Completes s₀ (execCaptureReadoutDone n s) := by
  refine Keeps.next ?_
  split
  exacts [h, (h.set.branch (·.emit.complete) (·.complete)).when (·.freePart)]

theorem Keeps.epochGo {f q c} (h : Keeps s₀ s) : Keeps s₀ (epochGo f q c s) :=
  h.withPart fun _ => h.branch (·.complete) fun h => h.branch (·.complete) fun h => h.updEpoch.when (·.askBoundary)

theorem Keeps.execEpoch {f q c} (h : Keeps s₀ s) : Completes s₀ (execEpoch f q c s) := (h.cmdGo fun _ h => h.epochGo).next

theorem Keeps.fencePower {f q c} (h : Keeps s₀ s) : Keeps s₀ (fencePower s f q c) := by
  unfold Machine.fencePower
  extract_lets v bs named bad s1
  have h1 : Keeps s₀ s1 := h.foldl fun _ h => h.powerOp
  clear_value bad s1
  cases bad with
  | none => exact h1.set.endPowerFences
  | some b => exact h1.complete

theorem Keeps.fenceGo {f q c} (h : Keeps s₀ s) : Keeps s₀ (fenceGo f q c s) :=
  h.withPart fun _ => h.branch (·.set.endOrderFences) (·.fencePower)

theorem Keeps.execFenceCommand {f q c} (h : Keeps s₀ s) : Completes s₀ (execFenceCommand f q c s) :=
  (h.cmdGo fun _ h => h.fenceGo).next

theorem Keeps.queryWrite {f q c} (h : Keeps s₀ s) : Keeps s₀ (queryWrite f q c s) := h.branch (·.complete) (·.emit.complete)

theorem Keeps.queryGo {f q c} (h : Keeps s₀ s) : Keeps s₀ (queryGo f q c s) :=
  h.branch (·.queryWrite) fun h => h.withPart fun _ => h.queryWrite

theorem Keeps.execQuery {f q c} (h : Keeps s₀ s) : Completes s₀ (execQuery f q c s) := (h.cmdGo fun _ h => h.queryGo).next

theorem Keeps.dmaHostResp {b ch r data} (h : Keeps s₀ s) : Keeps s₀ (dmaHostResp s b ch r data) := by
  unfold Machine.dmaHostResp
  split
  · exact h.dmaResp
  · split
    exacts [h.when (·.setDma), h]

theorem Keeps.hostData {r data} (h : Keeps s₀ s) : Keeps s₀ (hostData s r data) := by
  unfold Machine.hostData
  split
  · split
    exacts [h.takeCommand, h]
  · split
    exacts [h.copyData, h.complete]
  · split
    exacts [h.branch (·.imageBusy) (·.writeDigits.imageGo), h.complete]
  · split
    exacts [h.bundleArrived, h.complete]
  · exact h.dmaHostResp

theorem Keeps.execHostReadCompletion {id data} (h : Keeps s₀ s) : Completes s₀ (execHostReadCompletion id data s) := by
  refine Keeps.next ?_
  split
  · exact h
  · extract_lets ok
    clear_value ok
    cases ok with
    | none => exact h.set.nextRead.hostData
    | some bs => exact .ite h.sendRead h.set.nextRead.hostData

/-! ### Sys2Proof/Machine/Boot.lean -/

theorem Keeps.cutMailbox (h : Keeps s₀ s) : Keeps s₀ (cutMailbox s) := by
  unfold Machine.cutMailbox
  split
  exacts [h.when (·.set.mbxCut), h]

theorem Keeps.keepInhibits {s'} (h : Keeps s₀ s) : Keeps s₀ (keepInhibits s' s) := h.setRg

theorem Keeps.resetDevice (h : Keeps s₀ s) : Keeps s₀ (resetDevice s) := by
  unfold Machine.resetDevice
  extract_lets s1 t
  have h1 : Keeps s₀ s1 := (h.forEach fun _ h => h.concealmentLost).cutMailbox
  have ht : Keeps s₀ t := ⟨h1.pending, fun w =>
    State.memWf_of_noEpochs (h1.memWf w) (State.memWf_mem (s := s1) (h1.memWf w)) rfl rfl rfl⟩
  exact ht.keepInhibits.setF

theorem Keeps.coldDevice {on} (h : Keeps s₀ s) : Keeps s₀ (coldDevice s on) :=
  ⟨h.pending, fun w => State.memWf_of_noEpochs (h.memWf w) rfl rfl rfl rfl⟩

theorem Keeps.execPowerOn (h : Keeps s₀ s) : Completes s₀ (execPowerOn s) := h.coldDevice.next

theorem Keeps.execPowerDown (h : Keeps s₀ s) : Completes s₀ (execPowerDown s) := (h.when (·.cutMailbox.coldDevice)).next

theorem Keeps.execPerstAssert (h : Keeps s₀ s) : Completes s₀ (execPerstAssert s) := (h.set.when (·.resetDevice)).next

theorem Keeps.execRefclkLoss (h : Keeps s₀ s) : Completes s₀ (execRefclkLoss s) := (h.set.when (·.resetDevice)).next

theorem Keeps.execThermtrip (h : Keeps s₀ s) : Completes s₀ (execThermtrip s) :=
  (h.unless fun h => (h.set.unless (·.resetDevice)).emit).next

theorem Keeps.startBoot (h : Keeps s₀ s) : Keeps s₀ (startBoot s) := h.set.setB.setF.setF.setF

theorem Keeps.execPerstRelease {straps testEn} (h : Keeps s₀ s) : Completes s₀ (execPerstRelease straps testEn s) :=
  (h.unless (·.set.unless (·.startBoot))).next

theorem Keeps.execRefclkRestart (h : Keeps s₀ s) : Completes s₀ (execRefclkRestart s) :=
  (h.unless (·.set.when (·.startBoot))).next

theorem Keeps.setBoot {v} (h : Keeps s₀ s) : Keeps s₀ (setBoot s v) := h.setF

theorem Keeps.recovery {code} (h : Keeps s₀ s) : Keeps s₀ (recovery s code) := h.setF.setF.set.setBoot

theorem Keeps.execBootRomDone {flash} (h : Keeps s₀ s) : Completes s₀ (execBootRomDone flash s) :=
  (h.unless (·.setB.showFuses.freshNonce.branch (·.setBoot) (·.recovery))).next

theorem Keeps.bootVerdict {item} (h : Keeps s₀ s) : Keeps s₀ (bootVerdict s item) := by
  unfold Machine.bootVerdict
  split
  exacts [h.setF.setB.set.setBoot, h.branch (·.recovery) (·.set.setF.setBoot)]

theorem Keeps.execBootFetchDone {item} (h : Keeps s₀ s) : Completes s₀ (execBootFetchDone item s) :=
  (h.unless (·.branch (·.setBoot) (·.when (·.bootVerdict)))).next

theorem Keeps.execBootMcode {bundle} (h : Keeps s₀ s) : Completes s₀ (execBootMcode bundle s) := by
  refine Keeps.next (.ite h (.setBoot (.ite h.set ?_)))
  split
  exacts [h.set.bundleApply, h.set.setB]

theorem Keeps.replayDead {p} (h : Keeps s₀ s) : Keeps s₀ (replayDead s p) := by
  unfold Machine.replayDead
  extract_lets k b s1 s2
  have h2 : Keeps s₀ s2 := h.markDead.setF.when (·.setF)
  clear_value b s2
  cases b with
  | none => exact h2
  | some b => exact h2.when (·.setF.setF.moveHolder)

theorem Keeps.replayCode {p code} (h : Keeps s₀ s) : Keeps s₀ (replayCode s p code) := by
  unfold Machine.replayCode
  split
  · exact h
  · refine .ite ?_ h.setF.set
    split
    exacts [h.setF.setF.setF.moveHolder, h.setF]

theorem Keeps.replayColumn {p arg} (h : Keeps s₀ s) : Keeps s₀ (replayColumn s p arg) :=
  h.killSpare.setF.showTwinStop.when (·.cicRise)

theorem Keeps.replayRow {g row} (h : Keeps s₀ s) : Keeps s₀ (replayRow s g row) := h.set.setF.when (·.setB.cicRise)

theorem Keeps.replayLane {g p} (h : Keeps s₀ s) : Keeps s₀ (replayLane s g p) := h.branch (·.setF.setB) (·.setF.setB)

theorem Keeps.replay {r} (h : Keeps s₀ s) : Keeps s₀ (replay s r) := by
  unfold Machine.replay
  extract_lets
  split
  exacts [h.replayColumn, h.replayDead, h.replayCode, h.replayCode, h.replayRow, h.replayLane, h]

theorem Keeps.execBootSbag (h : Keeps s₀ s) : Completes s₀ (execBootSbag s) := by
  refine Keeps.next (.ite h (.setBoot ?_))
  split
  · exact h
  next c e =>
    extract_lets _ s1
    have h1 : Keeps s₀ s1 := .insertOp (h.setCarts (fun _ _ _ hx => absurd hx (Option.not_mem_none _)) fun _ w x hx => by
      rcases List.mem_append.mp hx with hx | hx
      · exact State.memWf_shelf w x hx
      · exact List.mem_singleton.mp hx ▸ State.memWf_cart w e)
    exact h1.when fun h => (h.foldl fun _ h => h.replay).setB

theorem Keeps.checkOwnerKey {key} (h : Keeps s₀ s) : Keeps s₀ (checkOwnerKey s key) := by
  unfold Machine.checkOwnerKey
  split
  exacts [h, h.branch (·.set) (·.setB)]

theorem Keeps.startImage {image} (h : Keeps s₀ s) : Keeps s₀ (startImage s image) := h.writeDigits.setB.setRg.setRg.imgStart

theorem Keeps.detectPorts (h : Keeps s₀ s) : Keeps s₀ (detectPorts s) := h.foldl fun _ h => h.when (·.setPort)

theorem Keeps.execBootReady {image ownerKey} (h : Keeps s₀ s) : Completes s₀ (execBootReady image ownerKey s) :=
  (h.unless (·.checkOwnerKey.setBoot.setF.setB.detectPorts.when (·.startImage))).next

/-! ### Sys2Proof/Machine/Dispatch.lean -/

/-- Every command completes and keeps what the relation says. -/
theorem Keeps.exec {i} (h : Keeps s₀ s) : Completes s₀ (exec i s) := by
  cases i with
  | registerWrite => exact h.execRegisterWrite
  | consumeRead ix a => exact h.execConsumeRead (_i := ix)
  | powerOn => exact h.execPowerOn
  | perstAssert => exact h.execPerstAssert
  | perstRelease => exact h.execPerstRelease
  | refclkLoss => exact h.execRefclkLoss
  | bootRomDone => exact h.execBootRomDone
  | bootFetchDone => exact h.execBootFetchDone
  | bootMcode => exact h.execBootMcode
  | bootSbag => exact h.execBootSbag
  | bootReady => exact h.execBootReady
  | dramZeroingDone => exact h.execDramZeroingDone
  | imgGo ix => exact h.execImgGo (_i := ix)
  | imageHoldDrained => exact h.execImageHoldDrained
  | imageFrame => exact h.execImageFrame
  | imageApply => exact h.execImageApply
  | routerReconfig => exact h.execRouterReconfig
  | imageRelease => exact h.execImageRelease
  | microwordCycle => exact h.execMicrowordCycle
  | planeRepair => exact h.execPlaneRepair
  | twinAdvance => exact h.execTwinAdvance
  | orcCombineResult => exact h.execOrcCombineResult
  | safePointYield => exact h.execSafePointYield
  | abandon => exact h.execAbandon
  | alog => exact h.execAlog
  | amov => exact h.execAmov
  | aspl => exact h.execAspl
  | aact => exact h.execAact
  | atag => exact h.execAtag
  | abrd => exact h.execAbrd
  | abcp => exact h.execAbcp
  | ashf => exact h.execAshf
  | aadd => exact h.execAadd
  | asub => exact h.execAsub
  | aneg => exact h.execAneg
  | amul => exact h.execAmul
  | adiv => exact h.execAdiv
  | acmp => exact h.execAcmp
  | aaddg => exact h.execAaddg
  | asubg => exact h.execAsubg
  | acmpg => exact h.execAcmpg
  | affs => exact h.execAffs
  | aenum => exact h.execAenum
  | aor => exact h.execAor
  | acnt => exact h.execAcnt
  | asum => exact h.execAsum
  | ards => exact h.execArds
  | abar => exact h.execAbar
  | atld => exact h.execAtld
  | atst => exact h.execAtst
  | alut => exact h.execAlut
  | apadd => exact h.execApadd
  | apsub => exact h.execApsub
  | apmul => exact h.execApmul
  | apdiv => exact h.execApdiv
  | apcmp => exact h.execApcmp
  | apsrp => exact h.execApsrp
  | apset => exact h.execApset
  | apcvb => exact h.execApcvb
  | apcvd => exact h.execApcvd
  | appack => exact h.execAppack
  | apunpk => exact h.execApunpk
  | adfadd => exact h.execAdfadd
  | adfsub => exact h.execAdfsub
  | adfmul => exact h.execAdfmul
  | adfdiv => exact h.execAdfdiv
  | adffma => exact h.execAdffma
  | adfqua => exact h.execAdfqua
  | adfcmp => exact h.execAdfcmp
  | adfcvt => exact h.execAdfcvt
  | aldadd => exact h.execAldadd
  | aldsub => exact h.execAldsub
  | aldmul => exact h.execAldmul
  | alddiv => exact h.execAlddiv
  | aldcvt => exact h.execAldcvt
  | aldspl => exact h.execAldspl
  | aldnrm => exact h.execAldnrm
  | amvs => exact h.execAmvs
  | atrn => exact h.execAtrn
  | acmps => exact h.execAcmps
  | aedit => exact h.execAedit
  | customerInstruction => exact h.execCustomerInstruction
  | reservedOpcode => exact h.execReservedOpcode
  | add => exact h.execAdd
  | sub => exact h.execSub
  | and => exact h.execAnd
  | or => exact h.execOr
  | xor => exact h.execXor
  | andn => exact h.execAndn
  | shl => exact h.execShl
  | shr => exact h.execShr
  | sar => exact h.execSar
  | rol => exact h.execRol
  | mul => exact h.execMul
  | mulh => exact h.execMulh
  | div => exact h.execDiv
  | rem => exact h.execRem
  | cmp => exact h.execCmp
  | min => exact h.execMin
  | max => exact h.execMax
  | clz => exact h.execClz
  | popc => exact h.execPopc
  | sel => exact h.execSel
  | addi => exact h.execAddi
  | andi => exact h.execAndi
  | ori => exact h.execOri
  | xori => exact h.execXori
  | shli => exact h.execShli
  | shri => exact h.execShri
  | sari => exact h.execSari
  | cmpi => exact h.execCmpi
  | liz => exact h.execLiz
  | lik => exact h.execLik
  | adr => exact h.execAdr
  | ld => exact h.execLd
  | lds => exact h.execLds
  | st => exact h.execSt
  | ldr => exact h.execLdr
  | stc => exact h.execStc
  | ldx => exact h.execLdx
  | stx => exact h.execStx
  | bz => exact h.execBz
  | bnz => exact h.execBnz
  | j => exact h.execJ
  | jr => exact h.execJr
  | call => exact h.execCall
  | ret => exact h.execRet
  | reti => exact h.execReti
  | loop => exact h.execLoop
  | loopi => exact h.execLoopi
  | rep => exact h.execRep
  | repr => exact h.execRepr
  | trap => exact h.execTrap
  | bkpt => exact h.execBkpt
  | wait => exact h.execWait
  | waitComplete => exact h.execWaitComplete
  | fence => exact h.execFence
  | mfc => exact h.execMfc
  | mtc => exact h.execMtc
  | dadj => exact h.execDadj
  | padd => exact h.execPadd
  | psub => exact h.execPsub
  | pcmp => exact h.execPcmp
  | pmulD => exact h.execPmulD
  | pshlD => exact h.execPshlD
  | pcvt => exact h.execPcvt
  | dadd => exact h.execDadd
  | dsub => exact h.execDsub
  | dmul => exact h.execDmul
  | ddiv => exact h.execDdiv
  | dfma => exact h.execDfma
  | dqua => exact h.execDqua
  | dcmp => exact h.execDcmp
  | dcvt => exact h.execDcvt
  | interruptEntry => exact h.execInterruptEntry
  | meshTrap => exact h.execMeshTrap
  | haltTaken => exact h.execHaltTaken
  | csQuarterStage => exact h.execCsQuarterStage
  | csCommit => exact h.execCsCommit
  | csHoldGrant => exact h.execCsHoldGrant
  | csRead => exact h.execCsRead
  | dtEntryWrite => exact h.execDtEntryWrite
  | meshRequest => exact h.execMeshRequest
  | meshResponse => exact h.execMeshResponse
  | tagAllocate => exact h.execTagAllocate
  | flitReceive => exact h.execFlitReceive
  | responseTimeout => exact h.execResponseTimeout
  | linkTimeout => exact h.execLinkTimeout
  | sluiceFenceReq => exact h.execSluiceFenceReq
  | sluiceDrained => exact h.execSluiceDrained
  | sluiceHeldArrival => exact h.execSluiceHeldArrival
  | statsWindowEnd => exact h.execStatsWindowEnd
  | dramAccess => exact h.execDramAccess
  | shadowCopyDone => exact h.execShadowCopyDone
  | dramWriteback => exact h.execDramWriteback
  | patrolScrubRead => exact h.execPatrolScrubRead
  | turnPortBAccess => exact h.execTurnPortBAccess
  | turnWriteback => exact h.execTurnWriteback
  | scratchpadIdleGrant => exact h.execScratchpadIdleGrant
  | scratchpadWriteback => exact h.execScratchpadWriteback
  | scratchpadStallBound => exact h.execScratchpadStallBound
  | keyByteWrite => exact h.execKeyByteWrite
  | kuRangeGo => exact h.execKuRangeGo
  | kuRangeDone => exact h.execKuRangeDone
  | keyReloadDone => exact h.execKeyReloadDone
  | dmaEnable => exact h.execDmaEnable
  | dmaDisable => exact h.execDmaDisable
  | dmaTailWrite => exact h.execDmaTailWrite
  | dmaDescriptor => exact h.execDmaDescriptor
  | dmaCompletion => exact h.execDmaCompletion
  | epochBoundaryTick => exact h.execEpochBoundaryTick
  | epochBreq => exact h.execEpochBreq
  | epochStop => exact h.execEpochStop
  | epochQuiesceDone => exact h.execEpochQuiesceDone
  | epochCommit => exact h.execEpochCommit
  | machineCheckAlarm => exact h.execMachineCheckAlarm
  | rollbackResume => exact h.execRollbackResume
  | migration => exact h.execMigration
  | migrationDone => exact h.execMigrationDone
  | prepare => exact h.execPrepare
  | ready => exact h.execReady
  | fail => exact h.execFail
  | commit => exact h.execCommit
  | abort => exact h.execAbort
  | cascadeReadyTimeout => exact h.execCascadeReadyTimeout
  | cascadeMsgRepeat => exact h.execCascadeMsgRepeat
  | journalWrite => exact h.execJournalWrite
  | configRequest => exact h.execConfigRequest
  | hostMemoryRead => exact h.execHostMemoryRead
  | hostMemoryWrite => exact h.execHostMemoryWrite
  | flr => exact h.execFlr
  | hotReset => exact h.execHotReset
  | msixUnmask => exact h.execMsixUnmask
  | queueEnable => exact h.execQueueEnable
  | sqTailDoorbell => exact h.execSqTailDoorbell
  | cqHeadWrite => exact h.execCqHeadWrite
  | commandFetch => exact h.execCommandFetch
  | completionPost => exact h.execCompletionPost
  | run => exact h.execRun
  | copy => exact h.execCopy
  | loadImage => exact h.execLoadImage
  | loadMicrocode => exact h.execLoadMicrocode
  | capture => exact h.execCapture
  | epoch => exact h.execEpoch
  | fenceCommand => exact h.execFenceCommand
  | query => exact h.execQuery
  | hiExit => exact h.execHiExit
  | runTimeout => exact h.execRunTimeout
  | getVersion => exact h.execGetVersion
  | getCapabilities => exact h.execGetCapabilities
  | negotiateAlgorithms => exact h.execNegotiateAlgorithms
  | getDigests => exact h.execGetDigests
  | getCertificate => exact h.execGetCertificate
  | challenge => exact h.execChallenge
  | getMeasurements => exact h.execGetMeasurements
  | ident => exact h.execIdent
  | verified => exact h.execVerified
  | release => exact h.execRelease
  | cascadeLoadAbort => exact h.execCascadeLoadAbort
  | cascadeLoadTimeout => exact h.execCascadeLoadTimeout
  | dispatchFrame => exact h.execDispatchFrame
  | forwardedRequest => exact h.execForwardedRequest
  | orcPartial => exact h.execOrcPartial
  | edgeFrame => exact h.execEdgeFrame
  | tunnelledRequest => exact h.execTunnelledRequest
  | timebaseFirstSetting => exact h.execTimebaseFirstSetting
  | timebaseComparison => exact h.execTimebaseComparison
  | reinLaneFailure => exact h.execReinLaneFailure
  | bicPendSet => exact h.execBicPendSet
  | bicPendClr => exact h.execBicPendClr
  | bicMaskSet => exact h.execBicMaskSet
  | bicMaskClr => exact h.execBicMaskClr
  | bicEoi => exact h.execBicEoi
  | bicCicqPop ix _ => exact h.execBicCicqPop (_i := ix)
  | cicPendSet => exact h.execCicPendSet
  | cicPendClr => exact h.execCicPendClr
  | cicMaskSet => exact h.execCicMaskSet
  | cicMaskClr => exact h.execCicMaskClr
  | cicEoi => exact h.execCicEoi
  | cicRouteWrite => exact h.execCicRouteWrite
  | cicDelivery => exact h.execCicDelivery
  | cicIrqMessage => exact h.execCicIrqMessage
  | irqack => exact h.execIrqack
  | cicResendTimer => exact h.execCicResendTimer
  | wellheadEvent => exact h.execWellheadEvent
  | whTimerExpiry => exact h.execWhTimerExpiry
  | tdivWrite => exact h.execTdivWrite
  | dividerSwitch => exact h.execDividerSwitch
  | marginLowReport => exact h.execMarginLowReport
  | marginQuiet => exact h.execMarginQuiet
  | dividerReturn => exact h.execDividerReturn
  | voltageSettled => exact h.execVoltageSettled
  | powerSample => exact h.execPowerSample
  | powerRequest => exact h.execPowerRequest
  | autoHush => exact h.execAutoHush
  | domainWake => exact h.execDomainWake
  | domainWakeComplete => exact h.execDomainWakeComplete
  | supplySag => exact h.execSupplySag
  | inhibitRelease => exact h.execInhibitRelease
  | ownerLock => exact h.execOwnerLock
  | ownerTransfer => exact h.execOwnerTransfer
  | raiseFloor => exact h.execRaiseFloor
  | revokeVkey => exact h.execRevokeVkey
  | flashErase => exact h.execFlashErase
  | flashProgram => exact h.execFlashProgram
  | flashRead => exact h.execFlashRead
  | cartridgeInsert => exact h.execCartridgeInsert
  | cartridgeRemove => exact h.execCartridgeRemove
  | adopt => exact h.execAdopt
  | ckptSave => exact h.execCkptSave
  | ckptRestore => exact h.execCkptRestore
  | ckptPeriodicStart => exact h.execCkptPeriodicStart
  | ckptDone => exact h.execCkptDone
  | haltreq => exact h.execHaltreq
  | dbgRelease => exact h.execDbgRelease
  | dbgStep => exact h.execDbgStep
  | girthFire => exact h.execGirthFire
  | girthTrig => exact h.execGirthTrig
  | girthRelease => exact h.execGirthRelease
  | girthRelchip => exact h.execGirthRelchip
  | wdEnable => exact h.execWdEnable
  | wdKick => exact h.execWdKick
  | wdExpiry => exact h.execWdExpiry
  | timerStart => exact h.execTimerStart
  | timerExpiry => exact h.execTimerExpiry
  | qread => exact h.execQread
  | cread => exact h.execCread
  | awlWrite => exact h.execAwlWrite
  | pread => exact h.execPread
  | pwrite => exact h.execPwrite
  | awlAbort => exact h.execAwlAbort
  | stitchPortWrite => exact h.execStitchPortWrite
  | tracePacket => exact h.execTracePacket
  | warning => exact h.execWarning
  | spillwayWindowEnd => exact h.execSpillwayWindowEnd
  | captureEdge => exact h.execCaptureEdge
  | captureReadoutDone => exact h.execCaptureReadoutDone
  | gpioEdge => exact h.execGpioEdge
  | gpioConfigWrite => exact h.execGpioConfigWrite
  | thermalSample => exact h.execThermalSample
  | thermtrip => exact h.execThermtrip
  | powerDown => exact h.execPowerDown
  | refclkRestart => exact h.execRefclkRestart
  | pcieLinkTrained => exact h.execPcieLinkTrained
  | reinPartnerDetected => exact h.execReinPartnerDetected
  | rowSpareCopyDone => exact h.execRowSpareCopyDone
  | domainEntryComplete => exact h.execDomainEntryComplete
  | mailboxCommandDone => exact h.execMailboxCommandDone
  | doeDiscovery => exact h.execDoeDiscovery
  | hostReadCompletion => exact h.execHostReadCompletion

/-! ### The obligations -/

/-- Settles O58: the state that a command leaves is related to the one it found, so it has the same queue. -/
theorem everyCommandCompletes : Obligations.EveryCommandCompletes := by
  unfold Obligations.EveryCommandCompletes
  intro c s
  obtain ⟨t, e, k⟩ := (Keeps.refl s).exec (i := c)
  exact ⟨t, e, k.pending⟩

/-- Settles O60: the command at the front, or the cycle of an empty queue, leaves a related state. -/
theorem everyStepKeepsMemoryCanonical : Obligations.EveryStepKeepsMemoryCanonical := by
  unfold Obligations.EveryStepKeepsMemoryCanonical
  intro s t w e
  unfold step at e
  split at e
  · cases e
    exact (Keeps.refl s).cycle.memWf w
  next c rest _ =>
    obtain ⟨u, eu, k⟩ := (Keeps.refl { s with pending := rest }).exec (i := c)
    rw [eu] at e
    cases e
    exact k.memWf w

end Sys2Proof.Machine
end

section
/-! SUPPORT. MFC and MTC: what an instruction that issues plainly does however it ends, and what a register write stores. -/

namespace Sys2Proof.Machine

/-! ### Instructions that issue plainly -/

theorem fD_wordOf (op : Nat) (w : BitVec 24) : fD (wordOf op w) = fD w.toNat := wordOf_field op w 23 18 (by omega)

theorem fS_wordOf (op : Nat) (w : BitVec 24) : fS (wordOf op w) = fS w.toNat := wordOf_field op w 17 12 (by omega)

theorem fU_wordOf (op : Nat) (w : BitVec 24) : fU (wordOf op w) = fU w.toNat := wordOf_field op w 11 6 (by omega)

theorem fFN_wordOf (op : Nat) (w : BitVec 24) : fFN (wordOf op w) = fFN w.toNat := wordOf_field op w 5 0 (by omega)

/-- No load is pending, no repetition runs and no single step is under way. -/
theorem State.quiet_of_plain {s : State} {b : Nat} (hp : s.plain b = true) :
    (seqOf s b).loads = [] ∧ rgB s (R.PSR b) R.PSR_REPF = false ∧ (seqOf s b).stepping = false := by
  simp only [State.plain, Bool.and_eq_true, Bool.not_eq_true', List.isEmpty_iff] at hp
  obtain ⟨⟨⟨⟨⟨⟨_, hl⟩, _⟩, hr⟩, hst⟩, _⟩, _⟩ := hp
  exact ⟨hl, hr, hst⟩

/-- An instruction that neither waits nor parks is carried out and completed, however it ends. -/
theorem issue_plain_flow (s : State) (b w : Nat) (regs : List Nat) (noRep : Bool) (body : State → State × Flow)
    (hp : s.plain b = true) (s' : State) (f : Flow) (hb : body s = (s', f)) (hs : f ≠ .stay) (hk : f ≠ .park) :
    issue s b w regs noRep body = endStep (finish s s' b f) b := by
  obtain ⟨_, hr, _⟩ := State.quiet_of_plain hp
  simp only [State.plain, Bool.and_eq_true, Bool.not_eq_true', List.isEmpty_iff] at hp
  obtain ⟨⟨⟨⟨⟨⟨⟨⟨⟨hc, hn⟩, hok⟩, hx⟩, _⟩, _⟩, _⟩, _⟩, hf⟩, _⟩ := hp
  have hpc : pcOf s b ≤ 0x7FFF8 ∧ pcOf s b % 8 = 0 := by
    simp only [pcOk, Bool.and_eq_true, decide_eq_true_eq, beq_iff_eq] at hok
    omega
  unfold issue
  rw [if_neg (by simp [hc, hn])]
  simp only
  rw [if_neg (by omega), if_neg (by omega), if_neg (by simp [hx]), fetched_clean s b _ body hf, hb]
  simp [hr, hs, hk]

/-- An instruction that wrote registers, and left no loop's end and no repetition behind it, steps the program counter. -/
theorem finish_stepped (s s' : State) (b : Nat) (hp : s.plain b = true) (hq : seqOf s' b = seqOf s b)
    (hx : examined s' b = []) (hr : rgB s' (R.PSR b) R.PSR_REPF = false) :
    endStep (finish s s' b .next) b = s'.stepped b := by
  obtain ⟨hl, _, hst⟩ := State.quiet_of_plain hp
  have hret : finish s s' b .next = s'.stepped b := by
    simp [finish, retire, ageLoads, hq, hl, hr, stepPc, hx, loopEnd, State.stepped]
  have hseq : seqOf (s'.stepped b) b = seqOf s b := hq
  simp [hret, endStep, hseq, hst]

/-- A register field holds the low 64 bits of what is written to it. -/
theorem wr_mod (s : State) (b r v : Nat) : wr s b r (v % 2 ^ 64) = wr s b r v := by
  unfold wr writeId
  rw [Nat.mod_mod, Nat.mod_mod_of_dvd v (by decide : 2 ^ 24 ∣ 2 ^ 64)]

/-! ### Register writes -/

theorem putField_lt {acc : Acc} {msk old v : Nat} (ho : old < 2 ^ 64) (hv : v < 2 ^ 64) : putField acc msk old v < 2 ^ 64 := by
  have hand (x : Nat) : Nat.land old x < 2 ^ 64 := Nat.lt_of_le_of_lt Nat.and_le_left ho
  have hval : Nat.land v msk < 2 ^ 64 := Nat.lt_of_le_of_lt Nat.and_le_left hv
  cases acc with
  | rw => exact Nat.or_lt_two_pow (hand _) hval
  | w1c => exact hand _
  | w1s => exact Nat.or_lt_two_pow ho hval
  | ro | wo | rc | rse | sc => exact ho

/-- A write leaves a word of 64 bits. -/
theorem writtenReg_lt (s : State) (a m : Nat) {v : Nat} (hv : v < 2 ^ 64) : writtenReg s a m v < 2 ^ 64 := by
  unfold writtenReg
  split
  · exact rg_lt s a
  · extract_lets old merged w
    have ho : old < 2 ^ 64 := rg_lt s a
    clear_value old w
    rename_i c _
    induction c.fields generalizing old with
    | nil => exact ho
    | cons f l ih => exact ih _ (putField_lt ho hv)

/-- Raising a block's interrupt writes BIC_PEND alone. -/
theorem rg_bicRise_other (s₀ s : State) (b n : Nat) {a : Nat} (h : a ≠ R.BIC_PEND b) : rg (bicRise s₀ s b n) a = rg s a := by
  unfold bicRise
  split
  · exact rg_setF_other s h _ _
  · rfl

theorem seqOf_bicRise (s₀ s : State) (b n c : Nat) : seqOf (bicRise s₀ s b n) c = seqOf s c := by
  unfold bicRise
  split <;> rfl

theorem seqOf_writePlain (s : State) (a m v c : Nat) : seqOf (writePlain s a m v) c = seqOf s c := by
  unfold writePlain
  split
  · exact seqOf_bicRise s _ _ _ c
  · rfl

/-- DFLAG, whose write may raise an interrupt, is not BIC_PEND. -/
theorem ne_BIC_PEND_of_winOff {a : Nat} (h : winOff a = 0x720010) : a ≠ R.BIC_PEND (winBlk a) := by
  unfold winOff at h
  unfold R.BIC_PEND bwin
  omega

theorem rg_writePlain_same (s : State) (a m : Nat) {v : Nat} (hv : v < 2 ^ 64) :
    rg (writePlain s a m v) a = writtenReg s a m v := by
  have hset : rg (setRg s a (writtenReg s a m v)) a = writtenReg s a m v := by
    rw [rg_setRg_same, Nat.mod_eq_of_lt (writtenReg_lt s a m hv)]
  unfold writePlain
  split
  next h => rw [rg_bicRise_other s _ _ _ (ne_BIC_PEND_of_winOff h.2), hset]
  · exact hset

/-! ### MFC and MTC -/

theorem mtcWrite_of_ctlAddr {s : State} {b k v a : Nat} (ha : ctlAddr b k = some a) (hk : k ≠ 0x30)
    (hv : k = 0x23 → v.testBit 4 = false) : mtcWrite s b k v = writePlain s a (2 ^ 64 - 1) v := by
  have hab : ¬(k = 0x23 ∧ v.testBit 4 = true) := fun ⟨e, h⟩ => by simp [hv e] at h
  simp [mtcWrite, ha, hk, hab]

theorem mtcWrite_timebase (s : State) (b v : Nat) : mtcWrite s b 0x30 v = s := by
  unfold mtcWrite
  split <;> simp

theorem seqOf_mtcWrite {s : State} {b k v : Nat} (hv : k = 0x23 → v.testBit 4 = false) (c : Nat) :
    seqOf (mtcWrite s b k v) c = seqOf s c := by
  cases ha : ctlAddr b k with
  | none => simp [mtcWrite, ha]
  | some a =>
    by_cases hk : k = 0x30
    · rw [hk, mtcWrite_timebase]
    · rw [mtcWrite_of_ctlAddr ha hk hv, seqOf_writePlain]

theorem execMfc_reads {s : State} {b : Blk} {w : BitVec 24} (hp : s.plain b.toNat = true) {a : Nat} (hS : fS w.toNat = 0)
    (hU : fU w.toNat = 0) (ha : ctlAddr b.toNat (fFN w.toNat) = some a) :
    execMfc b w s = .next (s.withResult b.toNat (fD w.toNat) (BitVec.ofNat 64 (readReg s a))) := by
  unfold execMfc
  rw [issue_plain s _ _ _ _ _ hp (wr s b.toNat (fD w.toNat) (readReg s a))
      (by simp [fS_wordOf, fU_wordOf, fFN_wordOf, fD_wordOf, hS, hU, ha]),
    wr_plain s _ _ _ hp, State.withResult, BitVec.toNat_ofNat, wr_mod]

theorem execMfc_unassigned {s : State} {b : Blk} {w : BitVec 24} (hp : s.plain b.toNat = true) (hS : fS w.toNat = 0)
    (hU : fU w.toNat = 0) (ha : ctlAddr b.toNat (fFN w.toNat) = none) :
    execMfc b w s = .next (endStep (trapAt s b.toNat 3 (wordOf 0x50 w)) b.toNat) := by
  unfold execMfc
  rw [issue_plain_flow s _ _ _ _ _ hp s (.trap 3 (wordOf 0x50 w))
    (by simp [fS_wordOf, fU_wordOf, fFN_wordOf, hS, hU, ha, illegal]) (by simp) (by simp), finish]

theorem execMtc_writes {s : State} {b : Blk} {w : BitVec 24} (hp : s.plain b.toNat = true) {a : Nat} (hD : fD w.toNat = 0)
    (hU : fU w.toNat = 0) (ha : ctlAddr b.toNat (fFN w.toNat) = some a) :
    execMtc b w s = .next (endStep
      (finish s (mtcWrite s b.toNat (fFN w.toNat) (rd s b.toNat (fS w.toNat))) b.toNat .next) b.toNat) := by
  obtain ⟨_, hr, _⟩ := State.quiet_of_plain hp
  unfold execMtc
  rw [issue_plain s _ _ _ _ _ hp _ (by simp [fS_wordOf, fU_wordOf, fFN_wordOf, fD_wordOf, hD, hU, ha, hr]; rfl)]

/-- Settles O15: MFC and MTC issue plainly, and MTC's write is the one of the register's fields. -/
theorem controlRegisters : Obligations.ControlRegisters := by
  unfold Obligations.ControlRegisters
  intro s b w hp n k v s1
  refine ⟨fun a hS hU ha => execMfc_reads hp hS hU ha, fun a hD hU ha hv hx hr => ?_, fun a ha hk hv => ?_, fun hD hU hk => ?_,
    fun ha hS hU => execMfc_unassigned hp hS hU ha⟩
  · exact (execMtc_writes hp hD hU ha).trans (congrArg _ (finish_stepped s s1 n hp (seqOf_mtcWrite hv n) hx hr))
  · exact (congrArg (rg · a) (mtcWrite_of_ctlAddr ha hk hv)).trans (rg_writePlain_same s a _ (rd_lt s n _))
  · have ha : ctlAddr n (fFN w.toNat) = some (0x700300 + bwin n) := by
      rw [show fFN w.toNat = 0x30 from hk]
      rfl
    have h1 : s1 = s := by
      rw [show s1 = mtcWrite s n k v from rfl, hk, mtcWrite_timebase]
    refine (execMtc_writes hp hD hU ha).trans (congrArg _ ?_)
    rw [show mtcWrite s b.toNat (fFN w.toNat) (rd s b.toNat (fS w.toNat)) = s from h1]
    exact finish_plain s s n hp rfl rfl rfl rfl

end Sys2Proof.Machine
end

section
/-! SUPPORT. Register accesses (R4-R7): what a write and a consuming read do bit by bit to the fields of a card. -/

namespace Sys2Proof.Machine

/-! ### Masks -/

theorem testBit_fldMask (hi lo k : Nat) : (fldMask hi lo).testBit k = (decide (lo ≤ k) && decide (k ≤ hi)) := by
  rw [fldMask, Nat.testBit_mul_two_pow, Nat.testBit_two_pow_sub_one]
  by_cases h : lo ≤ k
  · simp only [h, decide_true, Bool.true_and, decide_eq_decide]
    omega
  · simp [h]

theorem fldMask_lt {hi : Nat} (lo : Nat) (h : hi < 64) : fldMask hi lo < 2 ^ 64 := by
  refine Nat.lt_pow_two_of_testBit _ fun k hk => ?_
  simp only [testBit_fldMask, Bool.and_eq_false_iff, decide_eq_false_iff_not]
  omega

/-- The complement of a word, bit by bit. -/
theorem testBit_compl {x k : Nat} (hx : x < 2 ^ 64) (hk : k < 64) : (2 ^ 64 - 1 - x).testBit k = !x.testBit k := by
  rw [Nat.sub_sub, Nat.add_comm 1 x, Nat.testBit_two_pow_sub_succ hx]
  simp [hk]

theorem testBit_land (x y k : Nat) : (Nat.land x y).testBit k = (x.testBit k && y.testBit k) :=
  Nat.testBit_and x y k

theorem testBit_lor (x y k : Nat) : (Nat.lor x y).testBit k = (x.testBit k || y.testBit k) :=
  Nat.testBit_or x y k

theorem land_lt_of_left {x n : Nat} (y : Nat) (h : x < n) : Nat.land x y < n :=
  Nat.lt_of_le_of_lt Nat.and_le_left h

theorem land_lt_of_right {y n : Nat} (x : Nat) (h : y < n) : Nat.land x y < n :=
  Nat.lt_of_le_of_lt Nat.and_le_right h

/-- Words with no common bit add up to their union. -/
theorem add_eq_or_of_disjoint {x y : Nat} (hx : x < 2 ^ 64) (hy : y < 2 ^ 64) (h : Nat.land x y = 0) : x + y = Nat.lor x y := by
  have hb : BitVec.ofNatLT x hx &&& BitVec.ofNatLT y hy = 0#64 := BitVec.eq_of_toNat_eq h
  have e := BitVec.toNat_add_of_and_eq_zero hb
  rw [BitVec.add_eq_or_of_and_eq_zero _ _ hb] at e
  exact e.symm

/-! ### The fields of the cards -/

/-- The fields of a card lie in its 64 bits and do not overlap. -/
def Card.fieldsOk (c : Card) : Bool :=
  decide (c.fields.Pairwise fun f g => f.1 < g.2.1 ∨ g.1 < f.2.1) && c.fields.all fun f => decide (f.1 < 64)

theorem mem_of_cardIn {o : Nat} {l : List Card} {c : Card} (h : cardIn o l = some c) : c ∈ l := by
  induction l with
  | nil => cases h
  | cons d l ih =>
    unfold cardIn at h
    split at h
    · cases h
      exact List.mem_cons_self
    · exact List.mem_cons_of_mem _ (ih h)

theorem cards_fieldsOk : (routerCards ++ blockCards ++ gatewayCards ++ chipCards).all Card.fieldsOk = true := by decide +kernel

theorem fieldsOk_of_cardAt {a : Nat} {c : Card} (h : cardAt a = some c) : c.fieldsOk = true := by
  refine List.all_eq_true.mp cards_fieldsOk c ?_
  simp only [List.mem_append]
  unfold cardAt at h
  split at h
  · exact .inl (.inl (.inl (mem_of_cardIn h)))
  · split_ifs at h
    · exact .inl (.inl (.inr (mem_of_cardIn h)))
    · exact .inl (.inr (mem_of_cardIn h))
    · exact .inr (mem_of_cardIn h)

theorem Card.fields_pairwise {c : Card} (h : c.fieldsOk = true) : c.fields.Pairwise fun f g => f.1 < g.2.1 ∨ g.1 < f.2.1 := by
  simp only [Card.fieldsOk, Bool.and_eq_true, decide_eq_true_eq] at h
  exact h.1

theorem Card.field_lt {c : Card} (h : c.fieldsOk = true) {f : Nat × Nat × Acc} (hf : f ∈ c.fields) : f.1 < 64 := by
  simp only [Card.fieldsOk, Bool.and_eq_true, List.all_eq_true, decide_eq_true_eq] at h
  exact h.2 f hf

/-! ### A write, bit by bit -/

/-- The bit that an access code leaves, of a bit old and a bit v written; w says whether the mask and the rules let the write
reach it. -/
def accessBit (acc : Acc) (w v old : Bool) : Bool :=
  match acc with
  | .rw => if w then v else old
  | .w1c => old && !(w && v)
  | .w1s => old || (w && v)
  | _ => old

theorem accessBit_unreached (acc : Acc) (v old : Bool) : accessBit acc false v old = old := by
  cases acc <;> simp [accessBit]

theorem testBit_putField {acc : Acc} {msk old v k : Nat} (hm : msk < 2 ^ 64) (hk : k < 64) :
    (putField acc msk old v).testBit k = accessBit acc (msk.testBit k) (v.testBit k) (old.testBit k) := by
  have hvm : Nat.land v msk < 2 ^ 64 := land_lt_of_right v hm
  cases acc with
  | rw =>
    change (Nat.lor (Nat.land old _) (Nat.land v msk)).testBit k = _
    rw [testBit_lor, testBit_land, testBit_land, testBit_compl hm hk]
    cases h : msk.testBit k <;> simp [accessBit]
  | w1c =>
    change (Nat.land old _).testBit k = _
    rw [testBit_land, testBit_compl hvm hk, testBit_land, Bool.and_comm (v.testBit k)]
    rfl
  | w1s =>
    change (Nat.lor old (Nat.land v msk)).testBit k = _
    rw [testBit_lor, testBit_land, Bool.and_comm (v.testBit k)]
    rfl
  | ro | wo | rc | rse | sc => rfl

section
variable {l : List (Nat × Nat × Acc)} {w v old k : Nat}

/-- The fields written over a word: its step for one field. -/
theorem testBit_putField_field (hw : w < 2 ^ 64) (hk : k < 64) (f : Nat × Nat × Acc) :
    (putField f.2.2 (Nat.land w (fldMask f.1 f.2.1)) old v).testBit k
      = accessBit f.2.2 (w.testBit k && (decide (f.2.1 ≤ k) && decide (k ≤ f.1))) (v.testBit k) (old.testBit k) := by
  rw [testBit_putField (land_lt_of_left _ hw) hk, testBit_land, testBit_fldMask]

theorem testBit_putFields_outside (hw : w < 2 ^ 64) (hk : k < 64) (ho : ∀ g ∈ l, k < g.2.1 ∨ g.1 < k) :
    (l.foldl (fun n f => putField f.2.2 (Nat.land w (fldMask f.1 f.2.1)) n v) old).testBit k = old.testBit k := by
  induction l generalizing old with
  | nil => rfl
  | cons g l ih =>
    have hg : (decide (g.2.1 ≤ k) && decide (k ≤ g.1)) = false := by
      rcases ho g List.mem_cons_self with h | h <;> simp [h]
    rw [List.foldl_cons, ih fun x hx => ho x (List.mem_cons_of_mem _ hx), testBit_putField_field hw hk, hg, Bool.and_false,
      accessBit_unreached]

theorem testBit_putFields (hw : w < 2 ^ 64) (hk : k < 64) (hl : l.Pairwise fun f g => f.1 < g.2.1 ∨ g.1 < f.2.1)
    {f : Nat × Nat × Acc} (hf : f ∈ l) (h1 : f.2.1 ≤ k) (h2 : k ≤ f.1) :
    (l.foldl (fun n f => putField f.2.2 (Nat.land w (fldMask f.1 f.2.1)) n v) old).testBit k
      = accessBit f.2.2 (w.testBit k) (v.testBit k) (old.testBit k) := by
  induction l generalizing old with
  | nil => cases hf
  | cons g l ih =>
    obtain ⟨hg, hl⟩ := List.pairwise_cons.mp hl
    rw [List.foldl_cons]
    rcases List.mem_cons.mp hf with rfl | hf
    · rw [testBit_putFields_outside hw hk fun x hx => (hg x hx).elim (fun h => .inl (by omega)) fun h => .inr (by omega),
        testBit_putField_field hw hk]
      simp [h1, h2]
    · have hout : (decide (g.2.1 ≤ k) && decide (k ≤ g.1)) = false := by
        rcases hg f hf with h | h
        · simp [show ¬ k ≤ g.1 by omega]
        · simp [show ¬ g.2.1 ≤ k by omega]
      rw [ih hl hf, testBit_putField_field hw hk, hout, Bool.and_false, accessBit_unreached]
end

/-- The bits that a rule keeps in a gateway register are a field's. -/
theorem keepBits_gateway_lt {s : State} {a : Nat} (v : Nat) (hw : inWin a = false) (ha : a < 0x040000000000) :
    keepBits s a v < 2 ^ 64 := by
  unfold keepBits keepIf
  rw [if_neg (by simp [hw]), if_neg (by omega)]
  split_ifs
  · decide
  · decide
  · decide

theorem testBit_writtenReg {s : State} {a : Nat} {c : Card} (hc : cardAt a = some c) {m v : Nat} (hm : m < 2 ^ 64)
    (hkeep : ∀ x, keepBits s a x < 2 ^ 64) {f : Nat × Nat × Acc} (hf : f ∈ c.fields) {k : Nat} (h1 : f.2.1 ≤ k) (h2 : k ≤ f.1) :
    (writtenReg s a m v).testBit k = accessBit f.2.2
      (m.testBit k && !(keepBits s a (Nat.lor (Nat.land (rg s a) (2 ^ 64 - 1 - m)) (Nat.land v m))).testBit k)
      (v.testBit k) ((rg s a).testBit k) := by
  have hok := fieldsOk_of_cardAt hc
  have hk : k < 64 := Nat.lt_of_le_of_lt h2 (Card.field_lt hok hf)
  unfold writtenReg
  rw [hc]
  simp only
  rw [testBit_putFields (land_lt_of_left _ hm) hk (Card.fields_pairwise hok) hf h1 h2, testBit_land,
    testBit_compl (hkeep _) hk]

/-! ### A consuming read -/

/-- The bits of the RC fields of a list of fields, over those of m. -/
def rcMask (m : Nat) (l : List (Nat × Nat × Acc)) : Nat :=
  l.foldl (fun m f => if f.2.2 = .rc then m + fldMask f.1 f.2.1 else m) m

theorem testBit_rcMask {l : List (Nat × Nat × Acc)} (hlt : ∀ f ∈ l, f.1 < 64)
    (hl : l.Pairwise fun f g => f.1 < g.2.1 ∨ g.1 < f.2.1) {m : Nat} (hm : m < 2 ^ 64)
    (hd : ∀ f ∈ l, Nat.land m (fldMask f.1 f.2.1) = 0) :
    rcMask m l < 2 ^ 64 ∧ ∀ k, (rcMask m l).testBit k
      = (m.testBit k || l.any fun f => f.2.2 == .rc && decide (f.2.1 ≤ k) && decide (k ≤ f.1)) := by
  induction l generalizing m with
  | nil => exact ⟨hm, fun k => by simp [rcMask]⟩
  | cons g l ih =>
    obtain ⟨hg, hl⟩ := List.pairwise_cons.mp hl
    have hlt' : ∀ f ∈ l, f.1 < 64 := fun f hf => hlt f (List.mem_cons_of_mem _ hf)
    have hd' : ∀ f ∈ l, Nat.land m (fldMask f.1 f.2.1) = 0 := fun f hf => hd f (List.mem_cons_of_mem _ hf)
    by_cases hrc : g.2.2 = .rc
    · have hgm := fldMask_lt g.2.1 (hlt g List.mem_cons_self)
      have hor := add_eq_or_of_disjoint hm hgm (hd g List.mem_cons_self)
      have e : rcMask m (g :: l) = rcMask (Nat.lor m (fldMask g.1 g.2.1)) l := by
        simp [rcMask, hrc, hor]
      have hd'' : ∀ f ∈ l, Nat.land (Nat.lor m (fldMask g.1 g.2.1)) (fldMask f.1 f.2.1) = 0 := fun f hf => by
        refine Nat.eq_of_testBit_eq fun k => ?_
        have hk := congrArg (Nat.testBit · k) (hd' f hf)
        simp only [testBit_land, Nat.zero_testBit] at hk
        rw [testBit_land, testBit_lor, Bool.and_or_distrib_right, hk, testBit_fldMask, testBit_fldMask]
        have hgf := hg f hf
        simp
        omega
      obtain ⟨h1, h2⟩ := ih hlt' hl (m := Nat.lor m (fldMask g.1 g.2.1)) (Nat.or_lt_two_pow hm hgm) hd''
      refine ⟨e ▸ h1, fun k => ?_⟩
      rw [e, h2, testBit_lor, testBit_fldMask, List.any_cons, hrc, Bool.or_assoc]
      rfl
    · have e : rcMask m (g :: l) = rcMask m l := by simp [rcMask, hrc]
      have hne : (g.2.2 == Acc.rc) = false := decide_eq_false hrc
      obtain ⟨h1, h2⟩ := ih hlt' hl hm hd'
      refine ⟨e ▸ h1, fun k => ?_⟩
      rw [e, h2, List.any_cons, hne]
      rfl

theorem testBit_rcMask_card {c : Card} (h : c.fieldsOk = true) : rcMask 0 c.fields < 2 ^ 64 ∧ ∀ k, (rcMask 0 c.fields).testBit k
    = c.fields.any fun f => f.2.2 == .rc && decide (f.2.1 ≤ k) && decide (k ≤ f.1) := by
  obtain ⟨h1, h2⟩ := testBit_rcMask (fun f => Card.field_lt h) (Card.fields_pairwise h) (m := 0) (by decide)
    fun f _ => Nat.zero_and _
  exact ⟨h1, fun k => by simpa using h2 k⟩

/-- A consuming read of a register that is no queue and no warning clears its RC fields. -/
theorem consumed_eq {s : State} {a : Nat} {c : Card} (hc : cardAt a = some c) (hq : a % 0x1000000 ≠ 0x780200)
    (hw : ¬(R.SPW_WARN 0 ≤ a ∧ a < R.SPW_WARN 16)) :
    consumed s a (2 ^ 64 - 1) = if rcMask 0 c.fields = 0 then s
      else setRg s a (Nat.land (rg s a) (2 ^ 64 - 1 - rcMask 0 c.fields)) := by
  have hm : Nat.land (rcMask 0 c.fields) (2 ^ 64 - 1) = rcMask 0 c.fields :=
    (Nat.and_two_pow_sub_one_eq_mod _ 64).trans (Nat.mod_eq_of_lt (testBit_rcMask_card (fieldsOk_of_cardAt hc)).1)
  have hw' : ¬(R.SPW_WARN 0 ≤ a ∧ a < R.SPW_WARN 16 ∧ (a - R.SPW_WARN 0) % 0x20 = 0) := fun ⟨h1, h2, _⟩ => hw ⟨h1, h2⟩
  unfold consumed
  rw [if_neg fun h => hq h.2, hc]
  change (if Nat.land (rcMask 0 c.fields) (2 ^ 64 - 1) = 0 then s else
    if _ then _ else setRg s a (Nat.land (rg s a) (2 ^ 64 - 1 - Nat.land (rcMask 0 c.fields) (2 ^ 64 - 1)))) = _
  rw [hm, if_neg hw']

theorem consumed_registers {s : State} {a : Nat} {c : Card} (hc : cardAt a = some c) (hq : a % 0x1000000 ≠ 0x780200)
    (hw : ¬(R.SPW_WARN 0 ≤ a ∧ a < R.SPW_WARN 16)) :
    (consumed s a (2 ^ 64 - 1)).out = s.out ∧ (∀ x, x ≠ a → rg (consumed s a (2 ^ 64 - 1)) x = rg s x)
      ∧ (consumed s a (2 ^ 64 - 1)).mem = s.mem
      ∧ ∀ k, k < 64 → (rg (consumed s a (2 ^ 64 - 1)) a).testBit k
          = ((rg s a).testBit k && !c.fields.any fun f => f.2.2 == .rc && decide (f.2.1 ≤ k) && decide (k ≤ f.1)) := by
  obtain ⟨hlt, hbit⟩ := testBit_rcMask_card (fieldsOk_of_cardAt hc)
  rw [consumed_eq hc hq hw]
  split_ifs with h
  · refine ⟨rfl, fun _ _ => rfl, rfl, fun k _ => ?_⟩
    rw [← hbit k, h]
    simp
  · refine ⟨rfl, fun x hx => rg_setRg_other s hx _, rfl, fun k hk => ?_⟩
    rw [rg_setRg_same, Nat.mod_eq_of_lt (land_lt_of_left _ (rg_lt s a)), testBit_land, testBit_compl hlt hk,
      hbit k]

/-! ### The commands -/

theorem not_inWin_of_gateway {a : Nat} (h1 : 0x030000000000 ≤ a) (h2 : a < 0x030010000000) : inWin a = false := by
  unfold inWin bwin idleFrom
  simp only [Bool.or_eq_false_iff, Bool.and_eq_false_iff, decide_eq_false_iff_not]
  omega

theorem regWrite_gateway {s : State} {a : Nat} {c : Card} (hc : cardAt a = some c) (h1 : 0x030000000000 ≤ a)
    (h2 : a < 0x030010000000) (i : Initiator) (k m v : Nat) : regWrite s i k a m v = setRg s a (writtenReg s a m v) := by
  have hw := not_inWin_of_gateway h1 h2
  have ht : regThere s a = true := by simp [regThere, hw, hc]
  unfold regWrite writePlain
  rw [if_neg (by simp [ht]), if_neg (by simp [hw]), if_neg (by omega), if_neg (by simp [hw])]

theorem execRegisterWrite_gateway {s : State} {i : Initiator} {a : Addr} {c : Card} (hc : cardAt a.toNat = some c) (m v : Word)
    (h1 : 0x030000000000 ≤ a.toNat) (h2 : a.toNat < 0x030010000000) :
    execRegisterWrite i a m v s = .next (setRg s a.toNat (writtenReg s a.toNat m.toNat v.toNat)) := by
  rw [execRegisterWrite, regWrite_gateway hc h1 h2]

theorem execConsumeRead_there {s : State} {a : Addr} (i : Initiator) (ht : regThere s a.toNat = true) :
    execConsumeRead i a s
      = .next (consumed (emit s (.regRead a.toNat (BitVec.ofNat 64 (readReg s a.toNat)))) a.toNat (2 ^ 64 - 1)) := by
  simp [execConsumeRead, ht]

/-- Settles O42: the fields of a card do not overlap, so each bit of a field follows that field's access code alone. -/
theorem registerAccess : Obligations.RegisterAccess := by
  unfold Obligations.RegisterAccess
  intro s i a c hc
  refine ⟨fun m v h1 h2 => ⟨_, execRegisterWrite_gateway hc m v h1 h2, ⟨rfl, fun x hx => ?_⟩, fun f hf k hlo hhi => ?_⟩,
    fun ht hq hw => ⟨_, execConsumeRead_there i ht, ?_⟩⟩
  · exact rg_setRg_other s (by simpa using hx) _
  · have hkeep (x : Nat) : keepBits s a.toNat x < 2 ^ 64 := keepBits_gateway_lt x (not_inWin_of_gateway h1 h2) (by omega)
    have h := testBit_writtenReg (v := v.toNat) hc m.isLt hkeep hf hlo hhi
    rw [rg_setRg_same, Nat.mod_eq_of_lt (writtenReg_lt s _ _ v.isLt), h]
    rfl
  · exact consumed_registers (s := emit s (.regRead a.toNat (BitVec.ofNat 64 (readReg s a.toNat)))) hc hq hw

end Sys2Proof.Machine
end

section
/-! SUPPORT. The machine right after power-on (R327, R461): with nothing listed every register reads its card's reset
value. -/

namespace Sys2Proof.Machine

/-- The register blocks of the routers lie outside the windows of the logical blocks (R29, R373). -/
theorem routerOf_window {b o : Nat} (hb : b < 128) (ho : o < 0x1000000) : routerOf (o + bwin b) = none := by
  unfold routerOf bwin
  rw [if_neg (by omega), if_neg (by omega)]

theorem cardAt_window {b o : Nat} (hb : b < 128) (ho : o < 0x1000000) : cardAt (o + bwin b) = cardIn o blockCards := by
  have hin : inWin (o + bwin b) = true := by
    have hlo : 0x010000000000 ≤ o + bwin b := by
      unfold bwin
      omega
    have hhi : o + bwin b < 0x010080000000 := by
      unfold bwin
      omega
    simp [inWin, hlo, hhi]
  have hoff : winOff (o + bwin b) = o := by
    unfold winOff bwin
    omega
  rw [cardAt, routerOf_window hb ho]
  simp [hin, hoff]

/-- The registers whose reset value depends on their number stand in chip control; one of a block's window has its card's. -/
theorem rg_reset_window {b o v : Nat} {c : Card} (hb : b < 128) (ho : o < 0x1000000) (hc : cardIn o blockCards = some c)
    (hv : c.reset % 2 ^ 64 = v) : rg State.reset (o + bwin b) = v := by
  have hroute : ¬ (0x040000201000 ≤ o + bwin b ∧ o + bwin b < 0x040000205000) := by
    unfold bwin
    omega
  have hdom : ¬ (0x040000301000 ≤ o + bwin b ∧ o + bwin b < 0x040000301B00) := by
    unfold bwin
    omega
  have hreset : regReset (o + bwin b) = BitVec.ofNat 64 c.reset := by
    rw [regReset, if_neg hroute, if_neg (by unfold bwin; omega), if_neg hdom, cardAt_window hb ho, hc]
  rw [← hv, ← BitVec.toNat_ofNat, ← hreset]
  rfl

/-- Settles O59: the cards give the registers their reset values, and what is not listed reads as cleared. -/
theorem resetValues : Obligations.ResetValues := by
  unfold Obligations.ResetValues
  refine ⟨rfl, rfl, rfl, rfl, rfl, by decide, by decide, fun a => ?_, fun _ _ => rfl, fun _ => rfl, rfl, fun b => ?_, ?_⟩
  · simp [State.reset, memDigit, memByte]
  · have hwin {o v : Nat} {c : Card} (ho : o < 0x1000000) (hc : cardIn o blockCards = some c) (hv : c.reset % 2 ^ 64 = v) :
        rg State.reset (o + bwin b.toNat) = v := rg_reset_window b.isLt ho hc hv
    exact ⟨hwin (by decide) rfl rfl, hwin (by decide) rfl rfl, hwin (by decide) rfl rfl, hwin (by decide) rfl rfl,
      hwin (by decide) rfl rfl, hwin (by decide) rfl rfl, hwin (by decide) rfl rfl, hwin (by decide) rfl rfl,
      hwin (by decide) rfl rfl⟩
  · decide +kernel

end Sys2Proof.Machine
end

section
/-! SUPPORT. Bit fields and register fields: what each reads as after another has been written. -/

namespace Sys2Proof.Machine

/-! ### Bit fields -/

theorem testBit_bits (v hi lo k : Nat) : (bits v hi lo).testBit k = (decide (k < hi + 1 - lo) && v.testBit (lo + k)) := by
  rw [bits, Nat.testBit_mod_two_pow, Nat.testBit_div_two_pow, Nat.add_comm k]

/-- What is put into a field stands between the bits below it and those above it. -/
theorem putBits_eq (v hi lo x : Nat) : putBits v hi lo x
    = 2 ^ lo * (2 ^ (hi + 1 - lo) * (v / 2 ^ lo / 2 ^ (hi + 1 - lo)) + x % 2 ^ (hi + 1 - lo)) + v % 2 ^ lo := by
  unfold putBits bits
  have hlow := Nat.div_add_mod v (2 ^ lo)
  have hfld := Nat.div_add_mod (v / 2 ^ lo) (2 ^ (hi + 1 - lo))
  generalize v / 2 ^ lo / 2 ^ (hi + 1 - lo) = h at hfld ⊢
  generalize v / 2 ^ lo % 2 ^ (hi + 1 - lo) = f at hfld ⊢
  rw [← hfld] at hlow
  rw [Nat.mul_comm f]
  have hsum : v = 2 ^ lo * f + (2 ^ lo * (2 ^ (hi + 1 - lo) * h) + v % 2 ^ lo) := by
    rw [← Nat.add_assoc, ← Nat.mul_add, Nat.add_comm f]
    exact hlow.symm
  rw [show v - 2 ^ lo * f = 2 ^ lo * (2 ^ (hi + 1 - lo) * h) + v % 2 ^ lo by omega]
  ring

theorem testBit_putBits (v hi lo x k : Nat) :
    (putBits v hi lo x).testBit k = if lo ≤ k ∧ k ≤ hi then x.testBit (k - lo) else v.testBit k := by
  rw [putBits_eq, Nat.testBit_two_pow_mul_add _ (Nat.mod_lt _ (Nat.two_pow_pos lo)),
    Nat.testBit_two_pow_mul_add _ (Nat.mod_lt _ (Nat.two_pow_pos _)), Nat.testBit_mod_two_pow, Nat.testBit_mod_two_pow,
    Nat.testBit_div_two_pow, Nat.testBit_div_two_pow]
  by_cases hlo : k < lo
  · simp [hlo, show ¬ lo ≤ k by omega]
  · by_cases hhi : k ≤ hi
    · simp [hlo, hhi, show lo ≤ k by omega, show k - lo < hi + 1 - lo by omega]
    · simp [hlo, hhi, show ¬ k - lo < hi + 1 - lo by omega,
        show k - lo - (hi + 1 - lo) + (hi + 1 - lo) + lo = k by omega]

theorem bits_lt (v hi lo : Nat) : bits v hi lo < 2 ^ (hi + 1 - lo) := Nat.mod_lt _ (Nat.two_pow_pos _)

/-- Putting a field leaves every other field. -/
theorem bits_putBits_other {hi lo hi' lo' : Nat} (h : hi < lo' ∨ hi' < lo) (v x : Nat) :
    bits (putBits v hi lo x) hi' lo' = bits v hi' lo' := by
  refine Nat.eq_of_testBit_eq fun k => ?_
  rw [testBit_bits, testBit_bits, testBit_putBits]
  by_cases hk : k < hi' + 1 - lo'
  · rw [if_neg (by omega)]
  · simp [hk]

theorem putBits_lt {v hi n : Nat} (lo x : Nat) (hv : v < 2 ^ n) (hhi : hi < n) : putBits v hi lo x < 2 ^ n := by
  refine Nat.lt_pow_two_of_testBit _ fun k hk => ?_
  rw [testBit_putBits, if_neg (by omega)]
  exact Nat.testBit_lt_two_pow (lt_of_lt_of_le hv (Nat.pow_le_pow_right (by decide) hk))

/-! ### Register fields -/

theorem rg_setF_same (s : State) (a : Nat) {f : Fld} (h : f.hi < 64) (v : Nat) :
    rg (setF s a f v) a = putBits (rg s a) f.hi f.lo v := by
  rw [setF, rg_setRg_same, Nat.mod_eq_of_lt (putBits_lt _ _ (rg_lt s a) h)]

/-- A register field just set reads as what was set, cut to its width. -/
theorem rgF_setF_same (s : State) (a : Nat) {f : Fld} (h : f.hi < 64) (v : Nat) :
    rgF (setF s a f v) a f = v % 2 ^ (f.hi + 1 - f.lo) := by
  rw [rgF, rg_setF_same s a h, bits_putBits_same]

/-- Setting a field leaves the other fields of its register. -/
theorem rgF_setF_field (s : State) (a : Nat) {f g : Fld} (h : f.hi < 64) (hd : f.hi < g.lo ∨ g.hi < f.lo) (v : Nat) :
    rgF (setF s a f v) a g = rgF s a g := by
  rw [rgF, rg_setF_same s a h, bits_putBits_other hd, rgF]

theorem rgF_setF_other (s : State) {a a' : Nat} (h : a' ≠ a) (f g : Fld) (v : Nat) : rgF (setF s a f v) a' g = rgF s a' g := by
  rw [rgF, rg_setF_other s h, rgF]

theorem rgF_setRg_other (s : State) {a a' : Nat} (h : a' ≠ a) (v : Nat) (g : Fld) : rgF (setRg s a v) a' g = rgF s a' g := by
  rw [rgF, rg_setRg_other s h, rgF]

theorem rgF_lt (s : State) (a : Nat) (f : Fld) : rgF s a f < 2 ^ (f.hi + 1 - f.lo) := bits_lt _ _ _

theorem rgF_congr {s t : State} (h : t.regs = s.regs) (a : Nat) (f : Fld) : rgF t a f = rgF s a f := by
  rw [rgF, rg_congr h, rgF]

theorem rgB_congr {s t : State} (h : t.regs = s.regs) (a : Nat) (f : Fld) : rgB t a f = rgB s a f := by
  rw [rgB, rgF_congr h, rgB]

@[simp] theorem rgF_emit (s : State) (o : Out) (a : Nat) (f : Fld) : rgF (emit s o) a f = rgF s a f := rfl

@[simp] theorem rgB_emit (s : State) (o : Out) (a : Nat) (f : Fld) : rgB (emit s o) a f = rgB s a f := rfl

/-- A one-bit field just set reads as what was set. -/
theorem rgB_setB_same (s : State) (a : Nat) {f : Fld} (h : f.hi < 64) (hw : f.lo = f.hi) (v : Bool) :
    rgB (setB s a f v) a f = v := by
  rw [rgB, setB, rgF_setF_same s a h, hw, show f.hi + 1 - f.hi = 1 by omega]
  cases v <;> rfl

theorem rgB_setF_field (s : State) (a : Nat) {f g : Fld} (h : f.hi < 64) (hd : f.hi < g.lo ∨ g.hi < f.lo) (v : Nat) :
    rgB (setF s a f v) a g = rgB s a g := by
  rw [rgB, rgF_setF_field s a h hd, rgB]

theorem rgB_setF_other (s : State) {a a' : Nat} (h : a' ≠ a) (f g : Fld) (v : Nat) : rgB (setF s a f v) a' g = rgB s a' g := by
  rw [rgB, rgF_setF_other s h, rgB]

theorem rgB_setRg_other (s : State) {a a' : Nat} (h : a' ≠ a) (v : Nat) (g : Fld) : rgB (setRg s a v) a' g = rgB s a' g := by
  rw [rgB, rgF_setRg_other s h, rgB]

/-- A counting field just incremented saturates at its largest value. -/
theorem rgF_addSat_same (s : State) (a : Nat) {f : Fld} (h : f.hi < 64) (n : Nat) :
    rgF (addSat s a f n) a f = min (rgF s a f + n) f.top := by
  rw [addSat, rgF_setF_same s a h, Nat.mod_eq_of_lt]
  have := Nat.two_pow_pos (f.hi + 1 - f.lo)
  unfold Fld.top
  omega

end Sys2Proof.Machine
end

section
/-! SUPPORT. The control store (R276-R282): what a word, its parity and an access read as after the store is written. -/

namespace Sys2Proof.Machine

/-! ### Parity (R277) -/

/-- Parity bit j of a microword: that of its bits 48 j to 48 j + 47. -/
def parityBit (w j : Nat) : Nat := (∑ i ∈ Finset.range 48, bits w (48 * j + i) (48 * j + i)) % 2

theorem csParity_eq (w : Nat) :
    csParity w = parityBit w 0 + parityBit w 1 * 2 + parityBit w 2 * 4 + parityBit w 3 * 8 := by
  have hsum (f : Nat → Nat) (n : Nat) : (List.range n).foldl (fun p j => p + f j) 0 = ∑ i ∈ Finset.range n, f i := by
    induction n with
    | zero => rfl
    | succ n ih => rw [List.range_succ, List.foldl_append, Finset.sum_range_succ, ih]; rfl
  unfold csParity
  rw [hsum fun n => (List.range 48).foldl (fun p j => p + bits w (48 * n + j) (48 * n + j)) 0 % 2 * 2 ^ n]
  simp [Finset.sum_range_succ _ 3, Finset.sum_range_succ _ 2, Finset.sum_range_succ _ 1, hsum, parityBit]

theorem parityBit_lt (w j : Nat) : parityBit w j < 2 := Nat.mod_lt _ (by decide)

theorem csParity_lt (w : Nat) : csParity w < 16 := by
  have h0 := parityBit_lt w 0
  have h1 := parityBit_lt w 1
  have h2 := parityBit_lt w 2
  have h3 := parityBit_lt w 3
  rw [csParity_eq]
  omega

theorem bit_eq_toNat (w k : Nat) : bits w k k = (w.testBit k).toNat := by
  rw [bits, Nat.testBit_eq_decide_div_mod_eq, show k + 1 - k = 1 by omega]
  have := Nat.mod_lt (w / 2 ^ k) (by decide : 0 < 2)
  by_cases h : w / 2 ^ k % 2 = 1
  · simp [h]
  · simp [h]; omega

/-- Words that differ in one bit alone differ in parity. -/
theorem csParity_ne_of_flip {v w k : Nat} (hk : k < 192) (h : w.testBit k = !v.testBit k)
    (ho : ∀ j, j ≠ k → w.testBit j = v.testBit j) : csParity w ≠ csParity v := by
  obtain ⟨i, j, hi, hj, rfl⟩ : ∃ i j, i < 48 ∧ j < 4 ∧ k = 48 * j + i := ⟨k % 48, k / 48, by omega, by omega, by omega⟩
  have hne : parityBit w j ≠ parityBit v j := by
    have hrest : ∑ x ∈ Finset.range 48 \ {i}, bits w (48 * j + x) (48 * j + x)
        = ∑ x ∈ Finset.range 48 \ {i}, bits v (48 * j + x) (48 * j + x) := by
      refine Finset.sum_congr rfl fun x hx => ?_
      have hxi : x ≠ i := by simpa using (Finset.mem_sdiff.mp hx).2
      rw [bit_eq_toNat, bit_eq_toNat, ho _ (by omega)]
    unfold parityBit
    rw [Finset.sum_eq_sum_sdiff_singleton_add (Finset.mem_range.mpr hi), hrest,
      Finset.sum_eq_sum_sdiff_singleton_add (Finset.mem_range.mpr hi) fun x => bits v (48 * j + x) (48 * j + x),
      bit_eq_toNat, bit_eq_toNat, h]
    cases v.testBit (48 * j + i)
    · simp only [Bool.not_false, Bool.toNat_true, Bool.toNat_false]
      omega
    · simp only [Bool.not_true, Bool.toNat_true, Bool.toNat_false]
      omega
  rw [csParity_eq, csParity_eq]
  have hv (m : Nat) := parityBit_lt v m
  have hw (m : Nat) := parityBit_lt w m
  have hv0 := hv 0; have hv1 := hv 1; have hv2 := hv 2; have hv3 := hv 3
  have hw0 := hw 0; have hw1 := hw 1; have hw2 := hw 2; have hw3 := hw 3
  interval_cases j <;> omega

/-- A word of 192 bits with its parity above it. -/
def parityOk (v : Nat) : Prop := v / 2 ^ 192 = csParity (v % 2 ^ 192)

/-- An upset of one bit of a word with its parity shows. -/
theorem not_parityOk_of_flip {v w k : Nat} (hv : parityOk v) (hbit : ∀ j, w.testBit j = (v.testBit j ^^ decide (j = k))) :
    ¬ parityOk w := by
  have hmod (x j : Nat) : (x % 2 ^ 192).testBit j = (decide (j < 192) && x.testBit j) := Nat.testBit_mod_two_pow ..
  have hdiv (x j : Nat) : (x / 2 ^ 192).testBit j = x.testBit (j + 192) := Nat.testBit_div_two_pow ..
  unfold parityOk at hv ⊢
  by_cases hk : k < 192
  · have hhigh : w / 2 ^ 192 = v / 2 ^ 192 := Nat.eq_of_testBit_eq fun j => by
      rw [hdiv, hdiv, hbit, decide_eq_false (by omega), Bool.xor_false]
    rw [hhigh, hv]
    refine (csParity_ne_of_flip hk ?_ fun j hj => ?_).symm
    · rw [hmod, hmod, hbit, decide_eq_true hk, decide_eq_true rfl, Bool.xor_true, Bool.true_and, Bool.true_and]
    · rw [hmod, hmod, hbit, decide_eq_false hj, Bool.xor_false]
  · have hlow : w % 2 ^ 192 = v % 2 ^ 192 := Nat.eq_of_testBit_eq fun j => by
      rw [hmod, hmod, hbit]
      by_cases hj : j < 192
      · rw [decide_eq_false (show j ≠ k by omega), Bool.xor_false]
      · rw [decide_eq_false hj, Bool.false_and, Bool.false_and]
    rw [hlow, ← hv]
    intro h
    have hbit' := congrArg (Nat.testBit · (k - 192)) h
    simp only [hdiv, hbit, show k - 192 + 192 = k by omega, decide_true, Bool.xor_true] at hbit'
    cases hb : v.testBit k <;> simp [hb] at hbit'

theorem testBit_xor_twoPow (v : BitVec 196) (k : Fin 196) (j : Nat) :
    (v ^^^ BitVec.twoPow 196 k.val).toNat.testBit j = (v.toNat.testBit j ^^ decide (j = k.val)) := by
  rw [BitVec.toNat_xor, Nat.testBit_xor, BitVec.toNat_twoPow_of_lt k.isLt, Nat.testBit_two_pow]
  simp [eq_comm]

/-! ### The stored words -/

/-- The entry behind word n of block b: an upset of a vendor word, or a customer word. -/
def csStoreOf (s : State) (b n : Nat) : BitVec 196 :=
  mapGet 0 (16384 * b + n) (if n < 12288 then s.csFlip else s.cs)

theorem csBad_eq_false_iff (s : State) (b n : Nat) : csBad s b n = false ↔ parityOk (csStoreOf s b n).toNat := by
  simp [csBad, parityOk, csStoreOf]

theorem csBad_csUpset {s : State} {b n : Nat} (h : csBad s b n = false) (k : Fin 196) :
    csBad (csUpset s b n (.bit k)) b n = true := by
  rw [csBad_eq_false_iff] at h
  have hflip : csStoreOf (csUpset s b n (.bit k)) b n = csStoreOf s b n ^^^ BitVec.twoPow 196 k.val := by
    unfold csStoreOf csUpset
    split_ifs <;> exact mapGet_set_same ..
  rw [← Bool.not_eq_false, csBad_eq_false_iff, hflip]
  exact not_parityOk_of_flip h (testBit_xor_twoPow _ k)

theorem csWord_customer {s : State} {b n : Nat} (hn : 12288 ≤ n) :
    csWord s b n = (mapGet (0 : BitVec 196) (16384 * b + n) s.cs).toNat % 2 ^ 192 := by
  rw [csWord, csFilled, if_neg (by omega), if_neg (by omega), if_neg (by omega)]

theorem csWord_customer_lt {s : State} {b n : Nat} (hn : 12288 ≤ n) : csWord s b n < 2 ^ 192 := by
  rw [csWord_customer hn]
  exact Nat.mod_lt _ (Nat.two_pow_pos 192)

/-- A word written to the store, with its parity. -/
theorem csStoreOf_csSet {s : State} {b n w : Nat} (hn : 12288 ≤ n) :
    (csStoreOf (csSet s b n w) b n).toNat = csParity w * 2 ^ 192 + w % 2 ^ 192 := by
  have hp := csParity_lt w
  have hw : w % 2 ^ 192 < 2 ^ 192 := Nat.mod_lt w (Nat.two_pow_pos 192)
  rw [csStoreOf, if_neg (by omega)]
  refine (congrArg BitVec.toNat (mapGet_set_same ..)).trans ?_
  rw [BitVec.toNat_ofNat, Nat.mod_eq_of_lt (by omega)]

theorem csWord_csSet_same {s : State} {b n w : Nat} (hn : 12288 ≤ n) (hw : w < 2 ^ 192) : csWord (csSet s b n w) b n = w := by
  have h := csStoreOf_csSet (s := s) (b := b) (w := w) hn
  rw [csStoreOf, if_neg (by omega)] at h
  rw [csWord_customer hn, h, Nat.mul_add_mod_self_right, Nat.mod_mod, Nat.mod_eq_of_lt hw]

theorem csBad_csSet_same {s : State} {b n w : Nat} (hn : 12288 ≤ n) (hw : w < 2 ^ 192) :
    csBad (csSet s b n w) b n = false := by
  rw [csBad_eq_false_iff, csStoreOf_csSet hn, parityOk, Nat.mod_eq_of_lt hw]
  rw [Nat.add_comm, Nat.add_mul_div_right _ _ (Nat.two_pow_pos 192), Nat.div_eq_of_lt hw, Nat.add_mul_mod_self_right,
    Nat.mod_eq_of_lt hw, Nat.zero_add]

theorem csFlip_csSet (s : State) (b n w : Nat) : (csSet s b n w).csFlip = s.csFlip := by
  unfold csSet
  exact setRg_csFlip ..

theorem seqs_csSet (s : State) (b n w : Nat) : (csSet s b n w).seqs = s.seqs := by
  unfold csSet
  exact setRg_seqs ..

/-- Writing a customer word leaves the other words of the block's store. -/
theorem csWord_csSet_other {s : State} {b n m w : Nat} (hb : b < 128) (hn : n < 16384) (hm : m < 16384) (h : m ≠ n) :
    csWord (csSet s b n w) b m = csWord s b m := by
  have hcs (k : Nat) (hk : k ≠ 16384 * b + n) :
      mapGet (0 : BitVec 196) k (csSet s b n w).cs = mapGet (0 : BitVec 196) k s.cs := mapGet_set_other _ _ hk _ _
  have hfilled : csFilled (csSet s b n w) b m = csFilled s b m := by
    unfold csFilled
    rw [hcs _ (by split_ifs <;> omega)]
  rw [csWord, csFlipped, hfilled, csFlip_csSet, csWord, csFlipped]

/-! ### Accesses -/

/-- A word with the 64 bits from lo on replaced by a staged quarter, if there is one. -/
def putQuarter (o lo : Nat) (q : Option Word) : Nat := match q with | some v => putBits o (lo + 63) lo v.toNat | none => o

theorem putQuarter_lt {o lo : Nat} (q : Option Word) (ho : o < 2 ^ 192) (hlo : lo ≤ 128) : putQuarter o lo q < 2 ^ 192 := by
  cases q with
  | none => exact ho
  | some v => exact putBits_lt _ _ ho (by omega)

theorem bits_putQuarter_same (o lo : Nat) (q : Option Word) : bits (putQuarter o lo q) (lo + 63) lo
    = q.elim (bits o (lo + 63) lo) BitVec.toNat := by
  cases q with
  | none => rfl
  | some v => exact (bits_putBits_same ..).trans (by rw [show lo + 63 + 1 - lo = 64 by omega, Nat.mod_eq_of_lt v.isLt]; rfl)

theorem bits_putQuarter_other {hi lo k : Nat} (h : k + 63 < lo ∨ hi < k) (o : Nat) (q : Option Word) :
    bits (putQuarter o k q) hi lo = bits o hi lo := by
  cases q with
  | none => rfl
  | some v => exact bits_putBits_other h o _

/-- The stored word with the staged quarters of a commit in place (R279). -/
def mergedWord (p : CsPend) (o : Nat) : Nat := putQuarter (putQuarter (putQuarter o 128 p.q0) 64 p.q1) 0 p.q2

theorem mergedWord_lt (p : CsPend) {o : Nat} (h : o < 2 ^ 192) : mergedWord p o < 2 ^ 192 :=
  putQuarter_lt _ (putQuarter_lt _ (putQuarter_lt _ h (by decide)) (by decide)) (by decide)

/-- Each quarter of the merged word is the staged one, or the stored one where none is staged. -/
theorem mergedWord_quarters (p : CsPend) (o : Nat) :
    bits (mergedWord p o) 191 128 = p.q0.elim (bits o 191 128) BitVec.toNat
    ∧ bits (mergedWord p o) 127 64 = p.q1.elim (bits o 127 64) BitVec.toNat
    ∧ bits (mergedWord p o) 63 0 = p.q2.elim (bits o 63 0) BitVec.toNat := by
  unfold mergedWord
  refine ⟨?_, ?_, ?_⟩
  · rw [bits_putQuarter_other (by decide), bits_putQuarter_other (by decide)]
    exact bits_putQuarter_same o 128 p.q0
  · rw [bits_putQuarter_other (by decide), bits_putQuarter_same _ 64, bits_putQuarter_other (by decide)]
  · rw [bits_putQuarter_same _ 0, bits_putQuarter_other (by decide), bits_putQuarter_other (by decide)]

theorem csApply_read {s : State} {b : Nat} {p : CsPend} {j : BitVec 2} (h : p.rd = some j) : csApply s b p
    = emit (csReadMark s b p.n.toNat p.sec)
      (.regRead (0x400000 + bwin b + 64 * p.n.toNat + 16 * j.toNat) (BitVec.ofNat 64 (csQuarter s b p.n.toNat j.toNat p.sec))) := by
  rw [csApply, h]

theorem csApply_commit {s : State} {b : Nat} {p : CsPend} (h : p.rd = none) (he : p.entry = false) :
    csApply s b p = csSet s b p.n.toNat (mergedWord p (csWord s b p.n.toNat)) := by
  rw [csApply, h, he]
  rfl

theorem csReadMark_cs (s : State) (b n : Nat) (sec : Bool) : (csReadMark s b n sec).cs = s.cs := by
  unfold csReadMark
  split <;> rfl

theorem csReadMark_out (s : State) (b n : Nat) (sec : Bool) : (csReadMark s b n sec).out = s.out := by
  unfold csReadMark
  split <;> rfl

theorem seqOf_csReadMark (s : State) (b n c : Nat) (sec : Bool) : seqOf (csReadMark s b n sec) c = seqOf s c := by
  unfold csReadMark
  split <;> rfl

theorem rgB_csReadMark (s : State) (b n : Nat) (sec : Bool) :
    rgB (csReadMark s b n sec) (R.MC_STATUS b) R.MC_STATUS_RDPE
      = ((csBad s b n && (decide (12288 ≤ n) || sec)) || rgB s (R.MC_STATUS b) R.MC_STATUS_RDPE) := by
  unfold csReadMark
  split
  next h => rw [rgB_setB_same s _ (by decide) (by decide), h, Bool.true_or]
  next h => rw [Bool.eq_false_iff.mpr h, Bool.false_or]

/-- An access finds its cycle while no fetch takes it and none waits before it (R20). -/
theorem csAccess_free {s : State} {b : Nat} {p : CsPend} (hf : fetching s b = false) (hw : (seqOf s b).csWait = []) :
    csAccess s b p = csApply s b p := by
  simp [csAccess, hf, csFlush, hw]

theorem csAccess_waits {s : State} {b : Nat} {p : CsPend} (hf : fetching s b = true) :
    csAccess s b p = updSeq s b fun q => { q with csWait := q.csWait ++ [p] } := by
  simp [csAccess, hf]

/-- Staging or taking quarters does not change whether a fetch takes the cycles. -/
theorem fetching_stage (s : State) (b : Nat) (z : Option (BitVec 14 × Option Word × Option Word × Option Word)) :
    fetching (updSeq s b fun q => { q with stage := z }) b = fetching s b := by
  have hseq (c : Nat) : seqOf (updSeq s b fun q => { q with stage := z }) c
      = if c = b then { seqOf s b with stage := z } else seqOf s c := by
    split_ifs with h
    · rw [h, seqOf_updSeq_same]
    · exact seqOf_setSeq_other s h _
  have hmicro (c : Nat) : (seqOf (updSeq s b fun q => { q with stage := z }) c).micro = (seqOf s c).micro := by
    rw [hseq]
    split_ifs with h <;> simp [h]
  have hprog (c : Nat) : (seqOf (updSeq s b fun q => { q with stage := z }) c).inProg = (seqOf s c).inProg := by
    rw [hseq]
    split_ifs with h <;> simp [h]
  have hresume (c : Nat) : (seqOf (updSeq s b fun q => { q with stage := z }) c).resume = (seqOf s c).resume := by
    rw [hseq]
    split_ifs with h <;> simp [h]
  have hrun (c : Nat) : runnable (updSeq s b fun q => { q with stage := z }) c = runnable s c := by
    unfold runnable farRun
    rw [hprog, hresume, hmicro]
    rfl
  have hexec (c : Nat) : executing (updSeq s b fun q => { q with stage := z }) c = executing s c := by
    rw [executing, hrun]
    rfl
  rw [fetching, hmicro, hexec]
  rfl

/-- An upset of a word changes neither the fetch nor what waits. -/
theorem csAccess_upset_free {s : State} {b n : Nat} {i : Fin 196} {p : CsPend} (hf : fetching s b = false)
    (hw : (seqOf s b).csWait = []) : csAccess (csUpset s b n (.bit i)) b p = csApply (csUpset s b n (.bit i)) b p := by
  refine csAccess_free (Eq.trans ?_ hf) (Eq.trans ?_ hw)
  all_goals
    simp only [csUpset]
    split <;> rfl

/-! ### The commands -/

theorem csTake_staged {s : State} {b : Nat} {n : BitVec 14} {q : Option Word × Option Word × Option Word}
    (h : (seqOf s b).stage = some (n, q)) : csTake s b n.toNat
      = (updSeq s b fun z => { z with stage := none }, { n := n, q0 := q.1, q1 := q.2.1, q2 := q.2.2 }) := by
  simp [csTake, h]

theorem execCsCommit_staged {s : State} {b : Blk} {n : BitVec 14} {q : Option Word × Option Word × Option Word}
    (hn : 12288 ≤ n.toNat) (h : (seqOf s b.toNat).stage = some (n, q)) : execCsCommit b n s
      = .next (csAccess (updSeq s b.toNat fun z => { z with stage := none }) b.toNat
        { n := n, q0 := q.1, q1 := q.2.1, q2 := q.2.2 }) := by
  rw [execCsCommit, if_neg (by omega), csTake_staged h]

theorem execCsHoldGrant_waiting {s : State} {b : Blk} {p : CsPend} {r : List CsPend}
    (h : (seqOf s b.toNat).csWait = p :: r) : execCsHoldGrant b s
      = .next (csApply (updSeq s b.toNat fun q => { q with csWait := r }) b.toNat p) := by
  simp only [execCsHoldGrant, h]

/-- The reserved bits and the lock of an entry are what a write of it is checked for (R282). -/
theorem dtEntry_dtWrite {s : State} {b e v : Nat} (he : e / 16 = 14) (hs : 0x3000 ≤ bits v 13 0) (hl : v.testBit 62 = false)
    (hr : bits v 56 14 = 0) (hv : v < 2 ^ 64) : dtEntry (dtWrite s b e true v) b e = v := by
  have hset : dtWrite s b e true v = dtSet s b e v := by
    simp [dtWrite, he, hl, hr, show ¬ bits v 13 0 < 0x3000 by omega]
  rw [dtEntry, if_pos he, hset]
  refine (congrArg BitVec.toNat (mapGet_set_same ..)).trans ?_
  rw [BitVec.toNat_ofNat, Nat.mod_eq_of_lt hv]

theorem csStage_fresh {s : State} {b : Nat} {n : BitVec 14} {q v : Nat} (hn : 12288 ≤ n.toNat) (hq : q < 3)
    (h : (seqOf s b).stage = none) : csStage s b n.toNat q v = updSeq s b fun z => { z with stage := some (n,
      if q = 0 then some (BitVec.ofNat 64 v) else none, if q = 1 then some (BitVec.ofNat 64 v) else none,
      if q = 2 then some (BitVec.ofNat 64 v) else none) } := by
  unfold csStage
  rw [if_neg (by omega), h]
  interval_cases q <;> simp

/-- A commit outside a fetch merges its quarters into the word, and into no other. -/
theorem csApply_commit_word {s : State} {b : Nat} {p : CsPend} (hb : b < 128) (h : p.rd = none) (he : p.entry = false)
    (hn : 12288 ≤ p.n.toNat) : csWord (csApply s b p) b p.n.toNat = mergedWord p (csWord s b p.n.toNat)
      ∧ csBad (csApply s b p) b p.n.toNat = false
      ∧ (∀ m, m ≠ p.n.toNat → m < 16384 → csWord (csApply s b p) b m = csWord s b m)
      ∧ ∀ c, seqOf (csApply s b p) c = seqOf s c := by
  have hw := mergedWord_lt p (csWord_customer_lt (s := s) (b := b) hn)
  rw [csApply_commit h he]
  exact ⟨csWord_csSet_same hn hw, csBad_csSet_same hn hw, fun m hm hlt => csWord_csSet_other hb p.n.isLt hlt hm,
    fun c => congrArg (mapGet ({} : Seq) c) (seqs_csSet ..)⟩

/-- Settles O30: every access waits behind the fetch or is applied, and an upset shows in the parity of the word read. -/
theorem controlStoreAccess : Obligations.ControlStoreAccess := by
  unfold Obligations.ControlStoreAccess
  intro s b n q v e k st
  have hb : k < 128 := b.isLt
  refine ⟨fun hn hq h => ?_, fun hn hf hw q0 q1 q2 h => ?_,
    fun hn hf q0 q1 q2 h => ?_, fun p r hw hrd he hn => ?_, fun p r j hw hrd => ?_, fun sec hf hw => ?_, fun hn => ?_,
    fun sec hf => ?_, fun i sec hn hf hw hbad => ?_, fun he hs hl hr => ?_, fun hn => ⟨?_, ?_⟩, fun he => ?_⟩
  · refine ⟨_, congrArg Host.Outcome.next (csStage_fresh hn hq h), ?_, rfl⟩
    have hqv (i : Nat) (hi : i < 4) : q.toNat = i ↔ q = BitVec.ofNat 2 i := by
      rw [← BitVec.toNat_inj, BitVec.toNat_ofNat, Nat.mod_eq_of_lt hi]
    rw [seqOf_updSeq_same, BitVec.ofNat_toNat, BitVec.setWidth_eq]
    simp only [hqv 0 (by decide), hqv 1 (by decide), hqv 2 (by decide)]
    rfl
  · have hfree : csAccess (updSeq s k fun z => { z with stage := none }) k { n := n, q0 := q0, q1 := q1, q2 := q2 }
        = csApply (updSeq s k fun z => { z with stage := none }) k { n := n, q0 := q0, q1 := q1, q2 := q2 } :=
      csAccess_free ((fetching_stage s k none).trans hf) (by rw [seqOf_updSeq_same]; exact hw)
    obtain ⟨hword, hbad, hother, hseq⟩ := csApply_commit_word (s := updSeq s k fun z => { z with stage := none })
      (p := { n := n, q0 := q0, q1 := q1, q2 := q2 }) hb rfl rfl hn
    obtain ⟨h0, h1, h2⟩ := mergedWord_quarters { n := n, q0 := q0, q1 := q1, q2 := q2 } (csWord s k n.toNat)
    refine ⟨_, (execCsCommit_staged hn h).trans (congrArg _ hfree), ?_, ?_, ?_, ?_, hbad, hother⟩
    · rw [hseq, seqOf_updSeq_same]
    · refine (congrArg (bits · 191 128) hword).trans (h0.trans ?_)
      cases q0 <;> rfl
    · refine (congrArg (bits · 127 64) hword).trans (h1.trans ?_)
      cases q1 <;> rfl
    · refine (congrArg (bits · 63 0) hword).trans (h2.trans ?_)
      cases q2 <;> rfl
  · have hwait : csAccess (updSeq s k fun z => { z with stage := none }) k { n := n, q0 := q0, q1 := q1, q2 := q2 } = _ :=
      csAccess_waits ((fetching_stage s k none).trans hf)
    refine ⟨_, (execCsCommit_staged hn h).trans (congrArg _ hwait), rfl, ?_, ?_⟩
    · rw [seqOf_updSeq_same, seqOf_updSeq_same]
    · rw [seqOf_updSeq_same, seqOf_updSeq_same]
  · obtain ⟨hword, _, _, hseq⟩ := csApply_commit_word (s := updSeq s k fun q => { q with csWait := r }) hb hrd he hn
    refine ⟨_, execCsHoldGrant_waiting hw, ?_, fun x hx => ?_⟩
    · rw [hseq, seqOf_updSeq_same]
    · rw [hword, (mergedWord_quarters p _).1, hx, Option.elim_some]
  · refine ⟨_, (execCsHoldGrant_waiting hw).trans (congrArg _ (csApply_read hrd)), ?_, csReadMark_cs .., ?_⟩
    · exact (congrArg Seq.csWait (seqOf_csReadMark ..)).trans (by rw [seqOf_updSeq_same])
    · exact congrArg (· ++ _) (csReadMark_out ..)
  · refine ⟨_, congrArg Host.Outcome.next ((csAccess_free hf hw).trans (csApply_read rfl)), ?_, csReadMark_cs .., ?_⟩
    · exact congrArg (· ++ _) (csReadMark_out ..)
    · exact rgB_csReadMark ..
  · rw [csQuarter, if_pos ⟨hn, rfl⟩]
  · refine ⟨_, congrArg Host.Outcome.next (csAccess_waits hf), rfl, ?_⟩
    rw [seqOf_updSeq_same]
  · refine ⟨_, congrArg Host.Outcome.next (csAccess_upset_free hf hw), ?_⟩
    rw [csApply_read rfl, rgB_emit, rgB_csReadMark, csBad_csUpset hbad]
    simp [hn]
  · exact ⟨_, rfl, dtEntry_dtWrite he hs hl hr v.isLt⟩
  · exact congrArg Host.Outcome.next (by rw [csStage, if_pos (Or.inl hn)])
  · exact congrArg Host.Outcome.next (by rw [if_pos hn])
  · exact congrArg Host.Outcome.next (by rw [dtWrite, if_pos he])

end Sys2Proof.Machine
end

section
/-! O33 and O37: the states on which the two statements fail. -/

namespace Sys2Proof.Machine

/-- A write of the Awl, 16 digits of value 7, at the turn port of block 0. -/
def turnWrite : MeshReq :=
  { id := 1, src := .awl, wr := true, addr := 0x010000100000, len := 16, data := List.replicate 16 7, seq := 1, atPort := true }

/-- A map of sequencers that names block 0 twice, the shadowed entry with a reservation on the digits `turnWrite` writes:
breaking the reservation puts the shadowed entry, its turn pointer 1 included, in front. -/
def twoSequencers : State :=
  { regs := [(R.PC_DOM 0, 0)], mesh := { flight := [turnWrite] },
    seqs := [(0, { waiting := true }), (0, { resv := some (0x010000100000, 16), tmPtr := 1 })] }

/-- The port-B cycle of `turnWrite` in `twoSequencers` leaves the turn pointer at 1. -/
theorem tmPtr_turnPortBAccess_twoSequencers :
    ∀ t, exec (.turnPortBAccess 0 none []) twoSequencers = .next t → (seqOf t 0).tmPtr = 1 := by
  have h : (match exec (.turnPortBAccess 0 none []) twoSequencers with
      | .next t => (seqOf t 0).tmPtr == 1 | _ => true) = true := by decide +kernel
  intro t ht
  rw [ht] at h
  simpa using h

/-- Refutes O33: the port-B write is claimed for every state, and the map of sequencers of `twoSequencers` names block 0
twice. No reachable state has such a map; the statement does not say that the map is canonical. -/
theorem not_memoryUpkeep : ¬ Obligations.MemoryUpkeep := by
  unfold Obligations.MemoryUpkeep
  intro h
  obtain ⟨-, -, -, -, -, -, -, -, -, -, hport, -⟩ := h twoSequencers 0 0
  obtain ⟨hwrite, -⟩ := hport turnWrite 0 (by decide +kernel) rfl (by decide +kernel) (by decide +kernel) (by decide +kernel)
    (by decide) rfl rfl (by decide) (by decide) (by decide)
  obtain ⟨t, ht, -, -, hptr, -⟩ := hwrite rfl
  have hstale := tmPtr_turnPortBAccess_twoSequencers t ht
  exact absurd (hptr.symm.trans hstale) (by decide)

/-- A statistics window of 100 NCLK that ends now, with MS_STAT itself among the live counters and its live value 0. -/
def liveMsStat : State :=
  { regs := [(R.MS_STAT, BitVec.ofNat 64 (2 ^ 63 + 100))], mesh := { live := [(R.MS_STAT, 0)], statNext := some 0 } }

/-- The end of that window copies 0 over PERIOD before it schedules the next one. -/
theorem statNext_statsWindowEnd_liveMsStat :
    ∀ t, exec .statsWindowEnd liveMsStat = .next t → t.mesh.statNext = some 0 := by
  have h : (match exec .statsWindowEnd liveMsStat with
      | .next t => t.mesh.statNext == some 0 | _ => true) = true := by decide +kernel
  intro t ht
  rw [ht] at h
  simpa using h

/-- Refutes O37: the next window is claimed to end at the next multiple of the PERIOD that was set, also where the live
counters name MS_STAT, as those of `liveMsStat` do. No counter of the mesh is kept at MS_STAT, so no reachable state is such
a one; the statement asks for it (`x.1 ≠ R.MS_STAT`) only in its clause on the copied values. -/
theorem not_meshFlits : ¬ Obligations.MeshFlits := by
  unfold Obligations.MeshFlits
  intro h
  obtain ⟨-, -, -, hstats⟩ := h
  obtain ⟨-, hend⟩ := hstats liveMsStat (by decide +kernel) 0 rfl
  obtain ⟨t, ht, -, -, hnext, -⟩ := hend (by decide +kernel)
  have hperiod : rgF liveMsStat R.MS_STAT R.MS_STAT_PERIOD = 100 := by decide +kernel
  have hnow : now liveMsStat = 0 := by decide +kernel
  rw [statNext_statsWindowEnd_liveMsStat t ht, hperiod, hnow] at hnext
  simp at hnext

end Sys2Proof.Machine
end

section
/-! SUPPORT. The digits of memory and the key bytes after a write (R2, R3, R329, R332). -/

namespace Sys2Proof.Machine

/-! ### Digits -/

theorem memDigit_setDigit_same (m : List Host.Cell) (a v : Nat) : memDigit (memSetDigit m a v) a = v % 16 := by
  have hb := (memByte m (a / 2)).isLt
  unfold memDigit memSetDigit memSetByte
  simp only [memByte, mapGet_set_same, BitVec.toNat_ofNat] at hb ⊢
  split <;> omega

/-- Setting a digit leaves every other digit, also the other one of its byte. -/
theorem memDigit_setDigit_other (m : List Host.Cell) {a x : Nat} (h : x ≠ a) (v : Nat) :
    memDigit (memSetDigit m a v) x = memDigit m x := by
  unfold memDigit memSetDigit memSetByte
  by_cases hx : x / 2 = a / 2
  · have hb := (memByte m (a / 2)).isLt
    simp only [memByte, hx, mapGet_set_same, BitVec.toNat_ofNat] at hb ⊢
    split <;> split <;> omega
  · simp only [memByte, mapGet_set_other _ _ hx]

/-- Digits stored one after the other: those below, those stored, those above. -/
theorem memDigit_write (ds : List Nat) (m : List Host.Cell) (a x : Nat) :
    memDigit (memWrite m a ds) x = if a ≤ x ∧ x < a + ds.length then ds.getD (x - a) 0 % 16 else memDigit m x := by
  induction ds generalizing a m with
  | nil => rw [if_neg (by simp)]; rfl
  | cons d ds ih =>
    rw [show memWrite m a (d :: ds) = memWrite (memSetDigit m a d) (a + 1) ds from rfl, ih]
    obtain hlt | rfl | hgt := Nat.lt_trichotomy x a
    · rw [if_neg (by omega), if_neg (by omega), memDigit_setDigit_other m (by omega)]
    · rw [if_neg (by omega), if_pos (by simp), memDigit_setDigit_same, Nat.sub_self, List.getD_cons_zero]
    · rw [show x - a = x - (a + 1) + 1 by omega, List.getD_cons_succ, memDigit_setDigit_other m (by omega),
        List.length_cons]
      exact if_congr (by omega) rfl rfl

theorem memDigit_write_outside {m : List Host.Cell} {a x n : Nat} {ds : List Nat} (hn : ds.length = n)
    (h : x < a ∨ a + n ≤ x) : memDigit (memWrite m a ds) x = memDigit m x := by
  rw [memDigit_write, if_neg (by omega)]

theorem readDigits_congr {s t : State} (h : t.mem = s.mem) (a n : Nat) : readDigits t a n = readDigits s a n := by
  rw [readDigits, h, readDigits]

/-- Digits just stored read as what was stored. -/
theorem readDigits_of_write {t : State} {m : List Host.Cell} {a n : Nat} {ds : List (BitVec 4)}
    (ht : t.mem = memWrite m a (ds.map BitVec.toNat)) (hn : ds.length = n) : readDigits t a n = ds.map BitVec.toNat := by
  subst hn
  refine List.ext_getElem (by simp [readDigits]) fun i hi hi' => ?_
  have hlt : i < ds.length := by simpa using hi'
  simp only [readDigits, List.getElem_map, List.getElem_range, ht, memDigit_write, List.length_map]
  rw [if_pos (by omega), Nat.add_sub_cancel_left, List.getD_eq_getElem _ _ (by simpa using hlt), List.getElem_map]
  exact Nat.mod_eq_of_lt (ds[i]).isLt

/-! ### Key bytes -/

theorem keyByte_congr {s t : State} (h : t.keys = s.keys) (fr : Nat) : keyByte t fr = keyByte s fr := by
  rw [keyByte, h, keyByte]

theorem keyParity_lt (v : Nat) : keyParity v < 2 := Nat.mod_lt _ (by decide)

theorem keyByte_setKeyByte_same (s : State) (fr v : Nat) : keyByte (setKeyByte s fr v) fr = v % 128 + 128 * keyParity (v % 128) := by
  have := keyParity_lt (v % 128)
  simp only [keyByte, setKeyByte, mapGet_set_same, BitVec.toNat_ofNat]
  omega

theorem keyByte_setKeyByte_other (s : State) {fr fr' : Nat} (h : fr' ≠ fr) (v : Nat) :
    keyByte (setKeyByte s fr v) fr' = keyByte s fr' := by
  simp only [keyByte, setKeyByte, mapGet_set_other _ _ h]

/-- A key byte set keeps the bits below its parity that it was given. -/
theorem testBit_setKeyByte (s : State) (fr v : Nat) {k : Nat} (hk : k < 7) :
    (keyByte (setKeyByte s fr v) fr).testBit k = v.testBit k := by
  have hmod : keyByte (setKeyByte s fr v) fr % 2 ^ 7 = v % 2 ^ 7 := by
    rw [keyByte_setKeyByte_same]
    omega
  have hbit := congrArg (Nat.testBit · k) hmod
  simpa only [Nat.testBit_mod_two_pow, hk, decide_true, Bool.true_and] using hbit

/-- The bits that a fetch, or a store, sets in the key bytes of its frames. -/
def markBits (store : Bool) : Nat := if store then 0x60 else 0x20

/-- A frame that has the mark already stays as it is. -/
theorem markFrame_eq (s : State) (fr : Nat) (store : Bool) : markFrame s fr store
    = if Nat.lor (keyByte s fr) (markBits store) = keyByte s fr then s
      else setKeyByte s fr (Nat.lor (keyByte s fr) (markBits store)) := rfl

theorem keyByte_markFrame_other (s : State) {fr fr' : Nat} (h : fr' ≠ fr) (store : Bool) :
    keyByte (markFrame s fr store) fr' = keyByte s fr' := by
  rw [markFrame_eq]
  split
  · rfl
  · exact keyByte_setKeyByte_other s h _

/-- A marked key byte has its bits below the parity, and those of the mark. -/
theorem testBit_markFrame_same (s : State) (fr : Nat) (store : Bool) {k : Nat} (hk : k < 7) :
    (keyByte (markFrame s fr store) fr).testBit k = ((keyByte s fr).testBit k || (markBits store).testBit k) := by
  have hlor : (Nat.lor (keyByte s fr) (markBits store)).testBit k = ((keyByte s fr).testBit k || (markBits store).testBit k) :=
    Nat.testBit_or ..
  rw [← hlor, markFrame_eq]
  split
  · next h => exact congrArg (Nat.testBit · k) h.symm
  · exact testBit_setKeyByte s fr _ hk

/-- A mark leaves LOCK and RDO. -/
theorem keyByte_markFrame_mod (s : State) (fr fr' : Nat) (store : Bool) :
    keyByte (markFrame s fr store) fr' % 32 = keyByte s fr' % 32 := by
  by_cases h : fr' = fr
  · subst h
    refine Nat.eq_of_testBit_eq fun k => ?_
    rw [show (32 : Nat) = 2 ^ 5 by rfl, Nat.testBit_mod_two_pow, Nat.testBit_mod_two_pow]
    by_cases hk : k < 5
    · have hoff : (markBits store).testBit k = false := by
        cases store <;> interval_cases k <;> rfl
      rw [testBit_markFrame_same s fr' store (by omega), hoff, Bool.or_false]
    · simp [hk]
  · rw [keyByte_markFrame_other s h]

/-- Frames marked one after the other: the others stay, LOCK and RDO stay, and the mark stands in each. -/
theorem keyByte_markFrames (frs : List Nat) (s : State) (store : Bool) :
    let t := forEach frs (fun s fr => markFrame s fr store) s
    (∀ fr, keyByte t fr % 32 = keyByte s fr % 32) ∧ (∀ fr, fr ∉ frs → keyByte t fr = keyByte s fr)
      ∧ ∀ fr k, k < 7 → ((keyByte s fr).testBit k = true ∨ (fr ∈ frs ∧ (markBits store).testBit k = true)) →
          (keyByte t fr).testBit k = true := by
  induction frs generalizing s with
  | nil => exact ⟨fun _ => rfl, fun _ _ => rfl, fun fr k _ h => h.elim id fun h => absurd h.1 (by simp)⟩
  | cons f frs ih =>
    obtain ⟨hmod, hout, hin⟩ := ih (markFrame s f store)
    refine ⟨fun fr => (hmod fr).trans (keyByte_markFrame_mod s f fr store), fun fr hfr => ?_, fun fr k hk h => hin fr k hk ?_⟩
    · rw [List.mem_cons, not_or] at hfr
      exact (hout fr hfr.2).trans (keyByte_markFrame_other s hfr.1 store)
    · by_cases hf : fr = f
      · subst hf
        rw [testBit_markFrame_same s fr store hk, Bool.or_eq_true]
        exact .inl (h.imp id fun h => h.2)
      · rw [keyByte_markFrame_other s hf]
        exact h.imp id fun h => ⟨(List.mem_cons.mp h.1).resolve_left hf, h.2⟩

end Sys2Proof.Machine
end

section
/-! SUPPORT. The way of an answer through the mesh: on what it depends (R346, R353, R361). -/

namespace Sys2Proof.Machine

/-! ### What an answer changes -/

/-- Flits presented to a router leave the device; nothing of the state changes. -/
theorem presentAll_eq (s : State) (r p vc : Nat) (fs : List Flit) :
    presentAll s r p vc fs = { s with out := (presentAll s r p vc fs).out } := by
  unfold presentAll
  induction fs generalizing s with
  | nil => rfl
  | cons f fs ih => exact ih (emit s (.present r (portNamed (4 + p)) vc f))

theorem presentAll_mesh (s : State) (r p vc : Nat) (fs : List Flit) : (presentAll s r p vc fs).mesh = s.mesh := by
  rw [presentAll_eq]

/-- An answer changes the mesh, and flits leave the device. -/
theorem respond_eq (s : State) (q : MeshReq) (st : Nat) (ds : List Nat) :
    respond s q st ds = { s with mesh := (respond s q st ds).mesh, out := (respond s q st ds).out } := by
  simp only [respond, respondAt]
  split
  · rfl
  · split
    · rfl
    · rw [presentAll_eq]

theorem respond_mem (s : State) (q : MeshReq) (st : Nat) (ds : List Nat) : (respond s q st ds).mem = s.mem := by
  rw [respond_eq]

theorem respond_keys (s : State) (q : MeshReq) (st : Nat) (ds : List Nat) : (respond s q st ds).keys = s.keys := by
  rw [respond_eq]

theorem respond_regs (s : State) (q : MeshReq) (st : Nat) (ds : List Nat) : (respond s q st ds).regs = s.regs := by
  rw [respond_eq]

theorem respond_dram (s : State) (q : MeshReq) (st : Nat) (ds : List Nat) : (respond s q st ds).dram = s.dram := by
  rw [respond_eq]

theorem respond_epochs (s : State) (q : MeshReq) (st : Nat) (ds : List Nat) : (respond s q st ds).epochs = s.epochs := by
  rw [respond_eq]

/-- The response joins those on their way unless a link of its way is down: what that makes of the mesh. -/
theorem respondAt_mesh (s : State) (r : Nat) (q : MeshReq) (st : Nat) (ds : List Nat) : (respondAt s r q st ds).mesh
    = if routeDown s 9 r q.home then (updReq s q fun x => { x with done := true }).mesh
      else { s.mesh with
        flight := s.mesh.flight.filter fun x => x.id != q.id
        resps := s.mesh.resps ++ [{ id := q.id, req := q, status := BitVec.ofNat 8 st, data := ds.map (BitVec.ofNat 4)
                                    via := (r, answerPort s r q) }] } := by
  simp only [respondAt]
  split
  · rfl
  · split
    · rfl
    · rw [presentAll_mesh]

/-! ### What the way depends on -/

/-- The registers that the way of an answer depends on are among these: BSW_MAP, RT_LINK and REIN_ID are, KEY_ERR and
GW_ALARM are not. -/
def routeReg (a : Nat) : Prop := a % 0x10000 = 0 ∧ a % 0x1000000 ≠ 0x280000 ∧ a % 0x1000000 ≠ 0x600000

theorem routeReg_bswMap (g : Nat) : routeReg (R.BSW_MAP g) := by
  unfold routeReg R.BSW_MAP gwin
  omega

theorem routeReg_reinId : routeReg R.REIN_ID := by
  unfold routeReg R.REIN_ID chipCtl
  omega

theorem routeReg_rtLink {r : Nat} (h : r < 40) : routeReg (R.RT_LINK r) := by
  unfold routeReg R.RT_LINK rwin
  split <;> omega

/-- Nothing on which the way of an answer depends differs between s and t. -/
structure SameWay (s t : State) : Prop where
  mesh : t.mesh = s.mesh
  cfg : t.cfg = s.cfg
  foldHome : t.foldHome = s.foldHome
  regs : ∀ a, routeReg a → rg t a = rg s a

section
variable {s t : State}

theorem SameWay.holderCode (h : SameWay s t) (b : Nat) : holderCode t b = holderCode s b := by
  unfold Machine.holderCode rgF
  rw [h.regs _ (routeReg_bswMap _)]

theorem SameWay.holderIn (h : SameWay s t) (n b : Nat) : holderIn t n b = holderIn s n b := by
  induction n generalizing b with
  | zero => rfl
  | succ n ih => simp only [Machine.holderIn, h.holderCode, ih]

theorem SameWay.holder (h : SameWay s t) (b : Nat) : holder t b = holder s b := by
  simp only [Machine.holder, h.holderIn]

theorem SameWay.memPhys (h : SameWay s t) (b : Nat) : memPhys t b = memPhys s b := by
  simp only [Machine.memPhys, h.holderCode, h.holder, h.foldHome]

theorem SameWay.targetOf (h : SameWay s t) (a : Nat) : targetOf t a = targetOf s a := by
  simp only [Machine.targetOf, cascadeTarget, h.cfg]

theorem SameWay.pathTo (h : SameWay s t) (j : Nat) : pathTo t j = pathTo s j := by
  simp only [Machine.pathTo, posOf, casW, myIdx, rgF, h.cfg, h.regs _ routeReg_reinId]

theorem SameWay.destRouter (h : SameWay s t) (x : Target) : destRouter t x = destRouter s x := by
  unfold Machine.destRouter
  split
  · rw [h.pathTo]
  · rfl

theorem SameWay.domainOf (h : SameWay s t) (x : Target) : domainOf t x = domainOf s x := by
  cases x <;> simp only [Machine.domainOf, h.memPhys, h.holder]

theorem SameWay.targetPort (h : SameWay s t) (x : Target) : targetPort t x = targetPort s x := by
  simp only [Machine.targetPort, h.domainOf]

theorem SameWay.answerPort (h : SameWay s t) (r : Nat) (q : MeshReq) : answerPort t r q = answerPort s r q := by
  simp only [Machine.answerPort, h.targetOf, h.destRouter, h.targetPort]

theorem SameWay.linkDown (h : SameWay s t) {r : Nat} (hr : r < 40) (d : Nat) : linkDown t r d = linkDown s r d := by
  simp only [Machine.linkDown, rgF, h.regs _ (routeReg_rtLink hr)]

end

/-- Router r stands on a way to router t: one of the chip's, or one further down the column of t. -/
def onWay (k r t : Nat) : Prop := r < 24 ∨ (r < 24 + k ∧ (routerXY t).1 = 5)

/-- The router to which direction d leads from router r, as a way takes it: 0 N, 1 E, 2 S, 3 W. -/
def routerTowards (r d : Nat) : Nat :=
  match d with
  | 0 => routerAt (routerXY r).1 ((routerXY r).2 - 1)
  | 1 => routerAt ((routerXY r).1 + 1) (routerXY r).2
  | 2 => routerAt (routerXY r).1 ((routerXY r).2 + 1)
  | _ => routerAt ((routerXY r).1 - 1) (routerXY r).2

theorem routeStop_succ (s : State) (n r t : Nat) : routeStop s (n + 1) r t
    = match portTo (routerXY r).1 (routerXY r).2 (routerXY t).1 (routerXY t).2 with
      | none => none
      | some d => if linkDown s r d then some r else
        routeStop s n (routerTowards r d) t := by
  cases h : portTo (routerXY r).1 (routerXY r).2 (routerXY t).1 (routerXY t).2 with
  | none => simp only [routeStop, h]
  | some d =>
    simp only [routeStop, h]
    rfl

theorem routerXY_cases (r : Nat) : (r < 16 ∧ routerXY r = (1 + r % 4, r / 4)) ∨ (16 ≤ r ∧ r < 20 ∧ routerXY r = (0, r - 16))
    ∨ (20 ≤ r ∧ routerXY r = (5, r - 20)) := by
  unfold routerXY
  split
  · next h => exact .inl ⟨h, rfl⟩
  · split
    · next h => exact .inr (.inl ⟨by omega, h, rfl⟩)
    · exact .inr (.inr ⟨by omega, rfl⟩)

/-- A way stays among the chip's routers, or goes on down the column of t. -/
theorem onWay_next {k r t d : Nat} (h : onWay k r t)
    (hd : portTo (routerXY r).1 (routerXY r).2 (routerXY t).1 (routerXY t).2 = some d) :
    onWay (k + 1) (routerTowards r d) t := by
  unfold onWay at h ⊢
  have ht : (routerXY t).1 ≤ 5 ∧ ((routerXY t).1 < 5 → (routerXY t).2 < 4) := by
    obtain ⟨_, e⟩ | ⟨_, _, e⟩ | ⟨_, e⟩ := routerXY_cases t <;> rw [e] <;> dsimp only <;> omega
  generalize routerXY t = p at h hd ht ⊢
  obtain ⟨tx, ty⟩ := p
  unfold portTo at hd
  unfold routerTowards
  dsimp only at h hd ht ⊢
  have hnext : ∀ x y, routerAt x y = if x = 0 then 16 + y else if x = 5 then 20 + y else 4 * y + x - 1 := fun _ _ => rfl
  obtain ⟨hr, e⟩ | ⟨hr, hr', e⟩ | ⟨hr, e⟩ := routerXY_cases r <;> rw [e] at hd ⊢ <;> dsimp only at hd ⊢ <;>
    split at hd <;> (try split at hd) <;> (try split at hd) <;> (try split at hd) <;> cases hd <;>
    simp only [hnext] <;> split_ifs <;> omega

/-- A way is the same where nothing on which it depends differs. -/
theorem SameWay.routeStop {s t : State} (h : SameWay s t) (n k r d : Nat) (hn : n + k ≤ 16) (hr : onWay k r d) :
    routeStop t n r d = routeStop s n r d := by
  induction n generalizing r k with
  | zero => rfl
  | succ n ih =>
    have hlt : r < 40 := by
      unfold onWay at hr
      omega
    rw [routeStop_succ, routeStop_succ]
    cases hp : portTo (routerXY r).1 (routerXY r).2 (routerXY d).1 (routerXY d).2 with
    | none => rfl
    | some p => simp only [h.linkDown hlt, ih (k + 1) _ (by omega) (onWay_next hr hp)]

theorem routerFor_device (j a : Nat) : routerFor (.device j a) = 16 := rfl

theorem routerFor_nowhere : routerFor .nowhere = 16 := rfl

theorem routerFor_chip_lt (o : Nat) : routerFor (.chip o) < 24 := by
  simp only [routerFor, routerAt]
  split_ifs <;> omega

/-- The router before a target is one of the chip's. -/
theorem routerFor_targetOf_lt (s : State) (a : Nat) : routerFor (targetOf s a) < 24 := by
  have hid : idleFrom = 33554432 := by norm_num [idleFrom]
  unfold targetOf cascadeTarget dramRegion
  split_ifs
  · exact (Nat.div_lt_iff_lt_mul (by decide)).mpr (by omega)
  · simp only [routerFor]
    split <;> omega
  · simp only [routerFor]
    omega
  · simp only [routerFor]
    omega
  · exact routerFor_chip_lt _
  · extract_lets j
    split_ifs
    · rw [routerFor_device]
      decide
    · rw [routerFor_nowhere]
      decide

theorem destRouter_targetOf_lt (s : State) (a : Nat) : destRouter s (targetOf s a) < 24 := by
  have hr := routerFor_targetOf_lt s a
  unfold destRouter
  split
  · next j x hx =>
    split
    · next p hp =>
      have : p < 4 := by
        unfold pathTo portTo at hp
        dsimp only at hp
        split_ifs at hp <;> cases hp <;> omega
      unfold routerAt
      split_ifs <;> omega
    · exact hr
  · exact hr

theorem routeDown_self (s : State) (n r : Nat) : routeDown s n r r = false := by
  cases n with
  | zero => rfl
  | succ n =>
    have hp : portTo (routerXY r).1 (routerXY r).2 (routerXY r).1 (routerXY r).2 = none := by simp [portTo]
    rw [routeDown, routeStop_succ, hp]
    rfl

theorem SameWay.answerRouter {s t : State} (h : SameWay s t) (q : MeshReq) : answerRouter t q = answerRouter s q := by
  simp only [Machine.answerRouter, h.targetOf, h.destRouter]

/-- The way back of an answer is the same. -/
theorem SameWay.routeDown {s t : State} (h : SameWay s t) (q : MeshReq) :
    routeDown t 9 (Machine.answerRouter s q) q.home = routeDown s 9 (Machine.answerRouter s q) q.home := by
  have hd := destRouter_targetOf_lt s q.addr
  unfold Machine.answerRouter
  split
  · rw [routeDown_self, routeDown_self]
  · unfold Machine.routeDown
    rw [h.routeStop 9 0 _ _ (by decide) (.inl hd)]

/-- An answer makes the same of the mesh. -/
theorem SameWay.respond {s t : State} (h : SameWay s t) (q : MeshReq) (st : Nat) (ds : List Nat) :
    (respond t q st ds).mesh = (respond s q st ds).mesh := by
  simp only [Machine.respond, respondAt_mesh, h.answerRouter, h.routeDown, h.answerPort, updReq, h.mesh]

end Sys2Proof.Machine
end

section
/-! SUPPORT. What the device does beside an access: warnings, machine checks, the journal, the corrections of the DRAM and the
early boundary leave the memory, the keys, the mesh and the registers of an answer's way. -/

namespace Sys2Proof.Machine

/-! ### The relation -/

/-- t differs from s beside its memories: not in memory, keys, the mesh, the copies under way, the fairness of the DRAM ports,
the frames that have a shadow, nor in a register of K. -/
structure Aside (K : Nat → Prop) (s t : State) : Prop where
  mem : t.mem = s.mem
  keys : t.keys = s.keys
  mesh : t.mesh = s.mesh
  cfg : t.cfg = s.cfg
  foldHome : t.foldHome = s.foldHome
  copies : t.dram.copies = s.dram.copies
  bar : t.dram.bar = s.dram.bar
  shadowed : ∀ n, (epochOf t n).shadowed = (epochOf s n).shadowed
  regs : ∀ a, K a → rg t a = rg s a

/-- The registers that what happens beside an access keeps: those of an answer's way, and the DRAM's and the keys' error
registers, which it may follow. -/
def asideReg (a : Nat) : Prop :=
  routeReg a ∨ a % 0x1000000 = 0x100010 ∨ a % 0x1000000 = 0x100020 ∨ a % 0x1000000 = 0x280000 ∨ a = R.KU_VIOL

section
variable {K L : Nat → Prop} {s₀ s t : State} {α : Type}

theorem Aside.refl : Aside K s s := ⟨rfl, rfl, rfl, rfl, rfl, rfl, rfl, fun _ => rfl, fun _ _ => rfl⟩

theorem Aside.mono (h : Aside K s t) (hL : ∀ a, L a → K a) : Aside L s t :=
  ⟨h.mem, h.keys, h.mesh, h.cfg, h.foldHome, h.copies, h.bar, h.shadowed, fun a ha => h.regs a (hL a ha)⟩

theorem Aside.trans (h : Aside K s₀ s) (h' : Aside K s t) : Aside K s₀ t :=
  ⟨h'.mem.trans h.mem, h'.keys.trans h.keys, h'.mesh.trans h.mesh, h'.cfg.trans h.cfg, h'.foldHome.trans h.foldHome,
    h'.copies.trans h.copies, h'.bar.trans h.bar, fun n => (h'.shadowed n).trans (h.shadowed n),
    fun a ha => (h'.regs a ha).trans (h.regs a ha)⟩

theorem Aside.sameWay (h : Aside routeReg s t) : SameWay s t := ⟨h.mesh, h.cfg, h.foldHome, h.regs⟩

/-- Fields of which the relation does not speak may change. -/
theorem Aside.set {seqs out dbg sb rein free} (h : Aside K s₀ s) :
    Aside K s₀ { s with seqs := seqs, out := out, dbg := dbg, sb := sb, rein := rein, free := free } :=
  ⟨h.mem, h.keys, h.mesh, h.cfg, h.foldHome, h.copies, h.bar, h.shadowed, h.regs⟩

theorem Aside.setDram {copying wb laneCnt} (h : Aside K s₀ s) :
    Aside K s₀ { s with dram := { s.dram with copying := copying, wb := wb, laneCnt := laneCnt } } :=
  ⟨h.mem, h.keys, h.mesh, h.cfg, h.foldHome, h.copies, h.bar, h.shadowed, h.regs⟩

theorem Aside.setRg {a v : Nat} (h : Aside K s₀ s) (ha : ¬ K a) : Aside K s₀ (setRg s a v) :=
  ⟨h.mem, h.keys, h.mesh, h.cfg, h.foldHome, h.copies, h.bar, h.shadowed, fun x hx =>
    (rg_setRg_other s (fun e : x = a => ha (e ▸ hx)) v).trans (h.regs x hx)⟩

theorem Aside.setF {a : Nat} {f : Fld} {v : Nat} (h : Aside K s₀ s) (ha : ¬ K a) : Aside K s₀ (setF s a f v) := h.setRg ha

theorem Aside.setB {a : Nat} {f : Fld} {v : Bool} (h : Aside K s₀ s) (ha : ¬ K a) : Aside K s₀ (setB s a f v) := h.setF ha

theorem Aside.addSat {a : Nat} {f : Fld} {v : Nat} (h : Aside K s₀ s) (ha : ¬ K a) : Aside K s₀ (addSat s a f v) := h.setF ha

theorem Aside.emit {o : Out} (h : Aside K s₀ s) : Aside K s₀ (emit s o) := h.set

theorem Aside.setSeq {b : Nat} {q : Seq} (h : Aside K s₀ s) : Aside K s₀ (setSeq s b q) := h.set

theorem Aside.updSeq {b : Nat} {f : Seq → Seq} (h : Aside K s₀ s) : Aside K s₀ (updSeq s b f) := h.setSeq

theorem Aside.updEpoch {n : Nat} {f : Epoch → Epoch} (h : Aside K s₀ s) (hf : ∀ e, (f e).shadowed = e.shadowed := by intro; rfl) :
    Aside K s₀ (updEpoch s n f) := by
  refine ⟨h.mem, h.keys, h.mesh, h.cfg, h.foldHome, h.copies, h.bar, fun m => ?_, h.regs⟩
  rw [← h.shadowed]
  by_cases hm : m = n
  · rw [hm, epochOf_updEpoch_same, hf]
  · rw [epochOf_updEpoch_other s hm]

theorem Aside.branch {c : Prop} [Decidable c] {x a b : State} (h : Aside K s₀ x) (ha : Aside K s₀ x → Aside K s₀ a)
    (hb : Aside K s₀ x → Aside K s₀ b) : Aside K s₀ (if c then a else b) := by
  split
  exacts [ha h, hb h]

theorem Aside.when {c : Prop} [Decidable c] {x a : State} (h : Aside K s₀ x) (ha : Aside K s₀ x → Aside K s₀ a) :
    Aside K s₀ (if c then a else x) := h.branch ha id

theorem Aside.unless {c : Prop} [Decidable c] {x b : State} (h : Aside K s₀ x) (hb : Aside K s₀ x → Aside K s₀ b) :
    Aside K s₀ (if c then x else b) := h.branch id hb

theorem Aside.foldl {l : List α} {f : State → α → State} (h : Aside K s₀ s)
    (k : ∀ {t} y, Aside K s₀ t → Aside K s₀ (f t y)) : Aside K s₀ (l.foldl f s) := by
  induction l generalizing s with
  | nil => exact h
  | cons y l ih => exact ih (k y h)

theorem Aside.forEach {l : List α} {f : State → α → State} (h : Aside K s₀ s)
    (k : ∀ {t} y, Aside K s₀ t → Aside K s₀ (f t y)) : Aside K s₀ (forEach l f s) := h.foldl k

end

/-! ### The registers that it does change -/

theorem not_asideReg_gwAlarm (g : Nat) {i : Nat} (h : i < 16) : ¬ asideReg (R.GW_ALARM g i) := by
  unfold asideReg routeReg R.GW_ALARM R.KU_VIOL gwin chipCtl
  omega

theorem not_asideReg_spwWarn {c : Nat} (h : c < 16) : ¬ asideReg (R.SPW_WARN c) := by
  unfold asideReg routeReg R.SPW_WARN R.KU_VIOL chipCtl
  omega

theorem not_asideReg_spwWlast {c : Nat} (h : c < 16) : ¬ asideReg (R.SPW_WLAST c) := by
  unfold asideReg routeReg R.SPW_WLAST R.KU_VIOL chipCtl
  omega

theorem not_asideReg_cnLast : ¬ asideReg R.CN_LAST := by
  unfold asideReg routeReg R.CN_LAST R.KU_VIOL chipCtl
  omega

theorem not_asideReg_sbJrnl : ¬ asideReg R.SB_JRNL := by
  unfold asideReg routeReg R.SB_JRNL R.KU_VIOL chipCtl
  omega

theorem not_asideReg_dramLane (g : Nat) : ¬ asideReg (R.DRAM_LANE g) := by
  unfold asideReg routeReg R.DRAM_LANE R.KU_VIOL gwin chipCtl
  omega

theorem not_asideReg_epStat {n : Nat} (h : n < 16) : ¬ asideReg (R.EP_STAT n) := by
  unfold asideReg routeReg R.EP_STAT R.KU_VIOL chipCtl
  omega

theorem not_asideReg_psr (b : Nat) : ¬ asideReg (R.PSR b) := by
  unfold asideReg routeReg R.PSR R.KU_VIOL bwin chipCtl
  omega

theorem not_routeReg_dramEcc (g : Nat) : ¬ routeReg (R.DRAM_ECC g) := by
  unfold routeReg R.DRAM_ECC gwin
  omega

theorem not_routeReg_dramElog (g : Nat) : ¬ routeReg (R.DRAM_ELOG g) := by
  unfold routeReg R.DRAM_ELOG gwin
  omega

theorem not_routeReg_keyErr (g : Nat) : ¬ routeReg (R.KEY_ERR g) := by
  unfold routeReg R.KEY_ERR gwin
  omega

theorem not_routeReg_kuViol : ¬ routeReg R.KU_VIOL := by
  unfold routeReg R.KU_VIOL chipCtl
  omega

theorem asideReg_dramEcc (g : Nat) : asideReg (R.DRAM_ECC g) := by
  unfold asideReg R.DRAM_ECC gwin
  omega

theorem asideReg_dramElog (g : Nat) : asideReg (R.DRAM_ELOG g) := by
  unfold asideReg R.DRAM_ELOG gwin
  omega

theorem asideReg_keyErr (g : Nat) : asideReg (R.KEY_ERR g) := by
  unfold asideReg R.KEY_ERR gwin
  omega

/-! ### Journal, alarms, warnings (R393, R526, R527) -/

section
variable {s₀ s : State}

theorem Aside.journal {kind src pid unit arg loc : Nat} (h : Aside asideReg s₀ s) :
    Aside asideReg s₀ (journal s kind src pid unit arg loc) :=
  (h.setRg not_asideReg_cnLast).branch (fun h => h.set.setF not_asideReg_sbJrnl) (fun h => h.addSat not_asideReg_sbJrnl)

theorem Aside.gwAlarm {g src unit : Nat} (h : Aside asideReg s₀ s) : Aside asideReg s₀ (gwAlarm s g src unit) := by
  unfold Machine.gwAlarm
  split
  · next i hi => exact h.addSat (not_asideReg_gwAlarm g (List.mem_range.mp (List.mem_of_find?_eq_some hi)))
  · split
    · next i hi => exact h.setRg (not_asideReg_gwAlarm g (List.mem_range.mp (List.mem_of_find?_eq_some hi)))
    · exact h

theorem Aside.raiseCheck {src unit loc part : Nat} (h : Aside asideReg s₀ s) :
    Aside asideReg s₀ (raiseCheck s src unit loc part) := by
  have halarm : Aside asideReg s₀ (match unitRegion unit with | some g => Machine.gwAlarm s g src unit | none => s) := by
    split
    exacts [h.gwAlarm, h]
  exact halarm.set

theorem Aside.rollSpill (h : Aside asideReg s₀ s) : Aside asideReg s₀ (rollSpill s) :=
  h.unless fun h => (h.foldl fun _ h => h.unless (·.emit)).set

theorem Aside.warnAt {c u part place : Nat} {credit : Bool} (hc : c < 16) (h : Aside asideReg s₀ s) :
    Aside asideReg s₀ (warnAt s c u part place credit) :=
  ((((h.rollSpill.when (·.set)).when fun h => h.setF (not_asideReg_spwWarn hc)).addSat (not_asideReg_spwWarn hc)).setF
    (not_asideReg_spwWlast hc)).branch (·.set) (·.branch (·.emit.set) (·.set))

theorem Aside.warnCorrected {u part : Nat} (h : Aside asideReg s₀ s) : Aside asideReg s₀ (warnCorrected s u part) :=
  h.warnAt (by decide)

/-! ### Corrections of the DRAM (R312-R316) -/

theorem Aside.countLane {g p : Nat} (h : Aside asideReg s₀ s) : Aside asideReg s₀ (countLane s g p) :=
  have hl := not_asideReg_dramLane g
  h.setDram.unless (·.unless (·.branch (fun h => ((h.setF hl).setB hl).journal)
    (·.branch (fun h => ((h.setF hl).setB hl).journal) (fun h => h.setB hl))))

theorem Aside.spareRow {row : Nat} (h : Aside asideReg s₀ s) : Aside asideReg s₀ (spareRow s row) := h.unless (·.setDram)

end

theorem Aside.toRoute {s t : State} (h : Aside asideReg s t) : Aside routeReg s t := h.mono fun _ => .inl

/-- The error registers of a region after the decode has corrected n symbols of the DRAM word at digit address a. -/
def correctionNoted (s : State) (a n : Nat) : State :=
  let e := R.DRAM_ECC (dramRegion a)
  setRg (setB (addSat s e R.DRAM_ECC_CEW 1) e R.DRAM_ECC_CEV true) (R.DRAM_ELOG (dramRegion a)) (n * 2 ^ 60 + dramOff a / 128)

/-- The error registers of a region after the decode could not correct the DRAM word at digit address a. -/
def failureNoted (s : State) (a : Nat) : State :=
  let e := R.DRAM_ECC (dramRegion a)
  setRg (setB (setB (addSat s e R.DRAM_ECC_UEW 1) e R.DRAM_ECC_UE true) e R.DRAM_ECC_CEV true) (R.DRAM_ELOG (dramRegion a))
    (15 * 2 ^ 60 + dramOff a / 128)

/-- KEY_ERR of its region after a key byte of chip frame fr has failed its parity. -/
def keyErrorNoted (s : State) (fr : Nat) : State :=
  let a := R.KEY_ERR (fr / 262144)
  setB (setF (addSat s a R.KEY_ERR_PE 1) a R.KEY_ERR_FRAME (fr % 262144)) a R.KEY_ERR_PEV true

theorem correctionNoted_aside (s : State) (a n : Nat) : Aside routeReg s (correctionNoted s a n) :=
  ((Aside.refl.addSat (not_routeReg_dramEcc _)).setB (not_routeReg_dramEcc _)).setRg (not_routeReg_dramElog _)

theorem failureNoted_aside (s : State) (a : Nat) : Aside routeReg s (failureNoted s a) :=
  (((Aside.refl.addSat (not_routeReg_dramEcc _)).setB (not_routeReg_dramEcc _)).setB (not_routeReg_dramEcc _)).setRg
    (not_routeReg_dramElog _)

theorem keyErrorNoted_aside (s : State) (fr : Nat) : Aside routeReg s (keyErrorNoted s fr) :=
  ((Aside.refl.addSat (not_routeReg_keyErr _)).setF (not_routeReg_keyErr _)).setB (not_routeReg_keyErr _)

/-- A correction is noted in the error registers; the rest stands beside it. -/
theorem dramCorrect_aside_noted (s : State) (a : Nat) (l : List Nat) (scrub : Bool) :
    Aside asideReg (correctionNoted s a l.length) (dramCorrect s a l scrub) :=
  ((Aside.refl.warnCorrected.forEach fun _ h => h.countLane).unless (·.setDram)).when (·.spareRow)

theorem dramFail_aside_noted (s : State) (a : Nat) : Aside asideReg (failureNoted s a) (dramFail s a) := Aside.refl.raiseCheck

theorem keyParityError_aside_noted (s : State) (fr : Nat) : Aside asideReg (keyErrorNoted s fr) (keyParityError s fr) :=
  Aside.refl.raiseCheck

theorem dramCorrect_aside (s : State) (a : Nat) (l : List Nat) (scrub : Bool) : Aside routeReg s (dramCorrect s a l scrub) :=
  (correctionNoted_aside s a l.length).trans (dramCorrect_aside_noted s a l scrub).toRoute

theorem dramFail_aside (s : State) (a : Nat) : Aside routeReg s (dramFail s a) :=
  (failureNoted_aside s a).trans (dramFail_aside_noted s a).toRoute

theorem keyParityError_aside (s : State) (fr : Nat) : Aside routeReg s (keyParityError s fr) :=
  (keyErrorNoted_aside s fr).trans (keyParityError_aside_noted s fr).toRoute

theorem keyViolation_aside (s : State) (k : Nat) (store : Bool) (a : Nat) : Aside routeReg s (keyViolation s k store a) :=
  have hk := not_routeReg_kuViol
  (((Aside.refl.addSat hk).setF hk).setF hk).setF hk

/-- A word without a forced value is decoded beside the memory. -/
theorem dramDecode_errors_aside (s : State) (a : Nat) (l : List (Fin 74)) (scrub : Bool) :
    Aside routeReg s (dramDecode s a (.errors l) scrub).1 := by
  simp only [dramDecode]
  split
  · exact dramFail_aside s a
  · split
    · exact .refl
    · exact dramCorrect_aside s a _ scrub

/-! ### Boundaries (R376, R379) -/

section
variable {s₀ s : State} {n : Nat}

theorem Aside.toLead {kind : Nat} {arg : Word} (h : Aside asideReg s₀ s) : Aside asideReg s₀ (toLead s kind arg) := by
  unfold Machine.toLead
  split
  · exact h.when (·.emit)
  · exact h

theorem Aside.epochMsg {kind : Nat} (h : Aside asideReg s₀ s) : Aside asideReg s₀ (epochMsg s n kind) :=
  h.set.branch (fun h => h.foldl fun _ h => h.when (·.emit)) (·.toLead)

theorem Aside.startBoundary (hn : n < 16) (h : Aside asideReg s₀ s) : Aside asideReg s₀ (startBoundary s n) :=
  (((h.updEpoch).setF (not_asideReg_epStat hn)).forEach fun _ h => h.updSeq).when (·.set.epochMsg)

theorem Aside.requestBoundary (hn : n < 16) (h : Aside asideReg s₀ s) : Aside asideReg s₀ (requestBoundary s n) :=
  h.unless (·.unless (·.branch (·.updEpoch) (·.startBoundary hn)))

theorem Aside.askBoundary (hn : n < 16) (h : Aside asideReg s₀ s) : Aside asideReg s₀ (askBoundary s n) :=
  h.unless fun h => h.branch (·.when (·.toLead)) fun h => (h.updEpoch).requestBoundary hn

theorem Aside.earlyBoundary (hn : n < 16) (h : Aside asideReg s₀ s) : Aside asideReg s₀ (earlyBoundary s n) :=
  h.unless fun h => ((h.addSat (not_asideReg_epStat hn)).updEpoch).askBoundary hn

/-! ### Reservations and the copies of what is written (R265, R381) -/

theorem Aside.breakResv {a m : Nat} (h : Aside asideReg s₀ s) : Aside asideReg s₀ (breakResv s a m) := by
  refine h.when (·.foldl fun e h => ?_)
  split
  · exact h.when fun h => h.setSeq.setB (not_asideReg_psr e.1)
  · exact h

end

end Sys2Proof.Machine
end

section
/-! SUPPORT. A request at a DRAM port: what each branch of an access does (R308, R312, R313, R330-R334, R379). -/

namespace Sys2Proof.Machine

/-! ### Writing digits, marking frames, the committed copy -/

theorem notePages_eq (s : State) (a n : Nat) : notePages s a n = { s with pages := (notePages s a n).pages } := by
  unfold notePages
  split <;> rfl

/-- A write of digits does the write; what it does beside is to break reservations. -/
theorem writeDigits_aside (s : State) (a : Nat) (ds : List Nat) :
    Aside asideReg { s with mem := memWrite s.mem a ds } (writeDigits s a ds) := by
  have h : Aside asideReg s (breakResv s a ds.length) := Aside.refl.breakResv
  simp only [writeDigits, cleanWords]
  rw [notePages_eq]
  exact ⟨congrArg (memWrite · a ds) h.mem, h.keys, h.mesh, h.cfg, h.foldHome, h.copies, h.bar, h.shadowed, h.regs⟩

theorem markFrame_keys (s : State) (fr : Nat) (store : Bool) : ∃ ks, markFrame s fr store = { s with keys := ks } := by
  rw [markFrame_eq]
  split
  · exact ⟨s.keys, rfl⟩
  · exact ⟨_, rfl⟩

theorem markFrames_keys (frs : List Nat) (s : State) (store : Bool) :
    ∃ ks, forEach frs (fun s fr => markFrame s fr store) s = { s with keys := ks } := by
  induction frs generalizing s with
  | nil => exact ⟨s.keys, rfl⟩
  | cons f frs ih =>
    obtain ⟨k, hk⟩ := markFrame_keys s f store
    obtain ⟨ks, hks⟩ := ih (markFrame s f store)
    exact ⟨ks, hks.trans (by rw [hk])⟩

/-- Frames marked: nothing but the keys changes. -/
theorem markFrames_eq (frs : List Nat) (s : State) (store : Bool) :
    forEach frs (fun s fr => markFrame s fr store) s
      = { s with keys := (forEach frs (fun s fr => markFrame s fr store) s).keys } := by
  obtain ⟨ks, hks⟩ := markFrames_keys frs s store
  rw [hks]

theorem mapGet_map_of_key {α : Type} (d : α) (f : Nat × α → Nat × α) (hf : ∀ e, (f e).1 = e.1) (k : Nat)
    (P : α → α → Prop) (hd : P d d) (hP : ∀ e, P e.2 (f e).2) (m : List (Nat × α)) :
    P (mapGet d k m) (mapGet d k (m.map f)) := by
  induction m with
  | nil => exact hd
  | cons e m ih =>
    rw [List.map_cons, mapGet_cons, mapGet_cons, hf]
    split
    · exact hP e
    · exact ih

theorem throughSnap_aside (s : State) (a : Nat) (ds : List Nat) : Aside asideReg s (throughSnap s a ds) := by
  refine ⟨rfl, rfl, rfl, rfl, rfl, rfl, rfl, fun n => ?_, fun _ _ => rfl⟩
  refine mapGet_map_of_key {} _ (fun e => ?_) n (fun e e' => e'.shadowed = e.shadowed) rfl (fun e => ?_) s.epochs
  all_goals split <;> rfl

/-! ### The store itself -/

/-- The frames of request q are marked, unless its initiator leaves no marks. -/
def marked (s : State) (q : MeshReq) (store : Bool) : State :=
  if keyless q.src then s else forEach (framesOf q.addr q.len) (fun s fr => markFrame s fr store) s

theorem marked_eq (s : State) (q : MeshReq) (store : Bool) : marked s q store = { s with keys := (marked s q store).keys } := by
  unfold marked
  split
  · rfl
  · rw [markFrames_eq]

/-- The state in which the frames of a store are marked and its digits are written. -/
def stored (s : State) (q : MeshReq) : State :=
  { s with mem := memWrite s.mem q.addr (q.data.map BitVec.toNat), keys := (marked s q true).keys }

/-- A store changes the memory and the keys, and is answered; the rest stands beside it. -/
theorem dramStore_eq (s : State) (q : MeshReq) :
    ∃ t, Aside asideReg (stored s q) t ∧ dramStore s q = respond t q 0 [] := by
  have hw := writeDigits_aside (marked s q true) q.addr (q.data.map BitVec.toNat)
  have hst : { marked s q true with mem := memWrite (marked s q true).mem q.addr (q.data.map BitVec.toNat) } = stored s q := by
    rw [marked_eq]
    rfl
  rw [hst] at hw
  have he : ∀ w, writeDigits (marked s q true) q.addr (q.data.map BitVec.toNat) = w → dramStore s q
      = respond (if q.part.isSome && q.part == partOfRegion w (dramRegion q.addr) then w
          else throughSnap w q.addr (q.data.map BitVec.toNat)) q 0 [] := by
    rintro _ rfl
    rfl
  exact ⟨_, hw.branch id fun h => h.trans (throughSnap_aside _ _ _), he _ rfl⟩

/-- What the frames of a request not exempt from marks show after it. -/
theorem keyByte_marked (s : State) {q : MeshReq} (hq : keyless q.src = false) (store : Bool) {fr k : Nat}
    (hfr : fr ∈ framesOf q.addr q.len) (hk : k < 7) (hb : (markBits store).testBit k = true) :
    (keyByte (marked s q store) fr).testBit k = true := by
  obtain ⟨-, -, hmark⟩ := keyByte_markFrames (framesOf q.addr q.len) s store
  rw [marked, if_neg (by simp [hq])]
  exact hmark fr k hk (.inr ⟨hfr, hb⟩)

/-- The marks leave LOCK and RDO, and the frames that the request does not touch. -/
theorem keyByte_marked_kept (s : State) (q : MeshReq) (store : Bool) (fr : Nat) :
    keyByte (marked s q store) fr % 32 = keyByte s fr % 32
      ∧ (fr ∉ framesOf q.addr q.len → keyByte (marked s q store) fr = keyByte s fr) := by
  obtain ⟨hmod, hout, -⟩ := keyByte_markFrames (framesOf q.addr q.len) s store
  unfold marked
  split
  · exact ⟨rfl, fun _ => rfl⟩
  · exact ⟨hmod fr, hout fr⟩

/-- A store: the digits, the marks, the answer, and what it leaves. -/
theorem dramStore_effect (s : State) (q : MeshReq) (hlen : q.data.length = q.len) :
    readDigits (dramStore s q) q.addr q.len = q.data.map BitVec.toNat
      ∧ (∀ a, (a < q.addr ∨ q.addr + q.len ≤ a) → memDigit (dramStore s q).mem a = memDigit s.mem a)
      ∧ (keyless q.src = false → ∀ fr ∈ framesOf q.addr q.len,
          (keyByte (dramStore s q) fr).testBit 5 = true ∧ (keyByte (dramStore s q) fr).testBit 6 = true)
      ∧ (dramStore s q).mesh = (respond s q 0 []).mesh
      ∧ (dramStore s q).dram.copies = s.dram.copies ∧ (dramStore s q).dram.bar = s.dram.bar
      ∧ ∀ n, (epochOf (dramStore s q) n).shadowed = (epochOf s n).shadowed := by
  obtain ⟨t, ht, he⟩ := dramStore_eq s q
  have hmem : (dramStore s q).mem = memWrite s.mem q.addr (q.data.map BitVec.toNat) := by
    rw [he, respond_mem, ht.mem, stored]
  have hkeys : (dramStore s q).keys = (marked s q true).keys := by rw [he, respond_keys, ht.keys, stored]
  have hway : SameWay s (stored s q) := ⟨rfl, rfl, rfl, fun _ _ => rfl⟩
  refine ⟨readDigits_of_write hmem hlen, fun a ha => ?_, fun hk fr hfr => ?_, ?_, ?_, ?_, fun n => ?_⟩
  · rw [hmem, memDigit_write_outside (by rw [List.length_map, hlen]) ha]
  · rw [keyByte_congr hkeys]
    exact ⟨keyByte_marked s hk true hfr (by decide) rfl, keyByte_marked s hk true hfr (by decide) rfl⟩
  · rw [he, ht.toRoute.sameWay.respond, hway.respond]
  · rw [he, respond_dram, ht.copies, stored]
  · rw [he, respond_dram, ht.bar, stored]
  · rw [he, epochOf, respond_epochs, ← epochOf, ht.shadowed]
    rfl

/-! ### The words and frames of a request -/

theorem framesOf_head {a n : Nat} (h : n ≠ 0) : ∃ r, framesOf a n = a / 0x20000 :: r := by
  unfold framesOf
  obtain ⟨m, hm⟩ : ∃ m, (a + n - 1) / 0x20000 + 1 - a / 0x20000 = m + 1 := ⟨(a + n - 1) / 0x20000 - a / 0x20000, by omega⟩
  rw [hm, List.range_succ_eq_map]
  exact ⟨_, rfl⟩

theorem wordsRead_head {q : MeshReq} (hwr : q.wr = false) (h : q.len ≠ 0) :
    ∃ r, wordsRead q = 128 * (q.addr / 128) :: r := by
  obtain ⟨m, hm⟩ : ∃ m, (q.addr + q.len - 1) / 128 + 1 - q.addr / 128 = m + 1 :=
    ⟨(q.addr + q.len - 1) / 128 - q.addr / 128, by omega⟩
  simp only [wordsRead, hwr, Bool.not_false, if_true, hm, List.range_succ_eq_map]
  exact ⟨_, rfl⟩

/-- A word in which nothing is wrong is decoded without a trace. -/
theorem dramDecode_clean (s : State) (a : Nat) (scrub : Bool) : dramDecode s a (.errors []) scrub = (s, true) := rfl

theorem dramDecodes_clean_from (ws : List Nat) (i : Nat) (u : List DramFind) (hu : u.length ≤ i) (p : State × Bool) :
    (ws.zipIdx i).foldl (fun (p : State × Bool) w =>
      let r := dramDecode p.1 w.1 (u.getD w.2 (.errors [])) false
      (r.1, p.2 && r.2)) p = p := by
  induction ws generalizing i p with
  | nil => rfl
  | cons w ws ih =>
    rw [List.zipIdx_cons, List.foldl_cons, ih (i + 1) (by omega), List.getD_eq_default _ _ hu]
    simp [dramDecode_clean]

theorem dramDecodes_nil (s : State) (q : MeshReq) : dramDecodes s q [] = (s, true) :=
  dramDecodes_clean_from _ 0 [] (by simp) _

/-- Errors in the first word that a fetch reads. -/
theorem dramDecodes_first (s : State) {q : MeshReq} (hwr : q.wr = false) (h : q.len ≠ 0) (u : DramFind) :
    dramDecodes s q [u] = dramDecode s (128 * (q.addr / 128)) u false := by
  obtain ⟨r, hr⟩ := wordsRead_head hwr h
  unfold dramDecodes
  rw [hr, List.zipIdx_cons, List.foldl_cons, dramDecodes_clean_from r 1 [u] (by simp)]
  simp

/-! ### The decode of a word -/

theorem dramDecode_uncorrectable (s : State) {a : Nat} {l : List (Fin 74)} (scrub : Bool)
    (h : correctable s (dramRegion a) < (wrongSyms s (dramRegion a) l).length) :
    dramDecode s a (.errors l) scrub = (dramFail s a, false) := by
  unfold dramDecode
  exact if_pos h

theorem dramDecode_corrected (s : State) {a : Nat} {l : List (Fin 74)} (scrub : Bool)
    (h : (wrongSyms s (dramRegion a) l).length ≤ correctable s (dramRegion a)) (h0 : wrongSyms s (dramRegion a) l ≠ []) :
    dramDecode s a (.errors l) scrub = (dramCorrect s a (wrongSyms s (dramRegion a) l) scrub, true) := by
  unfold dramDecode
  refine (if_neg (by simpa [findSyms] using h)).trans (Prod.ext (if_neg ?_) rfl)
  simpa [findSyms] using h0

theorem correctable_le (s : State) (g : Nat) : correctable s g ≤ 5 := by
  unfold correctable
  split <;> decide

theorem dramOff_div_lt (a : Nat) : dramOff a / 128 < 2 ^ 28 := by
  unfold dramOff
  omega

/-- A correction sets CEV and logs the word with the number of its symbols. -/
theorem dramCorrect_regs (s : State) (a : Nat) (l : List Nat) (scrub : Bool) (hl : l.length < 16) :
    rgB (dramCorrect s a l scrub) (R.DRAM_ECC (dramRegion a)) R.DRAM_ECC_CEV = true
      ∧ rg (dramCorrect s a l scrub) (R.DRAM_ELOG (dramRegion a)) = l.length * 2 ^ 60 + dramOff a / 128 := by
  have h := dramCorrect_aside_noted s a l scrub
  have hne : R.DRAM_ECC (dramRegion a) ≠ R.DRAM_ELOG (dramRegion a) := by
    unfold R.DRAM_ECC R.DRAM_ELOG
    omega
  have hoff := dramOff_div_lt a
  constructor
  · rw [rgB, rgF, h.regs _ (asideReg_dramEcc _), ← rgF, ← rgB]
    simp only [correctionNoted]
    rw [rgB_setRg_other _ hne, rgB_setB_same _ _ (by decide) rfl]
  · rw [h.regs _ (asideReg_dramElog _)]
    simp only [correctionNoted, rg_setRg_same]
    omega

/-- A failure sets UE and logs the word with 15. -/
theorem dramFail_regs (s : State) (a : Nat) :
    rgB (dramFail s a) (R.DRAM_ECC (dramRegion a)) R.DRAM_ECC_UE = true
      ∧ rg (dramFail s a) (R.DRAM_ELOG (dramRegion a)) = 15 * 2 ^ 60 + dramOff a / 128 := by
  have h := dramFail_aside_noted s a
  have hne : R.DRAM_ECC (dramRegion a) ≠ R.DRAM_ELOG (dramRegion a) := by
    unfold R.DRAM_ECC R.DRAM_ELOG
    omega
  have hoff := dramOff_div_lt a
  constructor
  · rw [rgB, rgF, h.regs _ (asideReg_dramEcc _), ← rgF, ← rgB]
    simp only [failureNoted]
    rw [rgB_setRg_other _ hne, setB, rgB_setF_field _ _ (by decide) (by decide), rgB_setB_same _ _ (by decide) rfl]
  · rw [h.regs _ (asideReg_dramElog _)]
    simp only [failureNoted, rg_setRg_same]
    omega

theorem spareRow_wb (s : State) (row : Nat) : (spareRow s row).dram.wb = s.dram.wb := by
  unfold spareRow
  extract_lets g l
  split <;> rfl

theorem mem_setAdd {α : Type} [DecidableEq α] (x : α) (l : List α) : x ∈ setAdd x l := by
  unfold setAdd
  split
  · assumption
  · simp

/-- A corrected word waits for its write-back. -/
theorem dramCorrect_wb (s : State) (a : Nat) (l : List Nat) :
    dramOff a / 128 ∈ mapGet [] (dramRegion a) (dramCorrect s a l false).dram.wb := by
  simp only [dramCorrect]
  split
  · rw [spareRow_wb]
    simp [mem_setAdd]
  · simp [mem_setAdd]

end Sys2Proof.Machine
end

section
/-! SUPPORT. The order of a DRAM port's grants, and the branches of an access that it grants (R23, R308). -/

namespace Sys2Proof.Machine

/-! ### The grant -/

theorem grantsFirst_iff (g : Nat) (q r : MeshReq) : grantsFirst g q r = true ↔ q.cyc < r.cyc ∨ (q.cyc = r.cyc
    ∧ (dramRequester g q < dramRequester g r ∨ (dramRequester g q = dramRequester g r ∧ q.seq < r.seq))) := by
  simp [grantsFirst]

/-- The better of a request and of the best one so far. -/
def betterGrant (g : Nat) (best : Option MeshReq) (q : MeshReq) : Option MeshReq :=
  match best with
  | none => some q
  | some b => if grantsFirst g q b then some q else some b

/-- The requests that may be granted at the port of region g. -/
def grantable (s : State) (g : Nat) : List MeshReq :=
  let ws := s.mesh.flight.filter (dramWaits s g)
  ws.filter fun q => !barred s g ws q

theorem dramGrant_eq (s : State) (g : Nat) : dramGrant s g = (grantable s g).foldl (betterGrant g) none := rfl

theorem foldl_betterGrant (g : Nat) (l : List MeshReq) (b : MeshReq) :
    ∃ q, l.foldl (betterGrant g) (some b) = some q ∧ (q = b ∨ q ∈ l) ∧ grantsFirst g b q = false
      ∧ ∀ r ∈ l, grantsFirst g r q = false := by
  have hiff := grantsFirst_iff g
  induction l generalizing b with
  | nil => exact ⟨b, rfl, .inl rfl, by rw [← Bool.not_eq_true, hiff]; omega, by simp⟩
  | cons x l ih =>
    by_cases hx : grantsFirst g x b = true
    · obtain ⟨q, he, hm, hb, hl⟩ := ih x
      refine ⟨q, by rw [List.foldl_cons, betterGrant, if_pos hx, he], .inr ?_, ?_, ?_⟩
      · rcases hm with rfl | hm
        · simp
        · simp [hm]
      · rw [← Bool.not_eq_true, hiff] at hb ⊢
        rw [hiff] at hx
        omega
      · simpa [hb] using hl
    · obtain ⟨q, he, hm, hb, hl⟩ := ih b
      refine ⟨q, by rw [List.foldl_cons, betterGrant, if_neg hx, he], hm.imp id (by simp +contextual), hb, ?_⟩
      rw [List.forall_mem_cons]
      refine ⟨?_, hl⟩
      rw [← Bool.not_eq_true, hiff] at hb ⊢
      rw [hiff] at hx
      omega

/-- The port grants one of those that it may grant, before which none of them comes. -/
theorem dramGrant_some {s : State} {g : Nat} {q : MeshReq} (h : dramGrant s g = some q) :
    q ∈ grantable s g ∧ ∀ r ∈ grantable s g, grantsFirst g r q = false := by
  rw [dramGrant_eq] at h
  cases hl : grantable s g with
  | nil => rw [hl] at h; cases h
  | cons x l =>
    rw [hl] at h
    obtain ⟨p, he, hm, hb, hr⟩ := foldl_betterGrant g l x
    cases he.symm.trans h
    exact ⟨by rcases hm with rfl | hm <;> simp [*], by simpa [hb] using hr⟩

theorem mem_grantable {s : State} {g : Nat} {q : MeshReq} : q ∈ grantable s g ↔ q ∈ s.mesh.flight ∧ dramWaits s g q = true
    ∧ barred s g (s.mesh.flight.filter (dramWaits s g)) q = false := by
  simp only [grantable, List.mem_filter, and_assoc, Bool.not_eq_true']

/-- While a request that waited when requester k was granted still waits, k is not granted again. -/
theorem dramRequester_dramGrant_ne {s t : State} {g k : Nat} {r p : MeshReq}
    (hbar : t.dram.bar = (noteGrant s g k).dram.bar) (hr : r ∈ s.mesh.flight) (hw : dramWaits s g r = true)
    (hk : dramRequester g r ≠ k) (hrt : r ∈ t.mesh.flight) (hwt : dramWaits t g r = true) (hp : dramGrant t g = some p) :
    dramRequester g p ≠ k := by
  rintro rfl
  obtain ⟨-, -, hfree⟩ := mem_grantable.mp (dramGrant_some hp).1
  refine absurd hfree (Bool.not_eq_false _ ▸ ?_)
  simp only [barred, hbar, noteGrant, mapGet_set_same, List.any_eq_true]
  refine ⟨r.id, List.mem_map_of_mem (List.mem_filter.mpr ⟨hr, by simp [hw, hk]⟩), r, ?_, by simp⟩
  exact List.mem_filter.mpr ⟨hrt, hwt⟩

/-! ### The branches of an access -/

section
variable {s : State} {q : MeshReq}

/-- The request lies below the reserve, or its initiator may use the reserve. -/
def belowReserve (q : MeshReq) : Prop := dramOff q.addr + q.len - 1 < 0x700000000 ∨ keyless q.src = true

/-- The keys of its frames allow the request. -/
def keysAllow (s : State) (q : MeshReq) : Bool := (framesOf q.addr q.len).all fun fr => keyAllows s fr q.key.toNat q.wr

theorem dramAccess_reserve (h : ¬ belowReserve q) (ks : List Bool) (u : List DramFind) :
    dramAccess s q ks u = respond s q 1 [] := by
  unfold belowReserve at h
  unfold dramAccess
  refine if_pos ?_
  simp only [Bool.and_eq_true, decide_eq_true_eq, Bool.not_eq_true']
  rw [not_or] at h
  exact ⟨by omega, by simpa using h.2⟩

theorem belowReserve_cond (h : belowReserve q) :
    ¬ (decide (0x700000000 ≤ dramOff q.addr + q.len - 1) && !keyless q.src) = true := by
  unfold belowReserve at h
  simp only [Bool.and_eq_true, decide_eq_true_eq, Bool.not_eq_true', not_and, Bool.not_eq_false]
  intro hlo
  exact h.resolve_left (by omega)

/-- The frames of the request whose key bytes fail their parity. -/
def badFrames (q : MeshReq) (ks : List Bool) : List (Nat × Nat) :=
  (framesOf q.addr q.len).zipIdx.filter fun f => ks.getD f.2 false

theorem badFrames_nil (q : MeshReq) : badFrames q [] = [] := by
  simp [badFrames]

theorem badFrames_head {q : MeshReq} (hl : q.len ≠ 0) (ks : List Bool) :
    ∃ r, badFrames q (true :: ks) = (q.addr / 0x20000, 0) :: r := by
  obtain ⟨r, hr⟩ := framesOf_head (a := q.addr) hl
  rw [badFrames, hr, List.zipIdx_cons, List.filter_cons_of_pos rfl]
  exact ⟨_, rfl⟩

theorem dramAccess_badKeys (h : belowReserve q) {ks : List Bool} (hb : badFrames q ks ≠ []) (u : List DramFind) :
    dramAccess s q ks u = respond (forEach (badFrames q ks) (fun s f => keyParityError s f.1) s) q 3 [] := by
  unfold dramAccess
  refine (if_neg (belowReserve_cond h)).trans (if_pos ?_)
  simpa [badFrames] using hb

theorem dramAccess_refused (h : belowReserve q) {ks : List Bool} (hb : badFrames q ks = []) (ha : keysAllow s q = false)
    (u : List DramFind) : dramAccess s q ks u = respond (keyViolation s q.key.toNat q.wr q.addr) q 2 [] := by
  unfold dramAccess
  refine (if_neg (belowReserve_cond h)).trans ((if_neg ?_).trans (if_pos ?_))
  · simpa [badFrames] using hb
  · simpa [keysAllow] using ha

/-- The words of a request that the keys allow are decoded after its marks. -/
theorem dramAccess_allowed (h : belowReserve q) {ks : List Bool} (hb : badFrames q ks = []) (ha : keysAllow s q = true)
    (u : List DramFind) {t : State} {ok : Bool} (hd : dramDecodes (if q.wr then s else marked s q false) q u = (t, ok)) :
    dramAccess s q ks u = if !ok then respond t q 3 [] else if q.wr then dramWrite t q
      else respond t q 0 (readDigits t q.addr q.len) := by
  have hm : (if q.wr then s else marked s q false) = (if q.wr || keyless q.src then s
      else forEach (framesOf q.addr q.len) (fun s fr => markFrame s fr false) s) := by
    unfold marked
    cases q.wr <;> rfl
  rw [hm] at hd
  unfold dramAccess
  refine (if_neg (belowReserve_cond h)).trans ((if_neg ?_).trans ((if_neg ?_).trans ?_))
  · simpa [badFrames] using hb
  · simpa [keysAllow] using ha
  · simp only [hd]

theorem dramAccess_read (h : belowReserve q) (ha : keysAllow s q = true) (hwr : q.wr = false) :
    dramAccess s q [] [] = respond (marked s q false) q 0 (readDigits (marked s q false) q.addr q.len) := by
  rw [dramAccess_allowed h (badFrames_nil q) ha [] (dramDecodes_nil _ q)]
  simp [hwr]

theorem dramAccess_store (h : belowReserve q) (ha : keysAllow s q = true) (hwr : q.wr = true) :
    dramAccess s q [] [] = dramWrite s q := by
  rw [dramAccess_allowed h (badFrames_nil q) ha [] (dramDecodes_nil _ q)]
  simp [hwr]

/-- A fetch whose first word the decode has looked at. -/
theorem dramAccess_firstWord (h : belowReserve q) (ha : keysAllow s q = true) (hwr : q.wr = false) (hl : q.len ≠ 0)
    (u : DramFind) {t : State} {ok : Bool} (hd : dramDecode (marked s q false) (128 * (q.addr / 128)) u false = (t, ok)) :
    dramAccess s q [] [u] = if !ok then respond t q 3 [] else respond t q 0 (readDigits t q.addr q.len) := by
  rw [dramAccess_allowed (t := t) (ok := ok) h (badFrames_nil q) ha [u]]
  · simp [hwr]
  · rw [dramDecodes_first _ hwr hl]
    simpa [hwr] using hd

end

/-! ### What the port's fairness remembers -/

theorem foldl_bar {α : Type} {f : State → α → State} (hf : ∀ s x, (f s x).dram.bar = s.dram.bar) (l : List α) (s : State) :
    (l.foldl f s).dram.bar = s.dram.bar := by
  induction l generalizing s with
  | nil => rfl
  | cons x l ih => exact (ih (f s x)).trans (hf s x)

theorem dramDecode_bar (s : State) (a : Nat) (u : DramFind) (scrub : Bool) :
    (dramDecode s a u scrub).1.dram.bar = s.dram.bar := by
  cases u with
  | errors l => exact (dramDecode_errors_aside s a l scrub).bar
  | miscorrected v l =>
    simp only [dramDecode]
    split
    · exact (dramFail_aside s a).bar
    · split
      · rfl
      · exact (dramCorrect_aside _ a _ scrub).bar

theorem dramDecodes_bar (s : State) (q : MeshReq) (u : List DramFind) : (dramDecodes s q u).1.dram.bar = s.dram.bar := by
  unfold dramDecodes
  generalize (wordsRead q).zipIdx = ws
  generalize true = ok
  induction ws generalizing s ok with
  | nil => rfl
  | cons w ws ih => exact (ih _ _).trans (dramDecode_bar s w.1 _ false)

theorem partOfRegion_lt {s : State} {g n : Nat} (h : partOfRegion s g = some n) : n < 16 := by
  unfold partOfRegion at h
  split at h
  · cases h
    have := bits_lt (rg s R.IMG_REGMAP) (4 * g + 3) (4 * g)
    rwa [show 4 * g + 3 + 1 - 4 * g = 4 by omega] at this
  · cases h

theorem partOfRegion_getD_lt (s : State) (g : Nat) : (partOfRegion s g).getD 0 < 16 := by
  cases h : partOfRegion s g with
  | none => decide
  | some n => exact partOfRegion_lt h

theorem earlyBoundary_aside (s : State) (g : Nat) : Aside asideReg s (earlyBoundary s ((partOfRegion s g).getD 0)) :=
  Aside.refl.earlyBoundary (partOfRegion_getD_lt s g)

theorem dramStore_bar (s : State) (q : MeshReq) : (dramStore s q).dram.bar = s.dram.bar := by
  obtain ⟨t, ht, he⟩ := dramStore_eq s q
  rw [he, respond_dram, ht.bar]
  rfl

theorem dramWrite_bar (s : State) (q : MeshReq) : (dramWrite s q).dram.bar = s.dram.bar := by
  unfold dramWrite
  extract_lets g new busy n max
  split
  · exact dramStore_bar s q
  · split
    · rfl
    · have h : Aside asideReg (parkReq s q) (earlyBoundary (parkReq s q) n) := .earlyBoundary (partOfRegion_getD_lt s g) .refl
      exact h.bar.trans rfl

theorem marked_bar (s : State) (q : MeshReq) (store : Bool) : (marked s q store).dram.bar = s.dram.bar := by
  rw [marked_eq]

theorem keyParityError_bar (s : State) (f : Nat × Nat) : (keyParityError s f.1).dram.bar = s.dram.bar := by
  have h := keyParityError_aside s f.1
  exact h.bar

theorem dramAccess_bar (s : State) (q : MeshReq) (ks : List Bool) (u : List DramFind) :
    (dramAccess s q ks u).dram.bar = s.dram.bar := by
  by_cases hlow : belowReserve q
  · by_cases hb : badFrames q ks = []
    · cases ha : keysAllow s q with
      | false =>
        rw [dramAccess_refused hlow hb ha, respond_dram]
        exact (keyViolation_aside s _ _ _).bar
      | true =>
        have hm : (if q.wr then s else marked s q false).dram.bar = s.dram.bar := by
          split
          exacts [rfl, marked_bar s q false]
        have hbar := (dramDecodes_bar (if q.wr then s else marked s q false) q u).trans hm
        obtain ⟨⟨t, ok⟩, hd⟩ : ∃ p, dramDecodes (if q.wr then s else marked s q false) q u = p := ⟨_, rfl⟩
        rw [hd] at hbar
        dsimp only at hbar
        rw [dramAccess_allowed hlow hb ha u hd]
        cases ok <;> cases q.wr <;> simp [respond_dram, dramWrite_bar, hbar]
    · rw [dramAccess_badKeys hlow hb, respond_dram]
      exact foldl_bar keyParityError_bar _ s
  · rw [dramAccess_reserve hlow, respond_dram]

end Sys2Proof.Machine
end

section
/-! O32: requests at a DRAM port. -/

namespace Sys2Proof.Machine

/-! ### The command -/

theorem id_of_reqOf {s : State} {id : Nat} {q : MeshReq} (h : reqOf s id = some q) : q.id = id := by
  simpa using List.find?_some h

theorem dramTurn_iff (s : State) (q : MeshReq) (g : Rgn) : s.dramTurn q g = true
    ↔ (dramGrant s g.toNat).map MeshReq.id = some q.id ∧ before s q = none ∧ q.addr / 0x800000000 = g.toNat ∧ q.len ≠ 0
      ∧ (q.wr = true → q.data.length = q.len) := by
  simp only [State.dramTurn, Bool.and_eq_true, beq_iff_eq, Option.isNone_iff_eq_none, bne_iff_ne, Bool.or_eq_true,
    Bool.not_eq_true', decide_eq_true_eq, and_assoc]
  cases q.wr <;> simp

/-- The state in which request q has been granted at the port of its region. -/
def granted (s : State) (q : MeshReq) : State :=
  noteGrant s (q.addr / 0x800000000) (dramRequester (q.addr / 0x800000000) q)

theorem granted_sameWay (s : State) (q : MeshReq) : SameWay s (granted s q) := ⟨rfl, rfl, rfl, fun _ _ => rfl⟩

/-- A request whose turn it is is performed. -/
theorem exec_dramAccess_turn {s : State} {id : Nat} {q : MeshReq} {g : Rgn} (hq : reqOf s id = some q)
    (ht : s.dramTurn q g = true) (u : DramFinds) :
    exec (.dramAccess id u) s = .next (dramAccess (granted s q) q u.keys u.words) := by
  obtain ⟨hg, hb, ha, -, -⟩ := (dramTurn_iff s q g).mp ht
  have hb' : before (noteGrant s (q.addr / 0x800000000) (dramRequester (q.addr / 0x800000000) q)) q = none := hb
  refine congrArg Host.Outcome.next ?_
  simp only [hq, ha, hg, id_of_reqOf hq]
  rw [if_neg (by simp), ← ha, hb']
  rfl

/-- A request is performed, or parks behind a parked one, or waits. -/
theorem exec_dramAccess_of_grant {s t : State} {id : Nat} {q : MeshReq} (hq : reqOf s id = some q) {u : DramFinds}
    (hg : (dramGrant s (q.addr / 0x800000000)).map MeshReq.id = some id) (h : exec (.dramAccess id u) s = .next t) :
    t = parkReq (granted s q) q ∨ t = dramAccess (granted s q) q u.keys u.words := by
  have he : exec (.dramAccess id u) s = .next (match before (granted s q) q with
      | some _ => parkReq (granted s q) q
      | none => dramAccess (granted s q) q u.keys u.words) := by
    refine congrArg Host.Outcome.next ?_
    simp only [hq]
    rw [if_neg (by simp [hg])]
    rfl
  rw [he] at h
  cases h
  split
  · exact .inl rfl
  · exact .inr rfl

theorem exec_dramAccess_of_not_grant {s : State} {id : Nat} {q : MeshReq} (hq : reqOf s id = some q) (u : DramFinds)
    (hg : (dramGrant s (q.addr / 0x800000000)).map MeshReq.id ≠ some id) : exec (.dramAccess id u) s = .next s := by
  refine congrArg Host.Outcome.next ?_
  simp only [hq]
  rw [if_pos hg]

/-! ### Keys: parity and violations -/

theorem keyParityError_pev (s : State) (fr : Nat) : rgB (keyParityError s fr) (R.KEY_ERR (fr / 262144)) R.KEY_ERR_PEV = true := by
  rw [rgB, rgF, (keyParityError_aside_noted s fr).regs _ (asideReg_keyErr _), ← rgF, ← rgB]
  simp only [keyErrorNoted]
  rw [rgB_setB_same _ _ (by decide) rfl]

/-- PEV stays, whichever frame fails. -/
theorem keyParityError_pev_kept (s : State) (fr g : Nat) (h : rgB s (R.KEY_ERR g) R.KEY_ERR_PEV = true) :
    rgB (keyParityError s fr) (R.KEY_ERR g) R.KEY_ERR_PEV = true := by
  by_cases hg : g = fr / 262144
  · rw [hg, keyParityError_pev]
  · have hne : R.KEY_ERR g ≠ R.KEY_ERR (fr / 262144) := by
      unfold R.KEY_ERR gwin
      omega
    rw [rgB, rgF, (keyParityError_aside_noted s fr).regs _ (asideReg_keyErr _), ← rgF, ← rgB]
    simp only [keyErrorNoted, addSat, setB]
    rw [rgB_setF_other _ hne, rgB_setF_other _ hne, rgB_setF_other _ hne, h]

theorem keyParityErrors_aside (s : State) (l : List (Nat × Nat)) :
    Aside routeReg s (forEach l (fun s f => keyParityError s f.1) s) := by
  induction l generalizing s with
  | nil => exact .refl
  | cons f l ih =>
    have h := keyParityError_aside s f.1
    exact h.trans (ih _)

theorem keyParityErrors_pev (s : State) (l : List (Nat × Nat)) (g : Nat) (h : rgB s (R.KEY_ERR g) R.KEY_ERR_PEV = true) :
    rgB (forEach l (fun s f => keyParityError s f.1) s) (R.KEY_ERR g) R.KEY_ERR_PEV = true := by
  induction l generalizing s with
  | nil => exact h
  | cons f l ih => exact ih _ (keyParityError_pev_kept s f.1 g h)

/-- KU_VIOL after a refusal. -/
theorem keyViolation_regs (s : State) (k : BitVec 4) (store : Bool) (a : Nat) :
    let t := keyViolation s k.toNat store a
    rgF t R.KU_VIOL R.KU_VIOL_KEY = k.toNat ∧ rgF t R.KU_VIOL R.KU_VIOL_STORE = b2n store
      ∧ rgF t R.KU_VIOL R.KU_VIOL_ADDR = a % 2 ^ 48
      ∧ rgF t R.KU_VIOL R.KU_VIOL_COUNT = min (rgF s R.KU_VIOL R.KU_VIOL_COUNT + 1) R.KU_VIOL_COUNT.top := by
  have hk := k.isLt
  have hst : b2n store < 2 := by cases store <;> decide
  simp only [keyViolation]
  refine ⟨?_, ?_, ?_, ?_⟩
  · rw [rgF_setF_field _ _ (by decide) (by decide), rgF_setF_field _ _ (by decide) (by decide), rgF_setF_same _ _ (by decide)]
    exact Nat.mod_eq_of_lt hk
  · rw [rgF_setF_field _ _ (by decide) (by decide), rgF_setF_same _ _ (by decide)]
    exact Nat.mod_eq_of_lt hst
  · rw [rgF_setF_same _ _ (by decide)]
    exact Nat.mod_mod _ _
  · rw [rgF_setF_field _ _ (by decide) (by decide), rgF_setF_field _ _ (by decide) (by decide),
      rgF_setF_field _ _ (by decide) (by decide), rgF_addSat_same _ _ (by decide)]

/-! ### Each branch, in the state in which the request has been granted -/

section
variable (s : State) (q : MeshReq)

theorem marked_sameWay (store : Bool) : SameWay s (marked s q store) := by
  rw [marked_eq]
  exact ⟨rfl, rfl, rfl, fun _ _ => rfl⟩

theorem marked_mem (store : Bool) : (marked s q store).mem = s.mem := by rw [marked_eq]

theorem respond_granted (st : Nat) (ds : List Nat) : (respond (granted s q) q st ds).mesh = (respond s q st ds).mesh :=
  (granted_sameWay s q).respond q st ds

end

section
variable {s : State} {q : MeshReq}

/-- A frame whose key byte fails its parity. -/
theorem dramAccess_badKey_effect (hlow : belowReserve q) (hl : q.len ≠ 0) (ks : List Bool) (u : List DramFind) :
    let t := dramAccess s q (true :: ks) u
    t.mem = s.mem ∧ t.keys = s.keys ∧ t.mesh = (respond s q 3 []).mesh
      ∧ rgB t (R.KEY_ERR ((framesOf q.addr q.len).headD 0 / 262144)) R.KEY_ERR_PEV = true := by
  obtain ⟨fr, hfr⟩ := framesOf_head (a := q.addr) hl
  obtain ⟨r, hr⟩ := badFrames_head hl ks
  have ha := keyParityErrors_aside s (badFrames q (true :: ks))
  dsimp only
  rw [dramAccess_badKeys hlow (by rw [hr]; simp), respond_mem, respond_keys, rgB_congr (respond_regs _ _ _ _), ha.sameWay.respond]
  refine ⟨ha.mem, ha.keys, rfl, ?_⟩
  rw [hr, hfr]
  exact keyParityErrors_pev _ r _ (keyParityError_pev s (q.addr / 0x20000))

theorem dramAccess_refused_effect (hlow : belowReserve q) (hk : keysAllow s q = false) (u : List DramFind) :
    let t := dramAccess s q [] u
    t.mem = s.mem ∧ t.keys = s.keys ∧ t.mesh = (respond s q 2 []).mesh ∧ rgF t R.KU_VIOL R.KU_VIOL_KEY = q.key.toNat
      ∧ rgF t R.KU_VIOL R.KU_VIOL_STORE = b2n q.wr ∧ rgF t R.KU_VIOL R.KU_VIOL_ADDR = q.addr % 2 ^ 48
      ∧ rgF t R.KU_VIOL R.KU_VIOL_COUNT = min (rgF s R.KU_VIOL R.KU_VIOL_COUNT + 1) R.KU_VIOL_COUNT.top := by
  have ha := keyViolation_aside s q.key.toNat q.wr q.addr
  have hregs := respond_regs (keyViolation s q.key.toNat q.wr q.addr) q 2 []
  dsimp only
  rw [dramAccess_refused hlow (badFrames_nil q) hk, respond_mem, respond_keys, ha.sameWay.respond]
  simp only [rgF_congr hregs]
  exact ⟨ha.mem, ha.keys, trivial, keyViolation_regs s q.key q.wr q.addr⟩

theorem dramAccess_read_effect (hlow : belowReserve q) (hk : keysAllow s q = true) (hwr : q.wr = false) :
    let t := dramAccess s q [] []
    t.mem = s.mem ∧ t.mesh = (respond s q 0 (readDigits s q.addr q.len)).mesh
      ∧ (keyless q.src = false → ∀ fr ∈ framesOf q.addr q.len, (keyByte t fr).testBit 5 = true)
      ∧ ∀ fr, keyByte t fr % 32 = keyByte s fr % 32 ∧ (fr ∉ framesOf q.addr q.len → keyByte t fr = keyByte s fr) := by
  have hm := marked_mem s q false
  dsimp only
  rw [dramAccess_read hlow hk hwr, respond_mem, readDigits_congr hm, (marked_sameWay s q false).respond]
  simp only [keyByte_congr (respond_keys _ _ _ _)]
  exact ⟨hm, trivial, fun hq fr hfr => keyByte_marked s hq false hfr (by decide) rfl, keyByte_marked_kept s q false⟩

theorem dramAccess_corrected_effect (hlow : belowReserve q) (hk : keysAllow s q = true) (hwr : q.wr = false) (hl : q.len ≠ 0)
    {l : List (Fin 74)} (h0 : wrongSyms s (dramRegion q.addr) l ≠ [])
    (hc : (wrongSyms s (dramRegion q.addr) l).length ≤ correctable s (dramRegion q.addr)) :
    let t := dramAccess s q [] [.errors l]
    t.mesh = (respond s q 0 (readDigits s q.addr q.len)).mesh ∧ t.mem = s.mem
      ∧ rgB t (R.DRAM_ECC (dramRegion q.addr)) R.DRAM_ECC_CEV = true
      ∧ rg t (R.DRAM_ELOG (dramRegion q.addr))
        = (wrongSyms s (dramRegion q.addr) l).length * 2 ^ 60 + dramOff q.addr / 128
      ∧ dramOff q.addr / 128 ∈ mapGet [] (dramRegion q.addr) t.dram.wb := by
  have hreg : dramRegion (128 * (q.addr / 128)) = dramRegion q.addr := by unfold dramRegion; omega
  have hoff : dramOff (128 * (q.addr / 128)) / 128 = dramOff q.addr / 128 := by unfold dramOff; omega
  have hws : wrongSyms (marked s q false) (dramRegion q.addr) l = wrongSyms s (dramRegion q.addr) l := by
    rw [marked_eq]; rfl
  have hcs : correctable (marked s q false) (dramRegion q.addr) = correctable s (dramRegion q.addr) := by
    rw [marked_eq]; rfl
  have hd := dramDecode_corrected (marked s q false) (a := 128 * (q.addr / 128)) (l := l) false
    (by rw [hreg, hws, hcs]; exact hc) (by rw [hreg, hws]; exact h0)
  rw [hreg, hws] at hd
  have hlen : (wrongSyms s (dramRegion q.addr) l).length < 16 := by
    have := correctable_le s (dramRegion q.addr)
    omega
  have ha := dramCorrect_aside (marked s q false) (128 * (q.addr / 128)) (wrongSyms s (dramRegion q.addr) l) false
  have hmem := ha.mem.trans (marked_mem s q false)
  obtain ⟨hcev, helog⟩ := dramCorrect_regs (marked s q false) (128 * (q.addr / 128)) _ false hlen
  have hwb := dramCorrect_wb (marked s q false) (128 * (q.addr / 128)) (wrongSyms s (dramRegion q.addr) l)
  rw [hreg] at hcev helog hwb
  rw [hoff] at helog hwb
  dsimp only
  rw [dramAccess_firstWord hlow hk hwr hl _ hd, if_neg (by simp), respond_mem, respond_dram,
    rgB_congr (respond_regs _ _ _ _), rg_congr (respond_regs _ _ _ _), readDigits_congr hmem, ha.sameWay.respond,
    (marked_sameWay s q false).respond]
  exact ⟨rfl, hmem, hcev, helog, hwb⟩

theorem dramAccess_uncorrectable_effect (hlow : belowReserve q) (hk : keysAllow s q = true) (hwr : q.wr = false)
    (hl : q.len ≠ 0) {l : List (Fin 74)} (hc : correctable s (dramRegion q.addr) < (wrongSyms s (dramRegion q.addr) l).length) :
    let t := dramAccess s q [] [.errors l]
    t.mesh = (respond s q 3 []).mesh ∧ t.mem = s.mem ∧ rgB t (R.DRAM_ECC (dramRegion q.addr)) R.DRAM_ECC_UE = true
      ∧ rg t (R.DRAM_ELOG (dramRegion q.addr)) = 15 * 2 ^ 60 + dramOff q.addr / 128 := by
  have hreg : dramRegion (128 * (q.addr / 128)) = dramRegion q.addr := by unfold dramRegion; omega
  have hoff : dramOff (128 * (q.addr / 128)) / 128 = dramOff q.addr / 128 := by unfold dramOff; omega
  have hd := dramDecode_uncorrectable (marked s q false) (a := 128 * (q.addr / 128)) (l := l) false
    (by rw [hreg, marked_eq]; exact hc)
  have ha := dramFail_aside (marked s q false) (128 * (q.addr / 128))
  obtain ⟨hue, helog⟩ := dramFail_regs (marked s q false) (128 * (q.addr / 128))
  rw [hreg] at hue helog
  rw [hoff] at helog
  dsimp only
  rw [dramAccess_firstWord hlow hk hwr hl _ hd, if_pos (by simp), respond_mem, rgB_congr (respond_regs _ _ _ _),
    rg_congr (respond_regs _ _ _ _), ha.sameWay.respond, (marked_sameWay s q false).respond]
  exact ⟨rfl, ha.mem.trans (marked_mem s q false), hue, helog⟩

/-! ### A store and its shadows (R379) -/

/-- What the shadows of region g would take with those that request q needs. -/
def shadowsWanted (s : State) (q : MeshReq) : Nat :=
  shadowsUsed s (dramRegion q.addr) + (s.dram.copies.filter fun c => c.1 / 262144 == dramRegion q.addr).length
    + (needShadow s q).length

/-- The shadows that the partition of request q's region may have. -/
def shadowsMax (s : State) (q : MeshReq) : Nat :=
  rgF s (R.EP_CTRL ((partOfRegion s (dramRegion q.addr)).getD 0)) R.EP_CTRL_SHMAX

theorem dramWrite_shadowed (h : needShadow s q = []) : dramWrite s q = dramStore s q := by
  unfold dramWrite
  exact if_pos (by simp [h])

theorem dramWrite_copies (h : needShadow s q ≠ []) (hroom : shadowsWanted s q ≤ shadowsMax s q) : dramWrite s q
    = { s with dram := { s.dram with copies := s.dram.copies ++ (needShadow s q).map fun fr => (fr, q.id) } } := by
  unfold dramWrite
  exact (if_neg (by simpa using h)).trans (if_pos hroom)

theorem dramWrite_parks (h : needShadow s q ≠ []) (hroom : ¬ shadowsWanted s q ≤ shadowsMax s q) : dramWrite s q
    = earlyBoundary (parkReq s q) ((partOfRegion s (dramRegion q.addr)).getD 0) := by
  unfold dramWrite
  exact (if_neg (by simpa using h)).trans (if_neg hroom)

theorem parked_aside (s : State) (q : MeshReq) (g : Nat) :
    Aside asideReg (parkReq s q) (earlyBoundary (parkReq s q) ((partOfRegion s g).getD 0)) :=
  .earlyBoundary (partOfRegion_getD_lt s g) .refl

end

/-! ### The end of a copy (R379) -/

/-- The state without copy c. -/
def uncopied (s : State) (c : Nat × Nat) : State :=
  { s with dram := { s.dram with copies := s.dram.copies.filter fun x => x != c } }

/-- The state in which the frame of copy c has its shadow, which the epoch state of its partition n knows. -/
def copied (s : State) (n : Nat) (c : Nat × Nat) : State :=
  updEpoch s n fun e => { e with shadowed := setAdd c.1 e.shadowed }

/-- That state after the early boundary that the shadow may ask for. -/
def copiedAsked (s : State) (g : Nat) (c : Nat × Nat) : State :=
  let n := (partOfRegion s g).getD 0
  if rgF (copied s n c) (R.EP_CTRL n) R.EP_CTRL_SHMAX ≤ shadowsUsed (copied s n c) g + 32 then earlyBoundary (copied s n c) n
  else copied s n c

theorem copiedAsked_aside (s : State) (g : Nat) (c : Nat × Nat) :
    Aside asideReg (copied s ((partOfRegion s g).getD 0) c) (copiedAsked s g c) :=
  Aside.refl.when (·.earlyBoundary (partOfRegion_getD_lt s g))

/-- The end of the oldest copy of a region, in two steps: the decode of what is copied, and what follows. -/
theorem exec_shadowCopyDone {s : State} {d : DramCopy} {c : Nat × Nat}
    (hc : (s.dram.copies.find? fun c => c.1 / 262144 == d.g.toNat) = some c) {t : State} {ok : Bool}
    (hd : copyDecodes (uncopied s c) (0x20000 * c.1) d.finds = (t, ok)) :
    exec (.shadowCopyDone d) s = .next (if !ok then copyFails t c.2 else
      if (copiedAsked t d.g.toNat c).dram.copies.any fun x => x.2 == c.2 then markFrame (copiedAsked t d.g.toNat c) c.1 true
      else match reqOf (copiedAsked t d.g.toNat c) c.2 with
        | some q => if q.dead then respond (copiedAsked t d.g.toNat c) q 0 [] else dramStore (copiedAsked t d.g.toNat c) q
        | none => copiedAsked t d.g.toNat c) := by
  refine congrArg Host.Outcome.next ?_
  unfold uncopied at hd
  simp only [hc, hd]
  rfl

section
variable {s : State} {g : Rgn} {c : Nat × Nat} {q : MeshReq}

/-- The last copy of a store lets it be performed. -/
theorem exec_shadowCopyDone_last (hc : (s.dram.copies.find? fun c => c.1 / 262144 == g.toNat) = some c)
    (hq : reqOf s c.2 = some q) (hd : q.dead = false)
    (hlast : (s.dram.copies.filter fun x => x != c).all (fun x => x.2 != c.2) = true) :
    exec (.shadowCopyDone ⟨g, []⟩) s = .next (dramStore (copiedAsked (uncopied s c) g.toNat c) q) := by
  have ha := copiedAsked_aside (uncopied s c) g.toNat c
  have hcopies : (copiedAsked (uncopied s c) g.toNat c).dram.copies.any (fun x => x.2 == c.2) = false := by
    rw [ha.copies]
    simpa [copied, uncopied, or_iff_not_imp_left] using hlast
  have hreq : reqOf (copiedAsked (uncopied s c) g.toNat c) c.2 = some q := by
    rw [reqOf, ha.mesh]
    exact hq
  rw [exec_shadowCopyDone (d := ⟨g, []⟩) hc rfl, if_neg (by simp), if_neg (by simp [hcopies]), hreq]
  simp [hd]

/-- A copy that meets a word beyond correction ends with its store answered. -/
theorem exec_shadowCopyDone_fails (hc : (s.dram.copies.find? fun c => c.1 / 262144 == g.toNat) = some c)
    (hq : reqOf s c.2 = some q) (w : BitVec 10) {l : List (Fin 74)}
    (hl : correctable s g.toNat < (wrongSyms s g.toNat l).length) :
    ∃ t, exec (.shadowCopyDone ⟨g, [(w, .errors l)]⟩) s = .next t ∧ t.mem = s.mem ∧ t.mesh = (respond s q 3 []).mesh
      ∧ (∀ x ∈ t.dram.copies, x.2 ≠ c.2) ∧ rgB t (R.DRAM_ECC g.toNat) R.DRAM_ECC_UE = true := by
  have hg : c.1 / 262144 = g.toNat := by simpa using List.find?_some hc
  have hw := w.isLt
  have hreg : dramRegion (0x20000 * c.1 + 128 * w.toNat) = g.toNat := by unfold dramRegion; omega
  have hdec : copyDecodes (uncopied s c) (0x20000 * c.1) [(w, .errors l)]
      = (dramFail (uncopied s c) (0x20000 * c.1 + 128 * w.toNat), false) := by
    have h := dramDecode_uncorrectable (uncopied s c) (a := 0x20000 * c.1 + 128 * w.toNat) (l := l) false
      (by rw [hreg]; exact hl)
    simp only [copyDecodes, List.foldl_cons, List.foldl_nil, h]
    rfl
  have ha := dramFail_aside (uncopied s c) (0x20000 * c.1 + 128 * w.toNat)
  have hue := (dramFail_regs (uncopied s c) (0x20000 * c.1 + 128 * w.toNat)).1
  rw [hreg] at hue
  generalize dramFail (uncopied s c) (0x20000 * c.1 + 128 * w.toNat) = t at hdec ha hue
  have hreq : reqOf t c.2 = some q := by
    rw [reqOf, ha.mesh]
    exact hq
  have hfails : copyFails t c.2
      = respond { t with dram := { t.dram with copies := t.dram.copies.filter fun x => x.2 != c.2 } } q 3 [] := by
    have hreq' : reqOf { t with dram := { t.dram with copies := t.dram.copies.filter fun x => x.2 != c.2 } } c.2 = some q := hreq
    simp only [copyFails, hreq']
  have hway : SameWay s { t with dram := { t.dram with copies := t.dram.copies.filter fun x => x.2 != c.2 } } :=
    ⟨ha.mesh, ha.cfg, ha.foldHome, ha.regs⟩
  refine ⟨_, exec_shadowCopyDone (d := ⟨g, [(w, .errors l)]⟩) hc hdec, ?_⟩
  rw [if_pos (by rfl), hfails, respond_mem, respond_dram, rgB_congr (respond_regs _ _ _ _)]
  exact ⟨ha.mem, hway.respond q 3 [], by simp, hue⟩

end

/-! ### The obligation -/

/-- Settles O32. -/
theorem dramRequests : Obligations.DramRequests := by
  unfold Obligations.DramRequests
  refine ⟨fun s id q g hq ht => ?_, fun s id q ks u hq => ⟨fun hg => ?_, fun t r p hg he hr hw hne hrt hwt hp => ?_⟩,
    fun s g q h => ?_, fun s g c q hc hq hd hlen hk hlast => ⟨?_, fun w l hl => ?_⟩⟩
  · obtain ⟨-, -, hn, hl, hlen⟩ := (dramTurn_iff s q g).mp ht
    have hreg : dramRegion q.addr = g.toNat := hn
    have he : ∀ ks u, exec (.dramAccess id ⟨ks, u⟩) s = .next (dramAccess (granted s q) q ks u) :=
      fun ks u => exec_dramAccess_turn hq ht ⟨ks, u⟩
    have hway := respond_granted s q
    intro n frames low allowed word max room
    refine ⟨fun hlow ks u => ⟨_, he _ _, ?_⟩, fun hlow ks u => ⟨_, he _ _, ?_⟩, fun hwr hlow hk => ⟨_, he _ _, ?_⟩,
      fun hlow hk u => ⟨_, he _ _, ?_⟩, fun hwr hlow hk hsh => ⟨_, he _ _, ?_⟩, fun hwr hlow hk hsh hroom => ⟨_, he _ _, ?_⟩,
      fun hwr hlow hk hsh hroom => ⟨_, he _ _, ?_⟩, fun hwr hlow hk l h0 hc => ⟨_, he _ _, ?_⟩,
      fun hwr hlow hk l hc => ⟨_, he _ _, ?_⟩⟩
    · rw [dramAccess_reserve hlow, respond_mem, respond_keys, hway]
      exact ⟨rfl, rfl, rfl⟩
    · have h := dramAccess_badKey_effect (s := granted s q) hlow hl ks u
      rw [hway] at h
      exact h
    · have h := dramAccess_read_effect (s := granted s q) hlow hk hwr
      rw [hway] at h
      exact h
    · have h := dramAccess_refused_effect (s := granted s q) hlow hk u
      rw [hway] at h
      exact h
    · obtain ⟨hread, hout, hkeys, hmesh, -⟩ := dramStore_effect (granted s q) q (hlen hwr)
      rw [dramAccess_store (s := granted s q) hlow hk hwr, dramWrite_shadowed (s := granted s q) hsh, ← hway]
      exact ⟨hmesh, hread, hout, hkeys⟩
    · have hroom' : shadowsWanted (granted s q) q ≤ shadowsMax (granted s q) q := by
        unfold shadowsWanted shadowsMax
        rw [hreg]
        exact hroom
      rw [dramAccess_store (s := granted s q) hlow hk hwr, dramWrite_copies (s := granted s q) hsh hroom', id_of_reqOf hq]
      exact ⟨rfl, rfl, rfl⟩
    · have hroom' : ¬ shadowsWanted (granted s q) q ≤ shadowsMax (granted s q) q := by
        unfold shadowsWanted shadowsMax
        rw [hreg]
        exact hroom
      have ha := parked_aside (granted s q) q (dramRegion q.addr)
      rw [dramAccess_store (s := granted s q) hlow hk hwr, dramWrite_parks (s := granted s q) hsh hroom']
      refine ⟨ha.mem, ha.mesh ▸ ?_⟩
      rw [← id_of_reqOf hq]
      rfl
    · have h := dramAccess_corrected_effect (s := granted s q) hlow hk hwr hl (l := l)
        (by rw [hreg]; exact h0) (by rw [hreg]; exact hc)
      rw [hway, hreg] at h
      exact h
    · have h := dramAccess_uncorrectable_effect (s := granted s q) hlow hk hwr hl (l := l) (by rw [hreg]; exact hc)
      rw [hway, hreg] at h
      exact h
  · exact exec_dramAccess_of_not_grant hq _ hg
  · refine dramRequester_dramGrant_ne ?_ hr hw hne hrt hwt hp
    obtain rfl | rfl := exec_dramAccess_of_grant hq hg he
    · rfl
    · rw [dramAccess_bar]
      rfl
  · obtain ⟨hm, hfirst⟩ := dramGrant_some h
    obtain ⟨hin, hw, -⟩ := mem_grantable.mp hm
    refine ⟨hin, hw, fun r hr hrw hrb => ?_⟩
    have hnot := hfirst r (mem_grantable.mpr ⟨hr, hrw, hrb⟩)
    rw [← Bool.not_eq_true, grantsFirst_iff] at hnot
    omega
  · have ha := copiedAsked_aside (uncopied s c) g.toNat c
    obtain ⟨hread, hout, hkeys, -, hcopies, -, hsh⟩ :=
      dramStore_effect (copiedAsked (uncopied s c) g.toNat c) q hlen
    refine ⟨_, exec_shadowCopyDone_last hc hq hd hlast, ?_, ?_, hread, fun a hx => ?_, fun fr hfr => (hkeys hk fr hfr).2⟩
    · rw [hcopies, ha.copies]
      rfl
    · rw [hsh, ha.shadowed]
      have hn : partOfRegion s g.toNat = partOfRegion (uncopied s c) g.toNat := rfl
      rw [hn, copied, epochOf_updEpoch_same]
      exact mem_setAdd _ _
    · rw [hout a hx, ha.mem]
      rfl
  · exact exec_shadowCopyDone_fails hc hq w hl

end Sys2Proof.Machine
end

section
/-! SUPPORT. Halts, stops and releases: what they leave (R434, R507-R511, R515). -/

namespace Sys2Proof.Machine

/-! ### The relation -/

/-- The registers that halts, stops and releases may change in every block: ARR_SUSP, CS_FP, MC_STATUS, PSR, WD_CNT, the power
domains' PC_DOM; and CIC_PEND of the chip's own sources. -/
def haltReg (a : Nat) : Prop :=
  a % 0x1000000 = 0x720030 ∨ a % 0x1000000 = 0x730030 ∨ a % 0x1000000 = 0x730020 ∨ a % 0x1000000 = 0x700010
    ∨ a % 0x1000000 = 0x700850 ∨ (0x040000301000 ≤ a ∧ a < 0x040000302000) ∨ a = 0x040000200000

/-- t differs from s neither in memory, configuration, image, time nor debug state, nor in a register but those of haltReg and
of ex; single steps stay; what has left the device has left it. -/
structure Steady (ex : List Nat) (s t : State) : Prop where
  mem : t.mem = s.mem
  cfg : t.cfg = s.cfg
  img : t.img = s.img
  timebase : t.timebase = s.timebase
  dbg : t.dbg = s.dbg
  stepping : ∀ b, (seqOf t b).stepping = (seqOf s b).stepping
  out : s.out <+: t.out
  regs : ∀ a, ¬ haltReg a → a ∉ ex → rg t a = rg s a

section
variable {ex ex' : List Nat} {s₀ s t : State} {α : Type}

theorem Steady.refl : Steady ex s s := ⟨rfl, rfl, rfl, rfl, rfl, fun _ => rfl, ⟨[], List.append_nil _⟩, fun _ _ _ => rfl⟩

theorem Steady.trans (h : Steady ex s₀ s) (h' : Steady ex s t) : Steady ex s₀ t :=
  ⟨h'.mem.trans h.mem, h'.cfg.trans h.cfg, h'.img.trans h.img, h'.timebase.trans h.timebase, h'.dbg.trans h.dbg,
    fun b => (h'.stepping b).trans (h.stepping b), h.out.trans h'.out,
    fun a ha hx => (h'.regs a ha hx).trans (h.regs a ha hx)⟩

theorem Steady.mono (h : Steady ex s t) (hx : ∀ a ∈ ex, a ∈ ex') : Steady ex' s t :=
  ⟨h.mem, h.cfg, h.img, h.timebase, h.dbg, h.stepping, h.out, fun a ha hn => h.regs a ha fun hm => hn (hx a hm)⟩

/-- Fields of which the relation does not speak may change. -/
theorem Steady.set {cells cs csSh dt dtSh dtBad epochs rein} (h : Steady ex s₀ s) :
    Steady ex s₀ { s with cells := cells, cs := cs, csSh := csSh, dt := dt, dtSh := dtSh, dtBad := dtBad, epochs := epochs
                          rein := rein } :=
  ⟨h.mem, h.cfg, h.img, h.timebase, h.dbg, h.stepping, h.out, h.regs⟩

theorem Steady.setRg {a v : Nat} (h : Steady ex s₀ s) (ha : haltReg a ∨ a ∈ ex) : Steady ex s₀ (setRg s a v) :=
  ⟨h.mem, h.cfg, h.img, h.timebase, h.dbg, h.stepping, h.out, fun x hx hxe =>
    (rg_setRg_other s (fun e : x = a => ha.elim (fun ha => hx (e ▸ ha)) fun ha => hxe (e ▸ ha)) v).trans (h.regs x hx hxe)⟩

theorem Steady.setF {a : Nat} {f : Fld} {v : Nat} (h : Steady ex s₀ s) (ha : haltReg a ∨ a ∈ ex) :
    Steady ex s₀ (setF s a f v) := h.setRg ha

theorem Steady.setB {a : Nat} {f : Fld} {v : Bool} (h : Steady ex s₀ s) (ha : haltReg a ∨ a ∈ ex) :
    Steady ex s₀ (setB s a f v) := h.setF ha

theorem Steady.addSat {a : Nat} {f : Fld} {v : Nat} (h : Steady ex s₀ s) (ha : haltReg a ∨ a ∈ ex) :
    Steady ex s₀ (addSat s a f v) := h.setF ha

theorem Steady.emit {o : Out} (h : Steady ex s₀ s) : Steady ex s₀ (emit s o) :=
  ⟨h.mem, h.cfg, h.img, h.timebase, h.dbg, h.stepping, h.out.trans ⟨_, rfl⟩, h.regs⟩

theorem Steady.updSeq {b : Nat} {f : Seq → Seq} (h : Steady ex s₀ s)
    (hf : ∀ q, (f q).stepping = q.stepping := by intro; rfl) : Steady ex s₀ (updSeq s b f) := by
  refine ⟨h.mem, h.cfg, h.img, h.timebase, h.dbg, fun c => ?_, h.out, h.regs⟩
  rw [← h.stepping]
  by_cases hc : c = b
  · rw [hc, seqOf_updSeq_same, hf]
  · rw [Machine.updSeq, seqOf_setSeq_other s hc]

theorem Steady.updEpoch {n : Nat} {f : Epoch → Epoch} (h : Steady ex s₀ s) : Steady ex s₀ (updEpoch s n f) := h.set

theorem Steady.branch {c : Prop} [Decidable c] {x a b : State} (h : Steady ex s₀ x) (ha : Steady ex s₀ x → Steady ex s₀ a)
    (hb : Steady ex s₀ x → Steady ex s₀ b) : Steady ex s₀ (if c then a else b) := by
  split
  exacts [ha h, hb h]

theorem Steady.when {c : Prop} [Decidable c] {x a : State} (h : Steady ex s₀ x) (ha : Steady ex s₀ x → Steady ex s₀ a) :
    Steady ex s₀ (if c then a else x) := h.branch ha id

theorem Steady.unless {c : Prop} [Decidable c] {x b : State} (h : Steady ex s₀ x) (hb : Steady ex s₀ x → Steady ex s₀ b) :
    Steady ex s₀ (if c then x else b) := h.branch id hb

theorem Steady.foldlMem {l : List α} {f : State → α → State} (h : Steady ex s₀ s)
    (k : ∀ {t}, ∀ y ∈ l, Steady ex s₀ t → Steady ex s₀ (f t y)) : Steady ex s₀ (l.foldl f s) := by
  induction l generalizing s with
  | nil => exact h
  | cons y l ih => exact ih (k y (by simp) h) fun y hy => k y (by simp [hy])

theorem Steady.foldl {l : List α} {f : State → α → State} (h : Steady ex s₀ s)
    (k : ∀ {t} y, Steady ex s₀ t → Steady ex s₀ (f t y)) : Steady ex s₀ (l.foldl f s) := h.foldlMem fun y _ => k y

theorem Steady.forEach {l : List α} {f : State → α → State} (h : Steady ex s₀ s)
    (k : ∀ {t}, ∀ y ∈ l, Steady ex s₀ t → Steady ex s₀ (f t y)) : Steady ex s₀ (forEach l f s) := h.foldlMem k

end

/-! ### Registers -/

theorem haltReg_arrSusp (b : Nat) : haltReg (R.ARR_SUSP b) := by
  unfold haltReg R.ARR_SUSP bwin
  omega

theorem haltReg_csFp (b : Nat) : haltReg (R.CS_FP b) := by
  unfold haltReg R.CS_FP bwin
  omega

theorem haltReg_mcStatus (b : Nat) : haltReg (R.MC_STATUS b) := by
  unfold haltReg R.MC_STATUS bwin
  omega

theorem haltReg_psr (b : Nat) : haltReg (R.PSR b) := by
  unfold haltReg R.PSR bwin
  omega

theorem haltReg_wdCnt (b : Nat) : haltReg (R.WD_CNT b) := by
  unfold haltReg R.WD_CNT bwin
  omega

theorem haltReg_pcDom {p : Nat} (h : p < 256) : haltReg (R.PC_DOM p) := by
  unfold haltReg R.PC_DOM chipCtl
  omega

theorem haltReg_cicPend : haltReg (R.CIC_PEND 0) := by
  unfold haltReg R.CIC_PEND chipCtl
  omega

theorem not_haltReg_dbgStatus (b : Nat) : ¬ haltReg (R.DBG_STATUS b) := by
  unfold haltReg R.DBG_STATUS bwin
  omega

theorem not_haltReg_dbgCtrl (b : Nat) : ¬ haltReg (R.DBG_CTRL b) := by
  unfold haltReg R.DBG_CTRL bwin
  omega

theorem not_haltReg_dbgPc (b : Nat) : ¬ haltReg (R.DBG_PC b) := by
  unfold haltReg R.DBG_PC bwin
  omega

theorem not_haltReg_epStat {n : Nat} (h : n < 16) : ¬ haltReg (R.EP_STAT n) := by
  unfold haltReg R.EP_STAT chipCtl
  omega

theorem not_haltReg_imgStatus : ¬ haltReg R.IMG_STATUS := by
  unfold haltReg R.IMG_STATUS chipCtl
  omega

theorem not_haltReg_imgRegmap : ¬ haltReg R.IMG_REGMAP := by
  unfold haltReg R.IMG_REGMAP chipCtl
  omega

theorem not_haltReg_reinId : ¬ haltReg R.REIN_ID := by
  unfold haltReg R.REIN_ID chipCtl
  omega

theorem not_haltReg_reinStatus {p : Nat} (h : p < 4) : ¬ haltReg (R.REIN_STATUS p) := by
  unfold haltReg R.REIN_STATUS chipCtl
  omega

theorem not_haltReg_girthCh {n : Nat} (h : n < 8) : ¬ haltReg (R.GIRTH_CH n) := by
  unfold haltReg R.GIRTH_CH chipCtl
  omega

theorem not_haltReg_girthStat : ¬ haltReg R.GIRTH_STAT := by
  unfold haltReg R.GIRTH_STAT chipCtl
  omega

theorem not_haltReg_girthTbm : ¬ haltReg R.GIRTH_TBM := by
  unfold haltReg R.GIRTH_TBM chipCtl
  omega

theorem dbgStatus_ne {b c : Nat} (h : b ≠ c) : R.DBG_STATUS b ≠ R.DBG_STATUS c := by
  unfold R.DBG_STATUS bwin
  omega

/-! ### Messages (R427, R433, R434) -/

section
variable {ex : List Nat} {s₀ s : State}

theorem Steady.toLead {kind : Nat} {arg : Word} (h : Steady ex s₀ s) : Steady ex s₀ (toLead s kind arg) := by
  unfold Machine.toLead
  split
  · exact h.when (·.emit)
  · exact h

theorem Steady.forwardReq {n : Nat} {r : FwdReq} (h : Steady ex s₀ s) : Steady ex s₀ (forwardReq s n r) := h.when (·.toLead)

theorem Steady.sendAct {n : Nat} {a : DispAct} (h : Steady ex s₀ s) : Steady ex s₀ (sendAct s n a) :=
  h.when (·.foldl fun _ h => h.when (·.emit))

theorem Steady.sendActOf {p : Option Nat} {a : DispAct} (h : Steady ex s₀ s) :
    Steady ex s₀ (match p with | some n => Machine.sendAct s n a | none => s) := by
  split
  exacts [h.sendAct, h]

theorem Steady.epochMsg {n kind : Nat} (h : Steady ex s₀ s) : Steady ex s₀ (epochMsg s n kind) :=
  h.set.branch (fun h => h.foldl fun _ h => h.when (·.emit)) (·.toLead)

/-! ### Boundaries (R376) -/

theorem Steady.startBoundary {n : Nat} (h : Steady ex s₀ s) (hn : R.EP_STAT n ∈ ex) : Steady ex s₀ (startBoundary s n) :=
  ((h.updEpoch.setF (.inr hn)).forEach fun _ _ h => h.updSeq).when (·.set.epochMsg)

theorem Steady.requestBoundary {n : Nat} (h : Steady ex s₀ s) (hn : R.EP_STAT n ∈ ex) : Steady ex s₀ (requestBoundary s n) :=
  h.unless (·.unless (·.branch (·.updEpoch) (·.startBoundary hn)))

/-! ### Halts and stops -/

theorem Steady.csApply {b : Nat} {p : CsPend} (h : Steady ex s₀ s) : Steady ex s₀ (csApply s b p) := by
  unfold Machine.csApply
  split
  · exact (h.when (·.setB (.inl (haltReg_mcStatus b)))).emit
  · exact h.branch (fun h => h.set.setRg (.inl (haltReg_csFp b))) (fun h => h.set.setRg (.inl (haltReg_csFp b)))

theorem Steady.csFlush {b : Nat} (h : Steady ex s₀ s) : Steady ex s₀ (csFlush s b) :=
  h.unless fun h => h.updSeq.foldl fun _ h => h.csApply

theorem Steady.haltSeq {b cause : Nat} (h : Steady ex s₀ s) (hb : R.DBG_STATUS b ∈ ex) : Steady ex s₀ (haltSeq s b cause) :=
  ((h.forEach fun _ _ h => h.csFlush).unless (·.setF (.inr hb))).branch
    (fun h => (h.setB (.inr hb)).when (·.setB (.inl (haltReg_arrSusp b)))) (·.setB (.inr hb))

theorem Steady.haltGang {b cause : Nat} (h : Steady ex s₀ s) (hb : ∀ c ∈ gang s b, R.DBG_STATUS c ∈ ex) :
    Steady ex s₀ (haltGang s b cause) := (h.forEach fun c hc h => h.haltSeq (hb c hc)).sendActOf

/-! ### Releases -/

theorem Steady.wdReload {b : Nat} (h : Steady ex s₀ s) : Steady ex s₀ (wdReload s b) :=
  h.when (·.setF (.inl (haltReg_wdCnt b)))

theorem Steady.wdRelease {s0 : State} {b : Nat} (h : Steady ex s₀ s) : Steady ex s₀ (wdRelease s0 s b) := h.when (·.wdReload)

theorem Steady.girthFree {b : Nat} (h : Steady ex s₀ s) (hb : R.DBG_STATUS b ∈ ex) : Steady ex s₀ (girthFree s b) :=
  h.when fun h => ((h.setB (.inr hb)).setB (.inl (haltReg_arrSusp b))).unless (·.setF (.inr hb))

end

theorem holderIn_lt {s : State} {n b p : Nat} (hb : b < 128) (h : holderIn s n b = some p) : p < 256 := by
  induction n generalizing b with
  | zero => cases h
  | succ n ih =>
    have hc : Machine.holderCode s b < 2 ^ 6 := by
      have := rgF_lt s (R.BSW_MAP (b / 8)) (posFld (b % 8))
      simp only [posFld] at this
      rwa [show 6 * (b % 8) + 5 + 1 - 6 * (b % 8) = 6 by omega] at this
    simp only [holderIn] at h
    split at h
    · cases h
      omega
    · split at h
      · simp only [Option.map_eq_some_iff] at h
        obtain ⟨k, hk, rfl⟩ := h
        have : k < 20 := by
          unfold neighbour at hk
          split at hk <;> (try split at hk) <;> simp at hk <;> omega
        omega
      · split at h
        · exact ih (by omega) h
        · cases h

theorem holder_lt {s : State} {b p : Nat} (hb : b < 128) (h : holder s b = some p) : p < 256 := by
  have hid : idleFrom = 33554432 := by norm_num [idleFrom]
  rw [holder, if_neg (by omega)] at h
  exact holderIn_lt hb h

section
variable {ex : List Nat} {s₀ s : State}

theorem Steady.endHush {b : Nat} (h : Steady ex s₀ s) (hb : b < 128) : Steady ex s₀ (endHush s b) := by
  unfold Machine.endHush
  split
  · next p hp => exact h.when (·.setF (.inl (haltReg_pcDom (holder_lt hb hp))))
  · exact h

theorem Steady.clearResv {b : Nat} (h : Steady ex s₀ s) : Steady ex s₀ (clearResv s b) := h.updSeq.setB (.inl (haltReg_psr b))

theorem Steady.releaseBlock {c : Nat} (h : Steady ex s₀ s) (hc : c < 128) (hx : R.DBG_STATUS c ∈ ex) :
    Steady ex s₀ (releaseBlock s c) :=
  h.unless fun h => (((h.endHush hc).clearResv.setB (.inr hx)).setF (.inr hx)).wdRelease

theorem Steady.keepSuspended {b : Nat} (h : Steady ex s₀ s) : Steady ex s₀ (keepSuspended s b) := by
  unfold Machine.keepSuspended
  split
  · exact h.unless (·.forEach fun _ _ h => h.updSeq)
  · exact h

theorem Steady.resumeOp {b : Nat} (h : Steady ex s₀ s) : Steady ex s₀ (resumeOp s b) := by
  unfold Machine.resumeOp
  split
  · exact h
  · next r _ =>
    have ha := fun c => Or.inl (b := R.ARR_SUSP c ∈ ex) (haltReg_arrSusp c)
    dsimp only
    split
    all_goals exact Steady.updSeq (Steady.sendActOf (h.forEach fun c _ h =>
      (((((h.setF (ha c)).setF (ha c)).setF (ha c)).setB (ha c)).setB (ha c)).updSeq.set))

theorem Steady.resumeIdle {b : Nat} (h : Steady ex s₀ s) : Steady ex s₀ (resumeIdle s b) := by
  unfold Machine.resumeIdle
  split
  · exact h.when (·.resumeOp)
  · exact h

end

end Sys2Proof.Machine
end

section
/-! SUPPORT. DBG_STATUS after halts, stops and releases, and what of the partitions stays (R507, R508, R515). -/

namespace Sys2Proof.Machine

/-! ### What a steady state shows -/

theorem rgF_of_rg {s t : State} {a : Nat} (h : rg t a = rg s a) (f : Fld) : rgF t a f = rgF s a f := by rw [rgF, h, rgF]

theorem rgB_of_rg {s t : State} {a : Nat} (h : rg t a = rg s a) (f : Fld) : rgB t a f = rgB s a f := by
  rw [rgB, rgF_of_rg h, rgB]

/-- The status registers of blocks l. -/
def statusRegs (l : List Nat) : List Nat := l.map R.DBG_STATUS

theorem mem_statusRegs {l : List Nat} {b : Nat} (h : b ∈ l) : R.DBG_STATUS b ∈ statusRegs l := List.mem_map_of_mem h

theorem dbgStatus_notMem {l : List Nat} {b : Nat} (h : b ∉ l) : R.DBG_STATUS b ∉ statusRegs l := by
  intro hm
  obtain ⟨c, hc, he⟩ := List.mem_map.mp hm
  exact h (by_contra fun hb => dbgStatus_ne (fun e : b = c => hb (e ▸ hc)) he.symm)

theorem notMem_statusRegs {l : List Nat} {a : Nat} (h : a % 0x1000000 ≠ 0x700810) : a ∉ statusRegs l := by
  intro hm
  obtain ⟨c, -, rfl⟩ := List.mem_map.mp hm
  unfold R.DBG_STATUS bwin at h
  omega

theorem statusRegs_mod {l : List Nat} {a : Nat} (h : a ∈ statusRegs l) : a % 0x1000000 = 0x700810 :=
  by_contra fun hn => notMem_statusRegs hn h

/-- The status registers of partition p's blocks, and its EP_STAT: what its release may change of these. -/
def partRegs (s : State) (p : Nat) : List Nat := R.EP_STAT p :: statusRegs (blocksOf s p)

theorem notMem_partRegs {s : State} {p a : Nat} (hp : a ≠ R.EP_STAT p) (h : a % 0x1000000 ≠ 0x700810) : a ∉ partRegs s p := by
  rw [partRegs, List.mem_cons, not_or]
  exact ⟨hp, notMem_statusRegs h⟩

/-- What decides on the blocks of the partitions, and on forced loads. -/
structure SameParts (s t : State) : Prop where
  cfg : t.cfg = s.cfg
  img : t.img = s.img
  imgStatus : rg t R.IMG_STATUS = rg s R.IMG_STATUS
  imgRegmap : rg t R.IMG_REGMAP = rg s R.IMG_REGMAP
  reinId : rg t R.REIN_ID = rg s R.REIN_ID
  reinStatus : ∀ p, p < 4 → rg t (R.REIN_STATUS p) = rg s (R.REIN_STATUS p)

section
variable {s t : State}

theorem Steady.sameParts {ex : List Nat} (h : Steady ex s t)
    (hx : ∀ a ∈ ex, a % 0x1000000 = 0x700810 ∨ 0x040000900000 ≤ a) : SameParts s t := by
  have hex : ∀ a, a % 0x1000000 ≠ 0x700810 → a < 0x040000900000 → a ∉ ex := fun a h1 h2 hm =>
    (hx a hm).elim h1 (Nat.not_le.mpr h2)
  refine ⟨h.cfg, h.img, h.regs _ not_haltReg_imgStatus (hex _ ?_ ?_), h.regs _ not_haltReg_imgRegmap (hex _ ?_ ?_),
    h.regs _ not_haltReg_reinId (hex _ ?_ ?_), fun p hp => h.regs _ (not_haltReg_reinStatus hp) (hex _ ?_ ?_)⟩
  · unfold R.IMG_STATUS chipCtl; omega
  · unfold R.IMG_STATUS chipCtl; omega
  · unfold R.IMG_REGMAP chipCtl; omega
  · unfold R.IMG_REGMAP chipCtl; omega
  · unfold R.REIN_ID chipCtl; omega
  · unfold R.REIN_ID chipCtl; omega
  · unfold R.REIN_STATUS chipCtl; omega
  · unfold R.REIN_STATUS chipCtl; omega

theorem SameParts.trans {u : State} (h : SameParts s t) (h' : SameParts t u) : SameParts s u :=
  ⟨h'.cfg.trans h.cfg, h'.img.trans h.img, h'.imgStatus.trans h.imgStatus, h'.imgRegmap.trans h.imgRegmap,
    h'.reinId.trans h.reinId, fun p hp => (h'.reinStatus p hp).trans (h.reinStatus p hp)⟩

theorem SameParts.assigned (h : SameParts s t) (g : Nat) : assigned t g = assigned s g := by
  rw [Machine.assigned, rgF_of_rg h.imgStatus, Machine.assigned]

theorem SameParts.partOf (h : SameParts s t) (b : Nat) : partOf t b = partOf s b := by
  simp only [Machine.partOf, partOfRegion, h.assigned, h.imgRegmap]

theorem SameParts.blocksOf (h : SameParts s t) (p : Nat) : blocksOf t p = blocksOf s p := by
  simp only [Machine.blocksOf, h.partOf]

theorem SameParts.defined (h : SameParts s t) (p : Nat) : defined t p = defined s p := by
  simp only [Machine.defined, h.cfg]

theorem SameParts.lockstep (h : SameParts s t) (p : Nat) : lockstep t p = lockstep s p := by
  simp only [Machine.lockstep, partCfg, h.cfg]

theorem SameParts.gang (h : SameParts s t) (b : Nat) : gang t b = gang s b := by
  simp only [Machine.gang, h.partOf, h.lockstep, h.blocksOf]

theorem SameParts.forced (h : SameParts s t) (p : Nat) : forced t p = forced s p := by
  simp only [Machine.forced, rgB_of_rg h.imgStatus, h.img]

theorem SameParts.cascadePart (h : SameParts s t) (p : Nat) : cascadePart t p = cascadePart s p := by
  simp only [Machine.cascadePart, h.cfg, h.defined]

theorem SameParts.myIdx (h : SameParts s t) : myIdx t = myIdx s := rgF_of_rg h.reinId _

theorem SameParts.leadIdx (h : SameParts s t) : leadIdx t = leadIdx s := rgF_of_rg h.reinId _

theorem SameParts.leadsCascade (h : SameParts s t) : leadsCascade t = leadsCascade s := by
  simp only [Machine.leadsCascade, h.myIdx, h.leadIdx]

theorem SameParts.follows (h : SameParts s t) (p : Nat) : follows t p = follows s p := by
  simp only [Machine.follows, h.cascadePart, h.lockstep, h.leadsCascade]

theorem SameParts.posOf (h : SameParts s t) (i : Nat) : posOf t i = posOf s i := by
  rw [Machine.posOf, casW, h.cfg, Machine.posOf, casW]

theorem SameParts.towardPort (h : SameParts s t) : towardPort t = towardPort s := by
  simp only [Machine.towardPort, h.posOf, h.myIdx, h.leadIdx]

theorem SameParts.portUsable (h : SameParts s t) {q : Nat} (hq : q < 4) : portUsable t q = portUsable s q := by
  simp only [Machine.portUsable, portState, rgF_of_rg (h.reinStatus q hq)]

end

theorem mem_blocksOf_lt {s : State} {p b : Nat} (h : b ∈ blocksOf s p) : b < 128 :=
  List.mem_range.mp (List.mem_of_mem_filter h)

theorem partOf_of_mem_blocksOf {s : State} {p b : Nat} (h : b ∈ blocksOf s p) : partOf s b = some p := by
  simpa using (List.mem_filter.mp h).2

/-- The blocks of two partitions are others. -/
theorem notMem_blocksOf {s : State} {p p' b : Nat} (h : b ∈ blocksOf s p) (hp : p' ≠ p) : b ∉ blocksOf s p' := fun h' =>
  hp (Option.some.inj ((partOf_of_mem_blocksOf h').symm.trans (partOf_of_mem_blocksOf h)))

theorem mem_gang_lt {s : State} {b c : Nat} (hb : b < 128) (h : c ∈ gang s b) : c < 128 := by
  unfold gang at h
  split at h
  · split at h
    · exact mem_blocksOf_lt h
    · rw [List.mem_singleton.mp h]; exact hb
  · rw [List.mem_singleton.mp h]; exact hb

theorem nodup_gang (s : State) (b : Nat) : (gang s b).Nodup := by
  unfold gang
  split
  · split
    · exact List.nodup_range.filter _
    · simp
  · simp

/-! ### What a run through blocks establishes -/

/-- What each step establishes for its own element, and no step ends, holds of all. -/
theorem forEach_establishes {α : Type} {f : State → α → State} {P : α → State → Prop} (hf : ∀ s x, P x (f s x))
    (hk : ∀ s x y, P y s → P y (f s x)) (l : List α) (s : State) : ∀ x ∈ l, P x (forEach l f s) := by
  have hkeep : ∀ (l : List α) (s : State) y, P y s → P y (forEach l f s) := by
    intro l
    induction l with
    | nil => exact fun _ _ h => h
    | cons z l ih => exact fun s y h => ih (f s z) y (hk s z y h)
  induction l generalizing s with
  | nil => exact fun x hx => absurd hx (by simp)
  | cons z l ih =>
    intro x hx
    rcases List.mem_cons.mp hx with rfl | hx
    · exact hkeep l _ x (hf s x)
    · exact ih (f s z) x hx

/-- What no step ends stays. -/
theorem forEach_keeps {α : Type} {f : State → α → State} {P : State → Prop} (hk : ∀ s x, P s → P (f s x)) (l : List α)
    {s : State} (h : P s) : P (forEach l f s) := by
  induction l generalizing s with
  | nil => exact h
  | cons x l ih => exact ih (hk s x h)

/-! ### Halts and stops -/

def isHalted (s : State) (b : Nat) : Bool := rgB s (R.DBG_STATUS b) R.DBG_STATUS_HALTED

def isStopped (s : State) (b : Nat) : Bool := rgB s (R.DBG_STATUS b) R.DBG_STATUS_STOPPED

theorem halted_of_isStopped {s : State} {b : Nat} (h : isStopped s b = true) : halted s b = true := by
  rw [halted, Bool.or_eq_true]
  exact .inr h

/-- A block whose status register is left reads as before. -/
theorem Steady.dbgStatus {l : List Nat} {s t : State} (h : Steady (statusRegs l) s t) {b : Nat} (hb : b ∉ l) :
    rg t (R.DBG_STATUS b) = rg s (R.DBG_STATUS b) := h.regs _ (not_haltReg_dbgStatus b) (dbgStatus_notMem hb)

theorem Steady.isStopped {s t : State} (h : Steady [] s t) (b : Nat) : isStopped t b = isStopped s b := by
  exact rgB_of_rg (h.regs _ (not_haltReg_dbgStatus b) (by simp)) _

theorem haltSeq_other (s : State) {b c cause : Nat} (h : c ≠ b) :
    rg (haltSeq s b cause) (R.DBG_STATUS c) = rg s (R.DBG_STATUS c) :=
  (Steady.refl.haltSeq (mem_statusRegs (List.mem_singleton.mpr rfl))).dbgStatus (by simpa using h)

/-- A step's halt: HALTED and CAUSE 3. -/
theorem haltSeq_step (s : State) (b : Nat) : isHalted (haltSeq s b 3) b = true
    ∧ rgF (haltSeq s b 3) (R.DBG_STATUS b) R.DBG_STATUS_CAUSE = 3 := by
  have he : haltSeq s b 3 = setB (setF (forEach (gang s b) (fun s c => csFlush s c) s) (R.DBG_STATUS b) R.DBG_STATUS_CAUSE 3)
      (R.DBG_STATUS b) R.DBG_STATUS_HALTED true := rfl
  rw [he, isHalted, rgB_setB_same _ _ (by decide) rfl, setB, rgF_setF_field _ _ (by decide) (by decide),
    rgF_setF_same _ _ (by decide)]
  exact ⟨rfl, rfl⟩

/-- A stop: STOPPED. -/
theorem isStopped_haltSeq (s : State) (b : Nat) : isStopped (haltSeq s b 4) b = true := by
  have hne : R.DBG_STATUS b ≠ R.ARR_SUSP b := by unfold R.DBG_STATUS R.ARR_SUSP; omega
  unfold haltSeq
  extract_lets a stop s1 s2 s3
  have hs3 : isStopped s3 b = true := rgB_setB_same _ _ (by decide) rfl _
  rw [if_pos (show stop = true by decide)]
  split
  · exact (rgB_setF_other _ hne _ _ _).trans hs3
  · exact hs3

theorem isStopped_haltSeq_kept (s : State) (b c : Nat) (h : isStopped s c = true) : isStopped (haltSeq s b 4) c = true := by
  by_cases hc : c = b
  · rw [hc, isStopped_haltSeq]
  · exact (rgB_of_rg (haltSeq_other s hc) _).trans h

/-! ### The release of a stop -/

theorem girthFree_other (s : State) {b c : Nat} (h : c ≠ b) :
    rg (girthFree s b) (R.DBG_STATUS c) = rg s (R.DBG_STATUS c) :=
  (Steady.refl.girthFree (mem_statusRegs (List.mem_singleton.mpr rfl))).dbgStatus (by simpa using h)

theorem isStopped_girthFree (s : State) (b : Nat) : isStopped (girthFree s b) b = false := by
  have hne : R.DBG_STATUS b ≠ R.ARR_SUSP b := by unfold R.DBG_STATUS R.ARR_SUSP; omega
  simp only [girthFree, isStopped]
  split
  · split
    · rw [setB, rgB_setF_other _ hne, rgB_setB_same _ _ (by decide) rfl]
    · rw [rgB_setF_field _ _ (by decide) (by decide), setB, rgB_setF_other _ hne, rgB_setB_same _ _ (by decide) rfl]
  · next h => simpa using h

theorem isStopped_girthFree_kept (s : State) (b c : Nat) (h : isStopped s c = false) : isStopped (girthFree s b) c = false := by
  by_cases hc : c = b
  · rw [hc, isStopped_girthFree]
  · exact (rgB_of_rg (girthFree_other s hc) _).trans h

/-! ### The release of a halt -/

theorem releaseBlock_other (s : State) {b c : Nat} (hb : b < 128) (h : c ≠ b) :
    rg (releaseBlock s b) (R.DBG_STATUS c) = rg s (R.DBG_STATUS c) :=
  (Steady.refl.releaseBlock hb (mem_statusRegs (List.mem_singleton.mpr rfl))).dbgStatus (by simpa using h)

/-- A block whose halt a release ends: HALTED clears, and CAUSE shows the stop that is left, if there is one. -/
theorem releaseBlock_self (s : State) {b : Nat} (hb : b < 128) (h : releasable s b = true) :
    isHalted (releaseBlock s b) b = false
      ∧ rgF (releaseBlock s b) (R.DBG_STATUS b) R.DBG_STATUS_CAUSE = if isStopped s b then 4 else 0 := by
  have hs : Steady [] s (clearResv (endHush s b) b) := (Steady.refl.endHush hb).clearResv
  have hx := hs.isStopped b
  have hw : ∀ s0 u : State, Steady [] u (wdRelease s0 u b) := fun s0 u => Steady.refl.wdRelease
  have hst : (if isStopped s b then 4 else 0) < 2 ^ 4 := by split <;> decide
  unfold releaseBlock
  rw [if_neg (by simp [h])]
  extract_lets a s1 s2
  have hr : rg (wdRelease s s2 b) (R.DBG_STATUS b) = rg s2 (R.DBG_STATUS b) :=
    (hw s s2).regs _ (not_haltReg_dbgStatus b) (by simp)
  rw [isHalted, rgB, rgF, rgF, hr, ← rgF, ← rgF, ← rgB]
  constructor
  · rw [rgB_setF_field _ _ (by decide) (by decide), rgB_setB_same _ _ (by decide) rfl]
  · rw [rgF_setF_same _ _ (by decide)]
    exact Nat.mod_eq_of_lt hst

theorem releaseBlock_not (s : State) {b : Nat} (h : releasable s b = false) : releaseBlock s b = s := by
  unfold releaseBlock
  rw [if_pos (by simp [h])]

/-- What the release of block b's halt means in the state t that it leaves. -/
def Released (s t : State) (b : Nat) : Prop :=
  isHalted t b = false ∧ rgF t (R.DBG_STATUS b) R.DBG_STATUS_CAUSE = if isStopped s b then 4 else 0

theorem releasable_congr {s t : State} {b : Nat} (h : rg t (R.DBG_STATUS b) = rg s (R.DBG_STATUS b)) :
    releasable t b = releasable s b := by
  simp only [releasable, rgB_of_rg h, rgF_of_rg h]

theorem Released.of_status {s t u : State} {b : Nat} (h : Released s t b) (e : rg u (R.DBG_STATUS b) = rg t (R.DBG_STATUS b)) :
    Released s u b := by
  simpa only [Released, isHalted, rgB_of_rg e, rgF_of_rg e] using h

/-- Every block of a list without repetitions is released. -/
theorem releaseBlocks (l : List Nat) (hl : l.Nodup) (h128 : ∀ c ∈ l, c < 128) (s : State) :
    ∀ c ∈ l, releasable s c = true → Released s (forEach l releaseBlock s) c := by
  induction l generalizing s with
  | nil => exact fun c hc => absurd hc (by simp)
  | cons x l ih =>
    obtain ⟨hx, hl⟩ := List.nodup_cons.mp hl
    intro c hc hr
    have hlater : Steady (statusRegs l) (releaseBlock s x) (forEach l releaseBlock (releaseBlock s x)) :=
      Steady.refl.forEach fun y hy h => h.releaseBlock (h128 y (by simp [hy])) (mem_statusRegs hy)
    rcases List.mem_cons.mp hc with rfl | hc
    · exact Released.of_status (releaseBlock_self s (h128 c (by simp)) hr) (hlater.dbgStatus hx)
    · have he := releaseBlock_other s (h128 x (by simp)) (b := x) (c := c) (fun e => hx (e ▸ hc))
      have h := ih hl (fun y hy => h128 y (by simp [hy])) (releaseBlock s x) c hc ((releasable_congr he).trans hr)
      rw [Released, isStopped, rgB_of_rg he] at h
      exact h

end Sys2Proof.Machine
end

section
/-! SUPPORT. Partitions stopped through Girth and freed again (R434, R514, R515). -/

namespace Sys2Proof.Machine

/-! ### Steady but for the debug state -/

theorem Steady.withDbg {ex : List Nat} {s t : State} (h : Steady ex s t) (d : DbgSt) :
    Steady ex { s with dbg := d } { t with dbg := d } :=
  ⟨h.mem, h.cfg, h.img, h.timebase, rfl, h.stepping, h.out, h.regs⟩

/-- t is steady against s but for the debug state, which has changed as D says. -/
def SteadyBut (D : DbgSt → DbgSt → Prop) (ex : List Nat) (s t : State) : Prop :=
  ∃ d, D s.dbg d ∧ Steady ex { s with dbg := d } t

section
variable {D : DbgSt → DbgSt → Prop} {ex ex' : List Nat} {s t u : State}

theorem SteadyBut.trans (hD : ∀ {d e f}, D d e → D e f → D d f) (h : SteadyBut D ex s t) (h' : SteadyBut D ex t u) :
    SteadyBut D ex s u := by
  obtain ⟨d, hd, h⟩ := h
  obtain ⟨e, he, h'⟩ := h'
  rw [h.dbg] at he
  exact ⟨e, hD hd he, (h.withDbg e).trans h'⟩

theorem SteadyBut.mono (h : SteadyBut D ex s t) (hx : ∀ a ∈ ex, a ∈ ex') : SteadyBut D ex' s t := by
  obtain ⟨d, hd, h⟩ := h
  exact ⟨d, hd, h.mono hx⟩

theorem SteadyBut.mem (h : SteadyBut D ex s t) : t.mem = s.mem := by
  obtain ⟨d, -, h⟩ := h
  exact h.mem

theorem SteadyBut.dbg (h : SteadyBut D ex s t) : D s.dbg t.dbg := by
  obtain ⟨d, hd, h⟩ := h
  rw [h.dbg]
  exact hd

theorem SteadyBut.out (h : SteadyBut D ex s t) : s.out <+: t.out := by
  obtain ⟨d, -, h⟩ := h
  exact h.out

theorem SteadyBut.timebase (h : SteadyBut D ex s t) : t.timebase = s.timebase := by
  obtain ⟨d, -, h⟩ := h
  exact h.timebase

theorem SteadyBut.regs (h : SteadyBut D ex s t) {a : Nat} (ha : ¬ haltReg a) (hx : a ∉ ex) : rg t a = rg s a := by
  obtain ⟨d, -, h⟩ := h
  exact h.regs a ha hx

theorem SteadyBut.sameParts (h : SteadyBut D ex s t)
    (hx : ∀ a ∈ ex, a % 0x1000000 = 0x700810 ∨ 0x040000900000 ≤ a) : SameParts s t := by
  obtain ⟨d, -, h⟩ := h
  have hs := h.sameParts hx
  exact ⟨hs.cfg, hs.img, hs.imgStatus, hs.imgRegmap, hs.reinId, hs.reinStatus⟩

end

theorem partRegs_cases {s : State} {p : Nat} : ∀ a ∈ partRegs s p, a % 0x1000000 = 0x700810 ∨ 0x040000900000 ≤ a := by
  intro a ha
  rcases List.mem_cons.mp ha with rfl | ha
  · right
    unfold R.EP_STAT chipCtl
    omega
  · exact .inl (statusRegs_mod ha)

/-! ### The release of a partition -/

/-- The chip-scope stop is as it was. -/
def sameChipStop (d e : DbgSt) : Prop := e.chipStop = d.chipStop

/-- The state in which the blocks of partition p, which is held no longer, have been let go on. -/
def partFreed (s : State) (p : Nat) : State :=
  let s0 := sendAct (unstop s p) p .free
  forEach (blocksOf s0 p) (fun t b => wdRelease s0 (girthFree t b) b) s0

theorem partFreed_eq (s : State) (p : Nat) : partFreed s p = forEach (blocksOf s p)
    (fun t b => wdRelease (sendAct (unstop s p) p .free) (girthFree t b) b) (sendAct (unstop s p) p .free) := by
  have h : Steady [] (unstop s p) (sendAct (unstop s p) p .free) := Steady.refl.sendAct
  have hb : blocksOf (unstop s p) p = blocksOf s p := rfl
  rw [partFreed, (h.sameParts (by simp)).blocksOf, hb]

theorem freePart_cases (s : State) (p : Nat) : (forced s p = true ∧ freePart s p = s)
    ∨ ((s.dbg.chipStop = true ∨ epState s p = 6) ∧ freePart s p = unstop s p)
    ∨ (freePart s p = partFreed s p ∨ freePart s p = requestBoundary (partFreed s p) p) := by
  by_cases hf : forced s p = true
  · exact .inl ⟨hf, if_pos hf⟩
  · by_cases hc : (s.dbg.chipStop || decide (epState s p = 6)) = true
    · exact .inr (.inl ⟨by simpa using hc, (if_neg hf).trans (if_pos hc)⟩)
    · have h : freePart s p = if (epochOf (partFreed s p) p).defer && !(epochOf (partFreed s p) p).rolling then
          requestBoundary (partFreed s p) p else partFreed s p := (if_neg hf).trans (if_neg hc)
      rw [h]
      split
      exacts [.inr (.inr (.inr rfl)), .inr (.inr (.inl rfl))]

theorem partFreed_steady (s : State) (p : Nat) : Steady (partRegs s p) (unstop s p) (partFreed s p) :=
  partFreed_eq s p ▸ Steady.refl.sendAct.forEach fun _ hb h =>
    (h.girthFree (List.mem_cons_of_mem _ (mem_statusRegs hb))).wdRelease

theorem unstop_steadyBut (s : State) (p : Nat) (ex : List Nat) : SteadyBut sameChipStop ex s (unstop s p) :=
  ⟨(unstop s p).dbg, rfl, Steady.refl⟩

/-- What the release of partition p leaves. -/
theorem freePart_steadyBut (s : State) (p : Nat) : SteadyBut sameChipStop (partRegs s p) s (freePart s p) := by
  have hreq : Steady (partRegs s p) (partFreed s p) (requestBoundary (partFreed s p) p) :=
    Steady.refl.requestBoundary (by simp [partRegs])
  obtain ⟨-, h⟩ | ⟨-, h⟩ | h | h := freePart_cases s p <;> rw [h]
  · exact ⟨s.dbg, rfl, Steady.refl⟩
  · exact unstop_steadyBut s p _
  · exact ⟨(unstop s p).dbg, rfl, partFreed_steady s p⟩
  · exact ⟨(unstop s p).dbg, rfl, (partFreed_steady s p).trans hreq⟩

theorem dbgStatus_ne_epStat {b p : Nat} (hb : b < 128) : R.DBG_STATUS b ≠ R.EP_STAT p := by
  unfold R.DBG_STATUS R.EP_STAT bwin chipCtl
  omega

theorem isStopped_requestBoundary (s : State) {b : Nat} (hb : b < 128) (p : Nat) :
    isStopped (requestBoundary s p) b = isStopped s b := by
  have h : Steady [R.EP_STAT p] s (requestBoundary s p) := Steady.refl.requestBoundary (by simp)
  exact rgB_of_rg (h.regs _ (not_haltReg_dbgStatus b) (by simpa using dbgStatus_ne_epStat hb)) _

theorem isStopped_wdRelease (s0 s : State) (c b : Nat) : isStopped (wdRelease s0 s c) b = isStopped s b := by
  have h : Steady [] s (wdRelease s0 s c) := Steady.refl.wdRelease
  exact h.isStopped b

theorem isStopped_partFreed (s : State) (p : Nat) : ∀ b ∈ blocksOf s p, isStopped (partFreed s p) b = false := by
  rw [partFreed_eq]
  refine forEach_establishes (P := fun b t => isStopped t b = false) (fun t b => ?_) (fun t b c h => ?_) _ _
  · rw [isStopped_wdRelease, isStopped_girthFree]
  · rw [isStopped_wdRelease, isStopped_girthFree_kept t b c h]

theorem isStopped_partFreed_kept (s : State) (p b : Nat) (h : isStopped s b = false) : isStopped (partFreed s p) b = false := by
  have h0 : Steady [] (unstop s p) (sendAct (unstop s p) p .free) := Steady.refl.sendAct
  rw [partFreed_eq]
  refine forEach_keeps (P := fun t => isStopped t b = false) (fun t c h => ?_) _ ((h0.isStopped b).trans h)
  rw [isStopped_wdRelease, isStopped_girthFree_kept t c b h]

/-- A partition that nothing else holds goes on. -/
theorem isStopped_freePart {s : State} {p : Nat} (hc : s.dbg.chipStop = false) (he : epState s p ≠ 6)
    (hf : forced s p = false) : ∀ b ∈ blocksOf s p, isStopped (freePart s p) b = false := by
  intro b hb
  have hst := isStopped_partFreed s p b hb
  obtain ⟨h, -⟩ | ⟨h, -⟩ | h | h := freePart_cases s p
  · rw [hf] at h; cases h
  · rcases h with h | h
    · rw [hc] at h; cases h
    · exact absurd h he
  · rw [h, hst]
  · rw [h, isStopped_requestBoundary _ (mem_blocksOf_lt hb), hst]

theorem isStopped_freePart_kept (s : State) (p : Nat) {b : Nat} (hb : b < 128) (h : isStopped s b = false) :
    isStopped (freePart s p) b = false := by
  have hst := isStopped_partFreed_kept s p b h
  obtain ⟨-, e⟩ | ⟨-, e⟩ | e | e := freePart_cases s p <;> rw [e]
  · exact h
  · exact h
  · exact hst
  · rw [isStopped_requestBoundary _ hb, hst]

/-! ### Several partitions one after the other -/

/-- A step that frees partitions as `freePart` does. -/
structure Frees (f : State → Nat → State) : Prop where
  steady : ∀ s p, SteadyBut sameChipStop (partRegs s p) s (f s p)
  stops : ∀ {s p}, s.dbg.chipStop = false → epState s p ≠ 6 → forced s p = false →
    ∀ b ∈ blocksOf s p, isStopped (f s p) b = false
  kept : ∀ s p {b}, b < 128 → isStopped s b = false → isStopped (f s p) b = false

theorem freePart_frees : Frees freePart :=
  ⟨freePart_steadyBut, isStopped_freePart, isStopped_freePart_kept⟩

section
variable {f : State → Nat → State}

theorem epStat_ne {p q : Nat} (h : p ≠ q) : R.EP_STAT p ≠ R.EP_STAT q := by
  unfold R.EP_STAT
  omega

/-- The release of one partition leaves what decides on that of another. -/
theorem Frees.other (hf : Frees f) {s : State} {p q : Nat} (hq : q < 16) (h : q ≠ p) :
    SameParts s (f s p) ∧ (f s p).dbg.chipStop = s.dbg.chipStop ∧ epState (f s p) q = epState s q := by
  have hs := hf.steady s p
  refine ⟨hs.sameParts partRegs_cases, hs.dbg, rgF_of_rg (hs.regs (not_haltReg_epStat hq) ?_) _⟩
  refine notMem_partRegs (epStat_ne h) ?_
  unfold R.EP_STAT chipCtl
  omega

/-- Every partition of a list that nothing else holds goes on. -/
theorem Frees.all (hf : Frees f) (l : List Nat) (hl : l.Nodup) (h16 : ∀ p ∈ l, p < 16) (s : State) {p : Nat} (hp : p ∈ l)
    (hc : s.dbg.chipStop = false) (he : epState s p ≠ 6) (hfo : forced s p = false) :
    ∀ b ∈ blocksOf s p, isStopped (forEach l f s) b = false := by
  induction l generalizing s with
  | nil => exact absurd hp (by simp)
  | cons x l ih =>
    obtain ⟨hx, hl⟩ := List.nodup_cons.mp hl
    intro b hb
    rcases List.mem_cons.mp hp with rfl | hp
    · exact forEach_keeps (P := fun t => isStopped t b = false) (fun t q h => hf.kept t q (mem_blocksOf_lt hb) h) l
        (hf.stops hc he hfo b hb)
    · obtain ⟨hs, hcs, hep⟩ := hf.other (s := s) (p := x) (h16 p (by simp [hp])) (fun e => hx (e ▸ hp))
      refine ih hl (fun q hq => h16 q (by simp [hq])) (f s x) hp (hcs.trans hc) (by rwa [hep]) (by rwa [hs.forced]) b ?_
      rwa [hs.blocksOf]

/-- What the release of several partitions leaves. -/
theorem Frees.leaves (hf : Frees f) (l : List Nat) (s : State) :
    (forEach l f s).mem = s.mem ∧ (forEach l f s).dbg.chipStop = s.dbg.chipStop
      ∧ ∀ b, b < 128 → (∀ p ∈ l, b ∉ blocksOf s p) → isStopped (forEach l f s) b = isStopped s b := by
  induction l generalizing s with
  | nil => exact ⟨rfl, rfl, fun _ _ _ => rfl⟩
  | cons x l ih =>
    have hs := hf.steady s x
    have hparts := hs.sameParts partRegs_cases
    obtain ⟨hmem, hcs, hst⟩ := ih (f s x)
    refine ⟨hmem.trans hs.mem, hcs.trans hs.dbg, fun b hb hn => (hst b hb fun p hp => ?_).trans ?_⟩
    · rw [hparts.blocksOf]
      exact hn p (by simp [hp])
    · refine rgB_of_rg (hs.regs (not_haltReg_dbgStatus b) ?_) _
      rw [partRegs, List.mem_cons, not_or]
      exact ⟨dbgStatus_ne_epStat hb, dbgStatus_notMem (hn x (by simp))⟩

end

/-- Partition p freed, and the watchdogs reloaded that the end of a chip-scope stop lets go on. -/
def freeFromChip (s0 s : State) (p : Nat) : State :=
  forEach (blocksOf s p) (fun u b => if halted s0 b && !halted u b then wdReload u b else u) (freePart s p)

theorem freeFromChip_steady (s0 s : State) (p : Nat) : Steady [] (freePart s p) (freeFromChip s0 s p) :=
  Steady.refl.forEach fun _ _ h => h.when (·.wdReload)

theorem freeFromChip_frees (s0 : State) : Frees (freeFromChip s0) where
  steady s p := by
    obtain ⟨d, hd, h⟩ := freePart_steadyBut s p
    exact ⟨d, hd, h.trans ((freeFromChip_steady s0 s p).mono (by simp))⟩
  stops hc he hf b hb := by rw [(freeFromChip_steady s0 _ _).isStopped, isStopped_freePart hc he hf b hb]
  kept s p b hb h := by rw [(freeFromChip_steady s0 s p).isStopped, isStopped_freePart_kept s p hb h]

end Sys2Proof.Machine
end

section
/-! SUPPORT. A Girth channel fires: what it stops, whom it asks, what it records (R434, R514, R515). -/

namespace Sys2Proof.Machine

/-! ### What a stop of partitions keeps -/

/-- The sources that wait and those that have fired by time are the same; a stop that stood still stands. -/
structure StopsMore (d e : DbgSt) : Prop where
  girth : e.girth = d.girth
  girthAt : e.girthAt = d.girthAt
  chipStop : d.chipStop = true → e.chipStop = true
  pstop : ∀ p, d.pstop.getLsbD p = true → e.pstop.getLsbD p = true

theorem StopsMore.refl (d : DbgSt) : StopsMore d d := ⟨rfl, rfl, id, fun _ => id⟩

theorem StopsMore.trans {d e f : DbgSt} (h : StopsMore d e) (h' : StopsMore e f) : StopsMore d f :=
  ⟨h'.girth.trans h.girth, h'.girthAt.trans h.girthAt, fun x => h'.chipStop (h.chipStop x), fun p x => h'.pstop p (h.pstop p x)⟩

/-- The status registers of all blocks. -/
def allStatus : List Nat := statusRegs (List.range 128)

theorem mem_allStatus {b : Nat} (h : b < 128) : R.DBG_STATUS b ∈ allStatus := mem_statusRegs (List.mem_range.mpr h)

/-- Partitions are stopped between s and t. -/
def Stopping (s t : State) : Prop := SteadyBut StopsMore allStatus s t

section
variable {s t u : State}

theorem Steady.stopping (h : Steady allStatus s t) : Stopping s t := ⟨s.dbg, .refl _, h⟩

theorem Stopping.trans (h : Stopping s t) (h' : Stopping t u) : Stopping s u := SteadyBut.trans .trans h h'

theorem Stopping.sameParts (h : Stopping s t) : SameParts s t := SteadyBut.sameParts h fun _ ha => .inl (statusRegs_mod ha)

theorem Stopping.reg (h : Stopping s t) {a : Nat} (ha : ¬ haltReg a) (hm : a % 0x1000000 ≠ 0x700810) : rg t a = rg s a :=
  h.regs ha (notMem_statusRegs hm)

theorem forEach_stopping {α : Type} {f : State → α → State} (hf : ∀ s x, Stopping s (f s x)) (l : List α) (s : State) :
    Stopping s (forEach l f s) := by
  induction l generalizing s with
  | nil => exact Steady.stopping .refl
  | cons x l ih => exact (hf s x).trans (ih (f s x))

/-- What the step for p establishes in every state with these partitions, and no step ends, holds after a run through them. -/
theorem forEach_part {f : State → Nat → State} (hf : ∀ s q, Stopping s (f s q)) {P : State → Prop} {p : Nat} (l : List Nat)
    (hp : p ∈ l) (hest : ∀ t, SameParts s t → P (f t p)) (hkeep : ∀ t q, P t → P (f t q)) : P (forEach l f s) := by
  induction l generalizing s with
  | nil => exact absurd hp (by simp)
  | cons x l ih =>
    rcases List.mem_cons.mp hp with rfl | hp
    · exact forEach_keeps hkeep l (hest s ⟨rfl, rfl, rfl, rfl, rfl, fun _ _ => rfl⟩)
    · exact ih hp fun t ht => hest t ((hf s x).sameParts.trans ht)

end

/-! ### One partition -/

theorem haltBlocks_steady (s : State) (p : Nat) (t : State) : Steady allStatus t (forEach (blocksOf s p) (fun s b => haltSeq s b 4) t) :=
  Steady.refl.forEach fun _ hb h => h.haltSeq (mem_allStatus (mem_blocksOf_lt hb))

theorem haltBlocks_isStopped (s : State) (p : Nat) (t : State) :
    ∀ b ∈ blocksOf s p, isStopped (forEach (blocksOf s p) (fun s b => haltSeq s b 4) t) b = true :=
  forEach_establishes (P := fun b t => isStopped t b = true) isStopped_haltSeq isStopped_haltSeq_kept _ t

theorem haltBlocks_isStopped_kept (s : State) (p : Nat) {t : State} {c : Nat} (h : isStopped t c = true) :
    isStopped (forEach (blocksOf s p) (fun s b => haltSeq s b 4) t) c = true :=
  forEach_keeps (P := fun t => isStopped t c = true) (fun t b => isStopped_haltSeq_kept t b c) _ h

theorem towardPort_lt {s : State} {q : Nat} (h : towardPort s = some q) : q < 4 := by
  unfold towardPort at h
  dsimp only at h
  split at h
  · cases h; decide
  · split at h
    · cases h; decide
    · unfold portTo at h
      split_ifs at h <;> cases h <;> decide

/-- A member's request reaches the port toward its lead. -/
theorem mem_out_forwardReq {s : State} {p q : Nat} (r : FwdReq) (hf : follows s p = true) (hq : towardPort s = some q)
    (hu : portUsable s q = true) : Out.rein q ctlForward (BitVec.ofNat 64 (fwdCode r)) ∈ (forwardReq s p r).out := by
  simp only [follows, Bool.and_eq_true, Bool.not_eq_true', leadsCascade, beq_eq_false_iff_ne] at hf
  obtain ⟨⟨hc, -⟩, hl⟩ := hf
  have he : forwardReq s p r = emit s (.rein q ctlForward (BitVec.ofNat 64 (fwdCode r))) := by
    unfold forwardReq toLead sendCtl
    rw [if_pos (by simp [hc, hl]), hq]
    exact if_pos hu
  rw [he]
  simp [emit]

/-- A step that stops partitions through channel n, as a stop of its own or of the chip does. -/
structure Stops (n : BitVec 3) (f : State → Nat → State) : Prop where
  stopping : ∀ s p, Stopping s (f s p)
  asks : ∀ {s p q}, follows s p = true → towardPort s = some q → portUsable s q = true →
    Out.rein q ctlForward (BitVec.ofNat 64 (fwdCode (.girth n))) ∈ (f s p).out
  stops : ∀ {s p}, follows s p = false → ∀ b ∈ blocksOf s p, isStopped (f s p) b = true
  kept : ∀ s p {b}, isStopped s b = true → isStopped (f s p) b = true

theorem isStopped_forwardReq (s : State) (p : Nat) (r : FwdReq) (b : Nat) : isStopped (forwardReq s p r) b = isStopped s b := by
  have h : Steady [] s (forwardReq s p r) := Steady.refl.forwardReq
  exact h.isStopped b

theorem isStopped_sendAct (s : State) (p : Nat) (a : DispAct) (b : Nat) : isStopped (sendAct s p a) b = isStopped s b := by
  have h : Steady [] s (sendAct s p a) := Steady.refl.sendAct
  exact h.isStopped b

theorem girth_ofNat (n : BitVec 3) : FwdReq.girth (BitVec.ofNat 3 n.toNat) = .girth n := by rw [BitVec.ofNat_toNat, BitVec.setWidth_eq]

theorem chipStopOne_stops (n : BitVec 3) : Stops n (chipStopOne · n.toNat ·) where
  stopping s p := by
    refine Steady.stopping ?_
    unfold chipStopOne
    split
    · exact Steady.refl.forwardReq
    · exact (haltBlocks_steady s p s).sendAct
  asks hf hq hu := by
    rw [chipStopOne, if_pos hf, girth_ofNat]
    exact mem_out_forwardReq _ hf hq hu
  stops hf b hb := by
    rw [chipStopOne, if_neg (by simp [hf]), isStopped_sendAct]
    exact haltBlocks_isStopped _ _ _ b hb
  kept s p b h := by
    unfold chipStopOne
    split
    · rwa [isStopped_forwardReq]
    · rw [isStopped_sendAct]
      exact haltBlocks_isStopped_kept s p h

/-- Partition p is noted as stopped. -/
def noteStop (s : State) (p : Nat) : State := { s with dbg := { s.dbg with pstop := s.dbg.pstop ||| BitVec.twoPow 16 p } }

theorem stopPart_eq (s : State) (p : Nat) :
    stopPart s p 4 = sendAct (forEach (blocksOf s p) (fun s b => haltSeq s b 4) (noteStop s p)) p (.stop 4) := rfl

theorem noteStop_stopsMore (s : State) (p : Nat) : StopsMore s.dbg (noteStop s p).dbg :=
  ⟨rfl, rfl, id, fun q hq => by simp [noteStop, hq]⟩

theorem girthStopOne_stops (n : BitVec 3) : Stops n (girthStopOne · n.toNat ·) where
  stopping s p := by
    unfold girthStopOne
    split
    · exact Steady.stopping (Steady.refl.forwardReq)
    · rw [stopPart_eq]
      exact ⟨_, noteStop_stopsMore s p, (haltBlocks_steady s p (noteStop s p)).sendAct⟩
  asks hf hq hu := by
    rw [girthStopOne, if_pos hf, girth_ofNat]
    exact mem_out_forwardReq _ hf hq hu
  stops hf b hb := by
    rw [girthStopOne, if_neg (by simp [hf]), stopPart_eq, isStopped_sendAct]
    exact haltBlocks_isStopped _ _ _ b hb
  kept s p b h := by
    unfold girthStopOne
    split
    · rwa [isStopped_forwardReq]
    · rw [stopPart_eq, isStopped_sendAct]
      exact haltBlocks_isStopped_kept s p h

/-- A partition that this device stops is noted as stopped. -/
theorem girthStopOne_pstop {s : State} {n p : Nat} (hp : p < 16) (hf : follows s p = false) :
    (girthStopOne s n p).dbg.pstop.getLsbD p = true := by
  have h : Steady allStatus (noteStop s p) (girthStopOne s n p) := by
    rw [girthStopOne, if_neg (by simp [hf]), stopPart_eq]
    exact (haltBlocks_steady s p (noteStop s p)).sendAct
  rw [h.dbg]
  simp [noteStop, hp]

/-! ### A channel's stop -/

section
variable {n : BitVec 3} {f : State → Nat → State} {s : State} {p : Nat} {l : List Nat}

theorem Stops.all (hf : Stops n f) (hp : p ∈ l) (h : follows s p = false) :
    ∀ b ∈ blocksOf s p, isStopped (forEach l f s) b = true := fun b hb =>
  forEach_part (P := fun t => isStopped t b = true) hf.stopping l hp
    (fun t ht => hf.stops (by rwa [ht.follows]) b (by rwa [ht.blocksOf])) fun t q => hf.kept t q

theorem Stops.asksAll {q : Nat} (hf : Stops n f) (hp : p ∈ l) (h : follows s p = true) (hq : towardPort s = some q)
    (hu : portUsable s q = true) : Out.rein q ctlForward (BitVec.ofNat 64 (fwdCode (.girth n))) ∈ (forEach l f s).out :=
  forEach_part (P := fun t => Out.rein q ctlForward (BitVec.ofNat 64 (fwdCode (.girth n))) ∈ t.out) hf.stopping l hp
    (fun t ht => hf.asks (by rwa [ht.follows]) (by rwa [ht.towardPort]) (by rwa [ht.portUsable (towardPort_lt hq)]))
    fun t q h => (hf.stopping t q).out.subset h

theorem girthStopOnes_pstop (hp : p ∈ l) (h16 : p < 16) (h : follows s p = false) :
    (forEach l (girthStopOne · n.toNat ·) s).dbg.pstop.getLsbD p = true :=
  forEach_part (P := fun t => t.dbg.pstop.getLsbD p = true) (girthStopOne_stops n).stopping l hp
    (fun t ht => girthStopOne_pstop h16 (by rwa [ht.follows])) fun t q h => ((girthStopOne_stops n).stopping t q).dbg.pstop p h

/-- The partitions that a stop of the chip reaches. -/
def partsHere (s : State) : List Nat := (List.range 16).filter (defined s)

theorem mem_partsHere (h16 : p < 16) (hd : defined s p = true) : p ∈ partsHere s :=
  List.mem_filter.mpr ⟨List.mem_range.mpr h16, hd⟩

/-- The chip-scope stop is noted. -/
def noteChipStop (s : State) : State := { s with dbg := { s.dbg with chipStop := true } }

theorem girthStopScope_chip (h : rgB s (R.GIRTH_CH n.toNat) R.GIRTH_CH_CHIP = true) :
    girthStopScope s n.toNat = forEach (partsHere s) (chipStopOne · n.toNat ·) (noteChipStop s) := if_pos h

theorem girthStopScope_parts (h : rgB s (R.GIRTH_CH n.toNat) R.GIRTH_CH_CHIP = false) :
    girthStopScope s n.toNat = forEach ((partsHere s).filter fun p =>
      (rgF s (R.GIRTH_CH n.toNat) R.GIRTH_CH_PMASK).testBit p) (girthStopOne · n.toNat ·) s := if_neg (by simp [h])

theorem noteChipStop_stopping (s : State) : Stopping s (noteChipStop s) :=
  ⟨(noteChipStop s).dbg, ⟨rfl, rfl, fun _ => rfl, fun _ => id⟩, Steady.refl⟩

theorem girthStopScope_stopping (s : State) (n : BitVec 3) : Stopping s (girthStopScope s n.toNat) := by
  cases h : rgB s (R.GIRTH_CH n.toNat) R.GIRTH_CH_CHIP with
  | true =>
    rw [girthStopScope_chip h]
    exact (noteChipStop_stopping s).trans (forEach_stopping (chipStopOne_stops n).stopping _ _)
  | false =>
    rw [girthStopScope_parts h]
    exact forEach_stopping (girthStopOne_stops n).stopping _ _

theorem girthStopScope_asks {q : Nat} (h16 : p < 16) (hd : defined s p = true) (hf : follows s p = true)
    (hm : rgB s (R.GIRTH_CH n.toNat) R.GIRTH_CH_CHIP = true ∨ (rgF s (R.GIRTH_CH n.toNat) R.GIRTH_CH_PMASK).testBit p = true)
    (hq : towardPort s = some q) (hu : portUsable s q = true) :
    Out.rein q ctlForward (BitVec.ofNat 64 (fwdCode (.girth n))) ∈ (girthStopScope s n.toNat).out := by
  have hp := mem_partsHere h16 hd
  have hs := (noteChipStop_stopping s).sameParts
  cases h : rgB s (R.GIRTH_CH n.toNat) R.GIRTH_CH_CHIP with
  | true =>
    rw [girthStopScope_chip h]
    exact (chipStopOne_stops n).asksAll hp (by rwa [hs.follows]) (by rwa [hs.towardPort])
      (by rwa [hs.portUsable (towardPort_lt hq)])
  | false =>
    rw [girthStopScope_parts h]
    have hm := hm.resolve_left (by simp [h])
    exact (girthStopOne_stops n).asksAll (List.mem_filter.mpr ⟨hp, hm⟩) hf hq hu

theorem girthStopScope_stops_part (h16 : p < 16) (hd : defined s p = true) (hf : follows s p = false)
    (hc : rgB s (R.GIRTH_CH n.toNat) R.GIRTH_CH_CHIP = false) (hm : (rgF s (R.GIRTH_CH n.toNat) R.GIRTH_CH_PMASK).testBit p = true) :
    (girthStopScope s n.toNat).dbg.pstop.getLsbD p = true ∧ ∀ b ∈ blocksOf s p, isStopped (girthStopScope s n.toNat) b = true := by
  have hp : p ∈ (partsHere s).filter fun p => (rgF s (R.GIRTH_CH n.toNat) R.GIRTH_CH_PMASK).testBit p :=
    List.mem_filter.mpr ⟨mem_partsHere h16 hd, hm⟩
  rw [girthStopScope_parts hc]
  exact ⟨girthStopOnes_pstop hp h16 hf, (girthStopOne_stops n).all hp hf⟩

theorem girthStopScope_stops_chip (hc : rgB s (R.GIRTH_CH n.toNat) R.GIRTH_CH_CHIP = true) :
    (girthStopScope s n.toNat).dbg.chipStop = true ∧ ∀ p, p < 16 → defined s p = true → follows s p = false →
      ∀ b ∈ blocksOf s p, isStopped (girthStopScope s n.toNat) b = true := by
  have hs := (noteChipStop_stopping s).sameParts
  rw [girthStopScope_chip hc]
  refine ⟨(forEach_stopping (chipStopOne_stops n).stopping _ (noteChipStop s)).dbg.chipStop rfl, fun p h16 hd hf b hb => ?_⟩
  exact (chipStopOne_stops n).all (mem_partsHere h16 hd) (by rwa [hs.follows]) b (by rwa [hs.blocksOf])

end

/-! ### What the channel records -/

/-- A one-bit part of a field just set. -/
theorem testBit_rgF_setF (s : State) (a : Nat) {g : Fld} {k : Nat} (hk : g.lo + k ≤ g.hi) (hg : g.hi < 64) :
    (rgF (setF s a ⟨g.lo + k, g.lo + k⟩ 1) a g).testBit k = true := by
  rw [rgF, rg_setF_same s a (f := ⟨g.lo + k, g.lo + k⟩) (by simp only; omega), testBit_bits, testBit_putBits,
    if_pos ⟨Nat.le_refl _, Nat.le_refl _⟩]
  simp
  omega

/-- FIRED and TIME of channel n at this tick. -/
def girthNoted (s : State) (n : Nat) : State :=
  setF (setF s R.GIRTH_STAT ⟨56 + n, 56 + n⟩ 1) R.GIRTH_STAT R.GIRTH_STAT_TIME (now s % 2 ^ 48)

/-- The channel's interrupt. -/
def girthIrq (s : State) (n : Nat) : State := cicRise s (setF s R.GIRTH_STAT ⟨48 + n, 48 + n⟩ 1) 11

theorem girthNoted_steady (s : State) (n : Nat) : Steady [R.GIRTH_STAT] s (girthNoted s n) :=
  (Steady.refl.setF (.inr (by simp))).setF (.inr (by simp))

theorem girthNoted_sameParts (s : State) (n : Nat) : SameParts s (girthNoted s n) :=
  (girthNoted_steady s n).sameParts fun a ha => .inr (by
    rw [List.mem_singleton.mp ha]
    unfold R.GIRTH_STAT chipCtl
    omega)

theorem girthNoted_fired (s : State) (n : BitVec 3) :
    (rgF (girthNoted s n.toNat) R.GIRTH_STAT R.GIRTH_STAT_FIRED).testBit n.toNat = true
      ∧ rgF (girthNoted s n.toNat) R.GIRTH_STAT R.GIRTH_STAT_TIME = now s % 2 ^ 48 := by
  have hn := n.isLt
  unfold girthNoted
  constructor
  · rw [rgF_setF_field _ _ (by decide) (by decide)]
    exact testBit_rgF_setF s R.GIRTH_STAT (g := R.GIRTH_STAT_FIRED) (by simp only; omega) (by decide)
  · rw [rgF_setF_same _ _ (by decide)]
    exact Nat.mod_mod _ _

/-- Source 11 of the CIC belongs to the chip: its interrupt sets its pending bit alone. -/
theorem cicRise_girth_steady (s0 s : State) : Steady [] s (cicRise s0 s 11) := by
  unfold cicRise
  split
  · have ho : cicOwner (cicSet s 11) 11 = none := rfl
    rw [cicOutside, ho]
    exact Steady.refl.setF (.inl haltReg_cicPend)
  · exact Steady.refl

theorem girthIrq_steady (s : State) (n : Nat) : Steady [R.GIRTH_STAT] s (girthIrq s n) :=
  (Steady.refl.setF (.inr (by simp))).trans ((cicRise_girth_steady _ _).mono (by simp))

theorem girthIrq_stat (s : State) (n : BitVec 3) :
    (rgF (girthIrq s n.toNat) R.GIRTH_STAT R.GIRTH_STAT_IRQF).testBit n.toNat = true
      ∧ rgF (girthIrq s n.toNat) R.GIRTH_STAT R.GIRTH_STAT_FIRED = rgF s R.GIRTH_STAT R.GIRTH_STAT_FIRED
      ∧ rgF (girthIrq s n.toNat) R.GIRTH_STAT R.GIRTH_STAT_TIME = rgF s R.GIRTH_STAT R.GIRTH_STAT_TIME := by
  have hn := n.isLt
  have h := (cicRise_girth_steady s (setF s R.GIRTH_STAT ⟨48 + n.toNat, 48 + n.toNat⟩ 1)).regs _ not_haltReg_girthStat (by simp)
  have hf := fun f => rgF_of_rg (t := girthIrq s n.toNat) h f
  rw [hf, hf, hf]
  refine ⟨testBit_rgF_setF s R.GIRTH_STAT (g := R.GIRTH_STAT_IRQF) (by simp only; omega) (by decide), ?_, ?_⟩
  · exact rgF_setF_field _ _ (by simp only; omega) (by simp only; omega) _
  · exact rgF_setF_field _ _ (by simp only; omega) (by simp only; omega) _

end Sys2Proof.Machine
end

section
/-! SUPPORT. GIRTH_FIRE, GIRTH_TRIG, GIRTH_RELEASE and GIRTH_RELCHIP (R514, R515). -/

namespace Sys2Proof.Machine

/-! ### The channel that fires -/

/-- The state after the channel's stop, if it has one. -/
def girthStopped (s : State) (n : Nat) : State :=
  if (rgF s (R.GIRTH_CH n) R.GIRTH_CH_ACT).testBit 0 then girthStopScope (girthNoted s n) n else girthNoted s n

/-- The state after the channel's interrupt, if it has one. -/
def girthSignalled (s : State) (n : Nat) : State :=
  if (rgF s (R.GIRTH_CH n) R.GIRTH_CH_ACT).testBit 1 then girthIrq (girthStopped s n) n else girthStopped s n

theorem girthFireOp_eq (s : State) (n : Nat) : girthFireOp s n
    = if (rgF s (R.GIRTH_CH n) R.GIRTH_CH_ACT).testBit 2 then
        tracePut (girthSignalled s n) (tracePkt (now (girthSignalled s n)) 3 0 0 n) else girthSignalled s n := rfl

theorem girthStopped_stopping (s : State) (n : BitVec 3) : Stopping (girthNoted s n.toNat) (girthStopped s n.toNat) := by
  unfold girthStopped
  split
  · exact girthStopScope_stopping _ n
  · exact Steady.stopping .refl

theorem girthSignalled_steady (s : State) (n : Nat) : Steady [R.GIRTH_STAT] (girthStopped s n) (girthSignalled s n) := by
  unfold girthSignalled
  split
  · exact girthIrq_steady _ n
  · exact .refl

theorem girthFireOp_trace_steady (s : State) (n : Nat) : Steady [] (girthSignalled s n) (girthFireOp s n) := by
  rw [girthFireOp_eq]
  exact Steady.refl.when (·.when (·.emit))

theorem girthFireOp_steady (s : State) (n : Nat) : Steady [R.GIRTH_STAT] (girthStopped s n) (girthFireOp s n) :=
  (girthSignalled_steady s n).trans ((girthFireOp_trace_steady s n).mono (by simp))

/-- FIRED, TIME and IRQF after channel n has fired. -/
theorem girthFireOp_stat (s : State) (n : BitVec 3) :
    (rgF (girthFireOp s n.toNat) R.GIRTH_STAT R.GIRTH_STAT_FIRED).testBit n.toNat = true
      ∧ rgF (girthFireOp s n.toNat) R.GIRTH_STAT R.GIRTH_STAT_TIME = now s % 2 ^ 48
      ∧ ((rgF s (R.GIRTH_CH n.toNat) R.GIRTH_CH_ACT).testBit 1 = true →
          (rgF (girthFireOp s n.toNat) R.GIRTH_STAT R.GIRTH_STAT_IRQF).testBit n.toNat = true) := by
  have hm : R.GIRTH_STAT % 0x1000000 ≠ 0x700810 := by
    unfold R.GIRTH_STAT chipCtl
    omega
  have hend := (girthFireOp_trace_steady s n.toNat).regs _ not_haltReg_girthStat (by simp)
  have hstop := (girthStopped_stopping s n).reg not_haltReg_girthStat hm
  obtain ⟨hirq, hf, ht⟩ := girthIrq_stat (girthStopped s n.toNat) n
  have hnoted := girthNoted_fired s n
  rw [rgF_of_rg hend, rgF_of_rg hend, rgF_of_rg hend]
  unfold girthSignalled
  split
  · rw [hf, ht, rgF_of_rg hstop, rgF_of_rg hstop]
    exact ⟨hnoted.1, hnoted.2, fun _ => hirq⟩
  · next h =>
    rw [rgF_of_rg hstop, rgF_of_rg hstop]
    exact ⟨hnoted.1, hnoted.2, fun h' => absurd h' h⟩

theorem isStopped_girthFireOp (s : State) (n : Nat) {b : Nat} (hb : b < 128) :
    isStopped (girthFireOp s n) b = isStopped (girthStopped s n) b := by
  have hne : R.DBG_STATUS b ≠ R.GIRTH_STAT := by
    unfold R.DBG_STATUS R.GIRTH_STAT bwin chipCtl
    omega
  exact rgB_of_rg ((girthFireOp_steady s n).regs _ (not_haltReg_dbgStatus b) (by simpa using hne)) _

theorem girthCh_ne_stat {n : Nat} (h : n < 8) : R.GIRTH_CH n ≠ R.GIRTH_STAT := by
  unfold R.GIRTH_CH R.GIRTH_STAT
  omega

/-- The channel's own register is as before when its stop begins. -/
theorem rgF_girthNoted_ch (s : State) (n : BitVec 3) (f : Fld) :
    rgF (girthNoted s n.toNat) (R.GIRTH_CH n.toNat) f = rgF s (R.GIRTH_CH n.toNat) f :=
  rgF_of_rg ((girthNoted_steady s n.toNat).regs _ (not_haltReg_girthCh n.isLt)
    (by simpa using girthCh_ne_stat n.isLt)) f

theorem rgB_girthNoted_ch (s : State) (n : BitVec 3) (f : Fld) :
    rgB (girthNoted s n.toNat) (R.GIRTH_CH n.toNat) f = rgB s (R.GIRTH_CH n.toNat) f := by
  rw [rgB, rgF_girthNoted_ch, rgB]

/-- What a channel that fires asks and stops. -/
theorem girthFireOp_stops (s : State) (n : BitVec 3) (h : (rgF s (R.GIRTH_CH n.toNat) R.GIRTH_CH_ACT).testBit 0 = true) :
    let c := R.GIRTH_CH n.toNat
    let t := girthFireOp s n.toNat
    (∀ p q, p < 16 → defined s p = true → follows s p = true →
        (rgB s c R.GIRTH_CH_CHIP = true ∨ (rgF s c R.GIRTH_CH_PMASK).testBit p = true) → towardPort s = some q →
        portUsable s q = true → Out.rein q ctlForward (BitVec.ofNat 64 (fwdCode (.girth n))) ∈ t.out)
      ∧ (rgB s c R.GIRTH_CH_CHIP = false → ∀ p, p < 16 → defined s p = true → follows s p = false →
          (rgF s c R.GIRTH_CH_PMASK).testBit p = true → t.dbg.pstop.getLsbD p = true ∧ ∀ b ∈ blocksOf s p, halted t b = true)
      ∧ (rgB s c R.GIRTH_CH_CHIP = true → t.dbg.chipStop = true
          ∧ ∀ p, p < 16 → defined s p = true → follows s p = false → ∀ b ∈ blocksOf s p, halted t b = true) := by
  have hs := girthNoted_sameParts s n.toNat
  have hst := girthFireOp_steady s n.toNat
  have hscope : girthStopped s n.toNat = girthStopScope (girthNoted s n.toNat) n.toNat := if_pos h
  have hhalt : ∀ p, ∀ b ∈ blocksOf s p, isStopped (girthStopScope (girthNoted s n.toNat) n.toNat) b = true →
      halted (girthFireOp s n.toNat) b = true := fun p b hb hx =>
    halted_of_isStopped (by rw [isStopped_girthFireOp s n.toNat (mem_blocksOf_lt hb), hscope, hx])
  refine ⟨fun p q h16 hd hf hm hq hu => ?_, fun hc p h16 hd hf hm => ?_, fun hc => ?_⟩
  · refine hst.out.subset (hscope ▸ girthStopScope_asks h16 (by rwa [hs.defined]) (by rwa [hs.follows]) ?_
      (by rwa [hs.towardPort]) (by rwa [hs.portUsable (towardPort_lt hq)]))
    rwa [rgB_girthNoted_ch, rgF_girthNoted_ch]
  · obtain ⟨hp, hb⟩ := girthStopScope_stops_part (s := girthNoted s n.toNat) (n := n) h16 (by rwa [hs.defined])
      (by rwa [hs.follows]) (by rwa [rgB_girthNoted_ch]) (by rwa [rgF_girthNoted_ch])
    rw [hs.blocksOf] at hb
    exact ⟨by rw [hst.dbg, hscope, hp], fun b hx => hhalt p b hx (hb b hx)⟩
  · obtain ⟨hchip, hb⟩ := girthStopScope_stops_chip (s := girthNoted s n.toNat) (n := n) (by rwa [rgB_girthNoted_ch])
    refine ⟨by rw [hst.dbg, hscope, hchip], fun p h16 hd hf b hx => hhalt p b hx ?_⟩
    exact hb p h16 (by rwa [hs.defined]) (by rwa [hs.follows]) b (by rwa [hs.blocksOf])

/-- What a channel that fires leaves. -/
theorem girthFireOp_leaves (s : State) (n : BitVec 3) : (girthFireOp s n.toNat).dbg.girth = s.dbg.girth
    ∧ (girthFireOp s n.toNat).dbg.girthAt = s.dbg.girthAt ∧ (girthFireOp s n.toNat).mem = s.mem
    ∧ now (girthFireOp s n.toNat) = now s := by
  have h1 := girthNoted_steady s n.toNat
  have h2 := girthStopped_stopping s n
  have h3 := girthFireOp_steady s n.toNat
  have hd := h2.dbg
  rw [h1.dbg] at hd
  rw [h3.dbg, h3.mem, h2.mem, h1.mem, now, h3.timebase, h2.timebase, h1.timebase]
  exact ⟨hd.girth, hd.girthAt, rfl, rfl⟩

/-! ### The command -/

theorem exec_girthFire {s : State} {n src : BitVec 3} (hl : girthLower s n.toNat = false)
    (hd : (n.toNat, src.toNat) ∈ s.dbg.girth ∨ src = 3 ∧ girthTimeDue s n.toNat = true) :
    exec (.girthFire n src) s = .next (girthFireOp (girthTaken s n.toNat src.toNat) n.toNat) := by
  refine congrArg Host.Outcome.next (if_pos ?_)
  rw [hl, Bool.not_false, Bool.and_true, Bool.or_eq_true, decide_eq_true_eq, Bool.and_eq_true]
  exact hd.imp id fun h => ⟨by rw [h.1]; rfl, h.2⟩

theorem mem_mapPut_self {α : Type} (k : Nat) (v : α) (m : List (Nat × α)) : (k, v) ∈ mapPut k v m := by
  induction m with
  | nil => simp [mapPut]
  | cons e m ih =>
    unfold mapPut
    split_ifs <;> simp [ih]

/-- Once the time of GIRTH_TBM has been taken, it is not due again. -/
theorem girthTimeDue_of_taken {s t : State} {n : Nat} (hg : t.dbg.girthAt = (girthTaken s n 3).dbg.girthAt)
    (hn : now t = now s) : girthTimeDue t n = false := by
  have hm : (n, now t) ∈ t.dbg.girthAt := by
    rw [hg, hn]
    exact mem_mapPut_self n (now s) s.dbg.girthAt
  have hc : t.dbg.girthAt.contains (n, now t) = true := List.contains_iff_mem.mpr hm
  rw [girthTimeDue, hc, Bool.not_true, Bool.and_false]

theorem girthLower_of_time {s : State} {n m : Nat} (hm : m < n) (he : rgB s (R.GIRTH_CH m) R.GIRTH_CH_EN = true)
    (hs : (rgF s (R.GIRTH_CH m) R.GIRTH_CH_SRC).testBit 3 = true) (ht : now s = rg s R.GIRTH_TBM) (ha : s.dbg.girthAt = []) :
    girthLower s n = true := by
  have hd : girthTimeDue s m = true := by simp [girthTimeDue, he, hs, ht, ha]
  rw [girthLower, Bool.or_eq_true, List.any_eq_true (l := List.range n)]
  exact .inr ⟨m, List.mem_range.mpr hm, hd⟩

/-! ### Software sources and releases -/

/-- A source joins those that wait. -/
def joinSource (l : List (Nat × Nat)) (n : Nat) : List (Nat × Nat) := if (n, 0) ∈ l then l else l ++ [(n, 0)]

theorem mem_foldl_joinSource {l : List (Nat × Nat)} {hits : List Nat} {e : Nat × Nat} (h : e ∈ l ∨ ∃ n ∈ hits, e = (n, 0)) :
    e ∈ hits.foldl joinSource l := by
  induction hits generalizing l with
  | nil => exact h.elim id fun ⟨_, hn, _⟩ => absurd hn (by simp)
  | cons x hits ih =>
    refine ih ?_
    rcases h with h | ⟨n, hn, rfl⟩
    · left
      unfold joinSource
      split <;> simp [h]
    · rcases List.mem_cons.mp hn with rfl | hn
      · left
        unfold joinSource
        split
        · assumption
        · simp
      · exact .inr ⟨n, hn, rfl⟩

theorem girthTrigOp_girth {s : State} {v n : Nat} (hn : n < 8) (hv : v.testBit n = true)
    (he : rgB s (R.GIRTH_CH n) R.GIRTH_CH_EN = true) (hs : (rgF s (R.GIRTH_CH n) R.GIRTH_CH_SRC).testBit 0 = true) :
    (n, 0) ∈ (girthTrigOp s v).dbg.girth :=
  mem_foldl_joinSource (.inr ⟨n, List.mem_filter.mpr ⟨List.mem_range.mpr hn, by rw [hv, he, hs]; rfl⟩, rfl⟩)

/-- A release frees the partitions that it names. -/
theorem girthReleaseOp_effect (s : State) (v : Nat) : (girthReleaseOp s v).mem = s.mem
    ∧ ∀ p, p < 16 → v.testBit p = true → defined s p = true → s.dbg.chipStop = false → epState s p ≠ 6 →
        forced s p = false → ∀ b ∈ blocksOf s p, isStopped (girthReleaseOp s v) b = false := by
  refine ⟨(freePart_frees.leaves _ s).1, fun p h16 hv hd hc he hf => ?_⟩
  refine freePart_frees.all _ (List.nodup_range.filter _) (fun q hq => ?_) s ?_ hc he hf
  · exact List.mem_range.mp (List.mem_of_mem_filter hq)
  · exact List.mem_filter.mpr ⟨List.mem_range.mpr h16, by simp [hv, hd]⟩

/-- The chip-scope stop of s ends. -/
def noChipStop (s : State) : State := { s with dbg := { s.dbg with chipStop := false } }

theorem girthRelchipOp_eq {s : State} (h : s.dbg.chipStop = true) : girthRelchipOp s
    = forEach ((List.range 16).filter fun p => defined s p && !s.dbg.pstop.getLsbD p) (freeFromChip s) (noChipStop s) :=
  if_neg (by simp [h])

/-- The end of a chip-scope stop: a partition stopped by itself stays stopped. -/
theorem girthRelchipOp_effect {s : State} (h : s.dbg.chipStop = true) : (girthRelchipOp s).dbg.chipStop = false
    ∧ (girthRelchipOp s).mem = s.mem
    ∧ ∀ p, p < 16 → defined s p = true → epState s p ≠ 6 → forced s p = false → ∀ b ∈ blocksOf s p,
        isStopped (girthRelchipOp s) b = (s.dbg.pstop.getLsbD p && isStopped s b) := by
  have hf := freeFromChip_frees s
  obtain ⟨hmem, hcs, hkept⟩ := hf.leaves ((List.range 16).filter fun p => defined s p && !s.dbg.pstop.getLsbD p) (noChipStop s)
  rw [girthRelchipOp_eq h]
  refine ⟨hcs, hmem, fun p h16 hd he hfo b hb => ?_⟩
  cases hp : s.dbg.pstop.getLsbD p with
  | true =>
    refine (hkept b (mem_blocksOf_lt hb) fun q hq => notMem_blocksOf (s := noChipStop s) hb ?_).trans (by rw [Bool.true_and]; rfl)
    rintro rfl
    simp [hp] at hq
  | false =>
    rw [Bool.false_and]
    refine hf.all _ (List.nodup_range.filter _) (fun q hq => List.mem_range.mp (List.mem_of_mem_filter hq)) (noChipStop s)
      (List.mem_filter.mpr ⟨List.mem_range.mpr h16, by simp [hd, hp]⟩) rfl he hfo b hb

end Sys2Proof.Machine
end

section
/-! SUPPORT. The release of a halt, and a single step of an ADD (R508, R510). -/

namespace Sys2Proof.Machine

/-! ### The release of a program's halt -/

section
variable {s : State} {b : Nat}

theorem Steady.releaseHalt (hb : b < 128) : Steady (statusRegs (gang s b)) s (releaseHalt s b) := by
  unfold Machine.releaseHalt
  split
  · exact .refl
  · exact Steady.resumeIdle (Steady.sendActOf (Steady.refl.keepSuspended.forEach fun c hc h =>
      h.releaseBlock (mem_gang_lt hb hc) (mem_statusRegs hc)))

theorem releaseHalt_of_not (h : (gang s b).any (releasable s) = false) : releaseHalt s b = s :=
  if_pos (by rw [Bool.not_eq_true']; exact h)

/-- Every block of the program that a release can let go on goes on. -/
theorem releaseHalt_released (hb : b < 128) (h : (gang s b).any (releasable s) = true) :
    ∀ c ∈ gang s b, releasable s c = true → Released s (releaseHalt s b) c := by
  intro c hc hr
  have hk : Steady [] s (keepSuspended s (programOf s b)) := Steady.refl.keepSuspended
  have hst := hk.regs _ (not_haltReg_dbgStatus c) (by simp)
  have hfree := releaseBlocks (gang s b) (nodup_gang s b) (fun x hx => mem_gang_lt hb hx) (keepSuspended s (programOf s b)) c hc
    ((releasable_congr hst).trans hr)
  have he : releaseHalt s b = resumeIdle (match partOf s b with
      | some n => sendAct (forEach (gang s b) releaseBlock (keepSuspended s (programOf s b))) n .release
      | none => forEach (gang s b) releaseBlock (keepSuspended s (programOf s b))) (programOf s b) :=
    if_neg (by rw [Bool.not_eq_true', Bool.not_eq_false]; exact h)
  have hlater : Steady [] (forEach (gang s b) releaseBlock (keepSuspended s (programOf s b))) (releaseHalt s b) := by
    rw [he]
    exact Steady.resumeIdle (Steady.sendActOf .refl)
  have hrel := hfree.of_status (hlater.regs _ (not_haltReg_dbgStatus c) (by simp))
  rw [Released, isStopped, rgB_of_rg hst] at hrel
  exact hrel

end

/-! ### A step under way -/

/-- The state in which the step of block b is, or is not, under way. -/
def stepping (s : State) (b : Nat) (on : Bool) : State := updSeq s b fun q => { q with stepping := on }

section
variable {s : State} {b : Nat}

/-- What a sequencer with nothing else under way shows. -/
theorem State.plain_iff (s : State) (b : Nat) : s.plain b = true ↔ canIssue s b = true ∧ (seqOf s b).resume = none
    ∧ pcOk (pcOf s b) = true ∧ (seqOf s b).ldx = [] ∧ (seqOf s b).loads = [] ∧ examined s b = []
    ∧ rgB s (R.PSR b) R.PSR_REPF = false ∧ (seqOf s b).stepping = false ∧ s.flaws = [] ∧ (seqOf s b).fetched = none := by
  simp only [State.plain, Bool.and_eq_true, Bool.not_eq_true', List.isEmpty_iff, Option.isNone_iff_eq_none, and_assoc]

theorem canIssue_iff (s : State) (b : Nat) : canIssue s b = true ↔ executing s b = true ∧ boundaryClear s b = true
    ∧ (seqOf s b).waiting = false ∧ (seqOf s b).micro = none := by
  simp only [canIssue, Bool.and_eq_true, Bool.not_eq_true', Option.isNone_iff_eq_none, and_assoc]

theorem seqOf_stepping (s : State) (b : Nat) (on : Bool) : seqOf (stepping s b on) b = { seqOf s b with stepping := on } :=
  seqOf_updSeq_same s b _

/-- Whether a program is to run does not depend on a step. -/
theorem executing_stepping (s : State) (b : Nat) (on : Bool) : executing (stepping s b on) b = executing s b := by
  have hfar : farRun (stepping s b on) b = farRun s b := by
    simp only [farRun, seqOf_stepping]
  have hprog : (seqOf (stepping s b on) b).inProg = (seqOf s b).inProg := by rw [seqOf_stepping]
  have hrun : runnable (stepping s b on) b = runnable s b := by
    simp only [runnable, hfar, hprog]
    rfl
  rw [executing, hrun]
  rfl

/-- In a step the boundary is no less clear. -/
theorem boundaryClear_stepping (h : boundaryClear (stepping s b false) b = true) :
    boundaryClear (stepping s b true) b = true := by
  simp only [boundaryClear, seqOf_stepping, Bool.and_eq_true, Bool.true_or, and_true] at h ⊢
  exact h.1

theorem canIssue_stepping (h : canIssue (stepping s b false) b = true) : canIssue (stepping s b true) b = true := by
  obtain ⟨he, hb, hw, hm⟩ := (canIssue_iff _ b).mp h
  rw [seqOf_stepping] at hw hm
  refine (canIssue_iff _ b).mpr ⟨?_, boundaryClear_stepping hb, ?_, ?_⟩
  · rwa [executing_stepping] at he ⊢
  · rwa [seqOf_stepping]
  · rwa [seqOf_stepping]

/-- A sequencer that issues is not halted. -/
theorem not_halted_of_canIssue (h : canIssue s b = true) (hr : (seqOf s b).resume = none) : halted s b = false := by
  obtain ⟨he, -, -, hm⟩ := (canIssue_iff s b).mp h
  have hfar : farRun s b = false := by simp [farRun, hr, hm]
  simp only [executing, runnable, hfar, Bool.or_false, Bool.and_eq_true, Bool.not_eq_true'] at he
  exact he.1.2.1

/-- An instruction completes with no load, loop or repetition under way. -/
theorem retire_plain (hl : (seqOf s b).loads = []) (hx : examined s b = []) (hr : rgB s (R.PSR b) R.PSR_REPF = false) :
    retire s b = setPc s b (pcOf s b + 8) := by
  simp [retire, ageLoads, hl, hr, stepPc, hx, loopEnd]

/-- An instruction whose body completes is carried out, also in a step. -/
theorem issue_next {s' : State} {w : Nat} {regs : List Nat} {body : State → State × Flow} (hc : canIssue s b = true)
    (hr : (seqOf s b).resume = none) (hp : pcOk (pcOf s b) = true) (hx : (seqOf s b).ldx = []) (hf : s.flaws = [])
    (hb : body s = (s', .next)) : issue s b w regs false body = endStep (retire s' b) b := by
  have hpc : pcOf s b ≤ 0x7FFF8 ∧ pcOf s b % 8 = 0 := by
    simp only [pcOk, Bool.and_eq_true, decide_eq_true_eq, beq_iff_eq] at hp
    omega
  unfold issue
  rw [if_neg (by simp [hc, hr])]
  simp only
  rw [if_neg (by omega), if_neg (by omega), if_neg (by simp [hx]), fetched_clean s b _ body hf, hb]
  simp [finish]

/-- The end of a step halts the program. -/
theorem endStep_halts (hs : (seqOf s b).stepping = true) (hm : (seqOf s b).micro = none) (hr : (seqOf s b).resume = none)
    (hw : (seqOf s b).waiting = false) (hh : halted s b = false) :
    endStep s b = haltGang (stepping s b false) b 3 := by
  have hh' : halted (stepping s b false) b = false := hh
  unfold endStep
  rw [if_neg (by simp [hs, hm, hr, hw])]
  exact if_neg (by rw [Bool.not_eq_true]; exact hh')

end

/-! ### The halt at its end -/

theorem haltGang_three (s : State) (b : Nat) : ∀ c ∈ gang s b, isHalted (haltGang s b 3) c = true
    ∧ rgF (haltGang s b 3) (R.DBG_STATUS c) R.DBG_STATUS_CAUSE = 3 := by
  intro c hc
  have hall := forEach_establishes (f := fun s c => haltSeq s c 3)
    (P := fun c t => isHalted t c = true ∧ rgF t (R.DBG_STATUS c) R.DBG_STATUS_CAUSE = 3) haltSeq_step
    (fun t x y h => by
      by_cases hy : y = x
      · rw [hy]; exact haltSeq_step t x
      · rw [isHalted, rgB_of_rg (haltSeq_other t hy), rgF_of_rg (haltSeq_other t hy)]; exact h) (gang s b) s c hc
  have hs : Steady [] (forEach (gang s b) (fun s c => haltSeq s c 3) s) (haltGang s b 3) := Steady.sendActOf .refl
  have hst := hs.regs _ (not_haltReg_dbgStatus c) (by simp)
  rw [isHalted, rgB_of_rg hst, rgF_of_rg hst]
  exact hall

/-! ### ADD -/

section
variable (s : State) (n d x y : Nat)

/-- ADD changes registers of its block's register file and NCY, and nothing else. -/
theorem rg_addNcy_other {a : Nat} (ha : a ≠ R.NCY n) (hf : a < 0x710000 + bwin n ∨ 0x710E00 + bwin n ≤ a) :
    rg (addNcy s n d x y) a = rg s a := by
  rw [addNcy, rg_wr_other _ _ _ _ _ hf, rg_setF_other _ ha]

theorem seqOf_addNcy (c : Nat) : seqOf (addNcy s n d x y) c = seqOf s c := by rw [addNcy, seqOf_wr, seqOf_setF]

theorem wr_eq (r v : Nat) : wr s n r v = { s with regs := (wr s n r v).regs } := by
  unfold wr writeId
  split_ifs <;> rfl

theorem addNcy_eq : addNcy s n d x y = { s with regs := (addNcy s n d x y).regs } := by
  rw [addNcy, wr_eq]
  rfl

theorem addNcy_sameParts (hn : n < 128) : SameParts s (addNcy s n d x y) := by
  have hreg : ∀ a, 0x040000000000 ≤ a → rg (addNcy s n d x y) a = rg s a := fun a ha =>
    rg_addNcy_other s n d x y (by unfold R.NCY bwin; omega) (.inr (by unfold bwin; omega))
  refine ⟨by rw [addNcy_eq], by rw [addNcy_eq], hreg _ ?_, hreg _ ?_, hreg _ ?_, fun p _ => hreg _ ?_⟩
  · unfold R.IMG_STATUS chipCtl; omega
  · unfold R.IMG_REGMAP chipCtl; omega
  · unfold R.REIN_ID chipCtl; omega
  · unfold R.REIN_STATUS chipCtl; omega

end

theorem stepOp_add {s : State} {n : Nat} {w : BitVec 24} (hp : programOf s n = n)
    (hw : readVal (stepping (releaseHalt s n) n true) (bwin n + pcOf (stepping (releaseHalt s n) n true) n) 8
      = 0x01000000 + w.toNat) :
    stepOp s n = stateOf (stepping (releaseHalt s n) n true)
      (execAdd (BitVec.ofNat 7 n) w (stepping (releaseHalt s n) n true)) := by
  have hlt := w.isLt
  have hword : (BitVec.ofNat 32 (0x01000000 + w.toNat)).toNat = 0x01000000 + w.toNat := by
    rw [BitVec.toNat_ofNat]
    omega
  have hop : (0x01000000 + w.toNat) / 2 ^ 24 = 1 := by omega
  have hfield : BitVec.ofNat 24 (0x01000000 + w.toNat) = w := by
    refine BitVec.eq_of_toNat_eq ?_
    rw [BitVec.toNat_ofNat]
    omega
  simp only [stepping] at hw ⊢
  simp only [stepOp, hp, hw, hword, hop, hfield]
  rfl

/-- The state in which the ADD of a step has been carried out on s, before the step ends. -/
def added (s : State) (n : Nat) (w : BitVec 24) : State :=
  setPc (addNcy s n (fD (wordOf 0x01 w)) (rd s n (fS (wordOf 0x01 w))) (rd s n (fU (wordOf 0x01 w)))) n (pcOf s n + 8)

theorem added_sameParts (s : State) {n : Nat} (hn : n < 128) (w : BitVec 24) : SameParts s (added s n w) := by
  have ha := addNcy_sameParts s n (fD (wordOf 0x01 w)) (rd s n (fS (wordOf 0x01 w))) (rd s n (fU (wordOf 0x01 w))) hn
  have hreg : ∀ a, 0x040000000000 ≤ a → a ≠ R.DBG_PC n := fun a ha => by unfold R.DBG_PC bwin; omega
  refine ha.trans ⟨rfl, rfl, rg_setF_other _ (hreg _ ?_) _ _, rg_setF_other _ (hreg _ ?_) _ _, rg_setF_other _ (hreg _ ?_) _ _,
    fun p _ => rg_setF_other _ (hreg _ ?_) _ _⟩
  · unfold R.IMG_STATUS chipCtl; omega
  · unfold R.IMG_REGMAP chipCtl; omega
  · unfold R.REIN_ID chipCtl; omega
  · unfold R.REIN_STATUS chipCtl; omega

/-- An ADD in a step is carried out, and the program halts. -/
theorem execAdd_stepping {s : State} {n : Nat} {w : BitVec 24} (hn : n < 128) (hpl : (stepping s n false).plain n = true)
    (hfn : fFN w.toNat = 0) : execAdd (BitVec.ofNat 7 n) w (stepping s n true)
      = .next (haltGang (stepping (added (stepping s n true) n w) n false) n 3) := by
  obtain ⟨hc, hres, hpc, hldx, hloads, hex, hrep, -, hfl, -⟩ := (State.plain_iff _ n).mp hpl
  obtain ⟨-, -, hwait, hmic⟩ := (canIssue_iff _ n).mp hc
  rw [seqOf_stepping] at hres hldx hloads hwait hmic
  have hblk : (BitVec.ofNat 7 n).toNat = n := by rw [BitVec.toNat_ofNat]; omega
  have hcan := canIssue_stepping hc
  have hres1 : (seqOf (stepping s n true) n).resume = none := by rw [seqOf_stepping]; exact hres
  obtain ⟨x, hx⟩ : ∃ x, x = rd (stepping s n true) n (fS (wordOf 0x01 w)) := ⟨_, rfl⟩
  obtain ⟨y, hy⟩ : ∃ y, y = rd (stepping s n true) n (fU (wordOf 0x01 w)) := ⟨_, rfl⟩
  obtain ⟨u, hu⟩ : ∃ u, u = addNcy (stepping s n true) n (fD (wordOf 0x01 w)) x y := ⟨_, rfl⟩
  have hreg : ∀ a, a ≠ R.NCY n → (a < 0x710000 + bwin n ∨ 0x710E00 + bwin n ≤ a) → rg u a = rg (stepping s n true) a :=
    fun a h1 h2 => hu ▸ rg_addNcy_other _ n _ _ _ h1 h2
  have hseq : seqOf u n = { seqOf s n with stepping := true } := by rw [hu, seqOf_addNcy, seqOf_stepping]
  have hlstat : rg u (R.LSTAT n) = rg (stepping s n true) (R.LSTAT n) :=
    hreg _ (by unfold R.LSTAT R.NCY; omega) (by unfold R.LSTAT; omega)
  have hpsr : rg u (R.PSR n) = rg (stepping s n true) (R.PSR n) :=
    hreg _ (by unfold R.PSR R.NCY; omega) (by unfold R.PSR; omega)
  have hpcu : pcOf u n = pcOf (stepping s n true) n :=
    rgF_of_rg (hreg _ (by unfold R.DBG_PC R.NCY; omega) (by unfold R.DBG_PC; omega)) _
  have hhalt : halted (added (stepping s n true) n w) n = false := by
    have h := not_halted_of_canIssue hcan hres1
    have he : rg (added (stepping s n true) n w) (R.DBG_STATUS n) = rg (stepping s n true) (R.DBG_STATUS n) := by
      rw [added, ← hx, ← hy, ← hu, setPc, rg_setF_other _ (by unfold R.DBG_STATUS R.DBG_PC; omega)]
      exact hreg _ (by unfold R.DBG_STATUS R.NCY; omega) (by unfold R.DBG_STATUS; omega)
    rwa [halted, rgB_of_rg he, rgB_of_rg he]
  have hretire : retire u n = added (stepping s n true) n w := by
    rw [retire_plain (by rw [hseq]; exact hloads) ((examined_congr _ u n hlstat hpsr).trans hex) ((rgB_of_rg hpsr _).trans hrep),
      hpcu, hu, hx, hy, added]
  have hseqa : seqOf (added (stepping s n true) n w) n = { seqOf s n with stepping := true } := by
    rw [← hseq, hu, hx, hy]
    rfl
  unfold execAdd
  rw [hblk, issue_next (s' := u) hcan hres1 hpc (by rw [seqOf_stepping]; exact hldx) hfl, hretire,
    endStep_halts (by rw [hseqa]) (by rw [hseqa]; exact hmic) (by rw [hseqa]; exact hres) (by rw [hseqa]; exact hwait) hhalt]
  rw [if_neg (by rw [fFN, wordOf_field 1 w 5 0 (by decide), ← fFN, hfn]; decide), hu, hx, hy]

theorem pcOf_stepping (s : State) (n : Nat) (on : Bool) : pcOf (stepping s n on) n = pcOf s n := rfl

theorem pcOf_added (s : State) (n : Nat) (w : BitVec 24) : pcOf (added s n w) n = (pcOf s n + 8) % 2 ^ 20 := by
  unfold added setPc
  exact rgF_setF_same _ _ (f := R.DBG_PC_PC) (by decide) _

theorem mem_added (s : State) (n : Nat) (w : BitVec 24) : (added s n w).mem = s.mem := by
  unfold added
  rw [addNcy_eq]
  rfl

theorem gang_stepping (s : State) (n : Nat) (on : Bool) : gang (stepping s n on) n = gang s n := rfl

/-- A single step of an ADD: the PC, the step, memory, and the halt. -/
theorem stepOp_add_effect {s : State} {n : Nat} {w : BitVec 24} (hn : n < 128) (hp : programOf s n = n)
    (hpl : (stepping (releaseHalt s n) n false).plain n = true) (hw : readVal s (bwin n + pcOf s n) 8 = 0x01000000 + w.toNat)
    (hfn : fFN w.toNat = 0) :
    pcOf (stepOp s n) n = pcOf s n + 8 ∧ (seqOf (stepOp s n) n).stepping = false ∧ (stepOp s n).mem = s.mem
      ∧ ∀ c ∈ gang s n, isHalted (stepOp s n) c = true ∧ rgF (stepOp s n) (R.DBG_STATUS c) R.DBG_STATUS_CAUSE = 3 := by
  have hrel : Steady (statusRegs (gang s n)) s (releaseHalt s n) := Steady.releaseHalt hn
  have hpcm : R.DBG_PC n % 0x1000000 ≠ 0x700810 := by unfold R.DBG_PC bwin; omega
  have hpc : pcOf (stepping (releaseHalt s n) n true) n = pcOf s n :=
    rgF_of_rg (hrel.regs _ (not_haltReg_dbgPc n) (notMem_statusRegs hpcm)) _
  have hread : readVal (stepping (releaseHalt s n) n true) (bwin n + pcOf (stepping (releaseHalt s n) n true) n) 8
      = 0x01000000 + w.toNat := by
    have hm : readDigits (stepping (releaseHalt s n) n true) = readDigits s := by
      funext a k
      exact readDigits_congr hrel.mem a k
    rw [hpc, readVal, hm]
    exact hw
  obtain ⟨u, hu⟩ : ∃ u, u = stepping (added (stepping (releaseHalt s n) n true) n w) n false := ⟨_, rfl⟩
  have he : stepOp s n = haltGang u n 3 := by
    rw [stepOp_add hp hread, execAdd_stepping hn hpl hfn, hu]
    rfl
  have hgang : gang u n = gang s n := by
    have h0 := (hrel.sameParts fun _ ha => .inl (statusRegs_mod ha)).gang n
    have h1 := (added_sameParts (stepping (releaseHalt s n) n true) hn w).gang n
    rw [hu, gang_stepping, h1, gang_stepping, h0]
  have hhalt : Steady (statusRegs (gang u n)) u (haltGang u n 3) := Steady.refl.haltGang fun c hc => mem_statusRegs hc
  have hpcu : pcOf u n = pcOf s n + 8 := by
    have hlow : pcOf s n ≤ 0x7FFF8 := by
      obtain ⟨-, -, hok, -⟩ := (State.plain_iff _ n).mp hpl
      rw [show pcOf (stepping (releaseHalt s n) n false) n = pcOf s n from hpc] at hok
      simp only [pcOk, Bool.and_eq_true, decide_eq_true_eq] at hok
      omega
    rw [hu, pcOf_stepping, pcOf_added, hpc]
    omega
  rw [he]
  refine ⟨?_, ?_, ?_, fun c hc => haltGang_three u n c (by rw [hgang]; exact hc)⟩
  · rw [← hpcu]
    exact rgF_of_rg (hhalt.regs _ (not_haltReg_dbgPc n) (notMem_statusRegs hpcm)) _
  · rw [hhalt.stepping, hu, seqOf_stepping]
  · rw [hhalt.mem, hu, ← hrel.mem]
    exact mem_added (stepping (releaseHalt s n) n true) n w

end Sys2Proof.Machine
end

section
/-! SUPPORT. Watchdogs and timers (R516, R518). -/

namespace Sys2Proof.Machine

/-! ### Registers alone -/

section
variable {s t : State} {l : List Nat} {a : Nat}

theorem State.regsOnly.setRg (h : s.regsOnly t l) (ha : a ∈ l) (v : Nat) : s.regsOnly (setRg t a v) l := by
  refine ⟨?_, fun x hx => ?_⟩
  · rw [h.1]
    rfl
  · rw [rg_setRg_other t (ne_of_mem_of_not_mem ha hx).symm, h.2 x hx]

theorem State.regsOnly.setF (h : s.regsOnly t l) (ha : a ∈ l) (f : Fld) (v : Nat) : s.regsOnly (setF t a f v) l := h.setRg ha _

theorem State.regsOnly.refl : s.regsOnly s l := ⟨rfl, fun _ _ => rfl⟩

end

/-! ### What only leaves the device and what only Rein keeps -/

/-- Nothing has changed but what left the device and what Rein keeps. -/
def SendsOnly (s t : State) : Prop := t = { s with out := t.out, rein := t.rein }

theorem SendsOnly.trans {s t u : State} (h : SendsOnly s t) (h' : SendsOnly t u) : SendsOnly s u := by
  rw [SendsOnly, h', h]

theorem SendsOnly.foldl {α : Type} {f : State → α → State} (hf : ∀ s x, SendsOnly s (f s x)) (l : List α) (s : State) :
    SendsOnly s (l.foldl f s) := by
  induction l generalizing s with
  | nil => exact (rfl : SendsOnly s s)
  | cons x l ih => exact (hf s x).trans (ih _)

theorem forwardReq_eq (s : State) (n : Nat) (r : FwdReq) : forwardReq s n r = { s with out := (forwardReq s n r).out } := by
  unfold forwardReq toLead sendCtl
  split
  · split
    · split <;> rfl
    · rfl
  · rfl

theorem forwardReq_sendsOnly (s : State) (n : Nat) (r : FwdReq) : SendsOnly s (forwardReq s n r) := by
  rw [SendsOnly, forwardReq_eq]

theorem forwardIrqs_sendsOnly (s : State) : SendsOnly s (forwardIrqs s) := by
  unfold forwardIrqs
  extract_lets n
  split
  · rfl
  · refine SendsOnly.foldl (fun s b => SendsOnly.foldl (fun s k => ?_) _ s) _ s
    extract_lets e
    split
    · rfl
    · exact SendsOnly.trans (t := { s with rein := { s.rein with fwd := s.rein.fwd ++ [e] } }) rfl (forwardReq_sendsOnly _ n _)

theorem SendsOnly.regs {s t : State} (h : SendsOnly s t) : t.regs = s.regs := by rw [h]

theorem SendsOnly.mem {s t : State} (h : SendsOnly s t) : t.mem = s.mem := by rw [h]

theorem SendsOnly.dbg {s t : State} (h : SendsOnly s t) : t.dbg = s.dbg := by rw [h]

/-! ### A register of a block's window written in full -/

section
variable {b o : Nat}

theorem inWin_window (hb : b < 128) (ho : o < 0x1000000) : inWin (o + bwin b) = true := by
  have hlo : 0x010000000000 ≤ o + bwin b := by
    unfold bwin
    omega
  have hhi : o + bwin b < 0x010080000000 := by
    unfold bwin
    omega
  simp [inWin, hlo, hhi]

theorem winBlk_window (ho : o < 0x1000000) : winBlk (o + bwin b) = b := by
  unfold winBlk bwin
  omega

theorem winOff_window (ho : o < 0x1000000) : winOff (o + bwin b) = o := by
  unfold winOff bwin
  omega

theorem keepBits_window (s : State) (hb : b < 128) (ho : o < 0x1000000) (v : Nat) :
    keepBits s (o + bwin b) v = keepBlock s b o v := by
  rw [keepBits, if_pos (inWin_window hb ho), winBlk_window ho, winOff_window ho]

/-- A write raises an interrupt at DFLAG alone. -/
theorem writePlain_window (s : State) (ho : o < 0x1000000) (hne : o ≠ 0x720010) (m v : Nat) :
    writePlain s (o + bwin b) m v = setRg s (o + bwin b) (writtenReg s (o + bwin b) m v) :=
  if_neg fun h => hne (by rw [← winOff_window (b := b) ho, h.2])

end

/-- A field with access code RW takes what a full write carries, where no rule keeps a bit. -/
theorem rgF_writePlain_rw {s : State} {a v : Nat} {c : Card} {f : Fld} (hc : cardAt a = some c) (hv : v < 2 ^ 64)
    (hkeep : ∀ x, keepBits s a x = 0) (hf : (f.hi, f.lo, Acc.rw) ∈ c.fields) :
    rgF (writePlain s a (2 ^ 64 - 1) v) a f = bits v f.hi f.lo := by
  have hhi : f.hi < 64 := Card.field_lt (fieldsOk_of_cardAt hc) hf
  refine Nat.eq_of_testBit_eq fun k => ?_
  rw [rgF, rg_writePlain_same s a _ hv, testBit_bits, testBit_bits]
  by_cases hk : k < f.hi + 1 - f.lo
  · rw [testBit_writtenReg hc (by decide) (fun x => by rw [hkeep]; decide) hf (by simp only; omega) (by simp only; omega),
      hkeep, Nat.testBit_two_pow_sub_one]
    simp [accessBit, show f.lo + k < 64 by omega]
  · simp [hk]

theorem testBit_fullMask {v k : Nat} (hk : k < 64) : (Nat.land (2 ^ 64 - 1) v).testBit k = v.testBit k := by
  rw [testBit_land, Nat.testBit_two_pow_sub_one, decide_eq_true hk, Bool.true_and]

/-! ### The watchdog -/

section
variable {s : State} {b : Nat}

theorem wdCnt_ne_bicPend : R.WD_CNT b ≠ R.BIC_PEND b := by
  unfold R.WD_CNT R.BIC_PEND
  omega

theorem wdCfg_ne_wdCnt : R.WD_CFG b ≠ R.WD_CNT b := by
  unfold R.WD_CFG R.WD_CNT
  omega

theorem wdCfg_ne_bicPend : R.WD_CFG b ≠ R.BIC_PEND b := by
  unfold R.WD_CFG R.BIC_PEND
  omega

theorem rgF_wdStart_remain : rgF (wdStart s b) (R.WD_CNT b) R.WD_CNT_REMAIN = rgF s (R.WD_CFG b) R.WD_CFG_PERIOD := by
  rw [wdStart, rgF_setF_same s _ (by decide)]
  exact Nat.mod_eq_of_lt (rgF_lt s _ R.WD_CFG_PERIOD)

/-- While EN = 0 no rule keeps a bit of WD_CFG. -/
theorem keepBits_wdCfg (hb : b < 128) (h : rgB s (R.WD_CFG b) R.WD_CFG_EN = false) (v : Nat) :
    keepBits s (R.WD_CFG b) v = 0 := by
  rw [R.WD_CFG, keepBits_window s hb (by decide)]
  simp [keepBlock, h, keepIf]

/-- Writing EN = 1 to a watchdog that is off. -/
theorem wdCfgWrite_starts {v : Nat} (hb : b < 128) (h : rgB s (R.WD_CFG b) R.WD_CFG_EN = false) (hv : v < 2 ^ 64)
    (h63 : v.testBit 63 = true) :
    s.regsOnly (wdCfgWrite s b (2 ^ 64 - 1) v) [R.WD_CFG b, R.WD_CNT b]
      ∧ rgB (wdCfgWrite s b (2 ^ 64 - 1) v) (R.WD_CFG b) R.WD_CFG_EN = true
      ∧ rgF (wdCfgWrite s b (2 ^ 64 - 1) v) (R.WD_CFG b) R.WD_CFG_PERIOD = v % 2 ^ 32
      ∧ rgF (wdCfgWrite s b (2 ^ 64 - 1) v) (R.WD_CNT b) R.WD_CNT_REMAIN = v % 2 ^ 32 := by
  have hcard : cardAt (R.WD_CFG b) = _ := (cardAt_window hb (by decide)).trans rfl
  have hread {f : Fld} (hf : (f.hi, f.lo, Acc.rw) ∈ [(63, 63, Acc.rw), (62, 62, .rw), (61, 61, .rw), (59, 32, .rw), (31, 0, .rw)]) :
      rgF (writePlain s (R.WD_CFG b) (2 ^ 64 - 1) v) (R.WD_CFG b) f = bits v f.hi f.lo :=
    rgF_writePlain_rw hcard hv (keepBits_wdCfg hb h) hf
  have hperiod : rgF (writePlain s (R.WD_CFG b) (2 ^ 64 - 1) v) (R.WD_CFG b) R.WD_CFG_PERIOD = v % 2 ^ 32 := by
    rw [hread (by decide), bits, Nat.pow_zero, Nat.div_one]
    rfl
  have he : wdCfgWrite s b (2 ^ 64 - 1) v = wdStart (writePlain s (R.WD_CFG b) (2 ^ 64 - 1) v) b :=
    if_pos (by rw [testBit_fullMask (by decide), h63])
  rw [he]
  refine ⟨?_, ?_, ?_, rgF_wdStart_remain.trans hperiod⟩
  · rw [R.WD_CFG, writePlain_window s (by decide) (by decide)]
    exact ((State.regsOnly.refl).setRg (by simp) _).setF (by simp) _ _
  · rw [wdStart, rgB_setF_other _ wdCfg_ne_wdCnt, rgB, hread (by decide), bits]
    have hbit := Nat.testBit_eq_decide_div_mod_eq (x := v) (i := 63)
    rw [h63] at hbit
    simpa using hbit.symm
  · rw [wdStart, rgF_setF_other _ wdCfg_ne_wdCnt, hperiod]

/-- A kick that is accepted. -/
theorem wdKickOp_accepted (he : rgB s (R.WD_CFG b) R.WD_CFG_EN = true) (hr : rgF s (R.WD_CNT b) R.WD_CNT_REMAIN ≠ 0)
    (hw : rgB s (R.WD_CFG b) R.WD_CFG_WIN = false) : wdKickOp s b = setF (wdStart s b) (R.WD_CNT b) R.WD_CNT_EXP 0 := by
  unfold wdKickOp
  rw [if_neg (by simp [he]), if_neg hr, if_neg (by simp [hw])]

/-- A kick in the closed half counts as an expiry. -/
theorem wdKickOp_early (he : rgB s (R.WD_CFG b) R.WD_CFG_EN = true) (hw : rgB s (R.WD_CFG b) R.WD_CFG_WIN = true)
    (hr : rgF s (R.WD_CFG b) R.WD_CFG_PERIOD - rgF s (R.WD_CFG b) R.WD_CFG_PERIOD / 2 < rgF s (R.WD_CNT b) R.WD_CNT_REMAIN) :
    wdKickOp s b = wdExpire s b := by
  have h0 : rgF s (R.WD_CNT b) R.WD_CNT_REMAIN ≠ 0 := by omega
  unfold wdKickOp
  rw [if_neg (by simp [he]), if_neg h0, if_pos (by simp [hw, hr])]

/-- The expiry's source is on its way, and a member's goes to the lead. -/
def irqRaised (s : State) (b n : Nat) : State := forwardIrqs (bicSet s b n)

theorem regs_irqRaised (s : State) (b n : Nat) : (irqRaised s b n).regs = (bicSet s b n).regs := (forwardIrqs_sendsOnly _).regs

theorem rgF_irqRaised_other {a : Nat} (h : a ≠ R.BIC_PEND b) (n : Nat) (f : Fld) : rgF (irqRaised s b n) a f = rgF s a f := by
  rw [rgF_congr (regs_irqRaised s b n), bicSet, rgF_setF_other s h]

theorem testBit_bicPend_irqRaised {n : Nat} (h : n < 64) : (rg (irqRaised s b n) (R.BIC_PEND b)).testBit n = true := by
  rw [rg_congr (regs_irqRaised s b n), bicSet, rg_setF_same s _ h, testBit_putBits, if_pos ⟨Nat.le_refl _, Nat.le_refl _⟩]
  simp

theorem mem_irqRaised (s : State) (b n : Nat) : (irqRaised s b n).mem = s.mem := by
  rw [irqRaised, (forwardIrqs_sendsOnly (bicSet s b n)).mem]
  rfl

theorem dbg_irqRaised (s : State) (b n : Nat) : (irqRaised s b n).dbg = s.dbg := by
  rw [irqRaised, (forwardIrqs_sendsOnly (bicSet s b n)).dbg]
  rfl

/-- An expiry before Girth hears of it: WDOG, the next window, EXP. -/
def wdNext (s : State) (b : Nat) : State :=
  setF (wdStart (irqRaised s b 0) b) (R.WD_CNT b) R.WD_CNT_EXP (min 2 (rgF s (R.WD_CNT b) R.WD_CNT_EXP + 1))

theorem wdExpire_eq (s : State) (b : Nat) : wdExpire s b
    = if rgF s (R.WD_CNT b) R.WD_CNT_EXP = 1 ∧ rgB s (R.WD_CFG b) R.WD_CFG_GIRTH then girthRaise (wdNext s b) 5 (partOf s b)
      else wdNext s b := rfl

theorem dbg_wdNext (s : State) (b : Nat) : (wdNext s b).dbg = s.dbg := by
  rw [wdNext, setF, setRg_dbg, wdStart, setF, setRg_dbg, dbg_irqRaised]

theorem wdNext_effect (s : State) (b : Nat) : (rg (wdNext s b) (R.BIC_PEND b)).testBit 0 = true
    ∧ rgF (wdNext s b) (R.WD_CNT b) R.WD_CNT_REMAIN = rgF s (R.WD_CFG b) R.WD_CFG_PERIOD
    ∧ rgF (wdNext s b) (R.WD_CNT b) R.WD_CNT_EXP = min 2 (rgF s (R.WD_CNT b) R.WD_CNT_EXP + 1)
    ∧ (wdNext s b).mem = s.mem := by
  refine ⟨?_, ?_, ?_, ?_⟩
  · rw [wdNext, wdStart, rg_setF_other _ wdCnt_ne_bicPend.symm, rg_setF_other _ wdCnt_ne_bicPend.symm,
      testBit_bicPend_irqRaised (by decide)]
  · rw [wdNext, rgF_setF_field _ _ (by decide) (by decide), rgF_wdStart_remain, rgF_irqRaised_other wdCfg_ne_bicPend]
  · rw [wdNext, rgF_setF_same _ _ (by decide)]
    exact Nat.mod_eq_of_lt (lt_of_le_of_lt (min_le_left 2 _) (by decide))
  · rw [wdNext, setF, setRg_mem, wdStart, setF, setRg_mem, mem_irqRaised]

theorem regs_girthRaise (t : State) (src : Nat) (p : Option Nat) : (girthRaise t src p).regs = t.regs := rfl

theorem mem_girthRaise (t : State) (src : Nat) (p : Option Nat) : (girthRaise t src p).mem = t.mem := rfl

theorem wdExpire_effect (s : State) (b : Nat) : (rg (wdExpire s b) (R.BIC_PEND b)).testBit 0 = true
    ∧ rgF (wdExpire s b) (R.WD_CNT b) R.WD_CNT_REMAIN = rgF s (R.WD_CFG b) R.WD_CFG_PERIOD
    ∧ rgF (wdExpire s b) (R.WD_CNT b) R.WD_CNT_EXP = min 2 (rgF s (R.WD_CNT b) R.WD_CNT_EXP + 1)
    ∧ (wdExpire s b).mem = s.mem := by
  rw [wdExpire_eq]
  split
  · have hr := regs_girthRaise (wdNext s b) 5 (partOf s b)
    rw [rg_congr hr, rgF_congr hr, rgF_congr hr, mem_girthRaise]
    exact wdNext_effect s b
  · exact wdNext_effect s b

/-- What Girth raises follows from the channels' registers and its own list alone. -/
theorem girthRaise_girth_congr {t : State} (hr : ∀ n, n < 8 → rg t (R.GIRTH_CH n) = rg s (R.GIRTH_CH n))
    (hd : t.dbg.girth = s.dbg.girth) (src : Nat) (p : Option Nat) :
    (girthRaise t src p).dbg.girth = (girthRaise s src p).dbg.girth := by
  simp only [girthRaise, hd]
  congr 1
  refine List.filter_congr fun n hn => ?_
  have h := hr n (List.mem_range.mp hn)
  rw [rgB_of_rg h, rgB_of_rg h, rgF_of_rg h, rgF_of_rg h]

theorem rg_wdNext_girthCh {n : Nat} (hn : n < 8) : rg (wdNext s b) (R.GIRTH_CH n) = rg s (R.GIRTH_CH n) := by
  have hcnt : R.GIRTH_CH n ≠ R.WD_CNT b := by
    unfold R.GIRTH_CH R.WD_CNT bwin chipCtl
    omega
  have hpend : R.GIRTH_CH n ≠ R.BIC_PEND b := by
    unfold R.GIRTH_CH R.BIC_PEND bwin chipCtl
    omega
  rw [wdNext, wdStart, rg_setF_other _ hcnt, rg_setF_other _ hcnt, rg_congr (regs_irqRaised s b 0), bicSet,
    rg_setF_other _ hpend]

/-- The second expiry in succession is Girth's source 5. -/
theorem wdExpire_girth (he : rgF s (R.WD_CNT b) R.WD_CNT_EXP = 1)
    (hg : rgB s (R.WD_CFG b) R.WD_CFG_GIRTH = true) :
    (wdExpire s b).dbg.girth = (girthRaise s 5 (partOf s b)).dbg.girth := by
  rw [wdExpire_eq, if_pos ⟨he, hg⟩]
  exact girthRaise_girth_congr (fun n hn => rg_wdNext_girthCh hn)
    (congrArg DbgSt.girth (dbg_wdNext s b)) 5 _

theorem exec_wdExpiry {c : Blk} (he : rgB s (R.WD_CFG c.toNat) R.WD_CFG_EN = true)
    (hr : rgF s (R.WD_CNT c.toNat) R.WD_CNT_REMAIN = 0) (hf : frozen s c.toNat R.DBG_CTRL_FZWD = false) :
    exec (.wdExpiry c) s = .next (wdExpire s c.toNat) :=
  congrArg Host.Outcome.next (if_pos (by simp [he, hr, hf]))

theorem exec_wdExpiry_frozen {c : Blk} (hf : frozen s c.toNat R.DBG_CTRL_FZWD = true) : exec (.wdExpiry c) s = .next s :=
  congrArg Host.Outcome.next (if_neg (by simp [hf]))

end

/-! ### Timers -/

section
variable {s : State} {b : Nat}

theorem tmr_ne_bicPend (i : BitVec 2) : R.TMR b i.toNat ≠ R.BIC_PEND b := by
  unfold R.TMR R.BIC_PEND
  omega

/-- The card of the four timers. -/
theorem cardIn_tmr : ∀ i : BitVec 2, cardIn (0x700880 + 0x10 * i.toNat) blockCards
    = some ⟨0x700880, [(4, 0x10)], 64, 0x0, [(63, 63, .rw), (62, 62, .rw), (55, 28, .ro), (27, 0, .rw)]⟩ := by decide

theorem keepBits_tmr (hb : b < 128) (i : BitVec 2) (v : Nat) : keepBits s (R.TMR b i.toNat) v = 0 := by
  rw [R.TMR, keepBits_window s hb (by omega)]
  unfold keepBlock
  iterate 6 rw [if_neg (by omega)]

/-- Writing EN = 1 loads REMAIN. -/
theorem timerWrite_starts {v : Nat} (hb : b < 128) (i : BitVec 2) (hv : v < 2 ^ 64) (h63 : v.testBit 63 = true) :
    s.regsOnly (timerWrite s b i.toNat (2 ^ 64 - 1) v) [R.TMR b i.toNat]
      ∧ rgB (timerWrite s b i.toNat (2 ^ 64 - 1) v) (R.TMR b i.toNat) R.TMR_EN = true
      ∧ rgF (timerWrite s b i.toNat (2 ^ 64 - 1) v) (R.TMR b i.toNat) R.TMR_PERIOD = v % 2 ^ 28
      ∧ rgF (timerWrite s b i.toNat (2 ^ 64 - 1) v) (R.TMR b i.toNat) R.TMR_REMAIN = v % 2 ^ 28 := by
  have ho : 0x700880 + 0x10 * i.toNat < 0x1000000 := by omega
  have hcard : cardAt (R.TMR b i.toNat) = _ := (cardAt_window hb ho).trans (cardIn_tmr i)
  have hread {f : Fld} (hf : (f.hi, f.lo, Acc.rw) ∈ [(63, 63, Acc.rw), (62, 62, .rw), (55, 28, .ro), (27, 0, .rw)]) :
      rgF (writePlain s (R.TMR b i.toNat) (2 ^ 64 - 1) v) (R.TMR b i.toNat) f = bits v f.hi f.lo :=
    rgF_writePlain_rw hcard hv (keepBits_tmr hb i) hf
  have hperiod : rgF (writePlain s (R.TMR b i.toNat) (2 ^ 64 - 1) v) (R.TMR b i.toNat) R.TMR_PERIOD = v % 2 ^ 28 := by
    rw [hread (by decide), bits, Nat.pow_zero, Nat.div_one]
    rfl
  have he : timerWrite s b i.toNat (2 ^ 64 - 1) v = setF (writePlain s (R.TMR b i.toNat) (2 ^ 64 - 1) v) (R.TMR b i.toNat)
      R.TMR_REMAIN (rgF (writePlain s (R.TMR b i.toNat) (2 ^ 64 - 1) v) (R.TMR b i.toNat) R.TMR_PERIOD) :=
    if_pos (by rw [testBit_fullMask (by decide), h63])
  rw [he, hperiod]
  refine ⟨?_, ?_, ?_, ?_⟩
  · rw [R.TMR, writePlain_window s ho (by omega)]
    exact ((State.regsOnly.refl).setRg (by simp) _).setF (by simp) _ _
  · rw [rgB_setF_field _ _ (by decide) (by decide), rgB, hread (by decide), bits]
    have hbit := Nat.testBit_eq_decide_div_mod_eq (x := v) (i := 63)
    rw [h63] at hbit
    simpa using hbit.symm
  · rw [rgF_setF_field _ _ (by decide) (by decide), hperiod]
  · rw [rgF_setF_same _ _ (by decide)]
    exact Nat.mod_eq_of_lt (Nat.mod_lt _ (by decide))

/-- A timer that expires goes on when it is periodic, and ends otherwise. -/
def timerNext (s : State) (b n : Nat) : State :=
  if rgB s (R.TMR b n) R.TMR_PER then
    setF (irqRaised s b (1 + n)) (R.TMR b n) R.TMR_REMAIN (rgF s (R.TMR b n) R.TMR_PERIOD)
  else setB (irqRaised s b (1 + n)) (R.TMR b n) R.TMR_EN false

theorem exec_timerExpiry {c : Blk} {i : BitVec 2} (he : rgB s (R.TMR c.toNat i.toNat) R.TMR_EN = true)
    (hr : rgF s (R.TMR c.toNat i.toNat) R.TMR_REMAIN = 0) (hf : frozen s c.toNat R.DBG_CTRL_FZTMR = false) :
    exec (.timerExpiry c i) s = .next (timerNext s c.toNat i.toNat) :=
  congrArg Host.Outcome.next (if_pos (by simp [he, hr, hf]))

/-- One field of the timer is written after its source is raised. -/
theorem timerNext_cases (s : State) (b n : Nat) :
    ∃ f v, timerNext s b n = setF (irqRaised s b (1 + n)) (R.TMR b n) f v := by
  unfold timerNext
  split
  · exact ⟨_, _, rfl⟩
  · exact ⟨R.TMR_EN, 0, rfl⟩

theorem timerNext_raises (s : State) (b : Nat) (i : BitVec 2) :
    (rg (timerNext s b i.toNat) (R.BIC_PEND b)).testBit (1 + i.toNat) = true := by
  obtain ⟨f, v, he⟩ := timerNext_cases s b i.toNat
  rw [he, rg_setF_other _ (tmr_ne_bicPend i).symm, testBit_bicPend_irqRaised (by omega)]

theorem timerNext_regsOnly (s : State) (b n : Nat) :
    s.regsOnly { timerNext s b n with out := s.out, rein := s.rein } [R.TMR b n, R.BIC_PEND b] := by
  obtain ⟨f, v, he⟩ := timerNext_cases s b n
  refine ⟨?_, fun a ha => ?_⟩
  · rw [he, irqRaised, forwardIrqs_sendsOnly (bicSet s b (1 + n))]
    rfl
  · have h1 : a ≠ R.TMR b n := fun e => ha (by simp [e])
    have h2 : a ≠ R.BIC_PEND b := fun e => ha (by simp [e])
    have hr : rg (timerNext s b n) a = rg s a := by
      rw [he, rg_setF_other _ h1, rg_congr (regs_irqRaised s b (1 + n)), bicSet, rg_setF_other _ h2]
    exact hr

theorem timerNext_periodic {i : BitVec 2} (h : rgB s (R.TMR b i.toNat) R.TMR_PER = true) :
    rgF (timerNext s b i.toNat) (R.TMR b i.toNat) R.TMR_REMAIN = rgF s (R.TMR b i.toNat) R.TMR_PERIOD
      ∧ rgB (timerNext s b i.toNat) (R.TMR b i.toNat) R.TMR_EN = rgB s (R.TMR b i.toNat) R.TMR_EN := by
  rw [timerNext, if_pos h]
  constructor
  · rw [rgF_setF_same _ _ (by decide)]
    exact Nat.mod_eq_of_lt (rgF_lt s _ R.TMR_PERIOD)
  · rw [rgB_setF_field _ _ (by decide) (by decide), rgB, rgF_irqRaised_other (tmr_ne_bicPend i), rgB]

theorem timerNext_once {n : Nat} (h : rgB s (R.TMR b n) R.TMR_PER = false) :
    rgB (timerNext s b n) (R.TMR b n) R.TMR_EN = false := by
  rw [timerNext, if_neg (by simp [h]), rgB_setB_same _ _ (by decide) rfl]

end

end Sys2Proof.Machine
end

section
/-! Halts, single steps, Girth, watchdogs and timers (R507-R518). -/

namespace Sys2Proof.Machine

/-! ### The commands -/

theorem exec_haltreq (s : State) (b : Blk) : ∃ t, exec (.haltreq b) s = .next t
    ∧ s.regsOnly { t with out := s.out } [R.DBG_CTRL b.toNat] ∧ rgB t (R.DBG_CTRL b.toNat) R.DBG_CTRL_HALTREQ = true := by
  have hset : s.regsOnly (setB s (R.DBG_CTRL b.toNat) R.DBG_CTRL_HALTREQ true) [R.DBG_CTRL b.toNat] :=
    State.regsOnly.refl.setF (by simp) _ _
  have hread := rgB_setB_same s (R.DBG_CTRL b.toNat) (f := R.DBG_CTRL_HALTREQ) (by decide) rfl true
  cases hp : partOf s b.toNat with
  | none => exact ⟨_, congrArg Host.Outcome.next (by rw [hp]), hset, hread⟩
  | some n =>
    refine ⟨forwardReq (setB s (R.DBG_CTRL b.toNat) R.DBG_CTRL_HALTREQ true) n .halt,
      congrArg Host.Outcome.next (by rw [hp]), ?_, ?_⟩
    · rw [forwardReq_eq]
      exact hset
    · rw [forwardReq_eq]
      exact hread

theorem exec_dbgStep {s : State} {b : Blk} (hr : releasable s b.toNat = true)
    (hs : rgB s (R.DBG_STATUS b.toNat) R.DBG_STATUS_STOPPED = false) : exec (.dbgStep b) s = .next (stepOp s b.toNat) :=
  congrArg Host.Outcome.next (if_pos (by rw [hr, hs]; rfl))

theorem exec_dbgStep_ignored {s : State} {b : Blk} (hr : releasable s b.toNat = false) : exec (.dbgStep b) s = .next s :=
  congrArg Host.Outcome.next (if_neg (by rw [hr, Bool.false_and]; decide))

theorem exec_girthFire_lower {s : State} {n src : BitVec 3} (h : girthLower s n.toNat = true) :
    exec (.girthFire n src) s = .next s :=
  congrArg Host.Outcome.next (if_neg (by rw [h, Bool.not_true, Bool.and_false]; decide))

theorem girthFireOp_timeTaken (s : State) (n : BitVec 3) :
    girthTimeDue (girthFireOp (girthTaken s n.toNat 3) n.toNat) n.toNat = false := by
  obtain ⟨-, hat, -, hnow⟩ := girthFireOp_leaves (girthTaken s n.toNat 3) n
  exact girthTimeDue_of_taken (s := s) hat hnow

/-- Settles O55: each command's operation is followed through the few registers and fields that it may change. -/
theorem debugAndTimers : Obligations.DebugAndTimers := by
  unfold Obligations.DebugAndTimers
  refine ⟨fun s b => ⟨exec_haltreq s b, fun h => ⟨_, rfl, (Steady.releaseHalt b.isLt).mem, releaseHalt_released b.isLt h⟩,
      fun h => congrArg Host.Outcome.next (releaseHalt_of_not h),
      fun w hr hs hp hpl hw hfn => ⟨_, exec_dbgStep hr hs, stepOp_add_effect b.isLt hp hpl hw hfn⟩, exec_dbgStep_ignored⟩,
    fun s n src => exec_girthFire_lower, fun s n m => girthLower_of_time, fun s n src hl hd => ?_,
    fun s v => ⟨_, rfl, rfl, fun n hn hv => girthTrigOp_girth hn hv⟩, fun s v => ⟨_, rfl, girthReleaseOp_effect s v.toNat⟩,
    fun s h => ⟨_, rfl, girthRelchipOp_effect h⟩, fun s b => ⟨fun v he hv => ?_, fun he hr hw => ?_, fun he hw hr => ?_,
      fun he hr hf => ?_, exec_wdExpiry_frozen⟩, fun s b i => ⟨fun v hv => ?_, fun he hr hf => ?_⟩⟩
  · obtain ⟨hfired, htime, hirq⟩ := girthFireOp_stat (girthTaken s n.toNat src.toNat) n
    obtain ⟨hgirth, -, hmem, -⟩ := girthFireOp_leaves (girthTaken s n.toNat src.toNat) n
    have hstop := girthFireOp_stops (girthTaken s n.toNat src.toNat) n
    refine ⟨_, exec_girthFire hl hd, hfired, htime, hgirth, hmem, ?_, ?_⟩
    · rintro rfl
      exact girthFireOp_timeTaken s n
    · exact ⟨fun h => (hstop h).1, fun h => (hstop h).2.1, fun h => (hstop h).2.2, hirq⟩
  · exact ⟨_, rfl, wdCfgWrite_starts b.isLt he v.isLt hv⟩
  · refine ⟨_, congrArg Host.Outcome.next (wdKickOp_accepted he hr hw),
      (State.regsOnly.refl.setF (by simp) _ _).setF (by simp) _ _, ?_, ?_⟩
    · rw [rgF_setF_field _ _ (by decide) (by decide), rgF_wdStart_remain]
    · rw [rgF_setF_same _ _ (by decide), Nat.zero_mod]
  · exact ⟨_, congrArg Host.Outcome.next (wdKickOp_early he hw hr), wdExpire_effect s b.toNat⟩
  · exact ⟨_, exec_wdExpiry he hr hf, wdExpire_effect s b.toNat, wdExpire_girth⟩
  · exact ⟨_, rfl, timerWrite_starts b.isLt i v.isLt hv⟩
  · refine ⟨_, exec_timerExpiry he hr hf, timerNext_raises s b.toNat i, timerNext_regsOnly s b.toNat i.toNat, fun hp => ?_,
      timerNext_once⟩
    obtain ⟨hrem, hen⟩ := timerNext_periodic hp
    exact ⟨hrem, hen.trans he⟩

end Sys2Proof.Machine
end

section
/-! SUPPORT. Footprints: what an operation may change of the state, by its parts and its registers. -/

namespace Sys2Proof.Machine

/-! ### The relation -/

/-- The parts of the state beside its registers. -/
inductive Piece where
  | mem | cells | seqs | stores | csFlip | flaws | keys | pages | foldHome | jdead | cfg | img | epochs | host | mesh | dram | dma
  | irq | pwr | sec | sb | rein | dbg | out | free | time | pins
  deriving DecidableEq

/-- What a part is made of; `stores` stands for the customer stores and dispatch entries with their shadows, `time` for the
queue, TIMEBASE and the clock, `pins` for what the package's pins have set. -/
def Piece.Carrier : Piece → Type
  | .mem => List Host.Cell
  | .cells => List (Nat × Cell)
  | .seqs => List (Nat × Seq)
  | .stores => List (Nat × BitVec 196) × List (Nat × Word) × List (Nat × BitVec 196) × List (Nat × Word) × List Nat
  | .csFlip => List (Nat × BitVec 196)
  | .flaws => List (Nat × Bool)
  | .keys => List (Nat × Byte)
  | .pages => List Nat
  | .foldHome => List (Nat × Nat)
  | .jdead => List (Nat × BitVec 9)
  | .cfg => Settings
  | .img => Option ImgLoad
  | .epochs => List (Nat × Epoch)
  | .host => HostSt
  | .mesh => MeshSt
  | .dram => DramSt
  | .dma => List (Nat × DmaRun)
  | .irq => IrqSt
  | .pwr => PwrSt
  | .sec => SecSt
  | .sb => SbSt
  | .rein => ReinSt
  | .dbg => DbgSt
  | .out => List Out
  | .free => Nat
  | .time => List Instr × Word × Bool × Nat
  | .pins => Bool × Bool × Bool × Bool × Bool × Bool × Bool

/-- A part of the state. -/
def Piece.get : (x : Piece) → State → x.Carrier
  | .mem, s => s.mem
  | .cells, s => s.cells
  | .seqs, s => s.seqs
  | .stores, s => (s.cs, s.dt, s.csSh, s.dtSh, s.dtBad)
  | .csFlip, s => s.csFlip
  | .flaws, s => s.flaws
  | .keys, s => s.keys
  | .pages, s => s.pages
  | .foldHome, s => s.foldHome
  | .jdead, s => s.jdead
  | .cfg, s => s.cfg
  | .img, s => s.img
  | .epochs, s => s.epochs
  | .host, s => s.host
  | .mesh, s => s.mesh
  | .dram, s => s.dram
  | .dma, s => s.dma
  | .irq, s => s.irq
  | .pwr, s => s.pwr
  | .sec, s => s.sec
  | .sb, s => s.sb
  | .rein, s => s.rein
  | .dbg, s => s.dbg
  | .out, s => s.out
  | .free, s => s.free
  | .time, s => (s.pending, s.timebase, s.tbRun, s.nclk)
  | .pins, s => (s.powered, s.perst, s.perstLow, s.testEn, s.refLost, s.refPerst, s.thermLatch)

/-- That part replaced. -/
def Piece.put : (x : Piece) → x.Carrier → State → State
  | .mem, v, s => { s with mem := v }
  | .cells, v, s => { s with cells := v }
  | .seqs, v, s => { s with seqs := v }
  | .stores, (cs, dt, csSh, dtSh, dtBad), s => { s with cs := cs, dt := dt, csSh := csSh, dtSh := dtSh, dtBad := dtBad }
  | .csFlip, v, s => { s with csFlip := v }
  | .flaws, v, s => { s with flaws := v }
  | .keys, v, s => { s with keys := v }
  | .pages, v, s => { s with pages := v }
  | .foldHome, v, s => { s with foldHome := v }
  | .jdead, v, s => { s with jdead := v }
  | .cfg, v, s => { s with cfg := v }
  | .img, v, s => { s with img := v }
  | .epochs, v, s => { s with epochs := v }
  | .host, v, s => { s with host := v }
  | .mesh, v, s => { s with mesh := v }
  | .dram, v, s => { s with dram := v }
  | .dma, v, s => { s with dma := v }
  | .irq, v, s => { s with irq := v }
  | .pwr, v, s => { s with pwr := v }
  | .sec, v, s => { s with sec := v }
  | .sb, v, s => { s with sb := v }
  | .rein, v, s => { s with rein := v }
  | .dbg, v, s => { s with dbg := v }
  | .out, v, s => { s with out := v }
  | .free, v, s => { s with free := v }
  | .time, (pending, timebase, tbRun, nclk), s => { s with pending := pending, timebase := timebase, tbRun := tbRun, nclk := nclk }
  | .pins, (powered, perst, perstLow, testEn, refLost, refPerst, thermLatch), s =>
    { s with powered := powered, perst := perst, perstLow := perstLow, testEn := testEn, refLost := refLost, refPerst := refPerst
             thermLatch := thermLatch }

theorem Piece.put_regs (x : Piece) (v : x.Carrier) (s : State) : (x.put v s).regs = s.regs := by cases x <;> rfl

theorem Piece.get_put_other {x y : Piece} (v : x.Carrier) (s : State) (h : y ≠ x) : y.get (x.put v s) = y.get s := by
  cases x <;> cases y <;> trivial

/-- t differs from s at most in the parts of F and in the registers of A. -/
structure Within (F : List Piece) (A : Nat → Prop) (s t : State) : Prop where
  keeps : ∀ x, x ∉ F → x.get t = x.get s
  regs : ∀ a, ¬ A a → rg t a = rg s a

section
variable {F F' : List Piece} {A A' : Nat → Prop} {s₀ s t : State} {α : Type}

theorem Within.refl : Within F A s s := ⟨fun _ _ => rfl, fun _ _ => rfl⟩

theorem Within.trans (h : Within F A s₀ s) (h' : Within F A s t) : Within F A s₀ t :=
  ⟨fun x hx => (h'.keeps x hx).trans (h.keeps x hx), fun a ha => (h'.regs a ha).trans (h.regs a ha)⟩

theorem Within.mono (h : Within F' A' s t) (hA : ∀ a, A' a → A a) (hF : F' ⊆ F) : Within F A s t :=
  ⟨fun x hx => h.keeps x fun hm => hx (hF hm), fun a ha => h.regs a fun hm => ha (hA a hm)⟩

/-- A step of a smaller footprint follows. -/
theorem Within.andThen (h : Within F A s₀ s) (h' : Within F' A' s t) (hF : F' ⊆ F) (hA : ∀ a, A' a → A a) :
    Within F A s₀ t := h.trans (h'.mono hA hF)

/-! ### What stays -/

theorem Within.mem (h : Within F A s t) (hF : .mem ∉ F) : t.mem = s.mem := h.keeps .mem hF
theorem Within.cells (h : Within F A s t) (hF : .cells ∉ F) : t.cells = s.cells := h.keeps .cells hF
theorem Within.seqs (h : Within F A s t) (hF : .seqs ∉ F) : t.seqs = s.seqs := h.keeps .seqs hF
theorem Within.keys (h : Within F A s t) (hF : .keys ∉ F) : t.keys = s.keys := h.keeps .keys hF
theorem Within.foldHome (h : Within F A s t) (hF : .foldHome ∉ F) : t.foldHome = s.foldHome := h.keeps .foldHome hF
theorem Within.jdead (h : Within F A s t) (hF : .jdead ∉ F) : t.jdead = s.jdead := h.keeps .jdead hF
theorem Within.cfg (h : Within F A s t) (hF : .cfg ∉ F) : t.cfg = s.cfg := h.keeps .cfg hF
theorem Within.img (h : Within F A s t) (hF : .img ∉ F) : t.img = s.img := h.keeps .img hF
theorem Within.epochs (h : Within F A s t) (hF : .epochs ∉ F) : t.epochs = s.epochs := h.keeps .epochs hF
theorem Within.host (h : Within F A s t) (hF : .host ∉ F) : t.host = s.host := h.keeps .host hF
theorem Within.mesh (h : Within F A s t) (hF : .mesh ∉ F) : t.mesh = s.mesh := h.keeps .mesh hF
theorem Within.dram (h : Within F A s t) (hF : .dram ∉ F) : t.dram = s.dram := h.keeps .dram hF
theorem Within.pwr (h : Within F A s t) (hF : .pwr ∉ F) : t.pwr = s.pwr := h.keeps .pwr hF
theorem Within.sb (h : Within F A s t) (hF : .sb ∉ F) : t.sb = s.sb := h.keeps .sb hF
theorem Within.rein (h : Within F A s t) (hF : .rein ∉ F) : t.rein = s.rein := h.keeps .rein hF
theorem Within.dbg (h : Within F A s t) (hF : .dbg ∉ F) : t.dbg = s.dbg := h.keeps .dbg hF
theorem Within.out (h : Within F A s t) (hF : .out ∉ F) : t.out = s.out := h.keeps .out hF

theorem Within.timebase (h : Within F A s t) (hF : .time ∉ F) : t.timebase = s.timebase :=
  congrArg (fun p : List Instr × Word × Bool × Nat => p.2.1) (h.keeps .time hF)
theorem Within.nclk (h : Within F A s t) (hF : .time ∉ F) : t.nclk = s.nclk :=
  congrArg (fun p : List Instr × Word × Bool × Nat => p.2.2.2) (h.keeps .time hF)

theorem Within.tbRun (h : Within F A s t) (hF : .time ∉ F) : t.tbRun = s.tbRun :=
  congrArg (fun p : List Instr × Word × Bool × Nat => p.2.2.1) (h.keeps .time hF)
theorem Within.perst (h : Within F A s t) (hF : .pins ∉ F) : t.perst = s.perst :=
  congrArg (fun p : Bool × Bool × Bool × Bool × Bool × Bool × Bool => p.2.1) (h.keeps .pins hF)

theorem Within.perstLow (h : Within F A s t) (hF : .pins ∉ F) : t.perstLow = s.perstLow :=
  congrArg (fun p : Bool × Bool × Bool × Bool × Bool × Bool × Bool => p.2.2.1) (h.keeps .pins hF)
theorem Within.testEn (h : Within F A s t) (hF : .pins ∉ F) : t.testEn = s.testEn :=
  congrArg (fun p : Bool × Bool × Bool × Bool × Bool × Bool × Bool => p.2.2.2.1) (h.keeps .pins hF)
theorem Within.refLost (h : Within F A s t) (hF : .pins ∉ F) : t.refLost = s.refLost :=
  congrArg (fun p : Bool × Bool × Bool × Bool × Bool × Bool × Bool => p.2.2.2.2.1) (h.keeps .pins hF)
theorem Within.refPerst (h : Within F A s t) (hF : .pins ∉ F) : t.refPerst = s.refPerst :=
  congrArg (fun p : Bool × Bool × Bool × Bool × Bool × Bool × Bool => p.2.2.2.2.2.1) (h.keeps .pins hF)
theorem Within.thermLatch (h : Within F A s t) (hF : .pins ∉ F) : t.thermLatch = s.thermLatch :=
  congrArg (fun p : Bool × Bool × Bool × Bool × Bool × Bool × Bool => p.2.2.2.2.2.2) (h.keeps .pins hF)

theorem Within.rgF (h : Within F A s t) {a : Nat} (ha : ¬ A a) (f : Fld) : rgF t a f = rgF s a f := rgF_of_rg (h.regs a ha) f

theorem Within.rgB (h : Within F A s t) {a : Nat} (ha : ¬ A a) (f : Fld) : rgB t a f = rgB s a f := rgB_of_rg (h.regs a ha) f

theorem Within.seqOf (h : Within F A s t) (b : Nat) (hF : .seqs ∉ F) : seqOf t b = seqOf s b := by
  rw [Machine.seqOf, h.seqs hF, Machine.seqOf]

theorem Within.epochOf (h : Within F A s t) (n : Nat) (hF : .epochs ∉ F) : epochOf t n = epochOf s n := by
  rw [Machine.epochOf, h.epochs hF, Machine.epochOf]

/-! ### Steps -/

/-- A step that replaces part x. -/
theorem Within.put (h : Within F A s₀ s) (x : Piece) {v : x.Carrier} (hx : x ∈ F) : Within F A s₀ (x.put v s) :=
  ⟨fun y hy => (Piece.get_put_other v s fun e : y = x => hy (e ▸ hx)).trans (h.keeps y hy),
    fun a ha => (rg_congr (x.put_regs v s) a).trans (h.regs a ha)⟩

theorem Within.setStores {cs dt csSh dtSh dtBad} (h : Within F A s₀ s) (hF : .stores ∈ F) :
    Within F A s₀ { s with cs := cs, dt := dt, csSh := csSh, dtSh := dtSh, dtBad := dtBad } :=
  h.put .stores (v := (cs, dt, csSh, dtSh, dtBad)) hF

theorem Within.setSeq {b : Nat} {q : Seq} (h : Within F A s₀ s) (hF : .seqs ∈ F) : Within F A s₀ (setSeq s b q) :=
  h.put .seqs hF

theorem Within.updSeq {b : Nat} {f : Seq → Seq} (h : Within F A s₀ s) (hF : .seqs ∈ F) :
    Within F A s₀ (updSeq s b f) := h.setSeq hF

theorem Within.updEpoch {n : Nat} {f : Epoch → Epoch} (h : Within F A s₀ s) (hF : .epochs ∈ F) :
    Within F A s₀ (updEpoch s n f) := h.put .epochs hF

theorem Within.emit {o : Out} (h : Within F A s₀ s) (hF : .out ∈ F) : Within F A s₀ (emit s o) := h.put .out hF

theorem Within.takeFree (h : Within F A s₀ s) (hF : .free ∈ F) : Within F A s₀ (takeFree s) := h.put .free hF

theorem Piece.get_setRg (x : Piece) (s : State) (a v : Nat) : x.get (setRg s a v) = x.get s := by cases x <;> rfl

theorem Within.setRg {a v : Nat} (h : Within F A s₀ s) (ha : A a) : Within F A s₀ (setRg s a v) :=
  ⟨fun x hx => (x.get_setRg s a v).trans (h.keeps x hx), fun c hc =>
    (rg_setRg_other s (fun e : c = a => hc (e ▸ ha)) v).trans (h.regs c hc)⟩

theorem Within.setF {a : Nat} {f : Fld} {v : Nat} (h : Within F A s₀ s) (ha : A a) : Within F A s₀ (setF s a f v) := h.setRg ha

theorem Within.setB {a : Nat} {f : Fld} {v : Bool} (h : Within F A s₀ s) (ha : A a) : Within F A s₀ (setB s a f v) := h.setF ha

theorem Within.addSat {a : Nat} {f : Fld} {v : Nat} (h : Within F A s₀ s) (ha : A a) : Within F A s₀ (addSat s a f v) := h.setF ha

theorem Within.branch {c : Prop} [Decidable c] {x a b : State} (h : Within F A s₀ x) (ha : Within F A s₀ x → Within F A s₀ a)
    (hb : Within F A s₀ x → Within F A s₀ b) : Within F A s₀ (if c then a else b) := by
  split
  exacts [ha h, hb h]

theorem Within.when {c : Prop} [Decidable c] {x a : State} (h : Within F A s₀ x) (ha : Within F A s₀ x → Within F A s₀ a) :
    Within F A s₀ (if c then a else x) := h.branch ha id

theorem Within.unless {c : Prop} [Decidable c] {x b : State} (h : Within F A s₀ x) (hb : Within F A s₀ x → Within F A s₀ b) :
    Within F A s₀ (if c then x else b) := h.branch id hb

theorem Within.foldlMem {l : List α} {f : State → α → State} (h : Within F A s₀ s)
    (k : ∀ {t}, ∀ y ∈ l, Within F A s₀ t → Within F A s₀ (f t y)) : Within F A s₀ (l.foldl f s) := by
  induction l generalizing s with
  | nil => exact h
  | cons y l ih => exact ih (k y (by simp) h) fun y hy => k y (by simp [hy])

theorem Within.foldl {l : List α} {f : State → α → State} (h : Within F A s₀ s)
    (k : ∀ {t} y, Within F A s₀ t → Within F A s₀ (f t y)) : Within F A s₀ (l.foldl f s) := h.foldlMem fun y _ => k y

theorem Within.forEachMem {l : List α} {f : State → α → State} (h : Within F A s₀ s)
    (k : ∀ {t}, ∀ y ∈ l, Within F A s₀ t → Within F A s₀ (f t y)) : Within F A s₀ (forEach l f s) := h.foldlMem k

theorem Within.forEach {l : List α} {f : State → α → State} (h : Within F A s₀ s)
    (k : ∀ {t} y, Within F A s₀ t → Within F A s₀ (f t y)) : Within F A s₀ (forEach l f s) := h.foldl k

theorem Within.iter {n : Nat} {f : Nat → State → State} (h : Within F A s₀ s)
    (k : ∀ {t} i, Within F A s₀ t → Within F A s₀ (f i t)) : Within F A s₀ (iter n f s) := h.foldl k

end

end Sys2Proof.Machine
end

section
/-! SUPPORT. The footprints of halts, boundaries, completions and of what concealment does (R377, R384, R390, R407, R434). -/

namespace Sys2Proof.Machine

/-! ### Halts and stops -/

/-- What a halt or a stop changes beside the registers: sequencers, the accesses that waited for their control stores, and what
leaves the device. -/
def haltParts : List Piece := [.seqs, .stores, .out]

/-- The registers of a block that halts, stops and releases change: DBG_STATUS, ARR_SUSP, CS_FP, MC_STATUS and WD_CNT. -/
def stopReg (a : Nat) : Prop :=
  a % 0x1000000 = 0x700810 ∨ a % 0x1000000 = 0x720030 ∨ a % 0x1000000 = 0x730030 ∨ a % 0x1000000 = 0x730020
    ∨ a % 0x1000000 = 0x700850

theorem stopReg_dbgStatus (b : Nat) : stopReg (R.DBG_STATUS b) := by unfold stopReg R.DBG_STATUS bwin; omega
theorem stopReg_arrSusp (b : Nat) : stopReg (R.ARR_SUSP b) := by unfold stopReg R.ARR_SUSP bwin; omega
theorem stopReg_csFp (b : Nat) : stopReg (R.CS_FP b) := by unfold stopReg R.CS_FP bwin; omega
theorem stopReg_mcStatus (b : Nat) : stopReg (R.MC_STATUS b) := by unfold stopReg R.MC_STATUS bwin; omega
theorem stopReg_wdCnt (b : Nat) : stopReg (R.WD_CNT b) := by unfold stopReg R.WD_CNT bwin; omega

theorem csApply_within (s : State) (b : Nat) (p : CsPend) : Within haltParts stopReg s (csApply s b p) := by
  unfold csApply
  split
  · exact (Within.refl.when (·.setB (stopReg_mcStatus b))).emit (by decide)
  · have h : Within haltParts stopReg s s := .refl
    exact h.branch (fun h => (h.setStores (by decide)).setRg (stopReg_csFp b))
      (fun h => (h.setStores (by decide)).setRg (stopReg_csFp b))

theorem csFlush_within (s : State) (b : Nat) : Within haltParts stopReg s (csFlush s b) :=
  Within.refl.unless fun h => (h.updSeq (by decide)).foldl fun p h => h.trans (csApply_within _ b p)

theorem haltSeq_within (s : State) (b cause : Nat) : Within haltParts stopReg s (haltSeq s b cause) :=
  ((Within.refl.forEach fun c h => h.trans (csFlush_within _ c)).unless (·.setF (stopReg_dbgStatus b))).branch
    (fun h => (h.setB (stopReg_dbgStatus b)).when (·.setB (stopReg_arrSusp b))) (·.setB (stopReg_dbgStatus b))

theorem girthStop_within (s : State) (n cause : Nat) : Within (.dbg :: haltParts) stopReg s (girthStop s n cause) :=
  (Within.refl.put .dbg (by decide)).forEach fun b h => h.andThen (haltSeq_within _ b cause) (by decide) fun _ => id

theorem girthFree_within (s : State) (b : Nat) : Within haltParts stopReg s (girthFree s b) :=
  Within.refl.when fun h => ((h.setB (stopReg_dbgStatus b)).setB (stopReg_arrSusp b)).unless (·.setF (stopReg_dbgStatus b))

theorem wdReload_within (s : State) (b : Nat) : Within haltParts stopReg s (wdReload s b) :=
  Within.refl.when (·.setF (stopReg_wdCnt b))

end Sys2Proof.Machine
end

section
/-! SUPPORT. The footprints of boundaries, completions and of what concealment does (R376, R377, R390, R407, R420, R434). -/

namespace Sys2Proof.Machine

/-! ### Messages, interrupts, the journal -/

theorem sendCtl_within (s : State) (p kind : Nat) (arg : Word) : Within [.out] (fun _ => False) s (sendCtl s p kind arg) :=
  Within.refl.when (·.emit (by decide))

theorem toLead_within (s : State) (kind : Nat) (arg : Word) : Within [.out] (fun _ => False) s (toLead s kind arg) := by
  unfold toLead
  split
  exacts [sendCtl_within _ _ _ _, .refl]

theorem fromLead_within (s : State) (kind : Nat) (arg : Word) : Within [.out] (fun _ => False) s (fromLead s kind arg) :=
  Within.refl.foldl fun p h => h.trans (sendCtl_within _ p kind arg)

theorem sendAct_within (s : State) (n : Nat) (a : DispAct) : Within [.out] (fun _ => False) s (sendAct s n a) :=
  Within.refl.when fun h => h.foldl fun _ h => h.when (·.emit (by decide))

theorem epochMsg_within (s : State) (n kind : Nat) : Within [.out, .rein] (fun _ => False) s (epochMsg s n kind) :=
  (Within.refl.put .rein (by decide)).branch (·.andThen (fromLead_within _ _ _) (by decide) fun _ => id)
    (·.andThen (toLead_within _ _ _) (by decide) fun _ => id)

theorem forwardReq_within (s : State) (n : Nat) (r : FwdReq) : Within [.out] (fun _ => False) s (forwardReq s n r) :=
  Within.refl.when fun h => h.trans (toLead_within _ _ _)

theorem stopPart_within (s : State) (n cause : Nat) : Within (.dbg :: haltParts) stopReg s (stopPart s n cause) :=
  (girthStop_within s n cause).andThen (sendAct_within _ n _) (by decide) fun _ => False.elim

/-- The pending words of the CIC that hold its level sources. -/
def cicReg (a : Nat) : Prop := ∃ w, w < 3 ∧ a = R.CIC_PEND w

theorem cicInput_lt {s : State} {n : Nat} (h : cicInput s n = true) : n < 192 := by
  unfold cicInput at h
  grind

theorem cicOutside_within (s : State) (n : Nat) : Within [.epochs] (fun _ => False) s (cicOutside s n) := by
  unfold cicOutside
  split
  exacts [.refl, Within.refl.put .epochs (by decide)]

theorem cicRise_within (s0 s : State) (n : Nat) : Within [.epochs] cicReg s (cicRise s0 s n) := by
  unfold cicRise
  split
  next h =>
    obtain ⟨-, h⟩ := (Bool.and_eq_true _ _).mp h
    have hn := cicInput_lt h
    exact (Within.refl.setF ⟨n / 64, by omega, rfl⟩).andThen (cicOutside_within _ n) (by decide) fun _ => False.elim
  · exact .refl

/-- The registers of the journal: CN_LAST and SB_JRNL. -/
def journalReg (a : Nat) : Prop := a = R.CN_LAST ∨ a = R.SB_JRNL

theorem journal_within (s : State) (kind src pid unit arg loc : Nat) :
    Within [.sb] journalReg s (journal s kind src pid unit arg loc) :=
  (Within.refl.setRg (.inl rfl)).branch (fun h => (h.put .sb (by decide)).setF (.inr rfl)) (·.addSat (.inr rfl))

/-! ### Completions -/

theorem putCompl_within (s : State) (c : Compl) : Within [.host] (fun _ => False) s (putCompl s c) := by
  refine Within.refl.branch (fun h => ?_) (fun h => h.put .host (by decide))
  unfold dropCmd
  split
  exacts [h.put .host (by decide), h]

theorem endFences_within (s : State) : Within [.host] (fun _ => False) s (endFences s) :=
  (Within.refl.put .host (by decide)).foldl fun _ h => h.trans (putCompl_within _ _)

theorem endOrderFences_within (s : State) : Within [.host] (fun _ => False) s (endOrderFences s) :=
  Within.refl.iter fun _ h => h.trans (endFences_within _)

theorem postCompl_within (s : State) (c : Compl) : Within [.host] (fun _ => False) s (postCompl s c) :=
  (putCompl_within s c).branch (·.trans (endOrderFences_within _)) id

theorem complete_within (s : State) (f q : Nat) (c : BitVec 512) (status detail result : Nat) :
    Within [.host] (fun _ => False) s (complete s f q c status detail result) := postCompl_within s _

theorem hold_within (s : State) (n : Nat) (x : Held) : Within [.epochs] (fun _ => False) s (hold s n x) :=
  Within.put .refl .epochs (by decide)

theorem completeHeld_within (s : State) (n f q : Nat) (c : BitVec 512) (status detail result : Nat) :
    Within [.epochs] (fun _ => False) s (completeHeld s n f q c status detail result) := hold_within s n _

theorem endRuns_within (s : State) (n status detail result : Nat) (held : Bool) :
    Within [.host, .epochs] (fun _ => False) s (endRuns s n status detail result held) := by
  unfold endRuns
  split
  refine (Within.refl.put .host (by decide)).foldl fun r h => ?_
  split
  · exact h.branch (·.andThen (completeHeld_within _ _ _ _ _ _ _ _) (by decide) fun _ => id)
      (·.andThen (complete_within _ _ _ _ _ _ _) (by decide) fun _ => id)
  · exact h

/-! ### Boundaries and fences -/

theorem startBoundary_within (s : State) (n : Nat) :
    Within [.epochs, .seqs, .rein, .out] (· = R.EP_STAT n) s (startBoundary s n) := by
  have h : Within [.epochs, .seqs, .rein, .out] (· = R.EP_STAT n) s s := .refl
  exact (((h.updEpoch (by decide)).setF rfl).forEach fun _ h => h.updSeq (by decide)).when fun h =>
    (h.put .rein (by decide)).andThen (epochMsg_within _ n _) (by decide) fun _ => False.elim

theorem requestBoundary_within (s : State) (n : Nat) :
    Within [.epochs, .seqs, .rein, .out] (· = R.EP_STAT n) s (requestBoundary s n) :=
  Within.refl.unless fun h => h.unless fun h => h.branch (·.updEpoch (by decide)) (·.trans (startBoundary_within _ n))

theorem askBoundary_within (s : State) (n : Nat) : Within [.epochs, .seqs, .rein, .out] (· = R.EP_STAT n) s (askBoundary s n) :=
  Within.refl.unless fun h => h.branch (·.andThen (forwardReq_within _ n _) (by decide) fun _ => False.elim)
    fun h => (h.updEpoch (by decide)).trans (requestBoundary_within _ n)

/-- The Sluice registers of the regions' gateways. -/
def sluiceReg (a : Nat) : Prop := ∃ g, g < 16 ∧ a = R.GW_SLUICE g

theorem loadDoms_lt {s : State} {L : ImgLoad} {d : Nat × Nat} (h : d ∈ loadDoms s L) : d.1 < 16 := by
  unfold loadDoms at h
  simp only [List.mem_append, List.mem_flatMap, List.mem_map, List.mem_filter, List.mem_range] at h
  obtain ⟨g, ⟨hg, -⟩, j, -, rfl⟩ | ⟨g, ⟨hg, -⟩, rfl⟩ := h <;> exact hg

theorem raiseFences_within (s : State) : Within [] sluiceReg s (raiseFences s) := by
  unfold raiseFences
  split
  · exact .refl
  · exact Within.refl.unless fun h => h.foldlMem fun d hd h => h.when (·.setF ⟨d.1, loadDoms_lt hd, rfl⟩)

/-! ### Outside concealment -/

/-- The parts that concealment loss changes. -/
def lossParts : List Piece := [.dbg, .seqs, .stores, .out, .epochs, .mesh, .sb, .host]

/-- The registers that concealment loss of partition n changes. -/
def lossReg (n a : Nat) : Prop := stopReg a ∨ a = R.EP_STAT n ∨ cicReg a ∨ a = R.CN_COUNT ∨ journalReg a ∨ sluiceReg a

theorem concealmentLost_within (s : State) (n src unit loc : Nat) :
    Within lossParts (lossReg n) s (concealmentLost s n src unit loc) := by
  refine Within.refl.unless fun h => ?_
  extract_lets s0 keep s1 ws hs s2 fl mesh s3 s4 s5 s6 s7 s8 s9 s10
  have h1 : Within lossParts (lossReg n) s s3 :=
    ((h.andThen (stopPart_within _ n 4) (by decide) fun _ => .inl).updEpoch (by decide)).put .mesh (by decide)
  have h2 : Within lossParts (lossReg n) s s5 := (h1.setF (.inr (.inl rfl))).setB (.inr (.inl rfl))
  have h3 : Within lossParts (lossReg n) s s7 :=
    (h2.andThen (cicRise_within s _ (16 + n)) (by decide) fun _ h => .inr (.inr (.inl h))).addSat (.inr (.inr (.inr (.inl rfl))))
  have h4 : Within lossParts (lossReg n) s s9 :=
    (h3.andThen (journal_within _ 0x0B src n unit 0 loc) (by decide) fun _ h => .inr (.inr (.inr (.inr (.inl h))))).andThen
      (endRuns_within _ n 0x0B 0 0 false) (by decide) fun _ => False.elim
  have h5 : Within lossParts (lossReg n) s s10 := h4.foldl fun x h => by
    split
    exacts [h.andThen (postCompl_within _ _) (by decide) fun _ => False.elim, h]
  exact (h5.foldl fun x h => h.andThen (complete_within _ _ _ _ _ _ _) (by decide) fun _ => False.elim).andThen
    (raiseFences_within _) (by decide)
    fun _ h => .inr (.inr (.inr (.inr (.inr h))))

end Sys2Proof.Machine
end

section
/-! SUPPORT. Power, resets and the start of boot (R310, R327, R397, R462, R463, R476, R478, R487, R548). -/

namespace Sys2Proof.Machine

/-! ### What the loss of every partition keeps -/

theorem showFuses_within (s : State) : Within [] (· = R.SEC_STATE) s (showFuses s) :=
  have h : Within [] (· = R.SEC_STATE) s s := .refl
  ((((((h.setB rfl).setF rfl).setF rfl).setF rfl).setF rfl).setF rfl).setF rfl

theorem setFuses_within (s : State) (f : Fuses) : Within [.sec] (· = R.SEC_STATE) s (setFuses s f) :=
  (Within.put .refl .sec (by decide)).andThen (showFuses_within _) (by decide) fun _ => id

theorem flashProgram_within (s : State) (a : Nat) (bs : List Byte) : Within [.sec] (· = R.SEC_STATE) s (flashProgram s a bs) := by
  unfold flashProgram
  induction bs generalizing a s with
  | nil => exact .refl
  | cons v bs ih => exact (Within.put .refl .sec (by decide)).trans (ih _ _)

theorem mbxCut_within (s : State) (cmd : Nat) (bs : List Byte) : Within [.sec, .free] (· = R.SEC_STATE) s (mbxCut s cmd bs) := by
  have h : Within [.sec, .free] (· = R.SEC_STATE) s (takeFree s) := Within.takeFree .refl (by decide)
  unfold mbxCut
  extract_lets
  split
  · exact h.andThen (setFuses_within _ _) (by decide) fun _ => id
  · exact h.unless (·.andThen (setFuses_within _ _) (by decide) fun _ => id)
  · exact h.put .sec (by decide)
  · exact h.andThen (flashProgram_within _ _ _) (by decide) fun _ => id
  · split
    exacts [h, h.andThen (setFuses_within _ _) (by decide) fun _ => id]

theorem cutMailbox_within (s : State) : Within [.sec, .free] (· = R.SEC_STATE) s (cutMailbox s) := by
  have h : Within [.sec, .free] (· = R.SEC_STATE) s s := .refl
  unfold cutMailbox
  split
  exacts [h.when fun h => (h.put .sec (by decide)).trans (mbxCut_within _ _ _), h]

/-- Every partition lost and the mailbox cut short: what a reset of the device begins with (R390, R479). -/
def loseAll (s : State) : State :=
  cutMailbox (forEach ((List.range 16).filter (defined s)) (fun s n => concealmentLost s n 0x0A 0 0) s)

theorem loseAll_within (s : State) :
    Within (.sec :: .free :: lossParts) (fun a => a = R.SEC_STATE ∨ ∃ n, lossReg n a) s (loseAll s) :=
  have h : Within (.sec :: .free :: lossParts) (fun a => a = R.SEC_STATE ∨ ∃ n, lossReg n a) s s := .refl
  (h.forEach fun n h => h.andThen (concealmentLost_within _ n 0x0A 0 0) (by decide) fun _ h => .inr ⟨n, h⟩).andThen
    (cutMailbox_within _) (by decide) fun _ => .inl

/-- Where the registers lie that concealment loss changes: below chip control, the CIC's first three words, or from the
journal's registers on. -/
theorem lossReg_range {n a : Nat} (h : lossReg n a) :
    a < 0x040000000000 ∨ (0x040000200000 ≤ a ∧ a < 0x040000200030) ∨ 0x040000500000 ≤ a := by
  obtain e | e | ⟨w, hw, e⟩ | e | (e | e) | ⟨g, hg, e⟩ := h
  · unfold stopReg at e
    omega
  · unfold R.EP_STAT chipCtl at e
    omega
  · unfold R.CIC_PEND chipCtl at e
    omega
  · unfold R.CN_COUNT chipCtl at e
    omega
  · unfold R.CN_LAST chipCtl at e
    omega
  · unfold R.SB_JRNL chipCtl at e
    omega
  · unfold R.GW_SLUICE rwin at e
    rw [if_pos hg] at e
    omega

/-- The registers of chip control below the Saddlebag's, but for the security controller's state and the CIC's first words,
are as before. -/
theorem rg_loseAll (s : State) {a : Nat} (h : 0x040000000000 ≤ a ∧ a < 0x040000200000 ∨ 0x040000200030 ≤ a ∧ a < 0x040000400000) :
    rg (loseAll s) a = rg s a :=
  (loseAll_within s).regs a fun
    | .inl e => by
      unfold R.SEC_STATE chipCtl at e
      omega
    | .inr ⟨_, e⟩ => by
      have := lossReg_range e
      omega

theorem keptReg_range {a : Nat} (h : keptReg a = true) : a = 0x040000000200 ∨ 0x040000280000 ≤ a ∧ a < 0x040000281000 := by
  simp only [keptReg, Bool.or_eq_true, Bool.and_eq_true, decide_eq_true_eq, beq_iff_eq] at h
  unfold R.WH_SLOT R.GPIO_IN chipCtl at h
  omega

theorem rg_loseAll_kept (s : State) {a : Nat} (h : keptReg a = true) : rg (loseAll s) a = rg s a :=
  rg_loseAll s (by have := keptReg_range h; omega)

/-! ### What a reset keeps of registers, cells and DRAM -/

theorem mapGet_only {α : Type} (d : α) (p : Nat → Bool) (k : Nat) (m : List (Nat × α)) :
    mapGet d k (mapOnly p m) = if p k then mapGet d k m else d := by
  have h : mapOnly p m = mapDrop (fun k => !p k) m := by simp [mapOnly, mapDrop]
  rw [h, mapGet_drop]
  cases p k <;> rfl

theorem mapGet_eq_of_not_mem {α : Type} {d : α} {k : Nat} {m : List (Nat × α)} (h : k ∉ m.map Prod.fst) : mapGet d k m = d := by
  induction m with
  | nil => rfl
  | cons e m ih =>
    simp only [List.map_cons, List.mem_cons, not_or] at h
    rw [mapGet_cons, if_neg (Ne.symm h.1), ih h.2]

theorem mem_heldCells {k : Nat} {l : List (Nat × Cell)} (h : k ∈ (heldCells l).map Prod.fst) : k ∈ l.map Prod.fst := by
  simp only [heldCells, List.mem_map, List.mem_filter] at h ⊢
  obtain ⟨_, ⟨⟨e, he, rfl⟩, -⟩, rfl⟩ := h
  exact ⟨e, he, rfl⟩

/-- The cells of held regions keep their planes. -/
theorem mapGet_heldCells {l : List (Nat × Cell)} (h : (l.map Prod.fst).Pairwise (· < ·)) (k : Nat) :
    mapGet {} k (heldCells l) = { planes := (mapGet ({} : Cell) k l).planes } := by
  induction l with
  | nil => rfl
  | cons e l ih =>
    rw [List.map_cons, List.pairwise_cons] at h
    have hcons : heldCells (e :: l) = if decide (({ planes := e.2.planes } : Cell) ≠ {}) then
        (e.1, { planes := e.2.planes }) :: heldCells l else heldCells l := List.filter_cons
    rw [hcons, mapGet_cons]
    by_cases hk : e.1 = k
    · have hno : k ∉ (heldCells l).map Prod.fst := fun hm => by
        have := h.1 k (mem_heldCells hm)
        omega
      rw [if_pos hk]
      split
      · rw [mapGet_cons, if_pos hk]
      · next hd => exact (mapGet_eq_of_not_mem hno).trans (of_not_not fun hn => hd (decide_eq_true hn)).symm
    · rw [if_neg hk, ← ih h.2]
      split
      exacts [by rw [mapGet_cons, if_neg hk], rfl]

/-- A mark per number that satisfies p. -/
theorem getLsbD_foldl_marks (p : Nat → Prop) [DecidablePred p] (v : BitVec 8) (n : Nat) {j : Nat} (hj : j < 8) :
    ((List.range n).foldl (fun v k => if p k then v ||| BitVec.twoPow 8 k else v) v).getLsbD j
      = (v.getLsbD j || (decide (j < n) && decide (p j))) := by
  induction n with
  | zero => simp
  | succ n ih =>
    rw [List.range_succ, List.foldl_append, List.foldl_cons, List.foldl_nil]
    by_cases hjn : j = n
    · subst hjn
      rw [decide_eq_false (Nat.lt_irrefl j), Bool.false_and, Bool.or_false] at ih
      by_cases hp : p j
      · simp [hp, hj]
      · simp [hp, ih, -BitVec.getLsbD_eq_getElem]
    · have hlt : decide (j < n + 1) = decide (j < n) := by simp; omega
      rw [hlt, ← ih]
      split
      · rw [BitVec.getLsbD_or, BitVec.getLsbD_twoPow, decide_eq_false (Ne.symm hjn), Bool.and_false, Bool.or_false]
      · rfl

theorem getLsbD_freshDram (s : State) {k : Nat} (h : k < 8) :
    (freshDram s).getLsbD k = (s.dram.fresh.getLsbD k || domCur s (160 + k) == 5) := by
  rw [freshDram, getLsbD_foldl_marks (fun k => domCur s (160 + k) = 5) _ _ h, decide_eq_true h, Bool.true_and]
  rfl

/-! ### The reset of the device -/

/-- t is s reset with its memories, keys, planes and queue kept, as the statement of resets says it. -/
def ResetOf (s t : State) : Prop :=
  t.perst = true ∧ t.mem = s.mem ∧ t.keys = s.keys ∧ t.pending = s.pending
    ∧ (s.cellsWf = true → ∀ b i, cellAt t b i = { planes := (cellAt s b i).planes })
    ∧ (∀ k, k < 8 → t.dram.fresh.getLsbD k = (s.dram.fresh.getLsbD k || domCur s (160 + k) == 5))
    ∧ t.cfg = {} ∧ t.epochs = [] ∧ t.img = none ∧ t.mesh.flight = [] ∧ t.timebase = 0 ∧ t.tbRun = false
    ∧ rg t R.PC_EVENT = Nat.land (rg s R.PC_EVENT) 0xF0000000
    ∧ ∀ a, a ≠ R.SB_JRNL → a ≠ R.PC_EVENT → rg t a = if keptReg a then rg s a else (regReset a).toNat

theorem rg_mapOnly {s t : State} {p : Nat → Bool} (h : t.regs = mapOnly p s.regs) (a : Nat) :
    rg t a = if p a then rg s a else (regReset a).toNat := by
  rw [rg, h, mapGet_only]
  split <;> rfl

theorem rg_keepInhibits (s t : State) : rg (keepInhibits s t) R.PC_EVENT = Nat.land (rg s R.PC_EVENT) 0xF0000000 := by
  have h : Nat.land (rg s R.PC_EVENT) 0xF0000000 ≤ 0xF0000000 := Nat.and_le_right
  rw [keepInhibits, rg_setRg_same, Nat.mod_eq_of_lt (by omega)]

/-- What a reset leaves of s, before the inhibits and the depth of the journal queue show. -/
def resetBase (s : State) : State :=
  { pending := s.pending
    regs := mapOnly keptReg s.regs
    irq := { wh := s.irq.wh }
    mem := s.mem
    cells := heldCells s.cells
    flaws := s.flaws
    keys := s.keys
    dram := { fresh := freshDram s }
    sec := { fuses := s.sec.fuses, flash := s.sec.flash }
    sb := { cart := s.sb.cart, shelf := s.sb.shelf, queue := s.sb.queue }
    rein := { leads := s.rein.leads, posX := s.rein.posX, posY := s.rein.posY }
    powered := s.powered
    perst := true
    perstLow := s.perstLow
    testEn := s.testEn
    refLost := s.refLost
    refPerst := s.refPerst
    thermLatch := s.thermLatch
    nclk := s.nclk
    out := s.out
    free := s.free }

theorem resetDevice_eq (s : State) : resetDevice s =
    setF (keepInhibits (loseAll s) (resetBase (loseAll s))) R.SB_JRNL R.SB_JRNL_QDEPTH (loseAll s).sb.queue.length := rfl

/-- The reset is that base but for two registers. -/
theorem resetDevice_within (s : State) :
    Within [] (fun a => a = R.PC_EVENT ∨ a = R.SB_JRNL) (resetBase (loseAll s)) (resetDevice s) :=
  (Within.refl.setRg (.inl rfl)).setF (.inr rfl)

theorem perstLow_resetDevice (s : State) : (resetDevice s).perstLow = s.perstLow :=
  ((resetDevice_within s).perstLow (by decide)).trans ((loseAll_within s).perstLow (by decide))
theorem refLost_resetDevice (s : State) : (resetDevice s).refLost = s.refLost :=
  ((resetDevice_within s).refLost (by decide)).trans ((loseAll_within s).refLost (by decide))
theorem refPerst_resetDevice (s : State) : (resetDevice s).refPerst = s.refPerst :=
  ((resetDevice_within s).refPerst (by decide)).trans ((loseAll_within s).refPerst (by decide))
theorem thermLatch_resetDevice (s : State) : (resetDevice s).thermLatch = s.thermLatch :=
  ((resetDevice_within s).thermLatch (by decide)).trans ((loseAll_within s).thermLatch (by decide))

theorem rg_resetDevice (s : State) {a : Nat} (h : a ≠ R.SB_JRNL) (h' : a ≠ R.PC_EVENT) :
    rg (resetDevice s) a = if keptReg a then rg s a else (regReset a).toNat := by
  rw [(resetDevice_within s).regs a (by rintro (e | e) <;> contradiction), rg_mapOnly (s := loseAll s) rfl a]
  split
  next hk => exact rg_loseAll_kept s hk
  next => rfl

theorem rg_resetDevice_pcEvent (s : State) : rg (resetDevice s) R.PC_EVENT = Nat.land (rg s R.PC_EVENT) 0xF0000000 := by
  rw [resetDevice_eq, rg_setF_other _ (by decide), rg_keepInhibits, rg_loseAll s (.inr (by decide))]

theorem cellAt_resetDevice {s : State} (h : s.cellsWf = true) (b i : Nat) :
    cellAt (resetDevice s) b i = { planes := (cellAt s b i).planes } := by
  rw [State.cellsWf, mapWf_iff] at h
  rw [cellAt, (resetDevice_within s).cells (by decide), resetBase, (loseAll_within s).cells (by decide), mapGet_heldCells h.1,
    cellAt]

theorem fresh_resetDevice (s : State) {k : Nat} (hk : k < 8) :
    (resetDevice s).dram.fresh.getLsbD k = (s.dram.fresh.getLsbD k || domCur s (160 + k) == 5) := by
  have hd : domCur (loseAll s) (160 + k) = domCur s (160 + k) := rgF_of_rg (rg_loseAll s (by unfold R.PC_DOM chipCtl; omega)) _
  rw [(resetDevice_within s).dram (by decide), resetBase, getLsbD_freshDram _ hk, hd, (loseAll_within s).dram (by decide)]

theorem resetOf_resetDevice (s : State) : ResetOf s (resetDevice s) := by
  have w := resetDevice_within s
  have hl := loseAll_within s
  exact ⟨w.perst (by decide), (w.mem (by decide)).trans (hl.mem (by decide)), (w.keys (by decide)).trans (hl.keys (by decide)),
    ((Keeps.refl s).resetDevice).pending, fun hc => cellAt_resetDevice hc, fun k => fresh_resetDevice s, w.cfg (by decide),
    w.epochs (by decide), w.img (by decide), by rw [w.mesh (by decide)]; rfl, w.timebase (by decide), w.tbRun (by decide),
    rg_resetDevice_pcEvent s, fun a => rg_resetDevice s⟩

theorem ResetOf.emit {s t : State} (h : ResetOf s t) (o : Out) : ResetOf s (emit t o) := h

theorem thermLatch_emit (s : State) (o : Out) : (emit s o).thermLatch = s.thermLatch := rfl

theorem getLast?_out_emit (s : State) (o : Out) : (emit s o).out.getLast? = some o := List.getLast?_concat

/-- What the pins have set is not what a reset is about. -/
theorem ResetOf.ofPins {s t : State} (v : Piece.pins.Carrier) (h : ResetOf (Piece.pins.put v s) t) : ResetOf s t := h

theorem perstAssert_resets {s : State} (hp : s.powered = true) (hr : s.perst = false) :
    ∃ t, execPerstAssert s = .next t ∧ t.perstLow = true ∧ ResetOf s t := by
  refine ⟨resetDevice { s with perstLow := true }, congrArg _ (if_pos (by rw [hp, hr]; rfl)), perstLow_resetDevice _,
    .ofPins (s.powered, s.perst, true, s.testEn, s.refLost, s.refPerst, s.thermLatch) (resetOf_resetDevice _)⟩

theorem refclkLoss_resets {s : State} (hp : s.powered = true) (hr : s.perst = false) :
    ∃ t, execRefclkLoss s = .next t ∧ t.refLost = true ∧ t.refPerst = true ∧ ResetOf s t := by
  refine ⟨resetDevice { s with refLost := true, refPerst := true }, congrArg _ (if_pos (by rw [hp, hr]; rfl)),
    refLost_resetDevice _, refPerst_resetDevice _,
    .ofPins (s.powered, s.perst, s.perstLow, s.testEn, true, true, s.thermLatch) (resetOf_resetDevice _)⟩

theorem execThermtrip_eq {s : State} (hp : s.powered = true) (hr : s.perst = false) (hl : s.thermLatch = false)
    (ht : 120 ≤ rgF s R.TH_STATUS R.TH_STATUS_TMAX) :
    execThermtrip s = .next (emit (resetDevice { s with thermLatch := true }) (.thermtrip true)) := by
  refine congrArg Host.Outcome.next ?_
  have hno : ¬ (!s.powered || s.thermLatch || decide (rgF s R.TH_STATUS R.TH_STATUS_TMAX < 120)) = true := by
    simp [hp, hl, Nat.not_lt.mpr ht]
  rw [if_neg hno]
  exact congrArg (emit · _) (if_neg (by simp [hr]))

theorem resetOf_thermtrip (s : State) : ResetOf s (emit (resetDevice { s with thermLatch := true }) (.thermtrip true)) :=
  .emit (.ofPins (s.powered, s.perst, s.perstLow, s.testEn, s.refLost, s.refPerst, true) (resetOf_resetDevice _)) _

theorem thermtrip_resets {s : State} (hp : s.powered = true) (hr : s.perst = false) (hl : s.thermLatch = false)
    (ht : 120 ≤ rgF s R.TH_STATUS R.TH_STATUS_TMAX) :
    ∃ t, execThermtrip s = .next t ∧ t.thermLatch = true ∧ ResetOf s t ∧ t.out.getLast? = some (.thermtrip true) :=
  ⟨_, execThermtrip_eq hp hr hl ht, (thermLatch_emit _ _).trans (thermLatch_resetDevice _), resetOf_thermtrip s,
    getLast?_out_emit _ _⟩

/-! ### Supplies come and go -/

theorem rg_coldDevice (s : State) (on : Bool) (a : Nat) : rg (coldDevice s on) a = (regReset a).toNat := rfl

theorem cart_cutMailbox (s : State) : (cutMailbox s).sb.cart = s.sb.cart :=
  congrArg SbSt.cart ((cutMailbox_within s).sb (by decide))

/-! ### The device starts -/

/-- t is s started again, as the statement of resets says it. -/
def StartOf (s t : State) : Prop :=
  t.perst = false ∧ t.timebase = 0 ∧ t.tbRun = true ∧ bootPhase t = 1 ∧ t.mem = s.mem ∧ t.dram.zeroing = s.dram.fresh



/-- The device out of its reset state, with no register changed yet. -/
def startBase (s : State) : State :=
  { s with perst := false, tbRun := true, timebase := 0, dram := { s.dram with zeroing := s.dram.fresh } }

theorem startBoot_within (s : State) :
    Within [] (fun a => a = R.REIN_ID ∨ a = R.BOOT_STATUS) (startBase s) (startBoot s) :=
  have h : Within [] (fun a => a = R.REIN_ID ∨ a = R.BOOT_STATUS) (startBase s) (startBase s) := .refl
  (((h.setB (.inl rfl)).setF (.inl rfl)).setF (.inl rfl)).setF (.inr rfl)

theorem bootPhase_startBoot (s : State) : bootPhase (startBoot s) = 1 := by
  rw [bootPhase, startBoot, rgF_setF_same _ _ (by decide)]
  decide

theorem startOf_startBoot (s : State) : StartOf s (startBoot s) := by
  have w := startBoot_within s
  exact ⟨w.perst (by decide), w.timebase (by decide), w.tbRun (by decide), bootPhase_startBoot s, w.mem (by decide),
    by rw [w.dram (by decide)]; rfl⟩

/-- REIN_ID shows the straps. -/
theorem reinId_startBoot (s : State) :
    rgB (startBoot s) R.REIN_ID R.REIN_ID_LEADS = s.rein.leads
      ∧ rgF (startBoot s) R.REIN_ID R.REIN_ID_POSX = s.rein.posX.toNat
      ∧ rgF (startBoot s) R.REIN_ID R.REIN_ID_POSY = s.rein.posY.toNat := by
  have hne : R.REIN_ID ≠ R.BOOT_STATUS := by decide
  unfold startBoot
  refine ⟨?_, ?_, ?_⟩
  · rw [rgB_setF_other _ hne, rgB_setF_field _ _ (by decide) (by decide), rgB_setF_field _ _ (by decide) (by decide),
      rgB_setB_same _ _ (by decide) (by decide)]
  · rw [rgF_setF_other _ hne, rgF_setF_field _ _ (by decide) (by decide), rgF_setF_same _ _ (by decide)]
    exact Nat.mod_eq_of_lt s.rein.posX.isLt
  · rw [rgF_setF_other _ hne, rgF_setF_same _ _ (by decide)]
    exact Nat.mod_eq_of_lt s.rein.posY.isLt

theorem toNat_strap (v : BitVec 5) (lo : Nat) : (v.extractLsb' lo 2).toNat = v.toNat / 2 ^ lo % 4 := by
  simp [BitVec.extractLsb'_toNat, Nat.shiftRight_eq_div_pow]

/-- What the release of PERST# does before the device starts. -/
def withStraps (st : BitVec 5) (te : Bool) (s : State) : State :=
  { s with perstLow := false, testEn := te, refPerst := false
           rein := { s.rein with leads := st.getLsbD 4, posX := st.extractLsb' 2 2, posY := st.extractLsb' 0 2 } }

theorem perstRelease_starts {s : State} (st : BitVec 5) (te : Bool) (hp : s.powered = true) (hlow : s.perstLow = true)
    (hl : s.refLost = false) (ht : s.thermLatch = false) (hr : s.perst = true) :
    execPerstRelease st te s = .next (startBoot (withStraps st te s)) := by
  refine congrArg _ ((if_neg (by simp [hp, hlow])).trans ?_)
  exact if_neg (by simp [hl, ht, hr])

/-- Settles O43: resets and starts go through what the loss of every partition keeps. -/
theorem powerAndResets : Obligations.PowerAndResets := by
  unfold Obligations.PowerAndResets
  intro s down up
  refine ⟨⟨_, rfl, rfl, rfl, rfl, rfl, rfl, rg_coldDevice s true, rfl, rfl, rfl⟩, fun hp => ?_, perstAssert_resets,
    refclkLoss_resets, thermtrip_resets, fun st te hp hl hr ht hr' => ?_, fun hl hr => ?_, fun hl hr hp hr' hlow ht => ?_⟩
  · refine ⟨coldDevice (cutMailbox s) false, ?_, rfl, rfl, rfl, rg_coldDevice _ false, cart_cutMailbox s⟩
    change execPowerDown s = _
    rw [execPowerDown, if_pos hp]
  · obtain ⟨hleads, hx, hy⟩ := reinId_startBoot (withStraps st te s)
    refine ⟨_, perstRelease_starts st te hp hl hr ht hr', startOf_startBoot (withStraps st te s),
      (startBoot_within _).perstLow (by decide), (startBoot_within _).testEn (by decide), hleads,
      hx.trans (toNat_strap st 2), hy.trans ((toNat_strap st 0).trans (by simp))⟩
  · exact congrArg _ ((if_neg (by simp [hl])).trans (if_neg (by simp [hr])))
  · exact ⟨startBoot { s with refLost := false }, congrArg Host.Outcome.next ((if_neg (by simp [hl])).trans
      (if_pos (by simp [hr, hp, hr', hlow, ht]))), (startBoot_within _).refLost (by decide),
      startOf_startBoot { s with refLost := false }⟩

end Sys2Proof.Machine
end

section
/-! SUPPORT. How a host command starts and completes, and reads of host memory (R396, R407-R409). -/

namespace Sys2Proof.Machine

/-! ### Starts -/

/-- The commands of the host as l lists them. -/
def withCmds (s : State) (l : List HostCmd) : State := { s with host := { s.host with cmds := l } }

/-- A command as it stands once it has started. -/
def startedIf (h x : HostCmd) : HostCmd := if x = h then { x with started := true } else x

/-- The entry of a command that no fetch delivered. -/
def freshCmd (s : State) (f q : Nat) (c : BitVec 512) : HostCmd :=
  { f := f, q := q, body := c, sqhd := (queueOf s f q).sqHead, started := true, stamp := s.host.bells + 1 }

/-- l lists s's commands with command c of function f and queue q started: one of them is marked, or the command joins them. -/
def StartList (s : State) (f q : Nat) (c : BitVec 512) (l : List HostCmd) : Prop :=
  (∃ h ∈ s.host.cmds, h.f = f ∧ h.q = q ∧ h.body = c ∧ l = s.host.cmds.map (startedIf h)) ∨ l = s.host.cmds ++ [freshCmd s f q c]

theorem cmdStart_cases {s t : State} {f q opc : Nat} {c : BitVec 512} (h : cmdStart s f q c opc = some t) :
    ∃ l, StartList s f q c l ∧ t = withCmds s l := by
  unfold cmdStart at h
  dsimp only at h
  split at h
  · cases h
  split at h
  next x hx =>
    split at h
    · cases h
    cases h
    have hbody := List.find?_some hx
    have hmem := List.mem_filter.mp (List.mem_of_find?_eq_some hx)
    simp only [Bool.and_eq_true, beq_iff_eq] at hbody hmem
    exact ⟨_, .inl ⟨x, hmem.1, hmem.2.1, hmem.2.2, hbody.1, rfl⟩, rfl⟩
  next =>
    split at h
    · cases h
    cases h
    exact ⟨_, .inr rfl, rfl⟩

section
variable {s : State} {f q opc : Nat} {c : BitVec 512} {bad : List (Nat × Bool)} {go : Nat → State → State}

/-- A command that starts goes on, or completes with INVALID at the field that breaks a rule. -/
theorem cmdGo_starts (h : s.starts f q c opc) (hm : opcMay f opc = true) : ∃ l, StartList s f q c l
    ∧ cmdGo s f q c opc bad go = match firstBad bad with
      | some o => complete (withCmds s l) f q c 1 o 0
      | none => go q (withCmds s l) := by
  obtain ⟨hs, hq⟩ := h
  obtain ⟨t, ht⟩ := Option.isSome_iff_exists.mp hs
  obtain ⟨l, hl, rfl⟩ := cmdStart_cases ht
  refine ⟨l, hl, ?_⟩
  simp only [cmdGo, hq, ht, hm, Bool.not_true]
  rfl

theorem cmdGo_right (h : s.starts f q c opc) (hm : opcMay f opc = true) (hb : ∀ e ∈ bad, e.2 = false) :
    ∃ l, StartList s f q c l ∧ cmdGo s f q c opc bad go = go q (withCmds s l) := by
  obtain ⟨l, hl, e⟩ := cmdGo_starts (bad := bad) (go := go) h hm
  have hn : firstBad bad = none := by
    rw [firstBad, Option.map_eq_none_iff, List.find?_eq_none]
    exact fun x hx => by rw [hb x hx]; decide
  rw [hn] at e
  exact ⟨l, hl, e⟩

theorem cmdGo_wrong {o : Nat} (h : s.starts f q c opc) (hm : opcMay f opc = true) (hb : firstBad bad = some o) :
    ∃ l, StartList s f q c l ∧ cmdGo s f q c opc bad go = complete (withCmds s l) f q c 1 o 0 := by
  obtain ⟨l, hl, e⟩ := cmdGo_starts (bad := bad) (go := go) h hm
  rw [hb] at e
  exact ⟨l, hl, e⟩

/-- The fields that every command has are right. -/
theorem commonBad_eq {mode arg : Bool} (h : s.takes f q c opc) (hmode : mode = false) (harg : arg = false) :
    ∀ e ∈ commonBad f c mode arg, e.2 = false := by
  obtain ⟨-, hflags, hpid, hzero⟩ := h
  subst hmode harg
  intro e he
  simp only [commonBad, List.mem_cons, List.not_mem_nil, or_false] at he
  rcases he with rfl | rfl | rfl | rfl | rfl
  · simpa using hflags
  · rcases hpid with rfl | hpid <;> simp [*]
  · rfl
  · rfl
  · simpa using hzero

/-- With the fields right that every command has, the first wrong one is among the command's own. -/
theorem firstBad_append {l l' : List (Nat × Bool)} (h : ∀ e ∈ l, e.2 = false) : firstBad (l ++ l') = firstBad l' := by
  have hn : l.find? (fun e => e.2) = none := List.find?_eq_none.mpr fun x hx => by rw [h x hx]; decide
  rw [firstBad, List.find?_append, hn, Option.none_or, firstBad]

theorem notZero_eq {i n : Nat} (h : zeros c i n) : notZero c i n = false := by
  rw [notZero, show cmdVal c i n = 0 from h]
  rfl

theorem partBad_eq {n : Nat} {bad : Nat → Bool} (hn : cmdPid c = n) (hlt : n < 16) (hd : defined s n = true) :
    partBad s c bad = bad n := by
  rw [partBad, hn, decide_eq_true hlt, hd]
  simp

theorem withPart_eq {n : Nat} {go : Nat → State} (hn : cmdPid c = n) (hlt : n < 16) (hd : defined s n = true) :
    withPart s f q c go = go n := by
  rw [withPart, hn, hd, if_neg (by simp; omega)]

/-! ### Completions -/

theorem complete_eq (u : State) (hq : q < 64) (status detail result : Nat) : complete u f q c status detail result =
    { u with host := { u.host with compls := u.host.compls ++ [mkCompl u f q c status detail result] } } := by
  have hno : ¬ 64 ≤ (mkCompl u f q c status detail result).q := Nat.not_le.mpr hq
  rw [complete, postCompl, if_neg hno, putCompl, if_neg hno]

theorem cmdVal_lt (c : BitVec 512) (i n : Nat) : cmdVal c i n < 256 ^ n := Nat.mod_lt _ (Nat.pow_pos (by decide))

theorem cmdByte_lt (c : BitVec 512) (i : Nat) : cmdByte c i < 256 := Nat.mod_lt _ (by decide)

/-- A completion answers its command, whatever happened before that posted none. -/
theorem answers_complete {u : State} (hq : q < 64) (h : u.host.compls = s.host.compls) (status detail result : Nat) :
    s.answers (complete u f q c status detail result) f q c status detail result := by
  rw [complete_eq u hq]
  have hcid : cmdVal c 2 2 % 2 ^ 16 = cmdVal c 2 2 := Nat.mod_eq_of_lt (cmdVal_lt c 2 2)
  exact ⟨mkCompl u f q c status detail result, by rw [← h], rfl, rfl, (BitVec.toNat_ofNat _ _).trans hcid,
    BitVec.toNat_ofNat _ _, BitVec.toNat_ofNat _ _, BitVec.toNat_ofNat _ _⟩

/-- What follows a completion and posts none leaves it the answer. -/
theorem State.answers.kept {s t u : State} {status detail result : Nat} (h : s.answers t f q c status detail result)
    (hu : u.host.compls = t.host.compls) : s.answers u f q c status detail result := by
  obtain ⟨e, he, hf⟩ := h
  exact ⟨e, hu.trans he, hf⟩

theorem complete_regs (u : State) (f q : Nat) (c : BitVec 512) (status detail result : Nat) (a : Nat) :
    rg (complete u f q c status detail result) a = rg u a := (complete_within u f q c status detail result).regs a id

/-! ### Reads of host memory -/

theorem le_readMax (s : State) : 128 ≤ readMax s := Nat.le_mul_of_pos_right _ (Nat.two_pow_pos _)

/-- A read of function 0 for which it may send a request asks for its first bytes at once. -/
theorem hostRead_asks {p : HostPurpose} {addr len : Nat} (h : s.mayRead 0) (hlen : len ≠ 0) :
    (hostRead s 0 p addr len).out = s.out ++ [.hostRead 0 s.mesh.nextId addr (min len (readMax s))]
      ∧ (hostRead s 0 p addr len).host.rds = s.host.rds ++
        [{ id := s.mesh.nextId, purpose := p, addr := addr, len := len, ask := min len (readMax s) }]
      ∧ (hostRead s 0 p addr len).regs = s.regs := by
  obtain ⟨hcap, hid⟩ := h
  let r : HostRd := { id := s.mesh.nextId, purpose := p, addr := addr, len := len }
  let u : State := { s with mesh := { s.mesh with nextId := r.id + 1 }, host := { s.host with rds := s.host.rds ++ [r] } }
  have hout : (u.host.rds.filter fun x => x.f == r.f && x.ask != 0 && x.id != r.id)
      = s.host.rds.filter fun x => x.f == 0 && x.ask != 0 := by
    have hr : (r.f == r.f && r.ask != 0 && r.id != r.id) = false := by simp
    rw [List.filter_append, List.filter_cons, hr]
    simp only [Bool.false_eq_true, if_false, List.filter_nil, List.append_nil]
    refine List.filter_congr fun x hx => ?_
    simp [r, hid x hx]
  have hn : (if (u.host.rds.filter fun x => x.f == r.f && x.ask != 0 && x.id != r.id).length < readCap u r.f
      then min (r.len - r.got.length) (readMax u) else 0) = min len (readMax s) := by
    rw [hout]
    exact if_pos hcap
  have hpos : min len (readMax s) ≠ 0 := by
    have := le_readMax s
    omega
  have he : hostRead s 0 p addr len = emit { u with host := { u.host with rds := u.host.rds.map fun x =>
      if x.id = r.id then { r with ask := min len (readMax s) } else x } } (.hostRead 0 s.mesh.nextId addr (min len (readMax s))) := by
    change sendRead u r = _
    rw [sendRead, hn, if_neg hpos]
    rfl
  rw [he]
  refine ⟨rfl, ?_, rfl⟩
  change (s.host.rds ++ [r]).map _ = _
  rw [List.map_append]
  refine congrArg₂ _ ((List.map_congr_left fun x hx => if_neg (hid x hx)).trans (List.map_id _)) ?_
  simp [r]

end

end Sys2Proof.Machine
end

section
/-! SUPPORT. The image engine starts (R68-R74): what CHECK reads, what it opens, and the boundaries that HOLD requests. -/

namespace Sys2Proof.Machine

/-! ### The map of the partitions -/

/-- The settings, and which region belongs to which partition, are the same in s and t. -/
structure SameMap (s t : State) : Prop where
  cfg : t.cfg = s.cfg
  assigned : ∀ g, assigned t g = assigned s g
  regmap : rg t R.IMG_REGMAP = rg s R.IMG_REGMAP

section
variable {s t u : State}

theorem SameMap.refl : SameMap s s := ⟨rfl, fun _ => rfl, rfl⟩

theorem SameMap.trans (h : SameMap s t) (h' : SameMap t u) : SameMap s u :=
  ⟨h'.cfg.trans h.cfg, fun g => (h'.assigned g).trans (h.assigned g), h'.regmap.trans h.regmap⟩

theorem SameMap.partOfRegion (h : SameMap s t) (g : Nat) : partOfRegion t g = partOfRegion s g := by
  rw [Machine.partOfRegion, h.assigned, h.regmap, Machine.partOfRegion]

theorem SameMap.partOf (h : SameMap s t) (b : Nat) : partOf t b = partOf s b := h.partOfRegion _

theorem SameMap.blocksOf (h : SameMap s t) (p : Nat) : blocksOf t p = blocksOf s p := by
  simp only [Machine.blocksOf, h.partOf]

theorem SameMap.regionsOf (h : SameMap s t) (p : Nat) : regionsOf t p = regionsOf s p := by
  simp only [Machine.regionsOf, h.partOfRegion]

theorem SameMap.defined (h : SameMap s t) (p : Nat) : defined t p = defined s p := by rw [Machine.defined, h.cfg, Machine.defined]

theorem SameMap.partCfg (h : SameMap s t) (p : Nat) : partCfg t p = partCfg s p := by rw [Machine.partCfg, h.cfg, Machine.partCfg]

theorem SameMap.lockstep (h : SameMap s t) (p : Nat) : lockstep t p = lockstep s p := by
  rw [Machine.lockstep, h.partCfg, Machine.lockstep]

theorem SameMap.cascadePart (h : SameMap s t) (p : Nat) : cascadePart t p = cascadePart s p := by
  rw [Machine.cascadePart, h.cfg, h.defined, Machine.cascadePart]

theorem Within.sameMap {F : List Piece} {A : Nat → Prop} (h : Within F A s t) (hs : ¬ A R.IMG_STATUS) (hm : ¬ A R.IMG_REGMAP)
    (hF : .cfg ∉ F := by decide) : SameMap s t :=
  ⟨h.cfg hF, fun g => by rw [Machine.assigned, h.rgF hs, Machine.assigned], h.regs _ hm⟩

end

/-! ### What CHECK reads -/

/-- The registers by which the engine reports: IMG_CTRL, IMG_STATUS, IMG_ERR. -/
def engineReg (a : Nat) : Prop := a = R.IMG_CTRL ∨ a = R.IMG_STATUS ∨ a = R.IMG_ERR

/-- What CHECK reads is the same in s and t. -/
structure SameCheck (s t : State) : Prop where
  mem : t.mem = s.mem
  map : SameMap s t
  epochs : t.epochs = s.epochs
  seqs : t.seqs = s.seqs
  runs : t.host.runs = s.host.runs
  regs : ∀ a, ¬ engineReg a → rg t a = rg s a
  force : rgB t R.IMG_CTRL R.IMG_CTRL_FORCE = rgB s R.IMG_CTRL R.IMG_CTRL_FORCE

theorem not_engineReg_imgSrc : ¬ engineReg R.IMG_SRC := by unfold engineReg; decide
theorem not_engineReg_imgLen : ¬ engineReg R.IMG_LEN := by unfold engineReg; decide
theorem not_engineReg_stepping : ¬ engineReg R.STEPPING := by unfold engineReg; decide
theorem not_engineReg_secState : ¬ engineReg R.SEC_STATE := by unfold engineReg; decide
theorem not_engineReg_arrSusp {b : Nat} (h : b < 128) : ¬ engineReg (R.ARR_SUSP b) := by
  unfold engineReg R.ARR_SUSP R.IMG_CTRL R.IMG_STATUS R.IMG_ERR bwin chipCtl
  omega

section
variable {s t u : State}

theorem SameCheck.trans (h : SameCheck s t) (h' : SameCheck t u) : SameCheck s u where
  mem := h'.mem.trans h.mem
  map := h.map.trans h'.map
  epochs := h'.epochs.trans h.epochs
  seqs := h'.seqs.trans h.seqs
  runs := h'.runs.trans h.runs
  regs a ha := (h'.regs a ha).trans (h.regs a ha)
  force := h'.force.trans h.force

theorem SameCheck.imgFrame (h : SameCheck s t) (n : Nat) : imgFrame t n = imgFrame s n := by
  rw [Machine.imgFrame, Machine.imgFrame, memBytes, memBytes, h.mem, rgF_of_rg (h.regs _ not_engineReg_imgSrc)]

theorem SameCheck.imgTrailer (h : SameCheck s t) (k n : Nat) : imgTrailer t k n = imgTrailer s k n := by
  rw [Machine.imgTrailer, Machine.imgTrailer, memBytes, memBytes, h.mem, rgF_of_rg (h.regs _ not_engineReg_imgSrc)]

theorem SameCheck.headRej (h : SameCheck s t) : headRej t = headRej s := by
  simp only [Machine.headRej, h.imgFrame, h.imgTrailer, rgF_of_rg (h.regs _ not_engineReg_imgSrc),
    rgF_of_rg (h.regs _ not_engineReg_imgLen), rgF_of_rg (h.regs _ not_engineReg_stepping),
    rgB_of_rg (h.regs _ not_engineReg_secState)]

theorem SameCheck.namedRegions (h : SameCheck s t) (n : Nat) : namedRegions t n = namedRegions s n := by
  simp only [Machine.namedRegions, h.imgFrame]

theorem SameCheck.replacedBy (h : SameCheck s t) (p : Bool) (m : Nat) : replacedBy t p m = replacedBy s p m := by
  simp only [Machine.replacedBy, h.map.defined]

theorem SameCheck.idlePart (h : SameCheck s t) (n : Nat) : idlePart t n = idlePart s n := by
  simp only [Machine.idlePart, h.runs, epochOf, h.epochs, h.map.blocksOf, seqOf, h.seqs]

theorem SameCheck.busyRej (h : SameCheck s t) (p : Bool) (m : Nat) (named : List (Nat × Nat)) (rep : List Nat) (force : Bool) :
    busyRej t p m named rep force = busyRej s p m named rep force := by
  have hfind : ∀ n, ((blocksOf s n).find? fun b => rgB t (R.ARR_SUSP b) R.ARR_SUSP_VALID)
      = (blocksOf s n).find? fun b => rgB s (R.ARR_SUSP b) R.ARR_SUSP_VALID := fun n =>
    List.find?_congr fun b hb => rgB_of_rg (h.regs _ (not_engineReg_arrSusp (mem_blocksOf_lt hb))) _
  simp only [Machine.busyRej, h.map.cfg, h.map.partOfRegion, h.idlePart, h.map.blocksOf, hfind]

theorem SameCheck.checkRej (h : SameCheck s t) : checkRej t = checkRej s := by
  simp only [Machine.checkRej, h.headRej, h.imgFrame, h.namedRegions, h.replacedBy, h.busyRej, h.force]

theorem SameCheck.openLoad (h : SameCheck s t) (hv : t.rein.verified = s.rein.verified)
    (cmd : Option (Nat × Nat × BitVec 512)) : openLoad t cmd = openLoad s cmd := by
  simp only [Machine.openLoad, h.imgFrame, h.imgTrailer, h.namedRegions, h.replacedBy, h.map.partOfRegion, hv]

theorem SameCheck.withCmds (s : State) (l : List HostCmd) : SameCheck s (withCmds s l) :=
  ⟨rfl, ⟨rfl, fun _ => rfl, rfl⟩, rfl, rfl, rfl, fun _ _ => rfl, rfl⟩

end

/-! ### The start -/

/-- GO, BUSY and FORCED, as a start sets them. -/
def goOn (s : State) : State :=
  setB (if (ownerSlot s.sec.fuses).isSome then setB s R.IMG_CTRL R.IMG_CTRL_UNCHECKED false else s) R.IMG_CTRL R.IMG_CTRL_GO true
def busyOn (s : State) : State := setB s R.IMG_STATUS R.IMG_STATUS_BUSY true
def forcedOn (s : State) : State := setB s R.IMG_STATUS R.IMG_STATUS_FORCED (rgB s R.IMG_CTRL R.IMG_CTRL_FORCE)

/-- An empty report, in PHASE 1. -/
def reportOff (s : State) : State := setPhase (setF (setRg s R.IMG_ERR 0) R.IMG_STATUS R.IMG_STATUS_DISCARDS 0) 1

/-- No bundle of the host is taken any more (R305). -/
def noteStart (s : State) : State := { s with host := { s.host with imgStarted := true } }

/-- What a start sets before it reads the image. -/
def engineOn (s : State) : State := noteStart (reportOff (forcedOn (busyOn (goOn s))))

/-- The load L is open, and what the devices of a cascade have verified of an earlier one is gone. -/
def openedBy (L : ImgLoad) (s : State) : State :=
  { s with img := some L, rein := if L.partial_ then s.rein else { s.rein with verified := [] } }

def engineLoad (s : State) (cmd : Option (Nat × Nat × BitVec 512)) : State := openedBy (openLoad (engineOn s) cmd) (engineOn s)

/-- What HOLD does with a partition that the load replaces: one that FORCE replaces under way stops, and its boundary is requested. -/
def holdStep (s : State) (n : Nat) : State := holdBoundary (if !idlePart s n then girthStop s n 4 else s) n

/-- What follows on CHECK: a rejection is reported, or HOLD begins. -/
def afterCheck (r : Option Rej) (u : State) (L : ImgLoad) : State :=
  match r with
  | some r => tellFail (reportRej u r 0) L (myIdx (inLoadCascade u L))
  | none => raiseFences (L.replaced.foldl holdStep (setPhase u 2))

/-- The start goes through these steps; the kernel must see a variable for the checks, which it would otherwise evaluate. -/
theorem imgStart_of_check {ck : State → Option Rej} (hk : checkRej = ck) (s : State) (cmd : Option (Nat × Nat × BitVec 512)) :
    imgStart s cmd = afterCheck (ck (engineLoad s cmd)) (engineLoad s cmd) (openLoad (engineOn s) cmd) := by
  have e : @imgStart = @imgStart := rfl
  conv at e => rhs; delta imgStart
  rw [e, hk]
  beta_reduce
  rfl

theorem imgStart_eq (s : State) (cmd : Option (Nat × Nat × BitVec 512)) :
    imgStart s cmd = afterCheck (checkRej (engineLoad s cmd)) (engineLoad s cmd) (openLoad (engineOn s) cmd) :=
  imgStart_of_check rfl s cmd

theorem engineOn_within (s : State) : Within [.host] engineReg s (engineOn s) := by
  have h : Within [.host] engineReg s s := .refl
  have h1 : Within [.host] engineReg s (goOn s) := (h.when (·.setB (.inl rfl))).setB (.inl rfl)
  have h2 : Within [.host] engineReg s (forcedOn (busyOn (goOn s))) := (h1.setB (.inr (.inl rfl))).setB (.inr (.inl rfl))
  exact (((h2.setRg (.inr (.inr rfl))).setF (.inr (.inl rfl))).setF (.inr (.inl rfl))).put .host (by decide)

theorem rgF_noteStart (s : State) (a : Nat) (f : Fld) : rgF (noteStart s) a f = rgF s a f := rfl

theorem rgF_goOn_status (s : State) (f : Fld) : rgF (goOn s) R.IMG_STATUS f = rgF s R.IMG_STATUS f := by
  rw [goOn, setB, rgF_setF_other _ (by decide)]
  split
  · rw [setB, rgF_setF_other _ (by decide)]
  · rfl

theorem rgF_reportOff_status (s : State) {f : Fld} (hphase : f.hi < 8 ∨ 11 < f.lo) (hdisc : f.hi < 24 ∨ 31 < f.lo) :
    rgF (reportOff s) R.IMG_STATUS f = rgF s R.IMG_STATUS f := by
  rw [reportOff, setPhase, rgF_setF_field _ _ (by decide) hphase.symm, rgF_setF_field _ _ (by decide) hdisc.symm,
    rgF_setRg_other _ (by decide)]

/-- The fields of IMG_STATUS but BUSY, FORCED, PHASE and DISCARDS are as before. -/
theorem rgF_engineOn_status (s : State) {f : Fld} (hbusy : 0 < f.lo) (hforced : f.hi < 5 ∨ 5 < f.lo) (hphase : f.hi < 8 ∨ 11 < f.lo)
    (hdisc : f.hi < 24 ∨ 31 < f.lo) : rgF (engineOn s) R.IMG_STATUS f = rgF s R.IMG_STATUS f := by
  rw [engineOn, rgF_noteStart, rgF_reportOff_status _ hphase hdisc, forcedOn, setB, rgF_setF_field _ _ (by decide) hforced.symm,
    busyOn, setB, rgF_setF_field _ _ (by decide) (.inl hbusy), rgF_goOn_status]

theorem engineOn_busy (s : State) : rgB (engineOn s) R.IMG_STATUS R.IMG_STATUS_BUSY = true := by
  rw [rgB, engineOn, rgF_noteStart, rgF_reportOff_status _ (by decide) (by decide), forcedOn, setB,
    rgF_setF_field _ _ (by decide) (by decide), busyOn, setB, rgF_setF_same _ _ (by decide)]
  decide

theorem engineOn_force (s : State) : rgB (engineOn s) R.IMG_CTRL R.IMG_CTRL_FORCE = rgB s R.IMG_CTRL R.IMG_CTRL_FORCE := by
  rw [rgB, engineOn, rgF_noteStart, reportOff, setPhase, rgF_setF_other _ (by decide), rgF_setF_other _ (by decide),
    rgF_setRg_other _ (by decide), forcedOn, setB, rgF_setF_other _ (by decide), busyOn, setB, rgF_setF_other _ (by decide), goOn,
    setB, rgF_setF_field _ _ (by decide) (by decide), rgB]
  split
  · rw [setB, rgF_setF_field _ _ (by decide) (by decide)]
  · rfl

theorem runs_noteStart (s : State) : (noteStart s).host.runs = s.host.runs := rfl

theorem runs_engineOn (s : State) : (engineOn s).host.runs = s.host.runs := by
  rw [engineOn, runs_noteStart, reportOff, setPhase, setF_host, setF_host, setRg_host, forcedOn, setB_host, busyOn, setB_host, goOn,
    setB_host]
  split
  · rw [setB_host]
  · rfl

theorem sameCheck_engineOn (s : State) : SameCheck s (engineOn s) := by
  have w := engineOn_within s
  have hassigned : ∀ g, assigned (engineOn s) g = assigned s g := fun g => by
    rw [assigned, rgF_engineOn_status s (by decide) (by decide) (by decide) (by decide), assigned]
  exact ⟨w.mem (by decide), ⟨w.cfg (by decide), hassigned, w.regs _ (by unfold engineReg; decide)⟩, w.epochs (by decide),
    w.seqs (by decide), runs_engineOn s, w.regs, engineOn_force s⟩

theorem openedBy_within (L : ImgLoad) (s : State) : Within [.img, .rein] (fun _ => False) s (openedBy L s) := by
  have h : Within [.img, .rein] (fun _ => False) s s := .refl
  exact (h.put .img (v := some L) (by decide)).put .rein (v := if L.partial_ then s.rein else { s.rein with verified := [] })
    (by decide)

theorem engineLoad_within (s : State) (cmd : Option (Nat × Nat × BitVec 512)) :
    Within [.img, .rein] (fun _ => False) (engineOn s) (engineLoad s cmd) := openedBy_within _ _

theorem Within.sameCheck {s t : State} (w : Within [.img, .rein] (fun _ => False) s t) : SameCheck s t :=
  ⟨w.mem (by decide), w.sameMap id id (by decide), w.epochs (by decide), w.seqs (by decide),
    congrArg HostSt.runs (w.host (by decide)), fun a _ => w.regs a id, w.rgB id _⟩

theorem sameCheck_engineLoad (s : State) (cmd : Option (Nat × Nat × BitVec 512)) : SameCheck s (engineLoad s cmd) :=
  (sameCheck_engineOn s).trans (engineLoad_within s cmd).sameCheck

theorem img_engineLoad (s : State) (cmd : Option (Nat × Nat × BitVec 512)) :
    (engineLoad s cmd).img = some (openLoad (engineOn s) cmd) := by
  rw [engineLoad, openedBy]

theorem openLoad_engineOn (s : State) (cmd : Option (Nat × Nat × BitVec 512)) : openLoad (engineOn s) cmd = openLoad s cmd :=
  (sameCheck_engineOn s).openLoad (congrArg ReinSt.verified ((engineOn_within s).rein (by decide))) cmd

theorem replaced_openLoad (s : State) (cmd : Option (Nat × Nat × BitVec 512)) :
    ∃ p m, (openLoad s cmd).replaced = replacedBy s p m := ⟨_, _, rfl⟩

theorem replaced_lt {s : State} {cmd : Option (Nat × Nat × BitVec 512)} {n : Nat} (h : n ∈ (openLoad s cmd).replaced) : n < 16 := by
  obtain ⟨p, m, e⟩ := replaced_openLoad s cmd
  rw [e, replacedBy] at h
  exact List.mem_range.mp (List.mem_filter.mp h).1

/-! ### HOLD begins -/

/-- The parts that the beginning of HOLD changes. -/
def holdParts : List Piece := [.dbg, .seqs, .stores, .out, .epochs, .rein]

theorem holdBoundary_within (s : State) (n : Nat) :
    Within [.epochs, .seqs, .rein, .out] (· = R.EP_STAT n) s (holdBoundary s n) := by
  have h : Within [.epochs, .seqs, .rein, .out] (· = R.EP_STAT n) s s := .refl
  exact h.unless fun h => h.branch (·.updEpoch (by decide)) fun h => h.branch
    (fun h => (h.updEpoch (by decide)).andThen (forwardReq_within _ n _) (by decide) fun _ => False.elim)
    (·.andThen (startBoundary_within _ n) (by decide) fun _ => id)

theorem holdStep_within (s : State) (n : Nat) :
    Within holdParts (fun a => stopReg a ∨ a = R.EP_STAT n) s (holdStep s n) := by
  have h : Within holdParts (fun a => stopReg a ∨ a = R.EP_STAT n) s s := .refl
  exact (h.when (·.andThen (girthStop_within _ n 4) (by decide) fun _ => .inl)).andThen (holdBoundary_within _ n) (by decide)
    fun _ => .inr

/-- The registers that the beginning of HOLD changes. -/
def holdReg (a : Nat) : Prop := stopReg a ∨ (∃ n, a = R.EP_STAT n) ∨ sluiceReg a

/-- An accepted start is its phase set, then no more than HOLD's first step. -/
theorem imgStart_within {s : State} {cmd : Option (Nat × Nat × BitVec 512)} (h : checkRej s = none) :
    Within holdParts holdReg (setPhase (engineLoad s cmd) 2) (imgStart s cmd) := by
  have hacc : checkRej (engineLoad s cmd) = none := (sameCheck_engineLoad s cmd).checkRej.trans h
  rw [imgStart_eq, hacc]
  have h0 : Within holdParts holdReg (setPhase (engineLoad s cmd) 2) (setPhase (engineLoad s cmd) 2) := .refl
  exact (h0.foldl fun n h => h.andThen (holdStep_within _ n) (fun _ => id) fun _ h => h.imp id fun e => .inl ⟨n, e⟩).andThen
    (raiseFences_within _) (by decide) fun _ h => .inr (.inr h)

theorem holdReg_range {a : Nat} (h : holdReg a) : a < 0x040000000000 ∨ 0x040000700000 ≤ a := by
  obtain e | ⟨n, e⟩ | ⟨g, hg, e⟩ := h
  · unfold stopReg at e
    omega
  · unfold R.EP_STAT chipCtl at e
    omega
  · unfold R.GW_SLUICE rwin at e
    rw [if_pos hg] at e
    omega

theorem not_holdReg {a : Nat} (h : 0x040000000000 ≤ a) (h' : a < 0x040000700000) : ¬ holdReg a := fun e => by
  have := holdReg_range e
  omega

/-- What an accepted start leaves: the load is open in PHASE 2. -/
theorem imgStart_opens {s : State} {cmd : Option (Nat × Nat × BitVec 512)} (h : checkRej s = none) :
    (imgStart s cmd).img = some (openLoad s cmd) ∧ rgF (imgStart s cmd) R.IMG_STATUS R.IMG_STATUS_PHASE = 2
      ∧ rgB (imgStart s cmd) R.IMG_STATUS R.IMG_STATUS_BUSY = true ∧ (imgStart s cmd).cfg = s.cfg
      ∧ (imgStart s cmd).mem = s.mem := by
  have w := imgStart_within (cmd := cmd) h
  have hstat : ¬ holdReg R.IMG_STATUS := not_holdReg (by decide) (by decide)
  have wl := engineLoad_within s cmd
  refine ⟨(w.img (by decide)).trans ?_, (w.rgF hstat _).trans ?_, (w.rgB hstat _).trans ?_, (w.cfg (by decide)).trans ?_,
    (w.mem (by decide)).trans ?_⟩
  · rw [setPhase, setF_img, img_engineLoad, openLoad_engineOn]
  · rw [setPhase, rgF_setF_same _ _ (by decide)]
    decide
  · rw [setPhase, rgB_setF_field _ _ (by decide) (by decide), wl.rgB id, engineOn_busy]
  · rw [setPhase, setF_cfg, wl.cfg (by decide), (engineOn_within s).cfg (by decide)]
  · rw [setPhase, setF_mem, wl.mem (by decide), (engineOn_within s).mem (by decide)]

end Sys2Proof.Machine
end

section
/-! SUPPORT. LOAD_IMAGE, LOAD_MICROCODE and QUERY (R69, R305, R416, R417, R421). -/

namespace Sys2Proof.Machine

section
variable {s : State} {q : BitVec 6} {c : BitVec 512}

/-! ### LOAD_IMAGE -/

/-- LOAD_IMAGE whose fields are right goes on. -/
theorem loadImage_goes (h : s.takes 0 q.toNat c 3) (hmode : cmdByte c 5 < 8) (harg : cmdByte c 6 = 0) (hz : zeros c 20 12)
    (hz' : zeros c 32 32)
    (hsrc : (cmdByte c 5).testBit 0 = false → cmdVal c 8 8 % 2 = 0 ∧ cmdVal c 8 8 < 2 ^ 48)
    (hlen : (cmdByte c 5).testBit 0 = true → cmdVal c 16 4 ≤ 2 ^ 24) :
    ∃ l, exec (.loadImage 0 q c) s = .next (loadImageGo 0 q.toNat c (withCmds s l)) := by
  obtain ⟨l, -, e⟩ := cmdGo_right (go := fun q => loadImageGo 0 q c) h.1 rfl
    (bad := commonBad 0 c (decide (8 ≤ cmdByte c 5)) (cmdByte c 6 != 0)
      ++ [(8, !(cmdByte c 5).testBit 0 && (cmdVal c 8 8 % 2 != 0 || decide (2 ^ 48 ≤ cmdVal c 8 8))),
        (16, (cmdByte c 5).testBit 0 && decide (2 ^ 24 < cmdVal c 16 4)), (20, notZero c 20 12), (32, notZero c 32 32)])
    (by
      refine List.forall_mem_append.mpr ⟨commonBad_eq h (by simpa using hmode) (by simp [harg]), ?_⟩
      intro x hx
      simp only [List.mem_cons, List.not_mem_nil, or_false] at hx
      rcases hx with rfl | rfl | rfl | rfl
      · cases hb : (cmdByte c 5).testBit 0
        · obtain ⟨heven, hlt⟩ := hsrc hb
          simp only [heven, Bool.not_false, Bool.true_and, bne_self_eq_false, Bool.false_or, decide_eq_false_iff_not]
          omega
        · rfl
      · cases hb : (cmdByte c 5).testBit 0
        · rfl
        · have := hlen hb
          simp only [Bool.true_and, decide_eq_false_iff_not]
          omega
      · exact notZero_eq hz
      · exact notZero_eq hz')
  exact ⟨l, congrArg Host.Outcome.next e⟩

/-- The registers as LOAD_IMAGE leaves them to the engine: source, length, FORCE and UNCHECKED. -/
def imageRegs (s : State) (c : BitVec 512) (src : Nat) : State :=
  setB (setB (setRg (setRg s R.IMG_SRC src) R.IMG_LEN (cmdVal c 16 4)) R.IMG_CTRL R.IMG_CTRL_FORCE ((cmdByte c 5).testBit 1))
    R.IMG_CTRL R.IMG_CTRL_UNCHECKED ((cmdByte c 5).testBit 2)

theorem imageBusy_answers (u : State) (h : u.host.compls = s.host.compls) :
    s.answers (imageBusy u 0 q.toNat c) 0 q.toNat c 0x0C 1 (freeNat u) := answers_complete (u := takeFree u) q.isLt h _ _ _

theorem imageBusy_regs (u : State) : (imageBusy u 0 q.toNat c).regs = u.regs := by
  rw [imageBusy, complete_eq _ q.isLt, takeFree]

theorem rg_imageRegs_src (s : State) (c : BitVec 512) {src : Nat} (h : src < 2 ^ 64) : rg (imageRegs s c src) R.IMG_SRC = src := by
  rw [imageRegs, rg_setB_other _ (by decide), rg_setB_other _ (by decide), rg_setRg_other _ (by decide), rg_setRg_same,
    Nat.mod_eq_of_lt h]

theorem rg_imageRegs_len (s : State) (c : BitVec 512) (src : Nat) : rg (imageRegs s c src) R.IMG_LEN = cmdVal c 16 4 := by
  rw [imageRegs, rg_setB_other _ (by decide), rg_setB_other _ (by decide), rg_setRg_same]
  exact Nat.mod_eq_of_lt ((cmdVal_lt c 16 4).trans (by decide))

/-- The source and the length stay as they are while the engine starts. -/
theorem rg_imgStart {u : State} {cmd : Option (Nat × Nat × BitVec 512)} (h : checkRej u = none) {a : Nat} (ha : 0x040000000000 ≤ a)
    (ha' : a < 0x040000700000) (he : ¬ engineReg a) : rg (imgStart u cmd) a = rg u a := by
  have hstat : a ≠ R.IMG_STATUS := fun e => he (.inr (.inl e))
  rw [(imgStart_within h).regs a (not_holdReg ha ha'), setPhase, rg_setF_other _ hstat, (engineLoad_within u cmd).regs a id,
    (engineOn_within u).regs a he]

theorem imageRegs_mem (s : State) (c : BitVec 512) (src : Nat) : (imageRegs s c src).mem = s.mem := rfl

theorem rgB_withCmds (s : State) (l : List HostCmd) (a : Nat) (f : Fld) : rgB (withCmds s l) a f = rgB s a f := rfl

theorem cfgReg_withCmds (s : State) (l : List HostCmd) (f d : Nat) : cfgReg (withCmds s l) f d = cfgReg s f d := rfl

theorem busMaster_withCmds (s : State) (l : List HostCmd) (f : Nat) : busMaster (withCmds s l) f = busMaster s f := by
  rw [busMaster, cfgReg_withCmds, busMaster]

theorem readMax_withCmds (s : State) (l : List HostCmd) : readMax (withCmds s l) = readMax s := by
  rw [readMax, cfgReg_withCmds, readMax]

theorem mayRead_withCmds {f : Nat} (h : s.mayRead f) (l : List HostCmd) : (withCmds s l).mayRead f := by
  have hcap : readCap (withCmds s l) f = readCap s f := by rw [readCap, cfgReg_withCmds, cfgReg_withCmds, readCap]
  refine ⟨?_, h.2⟩
  rw [hcap]
  exact h.1

/-- A read that a command's start leads to. -/
theorem hostRead_withCmds {p : HostPurpose} {addr len : Nat} (l : List HostCmd) (h : s.mayRead 0) (hlen : len ≠ 0) :
    (hostRead (withCmds s l) 0 p addr len).out = s.out ++ [.hostRead 0 s.mesh.nextId addr (min len (readMax s))]
      ∧ (hostRead (withCmds s l) 0 p addr len).host.rds = s.host.rds ++
        [{ id := s.mesh.nextId, purpose := p, addr := addr, len := len, ask := min len (readMax s) }]
      ∧ (hostRead (withCmds s l) 0 p addr len).regs = s.regs := by
  have hr := hostRead_asks (p := p) (addr := addr) (mayRead_withCmds h l) hlen
  rwa [readMax_withCmds] at hr

theorem setRg_withCmds (s : State) (l : List HostCmd) (a v : Nat) : setRg (withCmds s l) a v = withCmds (setRg s a v) l := rfl

theorem setB_withCmds (s : State) (l : List HostCmd) (a : Nat) (f : Fld) (v : Bool) :
    setB (withCmds s l) a f v = withCmds (setB s a f v) l := rfl

theorem loadImage_busy (l : List HostCmd) (hhost : (cmdByte c 5).testBit 0 = false)
    (hb : rgB s R.IMG_STATUS R.IMG_STATUS_BUSY = true) :
    loadImageGo 0 q.toNat c (withCmds s l) = imageBusy (withCmds s l) 0 q.toNat c := by
  rw [loadImageGo, hhost, if_pos (by rfl), imageGo, if_pos (rgB_withCmds s l _ _ ▸ hb)]

theorem loadImage_starts (l : List HostCmd) (hhost : (cmdByte c 5).testBit 0 = false)
    (hb : rgB s R.IMG_STATUS R.IMG_STATUS_BUSY = false) :
    loadImageGo 0 q.toNat c (withCmds s l) = imgStart (withCmds (imageRegs s c (cmdVal c 8 8)) l) (some (0, q.toNat, c)) := by
  have hno : ¬ rgB (withCmds s l) R.IMG_STATUS R.IMG_STATUS_BUSY = true := by
    rw [rgB_withCmds, hb]
    decide
  rw [loadImageGo, hhost, if_pos (by rfl), imageGo, if_neg hno, setRg_withCmds, setRg_withCmds]
  dsimp only
  rw [setB_withCmds, setB_withCmds, imageRegs]

theorem loadImage_reads (l : List HostCmd) (hhost : (cmdByte c 5).testBit 0 = true) (hlen : cmdVal c 16 4 ≠ 0)
    (hb : rgB s R.IMG_STATUS R.IMG_STATUS_BUSY = false) (hbm : busMaster s 0 = true) :
    loadImageGo 0 q.toNat c (withCmds s l)
      = hostRead (withCmds s l) 0 (.image 0 q.toNat c) (cmdVal c 8 8) (cmdVal c 16 4) := by
  have hno : ¬ rgB (withCmds s l) R.IMG_STATUS R.IMG_STATUS_BUSY = true := by
    rw [rgB_withCmds, hb]
    decide
  have hbm' : ¬ (!busMaster (withCmds s l) 0) = true := by
    rw [busMaster_withCmds, hbm]
    decide
  rw [loadImageGo, hhost, if_neg (by decide), if_neg hno, if_neg hbm', if_neg hlen]

/-- A start is the same whatever commands of the host are listed. -/
theorem imgStart_withCmds {v : State} {cmd : Option (Nat × Nat × BitVec 512)} (h : checkRej v = none) (l : List HostCmd) :
    (imgStart (withCmds v l) cmd).img = some (openLoad v cmd)
      ∧ rgF (imgStart (withCmds v l) cmd) R.IMG_STATUS R.IMG_STATUS_PHASE = 2
      ∧ rg (imgStart (withCmds v l) cmd) R.IMG_SRC = rg v R.IMG_SRC ∧ rg (imgStart (withCmds v l) cmd) R.IMG_LEN = rg v R.IMG_LEN
      ∧ (imgStart (withCmds v l) cmd).mem = v.mem := by
  have hv := SameCheck.withCmds v l
  have hacc : checkRej (withCmds v l) = none := hv.checkRej.trans h
  obtain ⟨himg, hphase, -, -, hmem⟩ := imgStart_opens (cmd := cmd) hacc
  refine ⟨himg.trans (congrArg some (hv.openLoad rfl _)), hphase, ?_, ?_, hmem⟩
  · exact rg_imgStart hacc (by decide) (by decide) not_engineReg_imgSrc
  · exact rg_imgStart hacc (by decide) (by decide) not_engineReg_imgLen

/-- What a start by LOAD_IMAGE leaves. -/
theorem loadImage_opens (l : List HostCmd) (h : checkRej (imageRegs s c (cmdVal c 8 8)) = none) {t : State}
    (ht : imgStart (withCmds (imageRegs s c (cmdVal c 8 8)) l) (some (0, q.toNat, c)) = t) :
    t.img = some (openLoad (imageRegs s c (cmdVal c 8 8)) (some (0, q.toNat, c)))
      ∧ rgF t R.IMG_STATUS R.IMG_STATUS_PHASE = 2 ∧ rg t R.IMG_SRC = cmdVal c 8 8 ∧ rg t R.IMG_LEN = cmdVal c 16 4
      ∧ t.mem = s.mem := by
  obtain ⟨himg, hphase, hsrc, hlen, hmem⟩ := imgStart_withCmds (cmd := some (0, q.toNat, c)) h l
  rw [ht] at himg hphase hsrc hlen hmem
  rw [rg_imageRegs_src s c ((cmdVal_lt c 8 8).trans_eq (by decide))] at hsrc
  rw [rg_imageRegs_len] at hlen
  rw [imageRegs_mem] at hmem
  exact ⟨himg, hphase, hsrc, hlen, hmem⟩

/-- LOAD_IMAGE as the statement of the host's services has it. -/
theorem loadImage_settled (h : s.takes 0 q.toNat c 3) (hmode : cmdByte c 5 < 8) (harg : cmdByte c 6 = 0) (hz : zeros c 20 12)
    (hz' : zeros c 32 32) :
    ((cmdByte c 5).testBit 0 = false → cmdVal c 8 8 % 2 = 0 → cmdVal c 8 8 < 2 ^ 48 → rgB s R.IMG_STATUS R.IMG_STATUS_BUSY = true →
        ∃ t x, exec (.loadImage 0 q c) s = .next t ∧ s.answers t 0 q.toNat c 0x0C 1 x ∧ t.regs = s.regs)
    ∧ ((cmdByte c 5).testBit 0 = false → cmdVal c 8 8 % 2 = 0 → cmdVal c 8 8 < 2 ^ 48 →
        rgB s R.IMG_STATUS R.IMG_STATUS_BUSY = false → checkRej (imageRegs s c (cmdVal c 8 8)) = none →
        ∃ t, exec (.loadImage 0 q c) s = .next t
          ∧ t.img = some (openLoad (imageRegs s c (cmdVal c 8 8)) (some (0, q.toNat, c)))
          ∧ rgF t R.IMG_STATUS R.IMG_STATUS_PHASE = 2 ∧ rg t R.IMG_SRC = cmdVal c 8 8 ∧ rg t R.IMG_LEN = cmdVal c 16 4
          ∧ t.mem = s.mem)
    ∧ ((cmdByte c 5).testBit 0 = true → cmdVal c 16 4 ≠ 0 → cmdVal c 16 4 ≤ 2 ^ 24 →
        rgB s R.IMG_STATUS R.IMG_STATUS_BUSY = false → busMaster s 0 = true → s.mayRead 0 →
        ∃ t id, exec (.loadImage 0 q c) s = .next t
          ∧ t.out = s.out ++ [.hostRead 0 id (cmdVal c 8 8) (min (cmdVal c 16 4) (readMax s))] ∧ t.regs = s.regs
          ∧ t.host.rds = s.host.rds ++ [{ id := id, purpose := .image 0 q.toNat c, addr := cmdVal c 8 8, len := cmdVal c 16 4
                                          ask := min (cmdVal c 16 4) (readMax s) }]) := by
  refine ⟨fun hhost heven hlt hb => ?_, fun hhost heven hlt hb hck => ?_, fun hhost hne hle hb hbm hr => ?_⟩
  · obtain ⟨l, e⟩ := loadImage_goes h hmode harg hz hz' (fun _ => ⟨heven, hlt⟩) fun hh => by rw [hhost] at hh; cases hh
    rw [loadImage_busy l hhost hb] at e
    exact ⟨_, _, e, imageBusy_answers (withCmds s l) rfl, imageBusy_regs (withCmds s l)⟩
  · obtain ⟨l, e⟩ := loadImage_goes h hmode harg hz hz' (fun _ => ⟨heven, hlt⟩) fun hh => by rw [hhost] at hh; cases hh
    rw [loadImage_starts l hhost hb] at e
    exact ⟨_, e, loadImage_opens l hck rfl⟩
  · obtain ⟨l, e⟩ := loadImage_goes h hmode harg hz hz' (fun hh => by rw [hhost] at hh; cases hh) fun _ => hle
    rw [loadImage_reads l hhost hne hb hbm] at e
    obtain ⟨hout, hrds, hregs⟩ := hostRead_withCmds (p := .image 0 q.toNat c) (addr := cmdVal c 8 8) l hr hne
    exact ⟨_, _, e, hout, hregs, hrds⟩

/-! ### LOAD_MICROCODE -/

theorem loadMicrocode_goes (h : s.takes 0 q.toNat c 4) (hmode : cmdByte c 5 = 0) (harg : cmdByte c 6 = 0) (hz : zeros c 20 12)
    (hz' : zeros c 32 32) (hlen : 3421 ≤ cmdVal c 16 4) (hkeys : (cmdVal c 16 4 - 3421) % 32 = 0) :
    ∃ l, exec (.loadMicrocode 0 q c) s = .next (loadMicrocodeGo 0 q.toNat c (withCmds s l)) := by
  obtain ⟨l, -, e⟩ := cmdGo_right (go := fun q => loadMicrocodeGo 0 q c) h.1 rfl
    (bad := commonBad 0 c (cmdByte c 5 != 0) (cmdByte c 6 != 0)
      ++ [(16, decide (cmdVal c 16 4 < 3421) || (cmdVal c 16 4 - 3421) % 32 != 0), (20, notZero c 20 12), (32, notZero c 32 32)])
    (by
      refine List.forall_mem_append.mpr ⟨commonBad_eq h (by simp [hmode]) (by simp [harg]), ?_⟩
      intro x hx
      simp only [List.mem_cons, List.not_mem_nil, or_false] at hx
      rcases hx with rfl | rfl | rfl
      · simp only [hkeys, bne_self_eq_false, Bool.or_false, decide_eq_false_iff_not]
        omega
      · exact notZero_eq hz
      · exact notZero_eq hz')
  exact ⟨l, congrArg Host.Outcome.next e⟩

theorem mcodeClosed_withCmds (s : State) (l : List HostCmd) : mcodeClosed (withCmds s l) = mcodeClosed s := rfl

theorem loadMicrocode_settled (h : s.takes 0 q.toNat c 4) (hmode : cmdByte c 5 = 0) (harg : cmdByte c 6 = 0) (hz : zeros c 20 12)
    (hz' : zeros c 32 32) (hlen : 3421 ≤ cmdVal c 16 4) (hkeys : (cmdVal c 16 4 - 3421) % 32 = 0) :
    (mcodeClosed s = true → ∃ t, exec (.loadMicrocode 0 q c) s = .next t ∧ s.answers t 0 q.toNat c 0x0E 0 0 ∧ t.regs = s.regs)
    ∧ (mcodeClosed s = false → busMaster s 0 = true → s.mayRead 0 →
        ∃ t id, exec (.loadMicrocode 0 q c) s = .next t
          ∧ t.out = s.out ++ [.hostRead 0 id (cmdVal c 8 8) (min (cmdVal c 16 4) (readMax s))]
          ∧ t.host.rds = s.host.rds ++ [{ id := id, purpose := .microcode 0 q.toNat c, addr := cmdVal c 8 8, len := cmdVal c 16 4
                                          ask := min (cmdVal c 16 4) (readMax s) }]) := by
  obtain ⟨l, e⟩ := loadMicrocode_goes h hmode harg hz hz' hlen hkeys
  rw [loadMicrocodeGo, mcodeClosed_withCmds, busMaster_withCmds] at e
  refine ⟨fun hc => ?_, fun hc hbm hr => ?_⟩
  · rw [if_pos hc] at e
    exact ⟨_, e, answers_complete (u := withCmds s l) q.isLt rfl _ _ _, by rw [complete_eq _ q.isLt, withCmds]⟩
  · rw [if_neg (by simp [hc]), if_neg (by simp [hbm])] at e
    obtain ⟨hout, hrds, -⟩ := hostRead_withCmds (p := .microcode 0 q.toNat c) (addr := cmdVal c 8 8) l hr
      (by omega : cmdVal c 16 4 ≠ 0)
    exact ⟨_, _, e, hout, hrds⟩

/-! ### QUERY -/

theorem length_bytesOf (n v : Nat) : (bytesOf n v).length = n := by simp [bytesOf]

/-- CHIP_ID reads as the register holds it. -/
theorem readReg_chipId (s : State) : readReg s R.CHIP_ID = rg s R.CHIP_ID := by
  have hwin : ¬ inWin R.CHIP_ID = true := by decide
  have hshadow : ¬ (0x030000000000 ≤ R.CHIP_ID ∧ R.CHIP_ID < 0x030010000000 ∧ R.CHIP_ID % 0x1000000 = 0x300000) := by decide
  rw [readReg, if_neg hwin, if_neg hshadow]

theorem readReg_chipId_withCmds (s : State) (l : List HostCmd) : readReg (withCmds s l) R.CHIP_ID = readReg s R.CHIP_ID := by
  rw [readReg_chipId, readReg_chipId]
  rfl

/-- The buffer that a QUERY writes: the words of registers l, with zeros behind them. -/
def queryBytes (f : Nat → Nat) (l : List Nat) : List Byte :=
  (l.map f).flatMap (bytesOf 8) ++ List.replicate (4096 - 8 * (l.map f).length) 0

theorem length_flatMap_bytesOf (l : List Nat) : (l.flatMap (bytesOf 8)).length = 8 * l.length := by
  simp [List.length_flatMap, length_bytesOf, Nat.mul_comm]

theorem length_queryBytes (f : Nat → Nat) {l : List Nat} (h : l.length ≤ 512) : (queryBytes f l).length = 4096 := by
  rw [queryBytes, List.length_append, length_flatMap_bytesOf, List.length_replicate, List.length_map]
  omega

theorem take_queryBytes (f : Nat → Nat) (x : Nat) (l : List Nat) : (queryBytes f (x :: l)).take 8 = bytesOf 8 (f x) := by
  rw [queryBytes, List.map_cons, List.flatMap_cons, List.append_assoc]
  exact List.take_left' (length_bytesOf 8 _)

theorem queryWrite_eq {u : State} {f q : Nat} (h : busMaster u (requesterOf u f) = true) : queryWrite f q c u =
    complete (emit u (.hostWrite (requesterOf u f) (cmdVal c 8 8) (queryBytes (readReg u) (queryRegs u c)))) f q c 0 0
      ((queryRegs u c).map (readReg u)).length := by
  rw [queryWrite]
  exact if_neg (by simp [h])

/-- What a QUERY of the chip writes. -/
def chipRegs : List Nat := [R.STEPPING, R.MCODE_VERSION, R.IMG_STATUS, R.IMG_REGMAP, R.HI_STATUS, R.CN_COUNT]

theorem queryRegs_chip (u : State) (h : cmdByte c 5 = 0) : queryRegs u c = R.CHIP_ID :: chipRegs := by
  rw [queryRegs, if_pos h, chipRegs]

theorem requesterOf_zero (u : State) : requesterOf u 0 = 0 := if_pos rfl

theorem query_goes (h : s.takes 0 q.toNat c 8) (hmode : cmdByte c 5 = 0) (harg : cmdByte c 6 = 0) (hz : zeros c 16 16)
    (hz' : zeros c 32 32) : ∃ l, exec (.query 0 q c) s = .next (queryGo 0 q.toNat c (withCmds s l)) := by
  obtain ⟨l, -, e⟩ := cmdGo_right (go := fun q => queryGo 0 q c) h.1 rfl
    (bad := commonBad 0 c (decide (2 ≤ cmdByte c 5)) (cmdByte c 6 != 0) ++ [(16, notZero c 16 16), (32, notZero c 32 32)])
    (by
      refine List.forall_mem_append.mpr ⟨commonBad_eq h (by simp [hmode]) (by simp [harg]), ?_⟩
      intro x hx
      simp only [List.mem_cons, List.not_mem_nil, or_false] at hx
      rcases hx with rfl | rfl
      · exact notZero_eq hz
      · exact notZero_eq hz')
  exact ⟨l, congrArg Host.Outcome.next e⟩

theorem query_settled (h : s.takes 0 q.toNat c 8) (hmode : cmdByte c 5 = 0) (harg : cmdByte c 6 = 0) (hz : zeros c 16 16)
    (hz' : zeros c 32 32) (hbm : busMaster s 0 = true) :
    ∃ t d, exec (.query 0 q c) s = .next t ∧ t.out = s.out ++ [.hostWrite 0 (cmdVal c 8 8) d] ∧ d.length = 4096
      ∧ d.take 8 = bytesOf 8 (readReg s R.CHIP_ID) ∧ s.answers t 0 q.toNat c 0 0 7 ∧ t.regs = s.regs := by
  obtain ⟨l, e⟩ := query_goes h hmode harg hz hz'
  have hbm' : busMaster (withCmds s l) (requesterOf (withCmds s l) 0) = true := by
    rw [requesterOf_zero, busMaster_withCmds, hbm]
  rw [queryGo, if_pos ⟨rfl, hmode⟩, queryWrite_eq hbm', queryRegs_chip _ hmode, requesterOf_zero, List.length_map] at e
  refine ⟨_, _, e, (complete_within _ _ _ _ _ _ _).out (by decide), length_queryBytes _ (by decide), ?_,
    answers_complete (u := emit (withCmds s l) _) q.isLt rfl _ _ _, ?_⟩
  · rw [take_queryBytes, readReg_chipId_withCmds]
  · rw [complete_eq _ q.isLt, emit_regs, withCmds]

end

end Sys2Proof.Machine
end

section
/-! SUPPORT. CAPTURE with its edge and readout, and EPOCH (R376, R418, R419, R530, R531). -/

namespace Sys2Proof.Machine

/-! ### Stops with any cause of a stop -/

/-- A stop with cause 4, 5 or 6: STOPPED. -/
theorem isStopped_haltSeq_of (s : State) (b : Nat) {cause : Nat} (h : 4 ≤ cause) (h' : cause ≤ 6) :
    isStopped (haltSeq s b cause) b = true := by
  have hne : R.DBG_STATUS b ≠ R.ARR_SUSP b := by unfold R.DBG_STATUS R.ARR_SUSP; omega
  unfold haltSeq
  extract_lets a stop s1 s2 s3
  have hs3 : isStopped s3 b = true := rgB_setB_same _ _ (by decide) rfl _
  rw [if_pos (show stop = true by simp [stop, h, h'])]
  split
  · exact (rgB_setF_other _ hne _ _ _).trans hs3
  · exact hs3

theorem isStopped_girthStop (s : State) (n : Nat) {cause : Nat} (h : 4 ≤ cause) (h' : cause ≤ 6) :
    ∀ b ∈ blocksOf s n, isStopped (girthStop s n cause) b = true := by
  refine forEach_establishes (P := fun b t => isStopped t b = true) (fun t b => isStopped_haltSeq_of t b h h') (fun t b c hc => ?_)
    _ _
  by_cases e : c = b
  · rw [e, isStopped_haltSeq_of t b h h']
  · rw [isStopped, rgB_of_rg (haltSeq_other t e)]
    exact hc

/-! ### The edge of a capture -/

theorem captureEdge_stops (s : State) (k : Capture) : ∀ b ∈ blocksOf s k.part, halted (captureEdge s k) b = true := fun b hb =>
  halted_of_isStopped (s := girthStop s k.part 6) (isStopped_girthStop s k.part (by decide) (by decide) b hb)

theorem captureEdge_mem (s : State) (k : Capture) : (captureEdge s k).mem = s.mem :=
  (girthStop_within s k.part 6).mem (by decide)

theorem captureEdge_compls (s : State) (k : Capture) : (captureEdge s k).host.compls = s.host.compls := by
  have e : (captureEdge s k).host.compls = (girthStop s k.part 6).host.compls := rfl
  rw [e, (girthStop_within s k.part 6).host (by decide)]

/-- The capture goes on with the time of its edge. -/
theorem captureEdge_caps {s : State} {k : Capture} (h : k ∈ s.host.caps) :
    { k with edge := some s.timebase } ∈ (captureEdge s k).host.caps := by
  have w := girthStop_within s k.part 6
  have hk : k ∈ (girthStop s k.part 6).host.caps := by rw [w.host (by decide)]; exact h
  have ht : (girthStop s k.part 6).timebase = s.timebase := w.timebase (by decide)
  rw [← ht]
  exact List.mem_map.mpr ⟨k, hk, if_pos rfl⟩

/-! ### The command -/

section
variable {s : State} {f : Func} {q : BitVec 6} {c : BitVec 512} {n : Nat}

/-- The fields of CAPTURE. -/
def captureFields (s : State) (f : Nat) (c : BitVec 512) : List (Nat × Bool) :=
  commonBad f c (decide (3 ≤ cmdByte c 5)) (cmdByte c 6 / 8 % 16 != 0 || (cmdByte c 5 != 2 && cmdByte c 6 % 8 != 0))
    ++ [(16, partBad s c (captureBad s c)), (20, notZero c 20 4), (24, cmdByte c 5 != 1 && notZero c 24 8), (32, notZero c 32 32)]

theorem execCapture_eq : exec (.capture f q c) s = .next (cmdGo s f.val q.toNat c 5 (captureFields s f.val c)
    fun q => captureGo f.val q c) := rfl

theorem zeros_sub (h : zeros c 20 12) : zeros c 20 4 ∧ zeros c 24 8 := by
  simp only [zeros, cmdVal, Nat.reduceSub, Nat.reducePow] at h ⊢
  omega

/-- The fields but LEN are right. -/
theorem captureFields_common (h : s.takes f.val q.toNat c 5) (hm : cmdByte c 5 = 0) (ha : cmdByte c 6 % 128 = 0) :
    ∀ e ∈ commonBad f.val c (decide (3 ≤ cmdByte c 5)) (cmdByte c 6 / 8 % 16 != 0 || (cmdByte c 5 != 2 && cmdByte c 6 % 8 != 0)),
      e.2 = false := by
  have h8 : cmdByte c 6 / 8 % 16 = 0 := by omega
  have h7 : cmdByte c 6 % 8 = 0 := by omega
  exact commonBad_eq h (by simp [hm]) (by simp [h8, h7])

theorem capture_goes (h : s.takes f.val q.toNat c 5) (hm : cmdByte c 5 = 0) (ha : cmdByte c 6 % 128 = 0) (hz : zeros c 20 12)
    (hz' : zeros c 32 32) (hn : cmdPid c = n) (hlt : n < 16) (hd : defined s n = true) (hb : captureBad s c n = false) :
    ∃ l, exec (.capture f q c) s = .next (captureGo f.val q.toNat c (withCmds s l)) := by
  obtain ⟨l, -, e⟩ := cmdGo_right (bad := captureFields s f.val c) (go := fun q => captureGo f.val q c) h.1
    (by simp [opcMay])
    (by
      refine List.forall_mem_append.mpr ⟨captureFields_common h hm ha, ?_⟩
      intro x hx
      simp only [List.mem_cons, List.not_mem_nil, or_false] at hx
      rcases hx with rfl | rfl | rfl | rfl
      · exact (partBad_eq hn hlt hd).trans hb
      · exact notZero_eq (zeros_sub hz).1
      · simp [notZero_eq (zeros_sub hz).2]
      · exact notZero_eq hz')
  exact ⟨l, by rw [execCapture_eq, e]⟩

/-- A LEN that does not fit completes with INVALID at 16. -/
theorem capture_invalid (h : s.takes f.val q.toNat c 5) (hm : cmdByte c 5 = 0) (ha : cmdByte c 6 % 128 = 0)
    (hn : cmdPid c = n) (hlt : n < 16) (hd : defined s n = true) (hb : captureBad s c n = true) :
    ∃ t, exec (.capture f q c) s = .next t ∧ s.answers t f.val q.toNat c 1 16 0 ∧ t.regs = s.regs := by
  have hbad : firstBad (captureFields s f.val c) = some 16 := by
    rw [captureFields, firstBad_append (captureFields_common h hm ha), firstBad, partBad_eq hn hlt hd, hb]
    rfl
  obtain ⟨l, -, e⟩ := cmdGo_wrong (go := fun q => captureGo f.val q c) h.1 (by simp [opcMay]) hbad
  refine ⟨_, by rw [execCapture_eq, e], answers_complete (u := withCmds s l) q.isLt rfl _ _ _, ?_⟩
  rw [complete_eq _ q.isLt, withCmds]

/-- A capture that is to begin joins those of the host. -/
def withCap (s : State) (k : Capture) : State := { s with host := { s.host with caps := s.host.caps ++ [k] } }

theorem captureGo_edge (u : State) (hn : cmdPid c = n) (hlt : n < 16) (hd : defined u n = true) (hlead : leadOnly u n = false)
    (hm : cmdByte c 5 = 0) (hlen : cmdVal c 16 4 ≠ 0) : captureGo f.val q.toNat c u =
      captureEdge (withCap u { part := n, f := f.val, q := q.toNat, body := c }) { part := n, f := f.val, q := q.toNat, body := c } := by
  rw [captureGo, withPart_eq hn hlt hd, hlead, if_neg (by decide), if_neg hlen]
  exact if_pos hm

theorem captureGo_free (u : State) (hn : cmdPid c = n) (hlt : n < 16) (hd : defined u n = true) (hlead : leadOnly u n = false)
    (hlen : cmdVal c 16 4 = 0) :
    captureGo f.val q.toNat c u = complete (takeFree (freePart u n)) f.val q.toNat c 0 0 (freeNat u) := by
  rw [captureGo, withPart_eq hn hlt hd, hlead, if_neg (by decide), if_pos hlen]

theorem captureBad_eq (hlead : leadOnly s n = false) :
    captureBad s c n = if cmdVal c 16 4 = 0 then !captured s n else decide (cmdVal c 16 4 < captureLen s n) := by
  rw [captureBad, hlead]
  rfl

theorem captureLen_pos (s : State) (n : Nat) : captureLen s n ≠ 0 := by
  unfold captureLen
  omega

/-- What the release of a partition leaves of the host's side. -/
theorem freePart_within (s : State) (n : Nat) :
    Within [.dbg, .seqs, .stores, .out, .epochs, .rein] (fun a => stopReg a ∨ a = R.EP_STAT n) s (freePart s n) := by
  have h : Within [.dbg, .seqs, .stores, .out, .epochs, .rein] (fun a => stopReg a ∨ a = R.EP_STAT n) s s := .refl
  have hf : Within [.dbg, .seqs, .stores, .out, .epochs, .rein] (fun a => stopReg a ∨ a = R.EP_STAT n) s (partFreed s n) :=
    ((h.put .dbg (by decide)).andThen (sendAct_within _ n _) (by decide) fun _ => False.elim).forEach fun b h =>
      (h.andThen (girthFree_within _ b) (by decide) fun _ => .inl).when (·.andThen (wdReload_within _ b) (by decide) fun _ => .inl)
  obtain ⟨-, e⟩ | ⟨-, e⟩ | e | e := freePart_cases s n <;> rw [e]
  · exact h
  · exact h.put .dbg (by decide)
  · exact hf
  · exact hf.andThen (requestBoundary_within _ n) (by decide) fun _ => .inr

theorem rgB_takeFree (s : State) (a : Nat) (f : Fld) : rgB (takeFree s) a f = rgB s a f := rfl

/-- CAPTURE as the statement of the host's services has it. -/
theorem capture_settled (hz' : zeros c 32 32) (hn : cmdPid c = n) (hlt : n < 16) (hd : defined s n = true)
    (hlead : leadOnly s n = false) (h : s.takes f.val q.toNat c 5) (hm : cmdByte c 5 = 0) (ha : cmdByte c 6 % 128 = 0)
    (hz : zeros c 20 12) :
    (captureLen s n ≤ cmdVal c 16 4 → ∃ t k, exec (.capture f q c) s = .next t ∧ t.mem = s.mem ∧ k ∈ t.host.caps
        ∧ k.part = n ∧ k.body = c ∧ k.edge = some s.timebase ∧ t.host.compls = s.host.compls
        ∧ ∀ b ∈ blocksOf s n, halted t b = true)
    ∧ (cmdVal c 16 4 ≠ 0 → cmdVal c 16 4 < captureLen s n →
        ∃ t, exec (.capture f q c) s = .next t ∧ s.answers t f.val q.toNat c 1 16 0 ∧ t.regs = s.regs)
    ∧ (cmdVal c 16 4 = 0 → captured s n = false →
        ∃ t, exec (.capture f q c) s = .next t ∧ s.answers t f.val q.toNat c 1 16 0 ∧ t.regs = s.regs)
    ∧ (cmdVal c 16 4 = 0 → captured s n = true → s.dbg.chipStop = false → epState s n ≠ 6 → forced s n = false →
        ∃ t x, exec (.capture f q c) s = .next t ∧ s.answers t f.val q.toNat c 0 0 x
          ∧ ∀ b ∈ blocksOf s n, rgB t (R.DBG_STATUS b) R.DBG_STATUS_STOPPED = false) := by
  have hb := captureBad_eq (c := c) hlead
  refine ⟨fun hlen => ?_, fun hne hlen => ?_, fun h0 hcap => ?_, fun h0 hcap hc he hf => ?_⟩
  · have hne : cmdVal c 16 4 ≠ 0 := fun e => captureLen_pos s n (by omega)
    rw [if_neg hne, decide_eq_false (by omega)] at hb
    obtain ⟨l, e⟩ := capture_goes h hm ha hz hz' hn hlt hd hb
    rw [captureGo_edge (withCmds s l) hn hlt hd hlead hm hne] at e
    exact ⟨_, _, e, captureEdge_mem _ _, captureEdge_caps (List.mem_append_right _ (List.mem_singleton_self _)), rfl, rfl, rfl,
      captureEdge_compls _ _, captureEdge_stops (withCap (withCmds s l) { part := n, f := f.val, q := q.toNat, body := c })
        { part := n, f := f.val, q := q.toNat, body := c }⟩
  · rw [if_neg hne, decide_eq_true hlen] at hb
    exact capture_invalid h hm ha hn hlt hd hb
  · rw [if_pos h0, hcap] at hb
    exact capture_invalid h hm ha hn hlt hd hb
  · rw [if_pos h0, hcap] at hb
    obtain ⟨l, e⟩ := capture_goes h hm ha hz hz' hn hlt hd hb
    rw [captureGo_free (withCmds s l) hn hlt hd hlead h0] at e
    have hcompls : (takeFree (freePart (withCmds s l) n)).host.compls = s.host.compls := by
      rw [takeFree, (freePart_within (withCmds s l) n).host (by decide), withCmds]
    refine ⟨_, _, e, answers_complete q.isLt hcompls _ _ _, fun b hb => ?_⟩
    have hst : isStopped (freePart (withCmds s l) n) b = false  :=
      isStopped_freePart (s := withCmds s l) hc he hf b hb
    rw [rgB_of_rg (complete_regs _ _ _ _ _ _ _ _) _, rgB_takeFree]
    exact hst

/-! ### CAPTURE_EDGE -/

theorem captureEdge_settled (p : Part) {k : Capture} (hk : k.part = p.toNat) (hm : k ∈ s.host.caps) (he : k.edge = none)
    (hdue : edgeDue s k = true) : ∃ t x, exec (.captureEdge p) s = .next t ∧ t.mem = s.mem
      ∧ x ∈ t.host.caps ∧ x.part = p.toNat ∧ x.edge = some s.timebase ∧ ∀ b ∈ blocksOf s p.toNat, halted t b = true := by
  have hsome : (s.host.caps.find? fun k => k.part == p.toNat && k.edge.isNone && edgeDue s k).isSome = true :=
    List.find?_isSome.mpr ⟨k, hm, by simp [hk, he, hdue]⟩
  obtain ⟨x, hx⟩ := Option.isSome_iff_exists.mp hsome
  have hprop := List.find?_some hx
  simp only [Bool.and_eq_true, beq_iff_eq] at hprop
  obtain ⟨⟨hpart, -⟩, -⟩ := hprop
  have e : exec (.captureEdge p) s = .next (captureEdge s x) := by
    change execCaptureEdge p s = _
    rw [execCaptureEdge, hx]
  exact ⟨_, _, e, captureEdge_mem s x, captureEdge_caps (List.mem_of_find?_eq_some hx), hpart, rfl, hpart ▸ captureEdge_stops s x⟩

/-! ### EPOCH -/

theorem epoch_goes (h : s.takes f.val q.toNat c 6) (hm : cmdByte c 5 = 0) (ha : cmdByte c 6 = 0) (hz : zeros c 8 24)
    (hz' : zeros c 32 32) : ∃ l, exec (.epoch f q c) s = .next (epochGo f.val q.toNat c (withCmds s l)) := by
  have hsub : zeros c 8 8 ∧ zeros c 16 16 := by
    simp only [zeros, cmdVal, Nat.reduceSub, Nat.reducePow] at hz ⊢
    omega
  obtain ⟨l, -, e⟩ := cmdGo_right (go := fun q => epochGo f.val q c) h.1 (by simp [opcMay])
    (bad := commonBad f.val c (decide (2 ≤ cmdByte c 5)) (cmdByte c 6 != 0)
      ++ [(8, notZero c 8 8), (16, notZero c 16 16), (32, notZero c 32 32)])
    (by
      refine List.forall_mem_append.mpr ⟨commonBad_eq h (by simp [hm]) (by simp [ha]), ?_⟩
      intro x hx
      simp only [List.mem_cons, List.not_mem_nil, or_false] at hx
      rcases hx with rfl | rfl | rfl
      · exact notZero_eq hsub.1
      · exact notZero_eq hsub.2
      · exact notZero_eq hz')
  exact ⟨l, congrArg Host.Outcome.next e⟩

/-- Step 1 of a boundary in the epoch record and in EP_STAT. -/
def boundaryBegun (u : State) (n : Nat) : State :=
  setF (updEpoch u n fun e => { e with step := 1, defer := false, early := false, prep := now u }) (R.EP_STAT n) R.EP_STAT_STATE 2

theorem startBoundary_begun (u : State) (n : Nat) :
    Within [.seqs, .rein, .out] (fun _ => False) (boundaryBegun u n) (startBoundary u n) := by
  have h : Within [.seqs, .rein, .out] (fun _ => False) (boundaryBegun u n) (boundaryBegun u n) := .refl
  exact (h.forEach fun _ h => h.updSeq (by decide)).when fun h =>
    (h.put .rein (by decide)).andThen (epochMsg_within _ n _) (by decide) fun _ => id

theorem epochOf_setF (s : State) (a : Nat) (f : Fld) (v n : Nat) : epochOf (setF s a f v) n = epochOf s n := rfl

/-- The epoch record of a partition whose boundary starts. -/
theorem epochOf_startBoundary (u : State) (n : Nat) :
    epochOf (startBoundary u n) n = { epochOf u n with step := 1, defer := false, early := false, prep := now u } := by
  rw [(startBoundary_begun u n).epochOf n (by decide), boundaryBegun, epochOf_setF, epochOf_updEpoch_same]

theorem epState_startBoundary (u : State) (n : Nat) : epState (startBoundary u n) n = 2 := by
  rw [epState, (startBoundary_begun u n).rgF id, boundaryBegun, rgF_setF_same _ _ (by decide)]
  decide

/-- A boundary that is requested and can start does so. -/
theorem requestBoundary_starts {u : State} (hd : defined u n = true) (h6 : epState u n ≠ 6) (h0 : epState u n ≠ 0)
    (hstep : (epochOf u n).step = 0) (hw : boundaryWaits u n = false) (hc : cascadePart u n = false) :
    requestBoundary u n = startBoundary u n := by
  rw [requestBoundary, if_neg (by simp [hd, h6, h0, hc]), if_neg (by simp [hstep]), if_neg (by simp [hw])]

theorem updEpoch_within (u : State) (n : Nat) (g : Epoch → Epoch) : Within [.epochs] (fun _ => False) u (updEpoch u n g) :=
  Within.updEpoch .refl (by decide)

/-- What is noted of a partition's epoch beside a rollback decides nothing on whether a boundary waits. -/
theorem boundaryWaits_updEpoch (u : State) (n : Nat) {g : Epoch → Epoch} (hg : ∀ e, (g e).rolling = e.rolling) :
    boundaryWaits (updEpoch u n g) n = boundaryWaits u n := by
  have w := updEpoch_within u n g
  simp only [boundaryWaits, epochOf_updEpoch_same, hg, w.sb (by decide), (w.sameMap id id (by decide)).blocksOf, w.rgB id]

theorem epState_updEpoch (u : State) (n m : Nat) (g : Epoch → Epoch) : epState (updEpoch u n g) m = epState u m := rgF_congr rfl _ _

theorem askBoundary_starts {u : State} (hd : defined u n = true) (h6 : epState u n ≠ 6) (h0 : epState u n ≠ 0)
    (hstep : (epochOf u n).step = 0) (hw : boundaryWaits u n = false) (hc : cascadePart u n = false) :
    ∃ v, askBoundary u n = startBoundary (updEpoch u n fun e => { e with next := v }) n := by
  refine ⟨now u + (partCfg u n).epochMs * 100000, ?_⟩
  rw [askBoundary, if_neg (by simp [hstep, hd]), if_neg (by simp [hc])]
  have m := (updEpoch_within u n fun e => { e with next := now u + (partCfg u n).epochMs * 100000 }).sameMap id id (by decide)
  refine requestBoundary_starts (by rwa [m.defined]) (by rwa [epState_updEpoch]) (by rwa [epState_updEpoch]) ?_ ?_
    (by rwa [m.cascadePart])
  · rw [epochOf_updEpoch_same]
    exact hstep
  · rw [boundaryWaits_updEpoch, hw]
    exact fun _ => rfl

theorem boundaryWaits_withCmds (s : State) (l : List HostCmd) (n : Nat) : boundaryWaits (withCmds s l) n = boundaryWaits s n := by
  have w : Within [.host] (fun _ => False) s (withCmds s l) := Within.put .refl .host (by decide)
  simp only [boundaryWaits, w.epochOf n (by decide), w.sb (by decide), (w.sameMap id id (by decide)).blocksOf, w.rgB id]

theorem withWaiter (u : State) (n : Nat) (x : Nat × Nat × BitVec 512) :
    (epochOf (updEpoch u n fun e => { e with waiters := e.waiters ++ [x] }) n).step = (epochOf u n).step := by
  rw [epochOf_updEpoch_same]

/-- EPOCH as the statement of the host's services has it. -/
theorem epoch_settled (hz' : zeros c 32 32) (hn : cmdPid c = n) (hlt : n < 16) (hd : defined s n = true)
    (hlead : leadOnly s n = false) (h : s.takes f.val q.toNat c 6) (hm : cmdByte c 5 = 0) (ha : cmdByte c 6 = 0)
    (hz : zeros c 8 24) :
    (epState s n = 6 → ∃ t, exec (.epoch f q c) s = .next t
        ∧ s.answers t f.val q.toNat c 0x0B 0 (rgF s (R.EP_STAT n) R.EP_STAT_EPOCH * 2 ^ 32))
    ∧ (epState s n ≠ 6 → epState s n ≠ 0 → (epochOf s n).step = 0 → boundaryWaits s n = false → cascadePart s n = false →
        ∃ t, exec (.epoch f q c) s = .next t ∧ (epochOf t n).waiters = (epochOf s n).waiters ++ [(f.val, q.toNat, c)]
          ∧ (epochOf t n).step = 1 ∧ epState t n = 2 ∧ t.host.compls = s.host.compls ∧ t.mem = s.mem) := by
  obtain ⟨l, e⟩ := epoch_goes h hm ha hz hz'
  have hgo : epochGo f.val q.toNat c (withCmds s l) = if epState (withCmds s l) n = 6 then
      complete (withCmds s l) f.val q.toNat c 0x0B 0 (rgF (withCmds s l) (R.EP_STAT n) R.EP_STAT_EPOCH * 2 ^ 32)
      else askBoundary (updEpoch (withCmds s l) n fun e => { e with waiters := e.waiters ++ [(f.val, q.toNat, c)] }) n := by
    have hlead' : leadOnly (withCmds s l) n = false := hlead
    rw [epochGo, withPart_eq hn hlt (show defined (withCmds s l) n = true from hd), hlead', if_neg (by decide), if_pos hm]
  rw [hgo] at e
  have hep : epState (withCmds s l) n = epState s n := rgF_congr rfl _ _
  have hrg : rgF (withCmds s l) (R.EP_STAT n) R.EP_STAT_EPOCH = rgF s (R.EP_STAT n) R.EP_STAT_EPOCH := rgF_congr rfl _ _
  rw [hep, hrg] at e
  refine ⟨fun h6 => ?_, fun h6 h0 hstep hw hc => ?_⟩
  · rw [if_pos h6] at e
    exact ⟨_, e, answers_complete (u := withCmds s l) q.isLt rfl _ _ _⟩
  · rw [if_neg h6] at e
    let u := updEpoch (withCmds s l) n fun e => { e with waiters := e.waiters ++ [(f.val, q.toNat, c)] }
    have hstep' : (epochOf u n).step = 0 := (withWaiter _ n _).trans hstep
    have hw' : boundaryWaits u n = false := by
      rw [boundaryWaits_updEpoch, boundaryWaits_withCmds]
      exacts [hw, fun _ => rfl]
    have hep' : epState u n = epState s n := (epState_updEpoch _ n n _).trans hep
    obtain ⟨v, hv⟩ := askBoundary_starts (u := u) hd (by rwa [hep']) (by rwa [hep']) hstep' hw' hc
    rw [hv] at e
    have wb := startBoundary_within (updEpoch u n fun e => { e with next := v }) n
    refine ⟨_, e, ?_, ?_, epState_startBoundary _ n, ?_, wb.mem (by decide)⟩
    · rw [epochOf_startBoundary, epochOf_updEpoch_same, epochOf_updEpoch_same]
      rfl
    · rw [epochOf_startBoundary]
    · rw [wb.host (by decide)]
      rfl

end

end Sys2Proof.Machine
end

section
/-! SUPPORT. The readout of a capture (R418, R530, R531). -/

namespace Sys2Proof.Machine

/-! ### What the buffer shows does not depend on the host's side -/

/-- The host's side replaced. -/
def withHost (s : State) (h : HostSt) : State := { s with host := h }

theorem withHost_within (s : State) (h : HostSt) : Within [.host] (fun _ => False) s (withHost s h) :=
  Within.put .refl .host (by decide)

section
variable (s : State) (h : HostSt)

theorem withHost_map : SameMap s (withHost s h) := (withHost_within s h).sameMap id id (by decide)

theorem rg_withHost (a : Nat) : rg (withHost s h) a = rg s a := (withHost_within s h).regs a id

theorem seqOf_withHost (b : Nat) : seqOf (withHost s h) b = seqOf s b := (withHost_within s h).seqOf b (by decide)

theorem programOf_withHost (b : Nat) : programOf (withHost s h) b = programOf s b := by
  simp only [programOf, (withHost_map s h).partOf, (withHost_map s h).lockstep, leadOf, (withHost_map s h).partCfg]

theorem resumeWord_withHost (b i : Nat) : resumeWord (withHost s h) b i = resumeWord s b i := by
  unfold resumeWord
  rw [seqOf_withHost]

theorem parkRegion_withHost (q : MeshReq) : parkRegion (withHost s h) q = parkRegion s q := by
  simp only [parkRegion, (withHost_map s h).partOfRegion]

theorem shadowReg_withHost (g : Nat) : shadowReg (withHost s h) g = shadowReg s g := by
  simp only [shadowReg, shadowsUsed, logFill, (withHost_within s h).epochs (by decide), (withHost_within s h).mesh (by decide),
    parkRegion_withHost]

theorem now_withHost : now (withHost s h) = now s := rfl

theorem irq_withHost : (withHost s h).irq = s.irq := rfl

theorem readReg_withHost (a : Nat) : readReg (withHost s h) a = readReg s a := by
  unfold readReg
  simp only [rg_withHost, programOf_withHost, seqOf_withHost, resumeWord_withHost, shadowReg_withHost, now_withHost, irq_withHost]

theorem ctlWord_withHost (b n : Nat) : ctlWord (withHost s h) b n = ctlWord s b n := by
  simp only [ctlWord, readReg_withHost, now_withHost]

theorem cellAt_withHost (b i : Nat) : cellAt (withHost s h) b i = cellAt s b i := by
  rw [cellAt, (withHost_within s h).cells (by decide), cellAt]

theorem planeBytes_withHost (b : Nat) (bit : Cell → Bool) : planeBytes (withHost s h) b bit = planeBytes s b bit := by
  simp only [planeBytes, cellAt_withHost]

theorem stateRecord_withHost (b : Nat) : stateRecord (withHost s h) b = stateRecord s b := by
  simp only [stateRecord, planeBytes_withHost, rg_withHost, ctlWord_withHost, resumeWord_withHost, seqOf_withHost, readReg_withHost]

theorem captureBytes_withHost (n edge : Nat) : captureBytes (withHost s h) n edge = captureBytes s n edge := by
  simp only [captureBytes, (withHost_map s h).blocksOf, (withHost_map s h).lockstep, rgF_of_rg (rg_withHost s h _), rg_withHost,
    planeBytes_withHost, stateRecord_withHost]

end

/-! ### The readout -/

/-- The capture k leaves the host's list. -/
def withoutCap (s : State) (k : Capture) : State := withHost s { s.host with caps := s.host.caps.erase k }

section
variable {s : State} {k : Capture}

theorem requesterOf_withoutCap (f : Nat) : requesterOf (withoutCap s k) f = requesterOf s f := rfl

theorem busMaster_withoutCap (f : Nat) : busMaster (withoutCap s k) f = busMaster s f := rfl

/-- What a readout posts before the partition may go on. -/
def readOut (s : State) (k : Capture) (n : Nat) : State :=
  complete (emit (withoutCap s k) (.hostWrite (requesterOf s k.f) (cmdVal k.body 8 8) (captureBytes s n (k.edge.getD 0).toNat)))
    k.f k.q k.body 0 0 (k.edge.getD 0).toNat

theorem execCaptureReadoutDone_eq {p : Part} (h : (s.host.caps.find? fun k => k.part == p.toNat && k.edge.isSome) = some k)
    (hb : busMaster s (requesterOf s k.f) = true) : exec (.captureReadoutDone p) s = .next
      (if (cmdByte k.body 6).testBit 7 then freePart (readOut s k p.toNat) p.toNat else readOut s k p.toNat) := by
  change execCaptureReadoutDone p s = _
  have hb' : busMaster (withoutCap s k) (requesterOf (withoutCap s k) k.f) = true := hb
  rw [execCaptureReadoutDone, h]
  dsimp only
  rw [← withHost, ← withoutCap, if_pos hb', readOut, requesterOf_withoutCap, withoutCap, captureBytes_withHost]

theorem readOut_within (s : State) (k : Capture) (n : Nat) : Within [.host, .out] (fun _ => False) s (readOut s k n) := by
  have h : Within [.host, .out] (fun _ => False) s (withoutCap s k) := (withHost_within s _).mono (fun _ => id) (by decide)
  exact (h.emit (by decide)).andThen (complete_within _ _ _ _ _ _ _) (by decide) fun _ => id

theorem caps_readOut (h : k.q < 64) (n : Nat) : (readOut s k n).host.caps = s.host.caps.erase k := by
  rw [readOut, complete_eq _ h]
  rfl

theorem out_readOut (n : Nat) : (readOut s k n).out
    = s.out ++ [.hostWrite (requesterOf s k.f) (cmdVal k.body 8 8) (captureBytes s n (k.edge.getD 0).toNat)] :=
  (complete_within _ _ _ _ _ _ _).out (by decide)

theorem answers_readOut (h : k.q < 64) (n : Nat) : s.answers (readOut s k n) k.f k.q k.body 0 0 (k.edge.getD 0).toNat :=
  answers_complete (u := emit (withoutCap s k) _) h rfl _ _ _

/-- A list that begins with another one reads so. -/
theorem take_of_prefix {α : Type} {l l' : List α} (h : l <+: l') {n : Nat} (hn : l.length = n) : l'.take n = l := by
  subst hn
  exact (List.prefix_iff_eq_take.mp h).symm

theorem forced_congr {t : State} (hs : rg t R.IMG_STATUS = rg s R.IMG_STATUS) (hi : t.img = s.img) (n : Nat) :
    forced t n = forced s n := by
  rw [forced, rgB_of_rg hs, hi, forced]

/-- CAPTURE_READOUT_DONE as the statement of the host's services has it. -/
theorem captureReadout_settled (p : Part) (e : Word)
    (h : (s.host.caps.find? fun k => k.part == p.toNat && k.edge.isSome) = some k) (he : k.edge = some e)
    (hb : busMaster s (requesterOf s k.f) = true) (hq : k.q < 64) :
    ∃ t, exec (.captureReadoutDone p) s = .next t ∧ t.host.caps = s.host.caps.erase k
      ∧ t.out.take (s.out.length + 1)
        = s.out ++ [.hostWrite (requesterOf s k.f) (cmdVal k.body 8 8) (captureBytes s p.toNat e.toNat)]
      ∧ s.answers t k.f k.q k.body 0 0 e.toNat
      ∧ ((cmdByte k.body 6).testBit 7 = true → s.dbg.chipStop = false → epState s p.toNat ≠ 6 → forced s p.toNat = false →
          ∀ b ∈ blocksOf s p.toNat, rgB t (R.DBG_STATUS b) R.DBG_STATUS_STOPPED = false) := by
  have hedge : k.edge.getD 0 = e := by rw [he]; rfl
  have hexec := execCaptureReadoutDone_eq h hb
  have w := readOut_within s k p.toNat
  have hcaps := caps_readOut (s := s) hq p.toNat
  have hout := out_readOut (s := s) (k := k) p.toNat
  have hans := answers_readOut (s := s) hq p.toNat
  rw [hedge] at hout hans
  have hlen : (s.out ++ [Out.hostWrite (requesterOf s k.f) (cmdVal k.body 8 8) (captureBytes s p.toNat e.toNat)]).length
      = s.out.length + 1 := List.length_append
  by_cases hres : (cmdByte k.body 6).testBit 7 = true
  · rw [if_pos hres] at hexec
    have hhost := (freePart_within (readOut s k p.toNat) p.toNat).host (by decide)
    refine ⟨_, hexec, by rw [hhost, hcaps], ?_, hans.kept (congrArg HostSt.compls hhost), fun _ hc h6 hf b hbl => ?_⟩
    · exact take_of_prefix (hout ▸ (freePart_steadyBut (readOut s k p.toNat) p.toNat).out) hlen
    · refine isStopped_freePart (by rw [w.dbg (by decide), hc]) ?_ ?_ b ?_
      · rw [epState, w.rgF id]
        exact h6
      · rw [forced_congr (w.regs _ id) (w.img (by decide)), hf]
      · rw [(w.sameMap id id (by decide)).blocksOf]
        exact hbl
  · rw [if_neg hres] at hexec
    exact ⟨_, hexec, hcaps, by rw [hout]; exact List.take_of_length_le hlen.le, hans, fun hr => absurd hr hres⟩

end

end Sys2Proof.Machine
end

section
/-! SUPPORT. FENCE (R420). -/

namespace Sys2Proof.Machine

/-! ### The list of the commands once one has started -/

section
variable {s : State} {f q : Nat} {c : BitVec 512} {l : List HostCmd}

/-- Two entries of the same command, started or not. -/
structure SameCmd (x y : HostCmd) : Prop where
  f : x.f = y.f
  q : x.q = y.q
  body : x.body = y.body
  stamp : x.stamp = y.stamp

theorem sameCmd_startedIf (h x : HostCmd) : SameCmd x (startedIf h x) := by
  unfold startedIf
  split <;> exact ⟨rfl, rfl, rfl, rfl⟩

/-- Every command of the list stood in it before the start, except one that no fetch delivered. -/
theorem StartList.origin (h : StartList s f q c l) {x : HostCmd} (hx : x ∈ l) :
    (∃ y ∈ s.host.cmds, SameCmd y x) ∨ x = freshCmd s f q c := by
  rcases h with ⟨y, -, -, -, -, rfl⟩ | rfl
  · obtain ⟨z, hz, rfl⟩ := List.mem_map.mp hx
    exact .inl ⟨z, hz, sameCmd_startedIf y z⟩
  · rcases List.mem_append.mp hx with hx | hx
    · exact .inl ⟨x, hx, rfl, rfl, rfl, rfl⟩
    · exact .inr (List.mem_singleton.mp hx)

/-- A command that stood in the list stands in it still. -/
theorem StartList.kept (h : StartList s f q c l) {y : HostCmd} (hy : y ∈ s.host.cmds) : ∃ x ∈ l, SameCmd y x := by
  rcases h with ⟨z, -, -, -, -, rfl⟩ | rfl
  · exact ⟨_, List.mem_map_of_mem hy, sameCmd_startedIf z y⟩
  · exact ⟨y, List.mem_append_left _ hy, rfl, rfl, rfl, rfl⟩

/-- The command that started stands in the list. -/
theorem StartList.listed (h : StartList s f q c l) : ∃ x ∈ l, x.f = f ∧ x.q = q ∧ x.body = c := by
  rcases h with ⟨y, hy, hf, hq, hc, rfl⟩ | rfl
  · have e := sameCmd_startedIf y y
    exact ⟨_, List.mem_map_of_mem hy, e.f ▸ hf, e.q ▸ hq, e.body ▸ hc⟩
  · exact ⟨freshCmd s f q c, by simp, rfl, rfl, rfl⟩

/-- The first command with a property that does not tell a start stays the first one. -/
theorem StartList.find (h : StartList s f q c l) {p : HostCmd → Bool} (hp : ∀ x y, SameCmd x y → p x = p y) {y : HostCmd}
    (hy : s.host.cmds.find? p = some y) : ∃ x, l.find? p = some x ∧ SameCmd y x := by
  rcases h with ⟨z, -, -, -, -, rfl⟩ | rfl
  · have e : p ∘ startedIf z = p := funext fun x => (hp x _ (sameCmd_startedIf z x)).symm
    exact ⟨startedIf z y, by rw [List.find?_map, e, hy, Option.map_some], sameCmd_startedIf z y⟩
  · exact ⟨y, by rw [List.find?_append, hy, Option.some_or], rfl, rfl, rfl, rfl⟩

end

/-! ### The end of one fence in mode ORDER -/

section
variable {s : State} {f q : Nat} {c : BitVec 512} {l : List HostCmd} {w : Nat × Nat × BitVec 512}

/-- The fence joins those that wait. -/
def withFence (s : State) (w : Nat × Nat × BitVec 512) : State :=
  { s with host := { s.host with fences := s.host.fences ++ [w] } }

theorem endFences_none {u : State} (h : u.host.fences = []) : endFences u = u := by
  have hd : u.host.fences.filter (fenceOver u) = [] := by rw [h, List.filter_nil]
  have hf : (u.host.fences.filter fun w => !([] : List (Nat × Nat × BitVec 512)).contains w) = u.host.fences := by rw [h, List.filter_nil]
  simp only [endFences, hd, hf, List.foldl_nil]

theorem endFences_waits {u : State} (h : u.host.fences = [w]) (hw : fenceOver u w = false) : endFences u = u := by
  have hd : u.host.fences.filter (fenceOver u) = [] := by rw [h, List.filter_cons_of_neg (by simp [hw]), List.filter_nil]
  have hf : (u.host.fences.filter fun w => !([] : List (Nat × Nat × BitVec 512)).contains w) = u.host.fences := by simp
  simp only [endFences, hd, hf, List.foldl_nil]

theorem endFences_over {u : State} (h : u.host.fences = [w]) (hw : fenceOver u w = true) (hq : w.2.1 < 64) :
    (endFences u).host.fences = [] ∧ (endFences u).host.compls = u.host.compls ++ [mkCompl u w.1 w.2.1 w.2.2 0 0 0] := by
  have hd : u.host.fences.filter (fenceOver u) = [w] := by rw [h, List.filter_cons_of_pos hw, List.filter_nil]
  have hf : (u.host.fences.filter fun x => !([w] : List (Nat × Nat × BitVec 512)).contains x) = [] := by rw [h]; simp
  simp only [endFences, hd, hf, List.foldl_cons, List.foldl_nil]
  have hno : ¬ 64 ≤ (mkCompl { u with host := { u.host with fences := [] } } w.1 w.2.1 w.2.2 0 0 0).q := Nat.not_le.mpr hq
  rw [putCompl, if_neg hno]
  exact ⟨rfl, rfl⟩

theorem endOrderFences_one {u : State} (h : u.host.fences = [w]) : endOrderFences u = endFences (endFences u) := by
  rw [endOrderFences, h]
  rfl

theorem order_waits {u : State} (h : u.host.fences = []) (hw : fenceOver u w = false) :
    endOrderFences (withFence u w) = withFence u w := by
  have h1 : (withFence u w).host.fences = [w] := by rw [withFence, h]; rfl
  rw [endOrderFences_one h1, endFences_waits h1 hw, endFences_waits h1 hw]

theorem order_ends {u : State} (h : u.host.fences = []) (hw : fenceOver u (f, q, c) = true) (hq : q < 64)
    (hc : u.host.compls = s.host.compls) : s.answers (endOrderFences (withFence u (f, q, c))) f q c 0 0 0 := by
  have h1 : (withFence u (f, q, c)).host.fences = [(f, q, c)] := by rw [withFence, h]; rfl
  obtain ⟨hf, hcs⟩ := endFences_over h1 hw hq
  rw [endOrderFences_one h1, endFences_none hf]
  have a := answers_complete (u := withFence u (f, q, c)) (c := c) (f := f) (s := s) hq hc 0 0 0
  refine a.kept ?_
  rw [hcs, complete_eq _ hq]

end

/-! ### FENCE in mode ORDER -/

section
variable {s : State} {f : Func} {q : BitVec 6} {c : BitVec 512} {l : List HostCmd}

theorem fence_goes (h : s.takes f.val q.toNat c 7) (hz : zeros c 8 8) (hz' : zeros c 32 32) (hm : cmdByte c 5 < 2)
    (harg : if cmdByte c 5 = 0 then cmdByte c 6 = 0 else cmdByte c 6 < 6)
    (hmask : if cmdByte c 5 = 0 then zeros c 16 16
      else partBad s c (fun n => (maskBlocks c).any fun b => partOf s b != some n) = false) :
    ∃ l, StartList s f.val q.toNat c l ∧ exec (.fenceCommand f q c) s = .next (fenceGo f.val q.toNat c (withCmds s l)) := by
  obtain ⟨l, hl, e⟩ := cmdGo_right (go := fun q => fenceGo f.val q c) h.1 (by simp [opcMay])
    (bad := commonBad f.val c (decide (2 ≤ cmdByte c 5)) (if cmdByte c 5 = 0 then cmdByte c 6 != 0 else decide (6 ≤ cmdByte c 6))
      ++ [(8, notZero c 8 8),
        (16, if cmdByte c 5 = 0 then notZero c 16 16
          else partBad s c fun n => (maskBlocks c).any fun b => partOf s b != some n),
        (32, notZero c 32 32)])
    (by
      refine List.forall_mem_append.mpr ⟨commonBad_eq h (decide_eq_false (by omega)) ?_, ?_⟩
      · split at harg <;> simp_all
      intro x hx
      simp only [List.mem_cons, List.not_mem_nil, or_false] at hx
      rcases hx with rfl | rfl | rfl
      · exact notZero_eq hz
      · split at hmask
        · next h0 => exact (if_pos h0).trans (notZero_eq hmask)
        · next h0 => exact (if_neg h0).trans hmask
      · exact notZero_eq hz')
  exact ⟨l, hl, congrArg Host.Outcome.next e⟩

/-- The commands that stand in the list for a fence's partition. -/
def fenceMine (s : State) (f : Nat) (c : BitVec 512) : List HostCmd :=
  s.host.cmds.filter fun h => h.f == f && cmdByte h.body 4 == cmdByte c 4

theorem mem_fenceMine {f : Nat} {x : HostCmd} :
    x ∈ fenceMine s f c ↔ x ∈ s.host.cmds ∧ x.f = f ∧ cmdByte x.body 4 = cmdByte c 4 := by
  simp [fenceMine]

/-- With none of its partition's commands but itself, and nothing announced elsewhere, a fence is over. -/
theorem fenceOver_alone (hl : StartList s f.val q.toNat c l) (hmine : ∀ h ∈ fenceMine s f.val c, h.q = q.toNat ∧ h.body = c)
    (hst : ∀ e ∈ s.host.queues, e.1 / 64 = f.val → e.1 % 64 ≠ q.toNat → e.2.stamps = []) :
    fenceOver (withCmds s l) (f.val, q.toNat, c) = true := by
  have hall : ∀ x ∈ l, x.f = f.val → cmdByte x.body 4 = cmdByte c 4 → x.q = q.toNat ∧ x.body = c := by
    intro x hx hf hb
    rcases hl.origin hx with ⟨y, hy, e⟩ | rfl
    · rw [← e.q, ← e.body]
      exact hmine y (mem_fenceMine.mpr ⟨hy, e.f.trans hf, e.body ▸ hb⟩)
    · exact ⟨rfl, rfl⟩
  unfold fenceOver
  dsimp only
  split
  · rfl
  next me hme =>
    have hk : me.f = f.val ∧ me.q = q.toNat ∧ me.body = c := by
      have := List.find?_some hme
      simpa [and_assoc] using this
    obtain ⟨-, hq, -⟩ := hk
    have hhead : (l.filter fun h => (h.f == f.val && cmdByte h.body 4 == cmdByte c 4) && h.q == me.q).head? = some me := by
      rw [List.head?_filter, ← hme]
      refine List.find?_congr fun x hx => ?_
      rw [hq, Bool.eq_iff_iff]
      simp only [Bool.and_eq_true, beq_iff_eq]
      constructor
      · rintro ⟨⟨hf, hb⟩, hxq⟩
        exact ⟨⟨hf, hxq⟩, (hall x hx hf hb).2⟩
      · rintro ⟨⟨hf, hxq⟩, rfl⟩
        exact ⟨⟨hf, rfl⟩, hxq⟩
    have hother : (l.any fun h => (h.f == f.val && cmdByte h.body 4 == cmdByte c 4) && h.q != me.q && decide (h.stamp < me.stamp))
        = false := by
      rw [List.any_eq_false]
      intro x hx hp
      simp only [Bool.and_eq_true, beq_iff_eq, bne_iff_ne] at hp
      exact hp.1.2 ((hall x hx hp.1.1.1 hp.1.1.2).1.trans hq.symm)
    have hqueue : (s.host.queues.any fun e => e.1 / 64 == f.val && e.1 % 64 != me.q && e.2.stamps.any fun n => decide (n < me.stamp))
        = false := by
      rw [List.any_eq_false]
      intro e he hp
      simp only [Bool.and_eq_true, beq_iff_eq, bne_iff_ne] at hp
      rw [hst e he hp.1.1 (hq ▸ hp.1.2)] at hp
      exact absurd hp.2 (by simp)
    simp only [withCmds, hhead, hother, hqueue]
    simp

/-- The fence itself stands in the list. -/
theorem fence_found (hl : StartList s f.val q.toNat c l) : ∃ me ∈ l, me.f = f.val ∧ me.q = q.toNat ∧ me.body = c
    ∧ l.find? (fun h => h.f == f.val && h.q == q.toNat && h.body == c) = some me := by
  obtain ⟨x, hx, hf, hq, hc⟩ := hl.listed
  obtain ⟨me, hme⟩ := Option.isSome_iff_exists.mp (List.find?_isSome (p := fun h => h.f == f.val && h.q == q.toNat && h.body == c)
    |>.mpr ⟨x, hx, by simp [hf, hq, hc]⟩)
  have hp := List.find?_some hme
  simp only [Bool.and_eq_true, beq_iff_eq] at hp
  exact ⟨me, List.mem_of_find?_eq_some hme, hp.1.1, hp.1.2, hp.2, hme⟩

/-- Another command at the head of the fence's own queue makes it wait. -/
theorem fenceOver_behind (hl : StartList s f.val q.toNat c l) {h : HostCmd} (hq : h.q = q.toNat)
    (hhead : (fenceMine s f.val c).head? = some h) (hbody : h.body ≠ c) :
    fenceOver (withCmds s l) (f.val, q.toNat, c) = false := by
  obtain ⟨me, -, -, hmq, hmc, hme⟩ := fence_found hl
  rw [fenceMine, List.head?_filter] at hhead
  have hq' : s.host.cmds.find? (fun h => (h.f == f.val && cmdByte h.body 4 == cmdByte c 4) && h.q == me.q) = some h := by
    obtain ⟨hp, as, bs, hcs, has⟩ := List.find?_eq_some_iff_append.mp hhead
    refine List.find?_eq_some_iff_append.mpr ⟨?_, as, bs, hcs, fun x hx => ?_⟩
    · simpa [hq, hmq] using hp
    · have := has x hx
      simp only [Bool.not_eq_true'] at this
      rw [this]
      rfl
  obtain ⟨x, hx, e⟩ := hl.find (fun x y e => by rw [e.f, e.body, e.q]) hq'
  have hne : ¬ some x = some me := by
    rintro ⟨rfl⟩
    exact hbody (e.body.trans hmc)
  have hb : ((l.filter fun h => (h.f == f.val && cmdByte h.body 4 == cmdByte c 4) && h.q == me.q).head? == some me) = false := by
    rw [List.head?_filter, hx]
    exact beq_eq_false_iff_ne.mpr hne
  simp only [fenceOver, withCmds, hme, hb, Bool.false_and]

/-- A command of an earlier doorbell on another queue makes it wait. -/
theorem fenceOver_earlier (hl : StartList s f.val q.toNat c l) {h : HostCmd} (hh : h ∈ fenceMine s f.val c) (hq : h.q ≠ q.toNat)
    (hbell : h.stamp ≤ s.host.bells) (hst : ∀ x ∈ fenceMine s f.val c, x.body = c → h.stamp < x.stamp) :
    fenceOver (withCmds s l) (f.val, q.toNat, c) = false := by
  obtain ⟨me, hml, hmf, hmq, hmc, hme⟩ := fence_found hl
  obtain ⟨hcs, hf, hb⟩ := mem_fenceMine.mp hh
  have hlt : h.stamp < me.stamp := by
    rcases hl.origin hml with ⟨y, hy, e⟩ | rfl
    · rw [← e.stamp]
      have hyc : y.body = c := e.body.trans hmc
      exact hst y (mem_fenceMine.mpr ⟨hy, e.f.trans hmf, by rw [hyc]⟩) hyc
    · exact Nat.lt_succ_of_le hbell
  obtain ⟨x, hx, e⟩ := hl.kept hcs
  have hany : (l.any fun h => (h.f == f.val && cmdByte h.body 4 == cmdByte c 4) && h.q != me.q && decide (h.stamp < me.stamp))
      = true := by
    refine List.any_eq_true.mpr ⟨x, hx, ?_⟩
    simp [← e.f, ← e.body, ← e.q, ← e.stamp, hf, hb, hmq, hq, hlt]
  simp only [fenceOver, withCmds, hme, hany, Bool.not_true, Bool.and_false, Bool.false_and]

/-- FENCE in mode ORDER as the statement of the host's services has it. -/
theorem fenceOrder_settled (h : s.takes f.val q.toNat c 7) (hz : zeros c 8 8) (hz' : zeros c 32 32) {n : Nat}
    (hn : cmdPid c = n) (hlt : n < 16) (hd : defined s n = true)
    (hm : cmdByte c 5 = 0) (hv : cmdByte c 6 = 0) (hz16 : zeros c 16 16) (hf : s.host.fences = []) :
    ((∀ h ∈ fenceMine s f.val c, h.q = q.toNat ∧ h.body = c) →
        (∀ e ∈ s.host.queues, e.1 / 64 = f.val → e.1 % 64 ≠ q.toNat → e.2.stamps = []) →
        ∃ t, exec (.fenceCommand f q c) s = .next t ∧ s.answers t f.val q.toNat c 0 0 0)
      ∧ ∀ h ∈ fenceMine s f.val c, (if h.q = q.toNat then (fenceMine s f.val c).head? = some h ∧ h.body ≠ c
          else h.stamp ≤ s.host.bells ∧ ∀ x ∈ fenceMine s f.val c, x.body = c → h.stamp < x.stamp) →
          ∃ t, exec (.fenceCommand f q c) s = .next t
            ∧ t.host.fences = [(f.val, q.toNat, c)] ∧ t.host.compls = s.host.compls := by
  obtain ⟨l, hl, e⟩ := fence_goes h hz hz' (by omega) (by rwa [if_pos hm]) (by rwa [if_pos hm])
  have hgo : fenceGo f.val q.toNat c (withCmds s l) = endOrderFences (withFence (withCmds s l) (f.val, q.toNat, c)) := by
    rw [fenceGo, withPart_eq hn hlt (show defined (withCmds s l) n = true from hd), if_pos hm, withFence]
  rw [hgo] at e
  refine ⟨fun hmine hst => ?_, fun x hx hwait => ?_⟩
  · exact ⟨_, e, order_ends hf (fenceOver_alone hl hmine hst) q.isLt rfl⟩
  · have hw : fenceOver (withCmds s l) (f.val, q.toNat, c) = false := by
      split at hwait
      · next hq => exact fenceOver_behind hl hq hwait.1 hwait.2
      · next hq => exact fenceOver_earlier hl hx hq hwait.1 hwait.2
    rw [order_waits (u := withCmds s l) hf hw] at e
    refine ⟨_, e, ?_, rfl⟩
    rw [withFence]
    exact congrArg (· ++ [_]) hf

end

end Sys2Proof.Machine
end

section
/-! SUPPORT. The footprints of warnings and power requests, and FENCE in mode POWER (R420, R474, R475, R480, R527). -/

namespace Sys2Proof.Machine

/-! ### Footprints -/

/-- The registers of the warnings of code c. -/
def warnReg (c a : Nat) : Prop := a = R.SPW_WARN c ∨ a = R.SPW_WLAST c

theorem rollSpill_within (s : State) : Within [.dbg, .out] (fun _ => False) s (rollSpill s) := by
  have h : Within [.dbg, .out] (fun _ => False) s s := .refl
  unfold rollSpill
  split
  · exact h
  · exact (h.foldl fun _ h => h.unless (·.emit (by decide))).put .dbg (by decide)

theorem warnAt_within (s : State) (c u part place : Nat) (credit : Bool) :
    Within [.dbg, .out] (warnReg c) s (warnAt s c u part place credit) := by
  unfold warnAt
  extract_lets w s1 p _ s2 s3 s4 s5 k put
  have h1 : Within [.dbg, .out] (warnReg c) s s1 := (rollSpill_within s).mono (fun _ => False.elim) (by decide)
  have h2 : Within [.dbg, .out] (warnReg c) s s2 := h1.when (·.put .dbg (by decide))
  have h3 : Within [.dbg, .out] (warnReg c) s s3 := h2.when (·.setF (.inl rfl))
  have h5 : Within [.dbg, .out] (warnReg c) s s5 := (h3.addSat (.inl rfl)).setF (.inr rfl)
  exact h5.branch (·.put .dbg (by decide)) (·.branch (fun h => (h.emit (by decide)).put .dbg (by decide)) (·.put .dbg (by decide)))

theorem warnOp_within (s : State) (c u part : Nat) (credit : Bool) :
    Within [.dbg, .out] (warnReg c) s (warnOp s c u part credit) := warnAt_within s c u part 0 credit

/-- The registers of a power event. -/
def eventReg (a : Nat) : Prop := a = R.PC_EVENT ∨ cicReg a ∨ warnReg 7 a

/-- The parts that power requests change. -/
def powerParts : List Piece := [.epochs, .pwr, .dbg, .out]

theorem powerEvent_within (s : State) (f : Fld) : Within [.epochs, .dbg, .out] eventReg s (powerEvent s f) := by
  have h : Within [.epochs, .dbg, .out] eventReg s (setB s R.PC_EVENT f true) := Within.refl.setB (.inl rfl)
  exact (h.andThen (cicRise_within _ _ 8) (by decide) fun _ ha => .inr (.inl ha)).andThen (warnOp_within _ 7 0x200 0 true) (by decide)
    fun _ ha => .inr (.inr ha)

section
variable {A : Nat → Prop} {s₀ s : State}

theorem Within.refusePower {d code : Nat} (h : Within powerParts (fun _ => True) s₀ s) :
    Within powerParts (fun _ => True) s₀ (refusePower s d code) :=
  (h.setF trivial).andThen (powerEvent_within _ _) (by decide) fun _ _ => trivial

theorem Within.notePower {d v : Nat} {named : List Nat} (h : Within powerParts A s₀ s) :
    Within powerParts A s₀ (notePower s d v named) := h.foldl fun _ h => h.updEpoch (by decide)

theorem Within.waitDom {d v : Nat} {named : List Nat} (h : Within powerParts A s₀ s) :
    Within powerParts A s₀ (waitDom s d v named) := h.put .pwr (by decide)

theorem Within.setSluice {F : List Piece} {g j v : Nat} (h : Within F A s₀ s) (hA : A (R.GW_SLUICE g)) :
    Within F A s₀ (setSluice s g j v) := h.setF hA

/-- The goal of a change is noted, and the change under way. -/
def goalSet (s : State) (d v : Nat) : State :=
  setB { s with pwr := { s.pwr with goal := mapPut d (BitVec.ofNat 3 v) s.pwr.goal } } (R.PC_DOM d) R.PC_DOM_BUSY true

theorem Within.goalSet {d v : Nat} (h : Within powerParts A s₀ s) (hA : A (R.PC_DOM d)) :
    Within powerParts A s₀ (goalSet s d v) :=
  (h.put .pwr (v := { s.pwr with goal := mapPut d (BitVec.ofNat 3 v) s.pwr.goal }) (by decide)).setB hA

/-- What follows the goal of a change: the Sluice handshake or the wait for a boundary. -/
theorem beginState_within (s : State) (d v : Nat) :
    Within [.epochs] (fun a => ∃ g, a = R.GW_SLUICE g) (goalSet s d v) (beginState s d v) := by
  unfold Machine.beginState
  extract_lets _ s1
  -- the state as a variable: the kernel would otherwise evaluate what is read of it
  obtain ⟨t, ht, e⟩ : ∃ t, Within [.epochs] (fun a => ∃ g, a = R.GW_SLUICE g) (goalSet s d v) t ∧ s1 = t := ⟨_, .refl, rfl⟩
  rw [e]
  split
  · exact ht
  split
  · exact ht
  · split
    · exact ht.branch (·.updEpoch (by decide)) (·.when (·.setSluice ⟨_, rfl⟩))
    · exact ht.when (·.setSluice ⟨_, rfl⟩)

theorem Within.beginState {d v : Nat} (h : Within powerParts (fun _ => True) s₀ s) :
    Within powerParts (fun _ => True) s₀ (beginState s d v) :=
  (h.goalSet trivial).andThen (beginState_within s d v) (by decide) fun _ _ => trivial

theorem powerOp_within (s : State) (d v : Nat) (named : List Nat) :
    Within powerParts (fun _ => True) s (powerOp s d v named) := by
  have h : Within powerParts (fun _ => True) s s := .refl
  refine h.unless fun h => h.branch (fun h => ?_) (·.branch (·.refusePower) fun h => ?_)
  · exact h.refusePower.notePower.branch (·.setF trivial |>.waitDom) (·.when (·.setF trivial |>.beginState))
  · refine (h.setF trivial).notePower.branch (·.waitDom) (·.unless (·.branch (fun h => ?_) (·.beginState)))
    split
    · exact h.branch (·.beginState.setSluice trivial) (·.beginState)
    · exact h.beginState

end

end Sys2Proof.Machine
end

section
/-! SUPPORT. FENCE in mode POWER and the statement of the host's services (R420, R474, R475). -/

namespace Sys2Proof.Machine

/-! ### What a refusal of a power request reads -/

section
variable {s : State} {x : HostSt}

theorem sameWay_withHost : SameWay s (withHost s x) := ⟨rfl, rfl, rfl, fun a _ => rg_withHost _ _ a⟩

theorem rgF_withHost (a : Nat) (f : Fld) : rgF (withHost s x) a f = rgF s a f := rgF_of_rg (rg_withHost _ _ a) f

theorem rgB_withHost (a : Nat) (f : Fld) : rgB (withHost s x) a f = rgB s a f := rgB_of_rg (rg_withHost _ _ a) f

theorem domBlocks_withHost (d : Nat) : domBlocks (withHost s x) d = domBlocks s d := by
  simp only [domBlocks, sameWay_withHost.holder, sameWay_withHost.memPhys]

theorem halted_withHost (b : Nat) : halted (withHost s x) b = halted s b := by
  simp only [halted, rgB_withHost]

theorem powerRefusal_withHost (d v : Nat) (named : List Nat) :
    powerRefusal (withHost s x) d v named = powerRefusal s d v named := by
  simp only [powerRefusal, domBlocks_withHost, underLoad, gatewayMay, domCur, rgF_withHost, rgB_withHost, (withHost_map _ _).partOf,
    (withHost_map _ _).lockstep, (withHost_map _ _).blocksOf, sameWay_withHost.holder, seqOf_withHost, halted_withHost]
  rfl

end

/-! ### The physical blocks -/

theorem holderIn_lt_151 {s : State} {n b p : Nat} (hb : b < 128) (h : holderIn s n b = some p) : p < 151 := by
  induction n generalizing b with
  | zero => cases h
  | succ n ih =>
    have hn : ∀ g d k, g < 16 → neighbour g d = some k → k < 16 := by
      intro g d k hg hk
      unfold neighbour at hk
      split at hk <;> split at hk <;> cases hk <;> omega
    simp only [holderIn] at h
    split at h
    · cases h
      omega
    split at h
    · obtain ⟨k, hk, rfl⟩ := Option.map_eq_some_iff.mp h
      have := hn _ _ _ (by omega) hk
      omega
    split at h
    · exact ih (by omega) h
    · cases h

/-- A holder is a block of the package, or the number that a holder code without one names. -/
theorem holder_lt_151 {s : State} {b p : Nat} (hb : b < 128) (h : holder s b = some p) : p < 151 := by
  have hid : idleFrom = 33554432 := by norm_num [idleFrom]
  rw [holder, if_neg (by omega)] at h
  exact holderIn_lt_151 hb h

/-! ### FENCE in mode POWER -/

section
variable {s u : State} {f : Func} {q : BitVec 6} {c : BitVec 512} {l : List HostCmd} {b p v : Nat}

theorem mem_maskBlocks : b ∈ maskBlocks c ↔ b < 128 ∧ (cmdVal c 16 16).testBit b = true := by
  simp [maskBlocks]

/-- The fence joins those that wait for a power state. -/
def withPower (u : State) (w : Nat × Nat × BitVec 512) : State :=
  { u with host := { u.host with powers := u.host.powers ++ [w] } }

theorem fencePower_refused (hb : maskBlocks c = [b]) (hp : holder u b = some p) (hr : powerRefusal u p (cmdByte c 6) [p] ≠ 0)
    (f q : Nat) : fencePower u f q c = complete (powerOp u p (cmdByte c 6) [p]) f q c 0x0F b 0 := by
  have hn : [b].filterMap (holder u) = [p] := by simp [hp]
  have hr' : (powerRefusal u p (cmdByte c 6) [p] != 0) = true := bne_iff_ne.mpr hr
  simp only [fencePower, hb, hn, hp, hr', List.find?_cons, List.foldl_cons, List.foldl_nil]

theorem fencePower_accepted (hb : maskBlocks c = [b]) (hp : holder u b = some p) (hr : powerRefusal u p (cmdByte c 6) [p] = 0)
    (f q : Nat) : fencePower u f q c = endPowerFences (withPower (powerOp u p (cmdByte c 6) [p]) (f, q, c)) none := by
  have hn : [b].filterMap (holder u) = [p] := by simp [hp]
  have hr' : (powerRefusal u p (cmdByte c 6) [p] != 0) = false := by rw [hr]; rfl
  simp only [fencePower, hb, hn, hp, hr', List.find?_cons, List.find?_nil, List.foldl_cons, List.foldl_nil, withPower]

/-- A domain on its way into a deeper state. -/
def requested (u : State) (p v : Nat) : State := notePower (setF u (R.PC_DOM p) R.PC_DOM_REQ v) p v [p]

theorem requested_within (u : State) (p v : Nat) :
    Within powerParts (fun _ => False) (setF u (R.PC_DOM p) R.PC_DOM_REQ v) (requested u p v) := Within.notePower .refl

theorem requested_busy (u : State) (p v : Nat) :
    rgB (requested u p v) (R.PC_DOM p) R.PC_DOM_BUSY = rgB u (R.PC_DOM p) R.PC_DOM_BUSY :=
  ((requested_within u p v).rgB id _).trans (rgB_setF_field _ _ (by decide) (by decide) _)

theorem requested_cur (u : State) (p v : Nat) : domCur (requested u p v) p = domCur u p :=
  ((requested_within u p v).rgF id _).trans (rgF_setF_field _ _ (by decide) (by decide) _)

/-- An accepted request of an idle domain for a deeper state begins the change. -/
theorem powerOp_begins (hlt : p < 168) (hr : powerRefusal u p v [p] = 0) (hbusy : rgB u (R.PC_DOM p) R.PC_DOM_BUSY = false)
    (hcur : domCur u p < v) : powerOp u p v [p] = beginState (requested u p v) p v := by
  have hb := (requested_busy u p v).trans hbusy
  have hc := requested_cur u p v
  rw [powerOp, if_neg (by omega)]
  dsimp only
  rw [hr, if_neg (by decide), if_neg (by simp)]
  change (if rgB (requested u p v) _ _ = true then _ else if v = domCur (requested u p v) p then _
    else if v < domCur (requested u p v) p then _ else _) = _
  rw [hb, hc, if_neg (by decide), if_neg (by omega), if_neg (by omega)]
  rfl

/-- A change that has begun: its goal is noted, and the domain keeps its state and its blocks. -/
theorem beginState_goal (u : State) {p : Nat} (hlt : p < 168) (v : Nat) :
    (beginState u p v).pwr.goal = mapPut p (BitVec.ofNat 3 v) u.pwr.goal ∧ domCur (beginState u p v) p = domCur u p := by
  have w := beginState_within u p v
  refine ⟨by rw [w.pwr (by decide)]; rfl, ?_⟩
  have hne : ¬ ∃ g, R.PC_DOM p = R.GW_SLUICE g := by
    rintro ⟨g, hg⟩
    unfold R.PC_DOM R.GW_SLUICE rwin chipCtl at hg
    split at hg <;> omega
  exact (w.rgF hne _).trans (rgF_setF_field _ _ (by decide) (by decide) _)

/-- The registers of domain p and of the Sluice. -/
def domReg (p a : Nat) : Prop := a = R.PC_DOM p ∨ ∃ g, a = R.GW_SLUICE g

theorem not_domReg {p a : Nat} (hlt : p < 168) (h : a % 0x10000 = 0) : ¬ domReg p a := by
  rintro (rfl | ⟨g, rfl⟩)
  · unfold R.PC_DOM chipCtl at h
    omega
  · unfold R.GW_SLUICE rwin at h
    split at h <;> omega

theorem begun_within (u : State) (p v : Nat) : Within powerParts (domReg p) u (beginState (requested u p v) p v) := by
  have h : Within powerParts (domReg p) u (setF u (R.PC_DOM p) R.PC_DOM_REQ v) := Within.refl.setF (.inl rfl)
  exact ((h.andThen (requested_within u p v) (by decide) fun _ => False.elim).goalSet (.inl rfl)).andThen (beginState_within _ p v)
    (by decide) fun _ => .inr

theorem begun_holder (u : State) {p : Nat} (hlt : p < 168) (v b : Nat) :
    holder (beginState (requested u p v) p v) b = holder u b := by
  have w := begun_within u p v
  exact SameWay.holder ⟨w.mesh (by decide), w.cfg (by decide), w.foldHome (by decide),
    fun a ha => w.regs a (not_domReg hlt ha.1)⟩ b

/-- A fence whose block is in another state waits. -/
theorem endPowerFences_waits {u : State} {w : Nat × Nat × BitVec 512} (hpw : u.host.powers = [])
    (hb : b < 128) (hbit : (cmdVal w.2.2 16 16).testBit b = true) (hcur : blockCur u b ≠ cmdByte w.2.2 6) :
    endPowerFences (withPower u w) none = withPower u w := by
  have hdone : fenceDone (withPower u w) w = false := by
    rw [fenceDone]
    refine List.all_eq_false.mpr ⟨b, List.mem_range.mpr hb, ?_⟩
    have hcur' : blockCur (withPower u w) b ≠ cmdByte w.2.2 6 := by
      have e : withPower u w = withHost u { u.host with powers := u.host.powers ++ [w] } := rfl
      rwa [e, blockCur, sameWay_withHost.holder, show domCur (withHost u _) = domCur u from funext fun d => rgF_withHost _ _,
        ← blockCur]
    simp [hbit, hcur']
  have hp : (withPower u w).host.powers = [w] := by rw [withPower, hpw]; rfl
  have hpart : ((withPower u w).host.powers.partition fun x => fenceDone (withPower u w) x || false) = ([], [w]) := by
    rw [hp, List.partition_eq_filter_filter]
    simp [hdone]
  simp only [endPowerFences, hpart, List.foldl_nil]
  rw [← hp]

theorem mapHas_put {α : Type} (k : Nat) (x : α) (m : List (Nat × α)) : mapHas k (mapPut k x m) = true := by
  induction m with
  | nil => simp [mapPut, mapHas]
  | cons e m ih =>
    rw [mapPut]
    split
    · rw [mapHas, ih, if_neg (by omega)]
    split <;> simp [mapHas]

/-- A fence whose block may take a deeper state waits until it has. -/
theorem fencePower_begins (hb : maskBlocks c = [b]) (hp : holder u b = some p) (hr : powerRefusal u p (cmdByte c 6) [p] = 0)
    (hbusy : rgB u (R.PC_DOM p) R.PC_DOM_BUSY = false) (hcur : domCur u p < cmdByte c 6) (hpw : u.host.powers = []) (f q : Nat) :
    fencePower u f q c = withPower (beginState (requested u p (cmdByte c 6)) p (cmdByte c 6)) (f, q, c) := by
  have hmem : b < 128 ∧ (cmdVal c 16 16).testBit b = true := mem_maskBlocks.mp (by rw [hb]; exact List.mem_singleton_self b)
  obtain ⟨hb128, hbit⟩ := hmem
  have hp151 := holder_lt_151 hb128 hp
  have hlt : p < 168 := by omega
  rw [fencePower_accepted hb hp hr, powerOp_begins hlt hr hbusy hcur]
  refine endPowerFences_waits ?_ hb128 hbit ?_
  · rw [(begun_within u p _).host (by decide)]
    exact hpw
  · rw [blockCur, begun_holder u hlt, hp]
    dsimp only
    rw [(beginState_goal _ hlt _).2, requested_cur]
    exact hcur.ne

/-- FENCE in mode POWER as the statement of the host's services has it. -/
theorem fencePower_settled (h : s.takes f.val q.toNat c 7) (hz : zeros c 8 8) (hz' : zeros c 32 32) {n : Nat}
    (hn : cmdPid c = n) (hlt : n < 16) (hd : defined s n = true) (hm : cmdByte c 5 = 1) (hv : cmdByte c 6 < 6)
    (hb : maskBlocks c = [b]) (hpart : partOf s b = some n) (hp : holder s b = some p) :
    (powerRefusal s p (cmdByte c 6) [p] ≠ 0 →
        ∃ t, exec (.fenceCommand f q c) s = .next t ∧ s.answers t f.val q.toNat c 0x0F b 0)
      ∧ (powerRefusal s p (cmdByte c 6) [p] = 0 → rgB s (R.PC_DOM p) R.PC_DOM_BUSY = false → domCur s p < cmdByte c 6 →
        s.host.powers = [] →
          ∃ t, exec (.fenceCommand f q c) s = .next t ∧ t.host.powers = [(f.val, q.toNat, c)]
            ∧ t.host.compls = s.host.compls ∧ mapHas p t.pwr.goal = true ∧ (mapGet 0 p t.pwr.goal).toNat = cmdByte c 6) := by
  obtain ⟨l, -, e⟩ := fence_goes h hz hz' (by omega) (by rwa [if_neg (by omega)]) (by
    rw [if_neg (by omega), partBad_eq hn hlt hd, hb]
    simp [hpart])
  have hgo : fenceGo f.val q.toNat c (withCmds s l) = fencePower (withCmds s l) f.val q.toNat c := by
    rw [fenceGo, withPart_eq hn hlt (show defined (withCmds s l) n = true from hd), if_neg (by omega)]
  rw [hgo] at e
  obtain ⟨u, hu⟩ : ∃ u, u = withCmds s l := ⟨_, rfl⟩
  have hu' : u = withHost s { s.host with cmds := l } := hu
  rw [← hu] at e
  have hpu : holder u b = some p := by rw [hu', sameWay_withHost.holder, hp]
  have hru : powerRefusal u p (cmdByte c 6) [p] = powerRefusal s p (cmdByte c 6) [p] := by rw [hu', powerRefusal_withHost]
  refine ⟨fun hr => ?_, fun hr hbusy hcur hpw => ?_⟩
  · rw [fencePower_refused hb hpu (by rwa [hru])] at e
    refine ⟨_, e, answers_complete q.isLt ?_ _ _ _⟩
    rw [(powerOp_within u p (cmdByte c 6) [p]).host (by decide), hu, withCmds]
  · have hpw' : u.host.powers = [] := by rw [hu]; exact hpw
    have hp151 := holder_lt_151 (mem_maskBlocks.mp (by rw [hb]; exact List.mem_singleton_self b)).1 hp
    rw [fencePower_begins hb hpu (by rwa [hru]) (by rwa [hu', rgB_withHost]) (by rwa [hu', domCur, rgF_withHost]) hpw'] at e
    have hhost := (begun_within u p (cmdByte c 6)).host (by decide)
    have hgoal := (beginState_goal (requested u p (cmdByte c 6)) (show p < 168 by omega) (cmdByte c 6)).1
    generalize beginState (requested u p (cmdByte c 6)) p (cmdByte c 6) = t at e hhost hgoal
    refine ⟨_, e, ?_, ?_, ?_, ?_⟩
    · rw [withPower, hhost, hpw']
      rfl
    · rw [withPower, hhost, hu, withCmds]
    · rw [withPower, hgoal, mapHas_put]
    · rw [withPower, hgoal, mapGet_put_same]
      exact Nat.mod_eq_of_lt (by omega)

end

/-- Settles O51: each service by the lemma named after it, from what starts its command to what it leaves. -/
theorem hostServices : Obligations.HostServices := by
  unfold Obligations.HostServices
  refine ⟨?images, ?stops, ?fence, ?query, ?captures⟩
  case images =>
    intro s q c harg hz hz'
    exact ⟨fun h hmode => loadImage_settled h hmode harg hz hz',
      fun h hmode hlen hkeys => loadMicrocode_settled h hmode harg hz hz' hlen hkeys⟩
  case stops =>
    intro s f q c hz' n hlt hd hlead
    exact ⟨fun h hm ha hz => capture_settled hz' rfl hlt hd hlead h hm ha hz,
      fun h hm ha hz => epoch_settled hz' rfl hlt hd hlead h hm ha hz⟩
  case fence =>
    intro s f q c h hz hz' n v mine hlt hd
    exact ⟨fun hm hv hz16 hf => fenceOrder_settled h hz hz' rfl hlt hd hm hv hz16 hf,
      fun b p hm hv hb hpart hp => fencePower_settled h hz hz' rfl hlt hd hm hv hb hpart hp⟩
  case query => exact fun s q c h hmode harg hz hz' hbm => query_settled h hmode harg hz hz' hbm
  case captures =>
    exact fun s p k hk => ⟨fun hm he hdue => captureEdge_settled p hk hm he hdue,
      fun e h he hbm hq => captureReadout_settled p e h he hbm hq⟩

end Sys2Proof.Machine
end

section
/-! SUPPORT. The footprint of isolation, and what a rollback restores (R364, R378, R384). -/

namespace Sys2Proof.Machine

/-! ### A map put over another -/

section
variable {α : Type} {d : α} {k : Nat} {p : Nat → Bool} {m m' : List (Nat × α)}

theorem mapGet_foldl_put (l acc : List (Nat × α)) (h : (l.map Prod.fst).Pairwise (· < ·)) :
    mapGet d k (l.foldl (fun acc e => mapPut e.1 e.2 acc) acc) = mapGet (mapGet d k acc) k l := by
  induction l generalizing acc with
  | nil => rfl
  | cons e l ih =>
    rw [List.map_cons, List.pairwise_cons] at h
    obtain ⟨hlt, h⟩ := h
    rw [List.foldl_cons, ih _ h, mapGet_cons]
    split
    · next hk =>
      subst hk
      rw [mapGet_put_same]
      exact mapGet_eq_of_not_mem fun hm => absurd (hlt _ hm) (lt_irrefl _)
    · next hk => rw [mapGet_put_other _ (Ne.symm hk)]

theorem mapGet_foldl_put_other (l acc : List (Nat × α)) (h : ∀ e ∈ l, e.1 ≠ k) :
    mapGet d k (l.foldl (fun acc e => mapPut e.1 e.2 acc) acc) = mapGet d k acc := by
  induction l generalizing acc with
  | nil => rfl
  | cons e l ih =>
    rw [List.foldl_cons, ih _ fun x hx => h x (List.mem_cons_of_mem _ hx), mapGet_put_other _ (h e List.mem_cons_self).symm]

/-- A key of the part put over reads as that part has it. -/
theorem mapGet_over_same (h : (m.map Prod.fst).Pairwise (· < ·)) (hp : p k = true) :
    mapGet d k (mapOver p m m') = mapGet d k m := by
  have hs : ((mapOnly p m).map Prod.fst).Pairwise (· < ·) := h.sublist (List.Sublist.map _ List.filter_sublist)
  rw [mapOver, mapGet_foldl_put _ _ hs, mapGet_drop, if_pos hp, mapGet_only, if_pos hp]

/-- Any other key reads as before. -/
theorem mapGet_over_other (hp : p k = false) : mapGet d k (mapOver p m m') = mapGet d k m' := by
  rw [mapOver, mapGet_foldl_put_other, mapGet_drop, if_neg (by simp [hp])]
  intro e he hk
  have := (List.mem_filter.mp he).2
  rw [hk, hp] at this
  cases this

end

/-- The memory that a committed part is put over. -/
theorem memDigit_over {p : Nat → Bool} {m m' : List Host.Cell} (h : Memory.wf m = true) (a : Nat) :
    memDigit (mapOver (fun k => p (2 * k)) m m') a = if p (2 * (a / 2)) then memDigit m a else memDigit m' a := by
  have hs := ((mapWf_iff _ _).mp h).1
  split
  · next hp =>
    have hb : memByte (mapOver (fun k => p (2 * k)) m m') (a / 2) = memByte m (a / 2) :=
      mapGet_over_same (p := fun k => p (2 * k)) hs hp
    rw [memDigit, hb, memDigit]
  · next hp =>
    have hb : memByte (mapOver (fun k => p (2 * k)) m m') (a / 2) = memByte m' (a / 2) :=
      mapGet_over_other (p := fun k => p (2 * k)) (Bool.not_eq_true _ ▸ hp)
    rw [memDigit, hb, memDigit]

/-! ### Isolation -/

/-- The registers that a sweep of isolated requests changes. -/
def sweepReg (a : Nat) : Prop := (∃ r, a = R.RT_TAGS r) ∨ ∃ r, r < 24 ∧ a = R.RT_ISO r

section
variable {s : State}

theorem showTags_within (s : State) (r : Nat) : Within [.mesh, .out] sweepReg s (showTags s r) := by
  have h : Within [.mesh, .out] sweepReg s s := .refl
  exact h.forEach fun r h => (h.setF (.inl ⟨r, rfl⟩)).when (·.setF (.inl ⟨r, rfl⟩))

theorem freeTags_within (s : State) (p : MeshReq → Bool) : Within [.mesh, .out] sweepReg s (freeTags s p) := by
  have h : Within [.mesh, .out] sweepReg s s := .refl
  exact h.unless fun h => (h.put .mesh (by decide)).foldl fun r h => h.trans (showTags_within _ r)

theorem presentAll_within (s : State) (r p vc : Nat) (fs : List Flit) : Within [.out] (fun _ => False) s (presentAll s r p vc fs) :=
  Within.refl.foldl fun _ h => h.emit (by decide)

theorem respond_within (s : State) (q : MeshReq) (status : Nat) (data : List Nat) :
    Within [.mesh, .out] (fun _ => False) s (respond s q status data) := by
  have h : Within [.mesh, .out] (fun _ => False) s s := .refl
  exact h.branch (·.put .mesh (by decide)) fun h => (h.put .mesh (by decide)).unless fun h =>
    h.andThen (presentAll_within _ _ _ _ _) (by decide) fun _ => id

theorem neighbour_lt {g d k : Nat} (hg : g < 16) (h : neighbour g d = some k) : k < 16 := by
  unfold neighbour at h
  split at h <;> split at h <;> cases h <;> omega

theorem portTo_lt {x y tx ty p : Nat} (h : portTo x y tx ty = some p) : p < 4 := by
  unfold portTo at h
  split_ifs at h <;> cases h <;> decide

/-- The numbers of a target's region or block lie in their ranges. -/
def targetSmall : Target → Prop
  | .dram g => g < 16
  | .gateway g _ => g < 16
  | .block b _ => b < 128
  | .phys p _ => p < 144
  | _ => True

theorem targetOf_small (a : Nat) : targetSmall (targetOf s a) := by
  unfold targetOf cascadeTarget
  extract_lets j
  split_ifs <;> simp only [targetSmall, dramRegion] <;> omega

theorem destRouter_lt {t : Target} (h : targetSmall t) : destRouter s t < 24 := by
  cases t with
  | device j a =>
    simp only [destRouter]
    split
    · next hp =>
      have := portTo_lt hp
      rw [routerAt, if_neg (by decide), if_pos rfl]
      omega
    · simp [routerFor, routerAt]
  | block b o =>
    have hid : idleFrom = 33554432 := by norm_num [idleFrom]
    simp only [targetSmall, destRouter, routerFor] at h ⊢
    split <;> omega
  | chip o =>
    simp only [destRouter, routerFor, routerAt]
    split_ifs <;> omega
  | nowhere => simp [destRouter, routerFor, routerAt]
  | _ =>
    simp only [targetSmall, destRouter, routerFor] at h ⊢
    omega

theorem isoDomain_lt {t : Target} {d : Nat × Nat} (ht : targetSmall t) (h : isoDomain s t = some d) : d.1 < 24 := by
  cases t with
  | block b o =>
    obtain ⟨p, hp, rfl⟩ := Option.map_eq_some_iff.mp h
    have := holder_lt_151 ht hp
    change p / 9 < 24
    omega
  | chip o => cases h
  | device j a => cases h
  | nowhere => cases h
  | _ =>
    cases h
    simp only [targetSmall] at ht ⊢
    omega

theorem isolated_lt {q : MeshReq} {t : Target} {r : Nat} (ht : targetSmall t) (h : isolated s q t = some r) : r < 24 := by
  unfold isolated at h
  split at h
  · obtain ⟨-, ⟨⟩⟩ := Option.ite_none_right_eq_some.mp h
    exact destRouter_lt ht
  · obtain ⟨-, ⟨⟩⟩ := Option.ite_none_right_eq_some.mp h
    exact destRouter_lt ht
  · split at h
    · next e =>
      obtain ⟨-, ⟨⟩⟩ := Option.ite_none_right_eq_some.mp h
      exact isoDomain_lt ht e
    · cases h

/-- A sweep answers requests: what it changes beside the mesh is RT_TAGS and RT_ISO. -/
theorem sweepIso_within (s : State) : Within [.mesh, .out] sweepReg s (sweepIso s) := by
  refine (freeTags_within s _).foldl fun q h => h.branch (·.put .mesh (by decide)) fun h => ?_
  split
  · next r hr =>
    exact (h.addSat (.inr ⟨r, isolated_lt (targetOf_small _) hr, rfl⟩)).andThen (respond_within _ q 5 []) (by decide) fun _ => False.elim
  · exact h

end

end Sys2Proof.Machine
end

section
/-! SUPPORT. Rollbacks (R375, R384). -/

namespace Sys2Proof.Machine

/-! ### The restored state -/

section
variable {F : List Piece} {A : Nat → Prop} {s₀ s u : State} {n : Nat} {c : Snap}

/-- The parts that a restore changes. -/
def restoreParts : List Piece := [.cells, .mem, .flaws, .pages, .dma, .mesh, .host, .seqs, .keys]

/-- The registers that a restore changes: those of block windows, and the pending words of the CIC. -/
def restoreReg (a : Nat) : Prop := inWin a = true ∨ ∃ w, w < 16 ∧ a = R.CIC_PEND w

theorem cicOwner_lt {i : Nat} (hn : n < 16) (h : cicOwner s i = some n) : i < 1024 := by
  unfold cicOwner at h
  split at h
  · omega
  split at h
  · omega
  split at h
  · omega
  split at h
  · omega
  split at h
  · obtain ⟨-, ⟨⟩⟩ := Option.ite_none_right_eq_some.mp h
    omega
  · cases h

theorem restoreSnap_within (s : State) (hn : n < 16) (c : Snap) : Within restoreParts restoreReg s (restoreSnap s n c) := by
  unfold restoreSnap
  extract_lets bs back fl rs pend _ _ s1 s2 s3 s4
  have h1 : Within restoreParts restoreReg s s1 := by
    refine ⟨fun x hx => ?_, fun a ha => ?_⟩
    · cases x <;> simp [restoreParts] at hx <;> rfl
    · have hw : inWin a = false := Bool.eq_false_iff.mpr fun hw => ha (.inl hw)
      have hp : epochReg s n a = false := by rw [epochReg, hw, Bool.false_and, Bool.false_and]
      exact congrArg BitVec.toNat (mapGet_over_other hp)
  have h2 : Within restoreParts restoreReg s s2 := h1.forEach fun _ h => h.setSeq (by decide)
  have h3 : Within restoreParts restoreReg s s3 := h2.forEachMem fun i hi h =>
    h.when (·.setF (.inr ⟨i / 64, by have := List.mem_range.mp hi; omega, rfl⟩))
  have h4 : Within restoreParts restoreReg s s4 := h3.forEachMem fun e he h => by
    have hi := cicOwner_lt hn (beq_iff_eq.mp (List.mem_filter.mp he).2)
    exact h.setF (.inr ⟨e.1 / 64, by omega, rfl⟩)
  exact h4.forEach fun _ h => h.put .keys (by decide)

theorem restoreSnap_mem (s : State) (n : Nat) (c : Snap) :
    (restoreSnap s n c).mem = mapOver (fun k => ownedBy s n (2 * k)) c.mem s.mem := by
  unfold restoreSnap
  extract_lets bs back fl rs pend _ _ s1 s2 s3 s4
  have h2 : Within [.seqs] (fun _ => True) s1 s2 := Within.refl.forEach fun _ h => h.setSeq (by decide)
  have h3 : Within [.seqs] (fun _ => True) s1 s3 := h2.forEach fun i h => h.when (·.setF trivial)
  have h4 : Within [.seqs] (fun _ => True) s1 s4 := h3.forEach fun i h => h.setF trivial
  have h5 : Within [.seqs, .keys] (fun _ => True) s1 s4 := h4.mono (fun _ => id) (by decide)
  exact (h5.forEach (l := (epochOf s n).shadowed) (f := fun s fr => setKeyByte s fr (putBits (keyByte s fr) 6 6 0))
    fun _ h => h.put .keys (by decide)).mem (by decide)

/-! ### Registers of chip control -/

theorem inWin_chip {a : Nat} (h : 0x020000000000 ≤ a) (h' : a < 0x050000000000) : inWin a = false := by
  have hid : idleFrom = 33554432 := by norm_num [idleFrom]
  simp only [inWin, bwin, hid, Bool.or_eq_false_iff, Bool.and_eq_false_iff, decide_eq_false_iff_not]
  omega

/-- A register of chip control that holds no pending word is none that a restore changes. -/
theorem not_restoreReg {a : Nat} (h : 0x040000200100 ≤ a) (h' : a < 0x050000000000) : ¬ restoreReg a := by
  rintro (hw | ⟨w, hw, rfl⟩)
  · rw [inWin_chip (by omega) h'] at hw
    cases hw
  · unfold R.CIC_PEND chipCtl at h
    omega

theorem not_sweepReg {a : Nat} (h : a % 0x10000 ≠ 0x20) (h' : a < 0x030000000000 ∨ 0x040000690000 ≤ a ∨ a % 0x10000 ≠ 0x10) :
    ¬ sweepReg a := by
  rintro (⟨r, rfl⟩ | ⟨r, hr, rfl⟩)
  · unfold R.RT_TAGS rwin at h
    split at h <;> omega
  · unfold R.RT_ISO rwin at h'
    split at h' <;> omega

/-! ### A rollback -/

theorem epStat_not_journalReg (n : Nat) : ¬ journalReg (R.EP_STAT n) := by
  unfold journalReg R.EP_STAT R.CN_LAST R.SB_JRNL
  omega

/-- The state that a rollback restores, before it is noted as rolling. -/
def restored (u : State) (n : Nat) : State := match (epochOf u n).com with | some c => restoreSnap u n c | none => u

/-- The epoch record of a partition that rolls back. -/
def rolledEpoch (u : State) (n : Nat) (e : Epoch) : Epoch :=
  { e with
    held := [], alt := none, step := 0, shadowed := [], early := false
    wasHalted := (epochOf u n).wasHalted ||
      (blocksOf u n).any fun b => rgB u (R.DBG_STATUS b) R.DBG_STATUS_STOPPED || (halted u b && (seqOf u b).inProg)
    rolling := true, defer := e.defer || decide (e.step ≠ 0) }

theorem restored_within (u : State) (hn : n < 16) : Within restoreParts restoreReg u (restored u n) := by
  unfold restored
  split
  · exact restoreSnap_within u hn _
  · exact .refl

theorem rollback_eq (h6 : epState u n ≠ 6) (arg src unit loc : Nat) : rollback u n arg src unit loc =
    journal (addSat (addSat (setF (updEpoch (restored u n) n (rolledEpoch u n)) (R.EP_STAT n) R.EP_STAT_STATE 5) (R.EP_STAT n)
      R.EP_STAT_ROLLBK 1) R.CN_COUNT R.CN_COUNT_ROLLBACKS 1) 1 src n unit arg loc := by
  rw [rollback, if_neg h6]
  rfl

/-- Partition n of t rolls back from u. -/
structure Rolls (u t : State) (n : Nat) : Prop where
  state : epState t n = 5
  epoch : epochOf t n = rolledEpoch u n (epochOf u n)
  rollbk : rgF t (R.EP_STAT n) R.EP_STAT_ROLLBK = min (rgF u (R.EP_STAT n) R.EP_STAT_ROLLBK + 1) R.EP_STAT_ROLLBK.top
  count : rgF t R.CN_COUNT R.CN_COUNT_ROLLBACKS = min (rgF u R.CN_COUNT R.CN_COUNT_ROLLBACKS + 1) R.CN_COUNT_ROLLBACKS.top
  mem : t.mem = (restored u n).mem

theorem rollback_rolls (hn : n < 16) (h6 : epState u n ≠ 6) (arg src unit loc : Nat) :
    Rolls u (rollback u n arg src unit loc) n := by
  rw [rollback_eq h6]
  have wr := restored_within u hn
  have hep : ¬ restoreReg (R.EP_STAT n) := not_restoreReg (by unfold R.EP_STAT chipCtl; omega) (by unfold R.EP_STAT chipCtl; omega)
  have hcn : ¬ restoreReg R.CN_COUNT := not_restoreReg (by decide) (by decide)
  have hne : R.EP_STAT n ≠ R.CN_COUNT := by unfold R.EP_STAT R.CN_COUNT; omega
  have hej : ¬ journalReg (R.EP_STAT n) := epStat_not_journalReg n
  have hcj : ¬ journalReg R.CN_COUNT := by unfold journalReg; decide
  have wj := fun x => journal_within x 1 src n unit arg loc
  generalize hr : restored u n = r at wr ⊢
  refine ⟨?_, ?_, ?_, ?_, ?_⟩
  · rw [epState, (wj _).rgF hej, addSat, rgF_setF_other _ hne, addSat, rgF_setF_field _ _ (by decide) (by decide),
      rgF_setF_same _ _ (by decide)]
    decide
  · rw [(wj _).epochOf n (by decide), ← wr.epochOf n (by decide)]
    rw [addSat, addSat, epochOf_setF, epochOf_setF, epochOf_setF, epochOf_updEpoch_same]
  · rw [(wj _).rgF hej, addSat, rgF_setF_other _ hne, rgF_addSat_same _ _ (by decide), rgF_setF_field _ _ (by decide) (by decide),
      (updEpoch_within _ n _).rgF id, wr.rgF hep]
  · rw [(wj _).rgF hcj, rgF_addSat_same _ _ (by decide), addSat, rgF_setF_other _ hne.symm, rgF_setF_other _ hne.symm,
      (updEpoch_within _ n _).rgF id, wr.rgF hcn]
  · rw [(wj _).mem (by decide), addSat_mem, addSat_mem, setF_mem, updEpoch_mem, hr]

end

end Sys2Proof.Machine
end

section
/-! SUPPORT. Strikes against a block (R79, R375, R384). -/

namespace Sys2Proof.Machine

section
variable {s t u : State} {m : MCheck} {n b : Nat} {c : Snap}

/-! ### The alarm at the controller -/

/-- The state in which the controller takes up machine check m. -/
def struck (s : State) (m : MCheck) : State :=
  { s with dbg := { s.dbg with chk := s.dbg.chk.erase (m.src.toNat, m.unit.toNat, m.loc.toNat) } }

theorem exec_machineCheckAlarm (s : State) (m : MCheck) :
    exec (.machineCheckAlarm m) s = .next (sweepIso (checkOp (struck s m) m)) := rfl

theorem struck_within (s : State) (m : MCheck) : Within [.dbg] (fun _ => False) s (struck s m) := Within.refl.put .dbg (by decide)

theorem sameWay_struck : SameWay s (struck s m) := ⟨rfl, rfl, rfl, fun a _ => (struck_within s m).regs a id⟩

theorem sameMap_struck : SameMap s (struck s m) := (struck_within s m).sameMap id id (by decide)

theorem SameWay.blockOfPhys (h : SameWay s t) (p : Nat) : blockOfPhys t p = blockOfPhys s p := by
  simp only [Machine.blockOfPhys, h.holderCode, h.holder]

theorem SameWay.storeOfPhys (h : SameWay s t) (p : Nat) : storeOfPhys t p = storeOfPhys s p := by
  simp only [Machine.storeOfPhys, h.memPhys]

theorem checkOp_block (h : m.src = 1 ∨ m.src = 2 ∨ m.src = 5) (u : State) : checkOp u m = blockStrike u m := by
  unfold checkOp
  rcases h with h | h | h <;> rw [h] <;> rfl

/-- Whether the controller holds a fault of physical block p for the next sparing: its region is held, and its memories serve
no region that runs. -/
def heldFault (s : State) (p : Nat) : Bool :=
  p < 144 && heldRegion s (p / 9) && (match storeOfPhys s p with | some b => heldRegion s (b / 8) | none => true)

theorem heldFault_struck (p : Nat) : heldFault (struck s m) p = heldFault s p := by
  have hh : ∀ g, heldRegion (struck s m) g = heldRegion s g := fun g => by
    rw [heldRegion, (struck_within s m).rgF id, heldRegion]
  simp only [heldFault, hh, sameWay_struck.storeOfPhys]

theorem heldFault_serves {p : Nat}
    (h : heldRegion s (p / 9) = true → ∃ c, storeOfPhys s p = some c ∧ heldRegion s (c / 8) = false) : heldFault s p = false := by
  unfold heldFault
  cases hr : heldRegion s (p / 9) with
  | false => simp
  | true =>
    obtain ⟨c, hc, hg⟩ := h hr
    rw [hc]
    simp [hg]

theorem blockStrike_held (h : heldFault s m.unit.toNat = true) : blockStrike s m = deadBlock s m.unit.toNat m.src.toNat := by
  unfold heldFault at h
  unfold blockStrike
  exact if_pos h

theorem blockStrike_part (h : heldFault s m.unit.toNat = false) (hb : blockOfPhys s m.unit.toNat = some b) (hn : partOf s b = some n) :
    blockStrike s m = strike s n (1, m.unit, 0) m false (some b) fun s => columnFails s b m.src.toNat m.badCol m.answers := by
  unfold heldFault at h
  unfold blockStrike
  refine (if_neg ((Bool.not_eq_true _).mpr h)).trans ?_
  simp only [hb, hn]

/-! ### The first strike -/

/-- The strike is noted in the partition's epoch. -/
def noted (s : State) (n : Nat) (key : BitVec 8 × BitVec 10 × BitVec 64) : State :=
  updEpoch s n fun e => { e with strikes := setAdd key e.strikes }

theorem noted_within (s : State) (n : Nat) (key : BitVec 8 × BitVec 10 × BitVec 64) :
    Within [.epochs] (fun _ => False) s (noted s n key) := updEpoch_within s n _

/-- The parts and registers that a rollback changes. -/
def rollParts : List Piece := .epochs :: .sb :: restoreParts
def rollReg (n a : Nat) : Prop := restoreReg a ∨ a = R.EP_STAT n ∨ a = R.CN_COUNT ∨ journalReg a

theorem rollback_within (u : State) (hn : n < 16) (arg src unit loc : Nat) :
    Within rollParts (rollReg n) u (rollback u n arg src unit loc) := by
  by_cases h6 : epState u n = 6
  · rw [rollback, if_pos h6]
    exact .refl
  · rw [rollback_eq h6]
    have h : Within rollParts (rollReg n) u (restored u n) := (restored_within u hn).mono (fun _ => .inl) (by decide)
    have h := (h.updEpoch (n := n) (f := rolledEpoch u n) (by decide)).setF (a := R.EP_STAT n) (f := R.EP_STAT_STATE) (v := 5)
      (.inr (.inl rfl))
    have h := (h.addSat (a := R.EP_STAT n) (f := R.EP_STAT_ROLLBK) (v := 1) (.inr (.inl rfl))).addSat (a := R.CN_COUNT)
      (f := R.CN_COUNT_ROLLBACKS) (v := 1) (.inr (.inr (.inl rfl)))
    exact h.andThen (journal_within _ 1 src n unit arg loc) (by decide) fun _ h => .inr (.inr (.inr h))

theorem cascadePart_rollback (u : State) (hn : n < 16) (arg src unit loc : Nat) :
    cascadePart (rollback u n arg src unit loc) n = cascadePart u n := by
  rw [cascadePart, defined, (rollback_within u hn arg src unit loc).cfg (by decide), cascadePart, defined]

theorem rollbackHere_alone (h6 : epState u n ≠ 6) (hc : cascadePart u n = false) (hn : n < 16) (arg src unit loc : Nat) :
    rollbackHere u n arg src unit loc = rollback u n arg src unit loc := by
  have hc' := (cascadePart_rollback u hn arg src unit loc).trans hc
  rw [rollbackHere, if_neg h6]
  exact if_pos (by rw [hc']; rfl)

/-- A first strike rolls the partition back. -/
theorem strike_first {key : BitVec 8 × BitVec 10 × BitVec 64} {blk : Option Nat} {replace : State → State × Bool}
    (hk : key ∉ (epochOf s n).strikes) (h6 : epState s n ≠ 6) (hc : cascadePart s n = false) (hn : n < 16) :
    strike s n key m false blk replace = rollback (noted s n key) n 1 m.src.toNat m.unit.toNat m.loc.toNat := by
  have h6' : epState (noted s n key) n ≠ 6 := by rwa [epState, (noted_within s n key).rgF id]
  have hc' : cascadePart (noted s n key) n = false := by
    rwa [((noted_within s n key).sameMap id id (by decide)).cascadePart]
  unfold strike
  extract_lets again u
  have ha : again = false := by simp [again, hk]
  rw [ha]
  exact rollbackHere_alone h6' hc' hn 1 _ _ _

/-- What follows a rollback and changes neither epochs nor their counts leaves it the partition's. -/
theorem Rolls.kept {F : List Piece} {A : Nat → Prop} {r : State} (h : Rolls u r n) (w : Within F A r t) (he : .epochs ∉ F)
    (hm : .mem ∉ F) (hA : ¬ A (R.EP_STAT n)) (hc : ¬ A R.CN_COUNT) : Rolls u t n where
  state := by rw [epState, w.rgF hA]; exact h.state
  epoch := by rw [w.epochOf n he, h.epoch]
  rollbk := by rw [w.rgF hA, h.rollbk]
  count := by rw [w.rgF hc, h.count]
  mem := by rw [w.mem hm, h.mem]

theorem Rolls.swept {r : State} (h : Rolls u r n) : Rolls u (sweepIso r) n :=
  h.kept (sweepIso_within r) (by decide) (by decide)
    (not_sweepReg (by unfold R.EP_STAT chipCtl; omega) (.inr (.inl (by unfold R.EP_STAT chipCtl; omega))))
    (not_sweepReg (by decide) (.inr (.inl (by decide))))

theorem SameMap.ownedBy (h : SameMap s t) (n a : Nat) : ownedBy t n a = ownedBy s n a := by
  simp only [Machine.ownedBy, h.partOfRegion, h.partOf]

/-- A first strike as the statement of strikes has it. -/
theorem firstStrike_settled (hsrc : m.src = 1 ∨ m.src = 2 ∨ m.src = 5) (hb : blockOfPhys s m.unit.toNat = some b)
    (hp : partOf s b = some n) (h6 : epState s n ≠ 6) (hc : cascadePart s n = false)
    (hh : heldRegion s (m.unit.toNat / 9) = true → ∃ c, storeOfPhys s m.unit.toNat = some c ∧ heldRegion s (c / 8) = false)
    (hk : (1, m.unit, 0) ∉ (epochOf s n).strikes) (hcom : (epochOf s n).com = some c) (hwf : c.memWf = true) :
    ∃ t, exec (.machineCheckAlarm m) s = .next t ∧ epState t n = 5 ∧ (epochOf t n).rolling = true
      ∧ (1, m.unit, 0) ∈ (epochOf t n).strikes ∧ (epochOf t n).held = [] ∧ (epochOf t n).com = some c
      ∧ rgF t (R.EP_STAT n) R.EP_STAT_ROLLBK = min (rgF s (R.EP_STAT n) R.EP_STAT_ROLLBK + 1) R.EP_STAT_ROLLBK.top
      ∧ rgF t R.CN_COUNT R.CN_COUNT_ROLLBACKS = min (rgF s R.CN_COUNT R.CN_COUNT_ROLLBACKS + 1) R.CN_COUNT_ROLLBACKS.top
      ∧ ∀ a, memDigit t.mem a = if ownedBy s n (2 * (a / 2)) then memDigit c.mem a else memDigit s.mem a := by
  have hn : n < 16 := partOfRegion_lt hp
  have ws := struck_within s m
  have hexec := exec_machineCheckAlarm s m
  have e : checkOp (struck s m) m = rollback (noted (struck s m) n (1, m.unit, 0)) n 1 m.src.toNat m.unit.toNat m.loc.toNat := by
    rw [checkOp_block hsrc, blockStrike_part (by rw [heldFault_struck, heldFault_serves hh])
      ((sameWay_struck.blockOfPhys _).trans hb) ((sameMap_struck.partOf b).trans hp)]
    refine strike_first ?_ ?_ ?_ hn
    · rwa [ws.epochOf n (by decide)]
    · rwa [epState, ws.rgF id]
    · rwa [sameMap_struck.cascadePart]
  rw [e] at hexec
  have he : epochOf (noted (struck s m) n (1, m.unit, 0)) n
      = { epochOf s n with strikes := setAdd (1, m.unit, 0) (epochOf s n).strikes } := by
    rw [noted, epochOf_updEpoch_same, ws.epochOf n (by decide)]
  have wv : Within [.dbg, .epochs] (fun _ => False) s (noted (struck s m) n (1, m.unit, 0)) :=
    (ws.mono (fun _ => id) (by decide)).andThen (noted_within _ n _) (by decide) fun _ => id
  generalize noted (struck s m) n (1, m.unit, 0) = v at hexec he wv
  have hr := (rollback_rolls hn (by rwa [epState, wv.rgF id]) 1 m.src.toNat m.unit.toNat m.loc.toNat : Rolls v _ n).swept
  have hmem : (restored v n).mem = mapOver (fun k => ownedBy s n (2 * k)) c.mem s.mem := by
    rw [restored, he]
    dsimp only
    rw [hcom]
    refine (restoreSnap_mem v n c).trans ?_
    simp only [(wv.sameMap id id (by decide)).ownedBy, wv.mem (by decide)]
  refine ⟨_, hexec, hr.state, ?_, ?_, ?_, ?_, ?_, ?_, fun a => ?_⟩
  · rw [hr.epoch, rolledEpoch]
  · rw [hr.epoch, rolledEpoch, he]
    exact mem_setAdd _ _
  · rw [hr.epoch, rolledEpoch]
  · rw [hr.epoch, rolledEpoch, he]
    exact hcom
  · rw [hr.rollbk, wv.rgF id]
  · rw [hr.count, wv.rgF id]
  · rw [hr.mem, hmem]
    exact memDigit_over (p := ownedBy s n) hwf a

/-! ### A fault in a held region -/

/-- A block marked dead is so in the journal's spare map. -/
theorem markDead_dead (s : State) (p : Nat) : (mapGet 0 (p / 9) (markDead s p).jdead).getLsbD (p % 9) = true := by
  rw [markDead, mapGet_set_same, BitVec.getLsbD_or, BitVec.getLsbD_twoPow]
  simp
  omega

theorem deadBlock_within (s : State) (p src : Nat) : Within [.sb, .jdead] journalReg s (deadBlock s p src) := by
  have h : Within [.sb, .jdead] journalReg s s := .refl
  exact (h.andThen (journal_within _ 4 src _ p 0 0) (by decide) fun _ => id).put .jdead (by decide)

/-- A fault in a held region as the statement of strikes has it. -/
theorem heldStrike_settled (hsrc : m.src = 1 ∨ m.src = 2 ∨ m.src = 5) (hp : m.unit.toNat < 144)
    (hr : heldRegion s (m.unit.toNat / 9) = true) (hs : ∀ b, storeOfPhys s m.unit.toNat = some b → heldRegion s (b / 8) = true) :
    ∃ t, exec (.machineCheckAlarm m) s = .next t ∧ t.epochs = s.epochs ∧ t.mem = s.mem
      ∧ (mapGet 0 (m.unit.toNat / 9) t.jdead).getLsbD (m.unit.toNat % 9) = true := by
  have hf : heldFault s m.unit.toNat = true := by
    rw [heldFault, decide_eq_true hp, hr, Bool.true_and, Bool.true_and]
    split
    · next b hb => exact hs b hb
    · rfl
  have hexec := exec_machineCheckAlarm s m
  rw [checkOp_block hsrc, blockStrike_held (by rw [heldFault_struck, hf])] at hexec
  have wd := deadBlock_within (struck s m) m.unit.toNat m.src.toNat
  have wi := sweepIso_within (deadBlock (struck s m) m.unit.toNat m.src.toNat)
  have ws := struck_within s m
  refine ⟨_, hexec, ?_, ?_, ?_⟩
  · rw [wi.epochs (by decide), wd.epochs (by decide), ws.epochs (by decide)]
  · rw [wi.mem (by decide), wd.mem (by decide), ws.mem (by decide)]
  · rw [wi.jdead (by decide)]
    exact markDead_dead _ _

end

end Sys2Proof.Machine
end

section
/-! SUPPORT. The loss of a partition, and uncorrectable words of the DRAM (R313, R390). -/

namespace Sys2Proof.Machine

section
variable {s t : State} {n : Nat}

theorem Within.leadsCascade {F : List Piece} {A : Nat → Prop} (h : Within F A s t) (hA : ¬ A R.REIN_ID) :
    leadsCascade t = leadsCascade s := by
  simp only [Machine.leadsCascade, myIdx, leadIdx, h.rgF hA]

/-- What a source of the CIC notes in the epochs' copies leaves their other fields. -/
def SameButCopies (e f : Epoch) : Prop := ∃ x y, f = { e with com := x, alt := y }

theorem cicOutside_epoch (s : State) (i n : Nat) : SameButCopies (epochOf s n) (epochOf (cicOutside s i) n) := by
  unfold cicOutside
  split
  · exact ⟨_, _, rfl⟩
  · refine mapGet_map_of_key {} _ ?_ n SameButCopies ⟨_, _, rfl⟩ ?_ s.epochs
    · intro e
      split <;> rfl
    · intro e
      split <;> exact ⟨_, _, rfl⟩

theorem cicRise_epoch (s0 s : State) (i n : Nat) : SameButCopies (epochOf s n) (epochOf (cicRise s0 s i) n) := by
  unfold cicRise
  split
  · exact cicOutside_epoch (cicSet s i) i n
  · exact ⟨_, _, rfl⟩

theorem endRuns_now_within (s : State) (n status detail result : Nat) :
    Within [.host] (fun _ => False) s (endRuns s n status detail result false) := by
  unfold endRuns
  split
  refine (Within.refl.put .host (by decide)).foldl fun r h => ?_
  split
  · exact h.trans (complete_within _ _ _ _ _ _ _)
  · exact h

/-- Partition n is lost in t, from u. -/
structure Lost (u t : State) (n : Nat) : Prop where
  state : epState t n = 6
  lost : rgB t (R.EP_STAT n) R.EP_STAT_LOST = true
  count : rgF t R.CN_COUNT R.CN_COUNT_OUTSIDE = min (rgF u R.CN_COUNT R.CN_COUNT_OUTSIDE + 1) R.CN_COUNT_OUTSIDE.top
  held : (epochOf t n).held = []
  waiters : (epochOf t n).waiters = []
  mem : t.mem = u.mem

theorem Lost.kept {F : List Piece} {A : Nat → Prop} {u r : State} (h : Lost u r n) (w : Within F A r t) (he : .epochs ∉ F)
    (hm : .mem ∉ F) (hA : ¬ A (R.EP_STAT n)) (hc : ¬ A R.CN_COUNT) : Lost u t n where
  state := by rw [epState, w.rgF hA]; exact h.state
  lost := by rw [w.rgB hA, h.lost]
  count := by rw [w.rgF hc, h.count]
  held := by rw [w.epochOf n he, h.held]
  waiters := by rw [w.epochOf n he, h.waiters]
  mem := by rw [w.mem hm, h.mem]

theorem not_stopReg {a : Nat} (h : a % 0x1000000 < 0x700000 ∨ 0x800000 ≤ a % 0x1000000) : ¬ stopReg a := by
  unfold stopReg
  omega

theorem not_sluiceReg {a : Nat} (h : 0x030100000000 ≤ a) : ¬ sluiceReg a := by
  rintro ⟨g, hg, rfl⟩
  unfold R.GW_SLUICE rwin at h
  split at h <;> omega

theorem concealmentLost_loses {u : State} (hn : n < 16) (h6 : epState u n ≠ 6) (hk : keepsHeld u n = false) (src unit loc : Nat) :
    Lost u (concealmentLost u n src unit loc) n := by
  unfold concealmentLost
  rw [if_neg h6]
  extract_lets s0 keep s1 ws hs s2 fl mesh s3 s4 s5 s6 s7 s8 s9 s10
  have hkeep : keep = false := hk
  have hne : R.EP_STAT n ≠ R.CN_COUNT := by unfold R.EP_STAT R.CN_COUNT; omega
  have hcic : ∀ a, 0x040000A00010 ≤ a → ¬ cicReg a := by
    rintro a ha ⟨w, hw, rfl⟩
    unfold R.CIC_PEND chipCtl at ha
    omega
  have w5 : Within lossParts (fun a => stopReg a ∨ a = R.EP_STAT n) u s5 :=
    (((((stopPart_within u n 4).mono (fun _ => .inl) (by decide)).updEpoch (by decide)).put .mesh (by decide)).setF (.inr rfl)).setB
      (.inr rfl)
  have w6 := cicRise_within s0 s5 (16 + n)
  have w3 : Within [.mesh] (· = R.EP_STAT n) s2 s5 := by
    have h : Within [.mesh] (· = R.EP_STAT n) s2 s2 := .refl
    exact ((h.put .mesh (by decide)).setF rfl).setB rfl
  have he5 : (epochOf s5 n).held = [] ∧ (epochOf s5 n).waiters = [] := by
    rw [w3.epochOf n (by decide), epochOf_updEpoch_same, hkeep]
    exact ⟨rfl, rfl⟩
  have hst : epState s5 n = 6 := ((rgF_setF_field s4 _ (f := R.EP_STAT_LOST) (g := R.EP_STAT_STATE) (by decide) (by decide) _).trans
    (rgF_setF_same s3 _ (f := R.EP_STAT_STATE) (by decide) 6)).trans (by decide)
  have hlo : rgB s5 (R.EP_STAT n) R.EP_STAT_LOST = true := rgB_setB_same s4 _ (by decide) rfl _
  have h7 : Lost u s7 n := by
    have hep : ¬ cicReg (R.EP_STAT n) := hcic _ (by unfold R.EP_STAT chipCtl; omega)
    obtain ⟨x, y, he6⟩ := cicRise_epoch s0 s5 (16 + n) n
    have w7 : Within [] (· = R.CN_COUNT) s6 s7 := Within.refl.addSat rfl
    have he7 : epochOf s7 n = { epochOf s5 n with com := x, alt := y } := (w7.epochOf n (by decide)).trans he6
    refine ⟨?_, ?_, ?_, ?_, ?_, ?_⟩
    · rw [epState, w7.rgF hne, w6.rgF hep]
      exact hst
    · rw [w7.rgB hne, w6.rgB hep, hlo]
    · refine (rgF_addSat_same s6 _ (by decide) 1).trans ?_
      rw [w6.rgF (hcic _ (by decide)), w5.rgF]
      exact not_or.mpr ⟨not_stopReg (by decide), hne.symm⟩
    · rw [he7]
      exact he5.1
    · rw [he7]
      exact he5.2
    · rw [w7.mem (by decide), w6.mem (by decide), w5.mem (by decide)]
  have w9 : Within [.sb, .host] (fun a => journalReg a ∨ sluiceReg a) s7 s9 :=
    ((journal_within s7 0x0B src n unit 0 loc).mono (fun _ => .inl) (by decide)).andThen (endRuns_now_within s8 n 0x0B 0 0) (by decide)
      fun _ => False.elim
  have w10 : Within [.sb, .host] (fun a => journalReg a ∨ sluiceReg a) s7 s10 := w9.foldl fun x h => by
    split
    exacts [h.andThen (postCompl_within _ _) (by decide) fun _ => False.elim, h]
  refine h7.kept ((w10.foldl fun x h => h.andThen (complete_within _ _ _ _ _ _ _) (by decide) fun _ => False.elim).andThen
    (raiseFences_within _) (by decide) fun _ => .inr) (by decide) (by decide) (not_or.mpr ⟨epStat_not_journalReg n, ?_⟩)
    (not_or.mpr ⟨by unfold journalReg; decide, ?_⟩)
  · exact not_sluiceReg (by unfold R.EP_STAT chipCtl; omega)
  · exact not_sluiceReg (by decide)

/-! ### A word of the DRAM -/

theorem dramStrike_outside {m : MCheck} (hp : partOfRegion s (dramRegion m.loc.toNat) = some n)
    (hs : (epochOf s n).shadowed.contains (m.loc.toNat / 0x20000) = false) :
    dramStrike s m = concealmentLost s n 6 (0x100 + dramRegion m.loc.toNat) m.loc.toNat := by
  unfold dramStrike
  simp only [hp, hs, Bool.not_false, if_true]

/-- A strike on the DRAM as the statement of strikes has it. -/
theorem dramStrike_settled {m : MCheck} (hsrc : m.src = 6) (hp : partOfRegion s (dramRegion m.loc.toNat) = some n) (h6 : epState s n ≠ 6)
    (hs : (epochOf s n).shadowed.contains (m.loc.toNat / 0x20000) = false) (hk : keepsHeld s n = false) :
    ∃ t, exec (.machineCheckAlarm m) s = .next t ∧ epState t n = 6 ∧ rgB t (R.EP_STAT n) R.EP_STAT_LOST = true
      ∧ rgF t R.CN_COUNT R.CN_COUNT_OUTSIDE = min (rgF s R.CN_COUNT R.CN_COUNT_OUTSIDE + 1) R.CN_COUNT_OUTSIDE.top
      ∧ (epochOf t n).held = [] ∧ (epochOf t n).waiters = [] ∧ t.mem = s.mem := by
  have hn : n < 16 := partOfRegion_lt hp
  have ws := struck_within s m
  have hexec := exec_machineCheckAlarm s m
  have hop : checkOp (struck s m) m = dramStrike (struck s m) m := by
    unfold checkOp
    rw [hsrc]
    rfl
  rw [hop, dramStrike_outside ((sameMap_struck.partOfRegion _).trans hp) (by rw [ws.epochOf n (by decide)]; exact hs)] at hexec
  have hk' : keepsHeld (struck s m) n = false := by
    rw [keepsHeld, sameMap_struck.cascadePart, ws.leadsCascade id, ws.epochOf n (by decide), ws.rein (by decide)]
    exact hk
  have h : Lost (struck s m) _ n := concealmentLost_loses hn (by rwa [epState, ws.rgF id]) hk' 6 (0x100 + dramRegion m.loc.toNat)
    m.loc.toNat
  have h' := h.kept (sweepIso_within _) (by decide) (by decide)
    (not_sweepReg (by unfold R.EP_STAT chipCtl; omega) (.inr (.inl (by unfold R.EP_STAT chipCtl; omega))))
    (not_sweepReg (by decide) (.inr (.inl (by decide))))
  exact ⟨_, hexec, h'.state, h'.lost, by rw [h'.count, ws.rgF id], h'.held, h'.waiters, by rw [h'.mem, ws.mem (by decide)]⟩

end

end Sys2Proof.Machine
end

section
/-! SUPPORT. Replacement of a block (R118, R375, R386). -/

namespace Sys2Proof.Machine

/-! ### The steps of a replacement -/

/-- The block that physical block p's logic leaves is shown dead in BSW_MAP, unless its region is under load. -/
def deadShown (s : State) (p : Nat) : State :=
  if underLoad s (p / 9) then s else
  let s := setF s (R.BSW_MAP (p / 9)) ⟨48 + p % 9, 48 + p % 9⟩ 1
  if p % 9 = 8 then setF s (R.BSW_MAP (p / 9)) R.BSW_MAP_SPARE_ST 3 else s

/-- Logical block b stands on holder code `code`, and its old holder p is isolated. -/
def codeShown (s : State) (b p code : Nat) : State :=
  setF (setF (deadShown s p) (R.BSW_MAP (b / 8)) (posFld (b % 8)) code) (R.RT_ISO (p / 9)) ⟨1 + p % 9, 1 + p % 9⟩ 1

/-- Its state has come to the new holder, whose domain takes power state cur. -/
def stateMoved (s : State) (b p code cur : Nat) : State :=
  if code / 16 = 2 then { s with foldHome := mapSet (9 * (b / 8) + b % 8) b p s.foldHome }
  else match holder s b with
    | some q => moveHolder (setDom s q cur) b p q
    | none => s

/-- What shows the replacement, and its records in the journal. -/
def replacementShown (s : State) (b p code src n : Nat) : State :=
  let s := regeom (showHolders s (b / 8)) n true
  let s := markDead (journal s 4 src n p 0 0) p
  if code / 16 = 1 then journal s 5 src n p code 0 else if code / 16 = 2 then journal s 6 src n p code 0 else s

section
variable {s t : State} {b p : Nat}

theorem replaceBlock_none (h : holder s b = none) (src : Nat) (answers : Bool) : replaceBlock s b src answers = none := by
  rw [replaceBlock, h]

theorem replaceBlock_some (h : holder s b = some p) (src : Nat) (answers : Bool) : replaceBlock s b src answers =
    (newHolder s (b / 8) (b % 8) answers false).map fun x => replacementShown
      (stateMoved (codeShown x.2 b p x.1) b p x.1 (domCur s p)) b p x.1 src ((partOf s b).getD 0) := by
  unfold replaceBlock
  simp only [h]
  cases newHolder s (b / 8) (b % 8) answers false with
  | none => rfl
  | some x =>
    obtain ⟨code, u⟩ := x
    simp only [Option.map_some, replacementShown, stateMoved, codeShown, deadShown]
    split_ifs <;> rfl

/-! ### Their footprints -/

/-- The registers by which the holders of blocks are shown: BSW_MAP, and what counts the spares. -/
def holderReg (a : Nat) : Prop := (∃ g, a = R.BSW_MAP g) ∨ a = R.CN_COUNT

/-- The registers that follow a new holder of block b: RT_ISO, the power state of its domain, its column map, SEQ_ID, ORN_GEOM, the
journal's and the CIC's, and the window of a block without a position. -/
def followReg (b a : Nat) : Prop :=
  (∃ r, (b < 128 → r < 17) ∧ a = R.RT_ISO r) ∨ (∃ d, (b < 128 → d < 151) ∧ a = R.PC_DOM d) ∨ a % 0x1000000 = 0x740000
    ∨ a % 0x1000000 = 0x700000 ∨ (∃ g, g < 16 ∧ a = R.ORN_GEOM g) ∨ cicReg a ∨ journalReg a ∨ bwin idleFrom ≤ a

/-- The parts that a replacement changes. -/
def moveParts : List Piece := [.cells, .mem, .flaws, .seqs, .epochs]
def replaceParts : List Piece := .foldHome :: .sb :: .jdead :: moveParts

theorem newHolder_within {g k code : Nat} {answers mig : Bool} (h : newHolder s g k answers mig = some (code, t)) :
    Within [] holderReg s t := by
  unfold newHolder at h
  extract_lets pol at h
  split at h
  · cases h
  split at h
  · cases h
    exact (Within.refl.setF (.inl ⟨g, rfl⟩)).addSat (.inr rfl)
  split at h
  · next d x _ =>
    cases h
    exact ((Within.refl.setF (.inl ⟨x, rfl⟩)).setF (.inl ⟨x, rfl⟩)).addSat (.inr rfl)
  split at h
  · obtain ⟨k2, -, e⟩ := Option.map_eq_some_iff.mp h
    cases e
    exact Within.refl.addSat (.inr rfl)
  · cases h

theorem deadShown_within (s : State) (p : Nat) : Within [] (fun a => ∃ g, a = R.BSW_MAP g) s (deadShown s p) := by
  have h : Within [] (fun a => ∃ g, a = R.BSW_MAP g) s s := .refl
  exact h.unless fun h => (h.setF ⟨_, rfl⟩).when (·.setF ⟨_, rfl⟩)

theorem regionsOf_lt {n g : Nat} (h : g ∈ regionsOf s n) : g < 16 := List.mem_range.mp (List.mem_filter.mp h).1

theorem regeom_within (s : State) (n : Nat) (keep : Bool) : Within [] (fun a => ∃ g, g < 16 ∧ a = R.ORN_GEOM g) s (regeom s n keep) :=
  Within.refl.forEachMem fun g hg h => h.setRg ⟨g, regionsOf_lt hg, rfl⟩

theorem showHolders_within (s : State) (g : Nat) : Within [] (fun a => a % 0x1000000 = 0x700000) s (showHolders s g) :=
  Within.refl.forEach fun k h => h.setF (by unfold R.SEQ_ID bwin; omega)

/-- What a move between physical blocks changes of the registers: column maps, the CIC's, and the windows of blocks without a
position. -/
def moveReg (a : Nat) : Prop := a % 0x1000000 = 0x740000 ∨ cicReg a ∨ bwin idleFrom ≤ a

theorem colmap_moveReg (b : Nat) : moveReg (R.ARR_COLMAP b) := .inl (by unfold R.ARR_COLMAP bwin; omega)

theorem moveHolder_within (s : State) (b p q : Nat) : Within moveParts moveReg s (moveHolder s b p q) := by
  refine Within.refl.unless fun h => ?_
  extract_lets s0 was s1 mine win s2
  have h1 : Within moveParts moveReg s s1 := h.setRg (colmap_moveReg _)
  have h2 : Within moveParts moveReg s s2 := by
    refine h1.trans ⟨fun x hx => ?_, fun a ha => ?_⟩
    · cases x <;> simp [moveParts] at hx <;> rfl
    · have hw : win a = false := by
        have hlt : ¬ bwin (idleBlk q) ≤ a := fun hle => ha (.inr (.inr (le_trans (by unfold idleBlk bwin; omega) hle)))
        exact (congrArg (· && _) (decide_eq_false hlt)).trans (Bool.false_and _)
      have e : mapGet (regReset a) a (mapDrop win s1.regs) = mapGet (regReset a) a s1.regs := by
        rw [mapGet_drop, if_neg (by simp [hw])]
      exact congrArg BitVec.toNat e
  have h3 := ((h2.setRg (a := R.ARR_COLMAP b) (v := was) (colmap_moveReg b)).updSeq (b := b)
    (f := fun x => { x with twinCol := BitVec.ofNat 7 (twinOf was) }) (by decide)).setB (a := R.ARR_COLMAP b)
    (f := R.ARR_COLMAP_TWINSTOP) (v := (List.range 4).all fun n => spState (takeMap s2 b was) b n % 2 == 1) (colmap_moveReg b)
  exact h3.andThen (cicRise_within s0 _ (64 + b)) (by decide) fun _ h => .inr (.inl h)

theorem setDom_within (s : State) (d v : Nat) : Within [] (· = R.PC_DOM d) s (setDom s d v) := by
  have h : Within [] (· = R.PC_DOM d) s s := .refl
  exact (h.setF rfl).setF rfl

theorem moveReg_follow {a : Nat} (h : moveReg a) : followReg b a := by
  rcases h with h | h | h
  · exact .inr (.inr (.inl h))
  · exact .inr (.inr (.inr (.inr (.inr (.inl h)))))
  · exact .inr (.inr (.inr (.inr (.inr (.inr (.inr h))))))

theorem stateMoved_within (s : State) (b p code cur : Nat) :
    Within replaceParts (followReg b) s (stateMoved s b p code cur) := by
  have h : Within replaceParts (followReg b) s s := .refl
  refine h.branch (·.put .foldHome (by decide)) fun h => ?_
  split
  · next q hq =>
    exact (h.andThen (setDom_within s q cur) (by decide) fun _ e => .inr (.inl ⟨q, fun hb => holder_lt_151 hb hq, e⟩)).andThen
      (moveHolder_within _ b p q) (by decide) fun _ => moveReg_follow
  · exact h

theorem journalReg_follow {a : Nat} (h : journalReg a) : followReg b a := .inr (.inr (.inr (.inr (.inr (.inr (.inl h))))))

theorem replacementShown_within (s : State) (b p code src n : Nat) :
    Within replaceParts (followReg b) s (replacementShown s b p code src n) := by
  have h : Within replaceParts (followReg b) s (showHolders s (b / 8)) :=
    (showHolders_within s (b / 8)).mono (fun _ h => .inr (.inr (.inr (.inl h)))) (by decide)
  have h := h.andThen (regeom_within _ n true) (by decide) fun _ h => .inr (.inr (.inr (.inr (.inl h))))
  have h := (h.andThen (journal_within _ 4 src n p 0 0) (by decide) fun _ => journalReg_follow).put .jdead
    (v := mapSet 0 (p / 9) (mapGet 0 (p / 9) (journal (regeom (showHolders s (b / 8)) n true) 4 src n p 0 0).jdead
      ||| BitVec.twoPow 9 (p % 9)) (journal (regeom (showHolders s (b / 8)) n true) 4 src n p 0 0).jdead) (by decide)
  exact h.branch (·.andThen (journal_within _ 5 src n p code 0) (by decide) fun _ => journalReg_follow) fun h =>
    h.when (·.andThen (journal_within _ 6 src n p code 0) (by decide) fun _ => journalReg_follow)

/-! ### What a replacement shows -/

/-- The registers that a replacement of block b changes. -/
def replaceReg (b a : Nat) : Prop := holderReg a ∨ followReg b a

theorem codeShown_within (s : State) {p : Nat} (b code : Nat) (hp : b < 128 → p < 151) :
    Within replaceParts (replaceReg b) s (codeShown s b p code) := by
  have h : Within replaceParts (replaceReg b) s (deadShown s p) :=
    (deadShown_within s p).mono (fun _ h => .inl (.inl h)) (by decide)
  exact (h.setF (.inl (.inl ⟨_, rfl⟩))).setF (.inr (.inl ⟨_, fun hb => by have := hp hb; omega, rfl⟩))

/-- What follows the new holder code. -/
theorem replaced_within {u : State} (b p code src n cur : Nat) : Within replaceParts (followReg b) u
    (replacementShown (stateMoved u b p code cur) b p code src n) :=
  (stateMoved_within u b p code cur).trans (replacementShown_within _ b p code src n)

theorem replaceBlock_within {src : Nat} {answers : Bool} (h : replaceBlock s b src answers = some t) :
    Within replaceParts (replaceReg b) s t := by
  cases hp : holder s b with
  | none =>
    rw [replaceBlock_none hp] at h
    cases h
  | some p =>
    rw [replaceBlock_some hp] at h
    obtain ⟨⟨code, u⟩, hu, rfl⟩ := Option.map_eq_some_iff.mp h
    have w : Within replaceParts (replaceReg b) s u := (newHolder_within hu).mono (fun _ => .inl) (by decide)
    exact (w.trans (codeShown_within u b code fun hb => holder_lt_151 hb hp)).andThen (replaced_within b p code src _ _)
      (by decide) fun _ => .inr

theorem isoReg_ne_bswMap (r g : Nat) : R.BSW_MAP g ≠ R.RT_ISO r := by
  unfold R.BSW_MAP gwin R.RT_ISO rwin
  split <;> omega

theorem bswMap_inj {g h : Nat} (e : R.BSW_MAP g = R.BSW_MAP h) : g = h := by
  unfold R.BSW_MAP gwin at e
  omega

theorem posFld_lt (k : Nat) : (posFld (k % 8)).hi < 48 := by
  simp only [posFld]
  omega

theorem holderCode_codeShown (s : State) (b p code : Nat) : holderCode (codeShown s b p code) b = code % 64 := by
  rw [holderCode, codeShown, rgF_setF_other _ (isoReg_ne_bswMap _ _), rgF_setF_same _ _ (by have := posFld_lt b; omega)]
  simp only [posFld]
  rw [show 6 * (b % 8) + 5 + 1 - 6 * (b % 8) = 6 by omega]
  rfl

theorem dead_deadShown (h : underLoad s (p / 9) = false) :
    (rgF (deadShown s p) (R.BSW_MAP (p / 9)) R.BSW_MAP_DEAD).testBit (p % 9) = true := by
  have hset : ∀ u, (rgF (setF u (R.BSW_MAP (p / 9)) ⟨48 + p % 9, 48 + p % 9⟩ 1) (R.BSW_MAP (p / 9)) R.BSW_MAP_DEAD).testBit (p % 9)
      = true := fun u => testBit_rgF_setF u _ (g := R.BSW_MAP_DEAD) (k := p % 9) (by change 48 + p % 9 ≤ 56; omega) (by decide)
  rw [deadShown, h, if_neg (by decide)]
  dsimp only
  split
  · rw [rgF_setF_field _ _ (by decide) (by decide)]
    exact hset s
  · exact hset s

theorem dead_codeShown (h : underLoad s (p / 9) = false) (b code : Nat) :
    (rgF (codeShown s b p code) (R.BSW_MAP (p / 9)) R.BSW_MAP_DEAD).testBit (p % 9) = true := by
  rw [codeShown, rgF_setF_other _ (isoReg_ne_bswMap _ _)]
  have hk := posFld_lt b
  by_cases e : R.BSW_MAP (p / 9) = R.BSW_MAP (b / 8)
  · rw [← e, rgF_setF_field _ _ (by omega) (.inl hk), dead_deadShown h]
  · rw [rgF_setF_other _ e, dead_deadShown h]

/-- The region's own spare is taken. -/
def spareTaken (s : State) (g : Nat) : State := addSat (setF s (R.BSW_MAP g) R.BSW_MAP_SPARE_ST 1) R.CN_COUNT R.CN_COUNT_BLKSPARES 1

theorem newHolder_spare {g : Nat} (hu : underLoad s g = false) (hf : rgF s (R.BSW_MAP g) R.BSW_MAP_SPARE_ST = 0)
    (hd : (rgF s (R.BSW_MAP g) R.BSW_MAP_DEAD).testBit 8 = false) (k : Nat) (answers mig : Bool) :
    newHolder s g k answers mig = some (8, spareTaken s g) := by
  rw [newHolder, hu, if_neg (by decide), if_pos ⟨hf, by rw [hd]; rfl⟩]
  rfl

/-! ### The second strike -/

theorem blockOfPhys_some (h : blockOfPhys s p = some b) : b < 128 ∧ holder s b = some p := by
  have hp := List.find?_some h
  have hm := List.mem_range.mp (List.mem_of_find?_eq_some h)
  simp only [Bool.and_eq_true, beq_iff_eq] at hp
  exact ⟨hm, hp.2⟩

theorem not_followReg_bswMap (hb : b < 128) {g : Nat} (hg : g < 17) : ¬ followReg b (R.BSW_MAP g) := by
  unfold followReg R.BSW_MAP gwin
  rintro (⟨r, -, h⟩ | ⟨d, hd, h⟩ | h | h | ⟨x, -, h⟩ | ⟨w, hw, h⟩ | h | h)
  · unfold R.RT_ISO rwin at h
    split at h <;> omega
  · have := hd hb
    unfold R.PC_DOM chipCtl at h
    omega
  · omega
  · omega
  · unfold R.ORN_GEOM gwin at h
    omega
  · unfold R.CIC_PEND chipCtl at h
    omega
  · unfold journalReg R.CN_LAST R.SB_JRNL chipCtl at h
    omega
  · unfold bwin idleFrom at h
    omega

theorem not_followReg_concealment (hb : b < 128) {a : Nat} (h : 0x040000A00000 ≤ a) (h' : a < 0x040000B00000) (hj : ¬ journalReg a) :
    ¬ followReg b a := by
  rintro (⟨r, hr, rfl⟩ | ⟨d, hd, rfl⟩ | e | e | ⟨x, hx, rfl⟩ | ⟨w, hw, rfl⟩ | e | e)
  · have := hr hb
    unfold R.RT_ISO rwin at h
    split at h <;> omega
  · have := hd hb
    unfold R.PC_DOM chipCtl at h
    omega
  · omega
  · omega
  · unfold R.ORN_GEOM gwin at h
    omega
  · unfold R.CIC_PEND chipCtl at h
    omega
  · exact hj e
  · unfold bwin idleFrom at e
    omega

theorem Within.underLoad {F : List Piece} {A : Nat → Prop} (h : Within F A s t) (hF : .img ∉ F) (g : Nat) :
    underLoad t g = underLoad s g := by
  rw [Machine.underLoad, h.img hF, Machine.underLoad]

theorem jdead_replacementShown (s : State) (b p code src n : Nat) :
    (mapGet 0 (p / 9) (replacementShown s b p code src n).jdead).getLsbD (p % 9) = true := by
  unfold replacementShown
  extract_lets s1 s2
  split
  · rw [(journal_within s2 5 src n p code 0).jdead (by decide)]
    exact markDead_dead _ p
  split
  · rw [(journal_within s2 6 src n p code 0).jdead (by decide)]
    exact markDead_dead _ p
  · exact markDead_dead _ p

theorem count_codeShown (s : State) (b p code : Nat) (f : Fld) :
    rgF (codeShown s b p code) R.CN_COUNT f = rgF s R.CN_COUNT f := by
  have hb : ∀ g, R.CN_COUNT ≠ R.BSW_MAP g := fun g => by
    unfold R.CN_COUNT R.BSW_MAP gwin chipCtl
    omega
  have hr : ∀ r, R.CN_COUNT ≠ R.RT_ISO r := fun r => by
    unfold R.CN_COUNT R.RT_ISO rwin chipCtl
    split <;> omega
  rw [codeShown, rgF_setF_other _ (hr _), rgF_setF_other _ (hb _), (deadShown_within s p).rgF fun ⟨g, e⟩ => hb g e]

/-- Block b of t has been replaced on its region's own spare; p was its holder in s. -/
structure OnSpare (s t : State) (b p : Nat) : Prop where
  code : holderCode t b = 8
  dead : (rgF t (R.BSW_MAP (p / 9)) R.BSW_MAP_DEAD).testBit (p % 9) = true
  jdead : (mapGet 0 (p / 9) t.jdead).getLsbD (p % 9) = true
  count : rgF t R.CN_COUNT R.CN_COUNT_BLKSPARES = min (rgF s R.CN_COUNT R.CN_COUNT_BLKSPARES + 1) R.CN_COUNT_BLKSPARES.top

theorem replaceBlock_onSpare {u : State} (hb : b < 128) (hp : holder u b = some p) (hub : underLoad u (b / 8) = false)
    (hup : underLoad u (p / 9) = false) (hf : rgF u (R.BSW_MAP (b / 8)) R.BSW_MAP_SPARE_ST = 0)
    (hd : (rgF u (R.BSW_MAP (b / 8)) R.BSW_MAP_DEAD).testBit 8 = false) (src : Nat) (answers : Bool) :
    ∃ t, replaceBlock u b src answers = some t ∧ OnSpare u t b p ∧ Within replaceParts (replaceReg b) u t := by
  have hnew := newHolder_spare hub hf hd (b % 8) answers false
  have e := replaceBlock_some hp src answers
  rw [hnew, Option.map_some] at e
  refine ⟨_, e, ?_, replaceBlock_within e⟩
  have hp151 := holder_lt_151 hb hp
  have hup' : underLoad (spareTaken u (b / 8)) (p / 9) = false := ((newHolder_within hnew).underLoad (by decide) _).trans hup
  have w : Within replaceParts (followReg b) _ _ := replaced_within (u := codeShown (spareTaken u (b / 8)) b p 8) b p 8 src
    ((partOf u b).getD 0) (domCur u p)
  refine ⟨?_, ?_, jdead_replacementShown _ b p 8 src _, ?_⟩
  · rw [holderCode, w.rgF (not_followReg_bswMap hb (by omega))]
    exact holderCode_codeShown _ b p 8
  · rw [w.rgF (not_followReg_bswMap hb (by omega)), dead_codeShown hup']
  · rw [w.rgF (not_followReg_concealment hb (by decide) (by decide) (by unfold journalReg; decide)), count_codeShown, spareTaken,
      rgF_addSat_same _ _ (by decide), rgF_setF_other]
    unfold R.CN_COUNT R.BSW_MAP gwin chipCtl
    omega

theorem OnSpare.kept {F : List Piece} {A : Nat → Prop} {u r : State} (h : OnSpare u r b p) (w : Within F A r t) (hj : .jdead ∉ F)
    (hA : ¬ A (R.BSW_MAP (b / 8)) ∧ ¬ A (R.BSW_MAP (p / 9)))
    (hc : rgF t R.CN_COUNT R.CN_COUNT_BLKSPARES = rgF r R.CN_COUNT R.CN_COUNT_BLKSPARES) : OnSpare u t b p where
  code := by rw [holderCode, w.rgF hA.1]; exact h.code
  dead := by rw [w.rgF hA.2, h.dead]
  jdead := by rw [w.jdead hj, h.jdead]
  count := by rw [hc, h.count]

/-- A rollback counts as one, and leaves the other counts of the concealment. -/
theorem count_rollback (u : State) {n : Nat} (hn : n < 16) (h6 : epState u n ≠ 6) {f : Fld} (hf : f.hi < 48) (arg src unit loc : Nat) :
    rgF (rollback u n arg src unit loc) R.CN_COUNT f = rgF u R.CN_COUNT f := by
  have hne : R.CN_COUNT ≠ R.EP_STAT n := by unfold R.EP_STAT R.CN_COUNT; omega
  rw [rollback_eq h6, (journal_within _ 1 src n unit arg loc).rgF (by unfold journalReg; decide), addSat,
    rgF_setF_field _ _ (by decide) (.inr hf), addSat, rgF_setF_other _ hne, rgF_setF_other _ hne, (updEpoch_within _ n _).rgF id,
    (restored_within u hn).rgF (not_restoreReg (by decide) (by decide))]

/-- A second strike on a block whose replacement can be made. -/
theorem strike_second {m : MCheck} {key : BitVec 8 × BitVec 10 × BitVec 64} {n : Nat} {blk : Option Nat}
    {replace : State → State × Bool} (hk : key ∈ (epochOf s n).strikes) (hr : replace (noted s n key) = (t, true))
    (h6 : epState t n ≠ 6) (hc : cascadePart t n = false) (hn : n < 16) :
    strike s n key m false blk replace = rollback t n 2 m.src.toNat m.unit.toNat m.loc.toNat := by
  unfold strike
  extract_lets again u
  have ha : again = true := by simp [again, hk]
  have hr' : replace u = (t, true) := hr
  rw [ha, if_neg (by decide), hr']
  exact rollbackHere_alone h6 hc hn 2 _ _ _

theorem not_rollReg_bswMap {n g : Nat} (hg : g < 17) : ¬ rollReg n (R.BSW_MAP g) := by
  have hlt : R.BSW_MAP g < 0x050000000000 ∧ 0x020000000000 ≤ R.BSW_MAP g ∧ R.BSW_MAP g % 0x10000 = 0 := by
    unfold R.BSW_MAP gwin
    omega
  rintro ((h | ⟨w, hw, h⟩) | h | h | h)
  · rw [inWin_chip hlt.2.1 hlt.1] at h
    cases h
  · unfold R.CIC_PEND R.BSW_MAP gwin chipCtl at h
    omega
  · unfold R.EP_STAT at h
    unfold R.BSW_MAP gwin chipCtl at h
    omega
  · unfold R.CN_COUNT R.BSW_MAP gwin chipCtl at h
    omega
  · unfold journalReg R.CN_LAST R.SB_JRNL R.BSW_MAP gwin chipCtl at h
    omega

theorem not_replaceReg_epStat (hb : b < 128) {n : Nat} (hn : n < 16) : ¬ replaceReg b (R.EP_STAT n) := by
  rintro ((⟨g, h⟩ | h) | h)
  · unfold R.EP_STAT R.BSW_MAP gwin chipCtl at h
    omega
  · unfold R.EP_STAT R.CN_COUNT at h
    omega
  · exact not_followReg_concealment hb (by unfold R.EP_STAT chipCtl; omega) (by unfold R.EP_STAT chipCtl; omega)
      (epStat_not_journalReg n) h

/-- A second strike as the statement of strikes has it. -/
theorem secondStrike_settled {m : MCheck} {n : Nat} (hsrc : m.src = 1 ∨ m.src = 2 ∨ m.src = 5)
    (hb : blockOfPhys s m.unit.toNat = some b) (hp : partOf s b = some n) (h6 : epState s n ≠ 6) (hc : cascadePart s n = false)
    (hh : heldRegion s (m.unit.toNat / 9) = true → ∃ c, storeOfPhys s m.unit.toNat = some c ∧ heldRegion s (c / 8) = false)
    (hk : (1, m.unit, 0) ∈ (epochOf s n).strikes) (hcol : m.badCol = none) (hub : underLoad s (b / 8) = false)
    (hup : underLoad s (m.unit.toNat / 9) = false) (hf : rgF s (R.BSW_MAP (b / 8)) R.BSW_MAP_SPARE_ST = 0)
    (hd : (rgF s (R.BSW_MAP (b / 8)) R.BSW_MAP_DEAD).testBit 8 = false) :
    ∃ t, exec (.machineCheckAlarm m) s = .next t ∧ holderCode t b = 8
      ∧ (rgF t (R.BSW_MAP (m.unit.toNat / 9)) R.BSW_MAP_DEAD).testBit (m.unit.toNat % 9) = true
      ∧ (mapGet 0 (m.unit.toNat / 9) t.jdead).getLsbD (m.unit.toNat % 9) = true
      ∧ rgF t R.CN_COUNT R.CN_COUNT_BLKSPARES = min (rgF s R.CN_COUNT R.CN_COUNT_BLKSPARES + 1) R.CN_COUNT_BLKSPARES.top
      ∧ epState t n = 5 ∧ (epochOf t n).rolling = true := by
  have hn : n < 16 := partOfRegion_lt hp
  obtain ⟨hb128, hhold⟩ := blockOfPhys_some hb
  have hp151 := holder_lt_151 hb128 hhold
  have ws := struck_within s m
  have hexec := exec_machineCheckAlarm s m
  rw [checkOp_block hsrc, blockStrike_part (by rw [heldFault_struck, heldFault_serves hh])
      ((sameWay_struck.blockOfPhys _).trans hb) ((sameMap_struck.partOf b).trans hp)] at hexec
  have wv : Within [.dbg, .epochs] (fun _ => False) s (noted (struck s m) n (1, m.unit, 0)) :=
    (ws.mono (fun _ => id) (by decide)).andThen (noted_within _ n _) (by decide) fun _ => id
  have hway : SameWay s (noted (struck s m) n (1, m.unit, 0)) :=
    ⟨wv.mesh (by decide), wv.cfg (by decide), wv.foldHome (by decide), fun a _ => wv.regs a id⟩
  obtain ⟨r, hrep, hon, wr⟩ := replaceBlock_onSpare hb128 ((hway.holder b).trans hhold) (by rwa [wv.underLoad (by decide)])
    (by rwa [wv.underLoad (by decide)]) (by rwa [wv.rgF id]) (by rwa [wv.rgF id]) m.src.toNat m.answers
  have hrep' : columnFails (noted (struck s m) n (1, m.unit, 0)) b m.src.toNat m.badCol m.answers = (r, true) := by
    rw [hcol, columnFails, orReplace, hrep]
  have h6r : epState r n ≠ 6 := by
    rwa [epState, wr.rgF (not_replaceReg_epStat hb128 hn), wv.rgF id]
  have hcr : cascadePart r n = false := by
    rwa [cascadePart, defined, wr.cfg (by decide), wv.cfg (by decide)]
  rw [strike_second (by rwa [ws.epochOf n (by decide)]) hrep' h6r hcr hn] at hexec
  have wi := sweepIso_within (rollback r n 2 m.src.toNat m.unit.toNat m.loc.toNat)
  have w : Within (.out :: rollParts) (fun a => rollReg n a ∨ sweepReg a) r _ :=
    ((rollback_within r hn 2 m.src.toNat m.unit.toNat m.loc.toNat).mono (fun _ => .inl) (by decide)).andThen wi (by decide) fun _ => .inr
  have hroll := (rollback_rolls hn h6r 2 m.src.toNat m.unit.toNat m.loc.toNat).swept
  have hcount : rgF (sweepIso (rollback r n 2 m.src.toNat m.unit.toNat m.loc.toNat)) R.CN_COUNT R.CN_COUNT_BLKSPARES
      = rgF r R.CN_COUNT R.CN_COUNT_BLKSPARES := by
    rw [wi.rgF (not_sweepReg (by decide) (.inr (.inl (by decide)))), count_rollback r hn h6r (by decide)]
  have hbsw : ∀ g, g < 17 → ¬ (rollReg n (R.BSW_MAP g) ∨ sweepReg (R.BSW_MAP g)) := fun g hg =>
    not_or.mpr ⟨not_rollReg_bswMap hg, not_sweepReg (by unfold R.BSW_MAP gwin; omega) (.inr (.inr (by unfold R.BSW_MAP gwin; omega)))⟩
  have hon' := hon.kept w (by decide) ⟨hbsw _ (by omega), hbsw _ (by omega)⟩ hcount
  refine ⟨_, hexec, hon'.code, hon'.dead, hon'.jdead, ?_, hroll.state, ?_⟩
  · rw [hon'.count, wv.rgF id]
  · rw [hroll.epoch, rolledEpoch]

end

end Sys2Proof.Machine
end

section
/-! SUPPORT. The resume step of a rollback (R378, R384, R511). -/

namespace Sys2Proof.Machine

section
variable {s t : State} {n b : Nat}

/-! ### The power states that come back -/

/-- The registers of the power domains and of the Sluice. -/
def powerReg (a : Nat) : Prop := (∃ d, a = R.PC_DOM d) ∨ sluiceReg a

/-- The parts that the return of a domain changes. -/
def returnParts : List Piece := [.pwr, .mesh, .irq, .out]

theorem leave_within (s : State) (q : MeshReq) : Within [.out] (fun _ => False) s (leave s q) := by
  have h : Within [.out] (fun _ => False) s s := .refl
  exact h.unless (·.trans (presentAll_within _ _ _ _ _))

theorem liftFence_within (s : State) {g : Nat} (hg : g < 16) (j : Nat) : Within returnParts powerReg s (liftFence s g j) := by
  have h : Within returnParts powerReg s s := .refl
  unfold liftFence
  extract_lets own fl own' _ _ s1
  have h1 : Within returnParts powerReg s s1 :=
    (h.put .mesh (v := { s.mesh with flight := fl ++ own' }) (by decide)).put .irq (by decide)
  have h2 : Within returnParts powerReg s (showHeld (setSluice s1 g j 0) g) :=
    (h1.setF (.inr ⟨g, hg, rfl⟩)).setF (.inr ⟨g, hg, rfl⟩)
  exact h2.foldl fun q h => h.andThen (leave_within _ q) (by decide) fun _ => False.elim

theorem sluiceOf_lt {d g j : Nat} (h : sluiceOf d = some (g, j)) : g < 16 := by
  unfold sluiceOf at h
  split_ifs at h <;> simp only [Option.some.injEq, Prod.mk.injEq] at h <;> omega

theorem returnDom_within (s : State) (d v : Nat) : Within returnParts powerReg s (returnDom s d v) := by
  have h : Within returnParts powerReg s s := .refl
  refine h.unless fun h => ?_
  have h1 : Within returnParts powerReg s (setDom (stopDom s d) d v) :=
    (((h.put .pwr (by decide)).setB (.inl ⟨d, rfl⟩)).setF (.inl ⟨d, rfl⟩)).setF (.inl ⟨d, rfl⟩)
  split
  · next g j hd =>
    have hg := sluiceOf_lt hd
    exact h1.branch (·.setF (.inr ⟨g, hg, rfl⟩)) fun h => h.when fun h => h.trans (liftFence_within _ hg j)
  · exact h1

theorem not_powerReg {a : Nat} (h : 0x040000000000 ≤ a) (h' : a < 0x040000301000) : ¬ powerReg a := by
  rintro (⟨d, rfl⟩ | ⟨g, hg, rfl⟩)
  · unfold R.PC_DOM chipCtl at h'
    omega
  · unfold R.GW_SLUICE rwin at h
    split at h <;> omega

/-! ### The blocks of a partition that resumes -/

/-- The resume step of block b: `keep` for what a load has stopped, `wasH` for a partition that was halted or stopped. -/
def blockResumed (keep wasH : Bool) (s : State) (b : Nat) : State :=
  let s := wdReload s b
  let s := if keep then s else girthFree s b
  if wasH then
    let s := haltSeq s b 1
    setB s (R.DBG_STATUS b) R.DBG_STATUS_RBK true
  else if (seqOf s b).inProg then
    let s := setB s (R.DBG_STATUS b) R.DBG_STATUS_HALTED false
    if rgB s (R.DBG_STATUS b) R.DBG_STATUS_STOPPED then s else setF s (R.DBG_STATUS b) R.DBG_STATUS_CAUSE 0
  else haltSeq s b 7

theorem csApply_stores (s : State) (b : Nat) (p : CsPend) : Within [.stores, .out] stopReg s (csApply s b p) := by
  have h : Within [.stores, .out] stopReg s s := .refl
  unfold csApply
  split
  · exact (h.when (·.setB (stopReg_mcStatus b))).emit (by decide)
  · exact h.branch (fun h => (h.setStores (by decide)).setRg (stopReg_csFp b))
      (fun h => (h.setStores (by decide)).setRg (stopReg_csFp b))

/-- What waits for block b's control store is all that tells q from r. -/
def SameSeq (q r : Seq) : Prop := ∃ ws, r = { q with csWait := ws }

theorem SameSeq.trans {q r x : Seq} (h : SameSeq q r) (h' : SameSeq r x) : SameSeq q x := by
  obtain ⟨_, rfl⟩ := h
  obtain ⟨ws, rfl⟩ := h'
  exact ⟨ws, rfl⟩

theorem csFlush_seq (s : State) (b c : Nat) : SameSeq (seqOf s c) (seqOf (csFlush s b) c) := by
  have hp : ∀ (ps : List CsPend) (u : State), seqOf (ps.foldl (fun s p => csApply s b p) u) c = seqOf u c := fun ps u =>
    (Within.refl.foldl fun p h => h.trans (csApply_stores _ b p)).seqOf c (by decide)
  unfold csFlush
  extract_lets ps
  split
  · exact ⟨_, rfl⟩
  · rw [hp]
    by_cases e : c = b
    · rw [e, seqOf_updSeq_same]
      exact ⟨_, rfl⟩
    · rw [updSeq, seqOf_setSeq_other _ e]
      exact ⟨_, rfl⟩

theorem haltSeq_seq (s : State) (b cause c : Nat) : SameSeq (seqOf s c) (seqOf (haltSeq s b cause) c) := by
  have hf : SameSeq (seqOf s c) (seqOf (forEach (gang s b) (fun s c => csFlush s c) s) c) :=
    forEach_keeps (P := fun t => SameSeq (seqOf s c) (seqOf t c)) (fun t x h => h.trans (csFlush_seq t x c)) _ ⟨_, rfl⟩
  have w : Within [] stopReg (forEach (gang s b) (fun s c => csFlush s c) s) (haltSeq s b cause) := by
    have h : Within [] stopReg (forEach (gang s b) (fun s c => csFlush s c) s) (forEach (gang s b) (fun s c => csFlush s c) s) := .refl
    exact (h.unless (·.setF (stopReg_dbgStatus b))).branch
      (fun h => (h.setB (stopReg_dbgStatus b)).when (·.setB (stopReg_arrSusp b))) (·.setB (stopReg_dbgStatus b))
  rw [w.seqOf c (by decide)]
  exact hf

theorem haltSeq_inProg (s : State) (b cause c : Nat) : (seqOf (haltSeq s b cause) c).inProg = (seqOf s c).inProg := by
  obtain ⟨_, e⟩ := haltSeq_seq s b cause c
  rw [e]

/-- The registers of block b alone that its resume step changes. -/
def ownReg (b a : Nat) : Prop := a = R.DBG_STATUS b ∨ a = R.ARR_SUSP b ∨ a = R.WD_CNT b

/-- What the resume step does before it halts block b or lets it go on. -/
def blockFreed (keep : Bool) (s : State) (b : Nat) : State := if keep then wdReload s b else girthFree (wdReload s b) b

theorem blockFreed_within (keep : Bool) (s : State) (b : Nat) : Within [] (ownReg b) s (blockFreed keep s b) := by
  have h : Within [] (ownReg b) s s := .refl
  have h1 : Within [] (ownReg b) s (wdReload s b) := h.when (·.setF (.inr (.inr rfl)))
  exact h1.unless fun h => h.when fun h => ((h.setB (.inl rfl)).setB (.inr (.inl rfl))).unless (·.setF (.inl rfl))

theorem blockResumed_eq (keep wasH : Bool) (s : State) (b : Nat) : blockResumed keep wasH s b =
    if wasH then setB (haltSeq (blockFreed keep s b) b 1) (R.DBG_STATUS b) R.DBG_STATUS_RBK true
    else if (seqOf (blockFreed keep s b) b).inProg then
      if rgB (setB (blockFreed keep s b) (R.DBG_STATUS b) R.DBG_STATUS_HALTED false) (R.DBG_STATUS b) R.DBG_STATUS_STOPPED then
        setB (blockFreed keep s b) (R.DBG_STATUS b) R.DBG_STATUS_HALTED false
      else setF (setB (blockFreed keep s b) (R.DBG_STATUS b) R.DBG_STATUS_HALTED false) (R.DBG_STATUS b) R.DBG_STATUS_CAUSE 0
    else haltSeq (blockFreed keep s b) b 7 := rfl

theorem dbgStatus_inj {b c : Nat} (h : c ≠ b) : R.DBG_STATUS c ≠ R.DBG_STATUS b := by
  unfold R.DBG_STATUS bwin
  omega

theorem blockFreed_other (keep : Bool) (s : State) {b c : Nat} (h : c ≠ b) :
    rg (blockFreed keep s b) (R.DBG_STATUS c) = rg s (R.DBG_STATUS c) := by
  refine (blockFreed_within keep s b).regs _ ?_
  rintro (e | e | e)
  · exact dbgStatus_inj h e
  · unfold R.DBG_STATUS R.ARR_SUSP bwin at e
    omega
  · unfold R.DBG_STATUS R.WD_CNT bwin at e
    omega

theorem blockResumed_other (keep wasH : Bool) (s : State) {b c : Nat} (h : c ≠ b) :
    rg (blockResumed keep wasH s b) (R.DBG_STATUS c) = rg s (R.DBG_STATUS c) := by
  have hne := dbgStatus_inj h
  rw [blockResumed_eq]
  split_ifs
  · rw [setB, rg_setF_other _ hne, haltSeq_other _ h, blockFreed_other keep s h]
  · rw [setB, rg_setF_other _ hne, blockFreed_other keep s h]
  · rw [rg_setF_other _ hne, setB, rg_setF_other _ hne, blockFreed_other keep s h]
  · rw [haltSeq_other _ h, blockFreed_other keep s h]

theorem blockResumed_inProg (keep wasH : Bool) (s : State) (b c : Nat) :
    (seqOf (blockResumed keep wasH s b) c).inProg = (seqOf s c).inProg := by
  have hf : seqOf (blockFreed keep s b) c = seqOf s c := (blockFreed_within keep s b).seqOf c (by decide)
  rw [blockResumed_eq]
  split_ifs
  · rw [seqOf_setB, haltSeq_inProg, hf]
  · rw [seqOf_setB, hf]
  · rw [seqOf_setF, seqOf_setB, hf]
  · rw [haltSeq_inProg, hf]

/-- A halt that is no stop: HALTED with its cause. -/
theorem haltSeq_halts (s : State) (b : Nat) {cause : Nat} (h : cause < 4 ∨ cause = 7) :
    rgB (haltSeq s b cause) (R.DBG_STATUS b) R.DBG_STATUS_HALTED = true
      ∧ rgF (haltSeq s b cause) (R.DBG_STATUS b) R.DBG_STATUS_CAUSE = cause := by
  have hs : (decide (4 ≤ cause) && decide (cause ≤ 6)) = false := by
    rw [Bool.and_eq_false_iff, decide_eq_false_iff_not, decide_eq_false_iff_not]
    omega
  have he : haltSeq s b cause = setB (setF (forEach (gang s b) (fun s c => csFlush s c) s) (R.DBG_STATUS b) R.DBG_STATUS_CAUSE cause)
      (R.DBG_STATUS b) R.DBG_STATUS_HALTED true := by
    unfold haltSeq
    dsimp only
    rw [hs]
    rfl
  rw [he, rgB_setB_same _ _ (by decide) rfl, setB, rgF_setF_field _ _ (by decide) (by decide), rgF_setF_same _ _ (by decide)]
  exact ⟨rfl, Nat.mod_eq_of_lt (by have : (2 : Nat) ^ (R.DBG_STATUS_CAUSE.hi + 1 - R.DBG_STATUS_CAUSE.lo) = 16 := rfl; omega)⟩

/-- What DBG_STATUS shows of a block that resumes: halted if its partition was, or if it is out of its program. -/
structure Resumed (wasH : Bool) (t : State) (b : Nat) : Prop where
  halted : rgB t (R.DBG_STATUS b) R.DBG_STATUS_HALTED = (wasH || !(seqOf t b).inProg)
  marked : wasH = true → rgB t (R.DBG_STATUS b) R.DBG_STATUS_RBK = true ∧ rgF t (R.DBG_STATUS b) R.DBG_STATUS_CAUSE = 1

theorem blockResumed_resumed (keep wasH : Bool) (s : State) (b : Nat) : Resumed wasH (blockResumed keep wasH s b) b := by
  have hp := blockResumed_inProg keep wasH s b b
  have hf : seqOf (blockFreed keep s b) b = seqOf s b := (blockFreed_within keep s b).seqOf b (by decide)
  cases wasH with
  | true =>
    have e : blockResumed keep true s b = setB (haltSeq (blockFreed keep s b) b 1) (R.DBG_STATUS b) R.DBG_STATUS_RBK true := by
      rw [blockResumed_eq, if_pos rfl]
    obtain ⟨hh, hc⟩ := haltSeq_halts (blockFreed keep s b) b (cause := 1) (by decide)
    refine ⟨?_, fun _ => ⟨?_, ?_⟩⟩
    · rw [e, setB, rgB_setF_field _ _ (by decide) (by decide), hh, Bool.true_or]
    · rw [e, rgB_setB_same _ _ (by decide) rfl]
    · rw [e, setB, rgF_setF_field _ _ (by decide) (by decide), hc]
  | false =>
    refine ⟨?_, fun h => absurd h (by decide)⟩
    rw [hp, blockResumed_eq, if_neg (by decide), hf, Bool.false_or]
    cases hip : (seqOf s b).inProg with
    | false =>
      rw [if_neg (by decide)]
      exact (haltSeq_halts _ b (.inr rfl)).1
    | true =>
      rw [if_pos rfl]
      split
      · exact rgB_setB_same _ _ (by decide) rfl _
      · rw [rgB_setF_field _ _ (by decide) (by decide)]
        exact rgB_setB_same _ _ (by decide) rfl _

theorem blocksResumed (keep wasH : Bool) (l : List Nat) (s : State) :
    ∀ b ∈ l, Resumed wasH (forEach l (blockResumed keep wasH) s) b := by
  refine forEach_establishes (P := fun b t => Resumed wasH t b) (fun s b => blockResumed_resumed keep wasH s b) (fun s x y h => ?_) l s
  by_cases e : y = x
  · subst e
    exact blockResumed_resumed keep wasH s y
  · have hr := blockResumed_other keep wasH s e
    exact ⟨by rw [rgB_of_rg hr, blockResumed_inProg, h.halted], fun hw => by rw [rgB_of_rg hr, rgF_of_rg hr]; exact h.marked hw⟩

theorem blocksResumed_inProg (keep wasH : Bool) (l : List Nat) (s : State) (c : Nat) :
    (seqOf (forEach l (blockResumed keep wasH) s) c).inProg = (seqOf s c).inProg :=
  forEach_keeps (P := fun t => (seqOf t c).inProg = (seqOf s c).inProg)
    (fun t x h => (blockResumed_inProg keep wasH t x c).trans h) _ rfl

theorem blockResumed_within (keep wasH : Bool) (s : State) (b : Nat) : Within haltParts stopReg s (blockResumed keep wasH s b) := by
  have h : Within haltParts stopReg s (blockFreed keep s b) := (blockFreed_within keep s b).mono (by
    rintro a (rfl | rfl | rfl)
    exacts [stopReg_dbgStatus b, stopReg_arrSusp b, stopReg_wdCnt b]) (by decide)
  rw [blockResumed_eq]
  split_ifs
  · exact (h.trans (haltSeq_within _ b 1)).setB (stopReg_dbgStatus b)
  · exact h.setB (stopReg_dbgStatus b)
  · exact (h.setB (stopReg_dbgStatus b)).setF (stopReg_dbgStatus b)
  · exact h.trans (haltSeq_within _ b 7)

/-! ### The partition -/

/-- The state in which a rollback's resume step has let its blocks go on. -/
def blocksOn (s : State) (n : Nat) : State :=
  forEach (blocksOf s n) (blockResumed (forced s n) (epochOf s n).wasHalted) s

/-- What follows the blocks: the partition is unstopped and traced. -/
def partOn (s : State) (n : Nat) : State :=
  let u := if forced s n then blocksOn s n else unstop (blocksOn s n) n
  tracePut u (now u % 2 ^ 48 * 2 ^ 80 + 2 * 2 ^ 78 + rgF u (R.EP_STAT n) R.EP_STAT_EPOCH * 2 ^ 32 + n)

theorem tracePut_within (s : State) (p : Nat) : Within [.out] (fun _ => False) s (tracePut s p) := by
  have h : Within [.out] (fun _ => False) s s := .refl
  exact h.when (·.emit (by decide))

theorem partOn_within (s : State) (n : Nat) : Within [.dbg, .out] (fun _ => False) (blocksOn s n) (partOn s n) := by
  have h : Within [.dbg, .out] (fun _ => False) (blocksOn s n) (blocksOn s n) := .refl
  unfold partOn
  extract_lets u
  have hu : Within [.dbg, .out] (fun _ => False) (blocksOn s n) u := h.unless (·.put .dbg (by decide))
  exact hu.andThen (tracePut_within u _) (by decide) fun _ => id

/-- A rollback that ends with no boundary waiting. -/
theorem resumeRollback_eq (hr : (epochOf s n).rolling = true) (hw : (epochOf s n).wait = []) (hd : (epochOf s n).defer = false) :
    ∃ g : Epoch → Epoch, (∀ e, (g e).rolling = false)
      ∧ resumeRollback s n = raiseFences (updEpoch (setF (partOn s n) (R.EP_STAT n) R.EP_STAT_STATE 1) n g) := by
  unfold resumeRollback
  extract_lets e keep s1 s2 s3 s4 d s5
  have hg : (!e.rolling || !e.wait.isEmpty) = false := by
    rw [show e.rolling = true from hr, show e.wait = [] from hw]
    rfl
  have hd' : (!d) = true := by
    rw [show d = false from hd]
    rfl
  rw [if_neg (by rw [hg]; decide), if_pos hd']
  exact ⟨_, fun _ => rfl, rfl⟩

/-- Partition n of t runs on after a rollback, from u. -/
structure RunsOn (u t : State) (n : Nat) : Prop where
  rolling : (epochOf t n).rolling = false
  state : epState t n = 1
  mem : t.mem = u.mem
  blocks : ∀ b ∈ blocksOf u n, rgB t (R.DBG_STATUS b) R.DBG_STATUS_HALTED = ((epochOf u n).wasHalted || !(seqOf u b).inProg)
    ∧ ((epochOf u n).wasHalted = true → rgB t (R.DBG_STATUS b) R.DBG_STATUS_RBK = true ∧ rgF t (R.DBG_STATUS b) R.DBG_STATUS_CAUSE = 1)

theorem dbgStatus_lt {b : Nat} (hb : b < 128) : R.DBG_STATUS b < 0x020000000000 := by
  unfold R.DBG_STATUS bwin
  omega

theorem resumeRollback_runs (hr : (epochOf s n).rolling = true) (hw : (epochOf s n).wait = []) (hd : (epochOf s n).defer = false) :
    RunsOn s (resumeRollback s n) n := by
  obtain ⟨g, hg, e⟩ := resumeRollback_eq hr hw hd
  rw [e]
  have w1 : Within haltParts stopReg s (blocksOn s n) := Within.refl.forEach fun b h => h.trans (blockResumed_within _ _ _ b)
  have w2 := partOn_within s n
  have w3 : Within [.epochs] (fun a => a = R.EP_STAT n ∨ sluiceReg a) (partOn s n)
      (raiseFences (updEpoch (setF (partOn s n) (R.EP_STAT n) R.EP_STAT_STATE 1) n g)) := by
    have h : Within [.epochs] (fun a => a = R.EP_STAT n ∨ sluiceReg a) (partOn s n) (partOn s n) := .refl
    exact ((h.setF (.inl rfl)).updEpoch (by decide)).andThen (raiseFences_within _) (by decide) fun _ => .inr
  have wf := raiseFences_within (updEpoch (setF (partOn s n) (R.EP_STAT n) R.EP_STAT_STATE 1) n g)
  refine ⟨?_, ?_, ?_, fun b hb => ?_⟩
  · rw [wf.epochOf n (by decide), epochOf_updEpoch_same, hg]
  · rw [epState, wf.rgF (not_sluiceReg (by unfold R.EP_STAT chipCtl; omega)), (updEpoch_within _ n g).rgF id,
      rgF_setF_same _ _ (by decide)]
    decide
  · rw [w3.mem (by decide), w2.mem (by decide), w1.mem (by decide)]
  · have hlt := dbgStatus_lt (mem_blocksOf_lt hb)
    have hno : ¬ (R.DBG_STATUS b = R.EP_STAT n ∨ sluiceReg (R.DBG_STATUS b)) := by
      rintro (h | ⟨g, hg, h⟩)
      · unfold R.EP_STAT chipCtl at h
        omega
      · unfold R.GW_SLUICE rwin at h
        split at h <;> omega
    have hres := blocksResumed (forced s n) (epochOf s n).wasHalted (blocksOf s n) s b hb
    have hh : rg (raiseFences (updEpoch (setF (partOn s n) (R.EP_STAT n) R.EP_STAT_STATE 1) n g)) (R.DBG_STATUS b)
        = rg (forEach (blocksOf s n) (blockResumed (forced s n) (epochOf s n).wasHalted) s) (R.DBG_STATUS b) :=
      (w3.regs _ hno).trans (w2.regs _ id)
    rw [rgB_of_rg hh, rgF_of_rg hh, rgB_of_rg hh, hres.halted, blocksResumed_inProg]
    exact ⟨rfl, hres.marked⟩

/-! ### ROLLBACK_RESUME -/

/-- The domains of partition n as its committed copy has them. -/
def domsReturned (s : State) (n : Nat) : State :=
  match (epochOf s n).com with
  | some c => c.pwr.foldl (fun s x => match pwrDom s x.1 with | some d => returnDom s d x.2.toNat | none => s) s
  | none => s

theorem domsReturned_within (s : State) (n : Nat) : Within returnParts powerReg s (domsReturned s n) := by
  have h : Within returnParts powerReg s s := .refl
  unfold domsReturned
  split
  · refine h.foldl fun x h => ?_
    split
    · exact h.trans (returnDom_within _ _ _)
    · exact h
  · exact h

theorem resumePart_waits (h : (epochOf s n).wait ≠ []) : resumePart s n = s := by
  unfold resumePart
  refine if_pos ?_
  cases hw : (epochOf s n).wait with
  | nil => exact absurd hw h
  | cons => simp

theorem resumePart_eq (hr : (epochOf s n).rolling = true) (hw : (epochOf s n).wait = []) (hp : (epochOf s n).preq = []) :
    resumePart s n = resumeRollback (updEpoch (domsReturned s n) n fun e => { e with preq := [], off := [] }) n := by
  unfold resumePart
  extract_lets e s1 s2
  have hg : (!e.rolling || !e.wait.isEmpty) = false := by
    rw [show e.rolling = true from hr, show e.wait = [] from hw]
    rfl
  rw [if_neg (by rw [hg]; decide), show e.preq = [] from hp]
  rfl

/-- ROLLBACK_RESUME as the statement of strikes has it. -/
theorem rollbackResume_settled (p : Part) :
    ((epochOf s p.toNat).wait ≠ [] → exec (.rollbackResume p) s = .next s)
    ∧ ((epochOf s p.toNat).rolling = true → (epochOf s p.toNat).wait = [] → (epochOf s p.toNat).defer = false →
      (epochOf s p.toNat).preq = [] → ∃ t, exec (.rollbackResume p) s = .next t ∧ (epochOf t p.toNat).rolling = false
      ∧ epState t p.toNat = 1 ∧ t.mem = s.mem
      ∧ ∀ b ∈ blocksOf s p.toNat,
          rgB t (R.DBG_STATUS b) R.DBG_STATUS_HALTED = ((epochOf s p.toNat).wasHalted || !(seqOf s b).inProg)
          ∧ ((epochOf s p.toNat).wasHalted = true →
            rgB t (R.DBG_STATUS b) R.DBG_STATUS_RBK = true ∧ rgF t (R.DBG_STATUS b) R.DBG_STATUS_CAUSE = 1)) := by
  have hexec : exec (.rollbackResume p) s = .next (resumePart s p.toNat) := rfl
  refine ⟨fun hw => ?_, fun hr hw hd hp => ?_⟩
  · rw [hexec, resumePart_waits hw]
  · rw [resumePart_eq hr hw hp] at hexec
    have wd := domsReturned_within s p.toNat
    have he : epochOf (updEpoch (domsReturned s p.toNat) p.toNat fun e => { e with preq := [], off := [] }) p.toNat
        = { epochOf s p.toNat with preq := [], off := [] } := by
      rw [epochOf_updEpoch_same, wd.epochOf _ (by decide)]
    have wu : Within (.epochs :: returnParts) powerReg s
        (updEpoch (domsReturned s p.toNat) p.toNat fun e => { e with preq := [], off := [] }) :=
      (wd.mono (fun _ => id) (by decide)).updEpoch (by decide)
    generalize (updEpoch (domsReturned s p.toNat) p.toNat fun e => { e with preq := [], off := [] }) = u at hexec he wu
    have h : RunsOn u _ p.toNat := resumeRollback_runs (by rw [he]; exact hr) (by rw [he]; exact hw) (by rw [he]; exact hd)
    have hmap : SameMap s u := wu.sameMap (not_powerReg (by decide) (by decide)) (not_powerReg (by decide) (by decide)) (by decide)
    refine ⟨_, hexec, h.rolling, h.state, by rw [h.mem, wu.mem (by decide)], fun b hb => ?_⟩
    have hbl := h.blocks b (by rwa [hmap.blocksOf])
    rw [he, wu.seqOf b (by decide)] at hbl
    exact hbl

end

end Sys2Proof.Machine
end

section
/-! SUPPORT. Migration (R388), and the statement of strikes. -/

namespace Sys2Proof.Machine

section
variable {s t : State} {n b : Nat}

/-! ### The migration's state in a sequencer -/

theorem mig_updSeq {f : Seq → Seq} (hf : ∀ q, (f q).mig = q.mig) (s : State) (x b : Nat) :
    (seqOf (updSeq s x f) b).mig = (seqOf s b).mig := by
  by_cases e : b = x
  · rw [e, seqOf_updSeq_same, hf]
  · rw [updSeq, seqOf_setSeq_other _ e]

theorem mig_haltSeq (s : State) (x cause b : Nat) : (seqOf (haltSeq s x cause) b).mig = (seqOf s b).mig := by
  obtain ⟨_, e⟩ := haltSeq_seq s x cause b
  rw [e]

theorem mig_girthStop (s : State) (n cause b : Nat) : (seqOf (girthStop s n cause) b).mig = (seqOf s b).mig :=
  forEach_keeps (P := fun t => (seqOf t b).mig = (seqOf s b).mig) (fun t x h => (mig_haltSeq t x cause b).trans h) _ rfl

/-- A boundary that has begun, once its request stands at every sequencer. -/
def boundaryRaised (s : State) (n : Nat) : State :=
  forEach (blocksOf (boundaryBegun s n) n) (fun s b => updSeq s b fun q => { q with epochReq := true }) (boundaryBegun s n)

theorem mig_startBoundary (s : State) (n b : Nat) : (seqOf (startBoundary s n) b).mig = (seqOf s b).mig := by
  have w : Within [.rein, .out] (fun _ => False) (boundaryRaised s n) (startBoundary s n) := by
    have h : Within [.rein, .out] (fun _ => False) (boundaryRaised s n) (boundaryRaised s n) := .refl
    exact h.when fun h => (h.put .rein (by decide)).andThen (epochMsg_within _ n _) (by decide) fun _ => id
  rw [w.seqOf b (by decide)]
  refine forEach_keeps (P := fun t => (seqOf t b).mig = (seqOf s b).mig) (fun t x h => ?_) _ ?_
  · exact (mig_updSeq (f := fun q => { q with epochReq := true }) (fun _ => rfl) t x b).trans h
  · have w : Within [.epochs] (· = R.EP_STAT n) s (boundaryBegun s n) := by
      have h : Within [.epochs] (· = R.EP_STAT n) s s := .refl
      exact (h.updEpoch (by decide)).setF rfl
    rw [w.seqOf b (by decide)]

theorem mig_requestBoundary (s : State) (n b : Nat) : (seqOf (requestBoundary s n) b).mig = (seqOf s b).mig := by
  unfold requestBoundary
  split_ifs
  · rfl
  · rfl
  · rfl
  · exact mig_startBoundary s n b

theorem partFreed_seqs (s : State) (n : Nat) : Within [.dbg, .out] (fun _ => True) s (partFreed s n) := by
  have h : Within [.dbg, .out] (fun _ => True) s s := .refl
  have h0 := (h.put .dbg (v := (unstop s n).dbg) (by decide)).andThen (sendAct_within _ n .free) (by decide) fun _ => False.elim
  exact h0.forEach fun b h => (h.when fun h => ((h.setB trivial).setB trivial).unless (·.setF trivial)).when
    (·.when (·.setF trivial))

theorem mig_freePart (s : State) (n b : Nat) : (seqOf (freePart s n) b).mig = (seqOf s b).mig := by
  have hf : seqOf (partFreed s n) b = seqOf s b := (partFreed_seqs s n).seqOf b (by decide)
  obtain ⟨-, e⟩ | ⟨-, e⟩ | e | e := freePart_cases s n <;> rw [e]
  · rfl
  · rw [hf]
  · rw [mig_requestBoundary, hf]

/-! ### MIGRATION -/

/-- Whether block b, or its column col alone, has somewhere to move to. -/
def canMove (s : State) (b : Nat) (col : Option (Fin 144)) : Bool :=
  match col with
  | some _ => (freeSpare s b).isSome
  | none => (newHolder s (b / 8) (b % 8) true true).isSome

theorem migration_settled (c : Blk) {col : Option (Fin 144)} (hp : partOf s c.toNat = some n) (hm : (seqOf s c.toNat).mig = 1)
    (hc : (seqOf s c.toNat).migCol = col) (h1 : epState s n = 1)
    (hcan : canMove s c.toNat col = true) :
    ∃ t, exec (.migration c col) s = .next t ∧ (seqOf t c.toNat).mig = 2 ∧ t.mem = s.mem
      ∧ ∀ x ∈ blocksOf s n, rgB t (R.DBG_STATUS x) R.DBG_STATUS_STOPPED = true := by
  have e : exec (.migration c col) s = .next (girthStop (updSeq s c.toNat fun q => { q with mig := 2 }) n 6) := by
    change execMigration c col s = _
    unfold execMigration
    dsimp only
    rw [hp]
    dsimp only
    rw [if_neg (by simp [hm, hc, h1])]
    refine congrArg Host.Outcome.next (if_neg ?_)
    cases col <;> simpa [canMove, Option.isSome_iff_ne_none] using hcan
  refine ⟨_, e, ?_, ?_, ?_⟩
  · rw [mig_girthStop, seqOf_updSeq_same]
  · rw [(girthStop_within _ n 6).mem (by decide)]
    rfl
  · intro x hx
    have hx' : x ∈ blocksOf (updSeq s c.toNat fun q => { q with mig := 2 }) n := hx
    exact isStopped_girthStop _ n (by decide) (by decide) x hx'

/-! ### MIGRATION_DONE of a column -/

/-- The migration of block b is over. -/
def migrated (s : State) (b : Nat) : State := updSeq s b fun q => { q with mig := 0, migCol := none }

/-- Column c of block b has come to its spare k, and the moves are counted. -/
def columnMoved (s : State) (b c k : Nat) : State :=
  setF (killSpare (addSat (addSat s R.CN_COUNT R.CN_COUNT_COLSPARES 1) R.CN_COUNT R.CN_COUNT_MIGRATES 1) b c) (R.ARR_COLMAP b) (spFld k)
    (1024 + c)

/-- The records of that move. -/
def columnJournaled (s : State) (b c k n old : Nat) : State :=
  journal (journal s 2 0x0B n old (holderCode s b) c) 3 0x0B n old (k * 256 + c) c

theorem exec_migrationDone_column (x : Blk) (c : Fin 144) {k : Nat} (hp : partOf s x.toNat = some n)
    (hm : (seqOf s x.toNat).mig = 2) (hc : (seqOf s x.toNat).migCol = some c) (hk : freeSpare s x.toNat = some k) :
    exec (.migrationDone x (some c)) s = .next (freePart (pickTwin (columnJournaled (columnMoved (migrated s x.toNat) x.toNat c.val k)
      x.toNat c.val k n ((holder (migrated s x.toNat) x.toNat).getD 0)) x.toNat) n) := by
  have hk' : freeSpare (migrated s x.toNat) x.toNat = some k := hk
  change execMigrationDone x (some c) s = _
  unfold execMigrationDone
  dsimp only
  rw [hp]
  dsimp only
  rw [if_neg (by simp [hm, hc])]
  rw [show freeSpare (updSeq s x.toNat fun q => { q with mig := 0, migCol := none }) x.toNat = some k from hk]
  rfl

theorem freeSpare_some {k : Nat} (h : freeSpare s b = some k) : k < 4 ∧ spState s b k = 0 :=
  ⟨List.mem_range.mp (List.mem_of_find?_eq_some h), beq_iff_eq.mp (List.find?_some (p := fun n => spState s b n == 0) h)⟩

theorem killSpare_within (s : State) (b c : Nat) : Within [] (· = R.ARR_COLMAP b) s (killSpare s b c) := by
  have h : Within [] (· = R.ARR_COLMAP b) s s := .refl
  unfold killSpare
  split
  exacts [h.setF rfl, h]

/-- What a choice of a twin changes of the registers: the block's column map, the warnings of code 2, the CIC's. -/
def twinReg (b a : Nat) : Prop := a = R.ARR_COLMAP b ∨ warnReg 2 a ∨ cicReg a

theorem pickTwin_within (s : State) (b : Nat) : Within [.dbg, .out, .epochs] (twinReg b) s (pickTwin s b) := by
  have h : Within [.dbg, .out, .epochs] (twinReg b) s s := .refl
  unfold pickTwin
  extract_lets s0 s1 s2
  split
  · exact h
  split
  · exact h.setF (.inl rfl)
  · refine h.unless fun h => ?_
    exact ((h.setB (.inl rfl)).andThen (warnOp_within s1 2 _ _ true) (by decide) fun _ h => .inr (.inl h)).andThen
      (cicRise_within s0 s2 (64 + b)) (by decide) fun _ h => .inr (.inr h)

theorem colmap_not_cicReg (b : Nat) : ¬ cicReg (R.ARR_COLMAP b) := by
  rintro ⟨w, hw, h⟩
  unfold R.ARR_COLMAP bwin R.CIC_PEND chipCtl at h
  omega

theorem colmap_not_warnReg (c : Nat) (hc : c < 16) (b : Nat) : ¬ warnReg c (R.ARR_COLMAP b) := by
  unfold warnReg R.ARR_COLMAP bwin R.SPW_WARN R.SPW_WLAST chipCtl
  omega

theorem colmap_not_journalReg (b : Nat) : ¬ journalReg (R.ARR_COLMAP b) := by
  unfold journalReg R.ARR_COLMAP bwin R.CN_LAST R.SB_JRNL chipCtl
  omega

theorem count_ne_colmap (b : Nat) : R.CN_COUNT ≠ R.ARR_COLMAP b := by
  unfold R.CN_COUNT R.ARR_COLMAP bwin chipCtl
  omega

theorem count_not_twinReg (b : Nat) : ¬ twinReg b R.CN_COUNT := by
  rintro (h | h | ⟨w, hw, h⟩)
  · exact count_ne_colmap b h
  · unfold warnReg at h
    revert h
    decide
  · unfold R.CN_COUNT R.CIC_PEND at h
    omega

/-- What the release of a partition leaves. -/
theorem not_freeReg {a n : Nat} (h : a % 0x1000000 < 0x700000 ∨ 0x740000 ≤ a % 0x1000000) (he : a ≠ R.EP_STAT n) :
    ¬ (stopReg a ∨ a = R.EP_STAT n) := by
  rintro (hs | rfl)
  · unfold stopReg at hs
    omega
  · exact he rfl

/-- A used spare stays what it is when a twin is chosen. -/
theorem spare_pickTwin {k : Nat} (hk : k < 4) (hu : spState s b k = 1) :
    rgF (pickTwin s b) (R.ARR_COLMAP b) (spFld k) = rgF s (R.ARR_COLMAP b) (spFld k) := by
  have hf : ∀ m, (spFld m).hi = 12 * m + 11 ∧ (spFld m).lo = 12 * m := fun m => ⟨rfl, rfl⟩
  unfold pickTwin
  extract_lets s0 s1 s2
  split
  · rfl
  split
  · next m hm =>
    have h0 := beq_iff_eq.mp (List.find?_some (p := fun n => spState s b n == 0) hm)
    have hm4 := List.mem_range.mp (List.mem_reverse.mp (List.mem_of_find?_eq_some hm))
    have hne : m ≠ k := fun e => by rw [e, hu] at h0; cases h0
    exact rgF_setF_field _ _ (by rw [(hf m).1]; omega) (by rw [(hf m).1, (hf m).2, (hf k).1, (hf k).2]; omega) _
  · split
    · rfl
    · rw [(cicRise_within s0 s2 (64 + b)).rgF (colmap_not_cicReg b), (warnOp_within s1 2 _ _ true).rgF (colmap_not_warnReg 2 (by decide) b)]
      exact rgF_setF_field _ _ (by decide) (.inr (by rw [(hf k).1]; change 12 * k + 11 < 48; omega)) _

theorem columnDone_settled (x : Blk) (c : Fin 144) (k : Nat) (hp : partOf s x.toNat = some n)
    (hm : (seqOf s x.toNat).mig = 2) (hc : (seqOf s x.toNat).migCol = some c) (hk : freeSpare s x.toNat = some k) :
    ∃ t, exec (.migrationDone x (some c)) s = .next t ∧ (seqOf t x.toNat).mig = 0 ∧ t.mem = s.mem
      ∧ rgF t (R.ARR_COLMAP x.toNat) (spFld k) = 1024 + c.val
      ∧ rgF t R.CN_COUNT R.CN_COUNT_COLSPARES = min (rgF s R.CN_COUNT R.CN_COUNT_COLSPARES + 1) R.CN_COUNT_COLSPARES.top
      ∧ rgF t R.CN_COUNT R.CN_COUNT_MIGRATES = min (rgF s R.CN_COUNT R.CN_COUNT_MIGRATES + 1) R.CN_COUNT_MIGRATES.top := by
  obtain ⟨hk4, -⟩ := freeSpare_some hk
  have hexec := exec_migrationDone_column x c hp hm hc hk
  have hx : x.toNat < 128 := x.isLt
  have hn : n < 16 := partOfRegion_lt hp
  generalize x.toNat = b at hexec hx ⊢
  generalize (holder (migrated s b) b).getD 0 = old at hexec
  have wj : Within [.sb] journalReg (columnMoved (migrated s b) b c.val k)
      (columnJournaled (columnMoved (migrated s b) b c.val k) b c.val k n old) :=
    (journal_within _ 2 0x0B n old _ c.val).trans (journal_within _ 3 0x0B n old _ c.val)
  have wp := pickTwin_within (columnJournaled (columnMoved (migrated s b) b c.val k) b c.val k n old) b
  have wf := freePart_within (pickTwin (columnJournaled (columnMoved (migrated s b) b c.val k) b c.val k n old) b) n
  have hmap : rgF (columnJournaled (columnMoved (migrated s b) b c.val k) b c.val k n old) (R.ARR_COLMAP b) (spFld k)
      = 1024 + c.val := by
    have hc := c.isLt
    rw [wj.rgF (colmap_not_journalReg b), columnMoved, rgF_setF_same _ _ (by change 12 * k + 11 < 64; omega)]
    simp only [spFld]
    rw [show 12 * k + 11 + 1 - 12 * k = 12 by omega]
    omega
  have hcnt : ∀ f, rgF (freePart (pickTwin (columnJournaled (columnMoved (migrated s b) b c.val k) b c.val k n old) b) n) R.CN_COUNT f
      = rgF (addSat (addSat (migrated s b) R.CN_COUNT R.CN_COUNT_COLSPARES 1) R.CN_COUNT R.CN_COUNT_MIGRATES 1) R.CN_COUNT f := by
    intro f
    rw [wf.rgF (not_freeReg (by decide) (by unfold R.EP_STAT R.CN_COUNT; omega)), wp.rgF (count_not_twinReg b),
      wj.rgF (by unfold journalReg; decide), columnMoved, rgF_setF_other _ (count_ne_colmap b),
      (killSpare_within _ b c.val).rgF (count_ne_colmap b)]
  have wm : Within [] (fun a => a = R.CN_COUNT ∨ a = R.ARR_COLMAP b) (migrated s b) (columnMoved (migrated s b) b c.val k) := by
    have h : Within [] (fun a => a = R.CN_COUNT ∨ a = R.ARR_COLMAP b) (migrated s b) (migrated s b) := .refl
    exact (((h.addSat (.inl rfl)).addSat (.inl rfl)).andThen (killSpare_within _ b c.val) (by decide) fun _ => .inr).setF (.inr rfl)
  refine ⟨_, hexec, ?_, ?_, ?_, ?_, ?_⟩
  · rw [mig_freePart, wp.seqOf b (by decide), wj.seqOf b (by decide), wm.seqOf b (by decide), migrated, seqOf_updSeq_same]
  · rw [wf.mem (by decide), wp.mem (by decide), wj.mem (by decide), wm.mem (by decide)]
    rfl
  · rw [wf.rgF (not_freeReg (by unfold R.ARR_COLMAP bwin; omega) (by unfold R.ARR_COLMAP bwin R.EP_STAT chipCtl; omega)),
      spare_pickTwin hk4 (by rw [spState, hmap]; have := c.isLt; omega), hmap]
  · rw [hcnt, addSat, rgF_setF_field _ _ (by decide) (by decide), rgF_addSat_same _ _ (by decide)]
    rfl
  · rw [hcnt, rgF_addSat_same _ _ (by decide), addSat, rgF_setF_field _ _ (by decide) (by decide)]
    rfl

end

end Sys2Proof.Machine
end

section
/-! SUPPORT. The migration of a whole block, and the statement of strikes (R388). -/

namespace Sys2Proof.Machine

section
variable {s t : State} {n b : Nat}

/-! ### The new holder -/

/-- The new holder depends on the registers, the settings and the load alone. -/
theorem newHolder_code (hc : t.cfg = s.cfg) (hi : t.img = s.img) (hr : ∀ a, rg t a = rg s a) (g k : Nat) (answers mig : Bool) :
    (newHolder t g k answers mig).map Prod.fst = (newHolder s g k answers mig).map Prod.fst := by
  have hrf : ∀ a f, rgF t a f = rgF s a f := fun a f => rgF_of_rg (hr a) f
  have hu : ∀ g, underLoad t g = underLoad s g := fun g => by rw [underLoad, hi, underLoad]
  have hl : lender t g = lender s g := by simp only [lender, hrf, hu, hc]
  have hf : foldHost t g k = foldHost s g k := by simp only [foldHost, hrf]
  unfold newHolder
  simp only [hrf, hu, hl, hf, hc]
  split
  · rfl
  split
  · simp only [Option.map_some]
  split
  · simp only [Option.map_some]
  split
  · simp only [Option.map_map, Function.comp_def]
  · rfl

theorem lender_lt {g d h : Nat} (e : lender s g = some (d, h)) : d < 4 := by
  obtain ⟨x, hx, e⟩ := List.exists_of_findSome?_eq_some e
  have hx4 := List.mem_range.mp hx
  split at e
  · obtain ⟨-, ⟨⟩⟩ := Option.ite_none_right_eq_some.mp e
    exact hx4
  · cases e

/-- A migration takes the region's own spare, or borrows one. -/
theorem newHolder_migrates {g k code : Nat} {answers : Bool} {u : State} (h : newHolder s g k answers true = some (code, u)) :
    code = 8 ∨ 16 ≤ code ∧ code < 20 := by
  unfold newHolder at h
  extract_lets pol at h
  split at h
  · cases h
  split at h
  · cases h
    exact .inl rfl
  split at h
  · next d x e =>
    cases h
    have hd : d < 4 := by
      split at e
      · exact lender_lt e
      · cases e
    exact .inr ⟨by omega, by omega⟩
  · simp at h

/-- A holder code that names no fold names the holder. -/
def codeHolder (b code : Nat) : Option Nat :=
  if code / 16 = 0 then some (9 * (b / 8) + code % 16) else (neighbour (b / 8) (code % 4)).map (fun h => 9 * h + 8)

theorem holder_code (hb : b < 128) {code : Nat} (h : holderCode s b = code) (hc : code / 16 = 0 ∨ code / 16 = 1) :
    holder s b = codeHolder b code := by
  have hid : idleFrom = 33554432 := by norm_num [idleFrom]
  rw [holder, if_neg (by omega)]
  simp only [holderIn, h, codeHolder]
  rcases hc with hc | hc <;> simp [hc]

/-! ### The move -/

theorem mig_moveHolder (s : State) (b p q x : Nat) : (seqOf (moveHolder s b p q) x).mig = (seqOf s x).mig := by
  unfold moveHolder
  split
  · rfl
  · extract_lets s0 was s1 mine win s2
    rw [(cicRise_within s0 _ (64 + b)).seqOf x (by decide)]
    have hs2 : seqOf s2 x = seqOf s x := rfl
    rw [showTwinStop, seqOf_setB, takeMap, mig_updSeq, seqOf_setRg, hs2]
    exact fun _ => rfl

/-- Outside the window of the block that it comes to, a move leaves the memory. -/
theorem mem_moveHolder (s : State) (b p q : Nat) {a : Nat} (h : a < bwin (idleBlk q) ∨ bwin (idleBlk q) + 0x1000000 ≤ a) :
    memDigit (moveHolder s b p q).mem a = memDigit s.mem a := by
  unfold moveHolder
  split
  · rfl
  · extract_lets s0 was s1 mine win s2
    rw [(cicRise_within s0 _ (64 + b)).mem (by decide)]
    have hw : win (2 * (a / 2)) = false := by
      have he : bwin (idleBlk q) = 2 * (0x8000000000 + 0x800000 * idleBlk q) := by unfold bwin; omega
      have hlt : ¬ (bwin (idleBlk q) ≤ 2 * (a / 2) ∧ 2 * (a / 2) < bwin (idleBlk q) + 0x1000000) := by omega
      simp only [win]
      rwa [← Bool.decide_and, decide_eq_false_iff_not]
    have hm : memByte (mapDrop (fun k => win (2 * k)) s.mem) (a / 2) = memByte s.mem (a / 2) := by
      rw [memByte, mapGet_drop, if_neg (by simp [hw]), memByte]
    change memDigit (mapDrop (fun k => win (2 * k)) s.mem) a = _
    rw [memDigit, hm, memDigit]

/-! ### MIGRATION_DONE of a block -/

/-- Block b of partition n has come from physical block `old` to the holder that its code names, in u. -/
def blockMoved (u : State) (b old cur : Nat) : State :=
  match holder u b with | some p => moveHolder (setDom u p cur) b old p | none => u

/-- The code of the new holder is shown, and the migration counted. -/
def codeMoved (u : State) (b code : Nat) : State :=
  setF (addSat u R.CN_COUNT R.CN_COUNT_MIGRATES 1) (R.BSW_MAP (b / 8)) (posFld (b % 8)) code

/-- What shows the move. -/
def moveShown (u : State) (b code n old : Nat) : State := regeom (journal (showHolders u (b / 8)) 2 0x0B n old code 0) n true

theorem exec_migrationDone_block (x : Blk) (hp : partOf s x.toNat = some n) (hm : (seqOf s x.toNat).mig = 2)
    (hc : (seqOf s x.toNat).migCol = none) {code : Nat} {u : State}
    (hk : newHolder (migrated s x.toNat) (x.toNat / 8) (x.toNat % 8) true true = some (code, u)) :
    exec (.migrationDone x none) s = .next (freePart (moveShown (blockMoved (codeMoved u x.toNat code) x.toNat
      ((holder (migrated s x.toNat) x.toNat).getD 0) (domCur u ((holder (migrated s x.toNat) x.toNat).getD 0))) x.toNat code n
      ((holder (migrated s x.toNat) x.toNat).getD 0)) n) := by
  change execMigrationDone x none s = _
  unfold execMigrationDone
  dsimp only
  rw [hp]
  dsimp only
  rw [if_neg (by simp [hm, hc])]
  rw [show newHolder (updSeq s x.toNat fun q => { q with mig := 0, migCol := none }) (x.toNat / 8) (x.toNat % 8) true true = some (code, u)
    from hk]
  rfl

theorem blockMoved_within (u : State) (b old cur : Nat) : Within replaceParts (followReg b) u (blockMoved u b old cur) := by
  have h : Within replaceParts (followReg b) u u := .refl
  unfold blockMoved
  split
  · next q hq =>
    exact (h.andThen (setDom_within u q cur) (by decide) fun _ e => .inr (.inl ⟨q, fun hb => holder_lt_151 hb hq, e⟩)).andThen
      (moveHolder_within _ b old q) (by decide) fun _ => moveReg_follow
  · exact h

theorem moveShown_within (u : State) (b code n old : Nat) : Within [.sb] (followReg b) u (moveShown u b code n old) := by
  have h : Within [.sb] (followReg b) u (showHolders u (b / 8)) :=
    (showHolders_within u (b / 8)).mono (fun _ h => .inr (.inr (.inr (.inl h)))) (by decide)
  exact (h.andThen (journal_within _ 2 0x0B n old code 0) (by decide) fun _ => journalReg_follow).andThen (regeom_within _ n true)
    (by decide) fun _ h => .inr (.inr (.inr (.inr (.inl h))))

theorem mig_blockMoved (u : State) (b old cur x : Nat) : (seqOf (blockMoved u b old cur) x).mig = (seqOf u x).mig := by
  unfold blockMoved
  split
  · rw [mig_moveHolder, (setDom_within u _ cur).seqOf x (by decide)]
  · rfl

theorem blockDone_settled (x : Blk) {code : Nat} {y : State} (hp : partOf s x.toNat = some n) (hm : (seqOf s x.toNat).mig = 2)
    (hc : (seqOf s x.toNat).migCol = none) (hk : newHolder s (x.toNat / 8) (x.toNat % 8) true true = some (code, y)) :
    ∃ t, exec (.migrationDone x none) s = .next t ∧ (seqOf t x.toNat).mig = 0 ∧ holderCode t x.toNat = code
      ∧ ∀ p, holder t x.toNat = some p → ∀ a, (a < bwin (idleBlk p) ∨ bwin (idleBlk p) + 0x1000000 ≤ a) →
          memDigit t.mem a = memDigit s.mem a := by
  have wm : Within [.seqs] (fun _ => False) s (migrated s x.toNat) := Within.updSeq .refl (by decide)
  have hcode := newHolder_code (wm.cfg (by decide)) (wm.img (by decide)) (fun a => wm.regs a id) (x.toNat / 8) (x.toNat % 8) true true
  rw [hk, Option.map_some] at hcode
  obtain ⟨⟨code', u⟩, hu, hcu⟩ := Option.map_eq_some_iff.mp hcode
  have hcu' : code' = code := hcu
  subst hcu'
  have hexec := exec_migrationDone_block x hp hm hc hu
  have hx : x.toNat < 128 := x.isLt
  have hmig : (seqOf (migrated s x.toNat) x.toNat).mig = 0 := by rw [migrated, seqOf_updSeq_same]
  have hrange := newHolder_migrates hu
  have wu := newHolder_within hu
  generalize (holder (migrated s x.toNat) x.toNat).getD 0 = old at hexec
  generalize x.toNat = b at *
  generalize domCur u old = cur at hexec
  have wv : Within [] holderReg u (codeMoved u b code') := (Within.refl.addSat (.inr rfl)).setF (.inl ⟨_, rfl⟩)
  have hcv : holderCode (codeMoved u b code') b = code' := by
    rw [holderCode, codeMoved, rgF_setF_same _ _ (by have := posFld_lt b; omega)]
    simp only [posFld]
    rw [show 6 * (b % 8) + 5 + 1 - 6 * (b % 8) = 6 by omega]
    omega
  have hmv : (codeMoved u b code').mem = s.mem := by rw [wv.mem (by decide), wu.mem (by decide), wm.mem (by decide)]
  have hsv : seqOf (codeMoved u b code') b = seqOf (migrated s b) b := by rw [wv.seqOf b (by decide), wu.seqOf b (by decide)]
  generalize codeMoved u b code' = v at hexec hcv hmv hsv
  have w4 := blockMoved_within v b old cur
  have w5 := moveShown_within (blockMoved v b old cur) b code' n old
  have wf := freePart_within (moveShown (blockMoved v b old cur) b code' n old) n
  have hct : holderCode (freePart (moveShown (blockMoved v b old cur) b code' n old) n) b = code' := by
    have hbsw := not_followReg_bswMap hx (g := b / 8) (by omega)
    rw [holderCode, wf.rgF (not_freeReg (by unfold R.BSW_MAP gwin; omega) (by unfold R.BSW_MAP gwin R.EP_STAT chipCtl; omega)),
      w5.rgF hbsw, w4.rgF hbsw]
    exact hcv
  have hclass : code' / 16 = 0 ∨ code' / 16 = 1 := by omega
  refine ⟨_, hexec, ?_, hct, fun p hpt a ha => ?_⟩
  · rw [mig_freePart, w5.seqOf b (by decide), mig_blockMoved, hsv, hmig]
  · have hv : holder v b = some p := (holder_code hx hcv hclass).trans ((holder_code hx hct hclass).symm.trans hpt)
    rw [wf.mem (by decide), w5.mem (by decide), blockMoved, hv]
    dsimp only
    rw [mem_moveHolder _ b old p ha, (setDom_within v p cur).mem (by decide), hmv]

end

/-- Settles O39: each event by the lemma named after it; what follows the event at the controller changes only the mesh. -/
theorem strikesAndMigration : Obligations.StrikesAndMigration := by
  unfold Obligations.StrikesAndMigration
  refine ⟨?first, ?second, ?held, ?dram, ?resume, ?migration⟩
  case first => exact fun s m b n c hsrc hb hp h6 hc hh hk hcom hwf => firstStrike_settled hsrc hb hp h6 hc hh hk hcom hwf
  case second =>
    exact fun s m b n hsrc hb hp h6 hc hh hk hcol hub hup hf hd => secondStrike_settled hsrc hb hp h6 hc hh hk hcol hub hup hf hd
  case held => exact fun s m hsrc hu hr hs => heldStrike_settled hsrc hu hr hs
  case dram => exact fun s m n hsrc hp h6 hs hk => dramStrike_settled hsrc hp h6 hs hk
  case resume =>
    intro s p
    obtain ⟨hwaits, hruns⟩ := rollbackResume_settled (s := s) p
    exact ⟨hwaits, fun hr hw hd hp _ => hruns hr hw hd hp⟩
  case migration =>
    intro s b n hp
    exact ⟨fun col hm hc h1 hcan => migration_settled b hp hm hc h1 (by cases col <;> exact hcan),
      fun c k hm hc hk => columnDone_settled b c k hp hm hc hk, fun code x hm hc hk => blockDone_settled b hp hm hc hk⟩

end Sys2Proof.Machine
end

section
/-! SUPPORT. How a load ends: its report, the replacements that waited for it, and what a failed load leaves (R70, R71, R79, R81). -/

namespace Sys2Proof.Machine

variable {s t : State} {n : Nat}

/-! ### The replacements that waited -/

/-- The parts and registers that a replacement or the loss of concealment may change, whatever block or partition waits. -/
def waitParts : List Piece := replaceParts ++ lossParts
def waitReg (a : Nat) : Prop := (∃ b, replaceReg b a) ∨ ∃ n, n < 16 ∧ lossReg n a

/-- One block that waits for the load of partition n takes its place, or puts the partition outside concealment. -/
def waitEnded (n : Nat) (s : State) (w : Nat × BitVec 8 × Bool) : State :=
  if epState s n = 6 then s else
  match replaceBlock s w.1 w.2.1.toNat w.2.2 with
  | some t => t
  | none => concealmentLost s n w.2.1.toNat ((holder s w.1).getD 0) 0

/-- The blocks of partition n that waited. -/
def partWaitsEnded (s : State) (n : Nat) : State :=
  if (epochOf s n).wait.isEmpty then s
  else (epochOf s n).wait.foldl (waitEnded n) (updEpoch s n fun e => { e with wait := [] })

theorem endWaits_eq (s : State) : endWaits s = forEach (List.range 16) partWaitsEnded s := rfl

theorem waitEnded_cases (s : State) (n : Nat) (w : Nat × BitVec 8 × Bool) : waitEnded n s w = s
    ∨ replaceBlock s w.1 w.2.1.toNat w.2.2 = some (waitEnded n s w)
    ∨ waitEnded n s w = concealmentLost s n w.2.1.toNat ((holder s w.1).getD 0) 0 := by
  unfold waitEnded
  split
  · exact .inl rfl
  · split
    next t h => exact .inr (.inl h)
    · exact .inr (.inr rfl)

theorem waitEnded_within (hn : n < 16) (s : State) (w : Nat × BitVec 8 × Bool) : Within waitParts waitReg s (waitEnded n s w) := by
  obtain h | h | h := waitEnded_cases s n w
  · rw [h]
    exact .refl
  · exact (replaceBlock_within h).mono (fun _ h => .inl ⟨w.1, h⟩) (by decide)
  · rw [h]
    exact (concealmentLost_within s n _ _ _).mono (fun _ h => .inr ⟨n, hn, h⟩) (by decide)

theorem partWaitsEnded_within (hn : n < 16) (s : State) : Within waitParts waitReg s (partWaitsEnded s n) := by
  have h : Within waitParts waitReg s s := .refl
  exact h.unless fun h => (h.updEpoch (by decide)).foldl fun w h => h.trans (waitEnded_within hn _ w)

theorem endWaits_within (s : State) : Within waitParts waitReg s (endWaits s) :=
  Within.refl.forEachMem fun _ hn h => h.trans (partWaitsEnded_within (List.mem_range.mp hn) _)

theorem endWaits_calm (h : ∀ n, n < 16 → (epochOf s n).wait = []) : endWaits s = s := by
  rw [endWaits_eq]
  refine List.foldlRecOn (motive := fun t => t = s) _ _ rfl fun t e n hn => ?_
  rw [e, partWaitsEnded, h n (List.mem_range.mp hn), if_pos (by rfl)]

/-- Neither the replacements nor a sweep touch the image registers. -/
theorem not_waitReg_image {a : Nat} (h : 0x040000100000 ≤ a) (h' : a < 0x040000200000) : ¬ waitReg a := by
  rintro (⟨b, (⟨g, e⟩ | e) | ⟨r, -, e⟩ | ⟨d, -, e⟩ | e | e | ⟨g, hg, e⟩ | ⟨w, -, e⟩ | (e | e) | e⟩
    | ⟨n, -, e | e | ⟨w, -, e⟩ | e | (e | e) | ⟨g, hg, e⟩⟩)
  · unfold R.BSW_MAP gwin at e; omega
  · unfold R.CN_COUNT chipCtl at e; omega
  · unfold R.RT_ISO rwin at e; split at e <;> omega
  · unfold R.PC_DOM chipCtl at e; omega
  · omega
  · omega
  · unfold R.ORN_GEOM gwin at e; omega
  · unfold R.CIC_PEND chipCtl at e; omega
  · unfold R.CN_LAST chipCtl at e; omega
  · unfold R.SB_JRNL chipCtl at e; omega
  · unfold bwin idleFrom at e; omega
  · unfold stopReg at e; omega
  · unfold R.EP_STAT chipCtl at e; omega
  · unfold R.CIC_PEND chipCtl at e; omega
  · unfold R.CN_COUNT chipCtl at e; omega
  · unfold R.CN_LAST chipCtl at e; omega
  · unfold R.SB_JRNL chipCtl at e; omega
  · unfold R.GW_SLUICE rwin at e; rw [if_pos hg] at e; omega

theorem not_sweepReg_image {a : Nat} (h : 0x040000100000 ≤ a) (h' : a < 0x040000200000) : ¬ sweepReg a := by
  rintro (⟨r, e⟩ | ⟨r, -, e⟩)
  · unfold R.RT_TAGS rwin at e; split at e <;> omega
  · unfold R.RT_ISO rwin at e; split at e <;> omega

/-! ### The end of a load -/

/-- No load is open: its phase, BUSY and GO. -/
def loadClosed (s : State) (ph : Nat) : State :=
  setB (setB (setPhase { s with img := none } ph) R.IMG_STATUS R.IMG_STATUS_BUSY false) R.IMG_CTRL R.IMG_CTRL_GO false

/-- The parts and registers that the end of a load may change after that. -/
def endParts : List Piece := .mesh :: .out :: .host :: waitParts
def endReg (a : Nat) : Prop := waitReg a ∨ sweepReg a

theorem endLoad_swept (s : State) (ph status detail result : Nat) :
    Within [.host] (fun _ => False) (sweepIso (endWaits (loadClosed s ph))) (endLoad s ph status detail result) := by
  unfold endLoad
  extract_lets cmd u
  have hu : u = loadClosed s ph := rfl
  clear_value u cmd
  subst hu
  split
  exacts [complete_within _ _ _ _ _ _ _, .refl]

theorem endLoad_within (s : State) (ph status detail result : Nat) :
    Within endParts endReg (loadClosed s ph) (endLoad s ph status detail result) :=
  (((endWaits_within _).mono (fun _ => .inl) (by decide)).andThen (sweepIso_within _) (by decide) fun _ => .inr).andThen
    (endLoad_swept s ph status detail result) (by decide) fun _ => False.elim

/-- Where no replacement waits, the end of a load only sweeps the mesh and completes its command. -/
theorem endLoad_calm (h : ∀ n, n < 16 → (epochOf s n).wait = []) (ph status detail result : Nat) :
    Within [.mesh, .out, .host] sweepReg (loadClosed s ph) (endLoad s ph status detail result) := by
  have hw := endLoad_swept s ph status detail result
  rw [endWaits_calm (s := loadClosed s ph) h] at hw
  exact ((sweepIso_within _).mono (fun _ => id) (by decide)).andThen hw (by decide) fun _ => False.elim

theorem not_endReg_image {a : Nat} (h : 0x040000100000 ≤ a) (h' : a < 0x040000200000) : ¬ endReg a :=
  fun e => e.elim (not_waitReg_image h h') (not_sweepReg_image h h')

theorem loadClosed_within (s : State) (ph : Nat) : Within [.img] engineReg s (loadClosed s ph) := by
  have h : Within [.img] engineReg s s := .refl
  exact ((((h.put .img (v := none) (by decide)).setF (.inr (.inl rfl))).setB (.inr (.inl rfl))).setB (.inl rfl))

theorem phase_loadClosed (s : State) {ph : Nat} (h : ph < 16) : phase (loadClosed s ph) = ph := by
  rw [phase, loadClosed, setB, rgF_setF_other _ (by decide), setB, rgF_setF_field _ _ (by decide) (by decide), setPhase,
    rgF_setF_same _ _ (by decide)]
  exact Nat.mod_eq_of_lt h

theorem busy_loadClosed (s : State) (ph : Nat) : rgB (loadClosed s ph) R.IMG_STATUS R.IMG_STATUS_BUSY = false := by
  rw [rgB, loadClosed, setB, rgF_setF_other _ (by decide), ← rgB, rgB_setB_same _ _ (by decide) rfl]

/-- The other fields of IMG_STATUS stay. -/
theorem status_loadClosed (s : State) (ph : Nat) {f : Fld} (hb : 0 < f.lo) (hp : f.hi < 8 ∨ 11 < f.lo) :
    rgF (loadClosed s ph) R.IMG_STATUS f = rgF s R.IMG_STATUS f := by
  rw [loadClosed, setB, rgF_setF_other _ (by decide), setB, rgF_setF_field _ _ (by decide) (.inl hb), setPhase,
    rgF_setF_field _ _ (by decide) hp.symm]
  exact rgF_of_rg (rg_congr rfl _) f

end Sys2Proof.Machine
end

section
/-! SUPPORT. A rejected load: its report, the partitions that it has cost, and what the others are told (R70, R71, R81, R432). -/

namespace Sys2Proof.Machine

variable {s t : State}

/-! ### Folds that settle one thing -/

/-- Q holds until a fold comes past x, whose step turns it into P, which the steps keep. -/
theorem foldl_reaches {α : Type} {f : State → α → State} {P Q : State → Prop} {x : α} {l : List α}
    (hwait : ∀ s, ∀ y ∈ l, y ≠ x → Q s → Q (f s y)) (hset : ∀ s, Q s → P (f s x)) (hkeep : ∀ s, ∀ y ∈ l, P s → P (f s y))
    (hx : x ∈ l) {s : State} (h : Q s) : P (l.foldl f s) := by
  induction l generalizing s with
  | nil => cases hx
  | cons y l ih =>
    by_cases e : y = x
    · exact List.foldlRecOn (motive := P) l f (e ▸ hset s h) fun s h y hy => hkeep s y (.tail _ hy) h
    · exact ih (fun s z hz => hwait s z (.tail _ hz)) (fun s z hz => hkeep s z (.tail _ hz))
        (List.mem_of_ne_of_mem (Ne.symm e) hx) (hwait s y (.head _) e h)

/-- What the step of x settles and the other steps leave holds after a fold that comes past x. -/
theorem foldl_settles {α : Type} {f : State → α → State} {P : State → Prop} {x : α} {l : List α} (hset : ∀ s, P (f s x))
    (hkeep : ∀ s, ∀ y ∈ l, y ≠ x → P s → P (f s y)) (hx : x ∈ l) (s : State) : P (l.foldl f s) :=
  foldl_reaches (Q := fun _ => True) (fun _ _ _ _ h => h) (fun s _ => hset s)
    (fun s y hy h => by
      by_cases e : y = x
      · exact e ▸ hset s
      · exact hkeep s y hy e h) hx trivial

/-! ### The region map -/

/-- What withMap sets for one region under load. -/
def mapSetTo (owner : List (Nat × Nat)) (s : State) (g : Nat) : State :=
  setF (setF s R.IMG_STATUS ⟨48 + g, 48 + g⟩ (b2n (mapHas g owner))) R.IMG_REGMAP ⟨4 * g + 3, 4 * g⟩
    (if mapHas g owner then mapGet 0 g owner else 0)

def mapStep (aff : BitVec 16) (owner : List (Nat × Nat)) (s : State) (g : Nat) : State :=
  if !aff.getLsbD g then s else mapSetTo owner s g

theorem withMap_eq (s : State) (aff : BitVec 16) (owner : List (Nat × Nat)) :
    withMap s aff owner = (List.range 16).foldl (mapStep aff owner) s := rfl

theorem mapStep_hit {aff : BitVec 16} {g : Nat} (h : aff.getLsbD g = true) (owner : List (Nat × Nat)) (s : State) :
    mapStep aff owner s g = mapSetTo owner s g := by
  rw [mapStep, h]
  exact if_neg (by decide)

/-- The registers of the region map. -/
def mapReg (a : Nat) : Prop := a = R.IMG_STATUS ∨ a = R.IMG_REGMAP

theorem withMap_within (s : State) (aff : BitVec 16) (owner : List (Nat × Nat)) : Within [] mapReg s (withMap s aff owner) :=
  Within.refl.foldl fun _ h => h.unless fun h => (h.setF (.inl rfl)).setF (.inr rfl)

theorem testBit_rg_setF (s : State) (a : Nat) {f : Fld} (h : f.hi < 64) (v k : Nat) :
    (rg (setF s a f v) a).testBit k = if f.lo ≤ k ∧ k ≤ f.hi then v.testBit (k - f.lo) else (rg s a).testBit k := by
  rw [rg_setF_same s a h, testBit_putBits]

theorem assigned_eq (s : State) {g : Nat} (hg : g < 16) : assigned s g = (rg s R.IMG_STATUS).testBit (48 + g) := by
  rw [assigned, rgF, testBit_bits, decide_eq_true (show g < 63 + 1 - 48 by omega), Bool.true_and]

theorem heldRegion_eq (s : State) {g : Nat} (hg : g < 16) : heldRegion s g = (rg s R.IMG_STATUS).testBit (32 + g) := by
  rw [heldRegion, rgF, testBit_bits, decide_eq_true (show g < 47 + 1 - 32 by omega), Bool.true_and]

theorem assigned_mapSetTo (owner : List (Nat × Nat)) (s : State) {g h : Nat} (hg : g < 16) (hh : h < 16) :
    assigned (mapSetTo owner s h) g = if h = g then mapHas g owner else assigned s g := by
  rw [assigned_eq _ hg, mapSetTo, rg_setF_other _ (by decide), testBit_rg_setF _ _ (by simp only; omega), assigned_eq _ hg]
  by_cases e : h = g
  · subst e
    rw [if_pos (by simp only; omega), if_pos rfl, Nat.sub_self]
    cases mapHas h owner <;> rfl
  · rw [if_neg (by simp only; omega), if_neg e]

theorem regmap_mapSetTo (owner : List (Nat × Nat)) (s : State) {g h : Nat} (hg : g < 16) (hh : h < 16) :
    bits (rg (mapSetTo owner s h) R.IMG_REGMAP) (4 * g + 3) (4 * g)
      = if h = g then (if mapHas g owner then mapGet 0 g owner else 0) % 16 else bits (rg s R.IMG_REGMAP) (4 * g + 3) (4 * g) := by
  rw [mapSetTo, rg_setF_same _ _ (by simp only; omega)]
  by_cases e : h = g
  · subst e
    rw [if_pos rfl, bits_putBits_same, show 4 * h + 3 + 1 - 4 * h = 4 by omega]
    rfl
  · rw [if_neg e, bits_putBits_other (by simp only; omega), rg_setF_other _ (by decide)]

/-- The regions under load belong to the partitions of the map, and to none that it does not name. -/
theorem partOfRegion_withMap {aff : BitVec 16} {owner : List (Nat × Nat)} (ho : ∀ e ∈ owner, e.2 < 16) {g : Nat}
    (h : aff.getLsbD g = true) (s : State) :
    assigned (withMap s aff owner) g = mapHas g owner
      ∧ partOfRegion (withMap s aff owner) g = if mapHas g owner then some (mapGet 0 g owner) else none := by
  have hg : g < 16 := BitVec.lt_of_getLsbD h
  let P (t : State) : Prop := assigned t g = mapHas g owner
    ∧ bits (rg t R.IMG_REGMAP) (4 * g + 3) (4 * g) = (if mapHas g owner then mapGet 0 g owner else 0) % 16
  have hP : P (withMap s aff owner) := by
    rw [withMap_eq]
    refine foldl_settles (x := g) (fun t => ?_) (fun t y hy hne hp => ?_) (List.mem_range.mpr hg) s
    · rw [mapStep_hit h]
      exact ⟨(assigned_mapSetTo owner t hg hg).trans (if_pos rfl), (regmap_mapSetTo owner t hg hg).trans (if_pos rfl)⟩
    · unfold mapStep
      split
      · exact hp
      · have hy := List.mem_range.mp hy
        exact ⟨((assigned_mapSetTo owner t hg hy).trans (if_neg hne)).trans hp.1,
          ((regmap_mapSetTo owner t hg hy).trans (if_neg hne)).trans hp.2⟩
  obtain ⟨ha, hr⟩ := hP
  refine ⟨ha, ?_⟩
  rw [partOfRegion, ha, hr]
  split
  next hm =>
    have hlt : mapGet 0 g owner < 16 := by
      obtain e | e := mapGet_mem 0 g owner
      · omega
      · exact ho _ e
    rw [Nat.mod_eq_of_lt hlt]
  · rfl

/-- The other fields of IMG_STATUS stay. -/
theorem status_withMap (s : State) (aff : BitVec 16) (owner : List (Nat × Nat)) {f : Fld} (hf : f.hi < 48) :
    rgF (withMap s aff owner) R.IMG_STATUS f = rgF s R.IMG_STATUS f := by
  rw [withMap_eq]
  refine List.foldlRecOn (motive := fun t => rgF t R.IMG_STATUS f = rgF s R.IMG_STATUS f) _ _ rfl fun t e g hg => ?_
  have hg := List.mem_range.mp hg
  unfold mapStep
  split
  · exact e
  · rw [mapSetTo, rgF_setF_other _ (by decide), rgF_setF_field _ _ (by simp only; omega) (by simp only; omega), e]

/-! ### The report -/

/-- IMG_ERR and ERR as a rejection shows them, with its interrupt. -/
def errShown (s : State) (r : Rej) : State := setB (setErr s r) R.IMG_STATUS R.IMG_STATUS_ERR true
def errRaised (s : State) (r : Rej) : State := cicRise s (errShown s r) 0

theorem reportRej_eq (s : State) (r : Rej) (ph : Nat) :
    reportRej s r ph = endLoad (errRaised s r) ph 0x0C r.1 (rg (errShown s r) R.IMG_ERR) := rfl

theorem cicRise_chip (s0 s : State) : Within [] cicReg s (cicRise s0 s 0) := by
  unfold cicRise
  split
  · rw [cicOutside, show cicOwner (cicSet s 0) 0 = none from rfl]
    exact Within.refl.setF ⟨0, by omega, rfl⟩
  · exact .refl

theorem errShown_within (s : State) (r : Rej) : Within [] engineReg s (errShown s r) :=
  (Within.refl.setRg (.inr (.inr rfl))).setB (.inr (.inl rfl))

theorem errRaised_within (s : State) (r : Rej) : Within [] (fun a => engineReg a ∨ cicReg a) s (errRaised s r) :=
  ((errShown_within s r).mono (fun _ => .inl) (by decide)).andThen (cicRise_chip s _) (by decide) fun _ => .inr

/-- The registers that a rejection changes: its report, the chip's interrupt, and those of the load's end. -/
def rejReg (a : Nat) : Prop := engineReg a ∨ cicReg a ∨ endReg a

theorem reportRej_within (s : State) (r : Rej) (ph : Nat) : Within (.img :: endParts) rejReg s (reportRej s r ph) :=
  (((errRaised_within s r).mono (fun _ h => h.imp id .inl) (by decide)).andThen (loadClosed_within _ ph) (by decide)
    fun _ => .inl).andThen (endLoad_within _ _ _ _ _) (by decide) fun _ h => .inr (.inr h)

theorem reportRej_calm (h : ∀ n, n < 16 → (epochOf s n).wait = []) (r : Rej) (ph : Nat) :
    Within [.img, .mesh, .out, .host] rejReg s (reportRej s r ph) := by
  have w := errRaised_within s r
  have hw : ∀ n, n < 16 → (epochOf (errRaised s r) n).wait = [] := fun n hn => by rw [w.epochOf n (by decide), h n hn]
  exact ((w.mono (fun _ h => h.imp id .inl) (by decide)).andThen (loadClosed_within _ ph) (by decide) fun _ => .inl).andThen
    (endLoad_calm hw _ _ _ _) (by decide) fun _ h => .inr (.inr (.inr h))

theorem not_cicReg_image {a : Nat} (h : a < 0x040000200000) : ¬ cicReg a := by
  rintro ⟨w, -, e⟩
  unfold R.CIC_PEND chipCtl at e
  omega

theorem errCode_errShown (s : State) (r : Rej) : rgF (errShown s r) R.IMG_ERR R.IMG_ERR_CODE = r.1 % 256 := by
  rw [errShown, setB, rgF_setF_other _ (by decide), setErr, rgF, rg_setRg_same, bits]
  simp only
  omega

/-- What a rejection shows, whatever it waited for. -/
theorem reportRej_shows (s : State) (r : Rej) {ph : Nat} (hph : ph < 16) :
    phase (reportRej s r ph) = ph ∧ (reportRej s r ph).img = none
      ∧ rgB (reportRej s r ph) R.IMG_STATUS R.IMG_STATUS_BUSY = false
      ∧ rgB (reportRej s r ph) R.IMG_STATUS R.IMG_STATUS_ERR = true
      ∧ rgF (reportRej s r ph) R.IMG_ERR R.IMG_ERR_CODE = r.1 % 256
      ∧ ∀ g, assigned (reportRej s r ph) g = assigned s g := by
  have w := endLoad_within (errRaised s r) ph 0x0C r.1 (rg (errShown s r) R.IMG_ERR)
  rw [← reportRej_eq] at w
  have wc := cicRise_chip s (errShown s r)
  have hs : ¬ endReg R.IMG_STATUS := not_endReg_image (by decide) (by decide)
  have hc : ¬ cicReg R.IMG_STATUS := not_cicReg_image (by decide)
  refine ⟨(w.rgF hs _).trans (phase_loadClosed _ hph), (w.img (by decide)).trans ?_, (w.rgB hs _).trans (busy_loadClosed _ _),
    (w.rgB hs _).trans ?_, (w.rgF (not_endReg_image (by decide) (by decide)) _).trans ?_, fun g => ?_⟩
  · rw [loadClosed, setB_img, setB_img, setPhase, setF_img]
  · rw [rgB, status_loadClosed _ _ (by decide) (by decide), errRaised, wc.rgF hc, errShown, setB, rgF_setF_same _ _ (by decide)]
    decide
  · rw [loadClosed, setB, rgF_setF_other _ (by decide), setB, rgF_setF_other _ (by decide), setPhase, rgF_setF_other _ (by decide)]
    exact (wc.rgF (not_cicReg_image (by decide)) _).trans (errCode_errShown s r)
  · rw [assigned, w.rgF hs, status_loadClosed _ _ (by decide) (by decide), errRaised, wc.rgF hc, errShown, setB,
      rgF_setF_field _ _ (by decide) (by decide), setErr, rgF_setRg_other _ (by decide), assigned]

/-! ### What a failed load costs, and who is told -/

theorem tellFail_within (s : State) (L : ImgLoad) (dev : Nat) : Within [.out] (fun _ => False) s (tellFail s L dev) :=
  Within.refl.unless fun h => h.put .out (by decide)

theorem commandVolt_within (s : State) : Within [.pwr, .out] (· = R.PC_VF) s (commandVolt s) :=
  Within.refl.unless fun h => (h.when (·.put .pwr (by decide))).unless fun h => ((h.setF rfl).setB rfl).emit (by decide)

/-- The settings that outlive a load's partitions. -/
def keptCfg (s : State) (L : ImgLoad) : Settings :=
  let aff (g : Nat) : Bool := L.affected.getLsbD g
  let c := s.cfg
  { c with parts := c.parts.filter fun e => !L.replaced.contains e.1
           regions := mapDrop aff c.regions, gang := mapDrop (fun b => aff (b / 8)) c.gang
           pwr := mapDrop (fun b => aff (b / 8)) c.pwr
           segs := c.segs.filter fun e => !aff (bits e.toNat 63 57 / 8)
           irq := c.irq.filter fun e => match cicOwner s e.1 with | some n => !L.replaced.contains n | none => true }

/-- The versions and geometries of a load's partitions and regions go. -/
def versionsGone (s : State) (L : ImgLoad) : State :=
  (List.range 16).foldl (fun s g => if L.affected.getLsbD g then setRg s (R.ORN_GEOM g) 0 else s)
    (L.replaced.foldl (fun s n => setRg s (R.IMG_PVER n) 0) { s with cfg := keptCfg s L })

theorem dropParts_eq (s : State) (L : ImgLoad) : dropParts s L = commandVolt (withMap (versionsGone s L) L.affected []) := rfl

/-- The registers of versions and geometries. -/
def versionReg (a : Nat) : Prop := (∃ n, a = R.IMG_PVER n) ∨ ∃ g, g < 16 ∧ a = R.ORN_GEOM g

theorem versionsGone_within (s : State) (L : ImgLoad) : Within [.cfg] versionReg s (versionsGone s L) :=
  (Within.foldl (Within.put .refl .cfg (by decide)) fun n h => h.setRg (.inl ⟨n, rfl⟩)).foldlMem fun g hg h =>
    h.when (·.setRg (.inr ⟨g, List.mem_range.mp hg, rfl⟩))

theorem dropParts_within (s : State) (L : ImgLoad) :
    Within [.cfg, .pwr, .out] (fun a => versionReg a ∨ mapReg a ∨ a = R.PC_VF) s (dropParts s L) :=
  (((versionsGone_within s L).mono (fun _ => .inl) (by decide)).andThen (withMap_within _ _ _) (by decide)
    fun _ h => .inr (.inl h)).andThen (commandVolt_within _) (by decide) fun _ h => .inr (.inr h)

theorem assigned_dropParts (s : State) {L : ImgLoad} {g : Nat} (h : L.affected.getLsbD g = true) :
    assigned (dropParts s L) g = false := by
  rw [dropParts_eq, assigned, (commandVolt_within _).rgF (by decide)]
  exact (partOfRegion_withMap (owner := []) (by simp) h _).1

/-- A load that fails leaves no partition of its own. -/
theorem failLoad_shows (s : State) (L : ImgLoad) (r : Rej) :
    phase (failLoad s L r) = 7 ∧ (failLoad s L r).img = none
      ∧ rgB (failLoad s L r) R.IMG_STATUS R.IMG_STATUS_ERR = true ∧ rgF (failLoad s L r) R.IMG_ERR R.IMG_ERR_CODE = r.1 % 256
      ∧ rgB (failLoad s L r) R.IMG_STATUS R.IMG_STATUS_BUSY = false
      ∧ ∀ g, L.affected.getLsbD g = true → assigned (failLoad s L r) g = false := by
  have w := tellFail_within (reportRej (dropParts s L) r 7) L (myIdx (inLoadCascade s L))
  obtain ⟨hph, himg, hbusy, herr, hcode, hassigned⟩ := reportRej_shows (dropParts s L) r (ph := 7) (by decide)
  exact ⟨(w.rgF id _).trans hph, (w.img (by decide)).trans himg, (w.rgB id _).trans herr, (w.rgF id _).trans hcode,
    (w.rgB id _).trans hbusy,
    fun g hg => ((w.sameMap id id).assigned g).trans ((hassigned g).trans (assigned_dropParts s hg))⟩

/-- Where no replacement waits for it, a failing load leaves memory alone. -/
theorem failLoad_mem (h : ∀ n, n < 16 → (epochOf s n).wait = []) (L : ImgLoad) (r : Rej) : (failLoad s L r).mem = s.mem := by
  have wd := dropParts_within s L
  have hw : ∀ n, n < 16 → (epochOf (dropParts s L) n).wait = [] := fun n hn => by rw [wd.epochOf n (by decide), h n hn]
  exact ((tellFail_within _ _ _).mem (by decide)).trans (((reportRej_calm hw r 7).mem (by decide)).trans (wd.mem (by decide)))

end Sys2Proof.Machine
end

section
/-! SUPPORT. Starts, frames and failures of a structural image as the statement of image loads has them (R68-R74, R79, R432). -/

namespace Sys2Proof.Machine

variable {s t : State} {n : Nat}

/-! ### The start -/

theorem imgGo_busy (i : Initiator) (h : rgB s R.IMG_STATUS R.IMG_STATUS_BUSY = true) :
    ∃ t, exec (.imgGo i) s = .next t ∧ s.regsOnly t [R.IMG_STATUS] ∧ rgB t R.IMG_STATUS R.IMG_STATUS_REFUSED = true := by
  refine ⟨setB s R.IMG_STATUS R.IMG_STATUS_REFUSED true, congrArg Host.Outcome.next (if_pos h), ⟨rfl, fun a ha => ?_⟩,
    rgB_setB_same _ _ (by decide) rfl _⟩
  rw [setB, rg_setF_other _ (by simpa using ha)]

theorem exec_imgGo (i : Initiator) (h : rgB s R.IMG_STATUS R.IMG_STATUS_BUSY = false) : exec (.imgGo i) s = .next (imgStart s none) :=
  congrArg Host.Outcome.next (if_neg (by simp [h]))

theorem engineLoad_keeps (s : State) (cmd : Option (Nat × Nat × BitVec 512)) :
    Within [.host, .img, .rein] engineReg s (engineLoad s cmd) :=
  ((engineOn_within s).mono (fun _ => id) (by decide)).andThen (engineLoad_within s cmd) (by decide) fun _ => False.elim

/-- A rejection by CHECK leaves the rest of the device. -/
theorem imgGo_rejected (i : Initiator) (hbusy : rgB s R.IMG_STATUS R.IMG_STATUS_BUSY = false)
    (calm : ∀ n, n < 16 → (epochOf s n).wait = []) {r : Rej} (hr : checkRej s = some r) :
    ∃ t, exec (.imgGo i) s = .next t
      ∧ rgB t R.IMG_STATUS R.IMG_STATUS_ERR = true ∧ rgF t R.IMG_ERR R.IMG_ERR_CODE = r.1 % 256
      ∧ rgF t R.IMG_STATUS R.IMG_STATUS_PHASE = 0 ∧ rgB t R.IMG_STATUS R.IMG_STATUS_BUSY = false ∧ t.img = none
      ∧ t.cfg = s.cfg ∧ t.mem = s.mem ∧ t.cells = s.cells ∧ t.seqs = s.seqs ∧ t.epochs = s.epochs := by
  have hrej : checkRej (engineLoad s none) = some r := (sameCheck_engineLoad s none).checkRej.trans hr
  have w0 := engineLoad_keeps s none
  have hw : ∀ n, n < 16 → (epochOf (engineLoad s none) n).wait = [] := fun n hn => by rw [w0.epochOf n (by decide), calm n hn]
  refine ⟨_, (exec_imgGo i hbusy).trans (congrArg Host.Outcome.next ((imgStart_eq s none).trans (by rw [hrej]))), ?_⟩
  generalize engineLoad s none = u at w0 hw
  generalize openLoad (engineOn s) none = L
  have w1 := reportRej_calm hw r 0
  have w2 := tellFail_within (reportRej u r 0) L (myIdx (inLoadCascade u L))
  obtain ⟨hph, himg, hb, herr, hcode, -⟩ := reportRej_shows u r (ph := 0) (by decide)
  exact ⟨(w2.rgB id _).trans herr, (w2.rgF id _).trans hcode, (w2.rgF id _).trans hph, (w2.rgB id _).trans hb,
    (w2.img (by decide)).trans himg, (w2.cfg (by decide)).trans ((w1.cfg (by decide)).trans (w0.cfg (by decide))),
    (w2.mem (by decide)).trans ((w1.mem (by decide)).trans (w0.mem (by decide))),
    (w2.cells (by decide)).trans ((w1.cells (by decide)).trans (w0.cells (by decide))),
    (w2.seqs (by decide)).trans ((w1.seqs (by decide)).trans (w0.seqs (by decide))),
    (w2.epochs (by decide)).trans ((w1.epochs (by decide)).trans (w0.epochs (by decide)))⟩

/-! ### The boundaries of HOLD -/

/-- Partition n is as before HOLD came to it: its epoch can begin to commit. -/
structure CanBegin (t : State) (n : Nat) : Prop where
  live : epState t n ≠ 6 ∧ epState t n ≠ 0
  step : (epochOf t n).step = 0
  calm : (epochOf t n).rolling = false
  alone : cascadePart t n = false

/-- Its boundary is under way. -/
def Begun (t : State) (n : Nat) : Prop := (epochOf t n).step = 1 ∧ epState t n = 2

theorem CanBegin.kept {F : List Piece} {A : Nat → Prop} (h : CanBegin s n) (w : Within F A s t) (he : .epochs ∉ F) (hc : .cfg ∉ F)
    (ha : ¬ A (R.EP_STAT n)) : CanBegin t n := by
  have hst : epState t n = epState s n := w.rgF ha _
  have hep := w.epochOf n he
  refine ⟨hst ▸ h.live, hep ▸ h.step, hep ▸ h.calm, ?_⟩
  rw [cascadePart, defined, w.cfg hc]
  exact h.alone

theorem Begun.kept {F : List Piece} {A : Nat → Prop} (h : Begun s n) (w : Within F A s t) (he : .epochs ∉ F)
    (ha : ¬ A (R.EP_STAT n)) : Begun t n := ⟨by rw [w.epochOf n he, h.1], (w.rgF ha _).trans h.2⟩

theorem holdBoundary_begins (h : CanBegin s n) : Begun (holdBoundary s n) n := by
  have e : holdBoundary s n = startBoundary s n :=
    (if_neg (by simp [h.live.1, h.live.2, h.step])).trans
      ((if_neg (by simp [h.calm])).trans (if_neg (by simp [h.alone])))
  rw [e]
  exact ⟨by rw [epochOf_startBoundary], epState_startBoundary s n⟩

theorem holdBoundary_begun (h : Begun s n) : holdBoundary s n = s := if_pos (.inr (.inr (by rw [h.1]; decide)))

/-- The boundary of one partition leaves the epoch of another. -/
theorem epochOf_holdBoundary_other (s : State) {m : Nat} (h : n ≠ m) : epochOf (holdBoundary s m) n = epochOf s n := by
  unfold holdBoundary
  extract_lets e
  split
  · rfl
  · split
    · exact epochOf_updEpoch_other _ h _
    · split
      · rw [(forwardReq_within _ _ _).epochOf n (by decide), epochOf_updEpoch_other _ h]
      · rw [(startBoundary_begun s m).epochOf n (by decide), boundaryBegun, epochOf_setF, epochOf_updEpoch_other _ h]

theorem epStat_inj {m : Nat} (h : n ≠ m) : R.EP_STAT n ≠ R.EP_STAT m := by
  unfold R.EP_STAT
  omega

/-- Before its boundary partition n only stops, if it must. -/
def holdStopped (s : State) (n : Nat) : State := if !idlePart s n then girthStop s n 4 else s

theorem holdStep_eq (s : State) (n : Nat) : holdStep s n = holdBoundary (holdStopped s n) n := rfl

theorem holdStopped_within (s : State) (m : Nat) : Within (.dbg :: haltParts) stopReg s (holdStopped s m) :=
  Within.refl.when fun h => h.trans (girthStop_within _ m 4)

theorem not_stopReg_epStat (n : Nat) (hn : n < 16) : ¬ stopReg (R.EP_STAT n) := not_stopReg (by unfold R.EP_STAT chipCtl; omega)

theorem holdStep_other (hn : n < 16) {m : Nat} (hne : m ≠ n) (h : CanBegin s n) : CanBegin (holdStep s m) n := by
  have h1 := h.kept (holdStopped_within s m) (by decide) (by decide) (not_stopReg_epStat n hn)
  have w := holdBoundary_within (holdStopped s m) m
  rw [holdStep_eq]
  generalize holdStopped s m = u at h1 w
  have hst : epState (holdBoundary u m) n = epState u n := w.rgF (epStat_inj (Ne.symm hne)) _
  have hep : epochOf (holdBoundary u m) n = epochOf u n := epochOf_holdBoundary_other _ (Ne.symm hne)
  refine ⟨hst ▸ h1.live, hep ▸ h1.step, hep ▸ h1.calm, ?_⟩
  rw [cascadePart, defined, w.cfg (by decide)]
  exact h1.alone

theorem holdStep_begun (hn : n < 16) (m : Nat) (h : Begun s n) : Begun (holdStep s m) n := by
  have h1 := h.kept (holdStopped_within s m) (by decide) (not_stopReg_epStat n hn)
  rw [holdStep_eq]
  by_cases e : m = n
  · subst e
    rw [holdBoundary_begun h1]
    exact h1
  · exact ⟨by rw [← h1.1, epochOf_holdBoundary_other _ (Ne.symm e)],
      ((holdBoundary_within _ m).rgF (epStat_inj (Ne.symm e)) _).trans h1.2⟩

theorem holdStep_begins (hn : n < 16) (h : CanBegin s n) : Begun (holdStep s n) n :=
  holdBoundary_begins (h.kept (holdStopped_within s n) (by decide) (by decide) (not_stopReg_epStat n hn))

/-- The boundary of every partition that the accepted load replaces and that can commit has begun. -/
theorem imgStart_begins (hc : checkRej s = none) (hn : n ∈ (openLoad s none).replaced) (h : CanBegin s n) :
    Begun (imgStart s none) n := by
  have hlt : n < 16 := replaced_lt hn
  have hrej : checkRej (engineLoad s none) = none := (sameCheck_engineLoad s none).checkRej.trans hc
  have w0 := engineLoad_keeps s none
  rw [← openLoad_engineOn] at hn
  rw [imgStart_eq, hrej, afterCheck]
  have h0 : CanBegin (setPhase (engineLoad s none) 2) n := by
    refine (h.kept w0 (by decide) (by decide) ?_).kept (t := setPhase (engineLoad s none) 2)
      (F := []) (A := engineReg) (Within.refl.setF (.inr (.inl rfl))) (by decide) (by decide) ?_ <;>
    · unfold engineReg R.EP_STAT R.IMG_CTRL R.IMG_STATUS R.IMG_ERR chipCtl
      omega
  generalize setPhase (engineLoad s none) 2 = u at h0
  exact (foldl_reaches (Q := (CanBegin · n)) (P := (Begun · n)) (fun _ y _ hne hq => holdStep_other hlt hne hq)
    (fun _ hq => holdStep_begins hlt hq) (fun _ y _ hp => holdStep_begun hlt y hp) hn h0).kept (raiseFences_within _) (by decide)
    (not_sluiceReg (by unfold R.EP_STAT chipCtl; omega))

theorem imgGo_accepted (i : Initiator) (hbusy : rgB s R.IMG_STATUS R.IMG_STATUS_BUSY = false) (hc : checkRej s = none) :
    ∃ t, exec (.imgGo i) s = .next t ∧ t.img = some (openLoad s none) ∧ rgF t R.IMG_STATUS R.IMG_STATUS_PHASE = 2
      ∧ rgB t R.IMG_STATUS R.IMG_STATUS_BUSY = true ∧ t.cfg = s.cfg ∧ t.mem = s.mem
      ∧ ∀ n ∈ (openLoad s none).replaced, epState s n ≠ 6 → epState s n ≠ 0 → (epochOf s n).step = 0 →
          (epochOf s n).rolling = false → cascadePart s n = false → (epochOf t n).step = 1 ∧ epState t n = 2 := by
  obtain ⟨himg, hph, hb, hcfg, hmem⟩ := imgStart_opens (cmd := none) hc
  exact ⟨_, exec_imgGo i hbusy, himg, hph, hb, hcfg, hmem,
    fun n hn h6 h0 hstep hroll halone => imgStart_begins hc hn ⟨⟨h6, h0⟩, hstep, hroll, halone⟩⟩

/-! ### Frames -/

section
variable {L : ImgLoad}

/-- What the check of the frame now read says. -/
def frameBad (s : State) (L : ImgLoad) : Option Rej :=
  frameRej L.v1 (!L.v1 && !L.partial_) L.partMask.toNat L.frames.length (imgFrame s L.frames.length)

theorem execImageFrame_bad (hi : s.img = some L) (hp : phase s = 3) {r : Rej} (hb : frameBad s L = some r) :
    execImageFrame s = .next (failLoad s L r) := by
  unfold frameBad at hb
  unfold execImageFrame
  simp only [hi, hp, hb, ne_eq, not_true_eq_false, if_false]

theorem execImageFrame_good (hi : s.img = some L) (hp : phase s = 3) (hb : frameBad s L = none) :
    execImageFrame s = .next (if L.frames.length + 1 < L.count then
        { s with img := some { L with frames := L.frames ++ [imgFrame s L.frames.length] } }
      else verifyLoad s L (L.frames ++ [imgFrame s L.frames.length])) := by
  unfold frameBad at hb
  unfold execImageFrame
  simp only [hi, hp, hb, ne_eq, not_true_eq_false, if_false]

theorem imageFrame_staged (hi : s.img = some L) (hp : phase s = 3) (hb : frameBad s L = none) (hn : L.frames.length + 1 < L.count) :
    exec .imageFrame s = .next { s with img := some { L with frames := L.frames ++ [imgFrame s L.frames.length] } } :=
  (execImageFrame_good hi hp hb).trans (congrArg Host.Outcome.next (if_pos hn))

theorem imageFrame_bad (hi : s.img = some L) (hp : phase s = 3) (calm : ∀ n, n < 16 → (epochOf s n).wait = []) {r : Rej}
    (hb : frameBad s L = some r) :
    ∃ t, exec .imageFrame s = .next t ∧ phase t = 7 ∧ t.img = none
      ∧ rgB t R.IMG_STATUS R.IMG_STATUS_ERR = true ∧ rgF t R.IMG_ERR R.IMG_ERR_CODE = r.1 % 256
      ∧ rgB t R.IMG_STATUS R.IMG_STATUS_BUSY = false
      ∧ (∀ g ∈ (List.range 16).filter L.affected.getLsbD, assigned t g = false) ∧ t.mem = s.mem := by
  obtain ⟨hph, himg, herr, hcode, hbusy, hgone⟩ := failLoad_shows s L r
  exact ⟨failLoad s L r, execImageFrame_bad hi hp hb, hph, himg, herr, hcode, hbusy,
    fun g hg => hgone g (List.mem_filter.mp hg).2, failLoad_mem calm L r⟩

/-- A wrong digest is the first that VERIFY finds. -/
theorem verifyRej_digest {fs : List (List Byte)} (h : digestBytes (sha3_384 fs.flatten) ≠ ((imgTrailer s L.count 3365).drop 8).take 48)
    (t : State) (unchecked : Bool) : verifyRej s t L fs unchecked = some (0x16, 0, 0, 0) := by
  unfold verifyRej
  extract_lets tr
  have e : (if digestBytes (sha3_384 fs.flatten) = (tr.drop 8).take 48 then none else some ((0x16, 0, 0, 0) : Rej))
      = some (0x16, 0, 0, 0) := if_neg h
  rw [e, firstOf, List.findSome?_cons]
  rfl

theorem verifyLoad_digest {fs : List (List Byte)} (h : digestBytes (sha3_384 fs.flatten) ≠ ((imgTrailer s L.count 3365).drop 8).take 48) :
    verifyLoad s L fs = failLoad (setPhase s 4) L (0x16, 0, 0, 0) := by
  have he : imgTrailer (setPhase s 4) L.count 3365 = imgTrailer s L.count 3365 := by
    unfold imgTrailer memBytes
    rw [setPhase, setF_mem, rgF_setF_other _ (by decide)]
  unfold verifyLoad
  extract_lets u c v unchecked
  have hu : u = setPhase s 4 := rfl
  clear_value v unchecked c u
  subst hu
  rw [verifyRej_digest (by rw [he]; exact h)]

theorem imageFrame_digest (hi : s.img = some L) (hp : phase s = 3) (hb : frameBad s L = none) (hn : L.count ≤ L.frames.length + 1)
    (hd : digestBytes (sha3_384 (L.frames ++ [imgFrame s L.frames.length]).flatten)
      ≠ ((imgTrailer s L.count 3365).drop 8).take 48) :
    ∃ t, exec .imageFrame s = .next t ∧ phase t = 7 ∧ t.img = none ∧ rgF t R.IMG_ERR R.IMG_ERR_CODE = 0x16 := by
  obtain ⟨hph, himg, -, hcode, -⟩ := failLoad_shows (setPhase s 4) L (0x16, 0, 0, 0)
  exact ⟨_, (execImageFrame_good hi hp hb).trans (congrArg Host.Outcome.next
    ((if_neg (Nat.not_lt.mpr hn)).trans (verifyLoad_digest hd))), hph, himg, hcode⟩

theorem imageApply_unspared {c : Settings} {r : Rej} (hi : s.img = some L) (hp : phase s = 5)
    (calm : ∀ n, n < 16 → (epochOf s n).wait = []) (hc : L.staged = some c) (hs : sparing s L c = .error r) :
    ∃ t, exec .imageApply s = .next t ∧ phase t = 7 ∧ t.img = none ∧ rgF t R.IMG_ERR R.IMG_ERR_CODE = r.1 % 256 ∧ t.mem = s.mem := by
  obtain ⟨hph, himg, -, hcode, -⟩ := failLoad_shows s L r
  refine ⟨failLoad s L r, ?_, hph, himg, hcode, failLoad_mem calm L r⟩
  show execImageApply s = _
  unfold execImageApply
  rw [hi]
  simp only [hc, hp, hs]
  rfl

end

end Sys2Proof.Machine
end

section
/-! SUPPORT. A router takes its settings (R78, R370), and what a sweep of isolated requests leaves of the routers. -/

namespace Sys2Proof.Machine

variable {s t u : State}

/-! ### Holders by the maps of the regions -/

/-- The maps of the regions are the same in s and t. -/
def SameHolders (s t : State) : Prop := ∀ g, rg t (R.BSW_MAP g) = rg s (R.BSW_MAP g)

theorem SameHolders.holderCode (h : SameHolders s t) (b : Nat) : holderCode t b = holderCode s b := rgF_of_rg (h _) _

theorem SameHolders.holderIn (h : SameHolders s t) (n b : Nat) : holderIn t n b = holderIn s n b := by
  induction n generalizing b with
  | zero => rfl
  | succ n ih => simp only [Machine.holderIn, h.holderCode, ih]

theorem SameHolders.holder (h : SameHolders s t) (b : Nat) : holder t b = holder s b := by
  simp only [Machine.holder, h.holderIn]

theorem SameHolders.blockOfPhys (h : SameHolders s t) (p : Nat) : blockOfPhys t p = blockOfPhys s p := by
  simp only [Machine.blockOfPhys, h.holderCode, h.holder]

/-! ### What a sweep leaves of the routers -/

/-- A sweep counts absorbed packets and frees tags: what a router isolates and the credits it withholds stay. -/
structure Swept (s t : State) : Prop where
  recfg : t.mesh.recfg = s.mesh.recfg
  iso : ∀ r, bits (rg t (R.RT_ISO r)) 9 1 = bits (rg s (R.RT_ISO r)) 9 1

theorem Swept.refl : Swept s s := ⟨rfl, fun _ => rfl⟩

theorem Swept.trans (h : Swept s t) (h' : Swept t u) : Swept s u :=
  ⟨h'.recfg.trans h.recfg, fun r => (h'.iso r).trans (h.iso r)⟩

theorem Within.swept {F : List Piece} {A : Nat → Prop} (w : Within F A s t) (hF : .mesh ∉ F) (hA : ∀ r, ¬ A (R.RT_ISO r)) :
    Swept s t := ⟨congrArg MeshSt.recfg (w.mesh hF), fun r => by rw [w.regs _ (hA r)]⟩

theorem rwin_mod (r : Nat) : rwin r % 0x10000 = 0 := by
  unfold rwin
  split <;> omega

theorem isoReg_ne_tags (r q : Nat) : R.RT_ISO r ≠ R.RT_TAGS q := by
  have := rwin_mod r
  have := rwin_mod q
  unfold R.RT_ISO R.RT_TAGS
  omega

theorem showTags_swept (s : State) (r : Nat) : Swept s (showTags s r) := by
  have h : Within [] (fun a => ∃ q, a = R.RT_TAGS q) s (showTags s r) :=
    Within.refl.forEach fun q h => (h.setF ⟨q, rfl⟩).when (·.setF ⟨q, rfl⟩)
  exact h.swept (by decide) fun r ⟨q, e⟩ => isoReg_ne_tags r q e

theorem freeTags_swept (s : State) (p : MeshReq → Bool) : Swept s (freeTags s p) := by
  unfold freeTags
  extract_lets hit homes
  split
  · exact .refl
  · exact List.foldlRecOn (motive := Swept s) _ _ ⟨rfl, fun _ => rfl⟩ fun t h r _ => h.trans (showTags_swept t r)

theorem absorb_swept (s : State) (r : Nat) : Swept s (absorb s r) := by
  refine ⟨congrArg MeshSt.recfg (addSat_mesh _ _ _ _), fun q => ?_⟩
  by_cases e : R.RT_ISO q = R.RT_ISO r
  · rw [e, absorb, addSat, rg_setF_same _ _ (by decide), bits_putBits_other (by decide)]
  · rw [absorb, addSat, rg_setF_other _ e]

theorem Swept.unless {c : Prop} [Decidable c] {a b : State} (h : Swept s a) (hb : Swept s a → Swept s b) :
    Swept s (if c then a else b) := by
  split
  exacts [h, hb h]

theorem respond_swept (s : State) (q : MeshReq) (status : Nat) (data : List Nat) : Swept s (respond s q status data) := by
  unfold respond respondAt
  split
  · exact ⟨rfl, fun _ => rfl⟩
  · exact Swept.unless ⟨rfl, fun _ => rfl⟩ fun h => h.trans ((presentAll_within _ _ _ _ _).swept (by decide) fun _ => id)

theorem sweepIso_swept (s : State) : Swept s (sweepIso s) := by
  refine List.foldlRecOn (motive := Swept s) _ _ (freeTags_swept s _) fun t h q _ => ?_
  split
  · exact h.trans ⟨rfl, fun _ => rfl⟩
  · split
    · next r _ => exact (h.trans (absorb_swept t r)).trans (respond_swept _ q 5 [])
    · exact h

/-! ### The credits return -/

section
variable {r since : Nat}

def recfgOff (s : State) (r : Nat) : State := setB s (R.RT_LINK r) R.RT_LINK_RECFG false

def holdShown (s : State) (r since : Nat) : State :=
  setF s (R.RT_LINK r) R.RT_LINK_HOLDMAX (max (min 65535 (s.nclk - since)) (rgF s (R.RT_LINK r) R.RT_LINK_HOLDMAX))

def recfgErased (s : State) (r : Nat) : State := { s with mesh := { s.mesh with recfg := mapErase r s.mesh.recfg } }

/-- The credits of router r return, held since then. -/
def creditsBack (s : State) (r since : Nat) : State := recfgErased (holdShown (recfgOff s r) r since) r

theorem recfgErased_within (s : State) (r : Nat) : Within [.mesh] (fun _ => False) s (recfgErased s r) := Within.refl.put .mesh (by decide)

theorem creditsBack_within (s : State) (r since : Nat) : Within [.mesh] (· = R.RT_LINK r) s (creditsBack s r since) := by
  have h : Within [.mesh] (· = R.RT_LINK r) s (recfgOff s r) := Within.refl.setB rfl
  have h' : Within [.mesh] (· = R.RT_LINK r) s (holdShown (recfgOff s r) r since) := h.setF rfl
  exact h'.andThen (recfgErased_within _ r) (by decide) fun _ => False.elim

theorem mapHas_erase (k : Nat) {α : Type} (m : List (Nat × α)) : mapHas k (mapErase k m) = false := by
  induction m with
  | nil => rfl
  | cons e m ih =>
    by_cases h : e.1 = k
    · rw [mapErase, if_pos h, ih]
    · rw [mapErase, if_neg h, mapHas, if_neg h, ih]

theorem recfg_creditsBack (s : State) (r since : Nat) : mapHas r (creditsBack s r since).mesh.recfg = false := mapHas_erase r _

theorem held_creditsBack (s : State) (r since : Nat) : rgB (creditsBack s r since) (R.RT_LINK r) R.RT_LINK_RECFG = false
    ∧ rgF (creditsBack s r since) (R.RT_LINK r) R.RT_LINK_HOLDMAX
      = max (min 65535 (s.nclk - since)) (rgF s (R.RT_LINK r) R.RT_LINK_HOLDMAX) := by
  have w := recfgErased_within (holdShown (recfgOff s r) r since) r
  constructor
  · rw [creditsBack, w.rgB id, holdShown, rgB_setF_field _ _ (by decide) (by decide), recfgOff, rgB_setB_same _ _ (by decide) rfl]
  · have hlt := rgF_lt s (R.RT_LINK r) R.RT_LINK_HOLDMAX
    have hold : rgF (recfgOff s r) (R.RT_LINK r) R.RT_LINK_HOLDMAX = rgF s (R.RT_LINK r) R.RT_LINK_HOLDMAX :=
      rgF_setF_field _ _ (by decide) (by decide) _
    rw [creditsBack, w.rgF id, holdShown, rgF_setF_same _ _ (by decide), hold, recfgOff, setB_nclk]
    refine Nat.mod_eq_of_lt ?_
    simp only [R.RT_LINK_HOLDMAX] at hlt ⊢
    omega

/-- The credits of router r have returned: what else reads the routers finds them as in s. -/
structure CreditsReturned (s t : State) (r since : Nat) : Prop where
  within : Within [.mesh] (· = R.RT_LINK r) s t
  recfg : mapHas r t.mesh.recfg = false
  held : rgB t (R.RT_LINK r) R.RT_LINK_RECFG = false
  holdmax : rgF t (R.RT_LINK r) R.RT_LINK_HOLDMAX = max (min 65535 (s.nclk - since)) (rgF s (R.RT_LINK r) R.RT_LINK_HOLDMAX)

theorem keepOld_within (s : State) (r : Nat) : Within [.mesh] (fun _ => False) s (keepOld s r) := Within.refl.put .mesh (by decide)

theorem creditsReturned (s : State) (r since : Nat) : CreditsReturned s (creditsBack (keepOld s r) r since) r since := by
  have w := keepOld_within s r
  obtain ⟨hh, hm⟩ := held_creditsBack (keepOld s r) r since
  exact ⟨(w.mono (fun _ => False.elim) (by decide)).trans (creditsBack_within _ r since), recfg_creditsBack _ r since, hh,
    hm.trans (by rw [w.nclk (by decide), w.rgF id])⟩

/-! ### The policy of a region's router -/

/-- The policy that region h's partition asks for. -/
def polOf (s : State) (h : Nat) : Nat := match partOfRegion s h with | some n => (partCfg s n).sluice.toNat | none => 0

/-- The policy of region g's own spare, which follows a borrower under load. -/
def sparePol (s : State) (g : Nat) : Nat :=
  match blockOfPhys s (9 * g + 8) with
  | some b => if b / 8 = g then polOf s g % 2
    else if underLoad s (b / 8) then polOf s (b / 8) % 2 else b2n ((rgF s (R.GW_SLUICE g) R.GW_SLUICE_POL).testBit 8)
  | none => polOf s g % 2

theorem polOf_lt (s : State) (h : Nat) : polOf s h < 4 := by
  unfold polOf
  split
  · exact BitVec.isLt _
  · decide

theorem sparePol_lt (s : State) (g : Nat) : sparePol s g < 2 := by
  unfold sparePol
  split
  · split
    · exact Nat.mod_lt _ (by decide)
    · split
      · exact Nat.mod_lt _ (by decide)
      · cases (rgF s (R.GW_SLUICE g) R.GW_SLUICE_POL).testBit 8 <;> decide
  · exact Nat.mod_lt _ (by decide)

/-- The bits of a policy: block targets, the spare's, the gateway's. -/
theorem testBit_policy {p q j : Nat} (hp : p < 4) (hq : q < 2) (hj : j < 10) :
    (p % 2 * 255 + q * 256 + p / 2 * 512).testBit j = if j = 8 then decide (q = 1) else p.testBit (if j = 9 then 1 else 0) := by
  have h : ∀ (p : Fin 4) (q : Fin 2) (j : Fin 10), (p.val % 2 * 255 + q.val * 256 + p.val / 2 * 512).testBit j.val
      = if j.val = 8 then decide (q.val = 1) else p.val.testBit (if j.val = 9 then 1 else 0) := by decide
  exact h ⟨p, hp⟩ ⟨q, hq⟩ ⟨j, hj⟩

/-- What the policy v of region r's router grants. -/
def PolicyOf (s : State) (r v : Nat) : Prop :=
  (∀ n, partOfRegion s r = some n → ∀ j, j < 10 → (j = 8 → ∀ b, blockOfPhys s (9 * r + 8) = some b → b / 8 = r) →
      v.testBit j = (partCfg s n).sluice.getLsbD (if j = 9 then 1 else 0))
    ∧ ∀ b, blockOfPhys s (9 * r + 8) = some b → b / 8 ≠ r → underLoad s (b / 8) = false →
      v.testBit 8 = (rgF s (R.GW_SLUICE r) R.GW_SLUICE_POL).testBit 8

theorem polOf_some {n h : Nat} (e : partOfRegion s h = some n) : polOf s h = (partCfg s n).sluice.toNat := by rw [polOf, e]

theorem sparePol_own (h : ∀ b, blockOfPhys s (9 * r + 8) = some b → b / 8 = r) : sparePol s r = polOf s r % 2 := by
  unfold sparePol
  split
  next b e => exact if_pos (h b e)
  · rfl

theorem sparePol_lent {b : Nat} (e : blockOfPhys s (9 * r + 8) = some b) (hr : b / 8 ≠ r) (hu : underLoad s (b / 8) = false) :
    sparePol s r = b2n ((rgF s (R.GW_SLUICE r) R.GW_SLUICE_POL).testBit 8) := by
  rw [sparePol, e]
  exact (if_neg hr).trans (if_neg (by rw [hu]; decide))

theorem policyOf (s : State) (r : Nat) : PolicyOf s r (polOf s r % 2 * 255 + sparePol s r * 256 + polOf s r / 2 * 512) := by
  constructor
  · intro n hn j hj hown
    rw [testBit_policy (polOf_lt s r) (sparePol_lt s r) hj]
    split
    next h8 =>
      rw [sparePol_own (hown h8), polOf_some hn, h8, ← Nat.testBit_zero, BitVec.testBit_toNat]
      rfl
    · rw [polOf_some hn, BitVec.testBit_toNat]
  · intro b hb hr hu
    rw [testBit_policy (polOf_lt s r) (sparePol_lt s r) (by decide), if_pos rfl, sparePol_lent hb hr hu]
    cases (rgF s (R.GW_SLUICE r) R.GW_SLUICE_POL).testBit 8 <;> rfl

/-- What a policy is computed from is the same in s and t. -/
structure SamePolicy (s t : State) (r : Nat) : Prop where
  map : SameMap s t
  holders : SameHolders s t
  load : ∀ g, underLoad t g = underLoad s g
  pol : rgF t (R.GW_SLUICE r) R.GW_SLUICE_POL = rgF s (R.GW_SLUICE r) R.GW_SLUICE_POL

theorem SamePolicy.polOf (h : SamePolicy s t r) (g : Nat) : polOf t g = polOf s g := by
  simp only [Machine.polOf, h.map.partOfRegion, h.map.partCfg]

theorem SamePolicy.sparePol (h : SamePolicy s t r) : sparePol t r = sparePol s r := by
  simp only [Machine.sparePol, h.polOf, h.holders.blockOfPhys, h.load, h.pol]

theorem SamePolicy.policyOf (h : SamePolicy s t r) :
    PolicyOf s r (Machine.polOf t r % 2 * 255 + Machine.sparePol t r * 256 + Machine.polOf t r / 2 * 512) := by
  rw [h.polOf, h.sparePol]
  exact Machine.policyOf s r

/-- The same of a policy that is computed by another function and case split than polOf and sparePol but to the same values. -/
theorem SamePolicy.policyOf_eq (h : SamePolicy s t r) {pol : Nat → Nat} {q : Nat} (hp : ∀ g, pol g = Machine.polOf t g)
    (hnone : blockOfPhys t (9 * r + 8) = none → q = pol r % 2)
    (hsome : ∀ b, blockOfPhys t (9 * r + 8) = some b → q = if b / 8 = r then pol r % 2
      else if underLoad t (b / 8) then pol (b / 8) % 2 else b2n ((rgF t (R.GW_SLUICE r) R.GW_SLUICE_POL).testBit 8)) :
    PolicyOf s r (pol r % 2 * 255 + q * 256 + pol r / 2 * 512) := by
  have hq : q = Machine.sparePol t r := by
    unfold Machine.sparePol
    split
    next b e => rw [hsome b e, hp, hp]
    next e => rw [hnone e, hp]
  rw [hp, hq]
  exact h.policyOf

theorem isoTaken_within (s : State) (c v : Nat) : Within [] (· = R.RT_ISO r) s (setF s (R.RT_ISO r) ⟨c, 1⟩ v) := Within.refl.setF rfl

theorem image_ne_router {a : Nat} (h : 0x040000000000 ≤ a) (h' : a < 0x040000600000) {o : Nat} (ho : o < 0x400000) : a ≠ o + rwin r := by
  unfold rwin
  split <;> omega

theorem bswMap_ne_router {o : Nat} (g : Nat) (ho : 0 < o) (ho' : o < 0x10000) : R.BSW_MAP g ≠ o + rwin r := by
  have := rwin_mod r
  unfold R.BSW_MAP gwin
  omega

theorem PolicyOf.truncated {v : Nat} (h : PolicyOf s r v) : PolicyOf s r (v % 2 ^ 10) := by
  have e : ∀ j, j < 10 → (v % 2 ^ 10).testBit j = v.testBit j := fun j hj => by
    rw [Nat.testBit_mod_two_pow, decide_eq_true hj, Bool.true_and]
  exact ⟨fun n hn j hj hown => (e j hj).trans (h.1 n hn j hj hown), fun b hb hr hu => (e 8 (by decide)).trans (h.2 b hb hr hu)⟩

theorem linkReg_ne (r q o : Nat) (h : 0 < o) (h' : o < 0x10000) : R.RT_LINK r ≠ o + rwin q := by
  have := rwin_mod r
  have := rwin_mod q
  unfold R.RT_LINK
  omega

theorem not_sweepReg_link (r : Nat) : ¬ sweepReg (R.RT_LINK r) := by
  rintro (⟨q, e⟩ | ⟨q, -, e⟩)
  · exact linkReg_ne r q 0x20 (by decide) (by decide) e
  · exact linkReg_ne r q 0x10 (by decide) (by decide) e

theorem not_sweepReg_sluice (r : Nat) : ¬ sweepReg (R.GW_SLUICE r) := by
  have := rwin_mod r
  rintro (⟨q, e⟩ | ⟨q, -, e⟩)
  · have := rwin_mod q
    unfold R.GW_SLUICE R.RT_TAGS at e
    omega
  · have := rwin_mod q
    unfold R.GW_SLUICE R.RT_ISO at e
    omega

/-- Router r has taken its settings, those in s, and its credits have returned. -/
structure RouterSettled (s t : State) (r since : Nat) : Prop where
  held : rgB t (R.RT_LINK r) R.RT_LINK_RECFG = false
  recfg : mapHas r t.mesh.recfg = false
  holdmax : rgF t (R.RT_LINK r) R.RT_LINK_HOLDMAX = max (min 65535 (s.nclk - since)) (rgF s (R.RT_LINK r) R.RT_LINK_HOLDMAX)
  settings : r < 16 → bits (rg t (R.RT_ISO r)) 9 1 = rgF s (R.BSW_MAP r) R.BSW_MAP_DEAD
    ∧ PolicyOf s r (rgF t (R.GW_SLUICE r) R.GW_SLUICE_POL)

theorem CreditsReturned.outer (h : CreditsReturned s t r since) (hr : 16 ≤ r) : RouterSettled s t r since :=
  ⟨h.held, h.recfg, h.holdmax, fun h' => absurd h' (Nat.not_lt.mpr hr)⟩

theorem CreditsReturned.samePolicy (h : CreditsReturned s t r since) (hr : r < 24) (v : Nat) :
    SamePolicy s (setF t (R.RT_ISO r) ⟨9, 1⟩ v) r := by
  have w := isoTaken_within (r := r) t 9 v
  have hs : ∀ a, (a = R.IMG_STATUS ∨ a = R.IMG_REGMAP) → a ≠ R.RT_LINK r ∧ a ≠ R.RT_ISO r := by
    rintro a (rfl | rfl) <;> exact ⟨image_ne_router (by decide) (by decide) (o := 0) (by decide),
      image_ne_router (by decide) (by decide) (o := 0x10) (by decide)⟩
  have hm := (h.within.sameMap (hs _ (.inl rfl)).1 (hs _ (.inr rfl)).1).trans (w.sameMap (hs _ (.inl rfl)).2 (hs _ (.inr rfl)).2)
  refine ⟨hm, fun g => (w.regs _ (bswMap_ne_router g (o := 0x10) (by decide) (by decide))).trans (h.within.regs _ ?_), fun g => ?_, ?_⟩
  · have := rwin_mod r
    intro e
    unfold R.BSW_MAP gwin R.RT_LINK rwin at e
    split at e <;> omega
  · rw [w.underLoad (by decide), h.within.underLoad (by decide)]
  · rw [w.rgF (by unfold R.GW_SLUICE R.RT_ISO; omega), h.within.rgF (by unfold R.GW_SLUICE R.RT_LINK; omega)]

/-- Isolation and policy settle the router of a region. -/
theorem CreditsReturned.inner (h : CreditsReturned s t r since) (hlt : r < 24) {v : Nat} (hp : PolicyOf s r v) :
    RouterSettled s (sweepIso (setF (setF t (R.RT_ISO r) ⟨9, 1⟩ (rgF t (R.BSW_MAP r) R.BSW_MAP_DEAD)) (R.GW_SLUICE r)
      R.GW_SLUICE_POL v)) r since := by
  have hd : rgF t (R.BSW_MAP r) R.BSW_MAP_DEAD = rgF s (R.BSW_MAP r) R.BSW_MAP_DEAD := by
    rw [← rgF_setF_other t (bswMap_ne_router (r := r) r (o := 0x10) (by decide) (by decide)) ⟨9, 1⟩ _ 0]
    exact rgF_of_rg ((h.samePolicy hlt 0).holders r) _
  rw [hd]
  generalize hu : setF (setF t (R.RT_ISO r) ⟨9, 1⟩ (rgF s (R.BSW_MAP r) R.BSW_MAP_DEAD)) (R.GW_SLUICE r) R.GW_SLUICE_POL v = u
  have w : Within [] (fun a => a = R.RT_ISO r ∨ a = R.GW_SLUICE r) t u := hu ▸ (Within.refl.setF (.inl rfl)).setF (.inr rfl)
  have hl : ¬ (R.RT_LINK r = R.RT_ISO r ∨ R.RT_LINK r = R.GW_SLUICE r) := by
    unfold R.RT_LINK R.RT_ISO R.GW_SLUICE
    omega
  have ws := sweepIso_within u
  have sw := sweepIso_swept u
  refine ⟨(ws.rgB (not_sweepReg_link r) _).trans ((w.rgB hl _).trans h.held), ?_,
    (ws.rgF (not_sweepReg_link r) _).trans ((w.rgF hl _).trans h.holdmax), fun hr => ⟨(sw.iso r).trans ?_, ?_⟩⟩
  · rw [sw.recfg, w.mesh (by decide), h.recfg]
  · rw [← hu, rg_setF_other _ (by unfold R.RT_ISO R.GW_SLUICE; omega), rg_setF_same _ _ (by decide), bits_putBits_same]
    exact Nat.mod_eq_of_lt (rgF_lt s (R.BSW_MAP r) R.BSW_MAP_DEAD)
  · rw [ws.rgF (not_sweepReg_sluice r), ← hu, rgF_setF_same _ _ (by decide)]
    exact hp.truncated

theorem routerAt_lt (x : Fin 6) (y : Fin 4) : routerAt x y < 24 := by
  have hx := x.isLt
  have hy := y.isLt
  unfold routerAt
  split
  · omega
  · split <;> omega

/-- Whether ROUTER_RECONFIG leaves router r as it is: it holds no credits, or neither its queues are empty nor its time is over. -/
def routerWaits (s : State) (r : Nat) : Bool :=
  !rgB s (R.RT_LINK r) R.RT_LINK_RECFG
    || !(s.mesh.queues.all (fun e => e.1 / 32 != r || e.2.isEmpty) || decide (mapGet s.nclk r s.mesh.recfg + 2400 ≤ s.nclk))

theorem execRouterReconfig_eq (x : Fin 6) (y : Fin 4) (s : State) : ∃ c u, execRouterReconfig x y s = .next (if c = true then s else u)
    ∧ c = routerWaits s (routerAt x y) ∧ RouterSettled s u (routerAt x y) (mapGet s.nclk (routerAt x y) s.mesh.recfg) := by
  have hlt := routerAt_lt x y
  refine ⟨_, _, rfl, by unfold routerWaits; rfl, ?_⟩
  split
  next h => exact (creditsReturned s _ _).outer h
  next h =>
    refine (creditsReturned s _ _).inner hlt ?_
    generalize hd : setF _ (R.RT_ISO _) _ _ = d
    have hp : SamePolicy s d (routerAt x y) := by
      rw [← hd]
      exact (creditsReturned s _ _).samePolicy hlt _
    clear hd
    generalize (routerAt x y : Nat) = r at hp ⊢
    apply hp.policyOf_eq
    · intro g
      rcases h : partOfRegion d g with - | n <;> rw [polOf, h]
    · intro e
      rw [e]
    · intro b e
      rw [e]

end

/-- Reconfiguration of a router as the statement of image loads has it. -/
theorem routerReconfig_settled (x : Fin 6) (y : Fin 4) :
    let r := routerAt x y
    let since := mapGet s.nclk r s.mesh.recfg
    let empty := (s.mesh.queues.all fun e => e.1 / 32 != r || e.2.isEmpty) = true
    rgB s (R.RT_LINK r) R.RT_LINK_RECFG = true →
    (¬ empty → s.nclk < since + 2400 → exec (.routerReconfig x y) s = .next s)
    ∧ ((empty ∨ since + 2400 ≤ s.nclk) →
    ∃ t, exec (.routerReconfig x y) s = .next t ∧ rgB t (R.RT_LINK r) R.RT_LINK_RECFG = false ∧ mapHas r t.mesh.recfg = false
      ∧ rgF t (R.RT_LINK r) R.RT_LINK_HOLDMAX = max (min 65535 (s.nclk - since)) (rgF s (R.RT_LINK r) R.RT_LINK_HOLDMAX)
      ∧ (r < 16 → bits (rg t (R.RT_ISO r)) 9 1 = rgF s (R.BSW_MAP r) R.BSW_MAP_DEAD
          ∧ (∀ n, partOfRegion s r = some n → ∀ j, j < 10 → (j = 8 → ∀ b, blockOfPhys s (9 * r + 8) = some b → b / 8 = r) →
              (rgF t (R.GW_SLUICE r) R.GW_SLUICE_POL).testBit j = (partCfg s n).sluice.getLsbD (if j = 9 then 1 else 0))
          ∧ ∀ b, blockOfPhys s (9 * r + 8) = some b → b / 8 ≠ r → underLoad s (b / 8) = false →
              (rgF t (R.GW_SLUICE r) R.GW_SLUICE_POL).testBit 8 = (rgF s (R.GW_SLUICE r) R.GW_SLUICE_POL).testBit 8)) := by
  intro r since empty hr
  obtain ⟨c, u, e, hc, hu⟩ := execRouterReconfig_eq x y s
  constructor
  · intro he hn
    have hw : c = true := by
      rw [hc, routerWaits, Bool.eq_false_iff.mpr he, decide_eq_false (Nat.not_le.mpr hn)]
      simp
    exact e.trans (congrArg Host.Outcome.next (if_pos hw))
  · intro hd
    have hw : c = false := by
      have h : (s.mesh.queues.all (fun e => e.1 / 32 != r || e.2.isEmpty) || decide (since + 2400 ≤ s.nclk)) = true := by
        rwa [Bool.or_eq_true, decide_eq_true_iff]
      rw [hc, routerWaits, hr, h]
      rfl
    exact ⟨u, e.trans (congrArg Host.Outcome.next (if_neg (by simp [hw]))), hu.held, hu.recfg, hu.holdmax, hu.settings⟩

end Sys2Proof.Machine
end

section
/-! SUPPORT. What a held region keeps: the planes of its cells, and every register but those of its sequencers (R75, R233). -/

namespace Sys2Proof.Machine

variable {s t : State}

/-! ### Cells that are held -/

/-- The list in which every value becomes f of its key and value, without those that read as d. -/
def mapThen {α : Type} [DecidableEq α] (d : α) (f : Nat → α → α) (m : List (Nat × α)) : List (Nat × α) :=
  (m.map fun e => (e.1, f e.1 e.2)).filter fun e => decide (e.2 ≠ d)

section
variable {α : Type} [DecidableEq α] {d : α} {f : Nat → α → α}

theorem keys_mapThen (m : List (Nat × α)) : List.Sublist ((mapThen d f m).map Prod.fst) (m.map Prod.fst) := by
  have h : ((m.map fun e => (e.1, f e.1 e.2)).map Prod.fst) = m.map Prod.fst := by
    rw [List.map_map]
    rfl
  exact h ▸ List.filter_sublist.map Prod.fst

theorem sorted_mapThen {m : List (Nat × α)} (h : (m.map Prod.fst).Pairwise (· < ·)) :
    ((mapThen d f m).map Prod.fst).Pairwise (· < ·) := h.sublist (keys_mapThen m)

theorem mapGet_mapThen (hd : ∀ k, f k d = d) {m : List (Nat × α)} (h : (m.map Prod.fst).Pairwise (· < ·)) (k : Nat) :
    mapGet d k (mapThen d f m) = f k (mapGet d k m) := by
  induction m with
  | nil => exact (hd k).symm
  | cons e m ih =>
    rw [List.map_cons, List.pairwise_cons] at h
    have hcons : mapThen d f (e :: m) = if decide (f e.1 e.2 ≠ d) then (e.1, f e.1 e.2) :: mapThen d f m else mapThen d f m :=
      List.filter_cons
    rw [hcons, mapGet_cons]
    by_cases hk : e.1 = k
    · have hno : k ∉ (mapThen d f m).map Prod.fst := fun hm => by
        have := h.1 k ((keys_mapThen m).subset hm)
        omega
      rw [if_pos hk]
      split
      · rw [mapGet_cons, if_pos hk, hk]
      · next hn => exact (mapGet_eq_of_not_mem hno).trans (hk ▸ (of_not_not fun h => hn (decide_eq_true h)).symm)
    · rw [if_neg hk, ← ih h.2]
      split
      exacts [by rw [mapGet_cons, if_neg hk], rfl]

end

/-- A cell whose A, X, Y, C and T are 0. -/
def stillCell (c : Cell) : Cell := { c with x := false, y := false, c := false, a := false, t := false }

theorem stillCell_eq (c : Cell) : stillCell c = { planes := c.planes } := rfl

/-- The cells of block b still, the others as they are. -/
def stilled (b : Nat) (m : List (Nat × Cell)) : List (Nat × Cell) :=
  mapThen {} (fun k c => if k / 16384 = b then stillCell c else c) m

theorem mapGet_stilled {m : List (Nat × Cell)} (h : (m.map Prod.fst).Pairwise (· < ·)) (b k : Nat) :
    mapGet {} k (stilled b m) = if k / 16384 = b then stillCell (mapGet {} k m) else mapGet {} k m :=
  mapGet_mapThen (fun k => by split <;> rfl) h k

theorem cellKey_div {b i : Nat} (hi : i < 16384) : (16384 * b + i) / 16384 = b := by omega

/-! ### The registers of blocks -/

/-- The registers of sequencers and of what serves them, by their place in a window. -/
def blockReg (a : Nat) : Prop := 0x700000 ≤ a % 0x1000000 ∧ a % 0x1000000 < 0x800000

theorem stopReg_blockReg {a : Nat} (h : stopReg a) : blockReg a := by
  unfold stopReg at h
  unfold blockReg
  omega

theorem blockReg_window {o b : Nat} (h : 0x700000 ≤ o) (h' : o < 0x800000) : blockReg (o + bwin b) := by
  unfold blockReg bwin
  omega

theorem blockReg_arrSusp (b : Nat) : blockReg (R.ARR_SUSP b) := blockReg_window (by decide) (by decide)
theorem blockReg_psr (b : Nat) : blockReg (R.PSR b) := blockReg_window (by decide) (by decide)
theorem blockReg_bicPend (b : Nat) : blockReg (R.BIC_PEND b) := blockReg_window (by decide) (by decide)
theorem blockReg_wdCfg (b : Nat) : blockReg (R.WD_CFG b) := blockReg_window (by decide) (by decide)
theorem blockReg_dmaCtrl (b : Nat) (ch : Bool) : blockReg (R.DMA_CTRL b (b2n ch)) := by
  cases ch <;> exact blockReg_window (by decide) (by decide)
theorem blockReg_tmr (b : Nat) {i : Nat} (h : i < 4) : blockReg (R.TMR b i) := by
  unfold R.TMR blockReg bwin
  omega

theorem Within.resetRegs {F : List Piece} {A : Nat → Prop} {s₀ : State} {p : Nat → Bool} (h : Within F A s₀ s)
    (hp : ∀ a, p a = true → A a) : Within F A s₀ (resetRegs p s) := by
  refine h.trans ⟨fun x _ => by cases x <;> rfl, fun a ha => congrArg BitVec.toNat ?_⟩
  exact (mapGet_drop _ _ _ _).trans (if_neg fun h => ha (hp a h))

/-! ### What HOLD does to a block -/

/-- The parts that a held or discarded block changes beside its cells. -/
def blockParts : List Piece := [.seqs, .dma]

theorem bicRise_within (s0 s : State) (b n : Nat) : Within [] blockReg s (bicRise s0 s b n) :=
  Within.refl.when (·.setF (blockReg_bicPend b))

theorem abandonOp_within (s : State) (b : Nat) : Within blockParts blockReg s (abandonOp s b) := by
  have ha := blockReg_arrSusp b
  unfold abandonOp
  extract_lets a s0 op st s1 s2 s3 s4
  have h0 : Within blockParts blockReg s s := .refl
  have h : Within blockParts blockReg s s4 :=
    (((((((((h0.setF ha).setF ha).setF ha).setF ha).setF ha).setB ha).setB ha).setB ha).setB ha).updSeq (by decide)
  split
  · exact h.andThen (bicRise_within _ _ b 10) (by decide) fun _ => id
  · exact .refl

theorem discardOp_within (s : State) (b : Nat) : Within blockParts blockReg s (discardOp s b).1 := by
  have ha := blockReg_arrSusp b
  unfold discardOp
  extract_lets a
  split
  · exact abandonOp_within s b
  · split
    · extract_lets s1 s2
      have h0 : Within blockParts blockReg s s := .refl
      have h : Within blockParts blockReg s s2 := ((((h0.setF ha).setF ha).setB ha).setB ha).setB ha
      exact h.andThen (bicRise_within _ _ b 10) (by decide) fun _ => id
    · exact .refl

theorem breakResv_within (s : State) (a n : Nat) : Within blockParts blockReg s (breakResv s a n) := by
  refine Within.refl.when fun h => h.foldl fun e h => ?_
  split
  · exact h.when fun h => (h.setSeq (by decide)).setB (blockReg_psr e.1)
  · exact h

theorem setDma_within (s : State) (b : Nat) (ch : Bool) (r : Option DmaRun) : Within blockParts blockReg s (setDma s b ch r) := by
  have h : Within blockParts blockReg s (setB s (R.DMA_CTRL b (b2n ch)) R.DMA_CTRL_BUSY r.isSome) :=
    Within.refl.setB (blockReg_dmaCtrl b ch)
  unfold setDma
  extract_lets u
  split <;> exact h.put .dma (by decide)

theorem dmaStopBlock_within (s : State) (b : Nat) : Within blockParts blockReg s (dmaStopBlock s b) :=
  (((setDma_within s b false none).setB (blockReg_dmaCtrl b false)).trans (setDma_within _ b true none)).setB
    (blockReg_dmaCtrl b true)

/-- Block b's sequencer is in reset and what serves it stands still. -/
def seqHeld (s : State) (b : Nat) : State :=
  let q := seqOf s b
  let s := setSeq (dmaStopBlock (breakResv s (bwin b) 0x200000) b) b
    { twinCol := q.twinCol, spWb := q.spWb, tmWb := q.tmWb, csWait := q.csWait }
  let s := resetRegs (fun a => decide (bwin b ≤ a) && decide (a < 0x1000000 + bwin b) && seqResetOff (a % 0x1000000)) s
  let s := setRg s (R.ARR_SUSP b) (Nat.land (rg s (R.ARR_SUSP b)) 0xFFFFFF08)
  let s := setB s (R.WD_CFG b) R.WD_CFG_EN false
  (List.range 4).foldl (fun s i => setB s (R.TMR b i) R.TMR_EN false) s

theorem seqResetOff_window {o : Nat} (h : seqResetOff o = true) : 0x700000 ≤ o ∧ o < 0x800000 := by
  unfold seqResetOff at h
  simp only [Bool.or_eq_true, Bool.and_eq_true, decide_eq_true_eq, beq_iff_eq] at h
  omega

theorem seqHeld_within (s : State) (b : Nat) : Within blockParts blockReg s (seqHeld s b) := by
  unfold seqHeld
  extract_lets q s1 s2 s3 s4
  have h1 : Within blockParts blockReg s s1 :=
    ((breakResv_within s _ _).trans (dmaStopBlock_within _ b)).setSeq (by decide)
  have h2 : Within blockParts blockReg s s2 := h1.resetRegs fun a ha => by
    rw [Bool.and_eq_true] at ha
    exact seqResetOff_window ha.2
  exact ((h2.setRg (blockReg_arrSusp b)).setB (blockReg_wdCfg b)).foldlMem fun i hi h => h.setB (blockReg_tmr b (List.mem_range.mp hi))

theorem stilled_eq (b : Nat) (m : List (Nat × Cell)) : stilled b m
    = (m.map fun e => if e.1 / 16384 = b then (e.1, stillCell e.2) else e).filter fun e => decide (e.2 ≠ ({} : Cell)) := by
  have h : ∀ e : Nat × Cell, (e.1, if e.1 / 16384 = b then stillCell e.2 else e.2)
      = if e.1 / 16384 = b then (e.1, stillCell e.2) else e := fun e => by split <;> rfl
  simp only [stilled, mapThen, h]

/-- Its cells keep their planes alone. -/
theorem holdBlock_eq (s : State) (b : Nat) : holdBlock s b = { seqHeld s b with cells := stilled b (seqHeld s b).cells } := by
  rw [stilled_eq]
  rfl

theorem holdBlock_within (s : State) (b : Nat) : Within (.cells :: blockParts) blockReg s (holdBlock s b) := by
  rw [holdBlock_eq]
  exact ((seqHeld_within s b).mono (fun _ => id) (by decide)).put .cells (by decide)

theorem cells_holdBlock (s : State) (b : Nat) : (holdBlock s b).cells = stilled b s.cells := by
  rw [holdBlock_eq, ← (seqHeld_within s b).cells (by decide)]

/-! ### What HOLD does to the blocks of the regions under load -/

/-- The cells are listed in order, each once, and their planes are those of s. -/
structure PlanesKept (s t : State) : Prop where
  sorted : (t.cells.map Prod.fst).Pairwise (· < ·)
  planes : ∀ k, (mapGet ({} : Cell) k t.cells).planes = (mapGet ({} : Cell) k s.cells).planes

theorem PlanesKept.holdBlock (h : PlanesKept s t) (b : Nat) : PlanesKept s (holdBlock t b) := by
  refine ⟨?_, fun k => ?_⟩
  · rw [cells_holdBlock]
    exact sorted_mapThen h.sorted
  · rw [cells_holdBlock, mapGet_stilled h.sorted, ← h.planes k]
    split <;> rfl

/-- Cell k has nothing but its planes. -/
def Still (t : State) (k : Nat) : Prop := mapGet ({} : Cell) k t.cells = { planes := (mapGet ({} : Cell) k t.cells).planes }

theorem still_holdBlock (h : PlanesKept s t) (k : Nat) : Still (holdBlock t (k / 16384)) k := by
  rw [Still, cells_holdBlock, mapGet_stilled h.sorted, if_pos rfl]
  rfl

theorem Still.holdBlock {k : Nat} (h : Still t k) (hp : PlanesKept s t) (b : Nat) : Still (holdBlock t b) k := by
  rw [Still, cells_holdBlock, mapGet_stilled hp.sorted]
  split
  · rfl
  · exact h

theorem blocksHeld_within (l : List Nat) (s : State) : Within (.cells :: blockParts) blockReg s (l.foldl holdBlock s) :=
  Within.refl.foldl fun b h => h.trans (holdBlock_within _ b)

/-- The planes of all cells stay, and those of the held blocks have nothing else. -/
theorem blocksHeld_cells (l : List Nat) (hs : (s.cells.map Prod.fst).Pairwise (· < ·)) :
    PlanesKept s (l.foldl holdBlock s) ∧ ∀ k, k / 16384 ∈ l → Still (l.foldl holdBlock s) k := by
  have h0 : PlanesKept s s := ⟨hs, fun _ => rfl⟩
  refine ⟨List.foldlRecOn (motive := PlanesKept s) l _ h0 fun t h b _ => h.holdBlock b, fun k hk => ?_⟩
  have := foldl_reaches (f := Machine.holdBlock) (Q := PlanesKept s) (P := fun t => PlanesKept s t ∧ Still t k) (x := k / 16384)
    (fun t y _ _ h => h.holdBlock y) (fun t h => ⟨h.holdBlock _, still_holdBlock h k⟩)
    (fun t y _ h => ⟨h.1.holdBlock y, h.2.holdBlock h.1 y⟩) hk h0
  exact this.2

end Sys2Proof.Machine
end

section
/-! SUPPORT. The drained hold of a structural image (R74, R75, R233). -/

namespace Sys2Proof.Machine

variable {s t : State} {L : ImgLoad}

/-! ### The steps of the hold -/

/-- Partition n no longer exists: its RUN commands, interrupts, pins, shadow copies and its epoch. -/
def partHeld (s : State) (n : Nat) : State :=
  let s := endRuns s n 0x09 0 0 false
  let s := maskPart (idlePins s n) n
  let s := forEach (epochOf s n).shadowed (fun s fr => setKeyByte s fr (putBits (keyByte s fr) 6 6 0)) s
  setF { s with epochs := mapErase n s.epochs } (R.EP_STAT n) R.EP_STAT_STATE 0

/-- The gateway of domain d refuses. -/
def domHeld (s : State) (d : Nat × Nat) : State := if sluiceSt s d.1 d.2 < 3 then setSluice s d.1 d.2 3 else s

/-- HELD of the regions under load. -/
def heldShown (s : State) (L : ImgLoad) : State :=
  setF s R.IMG_STATUS R.IMG_STATUS_HELD (Nat.lor (rgF s R.IMG_STATUS R.IMG_STATUS_HELD) L.affected.toNat)

/-- The regions and blocks under load. -/
def loadRegions (L : ImgLoad) : List Nat := (List.range 16).filter L.affected.getLsbD
def loadBlocks (L : ImgLoad) : List Nat := (loadRegions L).flatMap fun g => (List.range 8).map (· + 8 * g)

/-- The partitions are gone, and v is what the requests in flight become. -/
def partsApplied (s : State) (L : ImgLoad) (v : MeshSt) : State := { L.replaced.foldl partHeld s with mesh := v }

def holdApplied (s : State) (L : ImgLoad) (ds : List (Nat × Nat)) (v : MeshSt) : State :=
  setPhase (refuseHeld (heldShown (ds.foldl domHeld ((loadBlocks L).foldl holdBlock (partsApplied s L v))) L) ds) 3

theorem Within.foldlFst {F : List Piece} {A : Nat → Prop} {s₀ : State} {α β : Type} {l : List α} {f : State × β → α → State × β}
    {p : State × β} (h : Within F A s₀ p.1) (k : ∀ {q : State × β} y, Within F A s₀ q.1 → Within F A s₀ (f q y).1) :
    Within F A s₀ (l.foldl f p).1 :=
  List.foldlRecOn (motive := fun q => Within F A s₀ q.1) l f h fun _ h y _ => k y h

/-- A drained hold is applied after what FORCE discards. -/
theorem execImageHoldDrained_eq (hi : s.img = some L) (hp : phase s = 2) (hc : committedAll s L = true)
    (hd : ((loadDoms s L).all fun d => decide (1 ≤ sluiceSt s d.1 d.2) && drained s d.1 d.2) = true) :
    ∃ s1 v, execImageHoldDrained s = .next (holdApplied s1 L (loadDoms s L) v)
      ∧ Within blockParts (fun a => blockReg a ∨ a = R.IMG_STATUS) s s1 := by
  unfold execImageHoldDrained
  simp only [hi, hp, hc, hd, ne_eq, not_true_eq_false, Bool.not_true, Bool.false_eq_true, or_self, if_false]
  refine ⟨_, _, rfl, Within.setF ?_ (.inr rfl)⟩
  split
  · exact Within.foldlFst .refl fun b h => h.andThen (discardOp_within _ b) (fun _ => id) fun _ => .inl
  · exact .refl

/-! ### Their footprints -/

/-- The registers that a partition's end changes. -/
def pinReg (n a : Nat) : Prop := a = R.GPIO_IN ∨ (∃ w, w < 16 ∧ a = R.CIC_MASK w) ∨ (∃ p, p < 4 ∧ a = R.REIN_STATUS p) ∨ a = R.EP_STAT n

theorem maskPart_within (s : State) (n m : Nat) : Within [] (pinReg m) s (maskPart s n) :=
  Within.refl.foldlMem fun i hi h => h.when (·.setF (.inr (.inl ⟨i / 64, by have := List.mem_range.mp hi; omega, rfl⟩)))

theorem idlePins_within (s : State) (n m : Nat) : Within [] (pinReg m) s (idlePins s n) :=
  (Within.refl.foldl fun _ h => h.when (·.setF (.inl rfl))).foldlMem fun p hp h =>
    h.when (·.setF (.inr (.inr (.inl ⟨p, List.mem_range.mp hp, rfl⟩))))

theorem partHeld_within (s : State) (n : Nat) : Within [.host, .keys, .epochs] (pinReg n) s (partHeld s n) := by
  unfold partHeld
  extract_lets s1 s2 s3
  have h1 : Within [.host, .keys, .epochs] (pinReg n) s s1 :=
    (endRuns_now_within s n 0x09 0 0).mono (fun _ => False.elim) (by decide)
  have h2 : Within [.host, .keys, .epochs] (pinReg n) s s2 :=
    (h1.andThen (idlePins_within _ n n) (by decide) fun _ => id).andThen (maskPart_within _ n n) (by decide) fun _ => id
  have h3 : Within [.host, .keys, .epochs] (pinReg n) s s3 := h2.forEach fun fr h => h.put .keys (by decide)
  exact (h3.put .epochs (by decide)).setF (.inr (.inr (.inr rfl)))

theorem epState_partHeld (s : State) (n : Nat) : epState (partHeld s n) n = 0 := by
  rw [epState, partHeld, rgF_setF_same _ _ (by decide)]
  decide

/-- The partition of one number ends, those of others go on. -/
theorem epStat_not_pinReg {n m : Nat} (hn : n < 16) (h : m ≠ n) : ¬ pinReg m (R.EP_STAT n) := by
  rintro (e | ⟨w, hw, e⟩ | ⟨p, hp, e⟩ | e)
  · unfold R.EP_STAT R.GPIO_IN at e; omega
  · unfold R.EP_STAT R.CIC_MASK at e; omega
  · unfold R.EP_STAT R.REIN_STATUS at e; omega
  · exact epStat_inj (Ne.symm h) e

theorem epState_partsHeld {l : List Nat} {n : Nat} (hn : n ∈ l) (hl : n < 16) (s : State) : epState (l.foldl partHeld s) n = 0 :=
  foldl_settles (P := fun t => epState t n = 0) (fun t => epState_partHeld t n)
    (fun t m _ hne h => ((partHeld_within t m).rgF (epStat_not_pinReg hl hne) _).trans h) hn s

/-! ### The gateways -/

theorem domHeld_within {d : Nat × Nat} (h : d.1 < 16) (s : State) : Within [] sluiceReg s (domHeld s d) :=
  Within.refl.when (·.setF ⟨d.1, h, rfl⟩)

theorem sluiceSt_domHeld {d : Nat × Nat} (h : d.2 < 10) (s : State) : 3 ≤ sluiceSt (domHeld s d) d.1 d.2 := by
  unfold domHeld
  split
  · rw [sluiceSt, setSluice, rgF_setF_same _ _ (by simp only [stFld]; omega), stFld, show 3 * d.2 + 2 + 1 - 3 * d.2 = 3 by omega]
    decide
  · omega

theorem sluiceReg_inj {g h : Nat} (hg : g < 16) (hh : h < 16) (e : R.GW_SLUICE g = R.GW_SLUICE h) : g = h := by
  unfold R.GW_SLUICE rwin at e
  rw [if_pos hg, if_pos hh] at e
  omega

/-- A domain's gateway goes on refusing when another's does. -/
theorem sluiceSt_domHeld_keeps {d e : Nat × Nat} (hd : d.1 < 16) (he : e.1 < 16) (he' : e.2 < 10)
    (h : 3 ≤ sluiceSt s d.1 d.2) : 3 ≤ sluiceSt (domHeld s e) d.1 d.2 := by
  by_cases hg : d.1 = e.1
  · by_cases hj : d.2 = e.2
    · rw [show d = e from Prod.ext hg hj]
      exact sluiceSt_domHeld he' s
    · unfold domHeld
      split
      · rw [sluiceSt, hg, setSluice, rgF_setF_field _ _ (by simp only [stFld]; omega) (by simp only [stFld]; omega), ← hg]
        exact h
      · exact h
  · unfold domHeld
    split
    · rw [sluiceSt, setSluice, rgF_setF_other _ fun e => hg (sluiceReg_inj hd he e)]
      exact h
    · exact h

theorem loadDoms_snd {d : Nat × Nat} (h : d ∈ loadDoms s L) : d.2 < 10 := by
  unfold loadDoms at h
  simp only [List.mem_append, List.mem_flatMap, List.mem_map, List.mem_filter, List.mem_range] at h
  obtain ⟨g, -, j, ⟨hj, -⟩, rfl⟩ | ⟨g, -, rfl⟩ := h
  · exact hj
  · exact (by decide : 8 < 10)

theorem sluiceSt_domsHeld {l : List (Nat × Nat)} (hl : ∀ d ∈ l, d.1 < 16 ∧ d.2 < 10) (s : State) :
    ∀ d ∈ l, 3 ≤ sluiceSt (l.foldl domHeld s) d.1 d.2 := fun d hd =>
  foldl_settles (P := fun t => 3 ≤ sluiceSt t d.1 d.2) (sluiceSt_domHeld (hl d hd).2)
    (fun _ e he _ h => sluiceSt_domHeld_keeps (hl d hd).1 (hl e he).1 (hl e he).2 h) hd s

theorem refuseHeld_within {ds : List (Nat × Nat)} (hl : ∀ d ∈ ds, d.1 < 16) (s : State) :
    Within [.irq, .mesh, .out] sluiceReg s (refuseHeld s ds) := by
  unfold refuseHeld
  extract_lets hit gone irq u qs
  have hu : Within [.irq, .mesh, .out] sluiceReg s u := Within.refl.put .irq (by decide)
  refine (hu.foldl fun q h => h.andThen (respond_within _ _ 6 []) (by decide) fun _ => False.elim).foldlMem fun g hg h => ?_
  obtain ⟨d, hd, rfl⟩ := List.mem_map.mp (List.mem_eraseDups.mp hg)
  exact h.setF ⟨d.1, hl d hd, rfl⟩

/-- What a gateway holds is shown beside the states of its domains. -/
theorem sluiceSt_showHeld (s : State) (h g : Nat) {j : Nat} (hj : j < 10) : sluiceSt (showHeld s h) g j = sluiceSt s g j := by
  rw [sluiceSt, showHeld, sluiceSt]
  by_cases e : R.GW_SLUICE g = R.GW_SLUICE h
  · rw [e, rgF_setF_field _ _ (by decide) (by simp only [stFld]; omega)]
  · rw [rgF_setF_other _ e]

theorem sluiceSt_refuseHeld (s : State) (ds : List (Nat × Nat)) (g : Nat) {j : Nat} (hj : j < 10) :
    sluiceSt (refuseHeld s ds) g j = sluiceSt s g j := by
  unfold refuseHeld
  extract_lets hit gone irq u qs
  have hu : Within [.irq, .mesh, .out] (fun _ => False) s (qs.foldl (fun s q => respond s { q with held := none } 6 []) u) :=
    Within.foldl (Within.put .refl .irq (by decide)) fun q h => h.andThen (respond_within _ _ 6 []) (by decide) fun _ => id
  exact List.foldlRecOn (motive := fun t => sluiceSt t g j = sluiceSt s g j) _ _ (hu.rgF id _) fun t h x _ =>
    (sluiceSt_showHeld t x g hj).trans h

/-! ### The hold -/

theorem mem_loadRegions {g : Nat} : g ∈ loadRegions L ↔ g < 16 ∧ L.affected.getLsbD g = true := by
  rw [loadRegions, List.mem_filter, List.mem_range]

theorem mem_loadBlocks {b : Nat} (hb : b < 128) (h : L.affected.getLsbD (b / 8) = true) : b ∈ loadBlocks L := by
  refine List.mem_flatMap.mpr ⟨b / 8, mem_loadRegions.mpr ⟨by omega, h⟩, List.mem_map.mpr ⟨b % 8, List.mem_range.mpr (by omega), ?_⟩⟩
  omega

theorem heldRegion_heldShown (s : State) {g : Nat} (h : L.affected.getLsbD g = true) : heldRegion (heldShown s L) g = true := by
  have hg : g < 16 := BitVec.lt_of_getLsbD h
  rw [heldRegion_eq _ hg, heldShown, testBit_rg_setF _ _ (by decide), if_pos (by simp only; omega), Nat.add_sub_cancel_left]
  show (_ ||| _ : Nat).testBit g = true
  rw [Nat.testBit_or, BitVec.testBit_toNat, h, Bool.or_true]

/-- The state in which the blocks are held, and the states after. -/
def blocksApplied (s : State) (L : ImgLoad) (v : MeshSt) : State := (loadBlocks L).foldl holdBlock (partsApplied s L v)
def domsApplied (s : State) (L : ImgLoad) (ds : List (Nat × Nat)) (v : MeshSt) : State := ds.foldl domHeld (blocksApplied s L v)

theorem holdApplied_eq (s : State) (L : ImgLoad) (ds : List (Nat × Nat)) (v : MeshSt) :
    holdApplied s L ds v = setPhase (refuseHeld (heldShown (domsApplied s L ds v) L) ds) 3 := rfl

theorem partsApplied_within (s : State) (v : MeshSt) :
    Within [.host, .keys, .epochs, .mesh] (fun a => ∃ n, pinReg n a) s (partsApplied s L v) := by
  have h : Within [.host, .keys, .epochs, .mesh] (fun a => ∃ n, pinReg n a) s (L.replaced.foldl partHeld s) :=
    Within.refl.foldl fun n h => h.andThen (partHeld_within _ n) (by decide) fun _ hr => ⟨n, hr⟩
  exact h.put .mesh (by decide)

theorem epState_partsApplied {n : Nat} (hm : n ∈ L.replaced) (hn : n < 16) (s : State) (v : MeshSt) :
    epState (partsApplied s L v) n = 0 := by
  have e : epState (partsApplied s L v) n = epState (L.replaced.foldl partHeld s) n := rgF_of_rg (rg_congr rfl _) _
  rw [e, epState_partsHeld hm hn]

/-- What follows on the blocks changes the gateways, the engine's registers and the mesh. -/
theorem holdApplied_late {ds : List (Nat × Nat)} (hl : ∀ d ∈ ds, d.1 < 16) (s : State) (v : MeshSt) :
    Within [.irq, .mesh, .out] (fun a => sluiceReg a ∨ a = R.IMG_STATUS) (blocksApplied s L v) (holdApplied s L ds v) := by
  have h : Within [.irq, .mesh, .out] (fun a => sluiceReg a ∨ a = R.IMG_STATUS) (blocksApplied s L v) (domsApplied s L ds v) :=
    Within.refl.foldlMem fun d hd h => h.andThen (domHeld_within (hl d hd) _) (by decide) fun _ => .inl
  have h' : Within [.irq, .mesh, .out] (fun a => sluiceReg a ∨ a = R.IMG_STATUS) (blocksApplied s L v)
      (heldShown (domsApplied s L ds v) L) := h.setF (.inr rfl)
  exact (h'.andThen (refuseHeld_within hl _) (fun _ => id) fun _ => .inl).setF (.inr rfl)

theorem imgStatus_not_sluiceReg : ¬ sluiceReg R.IMG_STATUS := not_sluiceReg (by decide)

theorem epStat_not_held {n : Nat} (hn : n < 16) :
    ¬ blockReg (R.EP_STAT n) ∧ ¬ (sluiceReg (R.EP_STAT n) ∨ R.EP_STAT n = R.IMG_STATUS) := by
  constructor
  · unfold blockReg R.EP_STAT chipCtl
    omega
  · rintro (e | e)
    · exact not_sluiceReg (by unfold R.EP_STAT chipCtl; omega) e
    · unfold R.EP_STAT R.IMG_STATUS at e
      omega

/-- The drained hold as the statement of image loads has it. -/
theorem imageHoldDrained_settled (hi : s.img = some L) (hp : phase s = 2) (hw : s.cellsWf = true) (hc : committedAll s L = true)
    (hd : ((loadDoms s L).all fun d => decide (1 ≤ sluiceSt s d.1 d.2) && drained s d.1 d.2) = true)
    (hn : ∀ n ∈ L.replaced, n < 16) :
    ∃ t, exec .imageHoldDrained s = .next t ∧ phase t = 3 ∧ t.mem = s.mem ∧ (∀ n ∈ L.replaced, epState t n = 0)
      ∧ (∀ g ∈ loadRegions L, heldRegion t g = true) ∧ (∀ d ∈ loadDoms s L, 3 ≤ sluiceSt t d.1 d.2)
      ∧ ∀ b i, b < 128 → i < 16384 → (cellAt t b i).planes = (cellAt s b i).planes
          ∧ (L.affected.getLsbD (b / 8) = true → cellAt t b i = { planes := (cellAt t b i).planes }) := by
  obtain ⟨s1, v, e, w1⟩ := execImageHoldDrained_eq hi hp hc hd
  have hl : ∀ d ∈ loadDoms s L, d.1 < 16 := fun d h => loadDoms_lt h
  have hj : ∀ d ∈ loadDoms s L, d.1 < 16 ∧ d.2 < 10 := fun d h => ⟨loadDoms_lt h, loadDoms_snd h⟩
  have wp := partsApplied_within (L := L) s1 v
  have wb := blocksHeld_within (loadBlocks L) (partsApplied s1 L v)
  have wl := holdApplied_late (L := L) hl s1 v
  have wr := refuseHeld_within hl (heldShown (domsApplied s1 L (loadDoms s L) v) L)
  refine ⟨_, e, ?_, ?_, fun n hm => ?_, fun g hg => ?_, fun d hm => ?_, fun b i hb hi' => ?_⟩
  · rw [holdApplied_eq, phase, setPhase, rgF_setF_same _ _ (by decide)]
    decide
  · rw [wl.mem (by decide), blocksApplied, wb.mem (by decide), wp.mem (by decide), w1.mem (by decide)]
  · obtain ⟨hb, hr⟩ := epStat_not_held (hn n hm)
    exact (wl.rgF hr _).trans ((wb.rgF hb _).trans (epState_partsApplied hm (hn n hm) s1 v))
  · obtain ⟨hlt, ha⟩ := mem_loadRegions.mp hg
    rw [heldRegion, holdApplied_eq, setPhase, rgF_setF_field _ _ (by decide) (by decide), wr.rgF imgStatus_not_sluiceReg, ← heldRegion]
    exact heldRegion_heldShown _ ha
  · have h := sluiceSt_domsHeld hj (blocksApplied s1 L v) d hm
    have hg := hl d hm
    have hne : R.GW_SLUICE d.1 ≠ R.IMG_STATUS := by
      unfold R.GW_SLUICE rwin R.IMG_STATUS chipCtl
      rw [if_pos hg]
      omega
    rw [holdApplied_eq, sluiceSt, setPhase, rgF_setF_other _ hne, ← sluiceSt, sluiceSt_refuseHeld _ _ _ (hj d hm).2, sluiceSt,
      heldShown, rgF_setF_other _ hne]
    exact h
  · rw [State.cellsWf, mapWf_iff] at hw
    have hcells : (partsApplied s1 L v).cells = s.cells :=
      (wp.cells (by decide)).trans (w1.cells (by decide))
    obtain ⟨hk, hs⟩ := blocksHeld_cells (loadBlocks L) (s := partsApplied s1 L v) (hcells ▸ hw.1)
    have hc' : (holdApplied s1 L (loadDoms s L) v).cells = (blocksApplied s1 L v).cells := wl.cells (by decide)
    simp only [cellAt, hc']
    refine ⟨?_, fun ha => ?_⟩
    · rw [← hcells]
      exact hk.planes _
    · exact hs _ ((cellKey_div hi').symm ▸ mem_loadBlocks hb ha)

end Sys2Proof.Machine
end

section
/-! SUPPORT. The replacements that waited for a load leave the epochs of the partitions for which none waits (R79). -/

namespace Sys2Proof.Machine

variable {s t u : State} {n m : Nat}

/-- Partition n is in the same state and epoch in t as in s, and its epoch record is the same but for its copies. -/
structure SameEpoch (n : Nat) (s t : State) : Prop where
  record : SameButCopies (epochOf s n) (epochOf t n)
  state : epState t n = epState s n
  epoch : rgF t (R.EP_STAT n) R.EP_STAT_EPOCH = rgF s (R.EP_STAT n) R.EP_STAT_EPOCH

theorem SameButCopies.refl (e : Epoch) : SameButCopies e e := ⟨_, _, rfl⟩

theorem SameButCopies.trans {e f g : Epoch} (h : SameButCopies e f) (h' : SameButCopies f g) : SameButCopies e g := by
  obtain ⟨x, y, rfl⟩ := h
  obtain ⟨z, w, rfl⟩ := h'
  exact ⟨z, w, rfl⟩

theorem SameEpoch.refl : SameEpoch n s s := ⟨.refl _, rfl, rfl⟩

theorem SameEpoch.trans (h : SameEpoch n s t) (h' : SameEpoch n t u) : SameEpoch n s u :=
  ⟨h.record.trans h'.record, h'.state.trans h.state, h'.epoch.trans h.epoch⟩

theorem Within.sameEpoch {F : List Piece} {A : Nat → Prop} (w : Within F A s t) (he : .epochs ∉ F) (ha : ¬ A (R.EP_STAT n)) :
    SameEpoch n s t := ⟨by rw [w.epochOf n he]; exact .refl _, w.rgF ha _, w.rgF ha _⟩

/-- A field below the state of a partition may be set in any register. -/
theorem sameEpoch_setF (s : State) (a : Nat) {f : Fld} (h : f.hi < 28) (v : Nat) : SameEpoch n s (setF s a f v) := by
  have hk : ∀ g : Fld, 28 ≤ g.lo → rgF (setF s a f v) (R.EP_STAT n) g = rgF s (R.EP_STAT n) g := fun g hg => by
    by_cases e : R.EP_STAT n = a
    · rw [e, rgF_setF_field _ _ (by omega) (.inl (by omega))]
    · rw [rgF_setF_other _ e]
  exact ⟨.refl _, hk _ (by decide), hk _ (by decide)⟩

theorem epStat_not_cicReg (hn : n < 16) : ¬ cicReg (R.EP_STAT n) := by
  rintro ⟨w, hw, e⟩
  unfold R.EP_STAT R.CIC_PEND at e
  omega

theorem cicRise_sameEpoch (hn : n < 16) (s0 s : State) (i : Nat) : SameEpoch n s (cicRise s0 s i) :=
  ⟨cicRise_epoch s0 s i n, (cicRise_within s0 s i).rgF (epStat_not_cicReg hn) _, (cicRise_within s0 s i).rgF (epStat_not_cicReg hn) _⟩

/-! ### Replacements -/

theorem epStat_ne_bswMap (n g : Nat) : R.EP_STAT n ≠ R.BSW_MAP g := by
  unfold R.EP_STAT R.BSW_MAP gwin chipCtl
  omega

theorem deadShown_sameEpoch (s : State) (p : Nat) : SameEpoch n s (deadShown s p) :=
  (deadShown_within s p).sameEpoch (by decide) fun ⟨g, e⟩ => epStat_ne_bswMap n g e

theorem newHolder_sameEpoch (hn : n < 16) {g k code : Nat} {answers mig : Bool} (h : newHolder s g k answers mig = some (code, t)) :
    SameEpoch n s t :=
  (newHolder_within h).sameEpoch (by decide) fun e => e.elim (fun ⟨g, e⟩ => epStat_ne_bswMap n g e) fun e => by
    unfold R.EP_STAT R.CN_COUNT at e
    omega

theorem codeShown_sameEpoch (s : State) (b p code : Nat) : SameEpoch n s (codeShown s b p code) := by
  have w : Within [] (· = R.BSW_MAP (b / 8)) (deadShown s p) (setF (deadShown s p) (R.BSW_MAP (b / 8)) (posFld (b % 8)) code) :=
    Within.refl.setF rfl
  exact ((deadShown_sameEpoch s p).trans (w.sameEpoch (by decide) (epStat_ne_bswMap n _))).trans
    (sameEpoch_setF _ _ (by simp only; omega) 1)

theorem setDom_sameEpoch (s : State) (d v : Nat) : SameEpoch n s (setDom s d v) :=
  (sameEpoch_setF s _ (f := R.PC_DOM_CUR) (by decide) v).trans (sameEpoch_setF _ _ (f := R.PC_DOM_REQ) (by decide) v)

/-- Before its interrupt a move between physical blocks touches no epoch. -/
theorem moveHolder_sameEpoch (hn : n < 16) (s : State) (b p q : Nat) : SameEpoch n s (moveHolder s b p q) := by
  have hr : ¬ moveReg (R.EP_STAT n) := by
    rintro (e | ⟨w, hw, e⟩ | e)
    · unfold R.EP_STAT chipCtl at e; omega
    · unfold R.EP_STAT R.CIC_PEND at e; omega
    · unfold R.EP_STAT chipCtl bwin idleFrom at e; omega
  have w := moveHolder_within s b p q
  refine ⟨?_, w.rgF hr _, w.rgF hr _⟩
  unfold moveHolder
  split
  · exact .refl _
  · extract_lets s0 was s1 mine win s2
    have h1 : Within [.cells, .mem, .flaws, .seqs] (fun _ => True) s s1 := Within.refl.setRg trivial
    have h2 : Within [.cells, .mem, .flaws, .seqs] (fun _ => True) s s2 :=
      h1.trans ⟨fun x hx => by cases x <;> simp at hx <;> rfl, fun a ha => absurd trivial ha⟩
    have h3 : Within [.cells, .mem, .flaws, .seqs] (fun _ => True) s (showTwinStop (takeMap s2 b was) b) :=
      ((h2.setRg trivial).updSeq (by decide)).setB trivial
    rw [← h3.epochOf n (by decide)]
    exact cicRise_epoch _ _ _ n

theorem stateMoved_sameEpoch (hn : n < 16) (s : State) (b p code cur : Nat) : SameEpoch n s (stateMoved s b p code cur) := by
  unfold stateMoved
  split
  · exact ⟨.refl _, rgF_of_rg (rg_congr rfl _) _, rgF_of_rg (rg_congr rfl _) _⟩
  · split
    · exact (setDom_sameEpoch s _ cur).trans (moveHolder_sameEpoch hn _ b p _)
    · exact .refl

theorem replacementShown_sameEpoch (s : State) (b p code src m : Nat) :
    SameEpoch n s (replacementShown s b p code src m) := by
  have hj : ¬ journalReg (R.EP_STAT n) := epStat_not_journalReg n
  have w1 := showHolders_within s (b / 8)
  have w2 := regeom_within (showHolders s (b / 8)) m true
  have h2 : SameEpoch n s (regeom (showHolders s (b / 8)) m true) :=
    (w1.sameEpoch (by decide) (by unfold R.EP_STAT chipCtl; omega)).trans (w2.sameEpoch (by decide) fun ⟨g, hg, e⟩ => by
      unfold R.EP_STAT R.ORN_GEOM gwin chipCtl at e
      omega)
  have h3 := h2.trans ((journal_within _ 4 src m p 0 0).sameEpoch (by decide) hj)
  unfold replacementShown
  extract_lets v w
  have h4 : SameEpoch n s w :=
    h3.trans (Within.sameEpoch (F := [.jdead]) (A := fun _ => False) (Within.refl.put .jdead (by decide)) (by decide) id)
  split
  · exact h4.trans ((journal_within _ 5 src m p code 0).sameEpoch (by decide) hj)
  · split
    · exact h4.trans ((journal_within _ 6 src m p code 0).sameEpoch (by decide) hj)
    · exact h4

theorem replaceBlock_sameEpoch (hn : n < 16) {b src : Nat} {answers : Bool} (h : replaceBlock s b src answers = some t) :
    SameEpoch n s t := by
  cases hp : holder s b with
  | none =>
    rw [replaceBlock_none hp] at h
    cases h
  | some p =>
    rw [replaceBlock_some hp] at h
    obtain ⟨⟨code, u⟩, hu, rfl⟩ := Option.map_eq_some_iff.mp h
    exact (((newHolder_sameEpoch hn hu).trans (codeShown_sameEpoch u b p code)).trans (stateMoved_sameEpoch hn _ b p code _)).trans
      (replacementShown_sameEpoch _ b p code src _)

/-! ### The loss of another partition -/

theorem sameEpoch_updEpoch (s : State) (h : n ≠ m) (f : Epoch → Epoch) : SameEpoch n s (updEpoch s m f) :=
  ⟨by rw [epochOf_updEpoch_other _ h]; exact .refl _, rgF_of_rg (rg_congr rfl _) _, rgF_of_rg (rg_congr rfl _) _⟩

theorem concealmentLost_sameEpoch (hn : n < 16) (h : n ≠ m) (s : State) (src unit loc : Nat) :
    SameEpoch n s (concealmentLost s m src unit loc) := by
  have hstop : ¬ stopReg (R.EP_STAT n) := not_stopReg_epStat n hn
  unfold concealmentLost
  split
  · exact .refl
  · extract_lets s0 keep s1 ws hs s2 fl mesh s3 s4 s5 s6 s7 s8 s9 s10
    have h1 : SameEpoch n s s1 := (stopPart_within s m 4).sameEpoch (by decide) hstop
    have h2 : SameEpoch n s s2 := h1.trans (sameEpoch_updEpoch s1 h _)
    have w3 : Within [.mesh] (· = R.EP_STAT m) s2 s5 := by
      have w : Within [.mesh] (· = R.EP_STAT m) s2 s2 := .refl
      exact ((w.put .mesh (by decide)).setF rfl).setB rfl
    have h5 : SameEpoch n s s5 := h2.trans (w3.sameEpoch (by decide) (epStat_inj h))
    have h6 : SameEpoch n s s6 := h5.trans (cicRise_sameEpoch hn s0 s5 (16 + m))
    have w7 : Within [] (· = R.CN_COUNT) s6 s7 := Within.refl.addSat rfl
    have w8 : Within [.sb] journalReg s7 s8 := journal_within s7 0x0B src m unit 0 loc
    have h8 : SameEpoch n s s8 := (h6.trans (w7.sameEpoch (by decide) (by unfold R.EP_STAT R.CN_COUNT; omega))).trans
      (w8.sameEpoch (by decide) (epStat_not_journalReg n))
    have h9 : SameEpoch n s s9 := h8.trans ((endRuns_now_within s8 m 0x0B 0 0).sameEpoch (by decide) id)
    have w10 : Within [.host] (fun _ => False) s9 s10 := Within.refl.foldl fun x h => by
      split
      exacts [h.trans (postCompl_within _ _), h]
    have w11 : Within [.host] sluiceReg s9 (raiseFences (ws.foldl (fun s w =>
        complete s w.1 w.2.1 w.2.2 0x0B 0 (rgF s (R.EP_STAT m) R.EP_STAT_EPOCH * 2 ^ 32)) s10)) :=
      ((w10.foldl fun w h => h.trans (complete_within _ _ _ _ _ _ _)).mono (fun _ => False.elim) (by decide)).andThen
        (raiseFences_within _) (by decide) fun _ => id
    exact h9.trans (w11.sameEpoch (by decide) (not_sluiceReg (by unfold R.EP_STAT chipCtl; omega)))

/-! ### The end of a load -/

theorem waitEnded_sameEpoch (hn : n < 16) (h : n ≠ m) (s : State) (w : Nat × BitVec 8 × Bool) : SameEpoch n s (waitEnded m s w) := by
  obtain e | e | e := waitEnded_cases s m w
  · rw [e]
    exact .refl
  · exact replaceBlock_sameEpoch hn e
  · rw [e]
    exact concealmentLost_sameEpoch hn h s _ _ _

theorem SameEpoch.wait (h : SameEpoch n s t) : (epochOf t n).wait = (epochOf s n).wait := by
  obtain ⟨x, y, e⟩ := h.record
  rw [e]

theorem endWaits_sameEpoch (hn : n < 16) (hw : (epochOf s n).wait = []) : SameEpoch n s (endWaits s) := by
  rw [endWaits_eq, forEach]
  refine List.foldlRecOn (motive := SameEpoch n s) _ _ .refl fun t h m _ => ?_
  by_cases e : n = m
  · subst e
    rw [partWaitsEnded, h.wait, hw]
    exact h
  · unfold partWaitsEnded
    split
    · exact h
    · refine List.foldlRecOn (motive := SameEpoch n s) _ _ (h.trans (sameEpoch_updEpoch t e _)) fun u hu w _ => ?_
      exact hu.trans (waitEnded_sameEpoch hn e u w)

theorem epStat_not_sweepReg (hn : n < 16) : ¬ sweepReg (R.EP_STAT n) :=
  not_sweepReg (by unfold R.EP_STAT chipCtl; omega) (.inr (.inl (by unfold R.EP_STAT chipCtl; omega)))

theorem loadClosed_sameEpoch (hn : n < 16) (s : State) (ph : Nat) : SameEpoch n s (loadClosed s ph) :=
  (loadClosed_within s ph).sameEpoch (by decide) (by
    unfold engineReg R.EP_STAT R.IMG_CTRL R.IMG_STATUS R.IMG_ERR
    omega)

theorem endLoad_sameEpoch (hn : n < 16) (hw : (epochOf s n).wait = []) (ph status detail result : Nat) :
    SameEpoch n s (endLoad s ph status detail result) := by
  have h := loadClosed_sameEpoch hn s ph
  exact ((h.trans (endWaits_sameEpoch hn (h.wait.trans hw))).trans ((sweepIso_within _).sameEpoch (by decide) (epStat_not_sweepReg hn))).trans
    ((endLoad_swept s ph status detail result).sameEpoch (by decide) id)

end Sys2Proof.Machine
end

section
/-! SUPPORT. The release of a structural image (R75, R77). -/

namespace Sys2Proof.Machine

variable {s t : State} {L : ImgLoad} {n : Nat}

/-! ### The domains that are released -/

/-- The parts that the release of domains changes. -/
def relParts : List Piece := [.cells, .mem, .flaws, .seqs, .stores, .csFlip, .keys, .dram, .dma, .pwr, .mesh, .irq, .out]

/-- Whatever registers change, a step changes no part but these. -/
abbrev DomsOnly : State → State → Prop := Within relParts fun _ => True

/-- A step that replaces parts among these. -/
theorem domsOnly_record (h : ∀ x, x ∉ relParts → x.get t = x.get s) : DomsOnly s t := ⟨h, fun _ ha => absurd trivial ha⟩

theorem clearBlock_domsOnly (s : State) (b : Nat) : DomsOnly s (clearBlock s b) := by
  have h : DomsOnly s (breakResv s (bwin b) 0x200000) :=
    (breakResv_within s _ _).mono (fun _ _ => trivial) (by decide)
  exact h.trans (domsOnly_record fun x hx => by cases x <;> simp [relParts] at hx <;> rfl)

theorem csFill_domsOnly (s : State) (b : Nat) : DomsOnly s (csFill s b) :=
  domsOnly_record fun x hx => by cases x <;> simp [relParts] at hx <;> rfl

theorem wakeCleared_domsOnly (s : State) (b : Nat) : DomsOnly s (wakeCleared s b) :=
  ((csFill_domsOnly s b).setSeq (by decide)).resetRegs fun _ _ => trivial

theorem blockWoken_domsOnly (s : State) (p : Nat) : DomsOnly s (blockWoken s p) := by
  have h : DomsOnly s s := .refl
  exact h.branch (fun _ => (clearBlock_domsOnly s _).trans (wakeCleared_domsOnly _ _)) fun h =>
    (h.foldl fun b h => h.trans (clearBlock_domsOnly _ b)).foldl fun b h => h.trans (wakeCleared_domsOnly _ b)

theorem gatewayWoken_domsOnly (s : State) (g : Nat) : DomsOnly s (gatewayWoken s g) := by
  unfold gatewayWoken
  split
  · extract_lets fr u
    have h : DomsOnly s u := Within.refl.foldl fun e h => h.put .keys (by decide)
    exact h.put .dram (by decide)
  · exact Within.refl.put .keys (by decide)

theorem controllerWoken_domsOnly (s : State) (k : Nat) : DomsOnly s (controllerWoken s k) :=
  domsOnly_record fun x hx => by cases x <;> simp [relParts] at hx <;> rfl

theorem liftFence_domsOnly (s : State) {g : Nat} (hg : g < 16) (j : Nat) : DomsOnly s (liftFence s g j) :=
  (liftFence_within s hg j).mono (fun _ _ => trivial) (by decide)

theorem stopDom_domsOnly (s : State) (d : Nat) : DomsOnly s (stopDom s d) :=
  (show DomsOnly s _ from Within.refl.put .pwr (by decide)).setB trivial

theorem releaseDom_domsOnly (s : State) (d v : Nat) : DomsOnly s (releaseDom s d v) := by
  unfold releaseDom
  extract_lets old s1 s2
  have h1 : DomsOnly s s1 := ((stopDom_domsOnly s d).setF trivial).setF trivial
  have h2 : DomsOnly s s2 := by
    show DomsOnly s (match sluiceOf d with
      | some (g, j) => if v < 4 then liftFence s1 g j else setSluice s1 g j 4
      | none => s1)
    split
    next g j e => exact h1.branch (·.trans (liftFence_domsOnly _ (sluiceOf_lt e) j)) (·.setF trivial)
    · exact h1
  exact h2.when fun h => h.branch (·.trans (blockWoken_domsOnly _ _)) fun h => h.branch (·.trans (gatewayWoken_domsOnly _ _)) fun h =>
    h.when (·.trans (controllerWoken_domsOnly _ _))

theorem releaseRegion_domsOnly (s : State) {g : Nat} (hg : g < 16) : DomsOnly s (releaseRegion s g) := by
  have h : DomsOnly s s := .refl
  unfold releaseRegion
  extract_lets lent u1 u2 u3
  have h1 : DomsOnly s u1 := h.foldl fun j h => h.when (·.trans (liftFence_domsOnly _ hg j))
  have h2 : DomsOnly s u2 := h1.trans (releaseDom_domsOnly _ _ _)
  have h3 : DomsOnly s u3 := h2.foldl fun k h => by
    split
    · exact h.trans (releaseDom_domsOnly _ _ _)
    · exact h
  exact h.branch (fun _ => h3.when (·.trans (releaseDom_domsOnly _ _ _))) fun h =>
    (h.foldl fun j h => h.trans (releaseDom_domsOnly _ _ _)).trans (releaseDom_domsOnly _ _ _)

theorem releaseChip_domsOnly (s : State) : DomsOnly s (releaseChip s) :=
  ((Within.refl.foldl fun _ h => h.trans (releaseDom_domsOnly _ _ _)).trans (releaseDom_domsOnly _ _ _)).foldl fun _ h =>
    h.trans (releaseDom_domsOnly _ _ _)

theorem freeSpares_domsOnly (s : State) (L : ImgLoad) : DomsOnly s (freeSpares s L) :=
  Within.refl.foldlMem fun _ hh w => w.when (·.trans (liftFence_domsOnly _ (List.mem_range.mp hh) 8))

theorem wakeControllers_domsOnly (s : State) : DomsOnly s (wakeControllers s) :=
  Within.refl.foldl fun _ h => h.when (·.trans (releaseDom_domsOnly _ _ _))

end Sys2Proof.Machine
end

section
/-! SUPPORT. The partitions start, and the load ends (R75, R77, R376). -/

namespace Sys2Proof.Machine

variable {s t : State} {L : ImgLoad} {n : Nat}

/-! ### The steps of a release -/

/-- The partitions of the image. -/
def loadParts (L : ImgLoad) : List Nat := (L.owner.map fun e => e.2).eraseDups

theorem loadParts_lt (ho : ∀ e ∈ L.owner, e.2 < 16) (hn : n ∈ loadParts L) : n < 16 := by
  obtain ⟨x, hx, rfl⟩ := List.mem_map.mp (List.mem_eraseDups.mp hn)
  exact ho x hx

/-- HELD of the regions that a partition has. -/
def heldEnded (s : State) (l : List Nat) : State := l.foldl (fun s g => setF s R.IMG_STATUS ⟨32 + g, 32 + g⟩ 0) s

def partsReleased (s : State) (L : ImgLoad) : State := (loadParts L).foldl (fun s n => releasePart s n (L.relTick.getD (now s))) s

def digestShown (s : State) (L : ImgLoad) : State :=
  (List.range 6).foldl (fun s i => setRg s (R.IMG_DIGEST i) (L.digest.toNat / 2 ^ (64 * (5 - i)) % 2 ^ 64)) s

def noteReleased (s : State) : State := { s with rein := { s.rein with released := true } }

/-- SIGNED and DONE, with their interrupt, and PHASE and BUSY. -/
def doneShown (s : State) (L : ImgLoad) : State := setB (setB s R.IMG_STATUS R.IMG_STATUS_SIGNED L.signed) R.IMG_STATUS R.IMG_STATUS_DONE true
def phaseEnded (s : State) (L : ImgLoad) : State :=
  setB (setPhase (cicRise s (doneShown s L) 0) 0) R.IMG_STATUS R.IMG_STATUS_BUSY false

/-- What a release shows of the load when its domains have left their reset. -/
def loadReleased (s : State) (L : ImgLoad) (l : List Nat) : State :=
  phaseEnded (noteReleased (digestShown (partsReleased (heldEnded s l) L) L)) L

theorem execImageRelease_eq (hi : s.img = some L) (hp : phase s = 6)
    (ht : ∀ x, L.relTick = some x → x ≤ now s)
    (hr : ((loadRegions L).any fun g => rgB s (R.RT_LINK g) R.RT_LINK_RECFG) = false) :
    ∃ u r, execImageRelease s = .next (endLoad (loadReleased u L ((loadRegions L).filter (assigned s))) 0 0 0 r)
      ∧ DomsOnly s u := by
  unfold execImageRelease
  simp only [hi]
  rw [if_neg]
  · refine ⟨_, _, rfl, ?_⟩
    have h : DomsOnly s ((loadRegions L).foldl releaseRegion s) := Within.refl.foldlMem fun g hg h =>
      h.trans (releaseRegion_domsOnly _ (mem_loadRegions.mp hg).1)
    exact (h.trans (freeSpares_domsOnly _ L)).branch (·.trans (wakeControllers_domsOnly _)) (·.trans (releaseChip_domsOnly _))
  · rcases e : L.relTick with - | x
    · simp only [hp]
      simpa [loadRegions] using hr
    · simp only [hp, decide_eq_false (Nat.not_lt.mpr (ht x e))]
      simpa [loadRegions] using hr

/-! ### A partition starts -/

/-- The registers that the start of partition n changes. -/
def startReg (n a : Nat) : Prop :=
  stopReg a ∨ (∃ i, i < 16 ∧ a = R.GPIO_CFG i) ∨ (∃ p, p < 4 ∧ a = R.REIN_STATUS p) ∨ a = R.EP_STAT n

/-- The registers of a partition that starts, before its epoch is recorded. -/
def partStarted (s : State) (n : Nat) : State :=
  let p := partCfg s n
  let s := unstop s n
  let s := (blocksOf s n).foldl (fun s b => haltSeq s b 7) s
  let s := (List.range 16).foldl (fun s i => if p.gpio.getLsbD i then setRg s (R.GPIO_CFG i) (regReset (R.GPIO_CFG i)).toNat else s) s
  let s := (List.range 4).foldl (fun s i => if p.rein.getLsbD i then setF s (R.REIN_STATUS i) R.REIN_STATUS_STATE 2 else s) s
  setF (setF s (R.EP_STAT n) R.EP_STAT_EPOCH 0) (R.EP_STAT n) R.EP_STAT_STATE 1

def startParts : List Piece := .rein :: .dbg :: haltParts

theorem partStarted_within (s : State) (n : Nat) : Within startParts (startReg n) s (partStarted s n) := by
  unfold partStarted
  extract_lets p s1 s2 s3 s4
  have h1 : Within startParts (startReg n) s s1 := Within.refl.put .dbg (v := (unstop s n).dbg) (by decide)
  have h2 : Within startParts (startReg n) s s2 := h1.foldl fun b h => h.andThen (haltSeq_within _ b 7) (by decide) fun _ => .inl
  have h3 : Within startParts (startReg n) s s3 := h2.foldlMem fun i hi h =>
    h.when (·.setRg (.inr (.inl ⟨i, List.mem_range.mp hi, rfl⟩)))
  have h4 : Within startParts (startReg n) s s4 := h3.foldlMem fun i hi h =>
    h.when (·.setF (.inr (.inr (.inl ⟨i, List.mem_range.mp hi, rfl⟩))))
  exact (h4.setF (.inr (.inr (.inr rfl)))).setF (.inr (.inr (.inr rfl)))

theorem epoch_partStarted (s : State) (n : Nat) :
    epState (partStarted s n) n = 1 ∧ rgF (partStarted s n) (R.EP_STAT n) R.EP_STAT_EPOCH = 0 := by
  unfold partStarted
  extract_lets p s1 s2 s3 s4
  constructor
  · rw [epState, rgF_setF_same _ _ (by decide)]
    decide
  · rw [rgF_setF_field _ _ (by decide) (by decide), rgF_setF_same _ _ (by decide), Nat.zero_mod]

theorem releasePart_eq (s : State) (n v : Nat) : ∃ u, releasePart s n v = { u with
      epochs := mapPut n { next := v + (partCfg s n).epochMs * 100000, com := some (takeSnap u n) } u.epochs }
    ∧ Within [.rein] (fun _ => False) (partStarted s n) u := by
  refine ⟨_, rfl, ?_⟩
  exact Within.refl.when (·.put .rein (by decide))

theorem releasePart_within (s : State) (n v : Nat) : Within (.epochs :: startParts) (startReg n) s (releasePart s n v) := by
  obtain ⟨u, e, w⟩ := releasePart_eq s n v
  rw [e]
  have h : Within (.epochs :: startParts) (startReg n) s u :=
    ((partStarted_within s n).mono (fun _ => id) (by decide)).andThen w (by decide) fun _ => False.elim
  exact h.put .epochs (by decide)

/-- Partition n is in its first epoch, whose end is set by the settings c and the tick v. -/
structure FirstEpoch (c : Settings) (v n : Nat) (t : State) : Prop where
  state : epState t n = 1
  epoch : rgF t (R.EP_STAT n) R.EP_STAT_EPOCH = 0
  held : (epochOf t n).held = []
  wait : (epochOf t n).wait = []
  next : (epochOf t n).next = v + (mapGet ({} : Partition) n c.parts).epochMs * 100000

theorem FirstEpoch.kept {c : Settings} {v : Nat} (h : FirstEpoch c v n s) (w : SameEpoch n s t) : FirstEpoch c v n t := by
  obtain ⟨x, y, e⟩ := w.record
  exact ⟨w.state.trans h.state, w.epoch.trans h.epoch, by rw [e]; exact h.held, by rw [e]; exact h.wait, by rw [e]; exact h.next⟩

theorem releasePart_first (s : State) (n v : Nat) : FirstEpoch s.cfg v n (releasePart s n v) := by
  obtain ⟨u, e, w⟩ := releasePart_eq s n v
  have hu : epochOf (releasePart s n v) n = { next := v + (partCfg s n).epochMs * 100000, com := some (takeSnap u n) } := by
    rw [e]
    exact mapGet_put_same _ _ _ _
  have hr : ∀ f, rgF (releasePart s n v) (R.EP_STAT n) f = rgF (partStarted s n) (R.EP_STAT n) f := fun f => by
    rw [e, ← w.rgF id]
    exact rgF_of_rg (rg_congr rfl _) f
  obtain ⟨hs, he⟩ := epoch_partStarted s n
  exact ⟨(hr _).trans hs, (hr _).trans he, by rw [hu], by rw [hu], by rw [hu, partCfg]⟩

theorem releasePart_other {m : Nat} (hn : n < 16) (h : n ≠ m) (s : State) (v : Nat) : SameEpoch n s (releasePart s m v) := by
  have hr : ¬ startReg m (R.EP_STAT n) := by
    rintro (e | ⟨i, hi, e⟩ | ⟨p, hp, e⟩ | e)
    · exact not_stopReg_epStat n hn e
    · unfold R.EP_STAT R.GPIO_CFG at e; omega
    · unfold R.EP_STAT R.REIN_STATUS at e; omega
    · exact epStat_inj h e
  have w := releasePart_within s m v
  refine ⟨?_, w.rgF hr _, w.rgF hr _⟩
  obtain ⟨u, e, wu⟩ := releasePart_eq s m v
  have hep : epochOf (releasePart s m v) n = epochOf s n := by
    rw [e, ← (partStarted_within s m).epochOf n (by decide), ← wu.epochOf n (by decide)]
    exact mapGet_put_other _ h _ _
  rw [hep]
  exact .refl _

/-- Every partition of the image starts. -/
theorem partsReleased_first (hl : ∀ m ∈ loadParts L, m < 16) (hn : n ∈ loadParts L) (s : State) :
    FirstEpoch s.cfg (L.relTick.getD (now s)) n (partsReleased s L) := by
  let Q (t : State) : Prop := t.cfg = s.cfg ∧ now t = now s
  let P (t : State) : Prop := Q t ∧ FirstEpoch s.cfg (L.relTick.getD (now s)) n t
  have hQ : ∀ t m, Q t → Q (releasePart t m (L.relTick.getD (now t))) := fun t m h => by
    have w := releasePart_within t m (L.relTick.getD (now t))
    exact ⟨(w.cfg (by decide)).trans h.1, (congrArg BitVec.toNat (w.timebase (by decide))).trans h.2⟩
  have hset : ∀ t, Q t → P (releasePart t n (L.relTick.getD (now t))) := fun t h => by
    have := releasePart_first t n (L.relTick.getD (now t))
    rw [h.1, h.2] at this
    exact ⟨hQ t n h, h.2 ▸ this⟩
  have hkeep : ∀ t, ∀ m ∈ loadParts L, P t → P (releasePart t m (L.relTick.getD (now t))) := fun t m hm h => by
    by_cases e : m = n
    · subst e
      exact hset t h.1
    · exact ⟨hQ t m h.1, h.2.kept (releasePart_other (hl n hn) (Ne.symm e) t _)⟩
  exact (foldl_reaches (Q := Q) (P := P) (fun t m _ _ => hQ t m) hset hkeep hn ⟨rfl, rfl⟩).2

end Sys2Proof.Machine
end

section
/-! SUPPORT. A release as the statement of image loads has it (R75, R77). -/

namespace Sys2Proof.Machine

variable {s t : State} {L : ImgLoad} {n : Nat}

/-! ### What it shows -/

theorem heldEnded_within (s : State) (l : List Nat) : Within [] (· = R.IMG_STATUS) s (heldEnded s l) :=
  Within.refl.foldl fun _ h => h.setF rfl

theorem heldRegion_setF {g h : Nat} (hg : g < 16) (hh : h < 16) (s : State) :
    heldRegion (setF s R.IMG_STATUS ⟨32 + h, 32 + h⟩ 0) g = if h = g then false else heldRegion s g := by
  rw [heldRegion_eq _ hg, testBit_rg_setF _ _ (by simp only; omega), heldRegion_eq _ hg]
  by_cases e : h = g
  · rw [if_pos (by simp only; omega), if_pos e, Nat.zero_testBit]
  · rw [if_neg (by simp only; omega), if_neg e]

theorem heldRegion_heldEnded {l : List Nat} (hl : ∀ g ∈ l, g < 16) {g : Nat} (h : g ∈ l) (s : State) :
    heldRegion (heldEnded s l) g = false := by
  have hstep : ∀ t x, x ∈ l → heldRegion (setF t R.IMG_STATUS ⟨32 + x, 32 + x⟩ 0) g = if x = g then false else heldRegion t g :=
    fun t x hx => heldRegion_setF (hl g h) (hl x hx) t
  unfold heldEnded
  refine foldl_settles (P := fun t => heldRegion t g = false) (fun t => ?_) (fun t x hx hne ht => ?_) h s
  · rw [hstep t g h, if_pos rfl]
  · rw [hstep t x hx, if_neg hne]
    exact ht

theorem imgStatus_not_startReg {m : Nat} : ¬ startReg m R.IMG_STATUS := by
  rintro (e | ⟨i, hi, e⟩ | ⟨p, hp, e⟩ | e)
  · exact not_stopReg (by decide) e
  · unfold R.IMG_STATUS R.GPIO_CFG at e; omega
  · unfold R.IMG_STATUS R.REIN_STATUS at e; omega
  · unfold R.IMG_STATUS R.EP_STAT at e; omega

theorem partsReleased_within (s : State) (L : ImgLoad) :
    Within (.epochs :: startParts) (fun a => ∃ m, startReg m a) s (partsReleased s L) :=
  Within.refl.foldl fun m h => h.andThen (releasePart_within _ m _) (fun _ => id) fun _ hr => ⟨m, hr⟩

/-- The registers of the digest. -/
def digestReg (a : Nat) : Prop := ∃ i, i < 6 ∧ a = R.IMG_DIGEST i

theorem digestShown_within (s : State) (L : ImgLoad) : Within [] digestReg s (digestShown s L) :=
  Within.refl.foldlMem fun i hi h => h.setRg ⟨i, List.mem_range.mp hi, rfl⟩

theorem rg_digestShown (s : State) (L : ImgLoad) {i : Nat} (hi : i < 6) :
    rg (digestShown s L) (R.IMG_DIGEST i) = L.digest.toNat / 2 ^ (64 * (5 - i)) % 2 ^ 64 := by
  refine foldl_settles (P := fun t => rg t (R.IMG_DIGEST i) = L.digest.toNat / 2 ^ (64 * (5 - i)) % 2 ^ 64) (fun t => ?_)
    (fun t j _ hne h => ?_) (List.mem_range.mpr hi) s
  · rw [rg_setRg_same, Nat.mod_mod]
  · rw [rg_setRg_other _ (by unfold R.IMG_DIGEST; omega), h]

theorem noteReleased_within (s : State) : Within [.rein] (fun _ => False) s (noteReleased s) := Within.refl.put .rein (by decide)

theorem phaseEnded_within (s : State) (L : ImgLoad) : Within [] (fun a => a = R.IMG_STATUS ∨ cicReg a) s (phaseEnded s L) := by
  have h : Within [] (fun a => a = R.IMG_STATUS ∨ cicReg a) s (doneShown s L) := (Within.refl.setB (.inl rfl)).setB (.inl rfl)
  exact ((h.andThen (cicRise_chip s _) (by decide) fun _ => .inr).setF (.inl rfl)).setB (.inl rfl)

/-- The fields of IMG_STATUS but PHASE and BUSY are those with SIGNED and DONE set. -/
theorem status_phaseEnded (s : State) (L : ImgLoad) {f : Fld} (hb : 0 < f.lo) (hp : f.hi < 8 ∨ 11 < f.lo) :
    rgF (phaseEnded s L) R.IMG_STATUS f = rgF (doneShown s L) R.IMG_STATUS f := by
  rw [phaseEnded, setB, rgF_setF_field _ _ (by decide) (.inl hb), setPhase, rgF_setF_field _ _ (by decide) hp.symm,
    (cicRise_chip s _).rgF (not_cicReg_image (by decide))]

theorem status_doneShown (s : State) (L : ImgLoad) : rgB (doneShown s L) R.IMG_STATUS R.IMG_STATUS_DONE = true
    ∧ rgB (doneShown s L) R.IMG_STATUS R.IMG_STATUS_SIGNED = L.signed ∧ ∀ g, heldRegion (doneShown s L) g = heldRegion s g := by
  refine ⟨rgB_setB_same _ _ (by decide) rfl _, ?_, fun g => ?_⟩
  · rw [doneShown, setB, rgB_setF_field _ _ (by decide) (by decide), rgB_setB_same _ _ (by decide) rfl]
  · rw [heldRegion, doneShown, setB, rgF_setF_field _ _ (by decide) (by decide), setB, rgF_setF_field _ _ (by decide) (by decide),
      heldRegion]

theorem heldRegion_loadReleased {l : List Nat} (hl : ∀ g ∈ l, g < 16) {g : Nat} (h : g ∈ l) (s : State) :
    heldRegion (loadReleased s L l) g = false := by
  have hd : ¬ digestReg R.IMG_STATUS := by
    rintro ⟨i, -, e⟩
    unfold R.IMG_STATUS R.IMG_DIGEST at e
    omega
  have w : rgF (noteReleased (digestShown (partsReleased (heldEnded s l) L) L)) R.IMG_STATUS R.IMG_STATUS_HELD
      = rgF (heldEnded s l) R.IMG_STATUS R.IMG_STATUS_HELD := by
    rw [(noteReleased_within _).rgF id, (digestShown_within _ L).rgF hd,
      (partsReleased_within _ L).rgF fun ⟨m, e⟩ => imgStatus_not_startReg e]
  rw [heldRegion, loadReleased, status_phaseEnded _ _ (by decide) (by decide), ← heldRegion, (status_doneShown _ L).2.2, heldRegion, w,
    ← heldRegion, heldRegion_heldEnded hl h]

theorem digest_loadReleased (s : State) (l : List Nat) {i : Nat} (hi : i < 6) :
    rg (loadReleased s L l) (R.IMG_DIGEST i) = L.digest.toNat / 2 ^ (64 * (5 - i)) % 2 ^ 64 := by
  rw [loadReleased, (phaseEnded_within _ L).regs _, (noteReleased_within _).regs _ id, rg_digestShown _ _ hi]
  rintro (e | e)
  · unfold R.IMG_STATUS R.IMG_DIGEST at e
    omega
  · exact not_cicReg_image (by unfold R.IMG_DIGEST chipCtl; omega) e

/-! ### What it starts -/

theorem loadReleased_first (hl : ∀ m ∈ loadParts L, m < 16) (hn : n ∈ loadParts L) (s : State) (l : List Nat) :
    FirstEpoch s.cfg (L.relTick.getD (now s)) n (loadReleased s L l) := by
  have hlt := hl n hn
  have wh := heldEnded_within s l
  have h := partsReleased_first hl hn (heldEnded s l)
  rw [wh.cfg (by decide), now, wh.timebase (by decide), ← now] at h
  have hd : SameEpoch n (partsReleased (heldEnded s l) L) (digestShown (partsReleased (heldEnded s l) L) L) :=
    (digestShown_within _ L).sameEpoch (by decide) fun ⟨i, hi, e⟩ => by
      unfold R.EP_STAT R.IMG_DIGEST at e
      omega
  exact ((h.kept hd).kept ((noteReleased_within _).sameEpoch (by decide) id)).kept ((phaseEnded_within _ L).sameEpoch (by decide) fun e =>
    e.elim (fun e => by unfold R.EP_STAT R.IMG_STATUS at e; omega) (epStat_not_cicReg hlt))

theorem imageRelease_settled (hi : s.img = some L) (hp : phase s = 6)
    (ht : ∀ x, L.relTick = some x → x ≤ now s)
    (hr : ((loadRegions L).any fun g => rgB s (R.RT_LINK g) R.RT_LINK_RECFG) = false) (ho : ∀ e ∈ L.owner, e.2 < 16) :
    ∃ t, exec .imageRelease s = .next t ∧ phase t = 0 ∧ t.img = none ∧ rgB t R.IMG_STATUS R.IMG_STATUS_BUSY = false
      ∧ rgB t R.IMG_STATUS R.IMG_STATUS_DONE = true ∧ rgB t R.IMG_STATUS R.IMG_STATUS_SIGNED = L.signed
      ∧ (∀ g ∈ loadRegions L, assigned s g = true → heldRegion t g = false)
      ∧ (∀ i, i < 6 → rg t (R.IMG_DIGEST i) = L.digest.toNat / 2 ^ (64 * (5 - i)) % 2 ^ 64)
      ∧ ∀ n ∈ loadParts L, epState t n = 1 ∧ rgF t (R.EP_STAT n) R.EP_STAT_EPOCH = 0 ∧ (epochOf t n).held = []
          ∧ (epochOf t n).next = L.relTick.getD (now s) + (partCfg s n).epochMs * 100000 := by
  obtain ⟨u, r, e, w⟩ := execImageRelease_eq hi hp ht hr
  have hl : ∀ g ∈ (loadRegions L).filter (assigned s), g < 16 := fun g hg => (mem_loadRegions.mp (List.mem_filter.mp hg).1).1
  have hns : ∀ n ∈ loadParts L, n < 16 := fun _ => loadParts_lt ho
  generalize hv : loadReleased u L ((loadRegions L).filter (assigned s)) = v at e
  have we := endLoad_within v 0 0 0 r
  have hs : ¬ endReg R.IMG_STATUS := not_endReg_image (by decide) (by decide)
  have hstat : ∀ f : Fld, 0 < f.lo → (f.hi < 8 ∨ 11 < f.lo) →
      rgF (endLoad v 0 0 0 r) R.IMG_STATUS f = rgF v R.IMG_STATUS f := fun f hb hp =>
    (we.rgF hs f).trans (status_loadClosed v 0 hb hp)
  obtain ⟨hdone, hsigned, -⟩ := status_doneShown (noteReleased (digestShown (partsReleased (heldEnded u
    ((loadRegions L).filter (assigned s))) L) L)) L
  refine ⟨_, e, (we.rgF hs _).trans (phase_loadClosed v (by decide)), (we.img (by decide)).trans ?_,
    (we.rgB hs _).trans (busy_loadClosed v 0), ?_, ?_, fun g hg ha => ?_, fun i hi => ?_, fun n hn => ?_⟩
  · rw [loadClosed, setB_img, setB_img, setPhase, setF_img]
  · rw [rgB, hstat _ (by decide) (by decide), ← hv, loadReleased, status_phaseEnded _ _ (by decide) (by decide), ← rgB, hdone]
  · rw [rgB, hstat _ (by decide) (by decide), ← hv, loadReleased, status_phaseEnded _ _ (by decide) (by decide), ← rgB, hsigned]
  · rw [heldRegion, hstat _ (by decide) (by decide), ← heldRegion, ← hv]
    exact heldRegion_loadReleased hl (List.mem_filter.mpr ⟨hg, ha⟩) u
  · have hne : ¬ engineReg (R.IMG_DIGEST i) := by
      unfold engineReg R.IMG_DIGEST R.IMG_CTRL R.IMG_STATUS R.IMG_ERR
      omega
    rw [we.regs _ (not_endReg_image (by unfold R.IMG_DIGEST chipCtl; omega) (by unfold R.IMG_DIGEST chipCtl; omega)),
      (loadClosed_within v 0).regs _ hne, ← hv, digest_loadReleased _ _ hi]
  · have h : FirstEpoch s.cfg (L.relTick.getD (now s)) n v := by
      have := loadReleased_first hns hn u ((loadRegions L).filter (assigned s))
      rwa [hv, w.cfg (by decide), now, w.timebase (by decide), ← now] at this
    have h' := h.kept (endLoad_sameEpoch (hns n hn) h.wait 0 0 0 r)
    exact ⟨h'.state, h'.epoch, h'.held, h'.next⟩

end Sys2Proof.Machine
end

section
/-! SUPPORT. Holders that APPLY moves: what their stores hold follows them, and every other store stays (R75, R76). -/

namespace Sys2Proof.Machine

variable {s t : State} {b d x : Nat}

/-! ### Registers that APPLY writes beside the maps -/

/-- A register that is no BSW_MAP, none of the image engine's and no PC_DOM. -/
def sideReg (a : Nat) : Prop :=
  a % 0x1000000 ≠ 0 ∧ ¬ (0x040000100000 ≤ a ∧ a < 0x040000200000) ∧ ¬ (0x040000301000 ≤ a ∧ a < 0x040000301980)

theorem sideReg_of_mod {a : Nat} (h : 0x400000 ≤ a % 0x1000000) : sideReg a := by unfold sideReg; omega

theorem sideReg_cicReg {a : Nat} (h : cicReg a) : sideReg a := by
  obtain ⟨w, hw, rfl⟩ := h
  unfold sideReg R.CIC_PEND chipCtl
  omega

theorem sideReg_sweepReg {a : Nat} (h : sweepReg a) : sideReg a := by
  obtain ⟨r, rfl⟩ | ⟨r, hr, rfl⟩ := h
  · unfold sideReg R.RT_TAGS rwin
    split <;> omega
  · unfold sideReg R.RT_ISO rwin
    split <;> omega

theorem sideReg_router {r : Nat} (h : r < 16) : sideReg (R.RT_LINK r) := by
  unfold sideReg R.RT_LINK rwin
  rw [if_pos h]
  omega

theorem not_sideReg_bswMap (g : Nat) : ¬ sideReg (R.BSW_MAP g) := fun h => h.1 (by unfold R.BSW_MAP gwin; omega)

theorem not_sideReg_image {a : Nat} (h : 0x040000100000 ≤ a) (h' : a < 0x040000200000) : ¬ sideReg a := fun hs => hs.2.1 ⟨h, h'⟩

theorem not_sideReg_dom {d : Nat} (h : d < 151) : ¬ sideReg (R.PC_DOM d) := fun hs =>
  hs.2.2 (by unfold R.PC_DOM chipCtl; omega)

/-! ### One store moves -/

/-- A key that the move neither takes nor leads to reads as before. -/
theorem mapGet_carried {α : Type} {dflt : α} {p q : Nat → Bool} {f : Nat → Nat} {m : List (Nat × α)} {k : Nat} (hq : q k = false)
    (hf : ∀ j, p j = true → f j ≠ k) :
    mapGet dflt k ((mapOnly p m).foldl (fun m e => mapPut (f e.1) e.2 m) (mapDrop q m)) = mapGet dflt k m := by
  have h : mapGet dflt k (mapDrop q m) = mapGet dflt k m := by rw [mapGet_drop, if_neg (by simp [hq])]
  refine List.foldlRecOn (motive := fun m' => mapGet dflt k m' = mapGet dflt k m) _ _ h fun m' hm e he => ?_
  rw [mapGet_put_other _ (hf e.1 (List.mem_filter.mp he).2).symm, hm]

theorem cells_moveStore (s : State) (b d : Nat) : (moveStore s b d).cells =
    (mapOnly (storeKey b) s.cells).foldl (fun m e => mapPut (16384 * d + e.1 % 16384) e.2 m)
      (mapDrop (fun k => storeKey b k || storeKey d k) s.cells) := rfl

theorem mem_moveStore (s : State) (b d : Nat) : (moveStore s b d).mem =
    (mapOnly (storeMem b) s.mem).foldl (fun m e => mapPut (bwin d / 2 + (e.1 - bwin b / 2)) e.2 m)
      (mapDrop (fun k => storeMem b k || storeMem d k) s.mem) := rfl

theorem cellAt_moveStore (s : State) (hb : x ≠ b) (hd : x ≠ d) {i : Nat} (hi : i < 16384) :
    cellAt (moveStore s b d) x i = cellAt s x i := by
  have hk : (16384 * x + i) / 16384 = x := by omega
  have hb' : storeKey b (16384 * x + i) = false := by rw [storeKey, hk]; exact beq_false_of_ne hb
  have hd' : storeKey d (16384 * x + i) = false := by rw [storeKey, hk]; exact beq_false_of_ne hd
  rw [cellAt, cells_moveStore, mapGet_carried (f := fun k => 16384 * d + k % 16384) (by rw [hb', hd']; rfl) fun j _ => by omega, cellAt]

/-- Whether digit address a lies in the window of block b. -/
def inWinOf (b a : Nat) : Prop := bwin b ≤ a ∧ a < bwin b + 0x1000000

theorem storeMem_iff (b k : Nat) : storeMem b k = true ↔ inWinOf b (2 * k) := by
  rw [storeMem, Bool.and_eq_true, decide_eq_true_iff, decide_eq_true_iff, inWinOf]

theorem storeMem_digit {a : Nat} (h : ¬ inWinOf b a) : storeMem b (a / 2) = false := by
  refine Bool.eq_false_iff.mpr fun hs => h ?_
  have hk := (storeMem_iff b _).mp hs
  unfold inWinOf bwin at hk ⊢
  omega

theorem digit_moveStore (s : State) {a : Nat} (hb : ¬ inWinOf b a) (hd : ¬ inWinOf d a) :
    memDigit (moveStore s b d).mem a = memDigit s.mem a := by
  have h : memByte (moveStore s b d).mem (a / 2) = memByte s.mem (a / 2) := by
    rw [memByte, mem_moveStore, mapGet_carried (f := fun k => bwin d / 2 + (k - bwin b / 2))
      (by rw [storeMem_digit hb, storeMem_digit hd]; rfl), memByte]
    intro j hj e
    have hk := (storeMem_iff b j).mp hj
    unfold inWinOf bwin at hk hd
    unfold bwin at e
    omega
  rw [memDigit, h, memDigit]

/-- The parts that the moves of stores concern. -/
def storeParts : List Piece := [.stores, .cells, .mem, .flaws, .seqs, .epochs]

theorem colmap_sideReg (b : Nat) : sideReg (R.ARR_COLMAP b) := sideReg_of_mod (by unfold R.ARR_COLMAP bwin; omega)
theorem csFp_sideReg (b : Nat) : sideReg (R.CS_FP b) := sideReg_of_mod (by unfold R.CS_FP bwin; omega)

theorem moveStore_within (s : State) (b d : Nat) : Within storeParts sideReg s (moveStore s b d) := by
  unfold moveStore
  extract_lets carried v t0 t1
  have h0 : Within storeParts sideReg s t0 := Within.refl.branch
    (fun h => (h.setRg (colmap_sideReg d)).updSeq (by decide)) fun h => h.setRg (colmap_sideReg d)
  have h1 : Within storeParts sideReg s t1 := h0.setStores (by decide)
  have h2 : Within storeParts sideReg s (setRg t1 (R.CS_FP d) (csFp t1 d)) := h1.setRg (csFp_sideReg d)
  refine h2.trans ⟨fun x hx => ?_, fun _ _ => rfl⟩
  cases x <;> simp [storeParts] at hx <;> rfl

/-! ### All of them -/

/-- The positions whose stores APPLY moves, with the physical blocks that they leave and come to. -/
def movedBlocks (s0 s : State) : List (Nat × Nat × Nat) :=
  (List.range 128).filterMap fun b => match ownPhys s0 b, ownPhys s b with
    | some p, some q => if p = q then none else some (b, p, q)
    | _, _ => none

theorem mem_movedBlocks {s0 s : State} {m : Nat × Nat × Nat} (h : m ∈ movedBlocks s0 s) :
    m.1 < 128 ∧ ownPhys s0 m.1 = some m.2.1 ∧ ownPhys s m.1 = some m.2.2 ∧ m.2.1 ≠ m.2.2 := by
  obtain ⟨b, hb, e⟩ := List.mem_filterMap.mp h
  split at e
  · next p q hp hq =>
    split at e
    · cases e
    · next hne =>
      cases e
      exact ⟨List.mem_range.mp hb, hp, hq, hne⟩
  · cases e

/-- The stores leave their positions. -/
def storesLeft (s : State) (l : List (Nat × Nat × Nat)) : State := l.foldl (fun s m => moveStore s m.1 (idleBlk m.2.1)) s

/-- The store of one position comes to it. -/
def storeTaken (s0 t : State) (m : Nat × Nat × Nat) : State :=
  cicRise s0 (showTwinStop (moveStore t (idleBlk m.2.2) m.1) m.1) (64 + m.1)

theorem rehome_eq (s0 s : State) : rehome s0 s =
    (movedBlocks s0 s).foldl (storeTaken s0) (storesLeft s (movedBlocks s0 s)) := rfl

theorem showTwinStop_within (s : State) (b : Nat) : Within [] (· = R.ARR_COLMAP b) s (showTwinStop s b) := Within.refl.setB rfl

theorem storeTaken_stores (s0 t : State) (m : Nat × Nat × Nat) :
    Within [.epochs] sideReg (moveStore t (idleBlk m.2.2) m.1) (storeTaken s0 t m) :=
  ((showTwinStop_within _ m.1).mono (fun _ e => e ▸ colmap_sideReg _) (by decide)).andThen (cicRise_within s0 _ _) (by decide)
    fun _ => sideReg_cicReg

theorem rehome_within (s0 s : State) : Within storeParts sideReg s (rehome s0 s) := by
  rw [rehome_eq]
  have h : Within storeParts sideReg s (storesLeft s (movedBlocks s0 s)) := Within.refl.foldl fun m h => h.trans (moveStore_within _ _ _)
  exact h.foldl fun m h => (h.trans (moveStore_within _ _ _)).andThen (storeTaken_stores s0 _ m) (by decide) fun _ => id

/-- What no move of a store changes, the holders leave. -/
theorem rehome_keeps {β : Type} {P : State → β} {s0 s : State}
    (hP : ∀ u m, m ∈ movedBlocks s0 s → P (moveStore u m.1 (idleBlk m.2.1)) = P u ∧ P (moveStore u (idleBlk m.2.2) m.1) = P u)
    (hc : ∀ u v, v.cells = u.cells → v.mem = u.mem → P v = P u) : P (rehome s0 s) = P s := by
  rw [rehome_eq]
  have h : P (storesLeft s (movedBlocks s0 s)) = P s :=
    List.foldlRecOn (motive := fun u => P u = P s) _ _ rfl fun u hu m hm => ((hP u m hm).1).trans hu
  refine List.foldlRecOn (motive := fun u => P u = P s) _ _ h fun u hu m hm => ?_
  have w := storeTaken_stores s0 u m
  exact (hc _ _ (w.cells (by decide)) (w.mem (by decide))).trans ((hP u m hm).2.trans hu)

theorem idleBlk_ge (p : Nat) : 33554432 ≤ idleBlk p := by
  have : idleFrom = 33554432 := by norm_num [idleFrom]
  unfold idleBlk
  omega

/-- A position that keeps its physical block keeps the planes there. -/
theorem cellAt_rehome {s0 s : State} (hx : x < 128) (h : ownPhys s x = ownPhys s0 x) {i : Nat} (hi : i < 16384) :
    cellAt (rehome s0 s) x i = cellAt s x i := by
  refine rehome_keeps (P := fun u => cellAt u x i) (fun u m hm => ?_) fun u v hc _ => by rw [cellAt, hc, cellAt]
  obtain ⟨-, hp, hq, hne⟩ := mem_movedBlocks hm
  have hm1 : x ≠ m.1 := by
    rintro rfl
    exact hne (Option.some.inj (hp.symm.trans (h.symm.trans hq)))
  have h1 := idleBlk_ge m.2.1
  have h2 := idleBlk_ge m.2.2
  exact ⟨cellAt_moveStore u hm1 (by omega) hi, cellAt_moveStore u (by omega) hm1 hi⟩

/-- An address in the window of no position that moves, and of no block without a position, keeps its digit. -/
theorem digit_rehome {s0 s : State} {a : Nat} (hm : ∀ m ∈ movedBlocks s0 s, ¬ inWinOf m.1 a) (ha : a < bwin idleFrom) :
    memDigit (rehome s0 s).mem a = memDigit s.mem a := by
  have hid : ∀ p, ¬ inWinOf (idleBlk p) a := fun p h => by
    have := h.1
    unfold idleBlk bwin at this
    unfold bwin at ha
    omega
  exact rehome_keeps (P := fun u => memDigit u.mem a)
    (fun u m hmem => ⟨digit_moveStore u (hm m hmem) (hid _), digit_moveStore u (hid _) (hm m hmem)⟩) fun u v _ hc => by rw [hc]

end Sys2Proof.Machine
end

section
/-! SUPPORT. The maps that APPLY computes and writes (R67, R76), and what depends on them. -/

namespace Sys2Proof.Machine

variable {s t : State} {L : ImgLoad} {c : Settings} {b : Nat}

/-! ### Each region has one map -/

/-- The keys of a map rise strictly. -/
def KeysRise {α : Type} (m : List (Nat × α)) : Prop := (m.map Prod.fst).Pairwise (· < ·)

theorem keysRise_foldl_put {α β : Type} {l : List β} {k : β → Nat} {v : β → α} {m : List (Nat × α)} (h : KeysRise m) :
    KeysRise (l.foldl (fun m e => mapPut (k e) (v e) m) m) :=
  List.foldlRecOn (motive := KeysRise) l _ h fun _ h _ _ => sorted_mapPut h

theorem KeysRise.eq_of_key {α : Type} {m : List (Nat × α)} (h : KeysRise m) {e f : Nat × α} (he : e ∈ m) (hf : f ∈ m)
    (hk : e.1 = f.1) : e = f :=
  List.inj_on_of_nodup_map (List.Pairwise.imp (fun hlt => Nat.ne_of_lt hlt) h) he hf hk

theorem sparing_keysRise {maps : List (Nat × Word)} (h : sparing s L c = .ok maps) : KeysRise maps := by
  unfold sparing at h
  extract_lets go at h
  have hgo : ∀ m lent, go = .ok (m, lent) → KeysRise m := by
    refine List.foldlRecOn (motive := fun x => ∀ m lent, x = Except.ok (m, lent) → KeysRise m) _ _ (fun m lent e => ?_)
      fun x h g _ m lent e => ?_
    · cases e
      exact List.Pairwise.nil
    · split at e
      · cases e
      · next m0 lent0 =>
        split at e
        · cases e
          exact h _ _ rfl
        · split at e
          · cases e
          · cases e
            exact sorted_mapPut (h _ _ rfl)
  clear_value go
  cases go with
  | error e => cases h
  | ok x =>
    cases h
    exact keysRise_foldl_put (hgo x.1 x.2 rfl)

/-! ### They are written -/

def mapsWritten (s : State) (maps : List (Nat × Word)) : State := maps.foldl (fun s e => setRg s (R.BSW_MAP e.1) e.2.toNat) s

theorem mapsWritten_within (s : State) (maps : List (Nat × Word)) :
    Within [] (fun a => ∃ g, a = R.BSW_MAP g) s (mapsWritten s maps) := Within.refl.foldl fun e h => h.setRg ⟨e.1, rfl⟩

theorem rg_mapsWritten {maps : List (Nat × Word)} (h : KeysRise maps) {e : Nat × Word} (he : e ∈ maps) (s : State) :
    rg (mapsWritten s maps) (R.BSW_MAP e.1) = e.2.toNat := by
  refine foldl_settles (P := fun t => rg t (R.BSW_MAP e.1) = e.2.toNat) (fun t => ?_) (fun t f hf hne ht => ?_) he s
  · rw [rg_setRg_same, Nat.mod_eq_of_lt e.2.isLt]
  · rw [rg_setRg_other _ fun hk => hne (h.eq_of_key hf he (bswMap_inj hk.symm)), ht]

/-! ### What follows from the maps -/

theorem blockCur_eq (h : SameHolders s t) (hd : ∀ d, d < 151 → rg t (R.PC_DOM d) = rg s (R.PC_DOM d)) (hb : b < 128) :
    blockCur t b = blockCur s b := by
  rw [blockCur, h.holder, blockCur]
  split
  · next p hp => exact rgF_of_rg (hd p (holder_lt_151 hb hp)) _
  · rfl

theorem ownPhys_eq (h : SameHolders s t) (hf : holderCode s b / 16 = 2 → ∀ k, mapGet k b t.foldHome = mapGet k b s.foldHome) :
    ownPhys t b = ownPhys s b := by
  rw [ownPhys, memPhys, h.holderCode, h.holder, ownPhys, memPhys]
  split
  · next hc => rw [hf hc.2]
  · rfl

theorem sameHolders_of_within {F : List Piece} {A : Nat → Prop} (w : Within F A s t) (hA : ∀ g, ¬ A (R.BSW_MAP g)) : SameHolders s t :=
  fun g => w.regs _ (hA g)

theorem contains_loadRegions (L : ImgLoad) (g : Nat) : (loadRegions L).contains g = L.affected.getLsbD g := by
  rw [Bool.eq_iff_iff, List.contains_iff_mem, mem_loadRegions]
  exact ⟨And.right, fun h => ⟨BitVec.lt_of_getLsbD h, h⟩⟩

/-- Where the folded positions of the regions gs keep their memories is forgotten for those that are folded no more. -/
def homesKept (s : State) (gs : List Nat) : State :=
  { s with foldHome := s.foldHome.filter fun e => !gs.contains (e.1 / 8) || holderCode s e.1 / 16 == 2 }

theorem homesKept_within (s : State) (gs : List Nat) : Within [.foldHome] (fun _ => False) s (homesKept s gs) :=
  Within.refl.put .foldHome (by decide)

theorem ownPhys_homesKept (s : State) (gs : List Nat) (b : Nat) : ownPhys (homesKept s gs) b = ownPhys s b := by
  refine ownPhys_eq (sameHolders_of_within (homesKept_within s gs) fun _ => id) fun hc k => ?_
  have e : (homesKept s gs).foldHome = mapDrop (fun x => !(!gs.contains (x / 8) || holderCode s x / 16 == 2)) s.foldHome := by
    simp only [homesKept, mapDrop, Bool.not_not]
  rw [e, mapGet_drop, if_neg (by simp [hc])]

end Sys2Proof.Machine
end

section
/-! SUPPORT. APPLY of a load that has a sparing map (R76). -/

namespace Sys2Proof.Machine

variable {s t : State} {L : ImgLoad} {c : Settings} {maps : List (Nat × Word)}

/-! ### The steps -/

/-- The versions of partitions show v. -/
def versionsShown (s : State) (ns : List Nat) (v : Nat) : State := ns.foldl (fun s n => setRg s (R.IMG_PVER n) v) s

/-- The settings, the region map and the versions of the load are in force. -/
def settingsTaken (s : State) (L : ImgLoad) (c : Settings) : State :=
  versionsShown (withMap { versionsShown s L.replaced 0 with cfg := c } L.affected L.owner) (loadParts L) L.version.toNat

/-- The planes of the powered blocks of the regions gs are cleared. -/
def planesCleared (s : State) (gs : List Nat) : State :=
  { s with cells := mapDrop (fun k => gs.contains (k / 16384 / 8) && blockCur s (k / 16384) != 5) s.cells }

/-- Router g begins to hold credits. -/
def recfgOn (s : State) (g : Nat) : State :=
  setB { s with mesh := { s.mesh with recfg := mapPut g s.nclk s.mesh.recfg } } (R.RT_LINK g) R.RT_LINK_RECFG true

theorem applyRoutes_within (s : State) (c : Settings) (mine : Nat → Bool) (full : Bool) :
    Within [] sideReg s (applyRoutes s c mine full) :=
  Within.refl.foldlMem fun i hi h => by
    have hi := List.mem_range.mp hi
    have hp : sideReg (R.CIC_PEND (i / 64)) := by unfold sideReg R.CIC_PEND chipCtl; omega
    have ha : sideReg (R.CIC_ACT (i / 64)) := by unfold sideReg R.CIC_ACT chipCtl; omega
    have hm : sideReg (R.CIC_MASK (i / 64)) := by unfold sideReg R.CIC_MASK chipCtl; omega
    have hr : sideReg (R.CIC_ROUTE i) := by unfold sideReg R.CIC_ROUTE chipCtl; omega
    exact h.unless fun h => (h.when fun h => ((h.setF hp).setF ha).setF hm).when (·.setRg hr)

theorem showSeqId_within (s : State) (b : Nat) : Within [] sideReg s (showSeqId s b) := by
  have hb : sideReg (R.SEQ_ID b) := sideReg_of_mod (by unfold R.SEQ_ID bwin; omega)
  have h : Within [] sideReg s (showHolder s b) := Within.refl.setF hb
  exact (((h.setF hb).setB hb).setF hb).setF hb

theorem sideReg_region {g : Nat} (h : g < 16) : sideReg (R.PC_RGN g) := by unfold sideReg R.PC_RGN chipCtl; omega

theorem sideReg_geom (g : Nat) : sideReg (R.ORN_GEOM g) := sideReg_of_mod (by unfold R.ORN_GEOM gwin; omega)

theorem applyClock_within (s : State) (c : Settings) {g : Nat} (hg : g < 16) : Within [.pwr] sideReg s (applyClock s c g) := by
  have hr := sideReg_region hg
  unfold applyClock
  extract_lets r a s1 s2
  have h1 : Within [.pwr] sideReg s s1 := ((Within.refl.setF hr).setF hr).setF hr
  have h2 : Within [.pwr] sideReg s s2 := h1.setB hr
  exact h2.put .pwr (by decide)

theorem applyDiv_within (s : State) {g : Nat} (hg : g < 16) : Within [.pwr] sideReg s (applyDiv s g) := by
  have hr := sideReg_region hg
  unfold applyDiv
  extract_lets k p s1
  have h1 : Within [.pwr] sideReg s s1 := Within.refl.put .pwr (by decide)
  exact (h1.setF hr).setF hr

theorem applyCascade_within (s : State) : Within [] sideReg s (applyCascade s) := by
  have hr : sideReg R.REIN_ID := by unfold sideReg R.REIN_ID chipCtl; omega
  unfold applyCascade
  extract_lets c w i l a s1 s2 h
  have h1 : Within [] sideReg s s1 := ((Within.refl.setF hr).setF hr).setF hr
  have h2 : Within [] sideReg s s2 := (h1.setF hr).setF hr
  exact h2.branch (fun h => (h.setF hr).setF hr) fun h => (h.setF hr).setF hr

/-- The parts that APPLY changes beside the planes, the memories and the settings. -/
def lateParts : List Piece := [.stores, .mesh, .out]

/-- What clocks, voltage, cascade and geometry take from the settings, gs and ns being the regions and partitions of the load. -/
def clocksTaken (s : State) (L : ImgLoad) (c : Settings) (gs ns : List Nat) : State :=
  let s := ((List.range 128).filter fun b => gs.contains (b / 8)).foldl showSeqId s
  let s := gs.foldl (fun s g => if assigned s g then applyClock s c g else s) s
  let s := (List.range 16).foldl (fun s g => if assigned s g && (divMates s g).any L.affected.getLsbD then applyDiv s g else s) s
  let s := commandVolt s
  let s := if L.partial_ then s else applyCascade s
  let s := gs.foldl (fun s g => if assigned s g then s else setRg s (R.ORN_GEOM g) 0) s
  ns.foldl (fun s n => regeom s n false) s

/-- The shadows of the regions gs are rewritten, and the tags of requests that are gone are freed. -/
def shadowsKept (s : State) (gs : List Nat) (p : MeshReq → Bool) : State :=
  let s := ((List.range 128).filter fun b => gs.contains (b / 8)).foldl csKeep s
  freeTags s p

theorem execImageApply_eq (hi : s.img = some L) (hp : phase s = 5) (hc : L.staged = some c) (hs : sparing s L c = .ok maps) :
    ∃ mine p, exec .imageApply s = .next (setPhase ((loadRegions L).foldl recfgOn (shadowsKept (planesCleared
      (clocksTaken (homesKept (rehome s (mapsWritten (applyRoutes (settingsTaken s L c) c mine (!L.partial_)) maps)) (loadRegions L))
        L c (loadRegions L) (loadParts L)) (loadRegions L)) (loadRegions L) p)) 6) := by
  change ∃ mine p, execImageApply s = _
  unfold execImageApply
  simp -zeta only [hi, hc]
  rw [if_neg (not_not.mpr hp)]
  simp -zeta only [hs]
  exact ⟨_, _, rfl⟩

/-! ### Their footprints -/

theorem clocksTaken_within (s : State) (L : ImgLoad) (c : Settings) {gs : List Nat} (hg : ∀ g ∈ gs, g < 16) (ns : List Nat) :
    Within [.pwr, .out] sideReg s (clocksTaken s L c gs ns) := by
  unfold clocksTaken
  extract_lets s1 s2 s3 s4 s5 s6
  have h1 : Within [.pwr, .out] sideReg s s1 := Within.refl.foldl fun b h => h.andThen (showSeqId_within _ b) (by decide) fun _ => id
  have h2 : Within [.pwr, .out] sideReg s s2 := h1.foldlMem fun g hm h =>
    h.when fun h => h.andThen (applyClock_within _ c (hg g hm)) (by decide) fun _ => id
  have h3 : Within [.pwr, .out] sideReg s s3 := h2.foldlMem fun g hm h =>
    h.when fun h => h.andThen (applyDiv_within _ (List.mem_range.mp hm)) (by decide) fun _ => id
  have hv : sideReg R.PC_VF := by unfold sideReg R.PC_VF chipCtl; omega
  have h4 : Within [.pwr, .out] sideReg s s4 := h3.andThen (commandVolt_within _) (by decide) fun _ e => e ▸ hv
  have h5 : Within [.pwr, .out] sideReg s s5 := h4.unless fun h => h.andThen (applyCascade_within _) (by decide) fun _ => id
  have h6 : Within [.pwr, .out] sideReg s s6 := h5.foldl fun g h => h.unless (·.setRg (sideReg_geom g))
  exact h6.foldl fun n h => h.andThen (regeom_within _ n false) (by decide) fun _ ⟨g, _, e⟩ => e ▸ sideReg_geom g

theorem csKeep_within (s : State) (b : Nat) : Within [.stores] (fun _ => False) s (csKeep s b) := Within.refl.setStores (by decide)

theorem shadowsKept_within (s : State) (gs : List Nat) (p : MeshReq → Bool) : Within lateParts sideReg s (shadowsKept s gs p) := by
  unfold shadowsKept
  extract_lets s1
  have h1 : Within lateParts sideReg s s1 := Within.refl.foldl fun b h => h.andThen (csKeep_within _ b) (by decide) fun _ => False.elim
  exact h1.andThen (freeTags_within _ p) (by decide) fun _ => sideReg_sweepReg

theorem recfgOn_within (s : State) (g : Nat) : Within [.mesh] (· = R.RT_LINK g) s (recfgOn s g) := by
  have h : Within [.mesh] (· = R.RT_LINK g) s { s with mesh := { s.mesh with recfg := mapPut g s.nclk s.mesh.recfg } } :=
    Within.refl.put .mesh (by decide)
  exact h.setB rfl

theorem recfgsOn_within {gs : List Nat} (hg : ∀ g ∈ gs, g < 16) (s : State) : Within [.mesh] sideReg s (gs.foldl recfgOn s) :=
  Within.refl.foldlMem fun g hm h => h.andThen (recfgOn_within _ g) (by decide) fun _ e => e ▸ sideReg_router (hg g hm)

theorem rtLink_inj {g h : Nat} (hg : g < 16) (hh : h < 16) (e : R.RT_LINK g = R.RT_LINK h) : g = h := by
  unfold R.RT_LINK rwin at e
  rw [if_pos hg, if_pos hh] at e
  omega

/-- Every router under load shows RECFG. -/
theorem recfgsOn_shows {gs : List Nat} (hg : ∀ g ∈ gs, g < 16) {g : Nat} (h : g ∈ gs) (s : State) :
    rgB (gs.foldl recfgOn s) (R.RT_LINK g) R.RT_LINK_RECFG = true := by
  refine foldl_settles (f := recfgOn) (P := fun t => rgB t (R.RT_LINK g) R.RT_LINK_RECFG = true) (fun t => ?_)
    (fun t x hx hne ht => ?_) h s
  · rw [recfgOn, rgB_setB_same _ _ (by decide) rfl]
  · rw [(recfgOn_within t x).rgB fun e => hne (rtLink_inj (hg g h) (hg x hx) e).symm, ht]

/-! ### The settings and the region map -/

theorem versionsShown_within (s : State) (ns : List Nat) (v : Nat) :
    Within [] (fun a => ∃ n ∈ ns, a = R.IMG_PVER n) s (versionsShown s ns v) :=
  Within.refl.foldlMem fun n hn h => h.setRg ⟨n, hn, rfl⟩

theorem pver_ne_map (n : Nat) : R.IMG_STATUS ≠ R.IMG_PVER n ∧ R.IMG_REGMAP ≠ R.IMG_PVER n := by
  unfold R.IMG_STATUS R.IMG_REGMAP R.IMG_PVER
  omega

theorem rg_versionsShown {ns : List Nat} {n : Nat} (hn : n ∈ ns) (s : State) (v : Nat) :
    rg (versionsShown s ns v) (R.IMG_PVER n) = v % 2 ^ 64 := by
  refine foldl_settles (P := fun t => rg t (R.IMG_PVER n) = v % 2 ^ 64) (fun t => ?_) (fun t x hx hne ht => ?_) hn s
  · rw [rg_setRg_same]
  · rw [rg_setRg_other _ fun e => hne (by unfold R.IMG_PVER at e; omega), ht]

/-- The registers that show the image: versions, ASSIGNED and the region map. -/
def shownReg (L : ImgLoad) (a : Nat) : Prop := (∃ n, (n ∈ L.replaced ∨ n ∈ loadParts L) ∧ a = R.IMG_PVER n) ∨ mapReg a

theorem settingsTaken_within (s : State) (L : ImgLoad) (c : Settings) : Within [.cfg] (shownReg L) s (settingsTaken s L c) := by
  have h1 : Within [.cfg] (shownReg L) s (versionsShown s L.replaced 0) :=
    (versionsShown_within s _ 0).mono (fun _ ⟨n, hn, e⟩ => .inl ⟨n, .inl hn, e⟩) (by decide)
  have h2 : Within [.cfg] (shownReg L) s { versionsShown s L.replaced 0 with cfg := c } := h1.put .cfg (by decide)
  exact (h2.andThen (withMap_within _ _ _) (by decide) fun _ => .inr).andThen (versionsShown_within _ _ _) (by decide)
    fun _ ⟨n, hn, e⟩ => .inl ⟨n, .inr hn, e⟩

theorem cfg_settingsTaken (s : State) (L : ImgLoad) (c : Settings) : (settingsTaken s L c).cfg = c := by
  rw [settingsTaken, (versionsShown_within _ _ _).cfg (by decide), (withMap_within _ _ _).cfg (by decide)]

theorem partOfRegion_eq {g : Nat} (hs : rgF t R.IMG_STATUS R.IMG_STATUS_ASSIGNED = rgF s R.IMG_STATUS R.IMG_STATUS_ASSIGNED)
    (hm : rg t R.IMG_REGMAP = rg s R.IMG_REGMAP) : partOfRegion t g = partOfRegion s g := by
  rw [partOfRegion, assigned, hs, hm, partOfRegion, assigned]

theorem partOfRegion_settingsTaken (ho : ∀ e ∈ L.owner, e.2 < 16) {g : Nat} (h : L.affected.getLsbD g = true) (s : State) (c : Settings) :
    partOfRegion (settingsTaken s L c) g = if mapHas g L.owner then some (mapGet 0 g L.owner) else none := by
  have w := versionsShown_within (withMap { versionsShown s L.replaced 0 with cfg := c } L.affected L.owner) (loadParts L) L.version.toNat
  rw [settingsTaken, partOfRegion_eq (w.rgF (fun ⟨n, _, e⟩ => (pver_ne_map n).1 e) _) (w.regs _ fun ⟨n, _, e⟩ => (pver_ne_map n).2 e)]
  exact (partOfRegion_withMap ho h _).2

theorem version_settingsTaken {n : Nat} (hn : n ∈ loadParts L) (s : State) (c : Settings) :
    rg (settingsTaken s L c) (R.IMG_PVER n) = L.version.toNat := by
  rw [settingsTaken, rg_versionsShown hn, Nat.mod_eq_of_lt (Nat.lt_trans L.version.isLt (by decide))]

end Sys2Proof.Machine
end

section
/-! SUPPORT. APPLY as the statement of image loads has it (R75, R76). -/

namespace Sys2Proof.Machine

/-- The parts that APPLY changes beside the settings. -/
def applyParts : List Piece := .foldHome :: .pwr :: .mesh :: .out :: storeParts

/-- How APPLY goes from s to t by the settings, the routes (u), the maps, the holders and clocks (v), the planes, and the rest (w). -/
structure Applies (s : State) (L : ImgLoad) (c : Settings) (maps : List (Nat × Word)) (u v w t : State) : Prop where
  routes : Within [] sideReg (settingsTaken s L c) u
  clocks : Within [.pwr, .out] sideReg (homesKept (rehome s (mapsWritten u maps)) (loadRegions L)) v
  rest : Within lateParts sideReg (planesCleared v (loadRegions L)) w
  routers : t = setPhase ((loadRegions L).foldl recfgOn w) 6

section
variable {s u v w t : State} {L : ImgLoad} {c : Settings} {maps : List (Nat × Word)} {b i : Nat}

theorem exec_imageApply_applies (hi : s.img = some L) (hp : phase s = 5) (hc : L.staged = some c) (hs : sparing s L c = .ok maps) :
    ∃ u v w t, exec .imageApply s = .next t ∧ Applies s L c maps u v w t := by
  obtain ⟨mine, p, e⟩ := execImageApply_eq hi hp hc hs
  exact ⟨_, _, _, _, e, applyRoutes_within _ _ _ _, clocksTaken_within _ _ _ (fun g hg => (mem_loadRegions.mp hg).1) _,
    shadowsKept_within _ _ _, rfl⟩

theorem planesCleared_within (s : State) (gs : List Nat) : Within [.cells] (fun _ => False) s (planesCleared s gs) :=
  Within.refl.put .cells (by decide)

theorem setPhase_within (s : State) (p : Nat) : Within [] (· = R.IMG_STATUS) s (setPhase s p) := Within.refl.setF rfl

/-- What APPLY does last. -/
theorem Applies.late (h : Applies s L c maps u v w t) :
    Within lateParts (fun a => sideReg a ∨ a = R.IMG_STATUS) (planesCleared v (loadRegions L)) t := by
  rw [h.routers]
  exact ((h.rest.mono (fun _ => .inl) (by decide)).andThen (recfgsOn_within (fun g hg => (mem_loadRegions.mp hg).1) w) (by decide)
    fun _ => .inl).andThen (setPhase_within _ 6) (by decide) fun _ => .inr

/-- What APPLY does once the holders are in force. -/
theorem Applies.afterHolders (h : Applies s L c maps u v w t) :
    Within (.cells :: .pwr :: lateParts) (fun a => sideReg a ∨ a = R.IMG_STATUS)
      (homesKept (rehome s (mapsWritten u maps)) (loadRegions L)) t :=
  ((h.clocks.mono (fun _ => .inl) (by decide)).andThen (planesCleared_within v _) (by decide) fun _ => False.elim).andThen h.late
    (by decide) fun _ => id

/-- What APPLY does once the maps are written. -/
theorem Applies.afterMaps (h : Applies s L c maps u v w t) :
    Within applyParts (fun a => sideReg a ∨ a = R.IMG_STATUS) (mapsWritten u maps) t :=
  (((rehome_within s (mapsWritten u maps)).mono (fun _ => .inl) (by decide)).andThen (homesKept_within _ (loadRegions L)) (by decide)
    fun _ => False.elim).andThen h.afterHolders (by decide) fun _ => id

theorem status_not_side : R.IMG_STATUS ≠ R.IMG_REGMAP ∧ ∀ g, R.BSW_MAP g ≠ R.IMG_STATUS := by
  refine ⟨by decide, fun g => ?_⟩
  unfold R.BSW_MAP gwin R.IMG_STATUS chipCtl
  omega

/-- A register of the image engine but IMG_STATUS reads as the settings left it. -/
theorem Applies.image (h : Applies s L c maps u v w t) {a : Nat} (hl : 0x040000100000 ≤ a) (hh : a < 0x040000200000)
    (hne : a ≠ R.IMG_STATUS) : rg t a = rg (settingsTaken s L c) a := by
  have hs := not_sideReg_image hl hh
  rw [h.afterMaps.regs a fun e => e.elim hs hne, (mapsWritten_within u maps).regs a ?_, h.routes.regs a hs]
  rintro ⟨g, e⟩
  unfold R.BSW_MAP gwin at e
  omega

/-- So do the fields of IMG_STATUS but PHASE. -/
theorem Applies.status (h : Applies s L c maps u v w t) {f : Fld} (hf : f.hi < 8 ∨ 11 < f.lo) :
    rgF t R.IMG_STATUS f = rgF (settingsTaken s L c) R.IMG_STATUS f := by
  have hs : ¬ sideReg R.IMG_STATUS := not_sideReg_image (by decide) (by decide)
  rw [h.routers, setPhase, rgF_setF_field _ _ (by decide) hf.symm, (recfgsOn_within (fun g hg => (mem_loadRegions.mp hg).1) w).rgF hs,
    h.rest.rgF hs, (planesCleared_within v _).rgF id, h.clocks.rgF hs, (homesKept_within _ _).rgF id, (rehome_within s _).rgF hs,
    (mapsWritten_within u maps).rgF (fun ⟨g, e⟩ => status_not_side.2 g e.symm), h.routes.rgF hs]

theorem bswMap_not_side (g : Nat) : ¬ (sideReg (R.BSW_MAP g) ∨ R.BSW_MAP g = R.IMG_STATUS) :=
  fun e => e.elim (not_sideReg_bswMap g) (status_not_side.2 g)

theorem Applies.ownPhys (h : Applies s L c maps u v w t) (b : Nat) : ownPhys t b = ownPhys (mapsWritten u maps) b := by
  have hr := rehome_within s (mapsWritten u maps)
  rw [ownPhys_eq (sameHolders_of_within h.afterHolders bswMap_not_side) (fun _ k => by rw [h.afterHolders.foldHome (by decide)]),
    ownPhys_homesKept, ownPhys_eq (sameHolders_of_within hr not_sideReg_bswMap) (fun _ k => by rw [hr.foldHome (by decide)])]

theorem Applies.blockCur (h : Applies s L c maps u v w t) (hb : b < 128) : blockCur t b = blockCur v b :=
  (blockCur_eq (sameHolders_of_within h.late bswMap_not_side) (fun d hd => h.late.regs _ fun e => e.elim (not_sideReg_dom hd) (by
    unfold R.PC_DOM R.IMG_STATUS
    omega)) hb).trans
    (blockCur_eq (sameHolders_of_within (planesCleared_within v _) fun _ => id) (fun _ _ => rfl) hb)

/-- The planes of an affected, powered block are cleared; others are those that its holder brings. -/
theorem Applies.cellAt (h : Applies s L c maps u v w t) (hb : b < 128) (hi : i < 16384) : Machine.cellAt t b i =
    if L.affected.getLsbD (b / 8) = true ∧ Machine.blockCur t b ≠ 5 then {} else Machine.cellAt (rehome s (mapsWritten u maps)) b i := by
  have hk : (16384 * b + i) / 16384 = b := by omega
  rw [h.blockCur hb, Machine.cellAt, h.late.cells (by decide), planesCleared, mapGet_drop, hk, contains_loadRegions,
    h.clocks.cells (by decide)]
  simp only [Bool.and_eq_true, bne_iff_ne, ne_eq]
  rfl

/-- The memories are those that the holders bring. -/
theorem Applies.mem (h : Applies s L c maps u v w t) : t.mem = (rehome s (mapsWritten u maps)).mem := h.afterHolders.mem (by decide)

/-- What APPLY does before the holders are in force. -/
theorem Applies.before (h : Applies s L c maps u v w t) : Within [.cfg] (fun _ => True) s (mapsWritten u maps) :=
  (((settingsTaken_within s L c).mono (fun _ _ => trivial) (by decide)).andThen h.routes (by decide) fun _ _ => trivial).andThen
    (mapsWritten_within u maps) (by decide) fun _ _ => trivial

theorem Applies.cfg (h : Applies s L c maps u v w t) : t.cfg = c := by
  rw [h.afterMaps.cfg (by decide), (mapsWritten_within u maps).cfg (by decide), h.routes.cfg (by decide), cfg_settingsTaken]

theorem Applies.recfg (h : Applies s L c maps u v w t) {g : Nat} (hg : g ∈ loadRegions L) :
    rgB t (R.RT_LINK g) R.RT_LINK_RECFG = true := by
  rw [h.routers, (setPhase_within _ 6).rgB (a := R.RT_LINK g) fun e => image_ne_router (by decide) (by decide) (o := 0) (by decide) e.symm,
    recfgsOn_shows (fun g hg => (mem_loadRegions.mp hg).1) hg]

theorem Applies.bswMap (h : Applies s L c maps u v w t) (hk : KeysRise maps) {e : Nat × Word} (he : e ∈ maps) :
    rg t (R.BSW_MAP e.1) = e.2.toNat := by
  rw [h.afterMaps.regs _ (bswMap_not_side e.1), rg_mapsWritten hk he]

theorem Applies.version (h : Applies s L c maps u v w t) {n : Nat} (hlt : n < 16) (hn : n ∈ loadParts L) :
    rg t (R.IMG_PVER n) = L.version.toNat := by
  rw [h.image (by unfold R.IMG_PVER chipCtl; omega) (by unfold R.IMG_PVER chipCtl; omega) (pver_ne_map n).1.symm,
    version_settingsTaken hn]

theorem Applies.part (h : Applies s L c maps u v w t) (ho : ∀ e ∈ L.owner, e.2 < 16) {g : Nat} (hg : g ∈ loadRegions L) :
    partOfRegion t g = if mapHas g L.owner then some (mapGet 0 g L.owner) else none := by
  rw [partOfRegion_eq (h.status (by decide)) (h.image (by decide) (by decide) (by decide)),
    partOfRegion_settingsTaken ho (mem_loadRegions.mp hg).2]

theorem Applies.dram (h : Applies s L c maps u v w t) {a : Nat} (ha : a < 0x8000000000) : memDigit t.mem a = memDigit s.mem a := by
  rw [h.mem, digit_rehome (fun m _ hw => by unfold inWinOf bwin at hw; omega) (by unfold bwin; omega), h.before.mem (by decide)]

/-- A position that keeps its physical block keeps the planes that are not cleared. -/
theorem Applies.planes (h : Applies s L c maps u v w t) (hb : b < 128) (hown : Machine.ownPhys t b = Machine.ownPhys s b)
    (hkeep : L.affected.getLsbD (b / 8) = false ∨ Machine.blockCur t b = 5) (hi : i < 16384) :
    Machine.cellAt t b i = Machine.cellAt s b i := by
  rw [h.cellAt hb hi, if_neg, cellAt_rehome hb ((h.ownPhys b).symm.trans hown) hi, Machine.cellAt, h.before.cells (by decide),
    Machine.cellAt]
  rintro ⟨ha, hc⟩
  exact hkeep.elim (fun e => by rw [e] at ha; cases ha) hc

/-- And the memories of its window. -/
theorem Applies.window (h : Applies s L c maps u v w t) (hb : b < 128) (hown : Machine.ownPhys t b = Machine.ownPhys s b) {o : Nat}
    (ho : o < 0x1000000) : memDigit t.mem (bwin b + o) = memDigit s.mem (bwin b + o) := by
  have hid : idleFrom = 33554432 := by norm_num [idleFrom]
  rw [h.mem, digit_rehome (fun m hm hw => ?_) (by unfold bwin; omega), h.before.mem (by decide)]
  obtain ⟨-, hp, hq, hne⟩ := mem_movedBlocks hm
  have e : m.1 = b := by
    unfold inWinOf bwin at hw
    omega
  rw [e] at hp hq
  exact hne (Option.some.inj (hp.symm.trans (hown.symm.trans ((h.ownPhys b).trans hq))))

end

section
variable {s : State} {L : ImgLoad} {c : Settings} {maps : List (Nat × Word)}

theorem imageApply_settled (hi : s.img = some L) (hp : phase s = 5) (hc : L.staged = some c) (hs : sparing s L c = .ok maps)
    (ho : ∀ e ∈ L.owner, e.2 < 16) :
    ∃ t, exec .imageApply s = .next t ∧ phase t = 6 ∧ t.cfg = c
      ∧ (∀ e ∈ maps, rg t (R.BSW_MAP e.1) = e.2.toNat)
      ∧ (∀ a, a < 0x8000000000 → memDigit t.mem a = memDigit s.mem a)
      ∧ (∀ n ∈ loadParts L, rg t (R.IMG_PVER n) = L.version.toNat)
      ∧ (∀ g ∈ loadRegions L, partOfRegion t g = (if mapHas g L.owner then some (mapGet 0 g L.owner) else none)
          ∧ rgB t (R.RT_LINK g) R.RT_LINK_RECFG = true)
      ∧ ∀ b, b < 128 →
          (L.affected.getLsbD (b / 8) = true → blockCur t b ≠ 5 → ∀ i, i < 16384 → cellAt t b i = {})
          ∧ (ownPhys t b = ownPhys s b →
            ((L.affected.getLsbD (b / 8) = false ∨ blockCur t b = 5) → ∀ i, i < 16384 → cellAt t b i = cellAt s b i)
            ∧ ∀ o, o < 0x1000000 → memDigit t.mem (bwin b + o) = memDigit s.mem (bwin b + o)) := by
  obtain ⟨u, v, w, t, e, h⟩ := exec_imageApply_applies hi hp hc hs
  refine ⟨t, e, ?_, h.cfg, fun x hx => h.bswMap (sparing_keysRise hs) hx, fun a => h.dram, fun n hn => h.version (loadParts_lt ho hn) hn,
    fun g hg => ⟨h.part ho hg, h.recfg hg⟩, fun b hb => ⟨fun ha hcur i hi => ?_, fun hown => ⟨fun hkeep i => h.planes hb hown hkeep,
      fun o => h.window hb hown⟩⟩⟩
  · rw [h.routers, phase, setPhase, rgF_setF_same _ _ (by decide)]
    rfl
  · rw [h.cellAt hb hi, if_pos ⟨ha, hcur⟩]

end

/-- Settles O41: each phase of the engine by the lemma named after it. -/
theorem imageLoads : Obligations.ImageLoads := by
  unfold Obligations.ImageLoads
  refine ⟨fun s i => ⟨imgGo_busy i, fun hb calm r hr => imgGo_rejected i hb calm hr, imgGo_accepted i⟩, fun s L hi => ?_⟩
  intro gs ns f bad calm
  refine ⟨?drained, ?staged, ?bad, ?digest, ?unspared, ?apply, ?router, ?release⟩
  case drained => exact fun hp hw hc hd hn => imageHoldDrained_settled hi hp hw hc hd hn
  case staged => exact fun hp hb hn => imageFrame_staged hi hp hb hn
  case bad => exact fun hp calm r hb => imageFrame_bad hi hp calm hb
  case digest => exact fun hp hb hn hd => imageFrame_digest hi hp hb hn hd
  case unspared => exact fun c r hp calm hc hs => imageApply_unspared hi hp calm hc hs
  case apply => exact fun c maps hp hc hs ho _ _ => imageApply_settled hi hp hc hs ho
  case router => exact routerReconfig_settled
  case release => exact fun hp ht hr ho => imageRelease_settled hi hp (fun x e => by rw [e] at ht; exact ht) hr ho

end Sys2Proof.Machine
end
